-- ==== Sys2Proof/Word.lean ====
section
/-! DEFINITION. The machine's plainest words: bytes, and the widths the manual gives to fields (R10, R11). -/

namespace Sys2Proof

/-- One byte of memory or of a record (R11). -/
abbrev Byte := BitVec 8

/-- A 64-bit word: a descriptor quadword (R257), a port register (R250), a tell-tale command (R146). -/
abbrev Word64 := BitVec 64

/-- A 32-bit register of the host window (R324). -/
abbrev Word32 := BitVec 32

/-- A 16-byte message: sync message (R171), control message (R299), arrival notice (R213), link control (R298). -/
abbrev Msg := BitVec 128

end Sys2Proof
end

