-- ==== Sys2Proof/Syntax.lean ====
section
/-! DEFINITION. The commands of the block: one constructor per row of spec/opcode_table.json, with the operands that
say which object the step acts on and what a partner outside the block supplies. -/

namespace Sys2Proof

/-- An on-die endpoint position, rig[9:0] (R26). -/
abbrev Pos := Fin 1024
/-- A physical shroud port (R276). -/
abbrev PortNo := Fin 8
/-- A mailbox command slot (R326). -/
abbrev SlotNo := Fin 16

/-- The defining fields of a collective (R86, R120, R179): the bits of a descriptor on which every member must agree.
`q0` is QW0 [29:0] (`OPCODE`, formats, `PREC`, `RMODE`, `SCANOP`); `q1` and `q2` are QW1 and QW2 with the fields that may
differ (`SP_ABSENT`; `NTOK` and `TOK_BASE` of `ROUTE`) cleared. -/
structure Defining where
  q0 : BitVec 30
  q1 : BitVec 64
  q2 : BitVec 64
  deriving DecidableEq, Repr

/-- `XFLAGS` (R61, Table 2-4) and the three conversion counters (R83) of an operation, or of one step of it. -/
structure Tally where
  nx : Bool
  uf : Bool
  of : Bool
  dz : Bool
  nv : Bool
  sat : Nat
  flush : Nat
  nar : Nat
  deriving DecidableEq, Repr

/-- One element's value as it travels in the tree (Table 3-1): a value in the accumulation format A as its bits
(F32 in the low 32), with the rig index under `WITH_POS`; an integer (partial, bits, count, class word, key, level),
with the rig index; an `LSEM` pair; or the two window integers of P2 and P3. -/
inductive Elem where
  | flt (bits : BitVec 64) (pos : Nat)
  | int (v : Int) (pos : Nat)
  | pair (m s : BitVec 32)
  | win (w1 w2 : Int)
  deriving DecidableEq, Repr

/-- What one child sends up for one pass of a collective: the defining fields and the reef bit of its first flit (R86,
R398), a fault mark (R429), the mark that two sets of defining fields differ below (R86), the number of contributors below
(R109), the values (none: the child is absent, R31; of a scan or a `ROUTE` every contributor's values, R106, R188), the
per-tile flush words of `NSUM` (R130), and the flags and counters raised below (R62, R84). -/
structure UpMsg where
  defn : Defining
  pass : Nat
  reef : Bool
  fault : Bool
  clash : Bool
  ncontrib : Nat
  vals : Option (List Elem)
  flushes : List Nat
  tally : Tally
  deriving DecidableEq, Repr

/-- Completion and response statuses (R269, Table 9-13). -/
inductive CStatus where
  | ok | short | orphan | cancelled | unvisited | reefedPrec | widened
  | badDescriptor | badFormat | badContext | noResource | underflowSync | overfill
  | aborted | fault | timeout | notOwner
  deriving DecidableEq, Repr

/-- The final outcome of a collective as the root sends it down (R87): the status, flags, counters, operation value, the
element codes in `OFMT` of each element, and the positions under `WITH_POS`. A scan carries, in place of codes, the codes of each
member's own prefix, by rig index (R87, R106). -/
structure Result where
  status : CStatus
  tally : Tally
  opval : Nat
  codes : List Nat
  poss : List Nat
  scan : List (Nat × List Nat)
  deriving DecidableEq, Repr

/-- What comes down the tree to a member's port: the combined word of pass 1 per element or block and whether a precision
reef makes the next pass P1 (R95, R100, R124); the widening decision per block (R132) with the same choice (R134) and the codes of the
elements whose blocks are not widened; the final
result (R87); the totals and each member's exclusive prefixes of a `ROUTE` (R188), by rig index; or an outcome without a result
(R86, R88, R429, R430). -/
inductive DownMsg where
  | pass1 (words : List Nat) (asP1 : Bool)
  | widen (blocks : List Bool) (asP1 : Bool) (codes : List (Option Nat))
  | final (r : Result)
  | counts (totals : List Int) (prefixes : List (Nat × List Int))
  | ended (st : CStatus)
  deriving DecidableEq, Repr

/-- Where a tree flit comes from: the port of a member on this die (its contribution is in flight in the state), or input
`j` of the fold node `fnid` that this chip hosts, over the physical port `link`, with what the child sent; `flown` says that the
child had sent it before a let-fly ended its collective (R44). -/
inductive FlitSource where
  | onDie (p : Pos)
  | offDie (link : PortNo) (fnid : BitVec 21) (j : Fin 4) (m : UpMsg) (flown : Bool)
  deriving DecidableEq, Repr

/-- Where a down message comes from: this chip's own root decision, or the parent chip over physical port `link`. -/
inductive DownSource where
  | onDie
  | offDie (link : PortNo) (m : DownMsg)
  deriving DecidableEq, Repr

/-- Where an arrival notice comes from: the die (R213), or the VC4 buffer of physical port `link`. -/
inductive NoticeSource where
  | onDie
  | offDie (link : PortNo)
  deriving DecidableEq, Repr

/-- What a hoist message says (R231, R236): its sender, sequence number, channel and bytes; under a retry of a `BCAST`, the members that
are still missing, by their index in the group (R248). -/
structure HoistMsg where
  origin : BitVec 25
  hseq : BitVec 32
  chan : Fin 16
  data : List Byte
  only : Option (List Nat)
  deriving DecidableEq, Repr

/-- Where a hoist message that reaches a holding node comes from: the send numbered `id` of this chip, or another chip
over physical port `link`; in chip-list form with `HPOS` and the listed chips (R307). -/
inductive HoistSource where
  | onDie (id : Nat)
  | offDie (link : PortNo) (m : HoistMsg) (list : Option (Nat × List Nat))
  deriving DecidableEq, Repr

/-- Where a delivery report comes from: a holding node of this die, or physical port `link`, where it names the message
(sender and sequence number) and the target by rig index, and says delivered or missing. -/
inductive ReportSource where
  | onDie
  | offDie (link : PortNo) (origin : BitVec 25) (hseq : BitVec 32) (target : BitVec 25) (delivered : Bool)
  deriving DecidableEq, Repr

/-- The content of a flit on VC2 or VC3: a contribution or partial, the mark of a timer or of a fault, a down message, the four kinds
of hoist flit (R282, R307), and a flit that this chip only forwards (R305), with the mark of a link at a reef level that its stream has
crossed here (R398). The channel fields say which of the flits of its message it is. -/
inductive FlitBody where
  | up (m : UpMsg)
  | timeoutMark
  | faultMark
  | down (m : DownMsg)
  | hoistHeader (m : HoistMsg) (pos : Option Nat)
  | hoistData (bytes : List Byte)
  | hoistTargets (chips : List Nat)
  | hoistReport (origin : BitVec 25) (hseq : BitVec 32) (target : BitVec 25) (delivered : Bool)
  | transit (pay : BitVec 512) (reefed : Bool)
  deriving DecidableEq, Repr

/-- A link frame of 80 bytes: its 16-byte header and its 64-byte payload (R280). -/
structure Frame where
  hdr : BitVec 128
  pay : BitVec 512
  deriving DecidableEq, Repr

/-- What FEC decoding found in the codewords of a frame (R286, R321): nothing, errors that it corrected in this many codewords, or an
uncorrectable one. -/
inductive Fec where
  | clean
  | corrected (n : Nat)
  | failed
  deriving DecidableEq, Repr

/-- The units that fail, are tested and are spared (R349, R387, Table 13-4). -/
inductive UnitId where
  | node (n : Fin 72)
  | half (u : Fin 4)
  | root (u : Fin 2)
  | bank (b : Fin 68)
  | selector (u : Fin 64)
  | lane (u : Fin 96)
  | pool (u : Fin 3)
  deriving DecidableEq, Repr

/-- An on-die tree edge (Table 13-1): endpoint port to cluster node, row trunk, a splice bundle, or into a root unit. -/
inductive Edge where
  | port (p : Pos)
  | trunk (c : Fin 64)
  | splice (b : Fin 352)
  | half (u : Fin 4)
  | root (u : Fin 2)
  deriving DecidableEq, Repr

/-- What a SECDED check protects (Table 13-1). -/
inductive Protected where
  | word (w : BitVec 16)
  | channel (c : Fin 64) (ch : Fin 64)
  | entry (e : Fin 1048576)
  | segment (pool : Fin 3) (hold : Nat)
  | half (u : Fin 4)
  | root (u : Fin 2)
  deriving DecidableEq, Repr

/-- The read that returned poisoned data (R427). -/
inductive PoisonedBy where
  | collective (ctx epoch : Nat) (p : Pos)
  | combine (id token : Nat)
  | hoist (id : Nat)
  /-- The target list of the `MCAST` in a port's slot; the saddlebag entry of a token; the data that the mailbox command in a slot names. -/
  | targetList (p : Pos)
  | entry (id token : Nat)
  | commandData (slot : Fin 16)
  deriving DecidableEq, Repr

/-- The verdict of the security processor on a firmware image (R359): whether the signature holds, whether it is a
development signature, and the image's version and security version. -/
structure Verdict where
  sigOk : Bool
  development : Bool
  version : BitVec 32
  secVersion : BitVec 32
  deriving DecidableEq, Repr

/-- The regions and the feed identifier that Octain reports before `MH_READY` (R370, Table 14-10). -/
structure Regions where
  flash : Nat
  flashLen : Nat
  dump : Nat
  dumpLen : Nat
  dist : Nat
  feed : BitVec 32
  deriving DecidableEq, Repr

/-- The largest and the smallest `CN_NUMBER`, and bitmap CRC-32C, of the other present chips (R363). -/
structure CutOthers where
  maxNumber : Nat
  minNumber : Nat
  maxCrc : Nat
  minCrc : Nat
  deriving DecidableEq, Repr

/-- What the other present chips contribute to the agreement of phase A (R363): their largest reason, their largest u per context, and
their numbers and CRCs. On a chip that is alone nothing of it counts. -/
structure CutAgreement where
  reason : Nat
  xs : List (Nat × Nat)
  others : Option CutOthers
  deriving DecidableEq, Repr

/-- A segment of the IEEE 1687 network (R404): the chip's, a unit's, a lane's or a port's. -/
inductive Segment where
  | chip
  | unit (u : UnitId)
  | lane (p : PortNo) (lane : Fin 4)
  | port (p : PortNo)
  deriving DecidableEq, Repr

/-- What an access through the TAP does (R404, R405, R335, Table 13-8): it opens or closes a segment, uses an instrument, or reaches
the debug module of one of Masthead's two cores, whose registers are x0 to x31, pc, mcause, mtval and mepc. -/
inductive Instrument where
  | openSegment (g : Segment)
  | closeSegment (g : Segment)
  | status
  | logicBist (u : UnitId)
  | memoryBist (u : UnitId)
  | inject (u : UnitId)
  | injectSecded (w : Protected) (uncorrectable : Bool)
  | eyeMonitor (p : PortNo) (lane : Fin 4)
  | loopback (p : PortNo) (on : Bool)
  | haltMasthead
  | resumeMasthead
  | stepMasthead
  | readRegister (core : Fin 2) (r : Fin 36)
  | writeRegister (core : Fin 2) (r : Fin 36) (v : Word32)
  deriving DecidableEq, Repr

/-- The operand of `WAKE_EVENT`: which of the events of R416 wakes the block; the event itself is the command that follows. -/
inductive Wake where
  | portStore | doorbell | frame | timer | faultReport | endpointReset
  deriving DecidableEq, Repr

/-- What reaches a synchronization word in one cycle. -/
structure Arrivals where
  /-- By rig index, the issuers whose oldest command has reached the word, or, with true, whose oldest completion signal has. -/
  at_ : List (BitVec 25 × Bool)
  /-- The endpoints of this chip whose oldest posted `SIG` to another chip has taken effect by then. -/
  there : List (BitVec 25)
  deriving DecidableEq, Repr

/-- One of an endpoint's waits on a barrier channel: the `nth` of those that have a timeout. -/
structure TimedWait where
  pos : Pos
  nth : Fin 8
  deriving DecidableEq, Repr

/-- A break that comes in at a port. -/
structure OrphanAt where
  port : PortNo
  /-- The break comes from a lost arrival count (R394). -/
  lost : Bool
  deriving DecidableEq, Repr

/-- What a port sees when it looks for the marker. -/
structure BlocksAt where
  port : PortNo
  /-- The FEC blocks of four super-blocks (R278, R279). -/
  blocks : List (BitVec 257)
  deriving DecidableEq, Repr

/-- An access over the test access port. -/
structure TapAccess where
  instrument : Instrument
  /-- The TAP network is released (R404). -/
  released : Bool
  deriving DecidableEq, Repr

/-- The commands: the 182 rows of the table of operations and events, in its order. -/
inductive Instr where
  -- descriptors: port `p` reads the slot at `EP_SQ_HEAD` (R253), and it holds this operation
  | sum (p : Pos)
  | spsum (p : Pos)
  | nsum (p : Pos)
  | max (p : Pos)
  | min (p : Pos)
  | maxnum (p : Pos)
  | minnum (p : Pos)
  | amax (p : Pos)
  | amin (p : Pos)
  | band (p : Pos)
  | bor (p : Pos)
  | bxor (p : Pos)
  | count (p : Pos)
  | scanx (p : Pos)
  | scani (p : Pos)
  | lsem (p : Pos)
  | route (p : Pos)
  | tagRelease (p : Pos)
  | tagCancel (p : Pos)
  | combine (p : Pos)
  | uncombine (p : Pos)
  | gategrad (p : Pos)
  | bcast (p : Pos)
  | mcast (p : Pos)
  | hrecv (p : Pos)
  | hrecvWithdraw (p : Pos)
  | descriptorReadPoisoned (p : Pos)
  -- tell-tale commands: a store to `EP_TT_CMD` (R270) with this `TOP` and the bits [59:0] given
  | sig (p : Pos) (w : BitVec 60)
  | wait (p : Pos) (w : BitVec 60)
  | dec (p : Pos) (w : BitVec 60)
  | test (p : Pos) (w : BitVec 60)
  | init (p : Pos) (w : BitVec 60)
  | claim (p : Pos) (w : BitVec 60)
  | release (p : Pos) (w : BitVec 60)
  | arrive (p : Pos) (w : BitVec 60)
  | bwait (p : Pos) (w : BitVec 60)
  -- tell-tale engine
  | syncWordCycle (word : BitVec 16) (from_ : Arrivals)
  | waitTimeout (word : BitVec 16) (p : Pos)
  | barrierWaitTimeout (ch : Fin 64) (p : TimedWait)
  | releaseStep (ch : Fin 64)
  | fleetWaitExpiry (ch : Fin 64)
  | sigMessage (l : PortNo)
  | sigAck (l : PortNo)
  | barArrive (l : PortNo)
  | barRelease (l : PortNo)
  | barOrphan (l : OrphanAt)
  | barPrewarn (l : PortNo)
  | endpointReset (p : Pos)
  | rebindDone (p : Pos)
  -- collectives, named by context and epoch (R263)
  | treeFlit (ctx : Fin 4096) (epoch : Fin 65536) (src : FlitSource)
  | collectiveTimeout (ctx : Fin 4096) (epoch : Fin 65536) (p : Pos)
  | timeoutMark (ctx : Fin 4096) (epoch : Fin 65536)
  | resultAtPort (ctx : Fin 4096) (epoch : Fin 65536) (p : Pos) (src : DownSource)
  | completionWrite (p : Pos)
  | routeCountsResult (ctx : Fin 4096) (epoch : Fin 65536) (p : Pos) (src : DownSource)
  -- ledger, notices and combine lanes; an operation is named by its number of acceptance
  | tagQuarantineExpiry (slot : Fin 64)
  | noticePost (p : Pos) (hi : Word64)
  | noticeSend (p : Pos)
  | arrival (src : NoticeSource)
  | combineLaneBegin (id : Nat) (token : Nat)
  | rowWriteVisible (id : Nat) (token : Nat)
  | combineLimitExpiry (id : Nat)
  -- hoist
  | hoistCreditApply (p : Pos) (ch : Fin 16)
  | hoistAtHoldingNode (p : Pos) (src : HoistSource)
  | holdLimitExpiry (hold : Nat)
  | deliveryReport (id : Nat) (target : Nat) (src : ReportSource)
  | hoistReportLimitExpiry (id : Nat)
  | hoistSegmentFreed (pool : Fin 3) (ch : Fin 16)
  -- endpoint port registers
  | registerWrite (p : Pos) (ofs : BitVec 12) (v : Word64)
  | epSqCfg (p : Pos) (v : Word64)
  | epCqCfg (p : Pos) (v : Word64)
  | submissionDoorbell (p : Pos) (v : Word64)
  | completionDoorbell (p : Pos) (v : Word64)
  | epTtPop (p : Pos) (v : Word64)
  | epNqStat (p : Pos) (v : Word64)
  -- host window; `n` is the number of bytes stored
  | hostWindowWrite (ofs : BitVec 16) (n : Fin 9) (v : Word64)
  | hwDoorbell (v : Word32)
  | hwRspHead (v : Word32)
  | hwIrqMask (v : Word32)
  | ttInspectSel (v : Word32)
  -- mailbox: Masthead takes the rung slot, which holds this command
  | hello (n : SlotNo)
  | debugChallenge (n : SlotNo) (nonce : BitVec 288)
  | debugResponse (n : SlotNo) (verified : Bool)
  | debugLock (n : SlotNo)
  | topoSet (n : SlotNo)
  | topoSetComplete
  | topoRead (n : SlotNo)
  | groupDefine (n : SlotNo)
  | groupDelete (n : SlotNo)
  | contextBind (n : SlotNo)
  | contextRearm (n : SlotNo)
  | contextUnbind (n : SlotNo)
  | partnerSet (n : SlotNo)
  | policySet (n : SlotNo)
  | reefAllow (n : SlotNo)
  | cinch (n : SlotNo)
  | cinchAgreeResult (a : CutAgreement)
  | cinchDrained
  | cinchQuietRound (reason : Nat) (sent1 recv1 sent4 recv4 : Nat)
  | cinchCaptureDone (ok : Bool)
  | cinchCommitResult (reason : Nat)
  | cinchFlashCopyDone (ok : Bool)
  | cinchPhaseTimeout
  | restore (n : SlotNo)
  | testNode (n : SlotNo)
  | testComplete (u : UnitId) (pass : Bool) (signature : Word32)
  | calPortAdapt (n : SlotNo)
  | calPortRecalibrate (n : SlotNo)
  | calPortSetPhy (n : SlotNo)
  | calPortSetTaps (n : SlotNo)
  | spareMapRead (n : SlotNo)
  | countersRead (n : SlotNo)
  | syncInspect (n : SlotNo)
  | ledgerInspect (n : SlotNo)
  | dumpFetch (n : SlotNo)
  | fwUpdateLoad (n : SlotNo)
  | fwUpdateActivate (n : SlotNo)
  | fwUpdateCommit (n : SlotNo)
  | letFly (n : SlotNo)
  | powerStateActive (n : SlotNo)
  | powerStateDoze (n : SlotNo)
  | powerStateRetain (n : SlotNo)
  | powerStateOff (n : SlotNo)
  | wakeEvent (w : Wake)
  | railAck
  -- link layer; `fec` says what FEC decoding found (R286, R321)
  | frameSlot (l : PortNo)
  | idle (l : PortNo) (f : Frame) (fec : Fec)
  | data (l : PortNo) (f : Frame) (fec : Fec)
  | nak (l : PortNo) (f : Frame) (fec : Fec)
  | gcmtag (l : PortNo) (f : Frame) (fec : Fec)
  | lcInit (l : PortNo) (f : Frame) (fec : Fec)
  | lcInitAck (l : PortNo) (f : Frame) (fec : Fec)
  | lcReef (l : PortNo) (f : Frame) (fec : Fec)
  | lcReefAck (l : PortNo) (f : Frame) (fec : Fec)
  | superBlockLock (l : BlocksAt)
  | nakRepeatTimer (l : PortNo)
  | replayTimeout (l : PortNo)
  | lockLossTimeout (l : PortNo)
  | laneFailure (l : PortNo) (lane : Fin 4)
  | keyLoad (l : PortNo) (rx : Bool) (slot : Fin 2) (key : BitVec 256) (salt : Word32)
  -- VC0 messages, the oldest of their kind in the receive buffer of port `l`, and Masthead's timers
  | letFlyMessage (l : PortNo)
  | heartbeat (l : PortNo)
  | heartbeatSend
  | heartbeatMissing (primary : Fin 32768)
  | takeover (l : PortNo)
  | faultReport (l : PortNo)
  | feedQuery (l : PortNo)
  | feedReply (l : PortNo)
  | wordReadRelay (l : PortNo)
  | wordReadReply (l : PortNo)
  | relayTimeout
  -- faults; `n` counts the events of the unit within its window, this one included (R384)
  | residueError (u : UnitId) (plane : Fin 8) (aluLane : Fin 16)
  | flitCrcError (e : Edge) (n : Nat)
  | secdedError (w : Protected) (uncorrectable : Bool) (n : Nat)
  | wireParityError (n : Nat)
  | lockstepMismatch
  | rootPairMismatch (u : UnitId) (colls : List (Nat × Nat))
  | shadowMismatch (spare : Fin 8)
  | poisonedRead (r : PoisonedBy)
  | endpointCoreFailed (p : Pos) (spareCore : Bool)
  | rootPllUnlock
  | chipLost (chip : Fin 32768)
  | fillComplete (spare : Fin 8)
  | shadowRotation (spare : Fin 8)
  | backgroundUnitTest (u : UnitId)
  | portRecalibration (l : PortNo)
  | bankCopyDone (spare : Fin 4) (bad : List (Fin 16384))
  -- resets and start-up
  | coldReset (powerOn : Bool)
  | warmReset
  | blockReset
  | nodeReset (u : UnitId)
  | mbistDone (failed : List UnitId)
  | imageVerified (ok : Bool)
  | mhReady (r : Regions)
  | trialBootTimeout
  | rowReadReturn (id : Nat) (token : Nat)
  | hoistDeliveryVisible (delivery : Nat)
  | calibrationDone (l : PortNo)
  | fwImageLoaded (v : Verdict)
  | alignmentLockLoss (l : PortNo)
  | linkUpTimeout (l : PortNo)
  | tapInstrumentAccess (x : TapAccess)
  deriving DecidableEq, Repr

end Sys2Proof
end

