-- ==== Sys2Proof/Config.lean ====
section
/-! DEFINITION. What one implementation fixes and the manual does not, each a constant with no body: a claim about
one of them holds whatever it is. -/

namespace Sys2Proof

/-- The byte numbered `n` of the stream of free bytes: contents the manual calls undefined (R88, R136, R206, R244, R429).
State holds the number of the next one. DESIGN CHOICE, log 4. -/
opaque Config.freeByte : Nat → BitVec 8

/-- The fused die identifier `LC_DIE_ID`, `HR_DIE_ID`, `CH_DIE` (R298, R333, R375). DESIGN CHOICE, log 5. -/
opaque Config.dieId : BitVec 64

/-- The physical layer that Octain's board configuration gives physical port `p` (R337), coded as `LK_PHY`. DESIGN CHOICE, log 5. -/
opaque Config.boardPhy : Nat → BitVec 2

/-- The version of the firmware image in the slot that boots first (R333, `HR_FW_VER`). DESIGN CHOICE, log 5. -/
opaque Config.fwVersion : BitVec 32

/-- The security version of that image, also the first minimum (R333, R359). DESIGN CHOICE, log 5. -/
opaque Config.fwSecVersion : BitVec 32

/-- The 512 payload bits of a spar or hoist flit, as a function of the message and of the channel fields, which say which of its flits it
is: the manual gives no bit layout for them (R282 gives only the header's fields). DESIGN CHOICE, log 6. -/
opaque Config.flitPayload : FlitBody → BitVec 50 → BitVec 512

/-- How many flits of a hoist message follow its header, as the header says it (R307); the manual does not lay the header out. DESIGN
CHOICE, log 6. -/
opaque Config.headerFlits : BitVec 512 → Nat

/-- The payload of a first flit after a link at a reef level has set its reef bit (R398); the manual does not say which bit it is.
DESIGN CHOICE, log 6. -/
opaque Config.reefMarked : BitVec 512 → BitVec 512

/-- By how many levels the class of a group that leaves the chip exceeds the highest fold node that this chip's own
records show, for group number `g`: the block of R341 does not give it (R46, R273). DESIGN CHOICE, log 7. -/
opaque Config.classAbove : Nat → Nat

/-- How many members of group `g` have a lower rig index than this chip's, for a group that leaves the chip: the block of R341 does
not give it, and the bits of a `BCAST`'s delivery bitmap are numbered by it (R232). DESIGN CHOICE, log 27. -/
opaque Config.membersBelow : Nat → Nat

/-- The registers of Masthead's two cores that the dump's `S_MASTHEAD` section records (Table 12-6): byte `n`. DESIGN CHOICE, log 8. -/
opaque Config.mastheadByte : Nat → BitVec 8

end Sys2Proof
end

