-- ==== Sys2Proof/Machine/State.lean ====
section
/-! DEFINITION. The state of one chip's Rolrax: plain data, grouped by the classes of Table 14-8 (R423), so that a reset
empties a class by putting its reset value back. Tables with many like entries hold only the entries that differ from
their reset value, in one canonical form. -/

namespace Sys2Proof.Machine

open Sys2Proof

/-- A sparse table: keys strictly rising, no entry equal to what an unlisted key reads as (Machine/Ops.lean). -/
abbrev Tbl (α : Type) := List (Nat × α)

/-! ## Class 0: topology, groups, distance table -/

/-- A declared link, by logical port (Table 11-13). -/
structure LinkDecl where
  phys : Nat
  spare : Option Nat
  phy : Nat
  peer : Nat
  peerLlink : Nat
  prot : Bool
  delay : Nat
  peerDie : BitVec 64
  deriving DecidableEq, Repr

/-- One input of a fold node (Table 11-15). -/
structure FoldInput where
  child : Nat
  clink : Nat
  hlink : Nat
  sblink : Nat
  memb : Nat
  deriving DecidableEq, Repr

/-- The record of a fold node that this chip hosts, stands by for or feeds (Table 11-15). -/
structure FoldRec where
  fnid : BitVec 21
  host : Nat
  standby : Nat
  parent : Nat
  out : Nat
  outSb : Nat
  ins : List FoldInput
  deriving DecidableEq, Repr

/-- The record of a stream that this chip forwards (Table 11-15, R305). -/
structure TransitRec where
  fnid : BitVec 21
  txFnid : BitVec 21
  input : Nat
  inPort : Nat
  outPort : Nat
  deriving DecidableEq, Repr

/-- A group as this chip's block states it (R341). -/
structure Group where
  members : BitVec 1024
  nmemb : Nat
  nchip : Nat
  hops : Nat
  folds : List FoldRec
  transits : List TransitRec
  deriving DecidableEq, Repr

/-- An input of a fold node of this chip whose sender's node has passed to its standby (R309): the fold node, the input, the logical
port on which its frames come from then on, and the standby's chip. -/
structure Rehomed where
  fnid : BitVec 21
  input : Nat
  port : Nat
  chip : Nat
  deriving DecidableEq, Repr

/-- Class 0 of Table 14-8. -/
structure Topo where
  /-- `RIG_VALID`: a `TOPO_SET` that lists this chip has taken effect (R251). -/
  rigValid : Bool
  /-- rig[24:10] of this chip's endpoints (R27). -/
  chip : Nat
  /-- The chip numbers that `TB_PRESENT` lists, ascending (R28). -/
  present : List Nat
  /-- Logical port to declared link (R303, Table 11-13). -/
  links : Tbl LinkDecl
  /-- Chip number to the logical port of its route (`TB_ROUTE`, R305). -/
  routes : Tbl Nat
  /-- The groups defined on this chip (R341). -/
  groups : Tbl Group
  /-- `DT_GEN` of the distance table's header (R273). -/
  dtGen : BitVec 32
  /-- `DT_PUB` (Table 9-11). -/
  dtPub : Bool
  /-- Fold nodes whose standby has taken over (R309). -/
  takenOver : List (BitVec 21)
  /-- Inputs of this chip's fold nodes that come from a standby now (R309). -/
  rehomed : List Rehomed
  /-- Chips that have been lost (R311). -/
  lostChips : List Nat
  deriving DecidableEq, Repr

/-! ## Class 1: contexts -/

/-- A bound context (R263, R344): its group, its channel, its parameter block (R265), the epochs it has started since it
was bound (R361), the X of the last cut, and the terminal statuses of its four last epochs, newest first (R264). -/
structure Binding where
  group : Nat
  chan : Option Nat
  block : List Byte
  started : Nat
  cut : Nat
  chosen : Bool
  epochs : List (Nat × CStatus)
  deriving DecidableEq, Repr

/-! ## Class 2: policy, grants, partner -/

/-- The partner named by `PARTNER_SET` (R345). -/
structure Partner where
  chip : Nat
  area : Nat
  len : Nat
  sameFeed : Bool
  deriving DecidableEq, Repr

/-- Class 2 of Table 14-8. -/
structure PolicyState where
  /-- Policy values by identifier; an unlisted one has its default (Table 11-17). -/
  vals : Tbl Nat
  /-- An `SB_BASE` has been set (R346). -/
  sbSet : Bool
  /-- The precision-reef grant bit of each context (R347). -/
  grants : BitVec 4096
  /-- The pairing in force (R345). -/
  partner : Option Partner
  deriving DecidableEq, Repr

/-! ## Classes 3 and 4: sync words, channels, shadows, logs -/

/-- `TW_MODE` (Table 5-2). -/
inductive WMode where
  | flag | count
  deriving DecidableEq, Repr

/-- `TW_OWN` (Table 5-2). -/
inductive WOwn where
  | unclaimed | owned | orphaned
  deriving DecidableEq, Repr

/-- A waiting command of a sync word: its position, operand and timeout code (R153). -/
structure Waiter where
  pos : Nat
  operand : Nat
  tmo : Nat
  deriving DecidableEq, Repr

/-- The architectural part of a sync word (Table 5-2) with its waiters (R153): the queue in order, and the waits for zero. -/
structure SyncWord where
  mode : WMode
  own : WOwn
  ovf : Bool
  udf : Bool
  trimEn : Bool
  drift : Bool
  base : Nat
  owner : Nat
  value : Nat
  queue : List Waiter
  drain : List Waiter
  deriving DecidableEq, Repr

/-- The stored fields of a word's debug shadow (Table 5-3); `TS_WAITERS` and `TS_STATE` follow from the waiters and the
rebinds. -/
structure Shadow where
  lastOp : Nat
  sigSeq : BitVec 8
  lsValid : Bool
  lsOffdie : Bool
  lastSig : BitVec 25
  deriving DecidableEq, Repr

/-- How a tell-tale command came to its word: from a port of this die; as a completion signal (R268); off the die, with
the sending chip, the tag to echo and whether a `SIG_ACK` is required (R171); as an acknowledged `SIG` whose issuer has been
reset, so that its response is discarded (R161); or it is a `SIG` under way to another chip, acknowledged with its tag, or posted. -/
inductive Via where
  | port
  | completion
  | offDie (chip : Nat) (tag : BitVec 8) (ack : Bool)
  | silent
  | remote (tag : BitVec 8)
  | posted
  deriving DecidableEq, Repr

/-- A tell-tale command in flight to its word: the 64-bit command (Table 5-4) and the issuer's rig index. -/
structure Flight where
  cmd : Word64
  issuer : BitVec 25
  via : Via
  deriving DecidableEq, Repr

/-- The state of a barrier channel (R164). -/
inductive ChanState where
  | unbound | armed | broken
  deriving DecidableEq, Repr

/-- A barrier waiter (R165): its position, the opcode that waits, its timeout code and the phase that it waits for. -/
structure BWaiter where
  pos : Nat
  top : Nat
  tmo : Nat
  phase : Nat
  deriving DecidableEq, Repr

/-- The last arrival of a member: its phase, or cleared by a let-fly (R163). -/
inductive LastArr where
  | never
  | inPhase (n : Nat)
  | cleared
  deriving DecidableEq, Repr

/-- A release in progress (R169, R410, R413): the phase, the number of steps, the next step, and whether the fleet wait
still runs, with its length in TTCLK cycles. -/
structure Release where
  phase : Nat
  steps : Nat
  next : Nat
  fleet : Option Nat
  deriving DecidableEq, Repr

/-- An arrival count received at a hosted fold node (R165): the fold node, the input, the count and the trim mark. -/
structure NodeCount where
  fnid : BitVec 21
  input : Nat
  count : Nat
  trim : Bool
  deriving DecidableEq, Repr

/-- A barrier channel (R164, R165): its state, the context and group it is bound with, the phase counted since the
binding, the positions that have arrived in it, each member's last arrival, the waiters, whether the phase is a trim phase,
the counts at hosted fold nodes, whether this chip's count has gone up, whether the pre-warn has been sent, the release in
progress, the drift count of the last released phase if it was a trim phase, and the drift count that this chip sent up the tree in the
last trim phase (R176). -/
structure Channel where
  st : ChanState
  ctx : Nat
  group : Nat
  phase : Nat
  arrived : List Nat
  last : Tbl LastArr
  waits : List BWaiter
  trim : Bool
  nodes : List NodeCount
  sentUp : Bool
  prewarned : Bool
  rel : Option Release
  lastDrift : Option Nat
  upDrift : Nat
  deriving DecidableEq, Repr

/-- Class 3 of Table 14-8, with the commands that have left their ports (R161). -/
structure TtState where
  /-- Sync words by word identifier (R139). -/
  words : Tbl SyncWord
  /-- Barrier channels 0 to 63 (R164). -/
  chans : Tbl Channel
  /-- Commands that have left their ports and have not taken effect, in order of issue (R157, R158, R166). -/
  flights : List Flight
  deriving DecidableEq, Repr

/-- An entry of the tell-tale error log (R152). -/
structure ErrEntry where
  status : CStatus
  word : BitVec 16
  chip : Nat
  rig : BitVec 25
  deriving DecidableEq, Repr

/-- An entry of the drift log (R176). -/
structure DriftEntry where
  word : BitVec 16
  value : Nat
  base : Nat
  waited : Bool
  deriving DecidableEq, Repr

/-- Class 4 of Table 14-8. -/
structure ShadowState where
  /-- Debug shadows by word identifier (R144). -/
  shadows : Tbl Shadow
  /-- The error log, oldest first, at most 64 entries (R152). -/
  errLog : List ErrEntry
  /-- The drift log, oldest first, at most 64 entries (R176). -/
  driftLog : List DriftEntry
  deriving DecidableEq, Repr

/-! ## Class 6: tags and ledger -/

/-- The state of a tag slot (R200). -/
inductive TagState where
  | free | live | quarantine
  deriving DecidableEq, Repr

/-- A tag slot (R200): its state, the tag, the generation, the token range of its `ROUTE`, the blocks it holds in order,
whether its `ROUTE` has completed, whether it was cancelled while the `ROUTE` ran (R207), and the count of its entries in `ROUTED`,
`SPILLED` and `WAITING` (R219). -/
structure TagSlot where
  st : TagState
  tag : BitVec 16
  gen : BitVec 8
  tokBase : Nat
  ntok : Nat
  blocks : List Nat
  routeDone : Bool
  routeCancelled : Bool
  nopen : Nat
  deriving DecidableEq, Repr

/-- Class 6 of Table 14-8, with the notices on their way on the die (R213). -/
structure LedgerState where
  /-- Tag slots 0 to 63 (R200). -/
  tags : Tbl TagSlot
  /-- Die entries by block·1,024 + index (R194, R196); a `FREE` entry reads 0. -/
  die : Tbl (BitVec 160)
  /-- Die entries found uncorrectable (R197). -/
  bad : List Nat
  /-- Saddlebag entries that hold a token: a freed entry is not written (R198), and after a reset none holds one (R422). -/
  sbHeld : List Nat
  /-- Indices of the saddlebag entries that have failed their CRC-32C, oldest first: Masthead's log of them (R199). -/
  sbLost : List Nat
  /-- Notices that travel on the die, oldest first (R213). -/
  fly : List Msg
  deriving DecidableEq, Repr

/-! ## Class 7: endpoint ports -/

/-- A completion that waits to be written (R255): the echo and status fields of its record (Table 9-12), its completion
signal (R268), and the collective whose context slot it may release (R266). -/
structure Done where
  opcode : Nat
  ctx : Nat
  ctag : BitVec 32
  status : CStatus
  tally : Tally
  opval : BitVec 64
  hlen : Nat
  csig : Option (BitVec 16)
  coll : Option (Nat × Nat)
  deriving DecidableEq, Repr

/-- An endpoint port (Table 9-1): its registers, its queues and what it has outstanding. -/
structure Port where
  /-- `EP_ERR` (Table 9-3). -/
  err : BitVec 7
  /-- `EP_SQ_CFG` and `EP_CQ_CFG` (Table 9-4). -/
  sqCfg : Word64
  cqCfg : Word64
  /-- Ring indices (R250). -/
  sqTail : Nat
  sqHead : Nat
  cqHead : Nat
  cqTail : Nat
  /-- The phase of the completion ring (R255). -/
  cqPhase : Bool
  /-- Descriptors read and not yet completed (R254). -/
  opened : Nat
  /-- Completions that wait to be written, in the order of completion (R255). -/
  done : List Done
  /-- Unread tell-tale responses, oldest first (R271), and those held during a rebind (R162). -/
  resp : List Word64
  heldResp : List Word64
  /-- `TT_CREDITS` (Table 9-15). -/
  credits : Nat
  /-- Outstanding waits: word identifier, or channel with the barrier mark (R149). -/
  waits : List (Bool × Nat)
  /-- The last value stored to `EP_NQ_LO` (R272). -/
  nqLo : Word64
  /-- The notice queue, oldest first (R272). -/
  nq : List Msg
  nqErr : Bool
  nqLast : Option CStatus
  nqRej : Nat
  /-- The endpoint is being rebound (R274). -/
  rebinding : Bool
  /-- The port holds a descriptor under R364 and reads nothing. -/
  held : Bool
  deriving DecidableEq, Repr

/-! ## Class 8: outstanding operations -/

/-- A descriptor: QW0 to QW7 (R257). -/
structure Desc where
  q0 : Word64
  q1 : Word64
  q2 : Word64
  q3 : Word64
  q4 : Word64
  q5 : Word64
  q6 : Word64
  q7 : Word64
  deriving DecidableEq, Repr

/-- Where a member of a collective stands on its chip: in the admission queue, with a contribution in flight, waiting for
what comes down, or completed at its port. -/
inductive Stage where
  | queued | sending | waiting | done
  deriving DecidableEq, Repr

/-- A member of a collective on this chip: its position, descriptor, stage and the contribution in flight; `live` is false
after an endpoint reset (R275). For a `ROUTE`: the selections and weights of its rows, the tally of computing them (R186), and
its tag slot. `held` are the codes of widened blocks that the port has read once more, while their two passes run (R135). -/
structure Member where
  pos : Nat
  desc : Desc
  stage : Stage
  up : Option UpMsg
  live : Bool
  sel : List (List (Option Nat))
  wts : List (List (BitVec 32))
  tally : Tally
  tagSlot : Option Nat
  held : List Nat
  deriving DecidableEq, Repr

/-- The flits of a pass that have come to input `input` of fold node `fnid` so far, and whether the first of them came over a reefed
link (R398). -/
structure Partly where
  fnid : BitVec 21
  input : Nat
  count : Nat
  reef : Bool
  deriving DecidableEq, Repr

/-- A collective on this chip, matched by (`CTX`, `EPOCH`) (R263): its members here, its group's number, the defining fields
of its first flit, the pass that is being gathered, the contributions that have reached their cluster nodes in it, the inputs of
fold nodes that this chip hosts or stands by for, and the outputs that have left (0 this chip's value, else the fold node's
identifier plus 1). Where its root is here: the tally so far, the reef decision and the widening threshold (R398, R131), the
words of pass 1, the codes of blocks that are not widened, the blocks that are. `down` is what was last sent down, `ended` is
set when the outcome reaches or is decided on this chip, and `marks` holds the members whose timer has expired, and whether
the mark is still on its way (R88). `got` and `gotDown` count the flits of a message that has not come whole, up and down, and `early`
is a result that has begun to come down. -/
structure Coll where
  ctx : Nat
  epoch : Nat
  group : Nat
  defn : Defining
  members : List Member
  pass : Nat
  arrived : List (Nat × UpMsg)
  nodes : List (BitVec 21 × Nat × UpMsg)
  sentUp : List Nat
  tally : Tally
  asP1 : Bool
  thr : Nat
  words : List Nat
  codes : List (Option Nat)
  widened : List Bool
  down : Option DownMsg
  ended : Option CStatus
  marks : List (Nat × Bool)
  got : List Partly
  gotDown : Nat
  early : Option Result
  deriving DecidableEq, Repr

/-- Where a token of a combine or backward operation stands in the lanes (R220, R229): its rows are being read, with the
entry as it was found, or its output rows (address and bytes) are on their way to memory. -/
inductive LaneStage where
  | reading (entry : BitVec 160)
  | writing (rows : List (Nat × List Byte))
  deriving DecidableEq, Repr

/-- An outstanding `COMBINE`, `UNCOMBINE` or `GATEGRAD` (R218): its number, position and descriptor, the ring index it was read from, the tag slot and
the tag's first token, the tokens served, those in the lanes, those ready in order (R220), those not written because of a cancel (R222), its tally, the
status that an event of Table 7-3 gives it, and whether `COMBINE_LIMIT` runs. -/
structure CombOp where
  id : Nat
  pos : Nat
  desc : Desc
  ring : Nat
  slot : Nat
  tokBase : Nat
  served : List Nat
  lanes : List (Nat × LaneStage)
  ready : List Nat
  ncancel : Nat
  tally : Tally
  cause : Option CStatus
  limit : Bool
  live : Bool
  deriving DecidableEq, Repr

/-- What is known of one target of a send (R244): flying to its holding node, at it, reported but not yet at the sender, or
settled. -/
inductive TargetSt where
  | flying
  | atNode
  | report (delivered : Bool)
  | settled (delivered : Bool)
  deriving DecidableEq, Repr

/-- Where a target is: a position of this die, an endpoint of a listed chip, or a member of a `BCAST` group on another chip. -/
inductive TargetPlace where
  | here (pos : Nat)
  | listed (rig : Nat)
  | member
  deriving DecidableEq, Repr

/-- One target of a send: its index in `DMAP`, its place, and where it stands. -/
structure Target where
  index : Nat
  place : TargetPlace
  st : TargetSt
  deriving DecidableEq, Repr

/-- An outstanding `BCAST` or `MCAST` (R232): its number, position, descriptor, message and targets; whether it has reached the chip
root, where its way leads there (R242, R243); whether `HOIST_REPORT_LIMIT` still runs (R245); `live` is false after an endpoint reset
(R275). -/
structure Send where
  id : Nat
  pos : Nat
  desc : Desc
  msg : HoistMsg
  targets : List Target
  turned : Bool
  limit : Bool
  live : Bool
  deriving DecidableEq, Repr

/-- A posted receive (R234): position, channel, buffer, length, descriptor and the ring index it was read from, and whether its credit has appeared at the half
root; `live` is false after an endpoint reset. -/
structure Recv where
  pos : Nat
  chan : Nat
  dst : Nat
  rlen : Nat
  desc : Desc
  ring : Nat
  applied : Bool
  live : Bool
  deriving DecidableEq, Repr

/-- Who must be told of a target's outcome: a send of this chip, or the sender on another chip. -/
inductive Sender where
  | here (id : Nat)
  | there (inst : Nat)
  deriving DecidableEq, Repr

/-- A message from another chip on its way to holding nodes of this die: its number, link, content and targets to come. -/
structure HoistIn where
  id : Nat
  link : Nat
  msg : HoistMsg
  pend : List Nat
  deriving DecidableEq, Repr

/-- A message held at a holding node for one target (R238). -/
structure Hold where
  id : Nat
  pos : Nat
  msg : HoistMsg
  sender : Sender
  deriving DecidableEq, Repr

/-- One stored copy of a message in a half root's pool, with its segments by the part they came from (R242). -/
structure PoolCopy where
  pool : Nat
  sender : Sender
  chan : Nat
  own : Nat
  shared : Nat
  deriving DecidableEq, Repr

/-- A message committed to a posted receive whose bytes are on their way to `DST` (R236, R238). -/
structure Delivery where
  id : Nat
  msg : HoistMsg
  recv : Recv
  sender : Sender
  deriving DecidableEq, Repr

/-- A withdrawal whose completions wait for messages committed before it (R235): the endpoint, its descriptor, the receives that it took,
and the deliveries that come first. -/
structure Withdraw where
  pos : Nat
  desc : Desc
  gone : List Recv
  first : List Nat
  deriving DecidableEq, Repr

/-- The way that a message from another chip has come (R244): its sender, sequence number, channel, virtual channel, port, and the channel
fields of its header. -/
structure Trail where
  origin : BitVec 25
  hseq : BitVec 32
  chan : Nat
  vc : Nat
  port : Nat
  head : BitVec 50
  deriving DecidableEq, Repr

/-- A message of a group that has gone up through a fold node for which this chip stands by (R308, R310): the node, the group, the
message, the port it came in on and the channel fields of its header. -/
structure Copied where
  fnid : BitVec 21
  group : Nat
  msg : HoistMsg
  port : Nat
  head : BitVec 50
  deriving DecidableEq, Repr

/-- Class 8 of Table 14-8. -/
structure OpsState where
  /-- Collectives with a member outstanding on this chip, or with an input at a fold node that it hosts. -/
  colls : List Coll
  /-- Contexts that hold an active slot (R266). -/
  slots : List Nat
  /-- The admission queue, oldest first: context, epoch, position (R266). -/
  queue : List (Nat × Nat × Nat)
  /-- Combine and backward operations, in order of acceptance. -/
  combs : List CombOp
  /-- Hoist sends, in order of acceptance. -/
  sends : List Send
  /-- Posted receives, oldest first (R234). -/
  recvs : List Recv
  /-- Held messages, in order of arrival at their node (R240). -/
  holds : List Hold
  /-- Committed messages (R238). -/
  delivs : List Delivery
  /-- Duplicate tables by position·16 + channel: the last 32 pairs, newest first (R247). -/
  dups : Tbl (List (BitVec 25 × BitVec 32))
  /-- Messages from other chips on their way on the die. -/
  inbound : List HoistIn
  /-- Copies in the pools of half roots 0 and 1, and 2 of the chip root (R242). -/
  pools : List PoolCopy
  /-- Segments retired per pool: 0 and 1 the half roots', 2 the chip root's (Table 13-2, code 0x39). -/
  retired : Tbl Nat
  /-- Pools and channels whose flits wait upstream of the node (R243). -/
  waiting : List (Nat × Nat)
  /-- Withdrawals that have still to complete (R235). -/
  withdraws : List Withdraw
  /-- The ways back of messages from other chips (R244). -/
  trails : List Trail
  /-- Messages that a standby may have to send again (R310). -/
  copied : List Copied
  /-- The number that the next operation, hold or delivery takes. -/
  nextId : Nat
  deriving DecidableEq, Repr

/-! ## Classes 9 and 10: shroud links and keys -/

/-- The state of a physical port's link (R279, Table 11-12). -/
inductive LinkSt where
  | down | training | exchange | up | reefed | retraining
  deriving DecidableEq, Repr

/-- A flit that waits to be sent on VC2 or VC3: its channel fields (Table 10-4) and what it says. -/
structure TxFlit where
  fvcf : BitVec 50
  body : FlitBody
  deriving DecidableEq, Repr

/-- A physical port's link (R279 to R321). -/
structure Link where
  st : LinkSt
  /-- Alignment-marker and super-block lock (R279, R288). -/
  locked : Bool
  /-- Lanes in use: 0 four, 1 lanes 0 and 1, 2 lanes 2 and 3 (`LC_LANES`). -/
  lanes : Nat
  /-- Lanes that have failed (R312). -/
  badLanes : List Nat
  /-- The logical port that this end assigns (`LC_LLINK`) and whether this end runs protected (`LC_PROT`). -/
  llink : Nat
  prot : Bool
  /-- `LC_RESUME` and `LC_RESUME_ACK` to send (R313). -/
  resume : Bool
  resumeAck : Nat
  /-- What the partner reported in `LC_INIT` (R279): port, logical port, protection, die. -/
  peer : Option (Nat × Nat × Bool × BitVec 64)
  ackSent : Bool
  ackSeen : Bool
  /-- Link-control messages due (R298). -/
  ctl : List Msg
  /-- Next `FSEQ`, the number expected, the oldest unacknowledged number (R285). -/
  txSeq : Nat
  rxSeq : Nat
  txAck : Nat
  /-- The replay buffer, oldest first (R285). -/
  replay : List Frame
  /-- Frames of a replay still to send (R287), and replays of the oldest frame without progress (R288). -/
  resend : List Frame
  fruitless : Nat
  /-- A `NAK` is due; a `NAK` for the expected number is out (R286). -/
  nakDue : Bool
  nakOut : Bool
  /-- Frames sent per channel, `FCRCUM` last received per channel, buffers freed per channel, modulo 4,096 (R291). -/
  sent : Tbl Nat
  credited : Tbl Nat
  freed : Tbl Nat
  /-- The place in the rotation 0, 1, 4, 2, 3 of the next credit report (R291). -/
  crTurn : Nat
  /-- Messages that wait on VC0, VC1 and VC4, and flits on VC2 and VC3, oldest first. -/
  tx0 : List Msg
  tx1 : List Msg
  tx4 : List Msg
  tx2 : List TxFlit
  tx3 : List TxFlit
  /-- Channels of the last 64 slots, newest first; 5 is none (R293). -/
  slots : List Nat
  /-- Frames of VC2 and VC3 sent in this round of the weighted round robin (R294). -/
  wrr2 : Nat
  wrr3 : Nat
  /-- Received messages of VC0, VC1 and VC4 by frame, and received flits' channel fields of VC2 and VC3 (R290). -/
  rx0 : List (List Msg)
  rx1 : List (List Msg)
  rx4 : List (List Msg)
  rx2 : List (BitVec 50)
  rx3 : List (BitVec 50)
  /-- Headers of hoist messages among them, oldest first, with their virtual channel; the flits still to come of a message that has been
  taken, by virtual channel and hoist channel; and the flits of messages that this chip forwards and that are not whole (R282). -/
  heads : List (Nat × BitVec 50)
  rest : List (Nat × Nat × Nat)
  hbuf : List (Nat × BitVec 50 × BitVec 512)
  /-- The flit order last seen per stream: (stream key, next `F_FLIT`) (R282), and as it was before the block that awaits its tag. -/
  order : List (BitVec 39 × Nat)
  orderBase : List (BitVec 39 × Nat)
  /-- Protected mode: frames of the open transmit block as sent, received frames that await their tag (R318). -/
  txBlock : List Frame
  rxBlock : List Frame
  /-- The open transmit block is closed and its `GCMTAG` is due (R318). -/
  tagDue : Bool
  /-- The frames of the super-block that is being filled, oldest first (R278). -/
  superBlock : List Frame
  deriving DecidableEq, Repr

/-- Class 9 of Table 14-8. -/
structure LinkState where
  /-- Links by physical port. -/
  links : Tbl Link
  /-- The last 64 let-fly pairs and fault-report pairs seen, newest first (R300, R301). -/
  flySeen : List (Nat × Nat)
  repSeen : List (Nat × Nat)
  /-- `FR_SEQ` and `HB_SEQ` of the next message of this chip (R301, R309). -/
  repSeq : Nat
  hbSeq : Nat
  /-- `HB_SEQ` last received per primary chip (R309). -/
  hbSeen : Tbl Nat
  /-- VC1 messages and VC4 notices originated off the die, and those consumed here (R367). -/
  sent1 : Nat
  recv1 : Nat
  sent4 : Nat
  recv4 : Nat
  /-- Streams of collectives that this chip has forwarded: group, context, `EPOCH`[7:0] and the last phase (R305, R315). -/
  streams : List (Nat × Nat × Nat × Nat)
  deriving DecidableEq, Repr

/-- A key slot (R317). -/
structure KeySlot where
  key : BitVec 256
  salt : Word32
  ctr : Nat
  loaded : Bool
  deriving DecidableEq, Repr

/-- Class 10 of Table 14-8. -/
structure KeyState where
  /-- Key slots by port·4 + direction·2 + slot; direction 1 is receive (R317). -/
  slots : Tbl KeySlot
  /-- The slot in use by port·2 + direction, plus 2 while a switch to the other slot is due (R319). -/
  active : Tbl Nat
  deriving DecidableEq, Repr

/-! ## Class 11: spares, folds, reef levels -/

/-- A spare cluster node or ledger bank (Table 11-20): free 0, shadowing 1, filling 2, serving 3, failed 4, under test 5,
and the cluster or bank. -/
structure Spare where
  st : Nat
  unit : Nat
  deriving DecidableEq, Repr

/-- Class 11 of Table 14-8. -/
structure UnitState where
  /-- The failed-unit map (R390). -/
  failed : List UnitId
  /-- Selectors and combine lanes with one fault, that a second one retires (code 0x38). -/
  suspect : List UnitId
  /-- Spare cluster nodes 0 to 7 (`SM_CSPARE`). -/
  cspare : Tbl Spare
  /-- Clusters under `REEF_FOLD` (`SM_FOLD`), and the cluster whose node serves each folded one (R395). -/
  fold : BitVec 64
  foldHost : Tbl Nat
  /-- Half-root units 2·h + u and chip-root units: 0 primary, 1 healthy shadow, 2 failed, 3 under test (Table 11-20). -/
  hroot : Tbl Nat
  croot : Tbl Nat
  /-- Spare ledger banks (`SM_LSPARE`), banks lost without a spare, and whether the lost bank was without backing when it was lost, until
  a saddlebag is set that can back it (R397). -/
  lspare : Tbl Spare
  lostBanks : List Nat
  unbacked : Bool
  /-- Spare splice bundles in use, and bundles lost with no spare (R397). -/
  spliceUsed : Nat
  spliceLost : List Nat
  /-- Clusters that wait for a fill or a fold (R392), and clusters lost with all state (R395). -/
  paused : List Nat
  lost : List Nat
  /-- The failed node whose state arrays still hold a cluster's state, while a spare fills from it or a fold serves it (R391, R395). -/
  sources : Tbl Nat
  deriving DecidableEq, Repr

/-! ## Classes 12 to 15 -/

/-- Class 12 of Table 14-8: the dump (R379, R381). -/
structure DumpState where
  valid : Bool
  addr : Nat
  len : Nat
  seq : Nat
  lost : Nat
  /-- A dump is being written, for this cause (R379, R426). -/
  due : Option Nat
  deriving DecidableEq, Repr

/-- Class 13 of Table 14-8: the last cinch number taken, the newest durable half at the partner and in the flash window,
and the number of the newest image whose flash copy is complete (R348, R369, R371). -/
structure CutState where
  last : Nat
  half : Option Nat
  flashHalf : Option Nat
  flashed : Nat
  deriving DecidableEq, Repr

/-- Class 14 of Table 14-8: the host window (Table 11-3). -/
structure Window where
  werr : Bool
  werrOfs : BitVec 16
  evLost : Nat
  /-- Rung slots not yet taken, in the order in which they are taken (R327). -/
  rung : List Nat
  rspHead : Nat
  rspTail : Nat
  rspPhase : Bool
  irqStatus : BitVec 3
  irqMask : BitVec 3
  irqVec : Word32
  sel : BitVec 16
  capArch : Word64
  capShadow : Word64
  /-- The bytes of the command slots, by slot·256 + offset, and of the response ring, by entry·256 + offset. -/
  slots : Tbl Byte
  ring : Tbl Byte
  deriving DecidableEq, Repr

/-! ## Masthead, security processor, power, partners -/

/-- `MH_STATE` (Table 11-8). -/
inductive MhState where
  | boot | idle | configured | lowPower | fatal
  deriving DecidableEq, Repr

/-- The power states (Table 14-6). -/
inductive PowerSt where
  | active | doze | retain | off
  deriving DecidableEq, Repr

/-- The long command in progress (R330). -/
inductive LongKind where
  | topo (t : Topo)
  | cinch
  | test (u : UnitId) (forced : Bool)
  | cal (port : Nat)
  | fwLoad
  | power (target : PowerSt)
  deriving DecidableEq, Repr

/-- A long command with the slot and sequence number to repeat in its final response (R330). -/
structure Long where
  kind : LongKind
  slot : Nat
  seq : BitVec 32
  cmd : Nat
  deriving DecidableEq, Repr

/-- The phases of a cinch (Table 12-1); the stop of phase C is in force in `quiet` and `capture`. -/
inductive CutPhase where
  | agree | drain | quiet | capture | commit
  deriving DecidableEq, Repr

/-- What an image shows of an endpoint that was reset during the stop (Table 12-4): its position, its port, its held operations with the
ring index of each, and its duplicate tables, as they were before the reset. -/
structure PosImage where
  pos : Nat
  port : Port
  held : List (Nat × Desc)
  dups : Tbl (List (BitVec 25 × BitVec 32))
  deriving DecidableEq, Repr

/-- A cinch in progress (R363): its number, the chosen contexts, the phase, this chip's own cause to abandon (0 none),
the length of the image written, and the endpoints that were reset during the stop. -/
structure CutRun where
  number : Nat
  chosen : BitVec 4096
  phase : CutPhase
  reason : Nat
  imageLen : Nat
  before : List PosImage
  deriving DecidableEq, Repr

/-- A copy into the flash window (R371): the cinch's number, the partner chip and the address of the image there, its length, and whether
it comes before the commit. -/
structure FlashCopy where
  number : Nat
  chip : Nat
  src : Nat
  len : Nat
  early : Bool
  deriving DecidableEq, Repr

/-- A quick command that waits for an `MH_RELAY` reply (R345, R353): `PARTNER_SET` with its pairing, or a remote
`SYNC_INSPECT` with its first word, count and the parts received so far. -/
inductive Relay where
  | feed (slot : Nat) (seq : BitVec 32) (p : Partner)
  | words (slot : Nat) (seq : BitVec 32) (chip first count : Nat) (parts : List Word64)
  deriving DecidableEq, Repr

/-- A unit test or bank copy in progress (R400, R402): the unit, the spare that stands in, and whether it is Masthead's own
background activity. -/
structure TestRun where
  unit : UnitId
  spare : Option Nat
  background : Bool
  forced : Bool
  deriving DecidableEq, Repr

/-- Masthead's own state, in its SRAM: kept by `RETAIN`, lost by `COLD`, `WARM` and `BLOCK`. -/
structure Masthead where
  ready : Bool
  st : MhState
  /-- The state held before `DOZE` or `RETAIN` (R416). -/
  before : MhState
  /-- A `HELLO` has completed since the last reset (R331). -/
  hello : Bool
  long : Option Long
  cut : Option CutRun
  relay : List Relay
  tests : List TestRun
  /-- Ports under adaptation or recalibration (R350, R399). -/
  cals : List Nat
  /-- The next `LF_ID` (R356). -/
  lfId : Nat
  /-- The copies into the flash window, in cinch order; the first has begun (R371). -/
  flashWait : List FlashCopy
  /-- Declared links are still to come up after an exit from `RETAIN` (R419). -/
  linksDue : Bool
  /-- `FATAL` has been reached by this cause (R323). -/
  cause : Nat
  /-- Masthead is halted by its debug module (R335). -/
  halted : Bool
  deriving DecidableEq, Repr

/-- What Octain's security processor holds for Rolrax (R358 to R360, R334): no reset of Rolrax changes the firmware part. -/
structure SecState where
  /-- The slot that runs (0 A, 1 B), the boot slot of the next reset, whether the running image is in trial. -/
  run : Nat
  boot : Nat
  trial : Bool
  /-- Version and security version per slot, and whether the other slot holds a verified image. -/
  vers : Tbl (BitVec 32 × BitVec 32)
  loaded : Bool
  minSec : BitVec 32
  /-- Resets of a trial image without a commit (R360). -/
  trialResets : Nat
  /-- A rollback to report after `EV_RESET_CAUSE`: the failed image's version (R360). -/
  rollback : Option (BitVec 32)
  /-- The open challenge, the failed attempts since `COLD`, the unlock counter (R334). -/
  challenge : Bool
  attempts : Nat
  unlockCtr : BitVec 32
  deriving DecidableEq, Repr

/-- Where start-up stands (Table 14-10, Table 14-11). -/
inductive Boot where
  | mbist | verify | firmware | done
  deriving DecidableEq, Repr

/-- The reset kinds (Table 14-7), with the exit from `RETAIN` (Table 14-9). -/
inductive ResetKind where
  | cold | warm | block | node | endpoint | retainExit
  deriving DecidableEq, Repr

/-- What a request to the power manager is for (R415, R418, R419): the rail comes back, it goes for `RETAIN`, all power goes for `OFF`. -/
inductive RailReq where
  | restore | retain | off
  deriving DecidableEq, Repr

/-- Power and start-up (R415, R425): the power state, the start-up step, the last reset's kind and source (Table 14-9),
`RC_COUNT`, the classes it emptied, the rail request and whether the rail is up. -/
structure PowerState where
  st : PowerSt
  boot : Boot
  kind : ResetKind
  source : Nat
  resets : Nat
  empty : BitVec 16
  railReq : Option RailReq
  rail : Bool
  deriving DecidableEq, Repr

/-- What partners outside the block have given (R370, R337, R350): Octain's regions and feed identifier, each port's
physical layer as `CAL_PORT` has set it, and its transmit taps. -/
structure Inputs where
  regions : Regions
  phy : Tbl Nat
  taps : Tbl Word32
  /-- Interrupted endpoint resets of a cinch stop (R366), and deferred words of a fill: positions. -/
  deferred : List Nat
  deriving DecidableEq, Repr

/-- A pulse to the power manager (Table 14-4). -/
inductive PmPulse where
  | prewarn (ch : Nat)
  | release (log2S skew : Nat)
  | abort
  deriving DecidableEq, Repr

/-- What this chip has contributed to an internal collective of a cinch (R363, R367): to the agreement its reason, u of each chosen context
bound here, the number and the bitmap's CRC; to a round of phase D its reason and its four counts; to the commit its reason. -/
inductive CutSent where
  | agree (reason : Nat) (us : List (Nat × Nat)) (number crc : Nat)
  | quiet (reason sent1 recv1 sent4 recv4 : Nat)
  | commit (reason : Nat)
  deriving DecidableEq, Repr

/-- What the block has put out, newest first: MSI-X entries signalled (R325), pulses to the power manager (R409), and
frames put on the wire by physical port (R293) with the FEC input blocks that they fill (R278); and the ports whose protection has
failed, as the security processor is told of them (R320). DESIGN CHOICE, log 119. -/
structure Outputs where
  msix : List Nat
  pm : List PmPulse
  wire : List (Nat × Frame)
  blocks : List (Nat × BitVec 257)
  security : List Nat
  cinch : List CutSent
  deriving DecidableEq, Repr

/-- What the TAP has reached (R404, R405, R335): the segments whose insertion bit it has opened, the ports in loopback, the bytes that it
read last, the registers that the debug module has written since Masthead was halted or stepped, and the number of the first free byte
of those that it has not. -/
structure TapState where
  opened : List Segment
  looped : List Nat
  scan : List Byte
  regs : Tbl Word32
  era : Nat
  deriving DecidableEq, Repr

/-- The machine's state. -/
structure State where
  /-- The commands that wait, first in, first out (the model's own). -/
  pending : List Instr
  /-- Octain's chip memory as this block reads and writes it. -/
  mem : List Host.Cell
  /-- The memories of the chips that have been this chip's partner, as its captures write them (R369, log 15). -/
  remote : List Host.Cell
  topo : Topo
  ctxs : Tbl Binding
  pol : PolicyState
  tt : TtState
  shadow : ShadowState
  /-- Counters in the order of Table 11-21: set 0, then ports 0 to 7. -/
  counters : Tbl Nat
  led : LedgerState
  ports : Tbl Port
  ops : OpsState
  link : LinkState
  keys : KeyState
  units : UnitState
  dump : DumpState
  cut : CutState
  win : Window
  /-- `DBG_UNLOCKED` (R334). -/
  debug : Bool
  mh : Masthead
  sec : SecState
  power : PowerState
  inp : Inputs
  out : Outputs
  tap : TapState
  /-- The number of the next free byte (the model's own, DESIGN CHOICE, log 4). -/
  free : Nat
  deriving DecidableEq, Repr

/-! ## Reset values -/

def Topo.reset : Topo :=
  { rigValid := false, chip := 0, present := [], links := [], routes := [], groups := [], dtGen := 0, dtPub := false,
    takenOver := [], rehomed := [], lostChips := [] }

def PolicyState.reset : PolicyState := { vals := [], sbSet := false, grants := 0, partner := none }

def TtState.reset : TtState := { words := [], chans := [], flights := [] }

def ShadowState.reset : ShadowState := { shadows := [], errLog := [], driftLog := [] }

def LedgerState.reset : LedgerState := { tags := [], die := [], bad := [], sbHeld := [], sbLost := [], fly := [] }

def OpsState.reset : OpsState :=
  { colls := [], slots := [], queue := [], combs := [], sends := [], recvs := [], holds := [], delivs := [], dups := [],
    inbound := [], pools := [], retired := [], waiting := [], withdraws := [], trails := [], copied := [], nextId := 0 }

def LinkState.reset : LinkState :=
  { links := [], flySeen := [], repSeen := [], repSeq := 0, hbSeq := 0, hbSeen := [], sent1 := 0, recv1 := 0, sent4 := 0,
    recv4 := 0, streams := [] }

def KeyState.reset : KeyState := { slots := [], active := [] }

def UnitState.reset : UnitState :=
  { failed := [], suspect := [], cspare := [], fold := 0, foldHost := [], hroot := [], croot := [], lspare := [], lostBanks := [], unbacked := false,
    spliceUsed := 0, spliceLost := [], paused := [], lost := [], sources := [] }

def DumpState.reset : DumpState := { valid := false, addr := 0, len := 0, seq := 0, lost := 0, due := none }

def CutState.reset : CutState := { last := 0, half := none, flashHalf := none, flashed := 0 }

def Window.reset : Window :=
  { werr := false, werrOfs := 0, evLost := 0, rung := [], rspHead := 0, rspTail := 0, rspPhase := true, irqStatus := 0,
    irqMask := 7, irqVec := 0, sel := 0, capArch := 0, capShadow := 0, slots := [], ring := [] }

def Masthead.reset : Masthead :=
  { ready := false, st := .boot, before := .idle, hello := false, long := none, cut := none, relay := [], tests := [],
    cals := [], lfId := 0, flashWait := [], linksDue := false, cause := 0, halted := false }

def SecState.reset : SecState :=
  { run := 0, boot := 0, trial := false, vers := [], loaded := false, minSec := Config.fwSecVersion, trialResets := 0,
    rollback := none, challenge := false, attempts := 0, unlockCtr := 0 }

def Regions.none : Regions := { flash := 0, flashLen := 0, dump := 0, dumpLen := 0, dist := 0, feed := 0 }

/-- Every class of Table 14-8 except 11 is emptied by `COLD`, and class 11 too before MBIST refills it. -/
def PowerState.reset : PowerState :=
  { st := .active, boot := .mbist, kind := .cold, source := 1, resets := 0, empty := 0xFFFF#16, railReq := none,
    rail := true }

def TapState.reset : TapState := { opened := [], looped := [], scan := [], regs := [], era := 0 }

/-- The machine right after a power-on `COLD` reset (R420, Table 14-10 cycle 0). DESIGN CHOICE, log 14. -/
def State.reset : State :=
  { pending := [], mem := [], remote := [], topo := Topo.reset, ctxs := [], pol := PolicyState.reset, tt := TtState.reset,
    shadow := ShadowState.reset, counters := [], led := LedgerState.reset, ports := [], ops := OpsState.reset,
    link := LinkState.reset, keys := KeyState.reset, units := UnitState.reset, dump := DumpState.reset,
    cut := CutState.reset, win := Window.reset, debug := false, mh := Masthead.reset, sec := SecState.reset,
    power := PowerState.reset, inp := { regions := Regions.none, phy := [], taps := [], deferred := [] },
    out := { msix := [], pm := [], wire := [], blocks := [], security := [], cinch := [] },
    tap := TapState.reset, free := 0 }

/-! ## Why a step can stop -/

/-- The faults of the model. -/
inductive Fault where
  /-- Raised by a step that would read or write chip memory past the 52-bit address space (R179, R258). SAFE. -/
  | beyondAddressSpace
  deriving DecidableEq, Repr

/-- The refusals of the model. -/
inductive Refusal where
  /-- Raised by an arm of exec for a command that has no meaning yet; SAFE. -/
  | notModelled (mnemonic : String)
  deriving DecidableEq, Repr

end Sys2Proof.Machine
end

