-- ==== Sys2Proof/Machine/Ops.lean ====
section
/-! DEFINITION. The named operations: bit fields, sparse tables, chip memory, CRC-32C, and the accessors of the state. -/

namespace Sys2Proof.Machine

open Sys2Proof

/-! ## Bits and bytes (R10, R11) -/

/-- `len` bits of `x` from bit `lo` up, as a number. -/
def bits {w : Nat} (x : BitVec w) (lo len : Nat) : Nat := x.toNat >>> lo % 2 ^ len

/-- Bit `i` of `x`. -/
def bit {w : Nat} (x : BitVec w) (i : Nat) : Bool := x.getLsbD i

/-- A word from fields given as (lowest bit, width, value); a value is cut to its width. -/
def fields (w : Nat) (fs : List (Nat × Nat × Nat)) : BitVec w :=
  BitVec.ofNat w (fs.foldl (fun acc f => acc ||| (f.2.2 % 2 ^ f.2.1) <<< f.1) 0)

/-- `x` with `len` bits from `lo` up replaced by `v`. -/
def setBits {w : Nat} (x : BitVec w) (lo len v : Nat) : BitVec w :=
  let mask := BitVec.ofNat w ((2 ^ len - 1) <<< lo)
  (x &&& ~~~mask) ||| (BitVec.ofNat w ((v % 2 ^ len) <<< lo))

/-- 1 for true. -/
def flag (b : Bool) : Nat := if b then 1 else 0

/-- The little-endian number of some bytes (R11). -/
def leNat : List Byte → Nat
  | [] => 0
  | b :: r => b.toNat + 256 * leNat r

/-- `n` bytes of a number, lowest first (R11). -/
def leBytes : Nat → Nat → List Byte
  | 0, _ => []
  | n + 1, v => BitVec.ofNat 8 v :: leBytes n (v / 256)

/-- The bytes of a word of `8·n` bits, lowest first. -/
def wordBytes {w : Nat} (n : Nat) (x : BitVec w) : List Byte := leBytes n x.toNat

/-- A two's-complement number of `w` bits. -/
def signed (w v : Nat) : Int :=
  let u := v % 2 ^ w
  if u < 2 ^ (w - 1) then (u : Int) else (u : Int) - 2 ^ w

/-- A number as `w` bits of two's complement. -/
def unsigned (w : Nat) (v : Int) : Nat := (v % (2 ^ w : Int)).toNat

/-- Element `i` of a list, or a value for an index past its end. -/
def nth {α : Type} (d : α) (l : List α) (i : Nat) : α := (l[i]?).getD d

/-- The members of a bitmap, ascending. -/
def bitList {w : Nat} (x : BitVec w) : List Nat := (List.range w).filter x.getLsbD

/-- `l` without its duplicates, first occurrences kept. -/
def uniq (l : List Nat) : List Nat := l.foldl (fun acc x => if acc.contains x then acc else acc ++ [x]) []

/-- A list in ascending order of a key, stable. -/
def insertBy {α : Type} (key : α → Nat) (x : α) : List α → List α
  | [] => [x]
  | y :: r => if key x < key y then x :: y :: r else y :: insertBy key x r

/-- A list sorted by a key, stable. -/
def sortBy {α : Type} (key : α → Nat) (l : List α) : List α := l.foldl (fun acc x => insertBy key x acc) []

/-- Apply a step for each entry of a list, in order. -/
def forEach {α σ : Type} (l : List α) (f : α → σ → σ) (s : σ) : σ := l.foldl (fun s x => f x s) s

/-- Replace the entries of a list that satisfy a test. -/
def mapIf {α : Type} (p : α → Bool) (f : α → α) (l : List α) : List α := l.map (fun x => if p x then f x else x)

/-- The CRC-32C of some bytes: reflected polynomial 0x82F6_3B78, initial and final value all ones (R198, R283, R375). -/
def crcBit (c : BitVec 32) : BitVec 32 :=
  if c.getLsbD 0 then (c >>> 1) ^^^ 0x82F63B78#32 else c >>> 1

/-- One byte of the CRC. -/
def crcByte (c : BitVec 32) (b : Byte) : BitVec 32 :=
  crcBit (crcBit (crcBit (crcBit (crcBit (crcBit (crcBit (crcBit (c ^^^ b.zeroExtend 32))))))))

/-- CRC-32C. -/
def crc32c (l : List Byte) : BitVec 32 := ~~~(l.foldl crcByte 0xFFFFFFFF#32)

/-! ## Sparse tables -/

/-- What a table reads at `k`; `d` gives the value of an unlisted key. -/
def Tbl.get {α : Type} (d : Nat → α) : Tbl α → Nat → α
  | [], k => d k
  | (j, v) :: m, k => if j = k then v else Tbl.get d m k

/-- The table after `k` is given `v`, in canonical form. -/
def Tbl.set {α : Type} [DecidableEq α] (d : Nat → α) : Tbl α → Nat → α → Tbl α
  | [], k, v => if v = d k then [] else [(k, v)]
  | (j, w) :: m, k, v =>
    if j < k then (j, w) :: Tbl.set d m k v
    else if j = k then (if v = d k then m else (k, v) :: m)
    else (if v = d k then (j, w) :: m else (k, v) :: (j, w) :: m)

/-- Every key of the table is above `k`, the keys rise strictly, and no entry equals what an unlisted key reads as. -/
def Tbl.wfFrom {α : Type} [DecidableEq α] (d : Nat → α) : Option Nat → Tbl α → Bool
  | _, [] => true
  | lo, (j, v) :: m => (match lo with | none => true | some k => decide (k < j)) && decide (v ≠ d j) && Tbl.wfFrom d (some j) m

/-- The canonical form of a table. -/
def Tbl.wf {α : Type} [DecidableEq α] (d : Nat → α) (m : Tbl α) : Bool := Tbl.wfFrom d none m

/-- A partial map: an unlisted key has no value. -/
def Tbl.find {α : Type} : Tbl α → Nat → Option α
  | [], _ => none
  | (j, v) :: m, k => if j = k then some v else Tbl.find m k

/-- A partial map after `k` is given `v`. -/
def Tbl.put {α : Type} : Tbl α → Nat → α → Tbl α
  | [], k, v => [(k, v)]
  | (j, w) :: m, k, v =>
    if j < k then (j, w) :: Tbl.put m k v else if j = k then (k, v) :: m else (k, v) :: (j, w) :: m

/-- A partial map without `k`. -/
def Tbl.del {α : Type} (m : Tbl α) (k : Nat) : Tbl α := m.filter (fun e => e.1 ≠ k)

/-! ## Chip memory -/

/-- What a byte of chip memory that nothing has written reads as. DESIGN CHOICE, log 2. -/
def memDefault : Nat → BitVec 8 := fun _ => 0

/-- The canonical form of a memory: addresses strictly rising, no entry equal to what an unlisted address reads as. -/
def Memory.wf (m : List Host.Cell) : Bool := Tbl.wf memDefault m

/-- One byte of a memory. -/
def Memory.read (m : List Host.Cell) (a : Nat) : Byte := Tbl.get memDefault m a

/-- A memory after one byte is stored. -/
def Memory.write (m : List Host.Cell) (a : Nat) (b : Byte) : List Host.Cell := Tbl.set memDefault m a b

/-- `n` bytes of a memory from `a` up. -/
def Memory.readN (m : List Host.Cell) (a n : Nat) : List Byte := (List.range n).map (fun i => Memory.read m (a + i))

/-- A memory after some bytes are stored from `a` up. -/
def Memory.writeN : List Host.Cell → Nat → List Byte → List Host.Cell
  | m, _, [] => m
  | m, a, b :: r => Memory.writeN (Memory.write m a b) (a + 1) r

/-- The end of the 52-bit address space of chip memory (R258). -/
def memEnd : Nat := 2 ^ 52

/-- The ranges (address, length) all lie inside the address space. -/
def inSpace (l : List (Nat × Nat)) : Bool := l.all (fun r => decide (r.1 + r.2 ≤ memEnd))

/-- `n` bytes of chip memory. -/
def load (s : State) (a n : Nat) : List Byte := Memory.readN s.mem a n

/-- The number in `n` bytes of chip memory (R11). -/
def loadNat (s : State) (a n : Nat) : Nat := leNat (load s a n)

/-- Bytes stored into chip memory. -/
def store (s : State) (a : Nat) (l : List Byte) : State := { s with mem := Memory.writeN s.mem a l }

/-- `n` free bytes stored into chip memory: contents the manual calls undefined. DESIGN CHOICE, log 4. -/
def storeFree (s : State) (a n : Nat) : State :=
  { s with mem := Memory.writeN s.mem a ((List.range n).map (fun i => Config.freeByte (s.free + i))), free := s.free + n }

/-- The step goes on, unless it touches memory past the address space (DESIGN CHOICE, log 3). -/
def within (l : List (Nat × Nat)) (s : State) : Host.Outcome State Fault Refusal :=
  if inSpace l then .next s else .fault .beyondAddressSpace

end Sys2Proof.Machine
end

