-- ==== Sys2Proof/Machine/Flags.lean ====
section
/-! DEFINITION. `XFLAGS` (R61, R62) and the conversion counters (R83, R84). -/

namespace Sys2Proof

open Sys2Proof.Machine

/-- No flag and no count (R62, R83). -/
def Tally.zero : Tally :=
  { nx := false, uf := false, of := false, dz := false, nv := false, sat := 0, flush := 0, nar := 0 }

/-- A conversion counter saturates at 0xFFFF_FFFF (R83). -/
def sat32 (n : Nat) : Nat := min n 0xFFFFFFFF

/-- Flags are OR-ed and counters added with saturation (R62, R84). -/
def Tally.join (a b : Tally) : Tally :=
  { nx := a.nx || b.nx, uf := a.uf || b.uf, of := a.of || b.of, dz := a.dz || b.dz, nv := a.nv || b.nv,
    sat := sat32 (a.sat + b.sat), flush := sat32 (a.flush + b.flush), nar := sat32 (a.nar + b.nar) }

/-- The tally of several steps. -/
def Tally.joinAll (l : List Tally) : Tally := l.foldl Tally.join Tally.zero

/-- The field `XFLAGS` (Table 2-4). -/
def Tally.xflags (t : Tally) : Nat :=
  16 * flag t.nx + 8 * flag t.uf + 4 * flag t.of + 2 * flag t.dz + flag t.nv

/-- A step that raises only `NV`. -/
def Tally.invalid : Tally := { Tally.zero with nv := true }

/-- A step that raises `NX` when it is inexact. -/
def Tally.inexact (b : Bool) : Tally := { Tally.zero with nx := b }

/-- A conversion that saturates, flushes or meets a non-number (R76 to R78). -/
def Tally.oneSat : Tally := { Tally.zero with sat := 1 }
def Tally.oneFlush : Tally := { Tally.zero with flush := 1 }
def Tally.oneNar : Tally := { Tally.zero with nar := 1 }

/-- The tally without its counters. -/
def Tally.flagsOnly (t : Tally) : Tally := { t with sat := 0, flush := 0, nar := 0 }

/-- The tallies of a list of results, with the results. -/
def gather {α : Type} (l : List (α × Tally)) : List α × Tally := (l.map (·.1), Tally.joinAll (l.map (·.2)))

end Sys2Proof
end

