-- ==== Sys2Proof/Machine/Access.lean ====
section
/-! DEFINITION. The accessors of State: what each table reads where nothing is listed (the Reset columns), the policy
values, counters, interrupts, the response ring, and messages that leave for other chips. -/

namespace Sys2Proof.Machine

open Sys2Proof

/-! ## Policy (Table 11-17) -/

/-- The default of a policy parameter. -/
def policyDefault (id : Nat) : Nat :=
  match id with
  | 0x01 => 2000000 | 0x02 => 0 | 0x03 => 1 | 0x04 => 1 | 0x05 => 65535 | 0x06 => 1024
  | 0x10 => 0 | 0x11 => 0 | 0x12 => 2000 | 0x13 => 100000 | 0x20 => 50 | 0x30 => 32 | 0x31 => 1 | 0x32 => 1
  | 0x40 => 90 | 0x41 => 1 | 0x42 => 64 | 0x43 => 2000 | 0x50 => 65536 | 0x51 => 1 | _ => 0

/-- The value of a policy parameter in force. -/
def State.policy (s : State) (id : Nat) : Nat := Tbl.get policyDefault s.pol.vals id

/-! ## Endpoint ports -/

/-- An endpoint port after reset (Tables 9-1, 9-15, 9-16). -/
def Port.reset : Port :=
  { err := 0, sqCfg := 0, cqCfg := 0, sqTail := 0, sqHead := 0, cqHead := 0, cqTail := 0, cqPhase := true, opened := 0,
    done := [], resp := [], heldResp := [], credits := 32, waits := [], nqLo := 0, nq := [], nqErr := false,
    nqLast := none, nqRej := 0, rebinding := false, held := false }

def portDefault : Nat → Port := fun _ => Port.reset

/-- The port of a position. -/
def State.port (s : State) (p : Nat) : Port := Tbl.get portDefault s.ports p

def State.setPort (s : State) (p : Nat) (x : Port) : State := { s with ports := Tbl.set portDefault s.ports p x }

/-- Slots of a ring, and its base (Table 9-4). DEDUCED, log 70. -/
def ringSize (cfg : Word64) : Nat := 2 ^ bits cfg 0 4
def ringBase (cfg : Word64) : Nat := 4096 * bits cfg 12 40
def ringOn (cfg : Word64) : Bool := bits cfg 0 4 != 0

/-- The ring index of the slot that the port read last. -/
def Port.lastRead (x : Port) : Nat := (x.sqHead + ringSize x.sqCfg - 1) % ringSize x.sqCfg

def State.modPort (s : State) (p : Nat) (f : Port → Port) : State := s.setPort p (f (s.port p))

/-- The rig index of a position on this chip (R26, R251). -/
def State.rig (s : State) (p : Nat) : Nat := if s.topo.rigValid then s.topo.chip * 1024 + p else p

/-- A chip number is present (R28). -/
def State.isPresent (s : State) (c : Nat) : Bool := s.topo.rigValid && s.topo.present.contains c

/-- A position is a member of a group on this chip. -/
def Group.has (g : Group) (p : Nat) : Bool := g.members.getLsbD p

/-- The binding of a context. -/
def State.binding (s : State) (c : Nat) : Option Binding := s.ctxs.find c

/-- The group of a number, if it is defined. -/
def State.group (s : State) (g : Nat) : Option Group := s.topo.groups.find g

/-- The group to which a context is bound. -/
def State.ctxGroup (s : State) (c : Nat) : Option Group :=
  match s.binding c with
  | none => none
  | some b => s.group b.group

/-! ## Counters (Table 11-21, R352) -/

def counterDefault : Nat → Nat := fun _ => 0

/-- A counter's value; set 0 is 0 to 9, port `p` is 10 + 7·p to 16 + 7·p. -/
def State.counter (s : State) (i : Nat) : Nat := Tbl.get counterDefault s.counters i

/-- A counter bumped `n` times; it saturates at 0xFFFF_FFFF. -/
def State.bump (s : State) (i n : Nat) : State :=
  { s with counters := Tbl.set counterDefault s.counters i (sat32 (s.counter i + n)) }

/-- The chip's counters in the order of Table 11-21. -/
def cSyncErr : Nat := 0
def cLedgerDup : Nat := 1
def cLedgerStray : Nat := 2
def cLedgerQexp : Nat := 3
def cNoticeMalformed : Nat := 4
def cLedgerCxlArr : Nat := 5
def cHoistOversize : Nat := 6
def cHoistHoldExp : Nat := 7
def cHoistLate : Nat := 8
def cHoistDup : Nat := 9

/-- The counters of a physical port. DESIGN CHOICE, log 114. -/
def cFecCorr (p : Nat) : Nat := 10 + 7 * p
def cFecUncorr (p : Nat) : Nat := 11 + 7 * p
def cCrcErr (p : Nat) : Nat := 12 + 7 * p
def cMalformed (p : Nat) : Nat := 13 + 7 * p
def cReplay (p : Nat) : Nat := 14 + 7 * p
def cLinkDown (p : Nat) : Nat := 15 + 7 * p
def cGcmFail (p : Nat) : Nat := 16 + 7 * p

/-! ## Interrupts and the response ring (R325, R328, R329, R336) -/

/-- The MSI-X entry of a cause (Table 11-3). -/
def Window.vec (w : Window) (i : Nat) : Nat := bits w.irqVec (8 * i) 6

/-- A cause's bit is set; its message goes out when the bit was 0 and is unmasked (R325). -/
def State.raiseIrq (s : State) (i : Nat) : State :=
  let w := s.win
  let msg := !w.irqStatus.getLsbD i && !w.irqMask.getLsbD i
  { s with
    win := { w with irqStatus := w.irqStatus ||| (1#3 <<< i) }
    out := { s.out with msix := if msg then w.vec i :: s.out.msix else s.out.msix } }

/-- Free entries of the response ring (R329): a ring whose head equals its tail is empty, so it holds 31 (DEDUCED, log 16). -/
def Window.freeEntries (w : Window) : Nat := 31 - (w.rspTail + 32 - w.rspHead) % 32

def byteDefault : Nat → Byte := fun _ => 0

/-- Bytes stored into a table of bytes. -/
def putBytes : Tbl Byte → Nat → List Byte → Tbl Byte
  | t, _, [] => t
  | t, a, b :: r => putBytes (Tbl.set byteDefault t a b) (a + 1) r

/-- A record written at `RSP_TAIL` (R329, Table 11-5): its header and the `RS_LEN` bytes of its body. The bytes of the entry past them are
not part of the record (DEDUCED, log 17). -/
def State.writeRecord (s : State) (status cmd seq slot errfield : Nat) (body : List Byte) : State :=
  let w := s.win
  let head := leBytes 2 status ++ leBytes 2 cmd ++ leBytes 4 seq ++ [BitVec.ofNat 8 slot] ++
    [BitVec.ofNat 8 (flag w.rspPhase)] ++ leBytes 2 body.length ++ leBytes 2 errfield ++ leBytes 2 0
  let entry := head ++ body
  { s with win := { w with
      ring := putBytes w.ring (256 * w.rspTail) entry
      rspTail := (w.rspTail + 1) % 32
      rspPhase := if w.rspTail = 31 then !w.rspPhase else w.rspPhase } }

/-- A command response is written and `IRQ_RSP` set; `errfield` 0xFFFF names no field. -/
def State.respond (s : State) (status cmd seq slot errfield : Nat) (body : List Byte) : State :=
  (s.writeRecord status cmd seq slot errfield body).raiseIrq 0

/-- An event record (R336): dropped, and `EV_LOST` bumped, when no entry is free (R329). It does not ask whether
`MH_READY` is set (DEDUCED, log 18). -/
def State.event (s : State) (code : Nat) (body : List Byte) : State :=
  if s.win.freeEntries = 0 then { s with win := { s.win with evLost := min (s.win.evLost + 1) 0xFFFF } }
  else (s.writeRecord 0x8001 code 0 0xFF 0xFFFF body).raiseIrq 1

/-! ## Logical and physical ports -/

/-- The link declared on a logical port. -/
def State.decl (s : State) (l : Nat) : Option LinkDecl := s.topo.links.find l

/-- The physical port that carries a logical port. -/
def State.physOf (s : State) (l : Nat) : Option Nat := (s.decl l).map (·.phys)

/-- The logical port that a physical port carries: the declared one, or its own number (R337). -/
def State.logicalOf (s : State) (p : Nat) : Nat :=
  match s.topo.links.find? (fun e => e.2.phys = p) with
  | some e => e.1
  | none => p

/-- A link at reset (R279, R285, R291): down, nothing sent, nothing received. -/
def Link.reset (p : Nat) : Link :=
  { st := .down, locked := false, lanes := 0, badLanes := [], llink := p, prot := false, resume := false, resumeAck := 0,
    peer := none, ackSent := false, ackSeen := false, ctl := [], txSeq := 0, rxSeq := 0, txAck := 0, replay := [],
    resend := [], fruitless := 0, nakDue := false, nakOut := false, sent := [], credited := [], freed := [], crTurn := 0,
    tx0 := [], tx1 := [], tx4 := [], tx2 := [], tx3 := [], slots := [], wrr2 := 0, wrr3 := 0, rx0 := [], rx1 := [],
    rx4 := [], rx2 := [], rx3 := [], heads := [], rest := [], hbuf := [], order := [], orderBase := [], txBlock := [], rxBlock := [],
    tagDue := false, superBlock := [] }

def State.lnk (s : State) (p : Nat) : Link := Tbl.get Link.reset s.link.links p

def State.setLnk (s : State) (p : Nat) (x : Link) : State :=
  { s with link := { s.link with links := Tbl.set Link.reset s.link.links p x } }

def State.modLnk (s : State) (p : Nat) (f : Link → Link) : State := s.setLnk p (f (s.lnk p))

/-- The physical port on the route to a chip (R305). -/
def State.routeTo (s : State) (chip : Nat) : Option Nat :=
  match s.topo.routes.find chip with
  | none => none
  | some l => s.physOf l

/-- A message queued on VC0, VC1 or VC4 of a physical port. -/
def Link.queueMsg (vc : Nat) (m : Msg) (l : Link) : Link :=
  match vc with
  | 0 => { l with tx0 := l.tx0 ++ [m] }
  | 1 => { l with tx1 := l.tx1 ++ [m] }
  | _ => { l with tx4 := l.tx4 ++ [m] }

/-- A message put on a virtual channel of the port that leads to a chip; with no route it goes nowhere. -/
def State.sendMsg (s : State) (vc chip : Nat) (m : Msg) : State :=
  match s.routeTo chip with
  | none => s
  | some p => s.modLnk p (Link.queueMsg vc m)

/-- The counts of originated VC1 messages and VC4 notices (R367). -/
def State.countSent (s : State) (vc : Nat) : State :=
  if vc = 1 then { s with link := { s.link with sent1 := s.link.sent1 + 1 } }
  else if vc = 4 then { s with link := { s.link with sent4 := s.link.sent4 + 1 } } else s

/-- The counts of VC1 messages and VC4 notices consumed here (R367). -/
def State.countRecv (s : State) (vc : Nat) : State :=
  if vc = 1 then { s with link := { s.link with recv1 := s.link.recv1 + 1 } }
  else if vc = 4 then { s with link := { s.link with recv4 := s.link.recv4 + 1 } } else s

/-- A message that this chip originates for another. -/
def State.originate (s : State) (vc chip : Nat) (m : Msg) : State := (s.countSent vc).sendMsg vc chip m

/-- A flit queued on VC2 or VC3 of a physical port. -/
def State.sendFlit (s : State) (vc port : Nat) (f : TxFlit) : State :=
  s.modLnk port (fun l => if vc = 2 then { l with tx2 := l.tx2 ++ [f] } else { l with tx3 := l.tx3 ++ [f] })

/-- Flits queued on VC2 or VC3 of a physical port. -/
def State.sendFlits (s : State) (vc port : Nat) (l : List TxFlit) : State :=
  s.modLnk port (fun k => if vc = 2 then { k with tx2 := k.tx2 ++ l } else { k with tx3 := k.tx3 ++ l })

/-- The chip's endpoint ports run: SRAM initialisation has ended (R425). -/
def State.running (s : State) : Bool := s.power.boot != .mbist && s.power.st == .active

/-- The final response of the long command (R330). -/
def State.endLong (s : State) (status field : Nat) (body : List Byte) : State :=
  match s.mh.long with
  | none => s
  | some l => ({ s with mh := { s.mh with long := none } }).respond status l.cmd l.seq.toNat l.slot field body

/-- A `DOZE` request has been accepted, and the clocks are not gated yet (R417). -/
def State.dozing (s : State) : Bool := s.mh.long.any (fun l => l.kind == .power .doze)

/-- A wake event: Rolrax leaves `DOZE` and the state of Masthead before it holds again (R416); a `DOZE` request whose clocks are not gated yet
is cancelled (R417). A chip whose root PLL has lost its lock stays as it is (R426). -/
def State.wake (s : State) : State :=
  if s.power.st = .doze then
    if s.mh.st = .lowPower then { s with power := { s.power with st := .active }, mh := { s.mh with st := s.mh.before } } else s
  else if s.dozing then s.endLong 0x8012 0x10 []
  else s

/-- The stop of phase C of a cinch is in force (R363, R366). -/
def State.stopped (s : State) : Bool :=
  match s.mh.cut with
  | none => false
  | some c => c.phase == .quiet || c.phase == .capture

/-- The step goes on. -/
def ok (s : State) : Host.Outcome State Fault Refusal := .next s

/-! ## What waits for a fill, a fold or a forced test (R392, R403) -/

/-- The clusters that a forced test of a root unit stalls (Table 13-7): those of its half, or all. -/
def State.stalledClusters (s : State) : List Nat :=
  s.mh.tests.flatMap (fun t => if t.forced then (match t.unit with
    | .half i => (List.range 32).map (fun c => 32 * (i.val / 2) + c)
    | .root _ => List.range 64
    | _ => []) else [])

/-- The chip stalls, and its off-die links carry only VC0 (Table 13-7). -/
def State.rootStalled (s : State) : Bool := s.mh.tests.any (fun t => t.forced && (match t.unit with | .root _ => true | _ => false))

/-- A ledger bank is under a forced test, for which a `ROUTE` waits (Table 13-7). -/
def State.bankStalled (s : State) : Bool := s.mh.tests.any (fun t => t.forced && (match t.unit with | .bank _ => true | _ => false))

/-- The clusters whose ports send no flit and whose words take no command: those that wait for a fill or a fold (R392), and those stalled. -/
def State.heldClusters (s : State) : List Nat := s.units.paused ++ s.stalledClusters

def State.portHeld (s : State) (p : Nat) : Bool := s.heldClusters.contains (p / 16)

/-- The half of a position stalls, so that nothing reaches it. -/
def State.portStalled (s : State) (p : Nat) : Bool := s.stalledClusters.contains (p / 16)

end Sys2Proof.Machine
end

