-- ==== Sys2Proof/Machine/Groups.lean ====
section
/-! DEFINITION. Groups as this chip's records state them: fold nodes, their hosts and neighbours (R33 to R37, R303 to R309),
members, and distance classes (R273). -/

namespace Sys2Proof.Machine

open Sys2Proof

/-- The level of a fold node, its round, and both as one rank that rises toward the root (R303). -/
def FoldRec.level (r : FoldRec) : Nat := bits r.fnid 6 3
def FoldRec.round (r : FoldRec) : Nat := bits r.fnid 4 2
def FoldRec.rank (r : FoldRec) : Nat := bits r.fnid 4 5

/-- The chip that hosts a fold node now: its standby after a takeover (R309). -/
def State.hostOf (s : State) (r : FoldRec) : Nat :=
  if s.topo.takenOver.contains r.fnid then r.standby else r.host

/-- The input `j` of a fold node comes from a standby. -/
def State.rehomed (s : State) (r : FoldRec) (j : Nat) : Option Rehomed :=
  s.topo.rehomed.find? (fun h => h.fnid == r.fnid && h.input == j)

/-- The logical port of the record on which input `j` arrives at the node's host. -/
def State.recordLink (s : State) (r : FoldRec) (i : FoldInput) : Nat :=
  if s.topo.takenOver.contains r.fnid then i.sblink else i.hlink

/-- The logical port at a host on which input `j` arrives now, and the chip that sends it (R309). -/
def State.inputLink (s : State) (r : FoldRec) (j : Nat) (i : FoldInput) : Nat :=
  match s.rehomed r j with
  | some h => h.port
  | none => s.recordLink r i

def State.inputChip (s : State) (r : FoldRec) (j : Nat) (i : FoldInput) : Nat :=
  match s.rehomed r j with
  | some h => h.chip
  | none => i.child

/-- The logical port of a fold node's output. -/
def State.outLink (s : State) (r : FoldRec) : Nat :=
  if s.topo.takenOver.contains r.fnid then r.outSb else r.out

/-- A fold node takes an input from a chip. -/
def FoldRec.feeds (r : FoldRec) (chip : Nat) : Bool := r.ins.any (fun i => i.child = chip)

/-- The fold nodes of a group that this chip hosts. -/
def State.hosted (s : State) (g : Group) : List FoldRec := g.folds.filter (fun r => s.hostOf r = s.topo.chip)

/-- The fold node, input and record of the input that take a value: the lowest node that names this chip as a child, or for the output of
a fold node the lowest one above it that names the chip that the node's record gives as its host (DEDUCED, log 19). -/
def State.nextNode (s : State) (g : Group) (src : Option FoldRec) : Option (FoldRec × Nat × FoldInput) :=
  let child := match src with
    | none => s.topo.chip
    | some x => x.host
  let c := g.folds.filter (fun r => r.feeds child && (match src with | none => true | some x => decide (x.rank < r.rank)))
  (sortBy FoldRec.rank c).head?.bind (fun r => (r.ins.zipIdx.find? (fun e => e.1.child == child)).map (fun e => (r, e.2, e.1)))

/-- The logical port that leads to the standby of a fold node: the declared link that ends at the standby's own port for the input, or
else the one of the route to its chip. DEDUCED, log 30. -/
def State.standbyLink (s : State) (r : FoldRec) (i : FoldInput) : Option Nat :=
  match s.topo.links.find? (fun e => e.2.peer == r.standby && e.2.peerLlink == i.sblink) with
  | some e => some e.1
  | none => s.topo.routes.find r.standby

/-- The logical port at a child over which its stream goes up to a fold node and comes down from it (R304, R309). -/
def State.childLink (s : State) (r : FoldRec) (i : FoldInput) : Option Nat :=
  if s.topo.takenOver.contains r.fnid then s.standbyLink r i else some i.clink

/-- A fold node's standby on another chip can still take over: it has not done so, and its chip is not lost (R308, R311). -/
def State.spareAlive (s : State) (r : FoldRec) : Bool :=
  r.standby != 0xFFFF && !s.topo.takenOver.contains r.fnid && !s.topo.lostChips.contains r.standby

/-- Fold nodes of this chip whose parent node stands in no record here: a standby after its takeover (R309). -/
def State.orphanNodes (s : State) (g : Group) : List FoldRec :=
  (s.hosted g).filter (fun x => x.parent != 0xFFFF && (s.nextNode g (some x)).isNone)

/-- The inputs of the fold nodes that this chip hosts which come from other chips: the node, the input's index and its record. -/
def State.foreignInputs (s : State) (g : Group) : List (FoldRec × Nat × FoldInput) :=
  (s.hosted g).flatMap (fun r => (r.ins.zipIdx.filter (fun e => s.inputChip r e.2 e.1 != s.topo.chip)).map (fun e => (r, e.2, e.1)))

/-- The chips below the fold nodes that this chip hosts, without itself. -/
def State.childChips (s : State) (g : Group) : List Nat :=
  uniq ((s.foreignInputs g).map (fun e => s.inputChip e.1 e.2.1 e.2.2))

/-- The chips above: the hosts of the fold nodes to which this chip's values go, without itself. -/
def State.parentChips (s : State) (g : Group) : List Nat :=
  uniq ((((g.folds.filter (fun r => r.feeds s.topo.chip)).map (fun r => s.hostOf r)) ++ (s.orphanNodes g).map (·.parent)).filter
    (fun c => c ≠ s.topo.chip))

/-- The physical ports over which a group's stream goes up from this chip and comes down to it (R304). -/
def State.upPorts (s : State) (g : Group) : List Nat :=
  (g.folds.flatMap (fun r => (r.ins.filter (fun i => i.child = s.topo.chip)).filterMap (s.childLink r)) ++
    (s.orphanNodes g).map s.outLink).filterMap s.physOf

/-- The physical ports over which a group's stream goes down to the chips below. -/
def State.downPorts (s : State) (g : Group) : List Nat :=
  (s.foreignInputs g).filterMap (fun e => s.physOf (s.inputLink e.1 e.2.1 e.2.2))

/-- The group's members on this chip. -/
def Group.locals (g : Group) : List Nat := bitList g.members

/-- The highest level that a set of rig indices spans (the distance classes 2 to 7). -/
def spanClass (l : List Nat) : Nat :=
  let same : Nat → Bool := fun k => (uniq (l.map (· >>> k))).length ≤ 1
  if same 4 then 2 else if same 9 then 3 else if same 10 then 4 else if same 14 then 5 else if same 19 then 6 else 7

/-- The distance class of a group (R273): exact for a group on this chip, for group 0 and where this chip has the record of the group's root;
otherwise between the highest level of this chip's records and the class of the whole machine, with the part that they do not show left
open (DESIGN CHOICE, log 7). -/
def State.groupClass (s : State) (n : Nat) (g : Group) : Nat :=
  let all := spanClass (s.topo.present.map (· * 1024))
  if g.nchip ≤ 1 then spanClass g.locals
  else if n = 0 then all
  else match g.folds.find? (fun r => r.parent == 0xFFFF) with
    | some r => r.level
    | none => min (max 5 all) (max 5 (g.folds.foldl (fun acc r => max acc r.level) 5) + Config.classAbove n)

/-- Bytes of a distance-table entry (Table 9-11). -/
def State.dtEntry (s : State) (n : Nat) : List Byte :=
  match s.group n with
  | none => leBytes 8 0
  | some g =>
    let c := s.groupClass n g
    let bound := match c with
      | 2 => 22 | 3 => 46 | 4 => 57 | _ => 57 + 260 * g.hops
    wordBytes 8 (fields 64 [(63, 1, 1), (56, 3, c), (52, 4, g.hops), (32, 12, bound), (0, 26, g.nmemb)])

end Sys2Proof.Machine
end

