-- ==== Sys2Proof/Machine/Words.lean ====
section
/-! DEFINITION. Sync words, their shadows, responses, the error log and the drift log (R139 to R152, R175, R178). -/

namespace Sys2Proof.Machine

open Sys2Proof

/-- The code of a status (Tables 9-13, 5-6). -/
def statusCode : CStatus → Nat
  | .ok => 0x00 | .short => 0x01 | .orphan => 0x02 | .cancelled => 0x03 | .unvisited => 0x04 | .reefedPrec => 0x05
  | .widened => 0x06 | .badDescriptor => 0x10 | .badFormat => 0x11 | .badContext => 0x12 | .noResource => 0x13
  | .underflowSync => 0x14 | .overfill => 0x15 | .aborted => 0x16 | .fault => 0x17 | .timeout => 0x18 | .notOwner => 0x19

/-- The status of a code. -/
def statusOf (c : Nat) : Option CStatus :=
  match c with
  | 0x00 => some .ok | 0x01 => some .short | 0x02 => some .orphan | 0x03 => some .cancelled | 0x04 => some .unvisited
  | 0x05 => some .reefedPrec | 0x06 => some .widened | 0x10 => some .badDescriptor | 0x11 => some .badFormat
  | 0x12 => some .badContext | 0x13 => some .noResource | 0x14 => some .underflowSync | 0x15 => some .overfill
  | 0x16 => some .aborted | 0x17 => some .fault | 0x18 => some .timeout | 0x19 => some .notOwner | _ => none

/-- The cluster of a word identifier and its index in the cluster (Table 5-1). -/
def wordCluster (w : Nat) : Nat := w / 1024 % 64
def wordIndex (w : Nat) : Nat := w % 1024

/-- A cluster is in pool mode (R140). -/
def poolBit (map c : Nat) : Bool := map.testBit c

def State.poolMode (s : State) (c : Nat) : Bool := poolBit (s.policy 0x02) c

/-- A word that no command has changed: the Reset column of Table 5-2, and unclaimed in a pool-mode cluster (R140). -/
def wordDefault (map : Nat) : Nat → SyncWord := fun w =>
  { mode := .flag, own := if poolBit map (wordCluster w) then .unclaimed else .owned, ovf := false, udf := false,
    trimEn := false, drift := false, base := 0, owner := wordIndex w / 48, value := 0, queue := [], drain := [] }

def State.word (s : State) (w : Nat) : SyncWord := Tbl.get (wordDefault (s.policy 0x02)) s.tt.words w

def State.setWord (s : State) (w : Nat) (x : SyncWord) : State :=
  { s with tt := { s.tt with words := Tbl.set (wordDefault (s.policy 0x02)) s.tt.words w x } }

/-- A shadow at reset (Table 5-3). -/
def shadowDefault : Nat → Shadow := fun _ => { lastOp := 0, sigSeq := 0, lsValid := false, lsOffdie := false, lastSig := 0 }

def State.shadowOf (s : State) (w : Nat) : Shadow := Tbl.get shadowDefault s.shadow.shadows w

def State.setShadow (s : State) (w : Nat) (x : Shadow) : State :=
  { s with shadow := { s.shadow with shadows := Tbl.set shadowDefault s.shadow.shadows w x } }

/-- The position of the word's owner (R139, R141). -/
def ownerPos (w : Nat) (x : SyncWord) : Nat := wordCluster w * 16 + x.owner

/-- The architectural part of a word (Table 5-2). -/
def SyncWord.arch (x : SyncWord) : Word64 :=
  let own := match x.own with | .unclaimed => 0 | .owned => 1 | .orphaned => 2
  fields 64 [(62, 2, if x.mode = .count then 1 else 0), (60, 2, own), (59, 1, flag x.ovf), (58, 1, flag x.udf),
    (57, 1, flag x.trimEn), (56, 1, flag x.drift), (32, 20, x.base), (24, 4, x.owner), (0, 20, x.value)]

/-- The positions that wait on a word. -/
def SyncWord.waiters (x : SyncWord) : List Waiter := x.queue ++ x.drain

/-- The debug shadow of a word (Table 5-3): waiters and state follow from the word and the rebinds (R162). -/
def State.shadowWord (s : State) (w : Nat) : Word64 :=
  let x := s.word w
  let sh := s.shadowOf w
  let slots := x.waiters.foldl (fun acc q => acc ||| 1 <<< (q.pos % 16)) 0
  let st := if x.own = .owned ∧ (s.port (ownerPos w x)).rebinding then 2 else if x.waiters.isEmpty then 0 else 1
  fields 64 [(48, 16, slots), (46, 2, st), (40, 4, sh.lastOp), (32, 8, sh.sigSeq.toNat), (31, 1, flag sh.lsValid),
    (30, 1, flag sh.lsOffdie), (0, 25, sh.lastSig.toNat)]

/-- A response word (Table 5-6). -/
def responseWord (st : CStatus) (top target value : Nat) : Word64 :=
  fields 64 [(56, 8, statusCode st), (52, 4, top), (32, 16, target), (0, 20, value)]

/-- A response enters the port's queue, or is held while the endpoint is being rebound (R162, R271, R274). -/
def State.answer (s : State) (p : Nat) (st : CStatus) (top target value : Nat) : State :=
  let r := responseWord st top target value
  s.modPort p (fun x => if x.rebinding then { x with heldResp := x.heldResp ++ [r] } else { x with resp := x.resp ++ [r] })

/-- An outstanding wait of a port ends (R149). -/
def State.endWait (s : State) (p : Nat) (barrier : Bool) (id : Nat) : State :=
  s.modPort p (fun x => { x with waits := x.waits.erase (barrier, id) })

/-- A waiter of a word is answered (R153). -/
def State.answerWait (s : State) (w : Nat) (q : Waiter) (st : CStatus) (value : Nat) : State :=
  (s.endWait q.pos false w).answer q.pos st 2 w value

/-- A failure is logged and counted (R152): the log holds 64 entries. -/
def State.logSync (s : State) (st : CStatus) (word chip rig : Nat) : State :=
  let e : ErrEntry := { status := st, word := BitVec.ofNat 16 word, chip := chip, rig := BitVec.ofNat 25 rig }
  let s := s.bump cSyncErr 1
  if s.shadow.errLog.length < 64 then { s with shadow := { s.shadow with errLog := s.shadow.errLog ++ [e] } } else s

/-- An entry of the drift log; beyond 64 only the sync error counter is bumped (R176). -/
def State.logDrift (s : State) (e : DriftEntry) : State :=
  if s.shadow.driftLog.length < 64 then { s with shadow := { s.shadow with driftLog := s.shadow.driftLog ++ [e] } }
  else s.bump cSyncErr 1

/-! ## Sync messages (Table 5-8) -/

/-- A sync message. -/
def syncMsg (kind status dst ackreq target origin operand phase trim tag : Nat) : Msg :=
  fields 128 [(120, 8, kind), (112, 8, status), (97, 15, dst), (96, 1, ackreq), (80, 16, target), (55, 25, origin),
    (32, 20, operand), (31, 1, phase), (30, 1, trim), (16, 8, tag)]

def mKind (m : Msg) : Nat := bits m 120 8
def mStatus (m : Msg) : Nat := bits m 112 8
def mDst (m : Msg) : Nat := bits m 97 15
def mAckreq (m : Msg) : Bool := bit m 96
def mTarget (m : Msg) : Nat := bits m 80 16
def mOrigin (m : Msg) : Nat := bits m 55 25
def mOperand (m : Msg) : Nat := bits m 32 20
def mPhase (m : Msg) : Nat := bits m 31 1
def mTrim (m : Msg) : Bool := bit m 30
def mTag (m : Msg) : Nat := bits m 16 8

/-! ## Receive buffers of VC0, VC1 and VC4 (R289, R290) -/

/-- The received frames of a channel. -/
def Link.rxOf (l : Link) (vc : Nat) : List (List Msg) :=
  match vc with
  | 0 => l.rx0
  | 1 => l.rx1
  | _ => l.rx4

def Link.setRx (l : Link) (vc : Nat) (x : List (List Msg)) : Link :=
  match vc with
  | 0 => { l with rx0 := x }
  | 1 => { l with rx1 := x }
  | _ => { l with rx4 := x }

/-- A buffer of a channel is freed: the cumulative count that credits report (R291). -/
def Link.freeBuffer (l : Link) (vc : Nat) : Link :=
  { l with freed := Tbl.set (fun _ => 0) l.freed vc ((Tbl.get (fun _ => 0) l.freed vc + 1) % 4096) }

/-- The oldest message received on a channel of a port. -/
def State.headMsg (s : State) (l vc : Nat) : Option Msg :=
  match (s.lnk l).rxOf vc with
  | (m :: _) :: _ => some m
  | _ => none

/-- The oldest message is taken; its frame's buffer is freed with the frame's last message. -/
def Link.dropMsg (vc : Nat) (l : Link) : Link :=
  match l.rxOf vc with
  | (_ :: r) :: fs => if r.isEmpty then (l.setRx vc fs).freeBuffer vc else l.setRx vc (r :: fs)
  | _ => l

/-- A row that takes the oldest message of a channel when that message is of its kind, and else changes nothing (DESIGN CHOICE, log 9). A
stalled chip takes none but those of VC0 (R403). -/
def State.onMsg (s : State) (l vc : Nat) (mine : Msg → Bool) (f : Msg → State → State) : State :=
  match s.headMsg l vc with
  | none => s
  | some m => if mine m && (vc == 0 || !s.rootStalled) then f m (s.modLnk l (Link.dropMsg vc)) else s

/-- A message for another chip goes on along its route (R305); one for this chip is consumed here. -/
def State.consumeOrForward (s : State) (vc dst : Nat) (m : Msg) (f : State → State) : State :=
  if s.topo.rigValid && s.topo.chip == dst then f (s.countRecv vc) else s.sendMsg vc dst m

end Sys2Proof.Machine
end

