-- ==== Sys2Proof/Machine/Barrier.lean ====
section
/-! DEFINITION. Barrier channels: arrivals, the fold of counts over chips, trim, pre-warn, the release ramp and the fleet
ramp (R163 to R177, R409 to R413). -/

namespace Sys2Proof.Machine

open Sys2Proof

/-- A channel at reset (R164). -/
def chanDefault : Nat → Channel := fun _ =>
  { st := .unbound, ctx := 0, group := 0, phase := 0, arrived := [], last := [], waits := [], trim := false, nodes := [],
    sentUp := false, prewarned := false, rel := none, lastDrift := none, upDrift := 0 }

def State.chan (s : State) (c : Nat) : Channel := Tbl.get chanDefault s.tt.chans c

def State.setChan (s : State) (c : Nat) (x : Channel) : State :=
  { s with tt := { s.tt with chans := Tbl.set chanDefault s.tt.chans c x } }

def State.modChan (s : State) (c : Nat) (f : Channel → Channel) : State := s.setChan c (f (s.chan c))

/-- What a member last did on a channel (R165). -/
def lastDefault : Nat → LastArr := fun _ => .never

def Channel.lastOf (x : Channel) (p : Nat) : LastArr := Tbl.get lastDefault x.last p

/-- A pulse to the power manager (Table 14-4). -/
def State.pulse (s : State) (p : PmPulse) : State := { s with out := { s.out with pm := p :: s.out.pm } }

/-- A barrier waiter is answered (R165, R176). -/
def State.answerBarrier (s : State) (ch : Nat) (w : BWaiter) (st : CStatus) (value : Nat) : State :=
  (s.endWait w.pos true ch).answer w.pos st w.top ch value

/-- Waiters of a channel that satisfy a test are taken off and answered. -/
def State.endBarrierWaits (s : State) (ch : Nat) (mine : BWaiter → Bool) (st : CStatus) (value : Nat) : State :=
  let x := s.chan ch
  let s := s.setChan ch { x with waits := x.waits.filter (fun w => !mine w) }
  forEach (sortBy BWaiter.pos (x.waits.filter mine)) (fun w s => s.answerBarrier ch w st value) s

/-! ## The release (R168 to R170, R409 to R413) -/

/-- log2 of the number of steps of the release ramp (R410): the smallest power of two S with 1,024 / S ≤ `LOAD_STEP_MAX`. -/
def State.rampLog (s : State) : Nat :=
  if s.policy 0x41 = 0 then 0
  else ((List.range 7).find? (fun k => decide (1024 / 2 ^ k ≤ s.policy 0x42))).getD 6

/-- The step in which a position's cluster is released (R169). -/
def stepOf (steps p : Nat) : Nat := p / 16 * steps / 64

/-- The fleet skew K in TTCLK cycles (R413), where the fleet ramp applies to the channel's group. -/
def State.fleetSkew (s : State) (ch : Nat) : Nat :=
  match s.group (s.chan ch).group with
  | none => 0
  | some g => if 5 ≤ s.groupClass (s.chan ch).group g then s.topo.chip % 16 * s.policy 0x43 / 5 else 0

/-- A phase is released to a member: its step has left the chip root (R165, R169, R413). -/
def Channel.releasedTo (x : Channel) (p n : Nat) : Bool :=
  decide (n < x.phase) &&
    (match x.rel with
     | none => true
     | some r => !(decide (r.phase = n) && (r.fleet.isSome || decide (r.next ≤ stepOf r.steps p))))

/-- Step `i` of the release in progress: the waiters of its clusters are answered, and after the last step it is over. -/
def State.releaseStepAt (s : State) (ch : Nat) (r : Release) : State :=
  let x := s.chan ch
  let after : Release := { r with next := r.next + 1 }
  let s := s.setChan ch { x with rel := if after.next < r.steps then some after else none }
  s.endBarrierWaits ch (fun w => w.phase = r.phase && stepOf r.steps w.pos = r.next) .ok (x.lastDrift.getD 0)

/-- The on-die release of a phase is decided: the pulse, and step 0 (R410, R412). -/
def State.decideRelease (s : State) (ch phase skew : Nat) : State :=
  let k := s.rampLog
  let s := s.pulse (.release k skew)
  s.releaseStepAt ch { phase := phase, steps := 2 ^ k, next := 0, fleet := none }

/-- The pre-warn pulse, once per phase (R170, R412). -/
def State.prewarn (s : State) (ch : Nat) : State :=
  if (s.chan ch).prewarned then s else (s.modChan ch (fun x => { x with prewarned := true })).pulse (.prewarn ch)

/-- The phase ends at this chip: the channel moves to the next phase, and the release is decided after the fleet wait,
where there is one (R165, R413). -/
def State.endPhase (s : State) (ch : Nat) (drift : Option Nat) : State :=
  let s := s.prewarn ch
  let n := (s.chan ch).phase
  let k := s.fleetSkew ch
  let s := s.modChan ch (fun x => { x with
    phase := n + 1, arrived := [], trim := false, nodes := [], sentUp := false, prewarned := false, lastDrift := drift,
    rel := some { phase := n, steps := 1, next := 0, fleet := some k } })
  if k = 0 then s.decideRelease ch n 0 else s

/-! ## Trim (R175, R176) -/

/-- The words that R175 finds drifted: those written since reset, since an untouched word has its baseline. -/
def State.driftedWords (s : State) (g : Group) : List Nat :=
  (s.tt.words.map (·.1)).filter (fun w =>
    let x := s.word w
    decide (x.mode = .count) && x.trimEn && decide (x.own = .owned) && g.has (ownerPos w x) && decide (x.value ≠ x.base))

/-- The check of one drifted word (R175). -/
def State.trimWord (w : Nat) (s : State) : State :=
  let x := s.word w
  let waited := !x.waiters.isEmpty
  let s := s.setWord w { x with drift := true, value := if waited then x.value else x.base }
  s.logDrift { word := BitVec.ofNat 16 w, value := x.value, base := x.base, waited := waited }

/-- The trim check on this chip, with the number of words it found. -/
def State.trimCheck (s : State) (g : Group) : State × Nat :=
  let l := s.driftedWords g
  (forEach l State.trimWord s, l.length)

/-- The sum of two drift counts (R176): it saturates at 0xF_FFFF. -/
def driftAdd (a b : Nat) : Nat := min (a + b) 0xFFFFF

/-- The drift counts that come up the tree from `n` child chips, summed. No field of Table 5-8 carries such a count up, so each is a free
value (DESIGN CHOICE, log 20). -/
def State.foreignDrift (s : State) (n : Nat) : State × Nat :=
  ({ s with free := s.free + 3 * n },
   (List.range n).foldl (fun acc k =>
     driftAdd acc (leNat ((List.range 3).map (fun i => Config.freeByte (s.free + 3 * k + i))) % 2 ^ 20)) 0)

/-- The check of R175 on this chip, and the drift count of this chip and of the chips below it, summed up the tree (R176). -/
def State.chipDrift (s : State) (g : Group) : State × Nat :=
  let a := s.trimCheck g
  let b := a.1.foreignDrift (s.childChips g).length
  (b.1, driftAdd a.2 b.2)

/-! ## Counting (R165, R170) -/

/-- The members counted at the channel's root so far: on this chip, or at the root fold node that it hosts. -/
def State.rootCount (s : State) (ch : Nat) (g : Group) : Nat :=
  let x := s.chan ch
  if g.folds.isEmpty then x.arrived.length
  else
    (s.hosted g).foldl (fun acc r =>
      if r.parent = 0xFFFF then acc + (x.nodes.filter (fun n => n.fnid = r.fnid)).foldl (fun a n => a + n.count) 0
      else acc) 0

/-- This chip holds the channel's root. -/
def State.hasRoot (s : State) (g : Group) : Bool := g.folds.isEmpty || (s.hosted g).any (fun r => r.parent = 0xFFFF)

/-- A barrier message to a set of chips, from this chip's root (Table 5-8). DESIGN CHOICE, log 65. -/
def State.barrierTo (s : State) (chips : List Nat) (kind ch operand phase : Nat) (trim : Bool) : State :=
  forEach chips (fun c s => s.originate 1 c
    (syncMsg kind 0 c 0 ch (s.topo.chip * 1024) operand (phase % 2) (flag trim) 0)) s

/-- The pre-warn threshold (R170). -/
def prewarnAt (pct n : Nat) : Nat := (pct * n + 99) / 100

/-- The root signals the pre-warn when its count reaches the fraction, and tells the chips below (R170, R412). -/
def State.checkPrewarn (s : State) (ch : Nat) (g : Group) : State :=
  let x := s.chan ch
  if s.hasRoot g && !x.prewarned && decide (prewarnAt (s.policy 0x40) g.nmemb ≤ s.rootCount ch g) then
    (s.prewarn ch).barrierTo (s.childChips g) 6 ch 0 x.phase false
  else s

/-- Every member has arrived at the root: trim, `BAR_RELEASE` to the chips below, and this chip's release (R165, R175). -/
def State.releaseAtRoot (s : State) (ch : Nat) (g : Group) : State :=
  let x := s.chan ch
  let checked := s.chipDrift g
  let drift := if x.trim then some checked.2 else none
  let s := if x.trim then checked.1 else s
  let s := if x.prewarned then s else s.barrierTo (s.childChips g) 6 ch 0 x.phase false
  let s := s.barrierTo (s.childChips g) 4 ch (drift.getD 0) x.phase x.trim
  s.endPhase ch drift

/-- The members below a node as its inputs count them; a message carries at most 20 bits. -/
def FoldRec.expected (r : FoldRec) : Nat := r.ins.foldl (fun n i => n + min i.memb 0xFFFFF) 0

/-- The sum of the counts at a node, when every input is complete. A count that an image has restored does not name its inputs, so the
sum itself then says whether they are complete (R377, DEDUCED, log 49). -/
def Channel.nodeTotal (x : Channel) (r : FoldRec) : Option Nat :=
  let got := x.nodes.filter (fun n => n.fnid = r.fnid)
  let sum := got.foldl (fun a n => a + n.count) 0
  let restored := got.any (fun n => decide (r.ins.length ≤ n.input))
  if (List.range r.ins.length).all (fun j => got.any (fun n => n.input = j)) || (restored && sum == r.expected) then some sum
  else none

/-- An arrival count reaches input `j` of a hosted fold node. -/
def Channel.addCount (x : Channel) (r : FoldRec) (j count : Nat) (trim : Bool) : Channel :=
  { x with nodes := x.nodes ++ [{ fnid := r.fnid, input := j, count := count, trim := trim }], trim := x.trim || trim }

/-- The standby of a fold node on another chip, which receives every input as well (R308, R310). -/
def State.standbysOf (s : State) (r : FoldRec) : List Nat :=
  if r.standby = 0xFFFF ∨ r.standby = s.topo.chip ∨ s.topo.takenOver.contains r.fnid then [] else [r.standby]

/-- A complete count goes up, from this chip or from a fold node of it: to a fold node here, which may be complete in turn, or to its
host. The number of fold nodes of one group on a chip bounds the way (R34). A node whose parent stands in no record here sends to the
chip that its own record names (R309). -/
def State.countUp (ch : Nat) (g : Group) : Nat → Option FoldRec → Nat → State → State
  | 0, _, _, s => s
  | fuel + 1, src, count, s =>
    let x := s.chan ch
    match s.nextNode g src, src with
    | none, none => if g.folds.isEmpty then s.releaseAtRoot ch g else s
    | none, some n => s.barrierTo [n.parent] 3 ch (min count 0xFFFFF) x.phase x.trim
    | some (r, j, _), _ =>
      if s.hostOf r = s.topo.chip then
        let s := s.barrierTo (s.standbysOf r) 3 ch (min count 0xFFFFF) x.phase x.trim
        let s := s.setChan ch (x.addCount r j count false)
        let s := s.checkPrewarn ch g
        match (s.chan ch).nodeTotal r with
        | none => s
        | some n => if r.parent = 0xFFFF then s.releaseAtRoot ch g else s.countUp ch g fuel (some r) n
      else s.barrierTo (uniq ([s.hostOf r] ++ s.standbysOf r)) 3 ch (min count 0xFFFFF) x.phase x.trim

/-- An arrival stands: no let-fly waits to clear it after a fill (Table 13-5). -/
def State.stands (s : State) (p : Nat) : Bool := !s.inp.deferred.contains (1024 + p / 16)

/-- After an arrival on this chip: the pre-warn, and the count up when every member here has arrived. -/
def State.afterArrival (s : State) (ch : Nat) (g : Group) : State :=
  let s := s.checkPrewarn ch g
  let x := s.chan ch
  if (x.arrived.filter s.stands).length = g.locals.length && !x.sentUp then
    (s.setChan ch { x with sentUp := true }).countUp ch g 8 none x.arrived.length
  else s

/-! ## `ARRIVE` and `BWAIT` (R164, R165) -/

/-- The status of an `ARRIVE` or `BWAIT` that its channel refuses. -/
def State.channelRefusal (s : State) (ch p : Nat) : Option CStatus :=
  let x := s.chan ch
  match x.st with
  | .unbound => some .badContext
  | .broken => some .orphan
  | .armed =>
    match s.group x.group with
    | none => some .badContext
    | some g => if g.has p then none else some .notOwner

/-- A wait on a channel ends at once, or is answered without waiting. -/
def State.answerChannel (s : State) (p top ch : Nat) (waits : Bool) (st : CStatus) (value : Nat) : State :=
  (if waits then s.endWait p true ch else s).answer p st top ch value

/-- `ARRIVE` is counted (R165, R166). -/
def State.applyArrive (s : State) (p : Nat) (cmd : Word64) : State :=
  let ch := bits cmd 0 6
  let wait := bit cmd 57
  match s.channelRefusal ch p with
  | some st => s.answerChannel p 8 ch wait st 0
  | none =>
    let x := s.chan ch
    let unreleased := match x.lastOf p with
      | .inPhase n => !x.releasedTo p n
      | _ => false
    if x.arrived.contains p || unreleased then s.answerChannel p 8 ch wait .overfill 0
    else
      let s := s.setChan ch { x with
        arrived := x.arrived ++ [p], last := Tbl.set lastDefault x.last p (.inPhase x.phase), trim := x.trim || bit cmd 58,
        waits := if wait then x.waits ++ [{ pos := p, top := 8, tmo := bits cmd 52 4, phase := x.phase }] else x.waits }
      let s := if wait then s else s.answer p .ok 8 ch 0
      match s.group x.group with
      | none => s
      | some g => s.afterArrival ch g

/-- `BWAIT` (R165, R176). -/
def State.applyBwait (s : State) (p : Nat) (cmd : Word64) : State :=
  let ch := bits cmd 0 6
  match s.channelRefusal ch p with
  | some st => s.answerChannel p 9 ch true st 0
  | none =>
    let x := s.chan ch
    match x.lastOf p with
    | .never => s.answerChannel p 9 ch true .badContext 0
    | .cleared => s.answerChannel p 9 ch true .aborted 0
    | .inPhase n =>
      if x.releasedTo p n then s.answerChannel p 9 ch true .ok (x.lastDrift.getD 0)
      else s.setChan ch { x with waits := x.waits ++ [{ pos := p, top := 9, tmo := bits cmd 52 4, phase := n }] }

/-! ## A break (R167) -/

/-- This chip's share of a channel passes to `BROKEN`, and every waiter is released with `ORPHAN`. -/
def State.breakHere (s : State) (ch : Nat) : State :=
  let s := s.modChan ch (fun x => { x with st := .broken, rel := none })
  s.endBarrierWaits ch (fun _ => true) .orphan 0

/-- The break of a channel goes on to every neighbouring chip but the one it came from. DESIGN CHOICE, log 62. -/
def State.breakChannel (s : State) (ch : Nat) (from_ : Option Nat) : State :=
  match s.group (s.chan ch).group with
  | none => s.breakHere ch
  | some g =>
    let n := (s.chan ch).phase
    let dests := (uniq (s.parentChips g ++ s.childChips g)).filter (fun c => some c ≠ from_)
    (s.breakHere ch).barrierTo dests 5 ch 0 n false

/-- What a let-fly leaves of the last arrivals of the members that it covers: those whose phase is not released to them are forgotten. -/
def Channel.flyLast (x : Channel) (mine : Nat → Nat → Bool) : Tbl LastArr :=
  x.last.map (fun e => (e.1, match e.2 with
    | .inPhase n => if !x.releasedTo e.1 n && mine e.1 n then LastArr.cleared else LastArr.inPhase n
    | l => l))

/-- A let-fly whose scope includes the tell-tale network acts on a channel (R163, R411). The members that `later` picks out are those of
clusters that wait for a fill: their arrivals in the current phase and their waits stay until it ends (Table 13-5). DEDUCED, log 121. -/
def State.flyChannel (later : Nat → Bool) (ch : Nat) (s : State) : State :=
  let x := s.chan ch
  let last := x.flyLast (fun p n => !later p || decide (n ≠ x.phase))
  let s := s.setChan ch { x with
    arrived := x.arrived.filter later, nodes := [], sentUp := false, trim := false, rel := none, last := last }
  s.endBarrierWaits ch (fun w => !later w.pos) .aborted 0

/-- The let-fly reaches the members of a cluster after its fill (Table 13-5). -/
def State.flyMembers (mine : Nat → Bool) (ch : Nat) (s : State) : State :=
  let x := s.chan ch
  let s := s.setChan ch { x with arrived := x.arrived.filter (fun p => !mine p), last := x.flyLast (fun p _ => mine p) }
  s.endBarrierWaits ch (fun w => mine w.pos) .aborted 0

/-! ## The rows -/

/-- The waits of a position on a channel that have a timeout, in the order in which they joined. -/
def Channel.timed (x : Channel) (p : Nat) : List BWaiter := x.waits.filter (fun w => w.pos = p && w.tmo ≠ 0)

/-- `BARRIER_WAIT_TIMEOUT` (R165): a wait with a timeout ends with `TIMEOUT`; the arrival stays counted. A position may have an `ARRIVE`
and a `BWAIT` that wait on one channel with timeouts of their own, so the row names the wait. -/
def execBarrierWaitTimeout (ch : Fin 64) (p : TimedWait) (s : State) : Host.Outcome State Fault Refusal :=
  let x := s.chan ch
  match (x.timed p.pos)[p.nth.val]? with
  | none => ok s
  | some w => ok ((s.setChan ch { x with waits := x.waits.erase w }).answerBarrier ch w .timeout 0)

/-- `RELEASE_STEP` (R169). -/
def execReleaseStep (ch : Fin 64) (s : State) : Host.Outcome State Fault Refusal :=
  match (s.chan ch).rel with
  | none => ok s
  | some r => if r.fleet.isSome then ok s else ok (s.releaseStepAt ch r)

/-- `FLEET_WAIT_EXPIRY` (R413). -/
def execFleetWaitExpiry (ch : Fin 64) (s : State) : Host.Outcome State Fault Refusal :=
  match (s.chan ch).rel with
  | none => ok s
  | some r => match r.fleet with
    | none => ok s
    | some k => ok (s.decideRelease ch r.phase k)

/-- A barrier message of a channel that is `BROKEN` here is discarded and logged (R167); one of an unbound channel is
treated alike (DESIGN CHOICE, log 21). -/
def State.onChannel (s : State) (m : Msg) (f : Nat → Group → State → State) : State :=
  let ch := mTarget m % 64
  let x := s.chan ch
  let bad := match x.st with
    | .unbound => CStatus.badContext
    | _ => CStatus.orphan
  match x.st, s.group x.group with
  | .armed, some g => f ch g s
  | _, _ => s.logSync bad (mTarget m) (mOrigin m / 1024) (mOrigin m)

/-- The input of a hosted fold node that a `BAR_ARRIVE` fills: one that names the sender and is not yet complete, by its
link of arrival where that tells (R304, DEDUCED, log 22). -/
def State.arriveInput (s : State) (ch : Nat) (g : Group) (l chip : Nat) : Option (FoldRec × Nat) :=
  let x := s.chan ch
  let open_ := (g.folds.filter (fun r => s.hostOf r = s.topo.chip || r.standby = s.topo.chip)).flatMap (fun r =>
    ((r.ins.zipIdx).filter (fun e => decide (s.inputChip r e.2 e.1 = chip) &&
      !x.nodes.any (fun n => n.fnid = r.fnid && n.input = e.2))).map (fun e => (r, e.1, e.2)))
  let linkOf : FoldRec × FoldInput × Nat → Nat := fun e =>
    if s.hostOf e.1 = s.topo.chip then s.inputLink e.1 e.2.2 e.2.1 else e.2.1.sblink
  match open_.find? (fun e => linkOf e = s.logicalOf l) with
  | some e => some (e.1, e.2.2)
  | none => open_.head?.map (fun e => (e.1, e.2.2))

/-- A chip that only stands by hears of no release: the first arrival of the next phase tells it that the last one is over. -/
def State.followPhase (s : State) (ch : Nat) (g : Group) (phase : Nat) : State :=
  if (s.chan ch).phase % 2 ≠ phase ∧ s.hosted g = [] ∧ g.folds.any (fun r => r.feeds s.topo.chip) = false ∧ g.locals = [] then
    s.modChan ch (fun x => { x with phase := x.phase + 1, nodes := [], trim := false })
  else s

/-- `BAR_ARRIVE` (R165, R170). DEDUCED, log 56. -/
def execBarArrive (l : PortNo) (s : State) : Host.Outcome State Fault Refusal :=
  ok (s.onMsg l 1 (fun m => mKind m = 3) (fun m s => s.consumeOrForward 1 (mDst m) m (fun s =>
    s.onChannel m (fun ch g s =>
      let s := s.followPhase ch g (mPhase m)
      match s.arriveInput ch g l (mOrigin m / 1024) with
      | none => s
      | some (r, j) =>
        if (s.chan ch).phase % 2 ≠ mPhase m then s
        else
          let s := s.modChan ch (fun x => x.addCount r j (mOperand m) (mTrim m))
          if s.hostOf r ≠ s.topo.chip then s else
          let s := s.checkPrewarn ch g
          match (s.chan ch).nodeTotal r with
          | none => s
          | some n => if r.parent = 0xFFFF then s.releaseAtRoot ch g else s.countUp ch g 8 (some r) n))))

/-- `BAR_RELEASE` (R165, R175, R176, R413). DEDUCED, log 63. -/
def execBarRelease (l : PortNo) (s : State) : Host.Outcome State Fault Refusal :=
  ok (s.onMsg l 1 (fun m => mKind m = 4) (fun m s => s.consumeOrForward 1 (mDst m) m (fun s =>
    s.onChannel m (fun ch g s =>
      if (s.chan ch).phase % 2 ≠ mPhase m then s
      else
        let s := s.barrierTo ((s.childChips g).filter (fun c => c ≠ mOrigin m / 1024)) 4 ch (mOperand m) (mPhase m) (mTrim m)
        let checked := s.chipDrift g
        let s := if mTrim m then checked.1.modChan ch (fun x => { x with upDrift := checked.2 }) else s
        s.endPhase ch (if mTrim m then some (mOperand m) else none)))))

/-- `BAR_ORPHAN` (R167, R394): where the break comes from the loss of an arrival count, the waits end with `FAULT` at every member. No
field of Table 5-8 tells the two causes apart, so the row says which it is (DESIGN CHOICE, log 62). -/
def execBarOrphan (l : OrphanAt) (s : State) : Host.Outcome State Fault Refusal :=
  ok (s.onMsg l.port 1 (fun m => mKind m = 5) (fun m s => s.consumeOrForward 1 (mDst m) m (fun s =>
    s.onChannel m (fun ch _ s =>
      let s := if l.lost then s.endBarrierWaits ch (fun _ => true) .fault 0 else s
      s.breakChannel ch (some (mOrigin m / 1024))))))

/-- `BAR_PREWARN` (R170, R412). -/
def execBarPrewarn (l : PortNo) (s : State) : Host.Outcome State Fault Refusal :=
  ok (s.onMsg l 1 (fun m => mKind m = 6) (fun m s => s.consumeOrForward 1 (mDst m) m (fun s =>
    s.onChannel m (fun ch g s =>
      if (s.chan ch).phase % 2 ≠ mPhase m || (s.chan ch).prewarned then s
      else (s.prewarn ch).barrierTo ((s.childChips g).filter (fun c => c ≠ mOrigin m / 1024)) 6 ch 0 (mPhase m) false))))

end Sys2Proof.Machine
end

