-- ==== Sys2Proof/Machine/Gcm.lean ====
section
/-! DEFINITION. AES-256-GCM, by which a protected link enciphers its payloads and forms its tags (R316 to R318). -/

namespace Sys2Proof.Machine

open Sys2Proof

/-! ## AES-256 -/

/-- The substitution box in four parts of 64 bytes, lowest byte first. -/
def sboxPart (k : Nat) : BitVec 512 :=
  match k with
  | 0 => 0x75B227EBE28012079A059618C323C7041531D871F1E5A534CCF73F362693FDB7C072A49CAFA2D4ADF04759FA7DC982CA76ABD7FE2B670130C56F6BF27B777C63#512
  | 1 => 0xD2F3FF1021DAB6BCF5389D928F40A351A89F3C507F02F94585334D43FBAAEFD0CF584C4A39BECB6A5BB1FC20ED00D153842FE329B3D63B52A05A6E1B1A2C8309#512
  | 2 => 0x08AE7A65EAF4566CA94ED58D6D37C8E779E4959162ACD3C25C2406490A3A32E0DB0B5EDE14B8EE4688902A22DC4F816073195D643D7EA7C41744975FEC130CCD#512
  | _ => 0x16BB54B00F2D99416842E6BF0D89A18CDF2855CEE9871E9B948ED9691198F8E19E1DC186B95735610EF6034866B53E708A8BBD4B1F74DDE8C6B4A61C2E2578BA#512

/-- The substitution of one byte. -/
def subByte (b : Byte) : Byte := BitVec.ofNat 8 (bits (sboxPart (b.toNat / 64)) (8 * (b.toNat % 64)) 8)

/-- Multiplication by x in the field of AES. -/
def xtime (b : Byte) : Byte := if b.getLsbD 7 then (b <<< 1) ^^^ 0x1B#8 else b <<< 1

/-- One column mixed. -/
def mixColumn : List Byte → List Byte
  | [a, b, c, d] =>
    let t := a ^^^ b ^^^ c ^^^ d
    [a ^^^ t ^^^ xtime (a ^^^ b), b ^^^ t ^^^ xtime (b ^^^ c), c ^^^ t ^^^ xtime (c ^^^ d), d ^^^ t ^^^ xtime (d ^^^ a)]
  | l => l

/-- The block after the substitution and the row shift; bytes stand column by column. -/
def shiftSub (st : List Byte) : List Byte :=
  (List.range 16).map (fun i => subByte (nth 0 st ((i + 4 * (i % 4)) % 16)))

/-- The block after the column mix. -/
def mixAll (st : List Byte) : List Byte :=
  (List.range 4).flatMap (fun c => mixColumn ((st.drop (4 * c)).take 4))

def xorBytes (a b : List Byte) : List Byte := List.zipWith (fun x y => x ^^^ y) a b

/-- The word that the key schedule derives from the last one, for word `i`. -/
def scheduleStep (i : Nat) (w : List Byte) : List Byte :=
  if i % 8 = 0 then
    let r := (w.drop 1 ++ w.take 1).map subByte
    xorBytes r [BitVec.ofNat 8 (2 ^ (i / 8 - 1)), 0, 0, 0]
  else if i % 8 = 4 then w.map subByte else w

/-- The 60 words of the key schedule of a 32-byte key, newest first, from the first eight. -/
def schedule : Nat → Nat → List (List Byte) → List (List Byte)
  | 0, _, ws => ws
  | n + 1, i, ws => schedule n (i + 1) (xorBytes (nth [] ws 7) (scheduleStep i (nth [] ws 0)) :: ws)

/-- The fifteen round keys. -/
def roundKeys (key : BitVec 256) : List (List Byte) :=
  let k := (leBytes 32 key.toNat).reverse
  let first := (List.range 8).map (fun i => (k.drop (4 * i)).take 4)
  let ws := (schedule 52 8 first.reverse).reverse
  (List.range 15).map (fun r => ((ws.drop (4 * r)).take 4).flatten)

/-- The rounds of the cipher from a list of round keys. -/
def aesRounds : List Byte → List (List Byte) → List Byte
  | st, [] => st
  | st, [k] => xorBytes (shiftSub st) k
  | st, k :: r => aesRounds (xorBytes (mixAll (shiftSub st)) k) r

/-- AES-256 of one block of 16 bytes. -/
def aesBlock (rk : List (List Byte)) (blk : List Byte) : List Byte :=
  aesRounds (xorBytes blk (nth [] rk 0)) (rk.drop 1)

/-! ## GCM -/

/-- A number of 16 bytes, first byte most significant. -/
def beNat (l : List Byte) : Nat := leNat l.reverse
def beBytes (n v : Nat) : List Byte := (leBytes n v).reverse

/-- Multiplication in GF(2^128), bit 0 of a block being its most significant bit. -/
def ghashMul : Nat → BitVec 128 → BitVec 128 → BitVec 128 → BitVec 128
  | 0, _, _, z => z
  | n + 1, x, v, z =>
    let z := if x.getLsbD n then z ^^^ v else z
    let w := if v.getLsbD 0 then (v >>> 1) ^^^ (0xE1#128 <<< 120) else v >>> 1
    ghashMul n x w z

/-- Blocks of 16 bytes, the last filled with zeros. -/
def blocks16 (l : List Byte) : List (List Byte) :=
  (List.range ((l.length + 15) / 16)).map (fun i =>
    let b := (l.drop (16 * i)).take 16
    b ++ List.replicate (16 - b.length) 0)

/-- GHASH of additional data and ciphertext. -/
def ghash (h : BitVec 128) (aad ct : List Byte) : BitVec 128 :=
  let last := beBytes 8 (8 * aad.length) ++ beBytes 8 (8 * ct.length)
  (blocks16 aad ++ blocks16 ct ++ [last]).foldl (fun y b => ghashMul 128 (y ^^^ BitVec.ofNat 128 (beNat b)) h 0) 0

/-- The IV of a block: salt and counter, both with the most significant byte first (R317, DEDUCED, log 29). -/
def gcmIv (salt : Word32) (ctr : Nat) : List Byte := beBytes 4 salt.toNat ++ beBytes 8 ctr

/-- Key stream of `n` blocks of 16 bytes from the counter value `c` up; the first block of plaintext uses 2. -/
def keyStream (rk : List (List Byte)) (iv : List Byte) (c n : Nat) : List Byte :=
  (List.range n).flatMap (fun i => aesBlock rk (iv ++ beBytes 4 (c + i)))

/-- The payload of frame `i` of a block, enciphered or deciphered. -/
def gcmPayload (key : BitVec 256) (salt : Word32) (ctr i : Nat) (pay : BitVec 512) : BitVec 512 :=
  let ks := keyStream (roundKeys key) (gcmIv salt ctr) (2 + 4 * i) 4
  pay ^^^ BitVec.ofNat 512 (leNat ks)

/-- The tag of a block. -/
def gcmTag (key : BitVec 256) (salt : Word32) (ctr : Nat) (aad ct : List Byte) : List Byte :=
  let rk := roundKeys key
  let h := BitVec.ofNat 128 (beNat (aesBlock rk (List.replicate 16 0)))
  xorBytes (beBytes 16 (ghash h aad ct).toNat) (aesBlock rk (gcmIv salt ctr ++ beBytes 4 1))

end Sys2Proof.Machine
end

