-- ==== Sys2Proof/Machine/Report.lean ====
section
/-! DEFINITION. Fault records, restore requests and completions (R336, R385, R387, R255, R268, R269). -/

namespace Sys2Proof.Machine

open Sys2Proof

/-- The reef levels in force (R397, `EF_REEF`). -/
def State.reefLevels (s : State) : Nat :=
  flag (s.units.fold ≠ 0) + 2 * flag (!s.units.spliceLost.isEmpty) +
    4 * flag (s.link.links.any (fun e => e.2.lanes != 0)) + 8 * flag (!s.units.lostBanks.isEmpty)

/-- An `EV_FAULT` record (Table 13-3); a fault report wakes the block (R416). DESIGN CHOICE, log 109. -/
def State.postFault (s : State) (code kind index action spare detail : Nat) : State :=
  s.wake.event 0x0102 ([BitVec.ofNat 8 code, BitVec.ofNat 8 kind] ++ leBytes 2 index ++ [BitVec.ofNat 8 action] ++
    [BitVec.ofNat 8 s.reefLevels] ++ leBytes 2 spare ++ leBytes 8 detail)

/-- An `EV_RESTORE_NEEDED` record (Table 11-11). -/
def State.postRestore (s : State) (chip ctx : Nat) : State :=
  s.event 0x0104 (leBytes 2 chip ++ leBytes 2 ctx)

/-- A read returned poisoned data: code 0x3A (R385, R427). Which of the four memory-side ports a read takes is not given by the manual: the
number is a free value (DESIGN CHOICE, log 28). -/
def State.postPoison (s : State) : State :=
  { s with free := s.free + 1 }.postFault 0x3A 10 ((Config.freeByte s.free).toNat % 4) 0 0xFFFF 0

/-! ## Descriptors and their completions -/

/-- The words of a descriptor (R257). -/
def Desc.words (d : Desc) : List Word64 := [d.q0, d.q1, d.q2, d.q3, d.q4, d.q5, d.q6, d.q7]

/-- The fields of Tables 9-5a and 9-5b. -/
def dOpcode (d : Desc) : Nat := bits d.q0 0 8
def dIfmt (d : Desc) : Nat := bits d.q0 8 5
def dOfmt (d : Desc) : Nat := bits d.q0 13 5
def dXfmt (d : Desc) : Nat := bits d.q0 18 5
def dPrec (d : Desc) : Nat := bits d.q0 23 2
def dRmode (d : Desc) : Nat := bits d.q0 25 3
def dScanop (d : Desc) : Nat := bits d.q0 28 2
def dCtx (d : Desc) : Nat := bits d.q0 32 12
def dGroup (d : Desc) : Nat := bits d.q0 44 12
def dCsigEn (d : Desc) : Bool := bit d.q0 63
def dCtag (d : Desc) : BitVec 32 := BitVec.ofNat 32 (bits d.q7 0 32)
def dEpoch (d : Desc) : Nat := bits d.q7 32 16
def dCsigWord (d : Desc) : Nat := bits d.q7 48 16

/-- The addresses of R258. -/
def dSrc (d : Desc) : Nat := bits d.q4 0 52
def dDst (d : Desc) : Nat := bits d.q5 0 52
def dDst2 (d : Desc) : Nat := bits d.q6 0 52

/-- The statuses under which flags, counters and operation values read 0 (R85, R269). -/
def CStatusVoid (st : CStatus) : Bool := st == .aborted || st == .fault || st == .timeout

/-- The completion of a descriptor (R255, R268, R269). `signal` is false for a failure of steps 1 to 3 of Table 9-10. -/
def doneOf (d : Desc) (st : CStatus) (t : Tally) (opval : Nat) (hlen : Nat) (signal : Bool)
    (coll : Option (Nat × Nat)) : Done :=
  let void := CStatusVoid st
  { opcode := dOpcode d, ctx := dCtx d, ctag := dCtag d, status := st, tally := if void then Tally.zero else t,
    opval := BitVec.ofNat 64 (if void then 0 else opval), hlen := if void then 0 else hlen,
    csig := if signal && dCsigEn d then some (BitVec.ofNat 16 (dCsigWord d)) else none, coll := coll }

/-- A completion waits at its port to be written (R255). -/
def State.pushDone (s : State) (p : Nat) (x : Done) : State := s.modPort p (fun q => { q with done := q.done ++ [x] })

/-- The record of a completion (Table 9-12). -/
def Done.record (x : Done) (phase : Bool) : BitVec 256 :=
  fields 256 [(192, 64, x.opval.toNat), (160, 32, x.tally.nar), (128, 32, x.tally.flush), (96, 32, x.tally.sat),
    (64, 32, x.ctag.toNat), (40, 17, x.hlen), (24, 12, x.ctx), (16, 8, x.opcode), (15, 1, flag phase),
    (8, 5, x.tally.xflags), (0, 8, statusCode x.status)]

end Sys2Proof.Machine
end

