-- ==== Sys2Proof/Machine/Frames.lean ====
section
/-! DEFINITION. Link frames and control messages: their fields, their form, sequence and credit arithmetic (R280 to R291, R298,
R299). -/

namespace Sys2Proof.Machine

open Sys2Proof

/-! ## Frames (Tables 10-2 to 10-4) -/

def fType (f : Frame) : Nat := bits f.hdr 124 4
def fVc (f : Frame) : Nat := bits f.hdr 121 3
def fSeq (f : Frame) : Nat := bits f.hdr 109 12
def fAck (f : Frame) : Nat := bits f.hdr 97 12
def fCrvc (f : Frame) : Nat := bits f.hdr 94 3
def fCrcum (f : Frame) : Nat := bits f.hdr 82 12
def fVcf (f : Frame) : BitVec 50 := BitVec.ofNat 50 (bits f.hdr 32 50)
def fCrc (f : Frame) : Nat := bits f.hdr 0 32

/-- Frame types (Table 10-3). -/
def ftIdle : Nat := 0
def ftData : Nat := 1
def ftNak : Nat := 2
def ftLinkctl : Nat := 3
def ftGcmtag : Nat := 4

/-- Bytes 4 to 79 of a frame, in wire order. -/
def coveredBytes (hdr : BitVec 128) (pay : BitVec 512) : List Byte := (wordBytes 16 hdr).drop 4 ++ wordBytes 64 pay

/-- The CRC of a frame (R283). -/
def frameCrc (hdr : BitVec 128) (pay : BitVec 512) : BitVec 32 := crc32c (coveredBytes hdr pay)

/-- A frame with its CRC. -/
def sealFrame (hdr : BitVec 128) (pay : BitVec 512) : Frame := { hdr := setBits hdr 0 32 (frameCrc hdr pay).toNat, pay := pay }

/-! ## FEC input blocks (R278) -/

/-- The bits of a frame as a number, in stream order. -/
def frameNat (f : Frame) : Nat := f.hdr.toNat + f.pay.toNat * 2 ^ 128

/-- The frame stream of a super-block's frames as a number: byte `k` of a frame in its stream bits 8·k up. -/
def streamNat : List Frame → Nat
  | [] => 0
  | f :: r => frameNat f + streamNat r * 2 ^ 640

/-- The 20 blocks of a super-block: the marker in bit 0, and 256 bits of the frame stream. -/
def superBlockOf (l : List Frame) : List (BitVec 257) :=
  (List.range 20).map (fun b => fields 257 [(0, 1, flag (b == 0)), (1, 256, streamNat l >>> (256 * b))])

/-- Four consecutive super-blocks with the marker in place (R279). -/
def markersOk (l : List (BitVec 257)) : Bool := l.length == 80 && l.zipIdx.all (fun e => bit e.1 0 == (e.2 % 20 == 0))

/-- A frame is sequenced: `DATA` and `GCMTAG`, and `IDLE` in protected mode (Table 10-3, R318). DEDUCED, log 88. -/
def isSequenced (prot : Bool) (type : Nat) : Bool := type == ftData || type == ftGcmtag || (type == ftIdle && prot)

/-- Steps from one 12-bit number to another. -/
def seqDist (a b : Nat) : Nat := (b + 4096 - a) % 4096

/-- Receive buffers of a channel (Table 10-5a). -/
def vcBuffers (vc : Nat) : Nat :=
  match vc with
  | 0 => 32 | 1 => 192 | 2 => 256 | 3 => 256 | _ => 192

def vcCount (t : Tbl Nat) (vc : Nat) : Nat := Tbl.get (fun _ => 0) t vc
def vcPut (t : Tbl Nat) (vc v : Nat) : Tbl Nat := Tbl.set (fun _ => 0) t vc (v % 4096)

/-- The link carries sequenced frames. -/
def Link.isUp (k : Link) : Bool := k.st == .up || k.st == .reefed

/-- Credits of a channel (R291). -/
def Link.credits (k : Link) (vc : Nat) : Nat := vcBuffers vc - seqDist (vcCount k.credited vc) (vcCount k.sent vc)

/-- The order of an incoming flit: its index continues its stream and phase, or starts it again (R282, DEDUCED, log 31). -/
def Link.orderOk (k : Link) (v : BitVec 50) : Bool :=
  let i := bits v 0 11
  match k.order.find? (fun e => e.1.toNat == bits v 11 39) with
  | some e => i == e.2 || i == 0
  | none => i == 0

/-- The stream after a flit. -/
def Link.ordered (k : Link) (v : BitVec 50) : Link :=
  let key := BitVec.ofNat 39 (bits v 11 39)
  { k with order := (key, (bits v 0 11 + 1) % 2048) :: k.order.filter (fun e => e.1 ≠ key) }

/-- The bits of `FVCF` that Table 10-4 fixes at 0 are 0, and no reserved `F_PHASE` stands in it (R15, DEDUCED, log 12). -/
def fvcfOk (vc : Nat) (v : BitVec 50) : Bool :=
  if vc = 2 ∨ vc = 3 then
    if bit v 11 then
      bits v 26 7 == 0 && bits v 18 8 == 0 && decide (bits v 12 3 < 4) && (!bit v 33 || bits v 38 12 == 0)
    else decide (bits v 12 3 < 6)
  else v == 0#50

/-- A credit report is impossible: it lies ahead of the frames sent (R291, DEDUCED, log 31). -/
def Link.creditAhead (k : Link) (f : Frame) : Bool :=
  decide (2048 ≤ seqDist (fCrcum f) (vcCount k.sent (fCrvc f)))

/-- A frame whose credit report counts: any but link control of an exchange, whose sender may have begun again (DEDUCED, log 87). -/
def countsCredit (f : Frame) : Bool := fType f != ftLinkctl || decide (3 ≤ bits f.pay 120 8)

/-- A frame with a correct CRC is malformed (R284, R287, R291). -/
def Link.malformed (k : Link) (f : Frame) : Bool :=
  let t := fType f
  decide (4 < t) || decide (4 < fVc f) || decide (4 < fCrvc f) || (t != ftData && (fVc f != 0 || fVcf f != 0#50)) ||
    (t == ftData && !fvcfOk (fVc f) (fVcf f)) || (t == ftGcmtag && !k.prot) || (countsCredit f && k.isUp && k.creditAhead f) ||
    (t == ftNak && decide (seqDist k.txAck k.txSeq ≤ seqDist k.txAck (fAck f)))

/-- The four messages of a payload, first to last. -/
def payloadMsgs (p : BitVec 512) : List Msg := (List.range 4).map (fun i => BitVec.ofNat 128 (bits p (128 * i) 128))

/-- A payload of up to four messages; the other positions are empty. -/
def msgsPayload (l : List Msg) : BitVec 512 := fields 512 (l.zipIdx.map (fun e => (128 * e.2, 128, e.1.toNat)))

/-- The payload of a flit: a target list has 32 entries of 16 bits (R307), 0xFFFF where it ends (DESIGN CHOICE, log 6); a forwarded flit
is unchanged, but for the reef bit. -/
def flitBits (b : FlitBody) (v : BitVec 50) : BitVec 512 :=
  match b with
  | .transit p reefed => if reefed then Config.reefMarked p else p
  | .hoistTargets chips => fields 512 ((List.range 32).map (fun i => (16 * i, 16, nth 0xFFFF chips i)))
  | b => Config.flitPayload b v

/-! ## Link control (Table 10-5) -/

def lcKind (m : Msg) : Nat := bits m 120 8
def lcPort (m : Msg) : Nat := bits m 117 3
def lcLlink (m : Msg) : Nat := bits m 114 3
def lcProt (m : Msg) : Bool := bit m 113
def lcLanes (m : Msg) : Nat := bits m 111 2
def lcResume (m : Msg) : Bool := bit m 110
def lcResumeAck (m : Msg) : Nat := bits m 98 12
def lcDie (m : Msg) : BitVec 64 := BitVec.ofNat 64 (bits m 0 64)

/-- The link-control message of a kind that a port sends. -/
def Link.control (k : Link) (port kind : Nat) : Msg :=
  fields 128 [(120, 8, kind), (117, 3, port), (114, 3, k.llink), (113, 1, flag k.prot), (111, 2, k.lanes),
    (110, 1, flag k.resume), (98, 12, if k.resume then k.resumeAck else 0), (0, 64, Config.dieId.toNat)]

/-- A link-control message with no reserved value and no reserved bit set (R15). -/
def lcWellFormed (p : BitVec 512) : Bool :=
  let m : Msg := BitVec.ofNat 128 (bits p 0 128)
  decide (1 ≤ lcKind m) && decide (lcKind m ≤ 4) && decide (lcLanes m < 3) && bits m 64 34 == 0 && bits p 128 384 == 0

/-! ## Control messages (Tables 10-7, 10-8) -/

def ctType (m : Msg) : Nat := bits m 120 8
def ctSrc (m : Msg) : Nat := bits m 105 15
def ctDst (m : Msg) : Nat := bits m 90 15

/-- A control message. -/
def ctlMsg (type src dst : Nat) (body : List (Nat × Nat × Nat)) : Msg :=
  fields 128 ((120, 8, type) :: (105, 15, src) :: (90, 15, dst) :: body)

/-- The target that stands for every chip (R300). -/
def everyChip : Nat := 0x7FFF

def ctLetFly : Nat := 1
def ctHeartbeat : Nat := 2
def ctTakeover : Nat := 3
def ctFaultReport : Nat := 4
def ctRelay : Nat := 5

/-- A control message that a chip root does not discard (R299, R301, R345). -/
def ctWellFormed (m : Msg) : Bool :=
  let far := ctDst m == everyChip
  match ctType m with
  | 1 => bits m 0 57 == 0
  | 2 => bits m 0 74 == 0 && !far
  | 3 => bits m 0 69 == 0 && !far
  | 4 => bits m 0 63 == 0
  | 5 => bits m 64 18 == 0 && decide (1 ≤ bits m 82 8) && decide (bits m 82 8 ≤ 4) && !far
  | _ => false

/-- Sync messages: the type and the status are not reserved and the `RSV` fields are 0 (R15, R171). -/
def syncWellFormed (m : Msg) : Bool :=
  decide (1 ≤ mKind m) && decide (mKind m ≤ 6) && bits m 52 3 == 0 && bits m 24 6 == 0 && bits m 0 16 == 0 &&
    (statusOf (mStatus m)).isSome

/-- The messages of a frame on VC0, VC1 or VC4 that go on to their receivers; the others are discarded and counted. Empty positions
hold nothing. A malformed notice is for its home chip to judge (R215). A malformed sync message is logged with `BAD_DESCRIPTOR`: the spec gives
no status for it (DESIGN CHOICE, log 127). -/
def State.sortMsgs (s : State) (l vc : Nat) (ms : List Msg) : State × List Msg :=
  let ms := ms.filter (fun m => m ≠ 0#128)
  match vc with
  | 0 => (s.bump (cMalformed l) (ms.filter (fun m => !ctWellFormed m)).length, ms.filter ctWellFormed)
  | 1 =>
    (forEach (ms.filter (fun m => !syncWellFormed m)) (fun m s =>
      s.logSync .badDescriptor (mTarget m) (mOrigin m / 1024) (mOrigin m)) s, ms.filter syncWellFormed)
  | _ => (s, ms)

end Sys2Proof.Machine
end

