-- ==== Sys2Proof/Machine/Operands.lean ====
section
/-! DEFINITION. The operand formats of Table 2-1: codes, exact values, roundings and conversions (R50 to R82). -/

namespace Sys2Proof.Machine

open Sys2Proof

/-- The fifteen formats (Table 2-1). -/
inductive Fmt where
  | f64 | f32 | kf16 | kf8e4 | kf8e5 | kf4 | kf3 | i64 | i32 | i16 | i8 | i4 | u4t | u4z | u8z
  deriving DecidableEq, Repr

/-- The format of a code; 0x07 and 0x10 to 0x1F are reserved (R16, R50). -/
def fmtOf (c : Nat) : Option Fmt :=
  match c with
  | 0x00 => some .f64 | 0x01 => some .f32 | 0x02 => some .kf16 | 0x03 => some .kf8e4 | 0x04 => some .kf8e5
  | 0x05 => some .kf4 | 0x06 => some .kf3 | 0x08 => some .i64 | 0x09 => some .i32 | 0x0A => some .i16
  | 0x0B => some .i8 | 0x0C => some .i4 | 0x0D => some .u4t | 0x0E => some .u4z | 0x0F => some .u8z
  | _ => none

/-- Bits of an element in memory (Table 2-1). -/
def Fmt.width : Fmt → Nat
  | .f64 | .i64 => 64
  | .f32 | .i32 => 32
  | .kf16 | .i16 => 16
  | .kf8e4 | .kf8e5 | .i8 | .u8z => 8
  | .kf4 | .i4 | .u4t | .u4z => 4
  | .kf3 => 3

def Fmt.isInt : Fmt → Bool
  | .i64 | .i32 | .i16 | .i8 | .i4 => true
  | _ => false

/-- The formats whose parameters come from the context (R69). -/
def Fmt.expanded : Fmt → Bool
  | .u4t | .u4z | .u8z => true
  | _ => false

/-- The floating formats: IEEE and short. -/
def Fmt.isFloat (f : Fmt) : Bool := !f.isInt && !f.expanded

/-- Bytes that a tensor of `n` elements occupies (R52, R53). -/
def Fmt.bytes (f : Fmt) (n : Nat) : Nat :=
  match f with
  | .kf3 => 8 * ((n + 20) / 21)
  | _ => (n * f.width + 7) / 8

/-- Alignment of a tensor's base address (R53). -/
def Fmt.align (f : Fmt) : Nat :=
  match f with
  | .kf3 => 8
  | _ => max 1 (f.width / 8)

/-- The bit at which element `i` of a tensor starts (R52). -/
def Fmt.bitAt (f : Fmt) (i : Nat) : Nat :=
  match f with
  | .kf3 => 64 * (i / 21) + 3 * (i % 21)
  | _ => i * f.width

/-- The codes of the first `n` elements of a tensor's bytes (R52, R54). -/
def unpack (f : Fmt) (l : List Byte) (n : Nat) : List Nat :=
  let v := leNat l
  (List.range n).map (fun i => v >>> f.bitAt i % 2 ^ f.width)

/-- A tensor's bytes; unused bits are 0 (R52, R54). -/
def pack (f : Fmt) (codes : List Nat) : List Byte :=
  let v := (codes.zipIdx).foldl (fun acc c => acc ||| ((c.1 % 2 ^ f.width) <<< f.bitAt c.2)) 0
  leBytes (f.bytes codes.length) v

/-! ## Exact values -/

/-- The exact value of a code: a signed zero, a finite nonzero number of magnitude `n / d`, an infinity, a NaN with its
fraction left-aligned in 52 bits, or NaR. -/
inductive Val where
  | zero (neg : Bool)
  | fin (neg : Bool) (n d : Nat)
  | inf (neg : Bool)
  | nan (neg sig : Bool) (frac : Nat)
  | nar
  deriving DecidableEq, Repr

/-- `2^e` as numerator and denominator. -/
def pow2 (e : Int) : Nat × Nat := if 0 ≤ e then (2 ^ e.toNat, 1) else (1, 2 ^ (-e).toNat)

/-- The value ±m·2^e. -/
def Val.scaled (neg : Bool) (m : Nat) (e : Int) : Val :=
  if m = 0 then .zero neg else .fin neg (m * (pow2 e).1) (pow2 e).2

/-- An integer's value. -/
def Val.ofInt (v : Int) : Val := if v = 0 then .zero false else .fin (decide (v < 0)) v.natAbs 1

/-- A binary format with an exponent rule: exponent bits, fraction bits, bias. -/
structure Bin where
  ebits : Nat
  fbits : Nat
  bias : Nat
  deriving DecidableEq, Repr

/-- The parameters of R55, R64, R65 and R66. -/
def Fmt.bin : Fmt → Bin
  | .f64 => ⟨11, 52, 1023⟩
  | .kf16 => ⟨7, 8, 63⟩
  | .kf8e4 => ⟨4, 3, 8⟩
  | .kf8e5 => ⟨5, 2, 16⟩
  | .kf4 => ⟨2, 1, 1⟩
  | _ => ⟨8, 23, 127⟩

/-- The code with the sign bit set and nothing else: NaR in KF8, KF4 and KF3 (R65 to R67). -/
def Fmt.signBit (f : Fmt) : Nat := 2 ^ (f.width - 1)

/-- F64, F32 and KF16 have infinities and NaNs (R55, R64). -/
def Fmt.ieee : Fmt → Bool
  | .f64 | .f32 | .kf16 => true
  | _ => false

/-- The value of a code of a floating or integer format (R55, R64 to R68). -/
def Fmt.value (f : Fmt) (code : Nat) : Val :=
  if f.isInt then Val.ofInt (signed f.width code)
  else
    let neg := decide (f.signBit ≤ code)
    let mag := code % f.signBit
    match f with
    | .kf3 => if mag = 0 then (if neg then .nar else .zero false) else .fin neg (2 ^ (mag - 1)) 1
    | _ =>
      let p := f.bin
      let e := mag / 2 ^ p.fbits
      let m := mag % 2 ^ p.fbits
      if f.ieee && e == 2 ^ p.ebits - 1 then
        if m = 0 then .inf neg
        else .nan neg (decide (m < 2 ^ (p.fbits - 1))) (m <<< (52 - p.fbits))
      else if !f.ieee && neg && mag == 0 then .nar
      else if e = 0 then Val.scaled neg m (1 - (p.bias : Int) - p.fbits)
      else .fin neg ((2 ^ p.fbits + m) * (pow2 ((e : Int) - p.bias - p.fbits)).1) (pow2 ((e : Int) - p.bias - p.fbits)).2

/-! ## Rounding (R58, R72) -/

/-- The rounding attributes (Table 2-11). -/
inductive Rm where
  | rne | rtz | rup | rdn | rna
  deriving DecidableEq, Repr

/-- The attribute of `RMODE`; 5 to 7 are reserved (R72). -/
def rmOf (c : Nat) : Option Rm :=
  match c with
  | 0 => some .rne | 1 => some .rtz | 2 => some .rup | 3 => some .rdn | 4 => some .rna | _ => none

/-- Rounding goes away from zero when the attribute points that way for this sign. -/
def Rm.up (m : Rm) (neg : Bool) : Bool :=
  match m with
  | .rup => !neg
  | .rdn => neg
  | _ => false

/-- Choose between a value's neighbours: `twice` compares the distance to the lower neighbour with that to the upper. -/
def pickUp (m : Rm) (neg : Bool) (twice : Ordering) (loEven : Bool) : Bool :=
  match m with
  | .rtz => false
  | .rup | .rdn => m.up neg
  | .rna => twice != .lt
  | .rne => match twice with
    | .lt => false
    | .gt => true
    | .eq => !loEven

/-- `n / d` in units of `2^q`, rounded, and whether it was inexact. -/
def roundAt (m : Rm) (neg : Bool) (n d : Nat) (q : Int) : Nat × Bool :=
  let num := n * (pow2 (-q)).1
  let den := d * (pow2 (-q)).2
  let lo := num / den
  let rem := num % den
  if rem = 0 then (lo, false)
  else (if pickUp m neg (compare (2 * rem) den) (lo % 2 == 0) then lo + 1 else lo, true)

/-- floor(log2(n / d)) for positive `n` and `d`. -/
def floorLog2 (n d : Nat) : Int :=
  let k : Int := (Nat.log2 n : Int) - Nat.log2 d
  if d * (pow2 k).1 ≤ n * (pow2 k).2 then k else k - 1

/-- Round `±n/d` into F32 or F64 (R22, R58): the code and the flags `OF`, `UF`, `NX`. -/
def roundIeee (f : Fmt) (m : Rm) (neg : Bool) (n d : Nat) : Nat × Tally :=
  let p := f.bin
  let emin : Int := 1 - (p.bias : Int)
  let l := floorLog2 n d
  let e := max l emin
  let r := roundAt m neg n d (e - p.fbits)
  let sign := if neg then f.signBit else 0
  let mag := if r.1 < 2 ^ p.fbits then r.1 else (e - emin + 1).toNat * 2 ^ p.fbits + (r.1 - 2 ^ p.fbits)
  let top := (2 ^ p.ebits - 1) * 2 ^ p.fbits
  if top ≤ mag then
    let away := match m with
      | .rne | .rna => true
      | _ => m.up neg
    (sign + (if away then top else top - 1), { Tally.zero with of := true, nx := true })
  else
    let tiny := decide (l < emin) &&
      !(decide (l = emin - 1) && decide ((roundAt m neg n d (l - p.fbits)).1 = 2 ^ (p.fbits + 1)))
    (sign + mag, { Tally.zero with nx := r.2, uf := tiny && r.2 })

/-- The default NaN of F32, F64 and KF16 (R56, R64). -/
def Fmt.defaultNan (f : Fmt) : Nat := (2 ^ f.bin.ebits - 1) * 2 ^ f.bin.fbits + 2 ^ (f.bin.fbits - 1)

/-- The infinity of a sign. -/
def Fmt.infinity (f : Fmt) (neg : Bool) : Nat := (if neg then f.signBit else 0) + (2 ^ f.bin.ebits - 1) * 2 ^ f.bin.fbits

/-- A NaN whose fraction is cut to the destination and made quiet (R79, Table 2-12). -/
def Fmt.quietNan (f : Fmt) (neg : Bool) (frac : Nat) : Nat :=
  (f.infinity neg) + ((frac >>> (52 - f.bin.fbits)) ||| 2 ^ (f.bin.fbits - 1))

/-- The conversion of an exact value into F32 or F64 (R74, R78, R79). -/
def toIeee (f : Fmt) (m : Rm) (v : Val) : Nat × Tally :=
  match v with
  | .zero neg => (if neg then f.signBit else 0, Tally.zero)
  | .fin neg n d => roundIeee f m neg n d
  | .inf neg => (f.infinity neg, Tally.zero)
  | .nan neg sig frac => (f.quietNan neg frac, if sig then Tally.invalid else Tally.zero)
  | .nar => (f.defaultNan, Tally.zero)

/-- The largest finite magnitude of a short format (Tables 2-5, 2-6, 2-8, 2-9). -/
def Fmt.maxval : Fmt → Nat
  | .kf16 => 511 * 2 ^ 55
  | .kf8e4 => 240
  | .kf8e5 => 57344
  | .kf4 => 6
  | _ => 4

/-- `cvt_short` of R75 for KF3: the level code of `n / d`, not above 4. -/
def roundLevel (m : Rm) (neg : Bool) (n d : Nat) : Nat :=
  let lo := if 4 * d ≤ n then 3 else if 2 * d ≤ n then 2 else if d ≤ n then 1 else 0
  let level : Nat → Nat := fun c => if c = 0 then 0 else 2 ^ (c - 1)
  if n = level lo * d then lo
  else
    if pickUp m neg (compare (2 * (n - level lo * d)) ((level (lo + 1) - level lo) * d)) (lo % 2 == 0)
    then lo + 1 else lo

/-- The conversion of an exact value into a short format (`cvt_short` of R75, R76 to R79). -/
def toShort (f : Fmt) (m : Rm) (v : Val) : Nat × Tally :=
  match v with
  | .zero neg => (if neg && f == .kf16 then f.signBit else 0, Tally.zero)
  | .inf neg => if f = .kf16 then (f.infinity neg, Tally.zero) else (f.signBit, Tally.oneNar)
  | .nan neg _ frac => if f = .kf16 then (f.quietNan neg frac, Tally.zero) else (f.signBit, Tally.oneNar)
  | .nar => if f = .kf16 then (f.defaultNan, Tally.zero) else (f.signBit, Tally.oneNar)
  | .fin neg n d =>
    let sign := if neg then f.signBit else 0
    let p := f.bin
    let emin : Int := 1 - (p.bias : Int)
    let code : Nat → Nat → Nat := fun n d =>
      match f with
      | .kf3 => roundLevel m neg n d
      | _ =>
        let e := max (floorLog2 n d) emin
        let r := (roundAt m neg n d (e - p.fbits)).1
        if r < 2 ^ p.fbits then r else (e - emin + 1).toNat * 2 ^ p.fbits + (r - 2 ^ p.fbits)
    if f.maxval * d < n then (sign + code f.maxval 1, Tally.oneSat)
    else
      let c := code n d
      if c = 0 then (if f = .kf16 then sign else 0, Tally.oneFlush) else (sign + c, Tally.zero)

/-- The range of an integer format (Table 2-10). -/
def Fmt.intMax (f : Fmt) : Int := 2 ^ (f.width - 1) - 1
def Fmt.intMin (f : Fmt) : Int := -(2 ^ (f.width - 1))

/-- An integer clamped into an integer format, and whether it was out of range. -/
def clampInt (f : Fmt) (v : Int) : Int × Bool :=
  if f.intMax < v then (f.intMax, true) else if v < f.intMin then (f.intMin, true) else (v, false)

/-- The conversion of a floating value into an integer format (R80). -/
def floatToInt (f : Fmt) (m : Rm) (v : Val) : Nat × Tally :=
  match v with
  | .zero _ => (0, Tally.zero)
  | .inf neg => (unsigned f.width (if neg then f.intMin else f.intMax), { Tally.oneSat with nv := true })
  | .nan _ _ _ => (0, Tally.invalid)
  | .nar => (0, Tally.invalid)
  | .fin neg n d =>
    let r := roundAt m neg n d 0
    let c := clampInt f (if neg then -(r.1 : Int) else r.1)
    (unsigned f.width c.1, if c.2 then { Tally.oneSat with nv := true } else Tally.inexact r.2)

/-- The conversion of an integer into an integer format (R81). -/
def intToInt (f : Fmt) (v : Int) : Nat × Tally :=
  let c := clampInt f v
  (unsigned f.width c.1, if c.2 then Tally.oneSat else Tally.zero)

/-- The conversion of a floating value into any output format (Table 2-13). -/
def convFloat (f : Fmt) (m : Rm) (v : Val) : Nat × Tally :=
  if f.isInt then floatToInt f m v
  else match f with
    | .f64 | .f32 => toIeee f m v
    | _ => toShort f m v

/-- The conversion of an integer into any output format (R81). -/
def convInt (f : Fmt) (m : Rm) (v : Int) : Nat × Tally :=
  if f.isInt then intToInt f v else convFloat f m (Val.ofInt v)

/-! ## Expanded formats (R69 to R71) -/

/-- The parameters of a context as a descriptor uses them (R69): the F32 table, and the scale and zero point. -/
structure Expand where
  table : Option (List Nat)
  scale : Option (Nat × Nat)
  deriving DecidableEq, Repr

/-- The exact product of a finite value and an integer. -/
def Val.timesInt (v : Val) (k : Int) : Val :=
  match v with
  | .fin neg n d => if k = 0 then .zero false else .fin (xor neg (decide (k < 0))) (n * k.natAbs) d
  | _ => if k = 0 then .zero false else v

/-- The F32 code that an expanded element becomes (R70, R71). -/
def expandCode (x : Expand) (f : Fmt) (q : Nat) : Nat × Tally :=
  match f with
  | .u4t => (nth 0 (x.table.getD []) q, Tally.zero)
  | _ =>
    let p := x.scale.getD (0, 0)
    toIeee .f32 .rne ((Fmt.f32.value p.1).timesInt ((q : Int) - p.2))

/-- The exact value of an input element, after the expansion of R70 or R71 where its format needs one. -/
def inputVal (x : Expand) (f : Fmt) (code : Nat) : Val × Tally :=
  if f.expanded then
    let e := expandCode x f code
    (Fmt.f32.value e.1, e.2)
  else (f.value code, Tally.zero)

end Sys2Proof.Machine
end

