-- ==== Sys2Proof/Machine/Reduce.lean ====
section
/-! DEFINITION. The arithmetic of the spar tree: the canonical fold (R30), IEEE steps (R55 to R59, R91), sums, windows,
extrema, scans and `LSEM` (R89 to R115). -/

namespace Sys2Proof.Machine

open Sys2Proof

/-! ## The canonical fold (R30) -/

/-- The left fold of one group of up to four values, lowest index first. -/
def foldGroup {α : Type} (op : α → α → α × Tally) : α → List α → α × Tally
  | acc, [] => (acc, Tally.zero)
  | acc, x :: r =>
    let a := op acc x
    let b := foldGroup op a.1 r
    (b.1, a.2.join b.2)

/-- One round of `cfold`: each group of four becomes one value. -/
def foldRound {α : Type} (op : α → α → α × Tally) : List α → List α × Tally
  | [] => ([], Tally.zero)
  | [a] => ([a], Tally.zero)
  | [a, b] => let g := foldGroup op a [b]; ([g.1], g.2)
  | [a, b, c] => let g := foldGroup op a [b, c]; ([g.1], g.2)
  | a :: b :: c :: d :: r =>
    let g := foldGroup op a [b, c, d]
    let t := foldRound op r
    (g.1 :: t.1, g.2.join t.2)

/-- Rounds of `cfold` until one value is left. -/
def foldRounds {α : Type} (op : α → α → α × Tally) : Nat → List α → List α × Tally
  | 0, l => (l, Tally.zero)
  | n + 1, l =>
    if l.length ≤ 1 then (l, Tally.zero)
    else
      let a := foldRound op l
      let b := foldRounds op n a.1
      (b.1, a.2.join b.2)

/-- `cfold` of R30 over the present children, in ascending child index. -/
def cfold {α : Type} (op : α → α → α × Tally) (l : List α) : Option α × Tally :=
  let r := foldRounds op l.length l
  (r.1.head?, r.2)

/-! ## IEEE steps on codes of F32 and F64 -/

def Fmt.isNan (f : Fmt) (c : Nat) : Bool := match f.value c with | .nan _ _ _ => true | _ => false
def Fmt.isSig (f : Fmt) (c : Nat) : Bool := match f.value c with | .nan _ sig _ => sig | _ => false
def Fmt.isInf (f : Fmt) (c : Nat) : Bool := match f.value c with | .inf _ => true | _ => false
def Fmt.isNeg (f : Fmt) (c : Nat) : Bool := decide (f.signBit ≤ c)

/-- Quieting sets the fraction MSB and is the identity on everything else (R56, R105). -/
def Fmt.quiet (f : Fmt) (c : Nat) : Nat := if f.isNan c then c ||| 2 ^ (f.bin.fbits - 1) else c

/-- The NaN that a step with these operands in written order returns, and its flag (R57, R91). -/
def nanOf (f : Fmt) (ops : List Nat) : Option (Nat × Tally) :=
  match ops.find? f.isNan with
  | none => none
  | some c => some (f.quiet c, if ops.any f.isSig then Tally.invalid else Tally.zero)

/-- The default NaN of an invalid step (R91). -/
def invalidNan (f : Fmt) : Nat × Tally := (f.defaultNan, Tally.invalid)

/-- The signed fraction of a finite value. -/
def Val.frac : Val → Int × Nat
  | .fin neg n d => (if neg then -(n : Int) else n, d)
  | _ => (0, 1)

/-- A nonzero signed fraction rounded; zero gives the code 0. -/
def roundFrac (f : Fmt) (m : Rm) (n : Int) (d : Nat) : Nat × Tally :=
  if n = 0 then (0, Tally.zero) else roundIeee f m (decide (n < 0)) n.natAbs d

/-- The signed zero of F32 or F64. -/
def Fmt.zeroOf (f : Fmt) (neg : Bool) : Nat := if neg then f.signBit else 0

/-- Addition (R57 to R59, R91). -/
def ieeeAdd (f : Fmt) (m : Rm) (a b : Nat) : Nat × Tally :=
  match nanOf f [a, b] with
  | some r => r
  | none =>
    match f.value a, f.value b with
    | .inf na, .inf nb => if na = nb then (a, Tally.zero) else invalidNan f
    | .inf _, _ => (a, Tally.zero)
    | _, .inf _ => (b, Tally.zero)
    | .zero na, .zero nb => (f.zeroOf (if na = nb then na else m == .rdn), Tally.zero)
    | va, vb =>
      let n := va.frac.1 * vb.frac.2 + vb.frac.1 * va.frac.2
      if n = 0 then (f.zeroOf (m == .rdn), Tally.zero) else roundFrac f m n (va.frac.2 * vb.frac.2)

/-- The sign bit flipped, NaNs kept. -/
def ieeeNeg (f : Fmt) (c : Nat) : Nat := if f.isNan c then c else if f.isNeg c then c - f.signBit else c + f.signBit

/-- Multiplication. -/
def ieeeMul (f : Fmt) (m : Rm) (a b : Nat) : Nat × Tally :=
  match nanOf f [a, b] with
  | some r => r
  | none =>
    let neg := xor (f.isNeg a) (f.isNeg b)
    match f.value a, f.value b with
    | .inf _, .zero _ => invalidNan f
    | .zero _, .inf _ => invalidNan f
    | .inf _, _ => (f.infinity neg, Tally.zero)
    | _, .inf _ => (f.infinity neg, Tally.zero)
    | .fin _ n1 d1, .fin _ n2 d2 => roundIeee f m neg (n1 * n2) (d1 * d2)
    | _, _ => (f.zeroOf neg, Tally.zero)

/-- Division (Table 2-3). -/
def ieeeDiv (f : Fmt) (m : Rm) (a b : Nat) : Nat × Tally :=
  match nanOf f [a, b] with
  | some r => r
  | none =>
    let neg := xor (f.isNeg a) (f.isNeg b)
    match f.value a, f.value b with
    | .inf _, .inf _ => invalidNan f
    | .zero _, .zero _ => invalidNan f
    | .inf _, _ => (f.infinity neg, Tally.zero)
    | .fin _ _ _, .zero _ => (f.infinity neg, { Tally.zero with dz := true })
    | .fin _ n1 d1, .fin _ n2 d2 => roundIeee f m neg (n1 * d2) (d1 * n2)
    | _, _ => (f.zeroOf neg, Tally.zero)

/-- The order of codes that are not NaN, with −0 < +0. -/
def Fmt.rank (f : Fmt) (c : Nat) : Int := if f.isNeg c then -((c % f.signBit : Nat) : Int) - 1 else (c : Int)

/-- Magnitude as an order of codes. -/
def Fmt.mag (f : Fmt) (c : Nat) : Nat := c % f.signBit

/-! ## Extrema (R104, R105, Table 3-6) -/

/-- The six extrema. -/
inductive Ext where
  | max | min | maxnum | minnum | amax | amin
  deriving DecidableEq, Repr

/-- The greater and the lesser of two codes that are not NaN. -/
def Fmt.greater (f : Fmt) (a b : Nat) : Nat := if f.rank a < f.rank b then b else a
def Fmt.lesser (f : Fmt) (a b : Nat) : Nat := if f.rank b < f.rank a then b else a

/-- The element function on floating operands. -/
def extFloat (k : Ext) (f : Fmt) (a b : Nat) : Nat × Tally :=
  let sig := if f.isSig a || f.isSig b then Tally.invalid else Tally.zero
  let viaNum : Nat → Nat × Tally := fun r =>
    if f.isNan a then (if f.isNan b then f.quiet a else b, sig)
    else if f.isNan b then (a, sig) else (r, Tally.zero)
  let viaNan : Nat → Nat × Tally := fun r => (nanOf f [a, b]).getD (r, Tally.zero)
  match k with
  | .max => viaNan (f.greater a b)
  | .min => viaNan (f.lesser a b)
  | .maxnum => viaNum (f.greater a b)
  | .minnum => viaNum (f.lesser a b)
  | .amax => viaNan (if f.mag a < f.mag b then b else if f.mag b < f.mag a then a else f.greater a b)
  | .amin => viaNan (if f.mag a < f.mag b then a else if f.mag b < f.mag a then b else f.lesser a b)

/-- The element function on integer operands. -/
def extInt (k : Ext) (a b : Int) : Int :=
  match k with
  | .max | .maxnum => if a < b then b else a
  | .min | .minnum => if b < a then b else a
  | .amax => if a.natAbs < b.natAbs then b else if b.natAbs < a.natAbs then a else if a < b then b else a
  | .amin => if a.natAbs < b.natAbs then a else if b.natAbs < a.natAbs then b else if b < a then b else a

/-! ## `exp_k` and `LSEM` (R111 to R115) -/

/-- The table T of R114: entry j is round_rne(2^(j/64), F32). -/
def expTable : List Nat :=
  [0x3F800000, 0x3F8164D2, 0x3F82CD87, 0x3F843A29, 0x3F85AAC3, 0x3F871F62, 0x3F88980F, 0x3F8A14D5,
   0x3F8B95C2, 0x3F8D1ADF, 0x3F8EA43A, 0x3F9031DC, 0x3F91C3D3, 0x3F935A2B, 0x3F94F4F0, 0x3F96942D,
   0x3F9837F0, 0x3F99E046, 0x3F9B8D3A, 0x3F9D3EDA, 0x3F9EF532, 0x3FA0B051, 0x3FA27043, 0x3FA43516,
   0x3FA5FED7, 0x3FA7CD94, 0x3FA9A15B, 0x3FAB7A3A, 0x3FAD583F, 0x3FAF3B79, 0x3FB123F6, 0x3FB311C4] ++
  [0x3FB504F3, 0x3FB6FD92, 0x3FB8FBAF, 0x3FBAFF5B, 0x3FBD08A4, 0x3FBF179A, 0x3FC12C4D, 0x3FC346CD,
   0x3FC5672A, 0x3FC78D75, 0x3FC9B9BE, 0x3FCBEC15, 0x3FCE248C, 0x3FD06334, 0x3FD2A81E, 0x3FD4F35B,
   0x3FD744FD, 0x3FD99D16, 0x3FDBFBB8, 0x3FDE60F5, 0x3FE0CCDF, 0x3FE33F89, 0x3FE5B907, 0x3FE8396A,
   0x3FEAC0C7, 0x3FED4F30, 0x3FEFE4BA, 0x3FF28177, 0x3FF5257D, 0x3FF7D0DF, 0x3FFA83B3, 0x3FFD3E0C]

/-- An inner step of `exp_k` raises only `NX` (R115). -/
def innerStep (r : Nat × Tally) : Nat × Tally := (r.1, Tally.inexact r.2.nx)

/-- The F32 steps of `exp_k` under `RNE`. -/
def mul32 (a b : Nat) : Nat × Tally := ieeeMul .f32 .rne a b
def add32 (a b : Nat) : Nat × Tally := ieeeAdd .f32 .rne a b

/-- The integer nearest a finite value, ties to even. -/
def nearestInt (v : Val) : Int :=
  match v with
  | .fin neg n d => let r := (roundAt .rne neg n d 0).1; if neg then -(r : Int) else r
  | _ => 0

/-- The polynomial and scaling of `exp_k` below its thresholds (R113). -/
def expCore (x : Nat) : Nat × Tally :=
  let t := innerStep (mul32 x 0x42B8AA3B)
  let n := nearestInt (Fmt.f32.value t.1)
  let j := (n % 64).toNat
  let k := n / 64
  let c := (Fmt.f64.value 0x3F862E42FEFA39EF).frac
  let v := (Fmt.f32.value x).frac
  let num := v.1 * c.2 - n * c.1 * v.2
  let r := innerStep (if num = 0 then (if n = 0 then x else 0, Tally.zero) else roundFrac .f32 .rne num (v.2 * c.2))
  let h1 := innerStep (mul32 0x3E2AAAAB r.1)
  let h2 := innerStep (add32 h1.1 0x3F000000)
  let h3 := innerStep (mul32 h2.1 r.1)
  let h4 := innerStep (add32 h3.1 0x3F800000)
  let h5 := innerStep (mul32 h4.1 r.1)
  let tj := nth 0 expTable j
  let u := innerStep (mul32 tj h5.1)
  let a := (Fmt.f32.value tj).frac
  let b := (Fmt.f32.value u.1).frac
  let y := roundFrac .f32 .rne ((a.1 * b.2 + b.1 * a.2) * (pow2 k).1) (a.2 * b.2 * (pow2 k).2)
  (y.1, Tally.joinAll [t.2, r.2, h1.2, h2.2, h3.2, h4.2, h5.2, u.2, y.2])

/-- `exp_k` of R113. -/
def expK (x : Nat) : Nat × Tally :=
  match nanOf .f32 [x] with
  | some r => r
  | none =>
    if x = Fmt.f32.infinity false then (x, Tally.zero)
    else if x = Fmt.f32.infinity true then (0, Tally.zero)
    else if 0x42B20000 ≤ x ∧ x < 0x80000000 then
      (Fmt.f32.infinity false, { Tally.zero with of := true, nx := true })
    else if 0xC2D00000 ≤ x then (0, { Tally.zero with uf := true, nx := true })
    else expCore x

/-- `lsem_op` of R112 on pairs of F32 codes. -/
def lsemOp (a b : Nat × Nat) : (Nat × Nat) × Tally :=
  if Fmt.f32.isNan a.1 || Fmt.f32.isNan b.1 then
    match nanOf .f32 [a.1, b.1] with
    | some q => ((q.1, q.1), q.2)
    | none => (a, Tally.zero)
  else
    let m := Fmt.f32.greater a.1 b.1
    if Fmt.f32.isInf m then
      if a.1 = m ∧ b.1 = m then let s := add32 a.2 b.2; ((m, s.1), s.2)
      else if a.1 = m then (a, Tally.zero)
      else (b, Tally.zero)
    else
      let da := add32 a.1 (ieeeNeg .f32 m)
      let db := add32 b.1 (ieeeNeg .f32 m)
      let ea := expK da.1
      let eb := expK db.1
      let ta := mul32 a.2 ea.1
      let tb := mul32 b.2 eb.1
      let s := add32 ta.1 tb.1
      ((m, s.1), Tally.joinAll [da.2, db.2, ea.2, eb.2, ta.2, tb.2, s.2])

/-! ## Pass 1, windows and keys of P2 and P3 (R94 to R97) -/

/-- The pass-1 word of an element in F32 (Table 3-3). -/
def classWord (c : Nat) : Nat :=
  match Fmt.f32.value c with
  | .nan _ _ _ => 0x8000
  | .inf neg => if neg then 0x2000 else 0x4000
  | .zero neg => if neg then 0x0800 else 0x1000
  | .fin _ n d => (floorLog2 n d + 150).toNat
  | .nar => 0x8000

/-- Words combine by OR on [15:11] and by unsigned maximum on [8:0] (R94). -/
def joinWord (a b : Nat) : Nat := ((a ||| b) >>> 11 <<< 11) ||| max (a % 512) (b % 512)

/-- What pass 1 settles of an element (Table 3-4): a root value, the key pass, or the windows with E. -/
inductive Settled where
  | value (v : Val) (t : Tally)
  | key
  | window (e : Int)
  deriving DecidableEq, Repr

/-- Table 3-4 on a combined word; `rdn` is `RMODE` = `RDN`. -/
def settle (w : Nat) (rdn : Bool) : Settled :=
  if w / 0x8000 % 2 = 1 then .key
  else if w / 0x4000 % 2 = 1 ∧ w / 0x2000 % 2 = 1 then .value .nar Tally.invalid
  else if w / 0x4000 % 2 = 1 then .value (.inf false) Tally.zero
  else if w / 0x2000 % 2 = 1 then .value (.inf true) Tally.zero
  else if w % 512 = 0 then
    .value (.zero (decide (w / 0x0800 % 2 = 1) && (decide (w / 0x1000 % 2 = 0) || rdn))) Tally.zero
  else .window ((w % 512 : Nat) - 150)

/-- ±n/d · 2^k truncated toward zero. -/
def truncScaled (neg : Bool) (n d : Nat) (k : Int) : Int :=
  let q := (n * (pow2 k).1) / (d * (pow2 k).2)
  if neg then -(q : Int) else q

/-- The two window integers of a contribution in F32, and `NX` (R97). `p3` is the mode. -/
def windows (p3 : Bool) (e : Int) (c : Nat) : (Int × Int) × Tally :=
  match Fmt.f32.value c with
  | .fin neg n d =>
    let w1 := truncScaled neg n d (37 - e)
    let w2 := truncScaled neg n d (75 - e) - w1 * 2 ^ 38
    let sn : Int := if neg then -(n : Int) else n
    let exact1 := decide (w1 * d * (pow2 (e - 37)).1 = sn * (pow2 (e - 37)).2)
    let exact2 := decide ((w1 * 2 ^ 38 + w2) * d * (pow2 (e - 75)).1 = sn * (pow2 (e - 75)).2)
    if p3 then ((w1, w2), Tally.inexact (!exact2)) else ((w1, 0), Tally.inexact (!exact1))
  | _ => ((0, 0), Tally.zero)

/-- The root value of summed windows (R97). -/
def windowValue (p3 : Bool) (e : Int) (m : Rm) (s1 s2 : Int) : Val :=
  let x := if p3 then s1 * 2 ^ 38 + s2 else s1
  let k := if p3 then e - 75 else e - 37
  if x = 0 then .zero (m == .rdn) else Val.scaled (decide (x < 0)) x.natAbs k

/-- The key of a contribution in F32 (R96). -/
def nanKey (rig c : Nat) : Nat := if Fmt.f32.isNan c then rig * 2 ^ 32 + c else 0xFFFFFFFFFFFFFFFF

/-! ## The tree's step on elements -/

/-- The operation that the nodes apply in one pass of a collective. -/
inductive Comb where
  | fsum (a : Fmt) (m : Rm)
  | isum
  | ext (k : Ext) (a : Fmt)
  | iext (k : Ext)
  | band | bor | bxor
  | lsem
  | word
  | window
  | nsMax
  | level
  deriving DecidableEq, Repr

/-- The sentinel of `NSUM` (R125): the 32-bit code 0x8000_0000. -/
def sentinel : Int := -(2 ^ 31)

/-- The number an element carries as an integer. -/
def elemNum : Elem → Int
  | .int v _ => v
  | _ => 0

/-- One step of the tree on two elements, `a` from the lower child (R91 to R112, R123, R127). -/
def Comb.step (k : Comb) (a b : Elem) : Elem × Tally :=
  match k, a, b with
  | .fsum f m, .flt x p, .flt y _ => let r := ieeeAdd f m x.toNat y.toNat; (.flt (BitVec.ofNat 64 r.1) p, r.2)
  | .ext e f, .flt x p, .flt y q =>
    let r := extFloat e f x.toNat y.toNat
    (.flt (BitVec.ofNat 64 r.1) (if r.1 = f.quiet x.toNat then p else q), r.2)
  | .iext e, .int x p, .int y q => let r := extInt e x y; (.int r (if r = x then p else q), Tally.zero)
  | .isum, .int x p, .int y _ => (.int (x + y) p, Tally.zero)
  | .band, .int x p, .int y _ => (.int (x.toNat &&& y.toNat : Nat) p, Tally.zero)
  | .bor, .int x p, .int y _ => (.int (x.toNat ||| y.toNat : Nat) p, Tally.zero)
  | .bxor, .int x p, .int y _ => (.int (x.toNat ^^^ y.toNat : Nat) p, Tally.zero)
  | .lsem, .pair m s, .pair m' s' =>
    let r := lsemOp (m.toNat, s.toNat) (m'.toNat, s'.toNat)
    (.pair (BitVec.ofNat 32 r.1.1) (BitVec.ofNat 32 r.1.2), r.2)
  | .word, .int x p, .int y _ => (.int (joinWord x.toNat y.toNat : Nat) p, Tally.zero)
  | .window, .win x1 x2, .win y1 y2 => (.win (x1 + y1) (x2 + y2), Tally.zero)
  | .window, .int x p, .int y _ => (.int (min x y) p, Tally.zero)
  | .nsMax, .int x p, .int y _ => (.int (max x y) p, Tally.zero)
  | .level, .int x p, .int y _ => (.int (if x = sentinel ∨ y = sentinel then sentinel else x + y) p, Tally.zero)
  | _, x, _ => (x, Tally.zero)

/-- A step on whole contributions: every element position folds by itself (R32). -/
def Comb.stepAll (k : Comb) : List Elem → List Elem → List Elem × Tally
  | x :: xs, y :: ys =>
    let r := k.step x y
    let t := k.stepAll xs ys
    (r.1 :: t.1, r.2.join t.2)
  | xs, [] => (xs, Tally.zero)
  | [], ys => (ys, Tally.zero)

/-- The canonical fold of whole contributions. -/
def Comb.fold (k : Comb) (l : List (List Elem)) : Option (List Elem) × Tally := cfold k.stepAll l

/-- Values gathered by child index: the fold of each run of equal indices, ascending. -/
def Comb.foldBy (k : Comb) (child : Nat → Nat) (l : List (Nat × List Elem)) : List (Nat × List Elem) × Tally :=
  let kids := uniq ((sortBy (·.1) l).map (fun x => child x.1))
  let folded := kids.map (fun c =>
    let r := k.fold (((sortBy (·.1) l).filter (fun x => child x.1 = c)).map (·.2))
    ((c, r.1.getD []), r.2))
  gather folded

/-- The folds of R32 from level 2 up to the root of the smallest enclosing subtree, of contributions by rig index. -/
def Comb.tree (k : Comb) (l : List (Nat × List Elem)) : Option (List Elem) × Tally :=
  let l2 := k.foldBy (· >>> 4) l
  let l3 := k.foldBy (· >>> 5) l2.1
  let l4 := k.foldBy (· >>> 1) l3.1
  let l5 := k.foldBy (· >>> 4) l4.1
  let l6 := k.foldBy (· >>> 5) l5.1
  let l7 := k.foldBy (· >>> 6) l6.1
  (l7.1.head?.map (·.2), Tally.joinAll [l2.2, l3.2, l4.2, l5.2, l6.2, l7.2])

end Sys2Proof.Machine
end

