-- ==== Sys2Proof/Machine/Fairlead.lean ====
section
/-! DEFINITION. Fairlead's arithmetic: selection, gate weights, slots and capacity (R182 to R192). -/

namespace Sys2Proof.Machine

open Sys2Proof

/-- `ranks_before` of R183 on F32 codes that are not NaN; equal values include −0 and +0. -/
def ranksBefore (xs : List Nat) (a b t e : Nat) (rot : Bool) : Bool :=
  let va := (Fmt.f32.value (nth 0 xs a))
  let vb := (Fmt.f32.value (nth 0 xs b))
  let zero : Val → Bool := fun v => match v with | .zero _ => true | _ => false
  let ra := if zero va then 0 else Fmt.f32.rank (nth 0 xs a)
  let rb := if zero vb then 0 else Fmt.f32.rank (nth 0 xs b)
  if rb < ra then true
  else if ra < rb then false
  else if rot then decide (((a : Int) - t) % e < ((b : Int) - t) % e)
  else decide (a < b)

/-- The member of `cand` that ranks before every other. -/
def bestOf (xs : List Nat) (t e : Nat) (rot : Bool) (cand : List Nat) : Option Nat :=
  cand.foldl (fun best c => match best with
    | none => some c
    | some b => if ranksBefore xs c b t e rot then some c else some b) none

/-- `select` of R183: the experts of a token, side 0 first. -/
def selectExperts (xs : List Nat) (t : Nat) (k : Nat) (rot : Bool) : List (Option Nat) :=
  let e := xs.length
  let cand := (List.range e).filter (fun i => !Fmt.f32.isNan (nth 0 xs i))
  let first := bestOf xs t e rot cand
  if k = 1 then [first]
  else
    [first, match first with
      | none => none
      | some f => bestOf xs t e rot (cand.filter (fun i => i ≠ f))]

/-- Gate modes (Table 6-1). -/
inductive GateMode where
  | sel | all | one
  deriving DecidableEq, Repr

/-- The F32 code of a count's reciprocal (R185). -/
def reciprocal (c : Nat) : Nat × Tally := roundIeee .f32 .rne false 1 c

/-- The value p of an expert in a list of (expert, p). -/
def weightOf (ps : List (Nat × Nat)) (e : Nat) : Nat :=
  match ps.find? (fun q => q.1 == e) with
  | some q => q.2
  | none => 0

/-- The pair (e, p[e]) of R185: exp_k of the score's distance below the largest. -/
def expTerm (xs : List Nat) (m c : Nat) : (Nat × Nat) × Tally :=
  let d := add32 (nth 0 xs c) (ieeeNeg .f32 m)
  let x := expK d.1
  ((c, x.1), d.2.join x.2)

/-- `gate` of R185: the F32 weight of each side. -/
def gateWeights (xs : List Nat) (sel : List (Option Nat)) (mode : GateMode) : List Nat × Tally :=
  if mode = .one then (sel.map (fun i => if i.isSome then 0x3F800000 else 0), Tally.zero)
  else
    let chosen := match mode with
      | .all => (List.range xs.length).filter (fun i => !Fmt.f32.isNan (nth 0 xs i))
      | _ => sortBy id (sel.filterMap id)
    match chosen with
    | [] => (sel.map (fun _ => 0), Tally.zero)
    | c0 :: rest =>
      let m := rest.foldl (fun m c => Fmt.f32.greater m (nth 0 xs c)) (nth 0 xs c0)
      if Fmt.f32.isInf m then
        let r := reciprocal ((chosen.filter (fun c => nth 0 xs c = m)).length)
        let hit := sel.map (fun i => match i with | none => false | some e => nth 0 xs e == m)
        (hit.map (fun h => if h then r.1 else 0), if hit.any id then r.2 else Tally.zero)
      else
        let ps := gather (chosen.map (expTerm xs m))
        let z := cfold add32 (ps.1.map Prod.snd)
        let ws := sel.map (fun i => match i with
          | none => (0, Tally.zero)
          | some e =>
            ieeeDiv .f32 .rne (weightOf ps.1 e) (z.1.getD 0x3F800000))
        (ws.map (·.1), ps.2.join (z.2.join (Tally.joinAll (ws.map (·.2)))))

/-- The flags of a score row: a signalling NaN raises `NV` (R183). -/
def scoreTally (f : Fmt) (codes : List Nat) : Tally := if codes.any f.isSig then Tally.invalid else Tally.zero

/-- The number of rows before `r` whose side selected `e` (R188). -/
def seenBefore (side : List (Option Nat)) (r e : Nat) : Nat := ((side.take r).filter (fun x => x = some e)).length

/-- The count vector of a member (R187, R188): side 0, then side 1 when k = 2. -/
def countVector (nexp : Nat) (sides : List (List (Option Nat))) : List Int :=
  sides.flatMap (fun side => (List.range nexp).map (fun e => ((side.filter (fun x => x = some e)).length : Int)))

/-- The slot of each row's selection on a side (R188): `base e` precedes this member's own. -/
def slotsOf (base : Nat → Nat) (side : List (Option Nat)) : List (Option Nat) :=
  (side.zipIdx).map (fun x => x.1.map (fun e => base e + seenBefore side x.2 e))

/-- One side of a routed token: its expert, whether it is dropped, its slot and its stored weight (R186, R190, R191). -/
structure Side where
  exp : Nat
  valid : Bool
  drop : Bool
  slot : Nat
  w : Nat
  deriving DecidableEq, Repr

/-- The side of a token after capacity, before renormalisation; the weight is its F32 code. -/
def sideOf (sel : Option Nat) (slot : Option Nat) (cap w : Nat) : Side :=
  match sel, slot with
  | some e, some n =>
    if cap ≤ n then { exp := e, valid := false, drop := true, slot := 0xFFFFFF, w := 0 }
    else { exp := e, valid := true, drop := false, slot := n, w := w }
  | _, _ => { exp := 0, valid := false, drop := false, slot := 0xFFFFFF, w := 0 }

/-- Renormalisation (R190): the other side was dropped and this one is kept with a nonzero weight. -/
def renorm (on : Bool) (x other : Side) : Side :=
  if on && other.drop && x.valid && x.w != 0 && x.w != 0x80000000 then { x with w := 0x3F800000 } else x

/-- The stored KF16 weight of a valid side (R186). -/
def Side.stored (x : Side) : Nat × Tally := if x.valid then toShort .kf16 .rne (Fmt.f32.value x.w) else (0, Tally.zero)

/-- A route record (Table 6-2). -/
def routeRecord (a b : Side) (w0 w1 : Nat) : BitVec 128 :=
  fields 128 [(96, 16, w1), (80, 16, w0), (56, 24, b.slot), (32, 24, a.slot), (31, 1, flag b.drop), (30, 1, flag a.drop),
    (29, 1, flag b.valid), (28, 1, flag a.valid), (12, 12, b.exp), (0, 12, a.exp)]

/-- A ledger entry in a state (Table 6-3). -/
def ledgerEntry (state tag token : Nat) (k2 : Bool) (a b : Side) (w0 w1 : Nat) : BitVec 160 :=
  fields 160 [(157, 3, state), (154, 1, flag b.valid), (153, 1, flag a.valid), (152, 1, flag k2), (136, 16, tag),
    (112, 24, token), (100, 12, a.exp), (88, 12, b.exp), (72, 16, w0), (56, 16, w1), (32, 24, a.slot), (8, 24, b.slot),
    (7, 1, flag b.drop), (6, 1, flag a.drop)]

end Sys2Proof.Machine
end

