-- ==== Sys2Proof/Machine/Ledger.lean ====
section
/-! DEFINITION. The route ledger: entries on the die and in the saddlebag, tag slots, and what ends an entry's or a tag's
life (R194 to R208). -/

namespace Sys2Proof.Machine

open Sys2Proof

/-! ## Entries (Tables 6-3 and 6-4) -/

def leState (e : BitVec 160) : Nat := bits e 157 3
def leArr (e : BitVec 160) (i : Nat) : Bool := bit e (155 + i)
def leSv (e : BitVec 160) (i : Nat) : Bool := bit e (153 + i)
def leTag (e : BitVec 160) : Nat := bits e 136 16
def leToken (e : BitVec 160) : Nat := bits e 112 24
def leW (e : BitVec 160) (i : Nat) : Nat := if i = 0 then bits e 72 16 else bits e 56 16

def leSetState (e : BitVec 160) (st : Nat) : BitVec 160 := setBits e 157 3 st
def leSetArr (e : BitVec 160) (i : Nat) : BitVec 160 := setBits e (155 + i) 1 1

/-- The states of Table 6-4. -/
def lsFree : Nat := 0
def lsRouted : Nat := 1
def lsWaiting : Nat := 2
def lsCombined : Nat := 3
def lsCancelled : Nat := 4
def lsSpilled : Nat := 5

/-- Every valid side's notice has arrived (R203, R220). -/
def leAllArrived (e : BitVec 160) : Bool := (!leSv e 0 || leArr e 0) && (!leSv e 1 || leArr e 1)

/-- An entry that is routed and not yet combined (R201). -/
def leOpen (e : BitVec 160) : Bool := leState e == lsRouted || leState e == lsSpilled || leState e == lsWaiting

/-- An entry is ready for a standing `COMBINE` (R220). -/
def leReady (e : BitVec 160) : Bool :=
  (leState e == lsWaiting && leAllArrived e) ||
    ((leState e == lsRouted || leState e == lsSpilled) && !leSv e 0 && !leSv e 1)

/-! ## Where an entry lies (R196, R198) -/

/-- A block number at or above 1,024 is a saddlebag block. -/
def inSaddlebag (block : Nat) : Bool := decide (1024 ≤ block)

/-- The index of an entry: on the die, or among saddlebag entries. -/
def entryIndex (block j : Nat) : Nat := if inSaddlebag block then 1024 * (block - 1024) + j else 1024 * block + j

def entryDefault : Nat → BitVec 160 := fun _ => 0

/-- What reading an entry gives (R197, R198, R199). -/
inductive EntryRead where
  | entry (e : BitVec 160)
  | uncorrectable
  | crcFailed
  deriving DecidableEq, Repr

/-- The address of a saddlebag entry. -/
def State.sbAddr (s : State) (i : Nat) : Nat := s.policy 0x10 + 32 * i

/-- The bank of a die entry: a block holds 16 rows of 64 banks (R197). -/
def bankOf (i : Nat) : Nat := i % 64

/-- The lost bank has no backing (R397): since it was lost, or because the saddlebag is too small; a second lost bank has none. DEDUCED,
log 77. -/
def State.bankUnbacked (s : State) : Bool :=
  !s.units.lostBanks.isEmpty &&
    (s.units.unbacked || decide (s.policy 0x11 < 16384) || decide (1 < s.units.lostBanks.length))

/-- The saddlebag entry that holds an entry: its own, or that which stands for an entry of the lost bank (R397: the last 16,384, in the
order of the bank's entries, DEDUCED, log 77). -/
def State.sbIndex (s : State) (block j : Nat) : Option Nat :=
  let i := entryIndex block j
  if inSaddlebag block then some i
  else if s.units.lostBanks.contains (bankOf i) && !s.bankUnbacked then some (s.policy 0x11 - 16384 + i / 64)
  else none

/-- Read saddlebag entry `i` for a tag and token (R198, R199); one that holds no token is not read. -/
def State.readSb (s : State) (i tag token : Nat) : EntryRead :=
  if s.led.sbHeld.contains i then
    let l := load s (s.sbAddr i) 24
    let e := BitVec.ofNat 160 (leNat (l.take 20))
    if (crc32c (l.take 20)).toNat = leNat (l.drop 20) ∧ leTag e = tag ∧ leToken e = token then .entry e
    else .crcFailed
  else .entry 0

/-- Read entry `j` of a block for a tag and token. -/
def State.readEntry (s : State) (block j tag token : Nat) : EntryRead :=
  match s.sbIndex block j with
  | some i => s.readSb i tag token
  | none =>
    let i := entryIndex block j
    if s.led.bad.contains i then .uncorrectable else .entry (Tbl.get entryDefault s.led.die i)

/-- The 32 bytes of a saddlebag entry (R198). -/
def sbBytes (e : BitVec 160) : List Byte :=
  let l := wordBytes 20 e
  l ++ wordBytes 4 (crc32c l) ++ leBytes 8 0

/-- Write an entry; a freed saddlebag entry is not written (R198), and a freed die entry reads 0 (DEDUCED, log 25). -/
def State.writeEntry (s : State) (block j : Nat) (e : BitVec 160) : State :=
  match s.sbIndex block j with
  | some i =>
    let rest := s.led.sbHeld.filter (fun k => k ≠ i)
    if leState e = lsFree then { s with led := { s.led with sbHeld := rest } }
    else store { s with led := { s.led with sbHeld := i :: rest } } (s.sbAddr i) (sbBytes e)
  | none =>
    let i := entryIndex block j
    { s with led := { s.led with
        die := Tbl.set entryDefault s.led.die i (if leState e = lsFree then 0 else e)
        bad := s.led.bad.filter (fun k => k ≠ i) } }

/-! ## Tag slots (R200) -/

def tagDefault : Nat → TagSlot := fun _ =>
  { st := .free, tag := 0, gen := 0, tokBase := 0, ntok := 0, blocks := [], routeDone := false, routeCancelled := false
    nopen := 0 }

def State.tagSlot (s : State) (k : Nat) : TagSlot := Tbl.get tagDefault s.led.tags k

def State.setTag (s : State) (k : Nat) (x : TagSlot) : State :=
  { s with led := { s.led with tags := Tbl.set tagDefault s.led.tags k x } }

/-- The slot in which a tag is live or in quarantine. -/
def State.findTag (s : State) (tag : Nat) : Option Nat :=
  (List.range 64).find? (fun k => (s.tagSlot k).st ≠ .free && (s.tagSlot k).tag.toNat == tag)

/-- The block and index of row `r` of a tag (R196). -/
def TagSlot.place (x : TagSlot) (r : Nat) : Nat × Nat := (nth 0 x.blocks (r / 1024), r % 1024)

/-- Read the entry of row `r` of a slot; it is `FREE` until the tag's `ROUTE` completes (R193, R204). -/
def State.readRow (s : State) (x : TagSlot) (r : Nat) : EntryRead :=
  if x.routeDone then s.readEntry (x.place r).1 (x.place r).2 x.tag.toNat (x.tokBase + r) else .entry 0

/-- The entry of a row, if it can be read. -/
def State.rowEntry (s : State) (x : TagSlot) (r : Nat) : Option (BitVec 160) :=
  match s.readRow x r with
  | .entry e => some e
  | _ => none

def State.writeRow (s : State) (x : TagSlot) (r : Nat) (e : BitVec 160) : State :=
  s.writeEntry (x.place r).1 (x.place r).2 e

/-- A row's entry satisfies a test; an unreadable one does not. -/
def State.rowIs (s : State) (x : TagSlot) (r : Nat) (p : BitVec 160 → Bool) : Bool :=
  match s.rowEntry x r with
  | some e => p e
  | none => false

/-- The tag has an entry in `ROUTED`, `SPILLED` or `WAITING`, readable or not, or its `ROUTE` has not completed (R201, R219). -/
def TagSlot.isOpen (x : TagSlot) : Bool := !x.routeDone || x.nopen != 0

/-- One entry of a slot leaves `ROUTED`, `SPILLED` and `WAITING` (R219). -/
def State.closeRow (s : State) (k : Nat) : State :=
  let x := s.tagSlot k
  s.setTag k { x with nopen := x.nopen - 1 }

/-- A slot passes to `TAG_FREE`: its blocks are free, and the operations that are left on it belong to no slot any more. The spec frees
the blocks of a tag only under R206; that those of a tag that ends otherwise stay taken until its slot is free is a DESIGN CHOICE, log 11. -/
def State.freeSlot (s : State) (k : Nat) : State :=
  let s := s.setTag k (tagDefault 0)
  { s with ops := { s.ops with combs := mapIf (fun o => o.slot == k) (fun o => { o with slot := 64 }) s.ops.combs } }

/-- The slot still holds an entry; an unreadable one holds its token. -/
def State.tagHolds (s : State) (x : TagSlot) : Bool :=
  (List.range x.ntok).any (fun r => match s.readRow x r with
    | .entry e => leState e != lsFree
    | _ => true)

/-- A slot in quarantine passes to `TAG_FREE` when it holds no entry and its `ROUTE` has completed (R203, R205). -/
def State.settleTag (s : State) (k : Nat) : State :=
  let x := s.tagSlot k
  if x.st = .quarantine && x.routeDone && !s.tagHolds x then s.freeSlot k else s

/-- The blocks that tags hold: all that a `ROUTE` took, until its slot is free (DESIGN CHOICE, log 11). -/
def State.heldBlocks (s : State) : List Nat := (s.led.tags.map (·.2)).flatMap (·.blocks)

/-- Saddlebag blocks open to spill; the last 16 are withdrawn under `REEF_LEDGER` (R196, R397). -/
def State.sbBlocks (s : State) : Nat :=
  let n := s.policy 0x11 / 1024
  if s.units.lostBanks.isEmpty then n else n - 16

/-- The last 16,384 saddlebag entries can back a bank that is lost now (R397): they are there, and hold no live spill. -/
def State.canBack (s : State) : Bool :=
  decide (16384 ≤ s.policy 0x11) && !s.heldBlocks.any (fun b => decide (1024 + s.policy 0x11 / 1024 - 16 ≤ b))

/-- The free blocks that a `ROUTE` of `n` tokens takes (R196): the lowest (DESIGN CHOICE, log 75); none when there is not enough room. -/
def State.takeBlocks (s : State) (n : Nat) : Option (List Nat) :=
  let need := (n + 1023) / 1024
  let held := s.heldBlocks
  let free := (List.range (1024 + s.sbBlocks)).filter (fun b => !held.contains b)
  if s.bankUnbacked || decide (free.length < need) then none else some (free.take need)

/-! ## Combines on a tag -/

def dNtok (d : Desc) : Nat := bits d.q2 0 21
def dTokFirst (d : Desc) : Nat := bits d.q2 24 24
def dTag (d : Desc) : Nat := bits d.q2 48 16
def dNoResid (d : Desc) : Bool := bit d.q1 32
def dGradRet (d : Desc) : Bool := bit d.q1 33

/-- A standing `COMBINE` (R220). -/
def standing (d : Desc) : Bool := dOpcode d == 0x28 && !dGradRet d

/-- A lane of a standing `COMBINE` has begun on a token of a slot (R203, R207). -/
def State.laneBegun (s : State) (k token : Nat) : Bool :=
  s.ops.combs.any (fun o => o.slot == k && standing o.desc && o.lanes.any (fun l => l.1 == token))

/-- The tokens that an operation names. -/
def combTokens (d : Desc) : List Nat := (List.range (dNtok d)).map (fun i => dTokFirst d + i)

/-- Tokens of an operation that are neither served nor begun. -/
def CombOp.rest (o : CombOp) : List Nat :=
  (combTokens o.desc).filter (fun t => !o.served.contains t && !o.lanes.any (fun l => l.1 == t))

/-- No row of the operation that has not begun is written any more (R224): a `TAG_CANCEL` counts the rest, any other event
gives the operation its status. -/
def CombOp.stop (o : CombOp) (st : Option CStatus) : CombOp :=
  match st with
  | some x => if o.cause.isSome then o else { o with cause := some x, ready := [] }
  | none => if o.cause.isSome then o else { o with ncancel := o.ncancel + o.rest.length, served := o.served ++ o.rest, ready := [] }

/-- The operation's rows are all done or given up. -/
def CombOp.finished (o : CombOp) : Bool := o.lanes.isEmpty && (o.cause.isSome || o.rest.isEmpty)

/-- The completion of an operation (R222, R225, Table 7-3). -/
def CombOp.outcome (o : CombOp) : Done :=
  let st := o.cause.getD (if o.ncancel = 0 then .ok else .cancelled)
  doneOf o.desc st o.tally (if dOpcode o.desc = 0x28 then o.ncancel else 0) 0 true none

/-- Finished operations leave, and their completions wait at their ports; those of a reset endpoint are discarded (R275). -/
def State.finishCombs (s : State) : State :=
  let done := s.ops.combs.filter CombOp.finished
  let s := { s with ops := { s.ops with combs := s.ops.combs.filter (fun o => !o.finished) } }
  forEach done (fun o s => if o.live then s.pushDone o.pos o.outcome else s) s

/-- The operations of a slot, or those that satisfy a test, are stopped. -/
def State.stopCombs (s : State) (mine : CombOp → Bool) (st : Option CStatus) : State :=
  ({ s with ops := { s.ops with combs := mapIf mine (fun o => o.stop st) s.ops.combs } }).finishCombs

/-! ## Cancel and release (R202, R203, R207) -/

/-- What a cancel makes of a row. DEDUCED, log 76. -/
def State.cancelRow (s : State) (k : Nat) (x : TagSlot) (r : Nat) : State :=
  match s.readRow x r with
  | .entry e =>
    if leState e = lsCombined then s.writeRow x r 0
    else if leOpen e && !s.laneBegun k (x.tokBase + r) then
      if leAllArrived e then s.writeRow x r 0 else s.writeRow x r (leSetState e lsCancelled)
    else s
  | _ => s.writeRow x r 0

/-- `TAG_CANCEL` on a slot (R203, R207), as a descriptor or by Masthead (R197, R199). -/
def State.cancelTag (s : State) (k : Nat) : State :=
  let x := s.tagSlot k
  if x.st ≠ .live then s
  else if !x.routeDone then
    (s.setTag k { x with st := .quarantine, routeCancelled := true }).stopCombs (fun o => o.slot == k) none
  else
    let s := forEach (List.range x.ntok) (fun r s => s.cancelRow k x r) s
    let s := s.setTag k { x with
      st := .quarantine, nopen := ((List.range x.ntok).filter (fun r => s.rowIs x r leOpen)).length }
    (s.stopCombs (fun o => o.slot == k) none).settleTag k

/-- `TAG_RELEASE` on a slot (R202, Table 7-3). An entry that cannot be read is left, so that its tag passes to quarantine: the spec does
not say what becomes of it (DESIGN CHOICE, log 134). -/
def State.releaseTag (s : State) (k : Nat) : State :=
  let x := s.tagSlot k
  let s := forEach (List.range x.ntok) (fun r s =>
    if s.rowIs x r (fun e => leState e == lsCombined) then s.writeRow x r 0 else s) s
  let s := s.setTag k { x with st := .quarantine }
  (s.stopCombs (fun o => o.slot == k) (some .badContext)).settleTag k

/-- The bank that serves beneath a bank's number: a spare, or the bank itself (R197). -/
def UnitState.servingBank (u : UnitState) (b : Nat) : Nat :=
  match (List.range 4).find? (fun i => let x := Tbl.get (fun _ => { st := 0, unit := 0 : Spare }) u.lspare i
      x.st == 3 && x.unit == b) with
  | some i => 64 + i
  | none => b

/-- An entry that cannot be read (R197, R199, R215): Masthead cancels its tag and posts `EV_FAULT` 0x30 or 0x32, and logs the index of a
saddlebag entry. The kind and index of the record of code 0x32 are a DESIGN CHOICE, log 109. -/
def State.loseEntry (s : State) (k : Nat) (r : Nat) (what : EntryRead) : State :=
  let x := s.tagSlot k
  let p := x.place r
  let i := entryIndex p.1 p.2
  let sb := (s.sbIndex p.1 p.2).getD i
  let s := s.cancelTag k
  match what with
  | .uncorrectable => s.postFault 0x30 4 (s.units.servingBank (bankOf i)) 7 0xFFFF i
  | _ => ({ s with led := { s.led with sbLost := s.led.sbLost ++ [sb] } }).postFault 0x32 10 0 7 0xFFFF 0

/-! ## Notices (R213 to R216) -/

def nType (m : Msg) : Nat := bits m 124 4
def nGen (m : Msg) : Nat := bits m 116 8
def nTag (m : Msg) : Nat := bits m 100 16
def nToken (m : Msg) : Nat := bits m 76 24
def nSide (m : Msg) : Nat := bits m 75 1
def nDst (m : Msg) : Nat := bits m 60 15

/-- The notice's type is 1 and its `RSV` fields are 0 (Table 7-1). A message of type 0 whose other fields are not all 0 is malformed here:
it is no notice and no empty position of R213 (DESIGN CHOICE, log 126). -/
def nWellFormed (m : Msg) : Bool := nType m == 1 && bits m 55 5 == 0 && bits m 0 30 == 0

/-- A standing `COMBINE` learns that a token is ready (R220). -/
def State.tokenReady (s : State) (k token : Nat) : State :=
  let waits : CombOp → Bool := fun o =>
    o.slot == k && standing o.desc && (combTokens o.desc).contains token && o.cause.isNone &&
      !o.served.contains token && !o.lanes.any (fun l => l.1 == token) && !o.ready.contains token
  { s with ops := { s.ops with
      combs := mapIf waits (fun o => { o with ready := o.ready ++ [token] }) s.ops.combs } }

/-- The entries without a valid side are ready as soon as their `ROUTE` has written them, in ascending token order (R220). -/
def State.readyFound (s : State) (k : Nat) (x : TagSlot) : State :=
  forEach ((List.range x.ntok).filter (fun r => s.rowIs x r leReady)) (fun r s => s.tokenReady k (x.tokBase + r)) s

/-- A valid first notice for side `i` of an entry (Table 6-5, R216). -/
def State.firstNotice (s : State) (k : Nat) (x : TagSlot) (r : Nat) (e : BitVec 160) (i : Nat) : State :=
  let e' := leSetArr e i
  if leState e = lsCancelled then
    let s := s.bump cLedgerCxlArr 1
    if leAllArrived e' then (s.writeRow x r 0).settleTag k else s.writeRow x r e'
  else
    let e' := leSetState e' lsWaiting
    let s := s.writeRow x r e'
    if leReady e' then s.tokenReady k (x.tokBase + r) else s

/-- A notice at its home chip (R204, R215). -/
def State.applyNotice (s : State) (m : Msg) : State :=
  if !nWellFormed m then s.bump cNoticeMalformed 1
  else
    match s.findTag (nTag m) with
    | none => s.bump cLedgerStray 1
    | some k =>
      let x := s.tagSlot k
      if !x.routeDone || decide (nToken m < x.tokBase) || decide (x.tokBase + x.ntok ≤ nToken m) then s.bump cLedgerStray 1
      else
        let r := nToken m - x.tokBase
        match s.readRow x r with
        | .entry e =>
          if x.gen.toNat ≠ nGen m ∨ leState e = lsFree then s.bump cLedgerStray 1
          else if !leSv e (nSide m) || leArr e (nSide m) || leState e == lsCombined then s.bump cLedgerDup 1
          else s.firstNotice k x r e (nSide m)
        | what => s.loseEntry k r what

/-! ## Slots that are freed with operations on them (R205, R206) -/

/-- The blocks and the slot of a failed `ROUTE` return to their free states (R206). A `COMBINE` that is left on the tag has no slot any
more (DESIGN CHOICE, log 11). -/
def State.abandonRoute (s : State) (k : Nat) : State := s.freeSlot k

/-- `TAG_QUARANTINE_EXPIRY` (R205): the limit does not run before the `ROUTE` completes. -/
def execTagQuarantineExpiry (slot : Fin 64) (s : State) : Host.Outcome State Fault Refusal :=
  let x := s.tagSlot slot
  if x.st = .quarantine ∧ x.routeDone then
    let left := (List.range x.ntok).filter (fun r => match s.readRow x r with
      | .entry e => leState e != lsFree
      | _ => true)
    let s := forEach left (fun r s => s.writeRow x r 0) s.wake
    let s := (s.bump cLedgerQexp left.length).freeSlot slot
    ok (if left.isEmpty then s else s.postFault 0x3B 8 0 0 0xFFFF (x.tag.toNat + left.length * 65536))
  else ok s

end Sys2Proof.Machine
end

