-- ==== Sys2Proof/Machine/Combine.lean ====
section
/-! DEFINITION. Combine and backward operations: the chunk dot rule, row layout, and a token's way through the lanes
(R211, R217, R220 to R229). -/

namespace Sys2Proof.Machine

open Sys2Proof

/-! ## The chunk dot rule (R217) -/

/-- A product of two F32 values, exact; none where it is Inf × 0. -/
def exactProduct (a b : Nat) : Option Val :=
  let neg := xor (Fmt.f32.isNeg a) (Fmt.f32.isNeg b)
  match Fmt.f32.value a, Fmt.f32.value b with
  | .inf _, .zero _ => none
  | .zero _, .inf _ => none
  | .inf _, _ => some (.inf neg)
  | _, .inf _ => some (.inf neg)
  | .fin _ n1 d1, .fin _ n2 d2 => some (.fin neg (n1 * n2) (d1 * d2))
  | _, _ => some (.zero neg)

/-- The exponent of a finite nonzero product. -/
def Val.exponent : Val → Option Int
  | .fin _ n d => some (floorLog2 n d)
  | _ => none

/-- The largest exponent of some products. -/
def maxExponent (ps : List Val) : Option Int :=
  (ps.filterMap Val.exponent).foldl (fun m e => match m with
    | none => some e
    | some x => some (max x e)) none

/-- A product in units of 2^g, truncated toward zero, and whether bits were dropped. -/
def truncTerm (g : Int) (v : Val) : Int × Bool :=
  match v with
  | .fin neg n d =>
    let num := n * (pow2 (-g)).1
    let den := d * (pow2 (-g)).2
    (if neg then -((num / den : Nat) : Int) else (num / den : Nat), decide (num % den ≠ 0))
  | _ => (0, false)

/-- The sum of finite products: aligned to the largest exponent, truncated, and rounded once. -/
def dotSum (f : Fmt) (m : Rm) (ps : List Val) : Nat × Tally :=
  match maxExponent ps with
  | none =>
    let minus : Val → Bool := fun v => match v with | .zero true => true | _ => false
    convFloat f m (.zero (ps.all minus || (m == .rdn && ps.any minus)))
  | some e =>
    let g := e - 26
    let qs := ps.map (truncTerm g)
    let x : Int := qs.foldl (fun (a : Int) q => a + q.1) 0
    let nx := Tally.inexact (qs.any (·.2))
    let r := if x = 0 then convFloat f m (.zero (m == .rdn))
      else convFloat f m (Val.scaled (decide (x < 0)) x.natAbs g)
    (r.1, nx.join r.2)

/-- `cdot` of R217; no term gives `none`. -/
def cdot (f : Fmt) (m : Rm) (terms : List (Nat × Nat)) (order : List Nat) : Option Nat × Tally :=
  if terms.isEmpty then (none, Tally.zero)
  else
    match nanOf .f32 order with
    | some y =>
      let r := convFloat f m (Fmt.f32.value y.1)
      (some r.1, y.2.join r.2)
    | none =>
      let ps := terms.map (fun t => exactProduct t.1 t.2)
      let bad := ps.any Option.isNone ||
        (ps.contains (some (.inf false)) && ps.contains (some (.inf true)))
      if bad then
        let r := convFloat f m .nar
        (some r.1, Tally.invalid.join r.2)
      else
        let vs := ps.filterMap id
        let inf := vs.find? (fun v => match v with | .inf _ => true | _ => false)
        let r := match inf with
          | some v => convFloat f m v
          | none => dotSum f m vs
        (some r.1, r.2)

/-! ## Rows (R211) -/

/-- The formats, the attribute and the row length of an operation; validation has accepted them. -/
def combIfmt (d : Desc) : Fmt := (fmtOf (dIfmt d)).getD .f32
def combEfmt (d : Desc) : Fmt := (fmtOf (dXfmt d)).getD .f32
def combOfmt (d : Desc) : Fmt := (fmtOf (dOfmt d)).getD .f32
def combRm (d : Desc) : Rm := (rmOf (dRmode d)).getD .rne
def combNelem (d : Desc) : Nat := bits d.q1 0 17

/-- The row pitch P(F). -/
def rowPitch (n : Nat) (f : Fmt) : Nat := 64 * ((n * f.width + 511) / 512)

/-- An operand of `cdot` in F32, from F32 or KF16. A signalling NaN stays one, so that `cdot` raises `NV` for it (R79, R217). -/
def dotOperand (f : Fmt) (c : Nat) : Nat :=
  if f = .f32 then c else
    match f.value c with
    | .nan neg sig frac => Fmt.f32.infinity neg + ((frac >>> 29) % 2 ^ 23) % (if sig then 2 ^ 22 else 2 ^ 23)
    | v => (toIeee .f32 .rne v).1

/-- The F32 values of a row. -/
def State.rowCodes (s : State) (f : Fmt) (a n : Nat) : List Nat := (unpack f (load s a (f.bytes n)) n).map (dotOperand f)

/-- The F32 weight of a side (R221). -/
def sideWeight (e : BitVec 160) (i : Nat) : Nat := dotOperand .kf16 (leW e i)

/-- Where the rows of token `j` of an operation lie. -/
def srcRow (d : Desc) (j : Nat) : Nat := dSrc d + j * rowPitch (combNelem d) (combIfmt d)
def retRow (d : Desc) (j i : Nat) : Nat := dDst2 d + (2 * j + i) * rowPitch (combNelem d) (combEfmt d)

/-! ## What the lanes compute -/

/-- The output row of a `COMBINE` (R221, R223). -/
def State.combineRow (s : State) (d : Desc) (e : BitVec 160) (j : Nat) : List (Nat × List Byte) × Tally :=
  let n := combNelem d
  let r := if dNoResid d then none else some (s.rowCodes (combIfmt d) (srcRow d j) n)
  let side : Nat → Option (Nat × List Nat) := fun i =>
    if leSv e i then
      some (if dGradRet d then 0x3F800000 else sideWeight e i, s.rowCodes (combEfmt d) (retRow d j i) n)
    else none
  let s0 := side 0
  let s1 := side 1
  let elems := (List.range n).map (fun k =>
    let tr := match r with | some l => [(nth 0 l k, 0x3F800000)] | none => []
    let te : Option (Nat × List Nat) → List (Nat × Nat) := fun x => match x with
      | some (w, l) => [(w, nth 0 l k)]
      | none => []
    let ws : Option (Nat × List Nat) → List Nat := fun x => match x with | some (w, _) => [w] | none => []
    let vals := tr.map (·.1) ++ (te s0).map (·.2) ++ (te s1).map (·.2)
    let c := cdot (combOfmt d) (combRm d) (tr ++ te s0 ++ te s1) (vals ++ ws s0 ++ ws s1)
    (c.1.getD 0, c.2))
  let g := gather elems
  ([(dDst d + j * rowPitch n (combOfmt d), pack (combOfmt d) g.1)], g.2)

/-- The gradient rows of an `UNCOMBINE` (R226). -/
def State.uncombineRows (s : State) (d : Desc) (e : BitVec 160) (j : Nat) : List (Nat × List Byte) × Tally :=
  let n := combNelem d
  let dy := s.rowCodes (combIfmt d) (srcRow d j) n
  let row : Nat → (Nat × List Byte) × Tally := fun i =>
    let w := sideWeight e i
    let g := gather (dy.map (fun y =>
      let c := cdot (combOfmt d) (combRm d) [(w, y)] [y, w]
      (c.1.getD 0, c.2)))
    ((dDst d + (2 * j + i) * rowPitch n (combOfmt d), pack (combOfmt d) g.1), g.2)
  gather (([0, 1].filter (leSv e)).map row)

/-- Lists cut into chunks of 16. -/
def chunks16 {α : Type} (l : List α) : List (List α) :=
  (List.range ((l.length + 15) / 16)).map (fun c => (l.drop (16 * c)).take 16)

/-- The gradient of one gate weight (R227). -/
def gateGrad (m : Rm) (dy e : List Nat) : Nat × Tally :=
  let cs := gather ((chunks16 (dy.zip e)).map (fun ch =>
    let c := cdot .f32 m ch (ch.flatMap (fun t => [t.1, t.2]))
    (c.1.getD 0, c.2)))
  let r := cfold (ieeeAdd .f32 m) cs.1
  (r.1.getD 0, cs.2.join r.2)

/-- The gate gradients of a token (R227). -/
def State.gategradRow (s : State) (d : Desc) (e : BitVec 160) (j : Nat) : List (Nat × List Byte) × Tally :=
  let n := combNelem d
  let dy := s.rowCodes (combIfmt d) (srcRow d j) n
  let g := gather ([0, 1].map (fun i =>
    if leSv e i then gateGrad (combRm d) dy (s.rowCodes (combEfmt d) (retRow d j i) n) else (0, Tally.zero)))
  ([(dDst d + 8 * j, g.1.flatMap (leBytes 4))], g.2)

/-- The rows of a token, by operation. -/
def State.laneRows (s : State) (d : Desc) (e : BitVec 160) (j : Nat) : List (Nat × List Byte) × Tally :=
  match dOpcode d with
  | 0x28 => s.combineRow d e j
  | 0x29 => s.uncombineRows d e j
  | _ => s.gategradRow d e j

/-! ## Operations -/

def State.comb (s : State) (id : Nat) : Option CombOp := s.ops.combs.find? (fun o => o.id == id)

def State.modComb (s : State) (id : Nat) (f : CombOp → CombOp) : State :=
  { s with ops := { s.ops with combs := mapIf (fun o => o.id == id) f s.ops.combs } }

/-- `COMBINE`, `UNCOMBINE` or `GATEGRAD` is accepted (R220, R223, R225): a standing `COMBINE` finds its ready entries, the
others are ready at once. -/
def State.startComb (s : State) (p : Nat) (d : Desc) (k : Nat) : State :=
  let x := s.tagSlot k
  let toks := combTokens d
  let is : (BitVec 160 → Bool) → List Nat := fun t => toks.filter (fun n => s.rowIs x (n - x.tokBase) t)
  let unreadable := toks.filter (fun n => (s.rowEntry x (n - x.tokBase)).isNone)
  let o : CombOp :=
    { id := s.ops.nextId, pos := p, desc := d, ring := (s.port p).lastRead, slot := k, tokBase := x.tokBase
      served := if standing d then is (fun e => leState e == lsCombined) else []
      lanes := [], ready := if standing d then toks.filter (fun n => (is leReady ++ unreadable).contains n) else toks
      ncancel := 0, tally := Tally.zero, cause := none, limit := standing d && s.policy 0x13 ≠ 0, live := true }
  ({ s with ops := { s.ops with combs := s.ops.combs ++ [o], nextId := s.ops.nextId + 1 } }).finishCombs

/-- `COMBINE_LANE_BEGIN` (R220, R225): the oldest ready token of the operation; an entry that cannot be read gives it
`FAULT` (R197, R199, R224). During the stop of a cinch no lane begins (R366). -/
def execCombineLaneBegin (id token : Nat) (s : State) : Host.Outcome State Fault Refusal :=
  match s.comb id with
  | none => ok s
  | some o =>
    if o.ready.head? ≠ some token ∨ s.stopped then ok s
    else
      match s.readRow (s.tagSlot o.slot) (token - o.tokBase) with
      | .entry e =>
        ok (s.modComb id (fun o => { o with ready := o.ready.drop 1, lanes := o.lanes ++ [(token, .reading e)] }))
      | what =>
        let s := s.stopCombs (fun o => o.id == id) (some .fault)
        ok (s.loseEntry o.slot (token - o.tokBase) what)

/-- `ROW_READ_RETURN` (R217, R221, R226, R227, R229): the lanes compute the token's rows and issue their writes. -/
def execRowReadReturn (id token : Nat) (s : State) : Host.Outcome State Fault Refusal :=
  match s.comb id with
  | none => ok s
  | some o =>
    match o.lanes.find? (fun l => l.1 == token) with
    | some (_, .reading e) =>
      let r := s.laneRows o.desc e (token - o.tokBase)
      ok (s.modComb id (fun o => { o with
        lanes := mapIf (fun l => l.1 == token) (fun l => (l.1, .writing r.1)) o.lanes
        tally := o.tally.join r.2 }))
    | _ => ok s

/-- The entry of a token whose row is visible becomes `COMBINED`, and is freed at once when its tag has been cancelled
(R207, R222). Where it cannot be read any more the operation ends with `FAULT` and the tag is cancelled (R197, R199). -/
def State.markCombined (s : State) (o : CombOp) (token : Nat) : State :=
  let x := s.tagSlot o.slot
  let r := token - o.tokBase
  match x.st, s.readRow x r with
  | .free, _ => s
  | .quarantine, _ => ((s.writeRow x r 0).closeRow o.slot).settleTag o.slot
  | .live, .entry e => (s.writeRow x r (leSetState e lsCombined)).closeRow o.slot
  | .live, what => (s.stopCombs (fun y => y.id == o.id) (some .fault)).loseEntry o.slot r what

/-- `ROW_WRITE_VISIBLE` (R222, R225, R229). -/
def execRowWriteVisible (id token : Nat) (s : State) : Host.Outcome State Fault Refusal :=
  match s.comb id with
  | none => ok s
  | some o =>
    match o.lanes.find? (fun l => l.1 == token) with
    | some (_, .writing rows) =>
      let s := forEach rows (fun r s => store s r.1 r.2) s
      let s := if standing o.desc then s.markCombined o token else s
      let s := s.modComb id (fun o => { o with
        lanes := o.lanes.filter (fun l => l.1 ≠ token), served := o.served ++ [token] })
      ok s.finishCombs
    | _ => ok s

/-- `COMBINE_LIMIT_EXPIRY` (R224). -/
def execCombineLimitExpiry (id : Nat) (s : State) : Host.Outcome State Fault Refusal :=
  ok (s.stopCombs (fun o => o.id == id && o.limit) (some .timeout))

end Sys2Proof.Machine
end

