-- ==== Sys2Proof/Machine/Nsum.lean ====
section
/-! DEFINITION. Scaled narrow sums: headroom, blocks, the common scale, levels, the result and the widening test
(R118 to R136). -/

namespace Sys2Proof.Machine

open Sys2Proof

/-- The level sets of `NSUM` (Table 4-1). -/
def nsFormat (f : Fmt) : Bool := f == .kf8e4 || f == .kf4

/-- ceil(log2 n). -/
def ceilLog2 (n : Nat) : Nat := if n ≤ 1 then 0 else Nat.log2 (n - 1) + 1

/-- The headroom of a level set for a group of `n` members (R121). -/
def headroom (q : Fmt) (n : Nat) : Nat := if q = .kf8e4 then ceilLog2 n - 13 else 0

/-- The level scale G (R121). -/
def levelScale (q : Fmt) : Nat := if q = .kf8e4 then 10 else 1

/-- The number of blocks of a tensor (R122). -/
def blockCount (tile : Bool) (nelem : Nat) : Nat := if tile then (nelem + 31) / 32 else 1

/-- The block of element `i` (R122). -/
def blockOf (tile : Bool) (i : Nat) : Nat := if tile then i / 32 else 0

/-- The elements in block `b` (R122). -/
def blockLen (tile : Bool) (nelem b : Nat) : Nat := if tile then min 32 (nelem - 32 * b) else nelem

/-- A tensor cut into its blocks. -/
def blocks {α : Type} (tile : Bool) (l : List α) : List (List α) :=
  (List.range (blockCount tile l.length)).map (fun b => if tile then (l.drop (32 * b)).take 32 else l)

/-- The pass-1 word of a block of elements in F32 (Table 4-3). -/
def blockMax (l : List Nat) : Nat :=
  l.foldl (fun acc c => if c % 0x80000000 < 0x7F800000 then max acc (c % 0x80000000) else acc) 0

/-- The scale of a block as a fraction; none is the zero-block code (`ns_scale`, R124). SX has a 24-bit significand and
F32's least exponent. -/
def nsScale (big : Nat) (q : Fmt) (h : Nat) : Option (Nat × Nat) :=
  match Fmt.f32.value big with
  | .fin _ n d =>
    let n' := n * 2 ^ h
    let d' := d * q.maxval
    let e := max (floorLog2 n' d') (-126) - 23
    some ((roundAt .rup false n' d' e).1 * (pow2 e).1, (pow2 e).2)
  | _ => none

/-- The level of an element with its counters (`ns_level`, R125). -/
def nsLevel (x : Nat) (s : Option (Nat × Nat)) (q : Fmt) (h : Nat) : Int × Tally :=
  let v := Fmt.f32.value x
  match v, s with
  | .fin neg n d, some (sn, sd) =>
    let full := decide (q.maxval * (d * sn) < n * sd * 2 ^ h)
    let y : Val := if full then .fin neg q.maxval (2 ^ h) else .fin neg (n * sd) (d * sn)
    let c := toShort q .rne y
    let level := match q.value c.1 with
      | .fin ng a b => let l : Int := (a * 2 ^ levelScale q / b : Nat); if ng then -l else l
      | _ => 0
    (level, if full then Tally.oneSat.join c.2 else c.2)
  | .nan _ _ _, _ => (sentinel, (toShort q .rne v).2)
  | .inf _, _ => (sentinel, (toShort q .rne v).2)
  | _, _ => (0, Tally.zero)

/-- The value of an element's level sum (`ns_result`, R128). -/
def nsResult (sum : Int) (s : Option (Nat × Nat)) (q f : Fmt) (m : Rm) : Nat × Tally :=
  if sum = sentinel then convFloat f m .nar
  else match s with
    | none => convFloat f m (.zero false)
    | some (sn, sd) =>
      if sum = 0 then convFloat f m (.zero (m == .rdn))
      else convFloat f m (.fin (decide (sum < 0)) (sum.natAbs * sn) (sd * 2 ^ levelScale q))

/-- The widening test of a block (R131): `flushes` its F, `k` its count of element-contributions. -/
def widenTest (flushes thr k : Nat) : Bool := decide (thr * k < 2 ^ 16 * flushes)

end Sys2Proof.Machine
end

