-- ==== Sys2Proof/Machine/Descriptor.lean ====
section
/-! DEFINITION. Descriptors: opcode classes, the fields each opcode uses, and the checks of Table 9-10 (R257 to R264). -/

namespace Sys2Proof.Machine

open Sys2Proof

/-! ## Opcodes (Table 9-8) -/

/-- The classes of Table 9-8. -/
inductive OpClass where
  | reduction | route | tag | combine | hoist
  deriving DecidableEq, Repr

/-- The class of an opcode; none is a reserved opcode (R260). -/
def opClass (op : Nat) : Option OpClass :=
  if 0x01 ≤ op ∧ op ≤ 0x10 then some .reduction
  else if op = 0x20 then some .route
  else if op = 0x21 ∨ op = 0x22 then some .tag
  else if 0x28 ≤ op ∧ op ≤ 0x2A then some .combine
  else if 0x30 ≤ op ∧ op ≤ 0x32 then some .hoist
  else none

/-- A descriptor is a collective (R260). -/
def isCollective (d : Desc) : Bool := dOpcode d ≤ 0x20

/-- The six extrema. -/
def extremum (op : Nat) : Option Ext :=
  match op with
  | 0x04 => some .max | 0x05 => some .min | 0x06 => some .maxnum | 0x07 => some .minnum | 0x08 => some .amax
  | 0x09 => some .amin | _ => none

/-! ## Fields (Tables 9-6a to 9-6d) -/

def dNelem (d : Desc) : Nat := bits d.q1 0 25
def dWithPos (d : Desc) : Bool := bit d.q1 32
def dLsemRaw (d : Desc) : Bool := bit d.q1 33
def dSpAbsent (d : Desc) : Bool := bit d.q1 34
def dNsThr (d : Desc) : Nat := bits d.q2 0 16
def dAutoWiden (d : Desc) : Bool := bit d.q1 37
def dRNtok (d : Desc) : Nat := bits d.q1 0 21
def dRTokBase (d : Desc) : Nat := bits d.q1 24 24
def dNexp (d : Desc) : Nat := bits d.q1 48 13
def dRouteK (d : Desc) : Bool := bit d.q1 61
def dRotate (d : Desc) : Bool := bit d.q1 62
def dCap (d : Desc) : Nat := bits d.q2 0 24
def dGateMode (d : Desc) : Nat := bits d.q2 24 2
def dCapPolicy (d : Desc) : Nat := bits d.q2 26 2
def dSstride (d : Desc) : Nat := bits d.q3 0 32
def dHlen (d : Desc) : Nat := bits d.q1 0 17
def dHchan (d : Desc) : Nat := bits d.q1 32 4
def dHtmode (d : Desc) : Bool := bit d.q1 36
def dHretry (d : Desc) : Bool := bit d.q1 37
def dHseq (d : Desc) : BitVec 32 := BitVec.ofNat 32 (bits d.q2 0 32)
def dNtgt (d : Desc) : Nat := bits d.q2 32 13
def dHpos (d : Desc) : Nat := bits d.q2 48 10

/-- The descriptor in 64 bytes (R257). -/
def descOf (l : List Byte) : Desc :=
  let q : Nat → Word64 := fun i => BitVec.ofNat 64 (leNat ((l.drop (8 * i)).take 8))
  { q0 := q 0, q1 := q 1, q2 := q 2, q3 := q 3, q4 := q 4, q5 := q 5, q6 := q 6, q7 := q 7 }

/-! ## Steps 1 to 3: which bits an opcode uses (Tables 9-5 to 9-9) -/

/-- A list of fields (lowest bit, width), kept only when used. -/
def used (b : Bool) (l : List (Nat × Nat)) : List (Nat × Nat) := if b then l else []

/-- The address field of R258. -/
def addrField : List (Nat × Nat) := [(0, 52)]

/-- The fields of each word that the descriptor's opcode uses. -/
def usedFields (d : Desc) (c : OpClass) : List (List (Nat × Nat)) :=
  let op := dOpcode d
  let red := c == .reduction
  let comb := c == .combine
  let coll := red || c == .route
  let send := op == 0x30 || op == 0x31
  let scan := op == 0x0E || op == 0x0F
  let q0 := [(0, 8), (32, 12), (63, 1)] ++ used (coll || comb) [(8, 5)] ++ used (red || comb) [(13, 5)] ++
    used (op == 0x03 || op == 0x28 || op == 0x2A) [(18, 5)] ++ used red [(23, 2)] ++ used (coll || comb) [(25, 3)] ++
    used scan [(28, 2)] ++ used (coll || op == 0x30) [(44, 12)]
  let q1 := match c with
    | .reduction => [(0, 25)] ++ used (op == 0x03) [(36, 2)] ++ used (op == 0x02) [(34, 2)] ++ used (op == 0x10) [(33, 1)] ++
        used (extremum op).isSome [(32, 1)]
    | .route => [(0, 21), (24, 24), (48, 15)]
    | .tag => []
    | .combine => [(0, 17)] ++ used (op == 0x28) [(32, 2)]
    | .hoist => [(0, 17), (32, 4)] ++ used send [(37, 1)] ++ used (op == 0x31) [(36, 1)]
  let q2 := match c with
    | .reduction => used (op == 0x03) [(0, 16)]
    | .route => [(0, 28), (48, 16)]
    | .tag => [(48, 16)]
    | .combine => [(0, 21), (24, 40)]
    | .hoist => used send [(0, 32)] ++ used (op == 0x31) [(32, 13), (48, 10)]
  let q3 := used (c == .route) [(0, 32)]
  let q4 := if coll || comb || send then addrField else []
  let q5 := if c == .tag then [] else addrField
  let q6 := if c == .route || op == 0x28 || op == 0x2A || op == 0x31 || ((extremum op).isSome && dWithPos d)
    then addrField else []
  let q7 := [(0, 32)] ++ used coll [(32, 16)] ++ used (dCsigEn d) [(48, 16)]
  [q0, q1, q2, q3, q4, q5, q6, q7]

/-- The bits outside some fields are 0. -/
def onlyFields (w : Word64) (fs : List (Nat × Nat)) : Bool :=
  (List.range 64).all (fun i => !bit w i || fs.any (fun f => decide (f.1 ≤ i) && decide (i < f.1 + f.2)))

/-- Steps 1 to 3 of Table 9-10. -/
def checkShape (d : Desc) : Option CStatus :=
  match opClass (dOpcode d) with
  | none => some .badDescriptor
  | some c =>
    if ((d.words.zip (usedFields d c)).all (fun x => onlyFields x.1 x.2)) = false then some .badDescriptor
    else if dCsigEn d ∧ 768 ≤ wordIndex (dCsigWord d) then some .badDescriptor
    else none

/-! ## Step 4: formats (Tables 3-1, 4-1, 6-1, 7-2) -/

/-- A format that an output may have: every one but the expanded ones (R51). -/
def outputFmt (f : Fmt) : Bool := !f.expanded

/-- F32 and KF16. -/
def halfFmt (f : Fmt) : Bool := f == .f32 || f == .kf16

/-- The output formats of the combine class. -/
def combOut (f : Fmt) : Bool := f == .f32 || f == .kf16 || f == .kf8e4 || f == .kf8e5

/-- A format code passes a test. -/
def fmtIs (c : Nat) (p : Fmt → Bool) : Bool :=
  match fmtOf c with
  | none => false
  | some f => p f

/-- The formats of a descriptor are accepted. -/
def formatsOk (d : Desc) : Bool :=
  let op := dOpcode d
  let i := fmtIs (dIfmt d)
  let o := fmtIs (dOfmt d)
  let x := fmtIs (dXfmt d)
  match op with
  | 0x03 => i (fun f => f == .f32 || f == .kf16 || f == .kf8e4 || f == .kf8e5 || f.expanded) &&
      o (fun f => outputFmt f && !f.isInt) && x nsFormat
  | 0x0A | 0x0B | 0x0C => i Fmt.isInt && decide (dOfmt d = dIfmt d)
  | 0x0D => i (fun _ => true) && o (fun f => f == .i32 || f == .i64 || f == .f64)
  | 0x10 => i (fun f => if dLsemRaw d then halfFmt f else f == .f32) && o (fun f => f == .f32)
  | 0x20 => i halfFmt
  | 0x21 | 0x22 => true
  | 0x28 => i halfFmt && o combOut && x halfFmt
  | 0x29 => i halfFmt && o combOut
  | 0x2A => i halfFmt && o (fun f => f == .f32) && x halfFmt
  | 0x30 | 0x31 | 0x32 => true
  | _ => i (fun _ => true) && o outputFmt

/-! ## Step 5: modes (R72, R89, R180, R119) -/

/-- `PREC`, `RMODE` and `SCANOP` are accepted. -/
def modesOk (d : Desc) : Bool :=
  let op := dOpcode d
  let windows := (op == 0x01 || op == 0x02) && fmtIs (dIfmt d) (fun f => !f.isInt && f != .f64)
  (dPrec d == 0 || (windows && dPrec d != 3)) && decide (dRmode d ≤ 4) && decide (dScanop d ≠ 3) &&
    (op != 0x20 || dRmode d == 0)

/-! ## Step 6: counts, lengths, ranges, strides and alignments -/

/-- The container alignment of a format code. -/
def alignOf (c : Nat) : Nat := ((fmtOf c).map Fmt.align).getD 1

/-- Addresses that must be 64-byte aligned are. -/
def aligned64 (l : List Nat) : Bool := l.all (fun a => a % 64 == 0)

/-- Counts, ranges and alignments are accepted (R53, R89, R105, R111, R179, R180, R211, R218, R231, R258). The reserved codes of `GATE_MODE` and
`CAP_POLICY` stand in no step of Table 9-10, and are tested here (DESIGN CHOICE, log 128). -/
def rangesOk (d : Desc) (c : OpClass) : Bool :=
  let op := dOpcode d
  match c with
  | .reduction =>
    let srcAlign := if op = 0x10 ∧ dLsemRaw d = false then 8 else alignOf (dIfmt d)
    let dstAlign := if op = 0x10 then 8 else alignOf (dOfmt d)
    decide (1 ≤ dNelem d) && decide (dNelem d ≤ 16777216) && dSrc d % srcAlign == 0 && dDst d % dstAlign == 0 &&
      (!(dWithPos d && (extremum op).isSome) || dDst2 d % 4 == 0)
  | .route =>
    let size := if dIfmt d = 1 then 4 else 2
    decide (1 ≤ dNexp d) && decide (dNexp d ≤ 4096) && decide (1 ≤ dRNtok d) && decide (dRNtok d ≤ 1048576) &&
      decide (dRTokBase d + dRNtok d ≤ 16777216) && decide (dGateMode d ≠ 3) && decide (dCapPolicy d ≠ 3) &&
      (if dCapPolicy d = 0 then dCap d == 0 else decide (1 ≤ dCap d)) && dSstride d % 64 == 0 &&
      decide (dNexp d * size ≤ dSstride d) && !(dRouteK d && dNexp d == 1) && aligned64 [dSrc d, dDst d, dDst2 d]
  | .tag => true
  | .combine =>
    let top := if op = 0x2A then 16384 else 65536
    decide (1 ≤ combNelem d) && decide (combNelem d ≤ top) && decide (1 ≤ dNtok d) && decide (dNtok d ≤ 1048576) &&
      aligned64 [dSrc d, dDst d, dDst2 d]
  | .hoist =>
    if op = 0x32 then decide (dHlen d ≤ 65536) && aligned64 [dDst d]
    else
      decide (1 ≤ dHlen d) && decide (dHlen d ≤ 65536) && aligned64 [dSrc d, dDst d, dDst2 d] &&
        (op == 0x30 ||
          (if dHtmode d then decide (1 ≤ dNtgt d) && decide (dNtgt d ≤ 4096) else dNtgt d == 0 && dHpos d == 0))

/-! ## Steps 7 and 8 -/

/-- `NSUM` against the chip's policy (R119). -/
def State.nsumOk (s : State) (d : Desc) : Bool :=
  dOpcode d != 0x03 ||
    (if dAutoWiden d then
      s.policy 0x03 == 1 && (dNsThr d == 0 || (decide (s.policy 0x04 ≤ dNsThr d) && decide (dNsThr d ≤ s.policy 0x05)))
     else dNsThr d == 0)

/-- Bytes that the target bitmap or chip list takes (Table 8-2). -/
def tmapLen (d : Desc) : Nat := if dHtmode d then 2 * dNtgt d else 128

/-- The chip list of an `MCAST`. -/
def State.chipList (s : State) (d : Desc) : List Nat := (List.range (dNtgt d)).map (fun j => loadNat s (dDst2 d + 2 * j) 2)

/-- A list ascends strictly. -/
def ascends : List Nat → Bool
  | a :: b :: r => decide (a < b) && ascends (b :: r)
  | _ => true

/-- The target bitmap or chip list is accepted (R233). -/
def State.targetsOk (s : State) (p : Nat) (d : Desc) : Bool :=
  dOpcode d != 0x31 ||
    (if dHtmode d then (s.chipList d).all (fun e => decide (e < 32768)) && ascends (s.chipList d)
     else
      let m := loadNat s (dDst2 d) 128
      m != 0 && !m.testBit p)

/-- Steps 4 to 8 of Table 9-10. -/
def State.checkFields (s : State) (p : Nat) (d : Desc) (c : OpClass) : Option CStatus :=
  if formatsOk d = false then some .badFormat
  else if modesOk d = false then some .badDescriptor
  else if rangesOk d c = false then some .badDescriptor
  else if s.nsumOk d = false then some .badDescriptor
  else if s.targetsOk p d = false then some .badDescriptor
  else none

/-! ## Steps 9 to 12 -/

/-- Byte 72 of a parameter block (Table 9-7). -/
def blockFlags (b : List Byte) : Nat := (nth 0 b 72).toNat

/-- The parameters of a format are unset on a context (R265). -/
def unsetOn (b : List Byte) (f : Fmt) : Bool :=
  match f with
  | .u4t => !(blockFlags b).testBit 0
  | .u8z => !(blockFlags b).testBit 1
  | .u4z => !(blockFlags b).testBit 2
  | _ => false

/-- The parameters that a binding supplies (R69, Table 9-7). -/
def Binding.expand (x : Binding) : Expand :=
  let b := x.block
  { table := if (blockFlags b).testBit 0 then some ((List.range 16).map (fun q => leNat ((b.drop (4 * q)).take 4))) else none
    scale := if (blockFlags b).testBit 1 then some (leNat ((b.drop 64).take 4), (nth 0 b 68).toNat) else none }

/-- The collective of a context and epoch on this chip. -/
def State.coll (s : State) (ctx epoch : Nat) : Option Coll :=
  s.ops.colls.find? (fun c => c.ctx == ctx && c.epoch == epoch)

/-- A member that is still outstanding for its endpoint (R275: a reset endpoint's earlier operations are not). -/
def Member.counts (m : Member) (p : Nat) : Bool := m.live && m.pos == p

/-- The endpoint has an outstanding collective with this context and epoch (R264). -/
def State.outstandingHere (s : State) (p ctx epoch : Nat) : Bool :=
  match s.coll ctx epoch with
  | none => false
  | some c => c.members.any (fun m => m.counts p)

/-- Step 12: the epoch (R264). -/
def State.checkEpoch (s : State) (p : Nat) (d : Desc) (b : Binding) : Option CStatus :=
  if s.outstandingHere p (dCtx d) (dEpoch d) then some .badContext
  else match b.epochs.find? (fun e => e.1 == dEpoch d) with
    | none => none
    | some e => if e.2 = .timeout then some .timeout else some .badContext

/-- Steps 9 to 13 of Table 9-10. -/
def State.checkContext (s : State) (p : Nat) (d : Desc) (c : OpClass) : Option CStatus :=
  match s.binding (dCtx d) with
  | none => some .badContext
  | some b =>
    let usesGroup := c = .reduction ∨ c = .route ∨ dOpcode d = 0x30
    let groupOk := match s.group (dGroup d) with
      | none => false
      | some g => b.group == dGroup d && g.has p && (c != .route || (decide (g.locals.length ≤ 1) && decide (g.nmemb ≤ g.nchip)))
    if usesGroup ∧ groupOk = false then some .badContext
    else if c = .reduction ∧ fmtIs (dIfmt d) (unsetOn b.block) then some .badFormat
    else
      match (if isCollective d then s.checkEpoch p d b else none) with
      | some st => some st
      | none =>
        if dOpcode d = 0x31 ∧ dHtmode d ∧ (s.chipList d).any (fun n => !s.isPresent n) then some .badContext else none

/-! ## Steps 14 to 17 -/

/-- The token ranges of two operations overlap. -/
def overlaps (a b : Desc) : Bool := decide (dTokFirst a < dTokFirst b + dNtok b) && decide (dTokFirst b < dTokFirst a + dNtok a)

/-- The operations of Table 7-2 that are outstanding on a tag slot. -/
def State.combsOn (s : State) (k : Nat) : List CombOp := s.ops.combs.filter (fun o => o.slot == k)

/-- Steps 14 to 16 for an operation that names a live tag. -/
def State.checkTag (s : State) (d : Desc) (k : Nat) : Option CStatus :=
  let x := s.tagSlot k
  if x.st ≠ .live then some .badContext
  else if dOpcode d = 0x22 then none
  else if dOpcode d = 0x21 then (if x.isOpen then some .badContext else none)
  else if dTokFirst d < x.tokBase ∨ x.tokBase + x.ntok < dTokFirst d + dNtok d then some .badDescriptor
  else if standing d then
    (if (s.combsOn k).any (fun o => standing o.desc && overlaps o.desc d) then some .badContext else none)
  else if x.isOpen then some .badContext else none

/-- The endpoint's collectives on a context (R266). -/
def State.collsOf (s : State) (p ctx : Nat) : Nat :=
  (s.ops.colls.filter (fun c => c.ctx == ctx && c.members.any (fun m => m.counts p))).length

/-- A collective starts at once: its context is active or a slot is free (R266). -/
def State.slotFor (s : State) (ctx : Nat) : Bool := s.ops.slots.contains ctx || decide (s.ops.slots.length < 256)

/-- Step 17: a resource limit is reached (R266, R180, R219, R233). -/
def State.noResource (s : State) (p : Nat) (d : Desc) (c : OpClass) : Bool :=
  let coll := decide (4 ≤ s.collsOf p (dCtx d)) || (!s.slotFor (dCtx d) && decide (1024 ≤ s.ops.queue.length))
  match c with
  | .reduction => coll
  | .route =>
    coll || (List.range 64).all (fun k => (s.tagSlot k).st != .free) || (s.takeBlocks (dRNtok d)).isNone
  | .tag => false
  | .combine =>
    match s.findTag (dTag d) with
    | none => false
    | some k => decide (8 ≤ (s.combsOn k).length)
  | .hoist =>
    if dOpcode d = 0x32 then
      dHlen d != 0 && decide (64 ≤ (s.ops.recvs.filter (fun r => r.pos == p && r.chan == dHchan d)).length)
    else decide (8 ≤ (s.ops.sends.filter (fun x => x.live && x.pos == p && dHchan x.desc == dHchan d)).length)

/-- Steps 14 to 17 of Table 9-10. -/
def State.checkState (s : State) (p : Nat) (d : Desc) (c : OpClass) : Option CStatus :=
  let tag := match c with
    | .route => if (s.findTag (dTag d)).isSome then some .badContext else none
    | .tag | .combine =>
      (match s.findTag (dTag d) with
       | none => some .badContext
       | some k => s.checkTag d k)
    | _ => none
  match tag with
  | some st => some st
  | none => if s.noResource p d c then some .noResource else none

/-- The first failure of Table 9-10 (R262), and whether a completion signal follows it (R268); none is an accepted
descriptor. -/
def State.validate (s : State) (p : Nat) (d : Desc) : Option (CStatus × Bool) :=
  match checkShape d, opClass (dOpcode d) with
  | some st, _ => some (st, false)
  | none, none => some (.badDescriptor, false)
  | none, some c =>
    match s.checkFields p d c with
    | some st => some (st, true)
    | none =>
      match s.checkContext p d c with
      | some st => some (st, true)
      | none => (s.checkState p d c).map (fun st => (st, true))

/-! ## The memory an accepted descriptor reads and writes -/

/-- Bytes of a delivery bitmap (Table 8-2). -/
def dmapLen (bits : Nat) : Nat := 64 * ((bits + 511) / 512)

/-- Ranges of chip memory (address, length) that an accepted descriptor names. -/
def State.descRanges (s : State) (d : Desc) : List (Nat × Nat) :=
  let fb : Nat → Nat → Nat := fun c n => ((fmtOf c).map (fun f => f.bytes n)).getD 0
  match opClass (dOpcode d) with
  | some .reduction =>
    let n := dNelem d
    let pairs := dOpcode d = 0x10
    [(dSrc d, if dOpcode d = 0x02 ∧ dSpAbsent d then 0 else if pairs ∧ dLsemRaw d = false then 8 * n else fb (dIfmt d) n),
     (dDst d, if pairs then 8 * n else fb (dOfmt d) n),
     (dDst2 d, if dWithPos d ∧ (extremum (dOpcode d)).isSome then 4 * n else 0)]
  | some .route =>
    [(dSrc d, (dRNtok d - 1) * dSstride d + fb (dIfmt d) (dNexp d)), (dDst d, 16 * dRNtok d), (dDst2 d, 8 * dNexp d)]
  | some .combine =>
    let x := s.tagSlot ((s.findTag (dTag d)).getD 0)
    let last := dTokFirst d + dNtok d - x.tokBase
    let n := combNelem d
    let out := if dOpcode d = 0x28 then last * rowPitch n (combOfmt d)
      else if dOpcode d = 0x29 then 2 * last * rowPitch n (combOfmt d) else 8 * last
    [(dSrc d, if dNoResid d then 0 else last * rowPitch n (combIfmt d)),
     (dDst2 d, if dOpcode d = 0x29 then 0 else 2 * last * rowPitch n (combEfmt d)), (dDst d, out)]
  | some .hoist =>
    if dOpcode d = 0x32 then [(dDst d, dHlen d)]
    else
      let n := if dOpcode d = 0x30 then ((s.group (dGroup d)).map (·.nmemb)).getD 0
        else if dHtmode d then dNtgt d else 1024
      [(dSrc d, dHlen d), (dDst d, dmapLen n)]
  | _ => []

end Sys2Proof.Machine
end

