-- ==== Sys2Proof/Machine/Collective.lean ====
section
/-! DEFINITION. Collectives: contributions, the tree, the root's decision, and what comes down (R30 to R36, R86 to R112,
R118 to R136, R398, R429). On the die a member's pass travels whole; on a link it is cut into the flits of R282 (DESIGN CHOICE, log 6). -/

namespace Sys2Proof.Machine

open Sys2Proof

/-! ## The defining fields (R86, R120, R179) -/

/-- The defining fields of a collective's descriptor. -/
def definingOf (d : Desc) : Defining :=
  { q0 := BitVec.ofNat 30 (bits d.q0 0 30)
    q1 := if dOpcode d = 0x20 then setBits (setBits d.q1 0 21 0) 24 24 0 else setBits d.q1 34 1 0
    q2 := d.q2 }

/-- A descriptor with these defining fields and nothing else. -/
def descLike (x : Defining) : Desc :=
  { q0 := x.q0.zeroExtend 64, q1 := x.q1, q2 := x.q2, q3 := 0, q4 := 0, q5 := 0, q6 := 0, q7 := 0 }

/-- The fields that decide how a collective runs. -/
structure Shape where
  op : Nat
  ifmt : Fmt
  ofmt : Fmt
  xfmt : Fmt
  prec : Nat
  rm : Rm
  scanop : Nat
  nelem : Nat
  flag : Bool
  tile : Bool
  widen : Bool
  thr : Nat
  nexp : Nat
  k2 : Bool
  deriving DecidableEq, Repr

/-- The shape of a collective; validation has accepted its formats. `flag` is `WITH_POS` or `ZERO_UNVISITED`. -/
def shapeOf (x : Defining) : Shape :=
  let d := descLike x
  { op := dOpcode d, ifmt := (fmtOf (dIfmt d)).getD .f32, ofmt := (fmtOf (dOfmt d)).getD .f32
    xfmt := (fmtOf (dXfmt d)).getD .kf8e4, prec := dPrec d, rm := (rmOf (dRmode d)).getD .rne, scanop := dScanop d
    nelem := dNelem d, flag := if dOpcode d = 0x02 then bit d.q1 35 else dWithPos d, tile := bit d.q1 36
    widen := dAutoWiden d, thr := dNsThr d, nexp := dNexp d, k2 := dRouteK d }

/-- A scan (R106). -/
def Shape.scan (x : Shape) : Bool := x.op == 0x0E || x.op == 0x0F
/-- A `ROUTE`. -/
def Shape.route (x : Shape) : Bool := x.op == 0x20
/-- An `NSUM`. -/
def Shape.nsum (x : Shape) : Bool := x.op == 0x03

/-- The accumulation format (R90). -/
def Shape.acc (x : Shape) : Fmt := if x.ifmt = .f64 then .f64 else .f32

/-- What a pass carries (R94 to R97, R123 to R132, R188). -/
inductive PassKind where
  | plain | word | window | nsMax | level | counts
  deriving DecidableEq, Repr

/-- The kind of a pass; `p1` is the root's choice of P1 under R100 and R134. -/
def passKind (x : Shape) (p1 : Bool) (pass : Nat) : PassKind :=
  if x.route then .counts
  else if x.nsum then
    match pass with
    | 1 => .nsMax
    | 2 => .level
    | 3 => if p1 then .plain else .word
    | _ => .window
  else if x.prec = 0 then .plain
  else if pass = 1 then .word
  else if p1 then .plain else .window

/-! ## The flits of a pass (R44, R282, Tables 3-9, 4-5) -/

/-- Bits of an element of a plain pass in the tree (Table 3-9). -/
def Shape.plainBits (x : Shape) : Nat :=
  let w := if x.ifmt.width = 64 then 64 else 32
  match x.op with
  | 0x0A | 0x0B | 0x0C => w
  | 0x0D => 32
  | 0x10 | 0x20 => 64
  | 0x0E | 0x0F => if x.scanop = 0 && x.ifmt.isInt then 2 * w else w
  | _ => if (extremum x.op).isSome then (if x.flag then 2 * w else w) else if x.ifmt.isInt then 2 * w else w

/-- Bits of an element of a pass in the tree (Tables 3-9, 4-5). -/
def passBits (x : Shape) : PassKind → Nat
  | .plain => x.plainBits
  | .word => 16
  | .window => 64
  | .nsMax => 32
  | .level => 32
  | .counts => 64

/-- The indices of the elements in widened blocks, ascending. -/
def widenedIdx (x : Shape) (blocks : List Bool) : List Nat :=
  (List.range x.nelem).filter (fun i => nth false blocks (blockOf x.tile i))

/-- Values of a pass in the tree: one per element, and per block of an `NSUM` its maximum and its flush word. -/
def passLength (x : Shape) (k : PassKind) (widened : List Bool) : Nat :=
  match k with
  | .nsMax => blockCount x.tile x.nelem
  | .level => x.nelem + (if x.tile then blockCount x.tile x.nelem else 0)
  | .counts => x.nexp * (if x.k2 then 2 else 1)
  | _ => if x.nsum then (widenedIdx x widened).length else x.nelem

/-- Flits of 512 bits that a pass takes in each of its phases. -/
def flitCount (x : Shape) (k : PassKind) (widened : List Bool) : Nat :=
  max 1 ((passLength x k widened * passBits x k + 511) / 512)

/-- `F_PHASE` of a pass (Table 10-4): the two windows of P3 take two of them. -/
def phasesOf (x : Shape) (k : PassKind) (pass : Nat) : List Nat :=
  if x.nsum then (match pass with | 1 => [0] | 2 => [1] | 3 => [3] | _ => [4])
  else if pass ≤ 1 then [0]
  else if k = .window ∧ x.prec = 2 then [1, 2] else [1]

/-- The channel fields of a collective's flit (Table 10-4). -/
def collFvcf (group ctx epoch plane phase flit : Nat) : BitVec 50 :=
  fields 50 [(38, 12, group), (26, 12, ctx), (18, 8, epoch), (15, 3, plane), (12, 3, phase), (0, 11, flit)]

/-- The flits of a message in some phases: flit `i` rides plane `i mod 8`, and each plane counts its own. DESIGN CHOICE, log 6. -/
def passFlits (group ctx epoch : Nat) (phases : List Nat) (n : Nat) (b : FlitBody) : List TxFlit :=
  phases.flatMap (fun ph => (List.range n).map (fun i => { fvcf := collFvcf group ctx epoch (i % 8) ph (i / 8), body := b }))

/-- The kind of the pass that a collective gathers. -/
def Coll.kind (c : Coll) : PassKind := passKind (shapeOf c.defn) c.asP1 c.pass

/-- The phases and the flits per phase of the pass that a collective gathers. -/
def Coll.phases (c : Coll) : List Nat := phasesOf (shapeOf c.defn) c.kind c.pass

def Coll.flits (c : Coll) : Nat := flitCount (shapeOf c.defn) c.kind c.widened

/-- The element operation of a plain pass (Table 3-1). -/
def Shape.comb (x : Shape) : Comb :=
  let sum := if x.ifmt.isInt then .isum else .fsum x.acc x.rm
  let ext : Ext → Comb := fun k => if x.ifmt.isInt then .iext k else .ext k x.acc
  match x.op with
  | 0x04 => ext .max | 0x05 => ext .min | 0x06 => ext .maxnum | 0x07 => ext .minnum | 0x08 => ext .amax | 0x09 => ext .amin
  | 0x0A => .band | 0x0B => .bor | 0x0C => .bxor | 0x0D => .isum | 0x10 => .lsem
  | 0x0E | 0x0F => if x.scanop = 1 then ext .max else if x.scanop = 2 then ext .min else sum
  | _ => sum

/-- The operation that nodes apply in a pass. -/
def passComb (x : Shape) (k : PassKind) : Comb :=
  match k with
  | .plain => x.comb
  | .word => .word
  | .window => .window
  | .nsMax => .nsMax
  | .level => .level
  | .counts => .isum

/-- Nodes gather the members' values instead of folding them (R106, R188). -/
def gathers (x : Shape) : Bool := x.scan || x.route

/-! ## A member's contribution -/

/-- An element in A (R90): its code and the flag of a signalling NaN. -/
def intoA (a : Fmt) (x : Expand) (f : Fmt) (code : Nat) : Nat × Tally :=
  let v := inputVal x f code
  let r := toIeee a .rne v.1
  (r.1, v.2.join r.2)

/-- The tensor's element codes at `SRC`; an `LSEM` pair is one code of 64 bits. -/
def State.sourceCodes (s : State) (d : Desc) (x : Shape) : List Nat :=
  if x.op = 0x10 ∧ dLsemRaw d = false then (List.range x.nelem).map (fun i => loadNat s (dSrc d + 8 * i) 8)
  else unpack x.ifmt (load s (dSrc d) (x.ifmt.bytes x.nelem)) x.nelem

/-- The pair of an `LSEM` element (R111). -/
def lsemElem (raw : Bool) (f : Fmt) (code : Nat) : Elem × Tally :=
  if raw then
    let r := intoA .f32 { table := none, scale := none } f code
    let s := if Fmt.f32.isNan r.1 then r.1 else if r.1 = Fmt.f32.infinity true then 0 else 0x3F800000
    (.pair (BitVec.ofNat 32 r.1) (BitVec.ofNat 32 s), r.2)
  else
    let m := toIeee .f32 .rne (Fmt.f32.value (code % 2 ^ 32))
    let s := toIeee .f32 .rne (Fmt.f32.value (code / 2 ^ 32))
    (.pair (BitVec.ofNat 32 m.1) (BitVec.ofNat 32 s.1), m.2.join s.2)

/-- An element of a plain pass (R90, R102, R103, R105, R111). -/
def plainElem (x : Shape) (d : Desc) (e : Expand) (rig code : Nat) : Elem × Tally :=
  match x.op with
  | 0x0A | 0x0B | 0x0C => (.int code rig, Tally.zero)
  | 0x0D => (.int (match (inputVal e x.ifmt code).1 with | .zero _ => 0 | _ => 1) rig, Tally.zero)
  | 0x10 => lsemElem (dLsemRaw d) x.ifmt code
  | _ =>
    if x.ifmt.isInt then (.int (signed x.ifmt.width code) rig, Tally.zero)
    else
      let r := intoA x.acc e x.ifmt code
      (.flt (BitVec.ofNat 64 r.1) rig, r.2)

/-- The element of pass 2 of P2 and P3, settled by its combined word (R95 to R97). -/
def windowElem (p3 rdn : Bool) (rig w c : Nat) : Elem × Tally :=
  match settle w rdn with
  | .key => (.int (nanKey rig c) rig, Tally.zero)
  | .value _ _ => (.win 0 0, Tally.zero)
  | .window e =>
    let r := windows p3 e c
    (.win r.1.1 r.1.2, r.2)

/-- The levels of a tensor, from each block's maximum (R124, R125). -/
def levelElems (x : Shape) (n rig : Nat) (maxima codes : List Nat) : List Elem × Tally :=
  let h := headroom x.xfmt n
  gather ((codes.zipIdx).map (fun c =>
    let r := nsLevel c.1 (nsScale (nth 0 maxima (blockOf x.tile c.2)) x.xfmt h) x.xfmt h
    (Elem.int r.1 rig, r.2)))

/-- The flush words of a tensor, one per tile (R130). -/
def flushWords (x : Shape) (n : Nat) (maxima codes : List Nat) : List Nat :=
  let h := headroom x.xfmt n
  if x.tile then
    ((blocks true codes).zip maxima).map (fun b =>
      (Tally.joinAll (b.1.map (fun c => (nsLevel c (nsScale b.2 x.xfmt h) x.xfmt h).2))).flush)
  else []

/-- The codes that a member contributes in a pass: of its source, or in a widened run those of the widened blocks, which the port reads
once more at its first pass and holds for its second (R132, R135). -/
def State.passCodes (s : State) (d : Desc) (x : Shape) (pass : Nat) (blocks : List Bool) (held : List Nat) : List Nat :=
  if x.nsum ∧ pass = 3 then (widenedIdx x blocks).map (nth 0 (s.sourceCodes d x))
  else if x.nsum ∧ 3 < pass then held
  else s.sourceCodes d x

/-- What a member contributes to a pass from its codes: values, flush words and tally. `words` holds what the pass before settled: the
combined words of P2 and P3, or the block maxima of `NSUM`. -/
def passVals (x : Shape) (d : Desc) (e : Expand) (n rig : Nat) (k : PassKind) (words codes : List Nat) :
    List Elem × List Nat × Tally :=
  let c := gather (codes.map (intoA .f32 e x.ifmt))
  match k with
  | .plain =>
    let r := gather (codes.map (plainElem x d e rig))
    (r.1, [], r.2)
  | .word => (c.1.map (fun v => .int (classWord v) rig), [], c.2)
  | .window =>
    let r := gather ((c.1.zip words).map (fun v => windowElem (x.prec == 2) (x.rm == .rdn) rig v.2 v.1))
    (r.1, [], c.2.join r.2)
  | .nsMax => ((blocks x.tile c.1).map (fun b => .int (blockMax b) rig), [], c.2)
  | .level =>
    let r := levelElems x n rig words c.1
    (r.1, flushWords x n words c.1, c.2.join r.2)
  | .counts => ([], [], Tally.zero)

/-! ## `ROUTE` at its member (R182 to R188) -/

/-- The gate mode of Table 6-1. -/
def gateModeOf (c : Nat) : GateMode := if c = 0 then .sel else if c = 1 then .all else .one

/-- The F32 scores of a row, and its flag (R182, R183): a signalling score stays as it is, for it is never selected. -/
def State.scoreRow (s : State) (d : Desc) (r : Nat) : List Nat × Tally :=
  let f := (fmtOf (dIfmt d)).getD .f32
  let codes := unpack f (load s (dSrc d + r * dSstride d) (f.bytes (dNexp d))) (dNexp d)
  (codes.map (fun c => (toIeee .f32 .rne (f.value c)).1), scoreTally f codes)

/-- The selections and gate weights of a row (R183, R185). -/
def State.routeRow (s : State) (d : Desc) (r : Nat) : (List (Option Nat) × List Nat) × Tally :=
  let x := s.scoreRow d r
  let sel := selectExperts x.1 (dRTokBase d + r) (if dRouteK d then 2 else 1) (dRotate d)
  let w := gateWeights x.1 sel (gateModeOf (dGateMode d))
  ((sel, w.1), x.2.join w.2)

/-- Side `i` of every row. -/
def sideColumn (sel : List (List (Option Nat))) (i : Nat) : List (Option Nat) := sel.map (fun r => nth none r i)

/-- The number of sides. -/
def sides (d : Desc) : List Nat := if dRouteK d then [0, 1] else [0]

/-- A member of a `ROUTE` as it starts: its rows, and its count vector as its contribution. -/
def State.routeMember (s : State) (p : Nat) (d : Desc) (k : Option Nat) : Member :=
  let rows := gather ((List.range (dRNtok d)).map (s.routeRow d))
  let sel := rows.1.map (·.1)
  let rig := s.rig p
  let vec := countVector (dNexp d) ((sides d).map (sideColumn sel))
  { pos := p, desc := d, stage := .sending
    up := some {
      defn := definingOf d, pass := 1, reef := false, fault := false, clash := false, ncontrib := 1
      vals := some (vec.map (fun v => .int v rig)), flushes := [], tally := Tally.zero }
    live := true, sel := sel, wts := rows.1.map (fun r => r.2.map (BitVec.ofNat 32)), tally := rows.2, tagSlot := k
    held := [] }

/-- A member's contribution to pass `pass` from its codes (R86, R109). -/
def State.contribution (s : State) (p : Nat) (d : Desc) (pass : Nat) (p1 : Bool) (words codes : List Nat) : UpMsg :=
  let x := shapeOf (definingOf d)
  let absent := x.op == 0x02 && dSpAbsent d
  let e := match s.binding (dCtx d) with | some b => b.expand | none => { table := none, scale := none }
  let n := match s.group (dGroup d) with | some g => g.nmemb | none => 1
  let v := if absent then ([], [], Tally.zero) else passVals x d e n (s.rig p) (passKind x p1 pass) words codes
  { defn := definingOf d, pass := pass, reef := false, fault := false, clash := false, ncontrib := if absent then 0 else 1
    vals := if absent then none else some v.1, flushes := v.2.1, tally := v.2.2 }

/-! ## The tree (R30 to R36) -/

/-- Flush words add exactly (R130). -/
def addFlushes : List Nat → List Nat → List Nat
  | a :: l, b :: r => (a + b) :: addFlushes l r
  | l, [] => l
  | [], r => r

/-- The messages of a node's children as one: marks, counts, flush words and tallies, with the folded values. -/
def joinUps (l : List UpMsg) (vals : Option (List Elem)) (steps : Tally) (m0 : UpMsg) : UpMsg :=
  { defn := m0.defn, pass := m0.pass, reef := l.any (·.reef), fault := l.any (·.fault), clash := l.any (·.clash)
    ncontrib := l.foldl (fun n m => n + m.ncontrib) 0, vals := vals
    flushes := l.foldl (fun a m => addFlushes a m.flushes) []
    tally := (Tally.joinAll (l.map (·.tally))).join steps }

/-- The present children (R31), with a key. -/
def presentUps (l : List (Nat × UpMsg)) : List (Nat × List Elem) :=
  l.filterMap (fun m => m.2.vals.map (fun v => (m.1, v)))

/-- The values of some children: folded along the tree's nodes by rig index, or gathered. -/
def foldUps (x : Shape) (k : PassKind) (l : List (Nat × UpMsg)) : Option (List Elem) × Tally :=
  let present := presentUps l
  if gathers x then (if present.isEmpty then none else some (present.flatMap (·.2)), Tally.zero)
  else (passComb x k).tree present

/-- The output of a fold node: the left fold of up to four inputs in child order (R33, R36). -/
def foldInputs (x : Shape) (k : PassKind) (l : List (Nat × UpMsg)) : Option (List Elem) × Tally :=
  let present := (presentUps l).map (·.2)
  if gathers x then (if present.isEmpty then none else some present.flatten, Tally.zero)
  else (passComb x k).fold present

/-- A collective of which nothing has arrived. -/
def Coll.fresh (ctx epoch group : Nat) (x : Defining) : Coll :=
  { ctx := ctx, epoch := epoch, group := group, defn := x, members := [], pass := 1, arrived := [], nodes := [], sentUp := []
    tally := Tally.zero, asP1 := false, thr := 0, words := [], codes := [], widened := [], down := none, ended := none
    marks := [], got := [], gotDown := 0, early := none }

/-- A collective is put into the list, in place of the one it replaces. -/
def State.setColl (s : State) (c : Coll) : State :=
  let l := s.ops.colls
  let mine : Coll → Bool := fun x => x.ctx == c.ctx && x.epoch == c.epoch
  { s with ops := { s.ops with colls := if l.any mine then mapIf mine (fun _ => c) l else l ++ [c] } }

def State.modColl (s : State) (ctx epoch : Nat) (f : Coll → Coll) : State :=
  { s with ops := { s.ops with colls := mapIf (fun c => c.ctx == ctx && c.epoch == epoch) f s.ops.colls } }

/-- A collective that has ended here and has no member outstanding leaves. -/
def State.tidyColls (s : State) : State :=
  { s with ops := { s.ops with colls := s.ops.colls.filter (fun c => !(c.ended.isSome && c.members.isEmpty)) } }

/-- A cause to abandon the cinch that runs (Table 12-3); the first one stays. -/
def State.cutReason (s : State) (r : Nat) : State :=
  { s with mh := { s.mh with cut := s.mh.cut.map (fun c => if c.reason = 0 then { c with reason := r } else c) } }

/-- The terminal status of an epoch is recorded: the four that ended last (R264). A `FAULT` on a chosen context is a cause to abandon
the cinch that runs (R365). -/
def State.recordEpoch (s : State) (ctx epoch : Nat) (st : CStatus) : State :=
  match s.binding ctx with
  | none => s
  | some b =>
    let s := if st = .fault ∧ b.chosen then s.cutReason 6 else s
    { s with ctxs := s.ctxs.put ctx { b with epochs := ((epoch, st) :: b.epochs.filter (fun e => e.1 ≠ epoch)).take 4 } }

/-! ## The root (R87, R95, R100, R124, R128, R131, R133, R188) -/

/-- The final conversion of an element's value (R74 to R81, R92, R101 to R105). -/
def finalCode (x : Shape) (e : Elem) : Nat × Tally :=
  match e with
  | .flt b _ => convFloat x.ofmt x.rm (x.acc.value b.toNat)
  | .int v _ =>
    if x.op = 0x0A ∨ x.op = 0x0B ∨ x.op = 0x0C then (v.toNat, Tally.zero)
    else if x.op = 0x0D then ((convInt x.ofmt x.rm v).1, Tally.zero)
    else convInt x.ofmt x.rm v
  | .pair m s => (m.toNat + s.toNat * 2 ^ 32, Tally.zero)
  | .win _ _ => (0, Tally.zero)

/-- The result of an element after pass 2 of P2 and P3 (R95 to R97). -/
def windowCode (x : Shape) (w : Nat) (e : Elem) : Nat × Tally :=
  let m := x.rm
  match settle w (m == .rdn), e with
  | .value v t, _ => let r := convFloat x.ofmt m v; (r.1, t.join r.2)
  | .key, .int v _ =>
    convFloat x.ofmt m (Fmt.f32.value (Fmt.f32.quiet (v.toNat % 2 ^ 32)))
  | .window q, .win s1 s2 => convFloat x.ofmt m (windowValue (x.prec == 2) q m s1 s2)
  | _, _ => (0, Tally.zero)

/-- The position that an element carries (R105). -/
def elemPos : Elem → Nat
  | .flt _ p => p
  | .int _ p => p
  | _ => 0

/-- The status and `OPVAL` of a result, and the codes of one without a contributor (R109, R110). -/
def finish (x : Shape) (p1 : Bool) (n : Nat) (t : Tally) (codes poss : List Nat) : Result :=
  if x.op = 0x02 ∧ n = 0 then
    { status := .unvisited, tally := Tally.zero, opval := 0, codes := if x.flag then List.replicate x.nelem 0 else []
      poss := [], scan := [] }
  else
    { status := if p1 then .reefedPrec else .ok, tally := t, opval := if x.op = 0x02 then n else 0, codes := codes
      poss := poss, scan := [] }

/-- The value of an empty prefix (R107). -/
def emptyPrefix (x : Shape) : Nat :=
  let inf : Bool → Nat := fun neg => (convFloat x.ofmt x.rm (.inf neg)).1
  let lim : Int → Nat := fun v => (convInt x.ofmt x.rm v).1
  match x.scanop with
  | 1 => if x.ifmt.isInt then lim x.ifmt.intMin else inf true
  | 2 => if x.ifmt.isInt then lim x.ifmt.intMax else inf false
  | _ => 0

/-- Gathered values cut into the members' own, by rig index ascending. -/
def chunksOf (n : Nat) (l : List Elem) : List (Nat × List Elem) :=
  sortBy (·.1) ((List.range (l.length / n)).map (fun i =>
    let c := (l.drop (n * i)).take n
    ((c.head?.map elemPos).getD 0, c)))

/-- A member's prefix of a scan, converted (R106, R107). -/
def prefixCodes (x : Shape) (chunks : List (Nat × List Elem)) (rig : Nat) : List Nat × Tally :=
  let mine := chunks.filter (fun c => if x.op = 0x0F then decide (c.1 ≤ rig) else decide (c.1 < rig))
  match x.comb.tree mine with
  | (none, t) => (List.replicate x.nelem (emptyPrefix x), t)
  | (some l, t) =>
    let r := gather (l.map (finalCode x))
    (r.1, t.join r.2)

/-- The result of a scan (R106, R108). -/
def scanResult (x : Shape) (t : Tally) (vals : List Elem) : Result :=
  let chunks := chunksOf x.nelem vals
  let l := chunks.map (fun c => (c.1, prefixCodes x chunks c.1))
  { status := .ok, tally := (l.foldl (fun a c => a.join c.2.2) t), opval := 0, codes := [], poss := []
    scan := l.map (fun c => (c.1, c.2.1)) }

/-- The totals and exclusive prefixes of a `ROUTE`'s counts (R188). -/
def countsResult (x : Shape) (vals : List Elem) : DownMsg :=
  let n := x.nexp * (if x.k2 then 2 else 1)
  let chunks := chunksOf n vals
  let sum : List (Nat × List Elem) → List Int := fun l =>
    (List.range n).map (fun i => l.foldl (fun (a : Int) c => a + elemNum (nth (Elem.int 0 0) c.2 i)) 0)
  .counts (sum chunks) (chunks.map (fun c => (c.1, sum (chunks.filter (fun o => decide (o.1 < c.1))))))

/-- The precision reef is in force at the root (R100, R398): a reef bit has arrived, and the context's grant bit is set. DESIGN CHOICE, log 73. -/
def State.reefGranted (s : State) (ctx : Nat) (reef : Bool) : Bool := reef && s.pol.grants.getLsbD ctx

/-- The codes of every element of an `NSUM` from its level sums; none where the block is widened (R128, R131). -/
def levelCodes (x : Shape) (n : Nat) (maxima : List Nat) (wide : List Bool) (sums : List Elem) : List (Option Nat) × Tally :=
  let h := headroom x.xfmt n
  gather ((sums.zipIdx).map (fun e =>
    let b := blockOf x.tile e.2
    if nth false wide b then (none, Tally.zero)
    else
      let r := nsResult (elemNum e.1) (nsScale (nth 0 maxima b) x.xfmt h) x.xfmt x.ofmt x.rm
      (some r.1, r.2)))

/-- Which blocks of an `NSUM` are widened (R131). -/
def widenBlocks (x : Shape) (n thr : Nat) (flushes : List Nat) (total : Nat) : List Bool :=
  (List.range (blockCount x.tile x.nelem)).map (fun b =>
    x.widen && widenTest (if x.tile then nth 0 flushes b else total) thr (blockLen x.tile x.nelem b * n))

/-- The codes with the widened ones filled in, in order. -/
def fillCodes : List (Option Nat) → List Nat → List Nat
  | [], _ => []
  | some c :: r, w => c :: fillCodes r w
  | none :: r, w :: ws => w :: fillCodes r ws
  | none :: r, [] => 0 :: fillCodes r []

/-- The result of an `NSUM` (R133, R134). -/
def nsumResult (p1 : Bool) (t : Tally) (wide : List Bool) (codes : List Nat) : Result :=
  let w := (wide.filter id).length
  { status := if w = 0 then .ok else if p1 then .reefedPrec else .widened, tally := t, opval := w, codes := codes
    poss := [], scan := [] }

/-- What the root sends down at the end of a pass, and the collective with what it keeps. -/
def State.rootSays (s : State) (n : Nat) (c : Coll) (u : UpMsg) : Coll × DownMsg :=
  let x := shapeOf c.defn
  let first := c.pass = 1
  let p1 := if first then s.reefGranted c.ctx u.reef else c.asP1
  let thr := if first then (if x.thr ≠ 0 then x.thr else s.policy 0x06) else c.thr
  let c := { c with asP1 := p1, thr := thr, tally := c.tally.join u.tally }
  let vals := u.vals.getD []
  let nums := vals.map (fun e => (elemNum e).toNat)
  let sumKind := x.nsum || (x.prec ≠ 0 : Bool)
  let reefed := p1 && sumKind
  if u.clash then (c, .ended .badContext)
  else if u.fault then (c, .ended .fault)
  else if x.route then (c, countsResult x vals)
  else if x.scan then (c, .final (scanResult x c.tally vals))
  else if u.vals.isNone then (c, .final (finish x (p1 && sumKind) u.ncontrib c.tally [] []))
  else
    match passKind x p1 c.pass with
    | .word => if first ∧ p1 then (c, .pass1 [] true) else ({ c with words := nums }, .pass1 nums false)
    | .nsMax => ({ c with words := nums }, .pass1 nums false)
    | .level =>
      let wide := widenBlocks x n thr u.flushes u.tally.flush
      let r := levelCodes x n c.words wide vals
      let c := { c with tally := c.tally.join r.2, codes := r.1, widened := wide }
      if wide.any id then (c, .widen wide p1 r.1)
      else (c, .final (nsumResult p1 c.tally wide (fillCodes r.1 [])))
    | .window =>
      let r := gather ((c.words.zip vals).map (fun w => windowCode x w.1 w.2))
      let t := c.tally.join r.2
      (c, .final (if x.nsum then nsumResult p1 t c.widened (fillCodes c.codes r.1) else finish x reefed u.ncontrib t r.1 []))
    | .plain =>
      let r := gather (vals.map (finalCode x))
      let t := c.tally.join r.2
      (c, .final (if x.nsum then nsumResult p1 t c.widened (fillCodes c.codes r.1)
        else finish x reefed u.ncontrib t r.1 (if (extremum x.op).isSome && x.flag then vals.map elemPos else [])))
    | .counts => (c, countsResult x vals)

end Sys2Proof.Machine
end

