-- ==== Sys2Proof/Machine/TellTale.lean ====
section
/-! DEFINITION. Tell-tale commands: the checks at the port and at the word, `tt_cycle`, remote signals, and what a reset, a
rebind and a let-fly do to words and waits (R142 to R163, R171 to R173). -/

namespace Sys2Proof.Machine

open Sys2Proof

/-! ## Fields of a command (Table 5-4) -/

def cTop (c : Word64) : Nat := bits c 60 4
def cTmo (c : Word64) : Nat := bits c 52 4
def cOperand (c : Word64) : Nat := bits c 32 20
def cRemote (c : Word64) : Bool := bit c 31
def cChip (c : Word64) : Nat := bits c 16 15
def cTarget (c : Word64) : Nat := bits c 0 16

/-- The command responds (Table 5-5): all but a posted `SIG`. -/
def cResponds (c : Word64) : Bool := cTop c != 1 || bit c 59

/-- The command is a wait (R149). -/
def cWaits (c : Word64) : Bool := cTop c == 2 || cTop c == 9 || (cTop c == 8 && bit c 57)

/-- The flags of Table 5-5 that an opcode leaves unmarked are 0. -/
def flagsOk (c : Word64) : Bool :=
  match cTop c with
  | 1 => !bit c 58 && !bit c 57
  | 5 => !bit c 59
  | 8 => !bit c 59
  | _ => !bit c 59 && !bit c 58 && !bit c 57

/-- The checks of R150 at the port, in order; none is a pass. -/
def State.portCheck (s : State) (p : Nat) (c : Word64) : Option CStatus :=
  let top := cTop c
  let barrier := top = 8 ∨ top = 9
  let cluster := wordCluster (cTarget c)
  let x := s.port p
  if top = 0 ∨ 9 < top ∨ flagsOk c = false ∨ bit c 56 ∨ (barrier ∧ cOperand c ≠ 0) then some .badDescriptor
  else if (cTmo c ≠ 0 ∧ cWaits c = false) ∨ (cRemote c ∧ top ≠ 1) ∨ (cChip c ≠ 0 ∧ cRemote c = false) then
    some .badDescriptor
  else if barrier ∧ cTarget c / 64 ≠ 0 then some .badDescriptor
  else if ¬barrier ∧ 768 ≤ wordIndex (cTarget c) ∧ ¬(top = 6 ∧ wordIndex (cTarget c) = 0x3FF) then some .badDescriptor
  else if (top = 6 ∨ top = 7) ∧ s.poolMode cluster = false then some .badDescriptor
  else if cRemote c ∧ s.isPresent (cChip c) = false then some .badContext
  else if ¬barrier ∧ top ≠ 1 ∧ cluster ≠ p / 16 then some .notOwner
  else if cWaits c ∧ 8 ≤ x.waits.length then some .noResource
  else if top = 2 ∧ x.waits.contains (false, cTarget c) then some .badDescriptor
  else none

/-! ## The word (R151 to R156) -/

/-- Where the answer of a command at a word goes (R147, R152, R161, R171). -/
def State.answerFlight (s : State) (w : Nat) (f : Flight) (st : CStatus) (value : Nat) : State :=
  let rig := f.issuer.toNat
  match f.via with
  | .port =>
    if cResponds f.cmd then
      (if cWaits f.cmd then s.endWait (rig % 1024) false w else s).answer (rig % 1024) st (cTop f.cmd) (cTarget f.cmd) value
    else if st = .ok then s else s.logSync st w s.topo.chip rig
  | .completion => if st = .ok then s else s.logSync st w s.topo.chip rig
  | .offDie chip tag ack =>
    if ack then
      s.originate 1 chip (syncMsg 2 (statusCode st) chip 0 w rig value 0 0 tag.toNat)
    else if st = .ok then s else s.logSync st w chip rig
  | .silent => s
  | .remote _ => s
  | .posted => s

/-- The shadow after a `SIG` has reached the word (R145). -/
def Shadow.signalled (x : Shadow) (f : Flight) : Shadow :=
  { lastOp := 1, sigSeq := x.sigSeq + 1, lsValid := true,
    lsOffdie := (match f.via with | .offDie _ _ _ => true | _ => false), lastSig := f.issuer }

/-- The shadow after any other command of R145, with the clearing of a successful `INIT` or `CLAIM`. -/
def Shadow.reached (x : Shadow) (top : Nat) (clear : Bool) : Shadow :=
  if clear then { lastOp := top, sigSeq := 0, lsValid := false, lsOffdie := false, lastSig := 0 }
  else { x with lastOp := top }

/-- The operand is in the range of Table 5-5 (R151 step 3, R155). -/
def operandOk (x : SyncWord) (c : Word64) : Bool :=
  let n := cOperand c
  match cTop c with
  | 1 => if x.mode = .flag then n == 1 else n != 0
  | 2 => if x.mode = .flag then n == 1 else true
  | 3 => x.mode = .count && n != 0
  | 5 => if bit c 57 then true else n ≤ 1 && !bit c 58
  | _ => n == 0

/-- The checks of R151 at the word. DEDUCED, log 67. -/
def wordCheck (w : Nat) (x : SyncWord) (f : Flight) : Option CStatus :=
  let top := cTop f.cmd
  if x.own = .unclaimed ∧ top ≠ 6 then some .badContext
  else if (top = 5 ∨ top = 7) ∧ f.issuer.toNat % 1024 ≠ ownerPos w x then some .notOwner
  else if operandOk x f.cmd = false then some .badDescriptor
  else if x.own = .orphaned ∧ (top = 1 ∨ top = 2 ∨ top = 3 ∨ top = 4) then some .orphan
  else none

/-- Every wait for zero is served when the value is 0 (`release_drain`). -/
def State.releaseDrain (s : State) (w : Nat) : State :=
  let x := s.word w
  if x.value = 0 then
    forEach x.drain (fun q s => s.answerWait w q .ok 0) (s.setWord w { x with drain := [] })
  else s

/-- The queue is served from its head while the count covers it (`signal`). -/
def State.serveQueue (w : Nat) : List Waiter → State → State
  | [], s => s
  | q :: r, s =>
    let x := s.word w
    if q.operand ≤ x.value then
      let v := x.value - q.operand
      State.serveQueue w r ((s.setWord w { x with value := v, queue := r }).answerWait w q .ok v)
    else s

/-- `manage`: `INIT`, `CLAIM`, `RELEASE` and `TEST` (R155, R156). -/
def State.manage (s : State) (w : Nat) (f : Flight) : State :=
  let x := s.word w
  let c := f.cmd
  match cTop c with
  | 4 => s.answerFlight w f .ok x.value
  | 5 =>
    if !x.waiters.isEmpty then s.answerFlight w f .badContext x.value
    else
      let y : SyncWord := { x with
        mode := if bit c 57 then .count else .flag, own := .owned, ovf := false, udf := false, drift := false,
        trimEn := bit c 58, base := cOperand c, value := cOperand c }
      ((s.setWord w y).setShadow w ((s.shadowOf w).reached 5 true)).answerFlight w f .ok y.value
  | 6 =>
    if x.own = .unclaimed then
      let y : SyncWord := { x with own := .owned, owner := f.issuer.toNat % 16 }
      ((s.setWord w y).setShadow w ((s.shadowOf w).reached 6 true)).answerFlight w f .ok (wordIndex w)
    else s.answerFlight w f .notOwner x.value
  | _ =>
    if !x.waiters.isEmpty then s.answerFlight w f .badContext x.value
    else (s.setWord w { x with
      mode := .flag, own := .unclaimed, value := 0, ovf := false, udf := false, drift := false, trimEn := false }).answerFlight w f .ok 0

/-- `join`: `WAIT` (R153). -/
def State.join (s : State) (w : Nat) (f : Flight) : State :=
  let x := s.word w
  let q : Waiter := { pos := f.issuer.toNat % 1024, operand := cOperand f.cmd, tmo := cTmo f.cmd }
  if x.mode = .flag then
    if x.value = 1 then (s.setWord w { x with value := 0 }).answerFlight w f .ok 0
    else s.setWord w { x with queue := x.queue ++ [q] }
  else if q.operand = 0 then
    if x.value = 0 then s.answerFlight w f .ok 0 else s.setWord w { x with drain := x.drain ++ [q] }
  else if x.queue.isEmpty ∧ q.operand ≤ x.value then
    let v := x.value - q.operand
    ((s.setWord w { x with value := v }).answerFlight w f .ok v).releaseDrain w
  else s.setWord w { x with queue := x.queue ++ [q] }

/-- `signal`: `SIG` (R153). -/
def State.signal (s : State) (w : Nat) (f : Flight) : State :=
  let x := s.word w
  if x.mode = .flag then
    match x.queue with
    | q :: r => ((s.setWord w { x with queue := r }).answerWait w q .ok 0).answerFlight w f .ok x.value
    | [] =>
      if x.value = 1 then (s.setWord w { x with ovf := true }).answerFlight w f .overfill 1
      else (s.setWord w { x with value := 1 }).answerFlight w f .ok 1
  else
    let full := decide (1048575 < x.value + cOperand f.cmd)
    let v := if full then 1048575 else x.value + cOperand f.cmd
    let s := s.setWord w { x with value := v, ovf := x.ovf || full }
    let s := (State.serveQueue w x.queue s).releaseDrain w
    s.answerFlight w f (if full then .overfill else .ok) (s.word w).value

/-- `decrement`: `DEC` (R153). -/
def State.decrement (s : State) (w : Nat) (f : Flight) : State :=
  let x := s.word w
  let n := cOperand f.cmd
  if x.value < n then (s.setWord w { x with udf := true }).answerFlight w f .underflowSync x.value
  else ((s.setWord w { x with value := x.value - n }).answerFlight w f .ok (x.value - n)).releaseDrain w

/-- One command takes effect at its word (R145, R151, R153). -/
def State.atWord (s : State) (w : Nat) (f : Flight) : State :=
  let top := cTop f.cmd
  let s := if top = 1 then s.setShadow w ((s.shadowOf w).signalled f)
    else if top = 4 then s else s.setShadow w ((s.shadowOf w).reached top false)
  match wordCheck w (s.word w) f with
  | some st => s.answerFlight w f st (s.word w).value
  | none =>
    match top with
    | 1 => s.signal w f
    | 2 => s.join w f
    | 3 => s.decrement w f
    | _ => s.manage w f

/-- The class of a command in `tt_cycle`. -/
def ttClass (c : Word64) : Nat :=
  match cTop c with
  | 2 => 1
  | 1 => 2
  | 3 => 3
  | _ => 0

/-- `tt_cycle` (R153): the commands of one cycle in the order of their classes, and within one in ascending rig index. -/
def State.ttCycle (s : State) (w : Nat) (fs : List Flight) : State :=
  forEach (sortBy (fun f => ttClass f.cmd * 2 ^ 25 + f.issuer.toNat) fs) (fun f s => s.atWord w f) s

/-- A `CLAIM` of index 0x3FF: the lowest unclaimed word of the cluster (R156). -/
def State.claimAny (cluster : Nat) (f : Flight) (s : State) : State :=
  if cOperand f.cmd ≠ 0 then s.answerFlight (cTarget f.cmd) f .badDescriptor 0
  else
    match (List.range 768).find? (fun i => (s.word (cluster * 1024 + i)).own = .unclaimed) with
    | none => s.answerFlight (cTarget f.cmd) f .noResource 0
    | some i =>
      let w := cluster * 1024 + i
      let y : SyncWord := { s.word w with own := .owned, owner := f.issuer.toNat % 16 }
      ((s.setWord w y).setShadow w ((s.shadowOf w).reached 6 true)).answerFlight w f .ok i

/-! ## Flights -/

/-- The flight goes to this word of this die. -/
def Flight.goesTo (f : Flight) (w : Nat) : Bool :=
  (match f.via with | .remote _ => false | .posted => false | _ => true) && decide (cTop f.cmd < 8) && decide (cTarget f.cmd = w)

/-- The flight is a command of a port of this die that no reset has cut off from its answer (R161, R166). -/
def Flight.fromPort (f : Flight) (rig : BitVec 25) : Bool :=
  (match f.via with | .port => true | .remote _ => cResponds f.cmd | .posted => true | _ => false) && f.issuer == rig

/-- The flight is a completion signal (R268): those of an endpoint are not ordered with the commands of its port. -/
def Flight.isCompletion (f : Flight) : Bool := match f.via with | .completion => true | _ => false

/-- Take the oldest flight of each named stream to a word: an issuer, and whether its completion signals or its commands are meant. An
issuer named again has its next one in the same cycle. -/
def takeFlights (w : Nat) : List (BitVec 25 × Bool) → List Flight → List Flight × List Flight
  | [], fs => ([], fs)
  | r :: rs, fs =>
    match fs.find? (fun f => f.goesTo w && f.issuer == r.1 && f.isCompletion == r.2) with
    | none => takeFlights w rs fs
    | some f =>
      let t := takeFlights w rs (fs.erase f)
      (f :: t.1, t.2)

/-- The oldest posted `SIG` of each named issuer to another chip has taken effect at its word there. -/
def dropPosted : List (BitVec 25) → List Flight → List Flight
  | [], fs => fs
  | r :: rs, fs =>
    match fs.find? (fun f => decide (f.via = .posted) && f.issuer == r) with
    | none => dropPosted rs fs
    | some f => dropPosted rs (fs.erase f)

/-- An arrival or barrier wait that no earlier command of its endpoint holds back (R166). The rule says so of `ARRIVE`; that a `BWAIT` is
held in the same way is the model's choice. DESIGN CHOICE, log 68. -/
def readyFence (paused : List Nat) : List Flight → List Flight → Option Flight
  | _, [] => none
  | before, f :: r =>
    if 8 ≤ cTop f.cmd && !(before.any (fun g => g.fromPort f.issuer)) && !paused.contains (f.issuer.toNat % 1024 / 16)
    then some f else readyFence paused (before ++ [f]) r

/-- Arrivals and barrier waits whose earlier commands have taken effect are counted (R166). -/
def State.flushFences : Nat → State → State
  | 0, s => s
  | n + 1, s =>
    match readyFence s.heldClusters [] s.tt.flights with
    | none => s
    | some f =>
      let s := { s with tt := { s.tt with flights := s.tt.flights.erase f } }
      let p := f.issuer.toNat % 1024
      State.flushFences n (if cTop f.cmd = 8 then s.applyArrive p f.cmd else s.applyBwait p f.cmd)

/-- Flush as many as are in flight. -/
def State.flush (s : State) : State := State.flushFences s.tt.flights.length s

/-- The lowest tag that no acknowledged remote `SIG` of the port uses (R171, DESIGN CHOICE, log 23). -/
def State.freeTag (s : State) (rig : BitVec 25) : BitVec 8 :=
  let used := s.tt.flights.filterMap (fun f => match f.via with
    | .remote t => if f.issuer = rig then some t.toNat else none
    | _ => none)
  BitVec.ofNat 8 (((List.range 256).find? (fun t => !used.contains t)).getD 0)

/-- A command that the port has passed leaves it: to a word or channel of this die, or as a sync message (R150, R171). -/
def State.launch (s : State) (p : Nat) (c : Word64) : State :=
  let rig := BitVec.ofNat 25 (s.rig p)
  let fly : Via → State → State := fun v s =>
    { s with tt := { s.tt with flights := s.tt.flights ++ [{ cmd := c, issuer := rig, via := v }] } }
  if cRemote c && cChip c != s.topo.chip then
    let tag := s.freeTag rig
    let m := syncMsg 1 0 (cChip c) (flag (bit c 59)) (cTarget c) rig.toNat (cOperand c) 0 0 (if bit c 59 then tag.toNat else 0)
    (fly (if bit c 59 then .remote tag else .posted) s).originate 1 (cChip c) m
  else (fly .port s).flush

/-- A store to `EP_TT_CMD` (R150, R152, R270). DEDUCED, log 66. -/
def State.issue (s : State) (p : Nat) (c : Word64) : State :=
  let x := s.port p
  if cResponds c && x.credits == 0 then s.modPort p (fun x => { x with err := x.err ||| 0x08#7 })
  else
    let s := if cResponds c then s.modPort p (fun x => { x with credits := x.credits - 1 }) else s
    match s.portCheck p c with
    | some st =>
      if cResponds c then s.answer p st (cTop c) (cTarget c) 0
      else
        (s.modPort p (fun x => { x with err := x.err ||| 0x40#7 })).logSync st (cTarget c)
          (if cRemote c then cChip c else s.topo.chip) (s.rig p)
    | none =>
      let s := if cWaits c then
        s.modPort p (fun x => { x with waits := x.waits ++ [(decide (8 ≤ cTop c), cTarget c)] }) else s
      s.launch p c

/-- The command word with its opcode. -/
def ttCommand (top : Nat) (w : BitVec 60) : Word64 := BitVec.ofNat 64 (top <<< 60 ||| w.toNat)

/-- A tell-tale row: a store to `EP_TT_CMD` of a port that runs (DEDUCED, log 24), and that wakes it in `DOZE` (R416); during the stop of a cinch a
store does not complete (R366), so it is for its sender to present again (DEDUCED, log 26). -/
def State.ttStore (s : State) (p : Nat) (c : Word64) : State := if s.wake.running && !s.stopped then s.wake.issue p c else s

/-! ## Resets, rebinds and let-fly (R160 to R163) -/

/-- The words that a position owns among those that commands have changed; every untouched word of a fixed-mode owner as
well. -/
def State.wordsOf (s : State) (p : Nat) : List Nat :=
  (List.range 768).filterMap (fun i =>
    let w := p / 16 * 1024 + i
    let x := s.word w
    if x.own = .owned && x.owner == p % 16 then some w else none)

/-- A word passes to `ORPHANED` and releases its waiters (R160). -/
def State.orphanWord (w : Nat) (s : State) : State :=
  let x := s.word w
  let s := s.setWord w { x with own := .orphaned, queue := [], drain := [] }
  forEach x.waiters (fun q s => s.answerWait w q .orphan x.value) s

/-- A position's waits leave every word and channel, without a response (R161). -/
def State.withdrawWaits (s : State) (p : Nat) : State :=
  let words := s.tt.words.map (fun e => (e.1, { e.2 with
    queue := e.2.queue.filter (fun q => q.pos ≠ p), drain := e.2.drain.filter (fun q => q.pos ≠ p) }))
  let s := { s with tt := { s.tt with words := [] } }
  let s := forEach words (fun e s => s.setWord e.1 e.2) s
  forEach (s.tt.chans.map (·.1)) (fun c s =>
    s.modChan c (fun x => { x with waits := x.waits.filter (fun w => w.pos ≠ p) })) s

/-- The commands that a reset endpoint leaves in flight (R161): its signals, whose answers are discarded. The tag of an acknowledged signal
to another chip stays in use until its `SIG_ACK` is back. DEDUCED, log 59. -/
def State.withdrawFlights (s : State) (p : Nat) : State :=
  { s with tt := { s.tt with flights := s.tt.flights.filterMap (fun f =>
      let own := f.issuer.toNat == s.rig p
      match f.via with
      | .port =>
        if !own then some f
        else if cTop f.cmd = 1 then some (if cResponds f.cmd then { f with via := .silent } else f)
        else none
      | .remote _ => some (if own then { f with cmd := setBits f.cmd 59 1 0 } else f)
      | .posted => if own then none else some f
      | _ => some f) } }

/-- What an `ENDPOINT` reset does on the tell-tale network (R160, R161, R167). -/
def State.resetTellTale (s : State) (p : Nat) : State :=
  let s := (s.withdrawWaits p).withdrawFlights p
  let s := forEach (s.wordsOf p) State.orphanWord s
  forEach (List.range 64) (fun c s =>
    let x := s.chan c
    match x.st, s.group x.group with
    | .armed, some g => if g.has p then s.breakChannel c none else s
    | _, _ => s) s

/-- Every waiter on the words that a test picks out completes with a status, and the words keep their values (R162, R163). -/
def State.flushWords (s : State) (mine : Nat → Bool) (st : CStatus) : State :=
  forEach (s.tt.words.filter (fun e => mine e.1)) (fun e s =>
    let s := s.setWord e.1 { e.2 with queue := [], drain := [] }
    forEach e.2.waiters (fun q s => s.answerWait e.1 q st e.2.value) s) s

/-- What a let-fly with the tell-tale scope does (R163, R411). A cluster that waits for a fill takes it after the fill (Table
13-5), so it is noted. DEDUCED, log 121. -/
def State.flyTellTale (s : State) : State :=
  let waiting := s.tt.chans.any (fun e => !e.2.waits.isEmpty || e.2.rel.isSome)
  let s := s.flushWords (fun w => !s.units.paused.contains (wordCluster w)) .aborted
  let s := { s with inp := { s.inp with deferred := uniq (s.inp.deferred ++ s.units.paused.map (1024 + ·)) } }
  let s := forEach (s.tt.chans.map (·.1)) (State.flyChannel (fun p => s.units.paused.contains (p / 16))) s
  if waiting then s.pulse .abort else s

/-! ## The rows -/

/-- `SIG` (R153): a store to `EP_TT_CMD` with `TOP` 0x1. -/
def execSig (p : Pos) (w : BitVec 60) (s : State) : Host.Outcome State Fault Refusal := ok (s.ttStore p (ttCommand 1 w))
/-- `WAIT` (R153). -/
def execWait (p : Pos) (w : BitVec 60) (s : State) : Host.Outcome State Fault Refusal := ok (s.ttStore p (ttCommand 2 w))
/-- `DEC` (R153). -/
def execDec (p : Pos) (w : BitVec 60) (s : State) : Host.Outcome State Fault Refusal := ok (s.ttStore p (ttCommand 3 w))
/-- `TEST` (R155). -/
def execTest (p : Pos) (w : BitVec 60) (s : State) : Host.Outcome State Fault Refusal := ok (s.ttStore p (ttCommand 4 w))
/-- `INIT` (R155). -/
def execInit (p : Pos) (w : BitVec 60) (s : State) : Host.Outcome State Fault Refusal := ok (s.ttStore p (ttCommand 5 w))
/-- `CLAIM` (R156). -/
def execClaim (p : Pos) (w : BitVec 60) (s : State) : Host.Outcome State Fault Refusal := ok (s.ttStore p (ttCommand 6 w))
/-- `RELEASE` (R156). -/
def execRelease (p : Pos) (w : BitVec 60) (s : State) : Host.Outcome State Fault Refusal := ok (s.ttStore p (ttCommand 7 w))
/-- `ARRIVE` (R165). -/
def execArrive (p : Pos) (w : BitVec 60) (s : State) : Host.Outcome State Fault Refusal := ok (s.ttStore p (ttCommand 8 w))
/-- `BWAIT` (R165). -/
def execBwait (p : Pos) (w : BitVec 60) (s : State) : Host.Outcome State Fault Refusal := ok (s.ttStore p (ttCommand 9 w))

/-- `SYNC_WORD_CYCLE` (R153, R156, R159): the commands that have reached the word; a cluster that waits for a fill or a fold,
or that a forced test stalls, takes none (R162, R403; DESIGN CHOICE, log 60). That a posted `SIG` to another chip has taken effect comes with
the row (R166; DESIGN CHOICE, log 68). -/
def execSyncWordCycle (word : BitVec 16) (from_ : Arrivals) (s : State) : Host.Outcome State Fault Refusal :=
  let w := word.toNat
  let s := { s with tt := { s.tt with flights := dropPosted from_.there s.tt.flights } }
  if s.heldClusters.contains (wordCluster w) then ok s.flush
  else
    let t := takeFlights w from_.at_ s.tt.flights
    let s := { s with tt := { s.tt with flights := t.2 } }
    let s := if wordIndex w = 0x3FF then
        forEach (sortBy (fun f => f.issuer.toNat) t.1) (State.claimAny (wordCluster w)) s
      else s.ttCycle w t.1
    ok s.flush

/-- `WAIT_TIMEOUT` (R153): a waiter with a timeout that is still on the word. -/
def execWaitTimeout (word : BitVec 16) (p : Pos) (s : State) : Host.Outcome State Fault Refusal :=
  let w := word.toNat
  let x := s.word w
  match x.waiters.find? (fun q => q.pos == p.val && q.tmo != 0) with
  | none => ok s
  | some q =>
    ok ((s.setWord w { x with queue := x.queue.erase q, drain := x.drain.erase q }).answerWait w q .timeout x.value)

/-- `SIG_MESSAGE` (R171, R172): the signal flies to its word here, or the message goes on. DESIGN CHOICE, log 57. -/
def execSigMessage (l : PortNo) (s : State) : Host.Outcome State Fault Refusal :=
  ok (s.onMsg l 1 (fun m => mKind m = 1) (fun m s => s.consumeOrForward 1 (mDst m) m (fun s =>
    if 768 ≤ wordIndex (mTarget m) then s.logSync .badDescriptor (mTarget m) (mOrigin m / 1024) (mOrigin m)
    else
      let c : Word64 := fields 64 [(60, 4, 1), (59, 1, flag (mAckreq m)), (32, 20, mOperand m), (0, 16, mTarget m)]
      let f : Flight := {
        cmd := c, issuer := BitVec.ofNat 25 (mOrigin m),
        via := .offDie (mOrigin m / 1024) (BitVec.ofNat 8 (mTag m)) (mAckreq m) }
      { s with tt := { s.tt with flights := s.tt.flights ++ [f] } })))

/-- `SIG_ACK` (R172): the response of an acknowledged remote `SIG`, matched by issuer and tag. DEDUCED, log 54. -/
def execSigAck (l : PortNo) (s : State) : Host.Outcome State Fault Refusal :=
  ok (s.onMsg l 1 (fun m => mKind m = 2) (fun m s => s.consumeOrForward 1 (mDst m) m (fun s =>
    match s.tt.flights.find? (fun f => decide (f.via = .remote (BitVec.ofNat 8 (mTag m))) &&
        decide (f.issuer.toNat = mOrigin m)), statusOf (mStatus m) with
    | some f, some st =>
      let s := { s with tt := { s.tt with flights := s.tt.flights.erase f } }
      (if cResponds f.cmd then s.answer (mOrigin m % 1024) st 1 (cTarget f.cmd) (mOperand m) else s).flush
    | _, _ => s)))

end Sys2Proof.Machine
end

