-- ==== Sys2Proof/Machine/Tree.lean ====
section
/-! DEFINITION. A collective's way through the tree: its start, flits at cluster nodes and fold nodes, the root, what comes
down, and its end (R30 to R36, R86 to R88, R264, R266, R304, R398, R429). -/

namespace Sys2Proof.Machine

open Sys2Proof

/-! ## Start and admission (R266) -/

/-- Replace the first queued member of a position; one that a reset endpoint has left there never starts (R275). -/
def startQueued (p : Nat) (f : Member → Member) : List Member → List Member
  | [] => []
  | m :: r => if m.pos = p ∧ m.stage = .queued ∧ m.live then f m :: r else m :: startQueued p f r

/-- An accepted member starts: its first contribution leaves its port. -/
def State.startMember (s : State) (ctx epoch p : Nat) : State :=
  let start : Member → Member := fun m =>
    if dOpcode m.desc = 0x20 then { s.routeMember p m.desc m.tagSlot with live := m.live }
    else
      { m with stage := .sending
               up := some (s.contribution p m.desc 1 false [] (s.passCodes m.desc (shapeOf (definingOf m.desc)) 1 [] [])) }
  let s := if s.ops.slots.contains ctx then s else { s with ops := { s.ops with slots := s.ops.slots ++ [ctx] } }
  s.modColl ctx epoch (fun c => { c with members := startQueued p start c.members })

/-- Queued entries whose context is active, or for which a slot is free, start, oldest first, active contexts ahead. -/
def State.admitFrom : Nat → State → State
  | 0, s => s
  | n + 1, s =>
    let q := s.ops.queue
    let next := match q.find? (fun e => s.ops.slots.contains e.1) with
      | some e => some e
      | none => if s.ops.slots.length < 256 then q.head? else none
    match next with
    | none => s
    | some e =>
      State.admitFrom n (({ s with ops := { s.ops with queue := q.erase e } }).startMember e.1 e.2.1 e.2.2)

/-- The admission queue is served (R266). -/
def State.admitNext (s : State) : State := State.admitFrom s.ops.queue.length s

/-- The lowest free tag slot (DESIGN CHOICE, log 75). -/
def State.freeTagSlot (s : State) : Nat := ((List.range 64).find? (fun k => (s.tagSlot k).st = .free)).getD 0

/-- An accepted `ROUTE` takes its blocks and its tag slot (R196, R200). -/
def State.openTag (s : State) (d : Desc) : State :=
  s.setTag s.freeTagSlot
    { st := .live, tag := BitVec.ofNat 16 (dTag d), gen := BitVec.ofNat 8 (dEpoch d), tokBase := dRTokBase d
      ntok := dRNtok d, blocks := (s.takeBlocks (dRNtok d)).getD [], routeDone := false, routeCancelled := false, nopen := 0 }

/-- A collective's descriptor is accepted (R263, R264, R266, R361). -/
def State.acceptColl (s : State) (p : Nat) (d : Desc) : State :=
  let ctx := dCtx d
  let epoch := dEpoch d
  let c := (s.coll ctx epoch).getD (Coll.fresh ctx epoch (dGroup d) (definingOf d))
  let k := if dOpcode d = 0x20 then some s.freeTagSlot else none
  let m : Member := { pos := p, desc := d, stage := .queued, up := none, live := true, sel := [], wts := []
                      tally := Tally.zero, tagSlot := k, held := [] }
  let s := match s.binding ctx with
    | some b => if c.members.isEmpty then { s with ctxs := s.ctxs.put ctx { b with started := b.started + 1 } } else s
    | none => s
  let s := if k.isSome then s.openTag d else s
  let s := s.setColl { c with members := c.members ++ [m] }
  if s.slotFor ctx then s.startMember ctx epoch p
  else { s with ops := { s.ops with queue := s.ops.queue ++ [(ctx, epoch, p)] } }

/-! ## The end of a member's part -/

/-- A context with no member outstanding leaves its slot, and the queue is served (R266). -/
def State.releaseSlot (s : State) (ctx : Nat) : State :=
  if s.ops.colls.any (fun c => c.ctx == ctx && !c.members.isEmpty) then s
  else ({ s with ops := { s.ops with slots := s.ops.slots.filter (fun x => x ≠ ctx) } }).admitNext

/-- Remove the first member of a position in a stage. -/
def dropMember (p : Nat) (live : Bool) : List Member → List Member
  | [] => []
  | m :: r => if m.pos = p ∧ m.stage = .done ∧ m.live = live then r else m :: dropMember p live r

/-- A completed member leaves its collective, and its context its slot when it was the last (R266). -/
def State.leaveColl (s : State) (ctx epoch p : Nat) (live : Bool) : State :=
  ((s.modColl ctx epoch (fun c => { c with members := dropMember p live c.members })).tidyColls).releaseSlot ctx

/-- Replace the first entry equal to a member. -/
def replaceMember (m x : Member) : List Member → List Member
  | [] => []
  | y :: r => if y = m then x :: r else y :: replaceMember m x r

/-- A member completes at its port; that of a reset endpoint completes without a record (R275). -/
def State.completeMember (s : State) (ctx epoch : Nat) (m : Member) (st : CStatus) (t : Tally) (opval : Nat) : State :=
  let s := { s with ops := { s.ops with queue := s.ops.queue.filter (fun e => e ≠ (ctx, epoch, m.pos)) } }
  let s := s.modColl ctx epoch (fun c => { c with members := replaceMember m { m with stage := .done, up := none } c.members })
  if m.live then s.pushDone m.pos (doneOf m.desc st t opval 0 true (some (ctx, epoch)))
  else s.leaveColl ctx epoch m.pos false

/-- Bytes of a member's destinations (R53, R105, R111, R191, R192). DESIGN CHOICE, log 74. -/
def destRanges (d : Desc) : List (Nat × Nat) :=
  let x := shapeOf (definingOf d)
  if x.route then [(dDst d, 16 * dRNtok d), (dDst2 d, 8 * x.nexp)]
  else
    [(dDst d, if x.op = 0x10 then 8 * x.nelem else x.ofmt.bytes x.nelem),
     (dDst2 d, if (extremum x.op).isSome ∧ x.flag then 4 * x.nelem else 0)]

/-- The final codes of an `NSUM` that have left its root, by element, as far as this chip knows them: of the result, or of the blocks that
are not widened. -/
def Coll.knownCodes (c : Coll) : List (Option Nat) :=
  match c.down, c.early with
  | some (.final r), _ => r.codes.map some
  | _, some r => r.codes.map some
  | _, none => c.codes

/-- Each block of an `NSUM` destination holds its previous contents or its final value (R136): a free bit says which (DESIGN CHOICE,
log 4). -/
def State.endBlocks (s : State) (x : Shape) (dst : Nat) (codes : List (Option Nat)) : State :=
  forEach (List.range (blockCount x.tile x.nelem)) (fun b s =>
    let part := if x.tile then (codes.drop (32 * b)).take 32 else codes
    let written := (Config.freeByte s.free).getLsbD 0
    let s := { s with free := s.free + 1 }
    if written && !part.isEmpty && part.all (·.isSome) then
      store s (dst + if x.tile then x.ofmt.bytes (32 * b) else 0) (pack x.ofmt (part.filterMap id))
    else s) s

/-- A destination after an outcome without a result, where the manual calls it undefined (R88, R136, R206, R429). DESIGN CHOICE, log 4. -/
def State.voidDest (s : State) (ctx epoch : Nat) (d : Desc) : State :=
  let x := shapeOf (definingOf d)
  if x.nsum then s.endBlocks x (dDst d) (((s.coll ctx epoch).map Coll.knownCodes).getD [])
  else forEach (destRanges d) (fun r s => storeFree s r.1 r.2) s

/-- An outcome without a result reaches a member (R86, R88, R206, R429, R430): its destination becomes undefined, and a `ROUTE` returns
its blocks and its tag slot. -/
def State.endMember (s : State) (ctx epoch : Nat) (m : Member) (st : CStatus) : State :=
  let s := if CStatusVoid st then s.voidDest ctx epoch m.desc else s
  let s := match m.tagSlot with
    | some k => s.abandonRoute k
    | none => s
  s.completeMember ctx epoch m st Tally.zero 0

/-! ## What goes down (R87, R304) -/

/-- The terminal status that a down message carries. -/
def downStatus : DownMsg → Option CStatus
  | .final r => some r.status
  | .ended st => some st
  | .counts _ _ => some .ok
  | _ => none

/-- A collective takes what comes down: the next pass begins, or it has ended. -/
def Coll.takeDown (c : Coll) (m : DownMsg) : Coll :=
  let c := { c with
    down := some m, pass := c.pass + 1, arrived := [], nodes := [], sentUp := [], ended := downStatus m, got := [], gotDown := 0 }
  match m with
  | .pass1 w p1 => { c with words := w, asP1 := c.asP1 || p1 }
  | .widen b p1 codes => { c with widened := b, asP1 := c.asP1 || p1, codes := codes }
  | _ => c

/-- A down message brings values, in the phases of the pass that it ends. -/
def hasValues : DownMsg → Bool
  | .pass1 _ p1 => !p1
  | .ended _ => false
  | _ => true

/-- A down message brings a status flit (`F_PHASE` 5): flags, counters, operation values, decisions and outcomes. -/
def hasStatus : DownMsg → Bool
  | .pass1 _ p1 => p1
  | _ => true

/-- The flits of a down message to the chips below, for a collective that still gathers the pass that the message ends. DESIGN CHOICE, log 6. -/
def downFlits (c : Option Coll) (group ctx epoch : Nat) (m : DownMsg) : List TxFlit :=
  (match c with
   | some c => if hasValues m then passFlits group ctx epoch c.phases c.flits (.down m) else []
   | none => []) ++ (if hasStatus m then passFlits group ctx epoch [5] 1 (.down m) else [])

/-- A down message's flits go to the chips below the fold nodes that this chip hosts. -/
def State.relayDown (s : State) (g : Group) (l : List TxFlit) : State :=
  forEach (s.downPorts g) (fun port s => s.sendFlits 3 port l) s

/-- A down message reaches this chip, from its root or from above: the epoch's end is recorded (R88, R264). -/
def State.deliverDown (s : State) (ctx epoch : Nat) (g : Group) (group : Nat) (m : DownMsg) : State :=
  let l := downFlits (s.coll ctx epoch) group ctx epoch m
  let s := s.modColl ctx epoch (fun c => c.takeDown m)
  let s := match downStatus m with
    | some st => s.recordEpoch ctx epoch st
    | none => s
  (s.relayDown g l).tidyColls

/-! ## The tree -/

/-- The root has the outcome of a pass. -/
def State.concludePass (s : State) (ctx epoch : Nat) (g : Group) (u : UpMsg) : State :=
  match s.coll ctx epoch with
  | none => s
  | some c =>
    if c.ended.isSome then s
    else
      let r := s.rootSays g.nmemb c u
      (s.setColl r.1).deliverDown ctx epoch g c.group r.2

/-- The root ends the collective without a result. -/
def State.endAtRoot (s : State) (ctx epoch : Nat) (g : Group) (st : CStatus) : State :=
  match s.coll ctx epoch with
  | none => s
  | some c => if c.ended.isSome then s else s.deliverDown ctx epoch g c.group (.ended st)

/-- A fold node has a standby on another chip, which has not taken over: each child sends to it as well (R308). -/
def State.spareHost (s : State) (r : FoldRec) : Bool :=
  r.standby != 0xFFFF && r.standby != s.topo.chip && !s.topo.takenOver.contains r.fnid

/-- The logical port over which a value leaves this chip, or the output of one of its fold nodes: none where the next node is here. A node
whose parent stands in no record here sends on its own output link (R309). -/
def State.leaveLink (s : State) (g : Group) (src : Option FoldRec) : Option Nat :=
  match s.nextNode g src with
  | some (r, _, i) =>
    if s.hostOf r = s.topo.chip then none
    else if s.topo.takenOver.contains r.fnid then s.standbyLink r i
    else match src with
      | some x => some (s.outLink x)
      | none => some i.clink
  | none => src.map s.outLink

/-- The logical port over which a standby gets its copy of the same value (R308). -/
def State.copyLink (s : State) (g : Group) (src : Option FoldRec) : Option Nat :=
  match s.nextNode g src with
  | some (r, _, i) => if s.spareHost r then s.standbyLink r i else none
  | none => none

/-- A value leaves for the next fold node: into this chip's own, onto the link, or both where this chip stands by; and a copy to the
standby on another chip (R308). -/
def State.passUp (s : State) (c : Coll) (g : Group) (src : Option FoldRec) (u : UpMsg) : State :=
  let s := match s.nextNode g src with
    | some (r, j, _) =>
      if r.host = s.topo.chip ∨ r.standby = s.topo.chip then
        s.modColl c.ctx c.epoch (fun c => { c with nodes := c.nodes ++ [(r.fnid, j, u)] })
      else s
    | none => s
  let ports := ([s.leaveLink g src, s.copyLink g src].filterMap id).filterMap s.physOf
  forEach ports (fun port s => s.sendFlits 2 port (passFlits c.group c.ctx c.epoch c.phases c.flits (.up u))) s

/-- The flits of a contribution cross a splice: they pass between a half root and the chip root. Which plane the first flit rides is not
stated, so any lost bundle of the splice marks it (R134, Table 13-6; DESIGN CHOICE, log 73). -/
def State.crossesSplice (_ : State) (g : Group) : Bool :=
  !g.folds.isEmpty || (g.locals.any (fun p => decide (p < 512)) && g.locals.any (fun p => decide (512 ≤ p)))

/-- This chip's value leaves once every member on it has contributed. -/
def State.sendChipValue (s : State) (ctx epoch : Nat) (g : Group) : State :=
  match s.coll ctx epoch with
  | none => s
  | some c =>
    let all := g.locals.all (fun p => c.arrived.any (fun a => a.1 == p))
    if c.ended.isSome ∨ c.sentUp.contains 0 ∨ g.locals.isEmpty ∨ all = false then s
    else
      let x := shapeOf c.defn
      let v := foldUps x (passKind x c.asP1 c.pass) (sortBy (·.1) c.arrived)
      match c.arrived.head? with
      | none => s
      | some a =>
        let u := joinUps (c.arrived.map (·.2)) v.1 v.2 a.2
        let u := { u with reef := u.reef || (!s.units.spliceLost.isEmpty && s.crossesSplice g) }
        let s := s.modColl ctx epoch (fun c => { c with sentUp := 0 :: c.sentUp })
        if g.folds.isEmpty then s.concludePass ctx epoch g u else s.passUp c g none u

/-- The inputs of a fold node that have come, by input. -/
def Coll.inputs (c : Coll) (fnid : BitVec 21) : List (Nat × UpMsg) :=
  sortBy (·.1) ((c.nodes.filter (fun n => n.1 = fnid)).map (fun n => (n.2.1, n.2.2)))

/-- A fold node's result leaves once every input has come. An input whose members all set `SP_ABSENT` comes as an absent child: the node
keeps the shape of its record and skips it (R31, R33, R109; DESIGN CHOICE, log 122). -/
def State.sendNodeValue (s : State) (ctx epoch : Nat) (g : Group) (r : FoldRec) : State :=
  match s.coll ctx epoch with
  | none => s
  | some c =>
    let l := c.inputs r.fnid
    let key := r.fnid.toNat + 1
    if c.ended.isSome ∨ c.sentUp.contains key ∨ l.length < r.ins.length then s
    else
      let x := shapeOf c.defn
      let v := foldInputs x (passKind x c.asP1 c.pass) l
      match l.head? with
      | none => s
      | some a =>
        let u := joinUps (l.map (·.2)) v.1 v.2 a.2
        let s := s.modColl ctx epoch (fun c => { c with sentUp := key :: c.sentUp })
        if r.parent = 0xFFFF then s.concludePass ctx epoch g u else s.passUp c g (some r) u

/-- Results come down to this chip: some fold node takes its value. -/
def State.fedBelow (s : State) (g : Group) : Bool := g.folds.any (fun r => r.feeds s.topo.chip)

/-- The root node for which this chip stands by. -/
def State.standbyRoot (s : State) (g : Group) : Option FoldRec :=
  g.folds.find? (fun r => r.parent == 0xFFFF && r.standby == s.topo.chip && s.hostOf r != s.topo.chip)

/-- A standby of the root node takes the root's decision too, and keeps it to itself (R308): `take` when no down message of the
primary reaches this chip. -/
def State.shadowRoot (s : State) (ctx epoch : Nat) (g : Group) (take : Bool) : State :=
  match s.coll ctx epoch, s.standbyRoot g with
  | some c, some r =>
    let l := c.inputs r.fnid
    if c.ended.isSome ∨ l.length < r.ins.length then s
    else
      let x := shapeOf c.defn
      let v := foldInputs x (passKind x c.asP1 c.pass) l
      match l.head? with
      | none => s
      | some a =>
        let d := s.rootSays g.nmemb c (joinUps (l.map (·.2)) v.1 v.2 a.2)
        s.setColl (if take then d.1.takeDown d.2 else d.1)
  | _, _ => s

/-- Whatever is complete on this chip leaves. DESIGN CHOICE, log 72. -/
def State.advance (s : State) (ctx epoch : Nat) (g : Group) : State :=
  let s := forEach (sortBy FoldRec.rank (s.hosted g)) (fun r s => s.sendNodeValue ctx epoch g r) (s.sendChipValue ctx epoch g)
  if s.fedBelow g then s else s.shadowRoot ctx epoch g true

/-- A mark that ends the collective travels to the root without waiting for other inputs (R86, R429). DEDUCED, log 79. -/
def State.forwardMark : Nat → Nat → Nat → Group → Option FoldRec → UpMsg → State → State
  | 0, _, _, _, _, _, s => s
  | n + 1, ctx, epoch, g, src, u, s =>
    match s.coll ctx epoch with
    | none => s
    | some c =>
      if s.hasRoot g then s.endAtRoot ctx epoch g (if u.clash then .badContext else .fault)
      else
        match s.nextNode g src with
        | some (r, _, _) =>
          if s.hostOf r = s.topo.chip then State.forwardMark n ctx epoch g (some r) u s
          else s.passUp c g src { u with vals := none }
        | none => s.passUp c g src { u with vals := none }

/-- A contribution or partial has reached its node: a disagreement or a fault mark goes up at once, and otherwise whatever is
complete leaves. -/
def State.treeArrival (s : State) (ctx epoch : Nat) (g : Group) (src : Option FoldRec) (u : UpMsg) : State :=
  match s.coll ctx epoch with
  | none => s
  | some c =>
    let clash := u.clash || decide (u.defn ≠ c.defn)
    if clash || u.fault then State.forwardMark 3 ctx epoch g src { u with clash := clash } s
    else s.advance ctx epoch g

/-- The cluster node of a position, or the node that serves it, is at a level that admits precision reef (R397, R398). -/
def State.clusterReefed (s : State) (p : Nat) : Bool :=
  s.units.fold.getLsbD (p / 16) || s.units.foldHost.any (fun e => e.2 == p / 16)

/-- Replace the first member of a position that has a contribution in flight. -/
def sentMember (p : Nat) : List Member → List Member
  | [] => []
  | m :: r => if m.pos = p ∧ m.stage = .sending then { m with stage := .waiting, up := none } :: r else m :: sentMember p r

/-- A member's contribution reaches its cluster node; a second one of the same position counts no more (R275). -/
def State.treeFlitHere (s : State) (ctx epoch p : Nat) : State :=
  match s.coll ctx epoch with
  | none => s
  | some c =>
    match c.members.find? (fun m => m.pos == p && m.stage == .sending), s.group c.group with
    | some m, some g =>
      match m.up with
      | none => s
      | some u =>
        let u := { u with reef := u.reef || s.clusterReefed p }
        let first := c.arrived.isEmpty && c.nodes.isEmpty && c.got.isEmpty && c.pass == 1
        let c := { c with
          members := sentMember p c.members, defn := if first then u.defn else c.defn
          arrived := if c.arrived.any (fun a => a.1 == p) then c.arrived else c.arrived ++ [(p, u)] }
        (s.setColl c).treeArrival ctx epoch g none u
    | _, _ => s

/-- The physical port on which input `j` of a fold node reaches this chip, as its host or its standby. -/
def State.inputPort (s : State) (r : FoldRec) (j : Nat) : Option Nat :=
  match r.ins[j]? with
  | none => none
  | some i =>
    if s.topo.chip = s.hostOf r then s.physOf (s.inputLink r j i)
    else if s.topo.chip = r.standby then s.physOf i.sblink else none

/-- The physical port that input `j` of a fold node used before its sender's node passed to its standby: its frames are discarded (R309). -/
def State.formerPort (s : State) (r : FoldRec) (j : Nat) : Option Nat :=
  match s.rehomed r j, r.ins[j]? with
  | some _, some i => s.physOf (s.recordLink r i)
  | _, _ => none

/-- A list without its first `n` entries that satisfy a test. -/
def dropFirst {α : Type} (mine : α → Bool) : Nat → List α → List α
  | 0, l => l
  | _, [] => []
  | n + 1, x :: r => if mine x then dropFirst mine n r else x :: dropFirst mine (n + 1) r

/-- The received flits of VC2 or VC3 of a link. -/
def Link.flits (l : Link) (vc : Nat) : List (BitVec 50) := if vc = 2 then l.rx2 else l.rx3

/-- The `n` oldest received flits that satisfy a test are taken and their buffers freed (R290, R291). -/
def Link.takeFlits (vc : Nat) (mine : BitVec 50 → Bool) (n : Nat) (l : Link) : Link :=
  let fs := l.flits vc
  let keep := dropFirst mine n fs
  let l := if vc = 2 then { l with rx2 := keep } else { l with rx3 := keep }
  (List.range (fs.length - keep.length)).foldl (fun l _ => l.freeBuffer vc) l

/-- A received flit belongs to a collective, in one of some phases (Table 10-4). -/
def flitOf (group ctx epoch : Nat) (phases : List Nat) (f : BitVec 50) : Bool :=
  bits f 38 12 == group && bits f 26 12 == ctx && bits f 18 8 == epoch % 256 && !bit f 11 && phases.contains (bits f 12 3)

/-- The phases that carry values. -/
def valuePhases : List Nat := [0, 1, 2, 3, 4]

/-- How many received flits of a link satisfy a test. -/
def State.flitsOn (s : State) (l vc : Nat) (mine : BitVec 50 → Bool) : Nat := (((s.lnk l).flits vc).filter mine).length

def State.takeFlits (s : State) (l vc : Nat) (mine : BitVec 50 → Bool) (n : Nat) : State := s.modLnk l (Link.takeFlits vc mine n)

/-- The epoch has ended on this chip (R264). -/
def Binding.endedEpoch (b : Binding) (epoch : Nat) : Bool := b.epochs.any (fun e => e.1 == epoch)

/-- A collective at a later pass, nothing of which has come yet. -/
def Coll.nextPass (c : Coll) (pass : Nat) : Coll := { c with pass := pass, arrived := [], nodes := [], sentUp := [], got := [] }

/-- What has come of the message for an input. -/
def Coll.partOf (c : Coll) (fnid : BitVec 21) (j : Nat) : Option Partly := c.got.find? (fun x => x.fnid == fnid && x.input == j)

/-- The collective whose message a flit for a fold node belongs to: a chip that only stands by follows its senders into the next pass, for no
down message of the primary reaches it (R308). -/
def State.collFor (s : State) (ctx epoch : Nat) (b : Binding) (g : Group) (r : FoldRec) (u : UpMsg) : Coll :=
  let c := (s.coll ctx epoch).getD (Coll.fresh ctx epoch b.group u.defn)
  let c := if c.arrived.isEmpty && c.nodes.isEmpty && c.got.isEmpty && c.pass == 1 then { c with defn := u.defn } else c
  if s.hostOf r ≠ s.topo.chip ∧ c.pass < u.pass ∧ s.fedBelow g = false then c.nextPass u.pass else c

/-- Flits of a message for input `j` of a fold node are taken, at most as many as are missing; the last one completes it, and a
disagreement or a fault mark takes effect with the first (R36, R86, R304, R308, R429). -/
def State.inputFlits (s : State) (c : Coll) (g : Group) (r : FoldRec) (l j : Nat) (u : UpMsg) : State :=
  let here := s.flitsOn l 2 (flitOf c.group c.ctx c.epoch c.phases)
  let part := (c.partOf r.fnid j).getD
    { fnid := r.fnid, input := j, count := 0, reef := (s.lnk l).st == .reefed }
  let need := c.flits * c.phases.length
  let n := min here (need - part.count)
  let mark := u.fault || u.clash || decide (u.defn ≠ c.defn)
  if n = 0 then s
  else
    let s := s.takeFlits l 2 (flitOf c.group c.ctx c.epoch c.phases) n
    if part.count + n < need ∧ mark = false then
      s.setColl { c with got := { part with count := part.count + n } :: c.got.filter (fun x => !(x.fnid == r.fnid && x.input == j)) }
    else
      let u := { u with reef := u.reef || part.reef }
      (s.setColl { c with nodes := c.nodes ++ [(r.fnid, j, u)] }).treeArrival c.ctx c.epoch g (some r) u

/-- A child's partial reaches input `j` of a fold node that this chip hosts or stands by for. Flits of a collective that has ended here,
that a let-fly has reached (R44; DESIGN CHOICE, log 123), of a message that the node has already, or from a primary whose standby has
taken over (R309, R310), are taken and dropped. -/
def State.treeFlitFrom (s : State) (ctx epoch l : Nat) (fnid : BitVec 21) (j : Nat) (u : UpMsg) (flown : Bool) : State :=
  match s.binding ctx with
  | none => s
  | some b =>
    match s.group b.group with
    | none => s
    | some g =>
      match g.folds.find? (fun r => r.fnid == fnid) with
      | none => s
      | some r =>
        let all := flitOf b.group ctx epoch valuePhases
        let drop := s.takeFlits l 2 all (s.flitsOn l 2 all)
        if s.formerPort r j = some l then drop
        else if s.inputPort r j ≠ some l then s
        else if flown ∨ b.endedEpoch epoch then drop
        else
          let c := s.collFor ctx epoch b g r u
          if u.pass ≠ c.pass ∨ c.nodes.any (fun n => n.1 == fnid && n.2.1 == j) then drop
          else s.inputFlits c g r l j u

/-- `TREE_FLIT` (R36, R86, R304, R429); a cluster that waits for a fill or a fold takes no flit (R392), and a stalled root unit none
(R403). -/
def execTreeFlit (ctx : Fin 4096) (epoch : Fin 65536) (src : FlitSource) (s : State) : Host.Outcome State Fault Refusal :=
  match src with
  | .onDie p => ok (if s.portHeld p then s else s.treeFlitHere ctx epoch p)
  | .offDie l fnid j u flown => ok (if s.rootStalled then s else s.treeFlitFrom ctx epoch l fnid j u flown)

/-! ## At a member's port -/

/-- Write a result into a member's destinations (R53, R87, R105, R110). -/
def State.writeResult (s : State) (p : Nat) (d : Desc) (r : Result) : State :=
  let x := shapeOf (definingOf d)
  let codes := if x.scan then (match r.scan.find? (fun e => e.1 == s.rig p) with | some e => e.2 | none => []) else r.codes
  let bytes := if x.op = 0x10 then codes.flatMap (leBytes 8) else pack x.ofmt codes
  let s := if codes.isEmpty then s else store s (dDst d) bytes
  if r.poss.isEmpty then s else store s (dDst2 d) (r.poss.flatMap (leBytes 4))

/-- A member's part in what has come down (R87, R95, R124, R132). -/
def State.portTakes (s : State) (c : Coll) (m : Member) (dn : DownMsg) : State :=
  match dn with
  | .final r =>
    (s.writeResult m.pos m.desc r).completeMember c.ctx c.epoch m r.status r.tally r.opval
  | .ended st => s.endMember c.ctx c.epoch m st
  | .counts _ _ => s
  | _ =>
    let x := shapeOf (definingOf m.desc)
    let codes := s.passCodes m.desc x c.pass c.widened m.held
    let m' := { m with
      stage := .sending, up := some (s.contribution m.pos m.desc c.pass c.asP1 c.words codes)
      held := if x.nsum ∧ c.pass = 3 then codes else [] }
    s.modColl c.ctx c.epoch (fun c => { c with members := replaceMember m m' c.members })

/-- A member of a reset endpoint that never started (R275). DEDUCED, log 71. -/
def Member.neverStarted (m : Member) : Bool := !m.live && m.stage == .queued

/-- A member of this chip that has still to take what has come down; an outcome without a result reaches every member that is
not done, anything else those that wait. To a member that never started, any outcome only says that the collective is over. -/
def Coll.taker (c : Coll) (p : Nat) : Option (Member × DownMsg) :=
  match c.down with
  | none => none
  | some dn =>
    let early := match dn with | .ended _ => true | _ => false
    let fresh := !c.arrived.any (fun a => a.1 == p)
    (c.members.find? (fun m => m.pos == p &&
      (if early || (m.neverStarted && c.ended.isSome) then m.stage != .done
       else m.stage == .waiting && (fresh || c.ended.isSome)))).map (fun m =>
        (m, match c.ended with | some st => if m.neverStarted then .ended st else dn | none => dn))

/-- Port `p` takes what has come down. -/
def State.resultHere (s : State) (ctx epoch p : Nat) : State :=
  match s.coll ctx epoch with
  | none => s
  | some c =>
    match c.taker p with
    | none => s
    | some t => s.portTakes c t.1 t.2

/-- The physical ports on which a stream came down before a fold node above passed to its standby: its frames are discarded (R309). -/
def State.formerUpPorts (s : State) (g : Group) : List Nat :=
  (g.folds.filter (fun r => s.topo.takenOver.contains r.fnid)).flatMap (fun r =>
    (r.ins.filter (fun i => i.child = s.topo.chip)).filterMap (fun i => s.physOf i.clink))

/-- A message that this chip's pass does not wait for: a standby's repeat of what the primary sent (R310). -/
def Coll.staleDown (c : Coll) (m : DownMsg) : Bool :=
  match m with
  | .pass1 _ _ => c.kind != .word && c.kind != .nsMax
  | .widen _ _ _ => c.kind != .level
  | _ => false

/-- The flits of a down message: those that the collective waits for in it, and how many. -/
def Coll.downNeed (c : Coll) (m : DownMsg) : List Nat × Nat :=
  (((if hasValues m then c.phases else []) ++ (if hasStatus m then [5] else [])),
    (if hasValues m then c.flits * c.phases.length else 0) + flag (hasStatus m))

/-- Values of earlier passes that are still in the buffer are a standby's repeats (R310). -/
def Coll.earlier (c : Coll) (ph : Nat) : Bool := valuePhases.contains ph && c.phases.all (fun p => decide (ph < p))

/-- Flits of a down message are taken, at most as many as are missing; the last one completes it (R87, R304). -/
def State.downFlitsAt (s : State) (c : Coll) (g : Group) (l : Nat) (m : DownMsg) : State :=
  let early : BitVec 50 → Bool := fun f => flitOf c.group c.ctx c.epoch valuePhases f && c.earlier (bits f 12 3)
  let s := s.takeFlits l 3 early (s.flitsOn l 3 early)
  let w := c.downNeed m
  let mine := flitOf c.group c.ctx c.epoch w.1
  let here := s.flitsOn l 3 mine
  let got := if hasValues m then c.gotDown else 0
  let n := min here (w.2 - got)
  if n = 0 then s
  else if c.staleDown m then s.takeFlits l 3 mine n
  else
    let s := s.takeFlits l 3 mine n
    if got + n < w.2 then
      s.setColl { c with gotDown := got + n, early := match m with | .final r => some r | _ => c.early }
    else (s.shadowRoot c.ctx c.epoch g false).deliverDown c.ctx c.epoch g c.group m

/-- A down message from above reaches this chip over a link: it is taken once, and goes on to the chips below. -/
def State.downFrom (s : State) (ctx epoch l : Nat) (m : DownMsg) : State :=
  match s.binding ctx with
  | none => s
  | some b =>
    match s.group b.group with
    | none => s
    | some g =>
      let all := flitOf b.group ctx epoch (5 :: valuePhases)
      let drop := s.takeFlits l 3 all (s.flitsOn l 3 all)
      if s.hasRoot g then s
      else if (s.upPorts g).contains l = false then (if (s.formerUpPorts g).contains l then drop else s)
      else if b.endedEpoch epoch then drop
      else
        match s.coll ctx epoch with
        | some c => s.downFlitsAt c g l m
        | none => if s.flitsOn l 3 all = 0 then s else drop.deliverDown ctx epoch g b.group m

/-- `RESULT_AT_PORT` (R87, R95, R124, R132, R304): everything but the counts of a `ROUTE`; nothing comes to a stalled half (R403). -/
def execResultAtPort (ctx : Fin 4096) (epoch : Fin 65536) (p : Pos) (src : DownSource) (s : State) :
    Host.Outcome State Fault Refusal :=
  if s.portStalled p then ok s
  else match src with
  | .onDie => ok (s.resultHere ctx epoch p)
  | .offDie _ (.counts _ _) => ok s
  | .offDie l m => ok ((s.downFrom ctx epoch l m).resultHere ctx epoch p)

/-! ## Timeouts (R88) -/

/-- `COLLECTIVE_TIMEOUT`: the member's timer has expired and no result has reached its port; the mark goes up. -/
def execCollectiveTimeout (ctx : Fin 4096) (epoch : Fin 65536) (p : Pos) (s : State) : Host.Outcome State Fault Refusal :=
  match s.coll ctx epoch with
  | none => ok s
  | some c =>
    if c.members.any (fun m => m.pos == p.val && m.stage != .done) && !c.marks.any (fun k => k.1 == p.val) then
      ok (s.modColl ctx epoch (fun c => { c with marks := c.marks ++ [(p.val, true)] }))
    else ok s

/-- The topmost fold node of a group that this chip hosts. -/
def State.topNode (s : State) (g : Group) : Option FoldRec := (sortBy FoldRec.rank (s.hosted g)).getLast?

/-- A mark goes on from this chip toward the host of the next fold node above its own. -/
def State.markUp (s : State) (ctx epoch group : Nat) (g : Group) : State :=
  match (s.leaveLink g (s.topNode g)).bind s.physOf with
  | none => s
  | some port => s.sendFlits 2 port (passFlits group ctx epoch [5] 1 .timeoutMark)

/-- A mark takes effect at this chip (R88): at the root it ends the collective; elsewhere it goes on. -/
def State.mark (s : State) (ctx epoch group : Nat) (g : Group) : State :=
  if s.hasRoot g then
    (if (s.coll ctx epoch).any (fun c => c.ended.isSome) then s
     else s.deliverDown ctx epoch g group (.ended .timeout))
  else s.markUp ctx epoch group g

/-- `TIMEOUT_MARK`: a mark of this chip, or one received from below, reaches the root or goes on to it. The root holds every
contribution of the last pass only when it has decided, so a mark before that ends the collective. -/
def execTimeoutMark (ctx : Fin 4096) (epoch : Fin 65536) (s : State) : Host.Outcome State Fault Refusal :=
  match s.binding ctx with
  | none => ok s
  | some b =>
    match s.group b.group with
    | none => ok s
    | some g =>
      if (s.coll ctx epoch).any (fun c => c.marks.any (·.2)) then
        let s := s.modColl ctx epoch (fun c => { c with marks := c.marks.map (fun k => (k.1, false)) })
        ok (s.mark ctx epoch b.group g)
      else
        let mine := flitOf b.group ctx epoch [5]
        match (List.range 8).find? (fun l => s.flitsOn l 2 mine != 0) with
        | none => ok s
        | some l =>
          let s := s.takeFlits l 2 mine 1
          ok (if b.endedEpoch epoch then s else s.mark ctx epoch b.group g)

/-! ## Completions (R255, R268) -/

/-- A completion signal leaves once the record is visible (R44, R268). -/
def State.completionSignal (s : State) (p : Nat) (w : BitVec 16) : State :=
  let c : Word64 := fields 64 [(60, 4, 1), (32, 20, 1), (0, 16, w.toNat)]
  { s with tt := { s.tt with flights := s.tt.flights ++
      [{ cmd := c, issuer := BitVec.ofNat 25 (s.rig p), via := .completion }] } }

/-- The address of the record that is written next. -/
def Port.recordAddr (x : Port) : Nat := ringBase x.cqCfg + 32 * x.cqTail

/-- The ring has a free entry: one stays empty (R254). -/
def Port.cqRoom (x : Port) : Bool :=
  ringOn x.cqCfg && decide ((x.cqTail + ringSize x.cqCfg - x.cqHead) % ringSize x.cqCfg < ringSize x.cqCfg - 1)

/-- The oldest completion of a port is written, with what follows it. -/
def State.writeCompletion (s : State) (p : Nat) (x : Done) (rest : List Done) : State :=
  let q := s.port p
  let n := ringSize q.cqCfg
  let s := store s q.recordAddr (wordBytes 32 (x.record q.cqPhase))
  let s := s.setPort p { q with
    done := rest, cqTail := (q.cqTail + 1) % n, opened := q.opened - 1
    cqPhase := if q.cqTail + 1 = n then !q.cqPhase else q.cqPhase }
  let s := match x.csig with
    | some w => s.completionSignal p w
    | none => s
  match x.coll with
  | some c => s.leaveColl c.1 c.2 p true
  | none => s

/-- `COMPLETION_WRITE` (R255, R266, R268, R274). -/
def execCompletionWrite (p : Pos) (s : State) : Host.Outcome State Fault Refusal :=
  let q := s.port p
  match q.done with
  | [] => ok s
  | x :: rest =>
    if q.rebinding ∨ q.cqRoom = false then ok s
    else if inSpace [(q.recordAddr, 32)] then ok (s.writeCompletion p x rest) else .fault .beyondAddressSpace

/-! ## `ROUTE` results (R188 to R193, R207) -/

/-- One row of a `ROUTE`: its sides, its stored weights and its tally. -/
structure RoutedRow where
  a : Side
  b : Side
  w0 : Nat
  w1 : Nat
  deriving DecidableEq, Repr

/-- The empty side of a k = 1 token. -/
def noSide : Side := { exp := 0, valid := false, drop := false, slot := 0xFFFFFF, w := 0 }

/-- A row after capacity, renormalisation and conversion (R186, R190). -/
def routedRow (d : Desc) (sel : List (Option Nat)) (wts : List Nat) (slots : List (Option Nat)) : RoutedRow × Tally :=
  let cap := if dCapPolicy d = 0 then 16777215 else dCap d
  let side : Nat → Side := fun i => sideOf (nth none sel i) (nth none slots i) cap (nth 0 wts i)
  let x := side 0
  let y := if dRouteK d then side 1 else noSide
  let on := dCapPolicy d == 2 && dRouteK d
  let x' := renorm on x y
  let y' := renorm on y x
  let c0 := x'.stored
  let c1 := y'.stored
  ({ a := x', b := y', w0 := c0.1, w1 := c1.1 }, c0.2.join c1.2)

/-- The slots of every row, side by side (R188). -/
def routeSlots (d : Desc) (sel : List (List (Option Nat))) (totals base : List Int) : List (List (Option Nat)) :=
  let e := dNexp d
  let s0 := slotsOf (fun x => (nth 0 base x).toNat) (sideColumn sel 0)
  let s1 := slotsOf (fun x => (nth 0 totals x + nth 0 base (e + x)).toNat) (sideColumn sel 1)
  if dRouteK d then (s0.zip s1).map (fun p => [p.1, p.2]) else s0.map (fun p => [p])

/-- Sides that a test picks out, over every row and side that the `ROUTE` has. -/
def countSides (d : Desc) (rows : List RoutedRow) (t : Side → Bool) : Nat :=
  rows.foldl (fun n r => n + flag (t r.a) + flag (dRouteK d && t r.b)) 0

/-- The ledger entries of a `ROUTE` (R194, R195): none stays where its tag was cancelled (R207). -/
def State.writeEntries (s : State) (d : Desc) (x : TagSlot) (rows : List RoutedRow) : State :=
  if x.routeCancelled then s
  else
    forEach rows.zipIdx (fun r s =>
      let st := if inSaddlebag (x.place r.2).1 then lsSpilled else lsRouted
      s.writeRow x r.2 (ledgerEntry st x.tag.toNat (x.tokBase + r.2) (dRouteK d) r.1.a r.1.b r.1.w0 r.1.w1)) s

/-- The counts reach a member of a `ROUTE`, which assigns slots and writes entries, records and the load vector. -/
def State.routeFinish (s : State) (c : Coll) (m : Member) (k : Nat) (totals base : List Int) : State :=
  let d := m.desc
  let x := s.tagSlot k
  let slots := routeSlots d m.sel totals base
  let g := gather ((m.sel.zip (m.wts.zip slots)).map (fun r =>
    routedRow d r.1 (r.2.1.map (·.toNat)) r.2.2))
  let rows := g.1
  let s := s.writeEntries d x rows
  let s := store s (dDst d) (rows.flatMap (fun r => wordBytes 16 (routeRecord r.a r.b r.w0 r.w1)))
  let loads := (List.range (dNexp d)).map (fun e => nth 0 totals e + (if dRouteK d then nth 0 totals (dNexp d + e) else 0))
  let s := store s (dDst2 d) (loads.flatMap (fun v => leBytes 8 (unsigned 64 v)))
  let y : TagSlot := { x with routeDone := true, nopen := x.ntok }
  let s := if x.routeCancelled then s.freeSlot k else (s.setTag k y).readyFound k y
  let drops := countSides d rows (fun y => y.drop)
  let nosel := countSides d rows (fun y => !y.valid && !y.drop)
  s.completeMember c.ctx c.epoch m (if x.routeCancelled then .cancelled else .ok) (m.tally.join g.2)
    (nosel * 2 ^ 32 + drops)

/-- Port `p` takes the counts. -/
def State.routeHere (s : State) (ctx epoch p : Nat) : State :=
  match s.coll ctx epoch with
  | none => s
  | some c =>
    match c.down, c.members.find? (fun m => m.pos == p && m.stage == .waiting) with
    | some (.counts totals prefixes), some m =>
      match m.tagSlot, prefixes.find? (fun e => e.1 == s.rig p) with
      | some k, some e => s.routeFinish c m k totals e.2
      | _, _ => s
    | _, _ => s

/-- `ROUTE_COUNTS_RESULT` (R188 to R193, R207); during the stop of a cinch fairlead writes no entry (R366), and during a forced test of a
ledger bank a `ROUTE` waits (R403; that it waits here is DEDUCED, log 112). -/
def execRouteCountsResult (ctx : Fin 4096) (epoch : Fin 65536) (p : Pos) (src : DownSource) (s : State) :
    Host.Outcome State Fault Refusal :=
  if s.stopped || s.bankStalled || s.portStalled p then ok s
  else match src with
    | .onDie => ok (s.routeHere ctx epoch p)
    | .offDie l (.counts t e) => ok ((s.downFrom ctx epoch l (.counts t e)).routeHere ctx epoch p)
    | .offDie _ _ => ok s

/-! ## Let-fly (R267, R430) -/

/-- The members of a collective that are not done end with `ABORTED`, one after the other: the end of one may start another. -/
def State.abortMembers (ctx epoch : Nat) : Nat → State → State
  | 0, s => s
  | n + 1, s =>
    match (s.coll ctx epoch).bind (fun c => c.members.find? (fun m => m.stage != .done)) with
    | none => s
    | some m => State.abortMembers ctx epoch n (s.endMember ctx epoch m .aborted)

/-- Every member of a collective completes with `ABORTED`, and the epoch has ended on this chip. -/
def State.flyColl (s : State) (ctx epoch : Nat) : State :=
  match s.coll ctx epoch with
  | none => s
  | some c =>
    let s := if c.ended.isNone then s.recordEpoch ctx epoch .aborted else s
    let s := s.modColl ctx epoch (fun x => { x with ended := some .aborted, down := some (.ended .aborted)
                                                    early := match x.down with | some (.final r) => some r | _ => x.early })
    (State.abortMembers ctx epoch c.members.length s).tidyColls

/-- The collectives that a test picks out are aborted. -/
def State.flyColls (s : State) (mine : Coll → Bool) : State :=
  forEach ((s.ops.colls.filter mine).map (fun c => (c.ctx, c.epoch))) (fun k s => s.flyColl k.1 k.2) s

/-- Flits of the selected contexts that have been received and not folded or delivered are dropped (R44). DESIGN CHOICE, log 123. -/
def State.flyFlits (s : State) (mine : Nat → Bool) : State :=
  let t : BitVec 50 → Bool := fun f => !bit f 11 && mine (bits f 26 12)
  forEach (List.range 8) (fun l s => forEach [2, 3] (fun vc s => s.takeFlits l vc t (s.flitsOn l vc t)) s) s

end Sys2Proof.Machine
end

