-- ==== Sys2Proof/Machine/Hoist.lean ====
section
/-! DEFINITION. Hoist: sends, posted receives, holding nodes, the pools, reports and completions (R230 to R248, R307). -/

namespace Sys2Proof.Machine

open Sys2Proof

/-! ## Targets and the delivery bitmap (Table 8-2) -/

/-- Set bits of a list of bit numbers. -/
def maskOf (l : List Nat) : Nat := l.foldl (fun a i => a ||| 2 ^ i) 0

/-- The index in a group of this chip's first member (R232): group 0 has every endpoint of every present chip (R340); DESIGN CHOICE, log 27
for another group that leaves the chip. -/
def State.memberBase (s : State) (n : Nat) (g : Group) : Nat :=
  if g.nchip ≤ 1 then 0
  else if n = 0 then 1024 * (s.topo.present.filter (fun c => decide (c < s.topo.chip))).length
  else min (Config.membersBelow n) (g.nmemb - g.locals.length)

/-- The index of a position of this chip in `DMAP` of a `BCAST` (R232). -/
def State.memberIndex (s : State) (n : Nat) (g : Group) (p : Nat) : Nat :=
  s.memberBase n g + (g.locals.filter (fun q => decide (q < p))).length

/-- The bits of `DMAP` that a descriptor's targets use. -/
def State.dmapBits (s : State) (d : Desc) : Nat :=
  if dOpcode d = 0x30 then ((s.group (dGroup d)).map (·.nmemb)).getD 0 else if dHtmode d then dNtgt d else 1024

/-- The sender's own bit under `BCAST` (R232). -/
def State.ownBit (s : State) (p : Nat) (d : Desc) : Nat :=
  match dOpcode d == 0x30, s.group (dGroup d) with
  | true, some g => 2 ^ s.memberIndex (dGroup d) g p
  | _, _ => 0

/-- The targets of a send (Table 8-2). -/
def State.sendTargets (s : State) (p : Nat) (d : Desc) : List Target :=
  let fly : Nat → TargetPlace → Target := fun i pl => { index := i, place := pl, st := .flying }
  if dOpcode d = 0x30 then
    match s.group (dGroup d) with
    | none => []
    | some g =>
      let base := s.memberBase (dGroup d) g
      let here := (g.locals.filter (fun q => q ≠ p)).map (fun q => fly (s.memberIndex (dGroup d) g q) (.here q))
      let away := (List.range (if g.nchip ≤ 1 then 0 else g.nmemb)).filter (fun i =>
        decide (i < base) || decide (base + g.locals.length ≤ i))
      here ++ away.map (fun i => fly i .member)
  else if dHtmode d then
    (s.chipList d).zipIdx.map (fun e => fly e.2
      (if e.1 = s.topo.chip then .here (dHpos d) else .listed (e.1 * 1024 + dHpos d)))
  else (bitList (BitVec.ofNat 1024 (loadNat s (dDst2 d) 128))).map (fun q => fly q (.here q))

/-- A target is on this die. -/
def Target.isHere (t : Target) : Bool := match t.place with | .here _ => true | _ => false

/-- A target is this position of this die. -/
def Target.at_ (t : Target) (p : Nat) : Bool := match t.place with | .here q => q == p | _ => false

/-- A target's outcome is known to the sender. -/
def Target.isSettled (t : Target) : Bool := match t.st with | .settled _ => true | _ => false

/-- A target has been delivered, as far as its holding node has said. -/
def Target.delivered (t : Target) : Bool :=
  match t.st with
  | .settled b => b
  | .report b => b
  | _ => false

/-! ## Completion of a send (R244, R248) -/

/-- `DMAP` with the delivered targets' bits: written whole, or only added to under `HRETRY`. -/
def State.writeDmap (s : State) (x : Send) : State :=
  let d := x.desc
  let n := dmapLen (s.dmapBits d)
  let hits := maskOf ((x.targets.filter Target.delivered).map (·.index))
  let old := if dHretry d then loadNat s (dDst d) n else s.ownBit x.pos d
  store s (dDst d) (leBytes n (old ||| hits))

/-- A send leaves with a status; that of a reset endpoint has no record (R275). -/
def State.endSend (s : State) (x : Send) (st : CStatus) : State :=
  let short := (x.targets.filter (fun t => !t.delivered)).length
  let s := { s with ops := { s.ops with sends := s.ops.sends.filter (fun y => y.id ≠ x.id) } }
  if x.live then s.pushDone x.pos (doneOf x.desc st Tally.zero short 0 true none) else s

/-- A send whose targets are all settled completes. -/
def State.settleSend (s : State) (id : Nat) : State :=
  match s.ops.sends.find? (fun x => x.id == id) with
  | none => s
  | some x =>
    if x.targets.all Target.isSettled then
      (s.writeDmap x).endSend x (if x.targets.all Target.delivered then .ok else .short)
    else s

def State.modSend (s : State) (id : Nat) (f : Send → Send) : State :=
  { s with ops := { s.ops with sends := mapIf (fun x => x.id == id) f s.ops.sends } }

/-- Targets of a send that satisfy a test change. -/
def Send.modTargets (x : Send) (t : Target → Bool) (f : Target → Target) : Send :=
  { x with targets := mapIf t f x.targets }

/-! ## Flits of a message (Table 10-4, R307) -/

/-- The channel fields of a hoist flit. DEDUCED, log 80. -/
def hoistFvcf (group chan : Nat) (list : Bool) (phase i : Nat) : BitVec 50 :=
  fields 50 [(38, 12, group), (34, 4, chan), (33, 1, flag list), (15, 3, chan), (12, 3, phase), (11, 1, 1), (0, 11, i)]

/-- The flits of a message: header, target lists of 32 entries, and data. -/
def messageFlits (group : Nat) (m : HoistMsg) (list : Option (Nat × List Nat)) : List TxFlit :=
  let l := list.isSome
  let f : Nat → Nat → BitVec 50 := hoistFvcf group m.chan l
  let targets := match list with
    | none => []
    | some (_, chips) => (List.range ((chips.length + 31) / 32)).map (fun i =>
        ({ fvcf := f 2 i, body := .hoistTargets ((chips.drop (32 * i)).take 32) } : TxFlit))
  ({ fvcf := f 1 0, body := .hoistHeader { m with data := [] } (list.map (·.1)) } : TxFlit) :: targets ++
    (List.range ((m.data.length + 63) / 64)).map (fun i =>
      ({ fvcf := f 0 i, body := .hoistData ((m.data.drop (64 * i)).take 64) } : TxFlit))

/-- The virtual channel of a port for messages that follow no group of their own: VC2 where it leads up the tree of group 0 (R23, R230).
DEDUCED, log 80. -/
def State.treeVc (s : State) (port : Nat) : Nat :=
  match s.group 0 with
  | some g => if (s.upPorts g).contains port then 2 else 3
  | none => 3

/-- The physical ports over which a standby of a fold node above gets its copy (R308). -/
def State.copyPorts (s : State) (g : Group) : List Nat :=
  (g.folds.flatMap (fun r => (r.ins.filter (fun i => i.child = s.topo.chip)).filterMap (fun i =>
    if s.spareHost r then s.standbyLink r i else none))).filterMap s.physOf

/-- A group's message goes up and down the tree, but not back over the port it came in on. DEDUCED, log 82. -/
def State.spreadGroup (s : State) (n : Nat) (g : Group) (m : HoistMsg) (from_ : Option Nat) : State :=
  let s := forEach ((uniq (s.upPorts g ++ s.copyPorts g)).filter (fun p => some p ≠ from_)) (fun p s =>
    s.sendFlits 2 p (messageFlits n m none)) s
  forEach ((uniq (s.downPorts g)).filter (fun p => some p ≠ from_)) (fun p s => s.sendFlits 3 p (messageFlits n m none)) s

/-- A chip-list message goes once over each port that leads to a listed chip (R307). -/
def State.spreadList (s : State) (m : HoistMsg) (pos : Nat) (chips : List Nat) (from_ : Option Nat) : State :=
  let away := chips.filter (fun c => c ≠ s.topo.chip)
  let ports := (uniq (away.filterMap s.routeTo)).filter (fun p => some p ≠ from_)
  forEach ports (fun p s => s.sendFlits (s.treeVc p) p
    (messageFlits 0 m (some (pos, away.filter (fun c => s.routeTo c = some p))))) s

/-! ## Pools (R242, R243) -/

/-- The half root's pool of a position: 0 or 1. -/
def poolOf (p : Nat) : Nat := p / 512

/-- The chip root's pool. -/
def rootPool : Nat := 2

/-- Segments of a message. -/
def segments (m : HoistMsg) : Nat := (m.data.length + 511) / 512

/-- Segments that a channel holds of its reserve, and all channels of the shared part. -/
def State.ownUsed (s : State) (pool chan : Nat) : Nat :=
  (s.ops.pools.filter (fun c => c.pool == pool && c.chan == chan)).foldl (fun n c => n + c.own) 0
def State.sharedUsed (s : State) (pool : Nat) : Nat :=
  (s.ops.pools.filter (fun c => c.pool == pool)).foldl (fun n c => n + c.shared) 0

/-- Shared segments of a pool that are in service. -/
def State.sharedSize (s : State) (pool : Nat) : Nat := 2048 - Tbl.get (fun _ => 0) s.ops.retired pool

/-- The segments that a new copy takes, from the channel's reserve first; none when there is no room. -/
def State.poolSplit (s : State) (pool chan n : Nat) : Option (Nat × Nat) :=
  let own := min n (128 - s.ownUsed pool chan)
  if n - own ≤ s.sharedSize pool - s.sharedUsed pool then some (own, n - own) else none

/-- The copy of a message in a pool, if it is stored there already. -/
def State.stored (s : State) (pool : Nat) (from_ : Sender) : Bool :=
  s.ops.pools.any (fun c => c.pool == pool && c.sender == from_)

/-- A message takes its segments in a pool, once for all its copies; none when there is no room. A message stays at a node for as long as a
copy of it has to leave. DESIGN CHOICE, logs 55 and 84. -/
def State.putCopy (s : State) (pool : Nat) (from_ : Sender) (m : HoistMsg) : Option State :=
  if s.stored pool from_ then some s
  else (s.poolSplit pool m.chan (segments m)).map (fun w =>
    { s with ops := { s.ops with pools := s.ops.pools ++ [{ pool := pool, sender := from_, chan := m.chan, own := w.1, shared := w.2 }] } })

/-- A channel's flits wait upstream of a node (R243). -/
def State.waitAt (s : State) (pool chan : Nat) : State :=
  if s.ops.waiting.contains (pool, chan) then s
  else { s with ops := { s.ops with waiting := (pool, chan) :: s.ops.waiting } }

/-- A copy of a message has still to reach a target that satisfies a test. -/
def State.copyComing (s : State) (from_ : Sender) (t : Nat → Bool) : Bool :=
  match from_ with
  | .here id => s.ops.sends.any (fun x => x.id == id && x.targets.any (fun y =>
      match y.place with | .here q => t q && y.st == .flying | _ => false))
  | .there inst => s.ops.inbound.any (fun x => x.id == inst && x.pend.any t)

/-- A copy is still at a node or has still to pass it: from the chip root it leaves for the half roots, and from a half root for its
targets, held or on its way. -/
def State.copyNeeded (s : State) (pool : Nat) (from_ : Sender) : Bool :=
  if pool = rootPool then s.copyComing from_ (fun _ => true)
  else s.copyComing from_ (fun q => poolOf q == pool) || s.ops.holds.any (fun h => poolOf h.pos == pool && h.sender == from_) ||
    s.ops.delivs.any (fun x => poolOf x.recv.pos == pool && x.sender == from_)

/-- A copy's segments return once it has left its node. -/
def State.freeCopy (s : State) (pool : Nat) (from_ : Sender) : State :=
  if s.copyNeeded pool from_ then s
  else { s with ops := { s.ops with pools := s.ops.pools.filter (fun c => !(c.pool == pool && c.sender == from_)) } }

/-! ## Accepting sends and receives (R233 to R235, R248) -/

/-- A send's way leads to the chip root: a target lies in the other half or on another chip. -/
def Send.turns (x : Send) : Bool :=
  x.targets.any (fun t => match t.place with | .here q => poolOf q != poolOf x.pos | _ => true)

/-- The copies of a send leave this chip. -/
def State.spreadSend (s : State) (x : Send) : State :=
  let d := x.desc
  if x.targets.any (fun t => !t.isHere) = false then s
  else if dOpcode d = 0x30 then
    match s.group (dGroup d) with
    | some g => s.spreadGroup (dGroup d) g x.msg none
    | none => s
  else s.spreadList x.msg (dHpos d)
    (x.targets.filterMap (fun t => match t.place with | .listed r => some (r / 1024) | _ => none)) none

/-- The cluster of a position waits for a fill, or is stalled, and its ports send no new flit (R392, R403). -/
def State.portStopped (s : State) (p : Nat) : Bool := s.portHeld p

/-- A send reaches the chip root, unless its port has stopped (R392) or its channel waits there (R243). -/
def State.turnSend (x : Send) (s : State) : State :=
  if x.turned || s.portStopped x.pos || s.ops.waiting.contains (rootPool, x.msg.chan.val) then s
  else
    match s.putCopy rootPool (.here x.id) x.msg with
    | none => s.waitAt rootPool x.msg.chan
    | some s => ((s.modSend x.id (fun y => { y with turned := true })).spreadSend x).freeCopy rootPool (.here x.id)

/-- Sends that have still to reach the chip root go on, in order of acceptance. -/
def State.turnSends (s : State) : State := forEach s.ops.sends State.turnSend s

/-- A `BCAST` or `MCAST` is accepted: its source is read, and copies leave for every target that is not settled; with none it is
complete. -/
def State.startSend (s : State) (p : Nat) (d : Desc) : State :=
  let old := if dHretry d then loadNat s (dDst d) (dmapLen (s.dmapBits d)) else 0
  let targets := (s.sendTargets p d).filter (fun t => !old.testBit t.index)
  let m : HoistMsg := {
    origin := BitVec.ofNat 25 (s.rig p), hseq := dHseq d, chan := Fin.ofNat 16 (dHchan d)
    data := load s (dSrc d) (dHlen d), only := if dHretry d && dOpcode d == 0x30 then some (targets.map (·.index)) else none }
  let id := s.ops.nextId
  let x : Send := { id := id, pos := p, desc := d, msg := m, targets := targets, turned := false
                    limit := targets.any (fun t => !t.isHere), live := true }
  let x := { x with turned := !x.turns }
  let s := { s with ops := { s.ops with nextId := id + 1 } }
  if targets.isEmpty then (s.writeDmap x).pushDone p (doneOf d .ok Tally.zero 0 0 true none)
  else State.turnSend x { s with ops := { s.ops with sends := s.ops.sends ++ [x] } }

/-- An `HRECV` with nonzero `RLEN` is accepted: a receive is posted (R234). -/
def State.postRecv (s : State) (p : Nat) (d : Desc) : State :=
  { s with ops := { s.ops with recvs := s.ops.recvs ++
      [{ pos := p, chan := dHchan d, dst := dDst d, rlen := dHlen d, desc := d, ring := (s.port p).lastRead,
         applied := false, live := true }] } }

/-- The completions of a withdrawal: the receives that it took, and its own (R235). -/
def State.endWithdraw (w : Withdraw) (s : State) : State :=
  (forEach w.gone (fun r s => s.pushDone w.pos (doneOf r.desc .cancelled Tally.zero 0 0 true none)) s).pushDone w.pos
    (doneOf w.desc .ok Tally.zero 0 0 true none)

/-- An `HRECV` with `RLEN` 0 is accepted: every uncommitted receive of the endpoint and channel is withdrawn, and what has been committed
is delivered first (R235). -/
def State.withdrawRecvs (s : State) (p : Nat) (d : Desc) : State :=
  let mine : Recv → Bool := fun r => r.pos == p && r.chan == dHchan d
  let w : Withdraw := {
    pos := p, desc := d, gone := s.ops.recvs.filter mine, first := (s.ops.delivs.filter (fun x => mine x.recv)).map (·.id) }
  let s := { s with ops := { s.ops with recvs := s.ops.recvs.filter (fun r => !mine r) } }
  if w.first.isEmpty then s.endWithdraw w else { s with ops := { s.ops with withdraws := s.ops.withdraws ++ [w] } }

/-- A delivery has been made: withdrawals that waited for it alone complete. -/
def State.afterDelivery (s : State) (id : Nat) : State :=
  let l := s.ops.withdraws.map (fun w => { w with first := w.first.filter (fun i => i ≠ id) })
  forEach (l.filter (fun w => w.first.isEmpty)) State.endWithdraw
    { s with ops := { s.ops with withdraws := l.filter (fun w => !w.first.isEmpty) } }

/-! ## Reports to the sender (R244) -/

/-- The way back of a message. -/
def State.trailOf (s : State) (origin : BitVec 25) (hseq : BitVec 32) (chan : Nat) : Option Trail :=
  s.ops.trails.find? (fun t => t.origin == origin && t.hseq == hseq && t.chan == chan)

/-- The virtual channel of a report over the link on which its message came: up where the message came down (R230, R244). -/
def Trail.back (t : Trail) : Nat := if t.vc = 3 then 2 else 3

/-- A report's flit goes back on the way that its message came, or else on the route to the sender. -/
def State.sendReportFlit (s : State) (origin : BitVec 25) (hseq : BitVec 32) (chan : Nat) (f : TxFlit) : State :=
  match s.trailOf origin hseq chan with
  | some t => s.sendFlits t.back t.port [f]
  | none =>
    match s.routeTo (origin.toNat / 1024) with
    | some port => s.sendFlits (s.treeVc port) port [f]
    | none => s

/-- The channel fields of a report on a message (Table 10-4): the message's own, with the phase of a report. -/
def reportFvcf (head : BitVec 50) : BitVec 50 := setBits (setBits head 12 3 3) 0 11 0

/-- The holding node of a position reports its target. -/
def State.report (s : State) (p : Nat) (m : HoistMsg) (from_ : Sender) (delivered : Bool) : State :=
  match from_ with
  | .here id => s.modSend id (fun x => x.modTargets (fun t => t.at_ p && !t.isSettled) (fun t => { t with st := .report delivered }))
  | .there _ =>
    let head := match s.trailOf m.origin m.hseq m.chan with
      | some t => t.head
      | none => hoistFvcf 0 m.chan false 1 0
    s.sendReportFlit m.origin m.hseq m.chan {
      fvcf := reportFvcf head, body := .hoistReport m.origin m.hseq (BitVec.ofNat 25 (s.rig p)) delivered }

/-! ## The holding node (R236 to R240, R247) -/

/-- The key of a duplicate table. -/
def dupKey (p chan : Nat) : Nat := 16 * p + chan

/-- The last pairs delivered to an endpoint on a channel, newest first. -/
def State.dupPairs (s : State) (p chan : Nat) : List (BitVec 25 × BitVec 32) :=
  Tbl.get (fun _ => []) s.ops.dups (dupKey p chan)

/-- A message has been delivered before. -/
def State.isDup (s : State) (p : Nat) (m : HoistMsg) : Bool := (s.dupPairs p m.chan).contains (m.origin, m.hseq)

/-- The oldest receive of an endpoint and channel whose credit has appeared. -/
def State.credited (s : State) (p chan : Nat) : Option Recv :=
  s.ops.recvs.find? (fun r => r.pos == p && r.chan == chan && r.applied)

/-- A duplicate is dropped and reported delivered. -/
def State.dropDup (s : State) (p : Nat) (m : HoistMsg) (from_ : Sender) : State :=
  (s.bump cHoistDup 1).report p m from_ true

/-- A message too long for the receive it would consume is reported missing. -/
def State.oversize (s : State) (p : Nat) (m : HoistMsg) (from_ : Sender) : State :=
  (s.bump cHoistOversize 1).report p m from_ false

/-- A message is committed to a receive: its bytes go to `DST`. DEDUCED, log 81. -/
def State.commit (s : State) (p : Nat) (m : HoistMsg) (from_ : Sender) (r : Recv) : State :=
  let x : Delivery := { id := s.ops.nextId, msg := m, recv := r, sender := from_ }
  let pairs := ((m.origin, m.hseq) :: s.dupPairs p m.chan).take 32
  { s with ops := { s.ops with
      recvs := s.ops.recvs.erase r, delivs := s.ops.delivs ++ [x], nextId := s.ops.nextId + 1
      dups := Tbl.set (fun _ => []) s.ops.dups (dupKey p m.chan) pairs } }

/-- A message is held for a target (R238). -/
def State.hold (s : State) (p : Nat) (m : HoistMsg) (from_ : Sender) : State :=
  { s with ops := { s.ops with
      holds := s.ops.holds ++ [{ id := s.ops.nextId, pos := p, msg := m, sender := from_ }], nextId := s.ops.nextId + 1 } }

/-- A copy has reached the holding node of a target. -/
def State.takesCopy (s : State) (from_ : Sender) (p : Nat) : State :=
  match from_ with
  | .here id => s.modSend id (fun x => x.modTargets (fun t => t.at_ p && t.st == .flying) (fun t => { t with st := .atNode }))
  | .there inst =>
    let l := mapIf (fun x => x.id == inst) (fun x => { x with pend := x.pend.filter (fun q => q ≠ p) }) s.ops.inbound
    { s with ops := { s.ops with inbound := l.filter (fun x => !x.pend.isEmpty) } }

/-- A message at the holding node of a position (R237, R238, R240, R247). With no room in the pool its channel's flits wait
upstream (R243). -/
def State.atNode (s : State) (p : Nat) (m : HoistMsg) (from_ : Sender) : State :=
  let behind := s.ops.holds.any (fun h => h.pos == p && h.msg.chan == m.chan)
  let r := if behind then none else s.credited p m.chan
  let long := match r with | some r => decide (r.rlen < m.data.length) | none => false
  let s :=
    if s.isDup p m then (s.takesCopy from_ p).dropDup p m from_
    else if long then (s.takesCopy from_ p).oversize p m from_
    else
      match s.putCopy (poolOf p) from_ m, r with
      | none, _ => s.waitAt (poolOf p) m.chan
      | some s, some r => (s.takesCopy from_ p).commit p m from_ r
      | some s, none => (s.takesCopy from_ p).hold p m from_
  (s.freeCopy rootPool from_).freeCopy (poolOf p) from_

/-- A hold ends. -/
def State.endHold (s : State) (h : Hold) : State :=
  ({ s with ops := { s.ops with holds := s.ops.holds.filter (fun x => x.id ≠ h.id) } }).freeCopy (poolOf h.pos) h.sender

/-- Held messages of an endpoint and channel are served in order while credits last (R239, R240, R247). -/
def State.serveHolds : List Hold → State → State
  | [], s => s
  | h :: r, s =>
    match s.credited h.pos h.msg.chan with
    | none => s
    | some c =>
      let s := s.endHold h
      let s := if s.isDup h.pos h.msg then s.dropDup h.pos h.msg h.sender
        else if c.rlen < h.msg.data.length then s.oversize h.pos h.msg h.sender
        else s.commit h.pos h.msg h.sender c
      State.serveHolds r s

/-- The holds of an endpoint and channel, oldest first. -/
def State.holdsOf (s : State) (p chan : Nat) : List Hold :=
  s.ops.holds.filter (fun h => h.pos == p && h.msg.chan.val == chan)

/-- A hold ends without delivery: its target is missing. -/
def State.missHold (h : Hold) (s : State) : State := (s.endHold h).report h.pos h.msg h.sender false

/-! ## Messages from other chips -/

/-- A flit belongs to a hoist message of a channel. -/
def hoistFlit (chan : Nat) (f : BitVec 50) : Bool := bit f 11 && bits f 34 4 == chan && bits f 12 3 != 3

/-- The flits of the oldest message of a channel: from its header up to the next header. -/
def splitMessage (mine : BitVec 50 → Bool) : Bool → List (BitVec 50) → List (BitVec 50)
  | _, [] => []
  | seen, f :: r =>
    if mine f then (if bits f 12 3 = 1 ∧ seen then f :: r else splitMessage mine true r) else f :: splitMessage mine seen r

/-- Flits are left on a channel; the buffers of the others are freed. -/
def Link.keepFlits (vc : Nat) (keep : List (BitVec 50)) (l : Link) : Link :=
  let n := (l.flits vc).length - keep.length
  let l := if vc = 2 then { l with rx2 := keep } else { l with rx3 := keep }
  (List.range n).foldl (fun l _ => l.freeBuffer vc) l

/-- The oldest message of a channel is taken off a link: its header leaves the list of headers, the flits that have come free their buffers,
and the `total` flits of which some are still to come are counted. -/
def Link.takeMessage (vc chan total : Nat) (head : BitVec 50) (k : Link) : Link :=
  let keep := splitMessage (hoistFlit chan) false (k.flits vc)
  let left := total - ((k.flits vc).length - keep.length)
  { k.keepFlits vc keep with
    heads := k.heads.erase (vc, head)
    rest := (if left = 0 then [] else [(vc, chan, left)]) ++ k.rest.filter (fun e => !(e.1 == vc && e.2.1 == chan)) }

/-- The oldest message of a channel on a port: its virtual channel and its header. -/
def State.hoistWaiting (s : State) (l chan : Nat) : Option (Nat × BitVec 50) :=
  (s.lnk l).heads.find? (fun h => bits h.2 34 4 == chan)

/-- A fold node of a group for which this chip only stands by takes an input on a port (R308). -/
def State.standsByOn (s : State) (g : Group) (l : Nat) : Option FoldRec :=
  g.folds.find? (fun r => r.standby == s.topo.chip && s.hostOf r != s.topo.chip &&
    r.ins.any (fun i => s.physOf i.sblink == some l))

/-- A port on which a fold node's frames came before its standby took over (R309). -/
def State.formerPorts (s : State) (g : Group) : List Nat :=
  s.formerUpPorts g ++ g.folds.flatMap (fun r => (List.range r.ins.length).filterMap (s.formerPort r))

/-- The targets of a message from another chip that lie on this chip (R232, R248, R307). -/
def State.targetsHere (s : State) (m : HoistMsg) (list : Option (Nat × List Nat)) (n : Nat) : List Nat :=
  match list, s.group n with
  | some (pos, chips), _ => if chips.contains s.topo.chip then [pos] else []
  | none, some g => g.locals.filter (fun q => match m.only with | none => true | some l => l.contains (s.memberIndex n g q))
  | none, none => []

/-- A message goes on from this chip root to the chips beyond. -/
def State.spreadOn (s : State) (m : HoistMsg) (list : Option (Nat × List Nat)) (n : Nat) (from_ : Nat) : State :=
  match list, s.group n with
  | some (pos, chips), _ => s.spreadList m pos chips (some from_)
  | none, some g => s.spreadGroup n g m (some from_)
  | none, none => s

/-- A message from another chip goes through the chip root: on to the chips beyond, and toward its targets here, for which it needs
segments; none when there is no room. -/
def State.throughRoot (s : State) (l vc : Nat) (head : BitVec 50) (m : HoistMsg) (list : Option (Nat × List Nat)) : Option State :=
  let n := bits head 38 12
  let id := s.ops.nextId
  let pend := s.targetsHere m list n
  (if pend.isEmpty then some s else s.putCopy rootPool (.there id) m).map (fun s =>
    let t : Trail := { origin := m.origin, hseq := m.hseq, chan := m.chan, vc := vc, port := l, head := head }
    let s := { s with ops := { s.ops with
      trails := t :: s.ops.trails.filter (fun x => !(x.origin == t.origin && x.hseq == t.hseq && x.chan == t.chan))
      inbound := s.ops.inbound ++ (if pend.isEmpty then [] else [HoistIn.mk id l m pend])
      nextId := id + 1 } }
    s.spreadOn m list n l)

/-- The oldest message of its channel is taken off a link, where its channel does not wait. A standby keeps what its primary's node sends
on (R310; DESIGN CHOICE, log 83), and what still comes from a primary that its standby has replaced is dropped (R309). -/
def State.takeInbound (s : State) (l : Nat) (m : HoistMsg) (list : Option (Nat × List Nat)) : State :=
  match s.hoistWaiting l m.chan with
  | none => s
  | some (vc, head) =>
    let n := bits head 38 12
    let take : State → State := fun s => s.modLnk l (Link.takeMessage vc m.chan (messageFlits n m list).length head)
    if bit head 33 ≠ list.isSome then s
    else
      let g := if list.isSome then none else s.group n
      match g.bind (fun g => s.standsByOn g l) with
      | some r =>
        let x : Copied := { fnid := r.fnid, group := n, msg := m, port := l, head := head }
        take { s with ops := { s.ops with copied := (x :: s.ops.copied).take 32 } }
      | none =>
        if g.any (fun g => (s.formerPorts g).contains l) then take s
        else if s.ops.waiting.contains (rootPool, m.chan.val) then s
        else match s.throughRoot l vc head m list with
          | some s => take s
          | none => s.waitAt rootPool m.chan

/-- The messages that a standby has kept for a fold node go out again when it takes over (R310). -/
def State.resendCopied (s : State) (fnid : BitVec 21) : State :=
  forEach ((s.ops.copied.filter (fun x => x.fnid == fnid)).reverse) (fun x s =>
    (s.throughRoot x.port 2 x.head x.msg none).getD s) s

/-- The oldest message of a link and channel that has still to reach a position; no older one of its sender on the channel may have to
(R240). -/
def State.nextInbound (s : State) (l chan p : Nat) : Option HoistIn :=
  let coming : HoistIn → Bool := fun x => x.msg.chan.val == chan && x.pend.contains p
  (s.ops.inbound.find? (fun x => x.link == l && coming x)).filter (fun x =>
    s.ops.inbound.find? (fun y => coming y && y.msg.origin == x.msg.origin) == some x)

/-! ## The rows -/

/-- `HOIST_CREDIT_APPLY` (R234, R239). -/
def execHoistCreditApply (p : Pos) (ch : Fin 16) (s : State) : Host.Outcome State Fault Refusal :=
  let mine : Recv → Bool := fun r => r.pos == p.val && r.chan == ch.val
  let s := { s with ops := { s.ops with recvs := mapIf mine (fun r => { r with applied := true }) s.ops.recvs } }
  ok (State.serveHolds (s.holdsOf p ch) s)

/-- A send of this chip whose copy for a position is the next of its sender and channel (R240). -/
def State.nextCopy (s : State) (id p : Nat) : Option Send :=
  match s.ops.sends.find? (fun x => x.id == id) with
  | none => none
  | some x =>
    s.ops.sends.find? (fun y => y.pos == x.pos && y.msg.chan == x.msg.chan &&
      y.targets.any (fun t => t.at_ p && t.st == .flying))

/-- `HOIST_AT_HOLDING_NODE` (R237, R238, R240, R243, R247, R307). -/
def execHoistAtHoldingNode (p : Pos) (src : HoistSource) (s : State) : Host.Outcome State Fault Refusal :=
  match src with
  | .onDie id =>
    match s.nextCopy id p with
    | none => ok s
    | some x =>
      if s.portStalled p ∨ x.id ≠ id ∨ x.turned = false ∨ (x.turns = false ∧ s.portStopped x.pos) ∨ s.ops.waiting.contains (poolOf p, x.msg.chan.val) then
        ok s
      else ok (s.atNode p x.msg (.here id))
  | .offDie l m list =>
    let s := if s.rootStalled || (s.nextInbound l m.chan p).isSome then s else s.takeInbound l m list
    match s.nextInbound l m.chan p with
    | none => ok s
    | some x =>
      if s.portStalled p ∨ x.msg ≠ m ∨ s.ops.waiting.contains (poolOf p, m.chan.val) then ok s else ok (s.atNode p m (.there x.id))

/-- `HOLD_LIMIT_EXPIRY` (R239). -/
def execHoldLimitExpiry (hold : Nat) (s : State) : Host.Outcome State Fault Refusal :=
  match s.ops.holds.find? (fun h => h.id == hold) with
  | none => ok s
  | some h =>
    let s := (s.bump cHoistHoldExp 1).missHold h
    ok (State.serveHolds (s.holdsOf h.pos h.msg.chan) s)

/-- A report flit of another chip waits on a port. -/
def reportFlit (f : BitVec 50) : Bool := bit f 11 && bits f 12 3 == 3

/-- The oldest report flit of a port is taken: the state without it, and its channel fields. -/
def State.takeReport (s : State) (l : Nat) : Option (State × BitVec 50) :=
  let k := s.lnk l
  match k.rx2.find? reportFlit, k.rx3.find? reportFlit with
  | some f, _ => some (s.setLnk l (k.keepFlits 2 (k.rx2.eraseP reportFlit)), f)
  | none, some f => some (s.setLnk l (k.keepFlits 3 (k.rx3.eraseP reportFlit)), f)
  | none, none => none

/-- The target that a report from another chip settles. -/
def Send.reported (x : Send) (index : Nat) (rig : BitVec 25) (t : Target) : Bool :=
  t.index == index && !t.isSettled && x.limit &&
    (match t.place with | .here _ => false | .listed r => r == rig.toNat | .member => true)

/-- `DELIVERY_REPORT` (R244, R245): the report of a holding node here, or of another chip, for a send of this chip; for a send
of another chip it goes on. -/
def execDeliveryReport (id : Nat) (target : Nat) (src : ReportSource) (s : State) : Host.Outcome State Fault Refusal :=
  match src with
  | .onDie =>
    ok ((s.modSend id (fun x => x.modTargets (fun t => t.index == target) (fun t =>
      match t.st with | .report b => { t with st := .settled b } | _ => t))).settleSend id)
  | .offDie l origin hseq rig delivered =>
    match (if s.rootStalled then none else s.takeReport l) with
    | none => ok s
    | some (s, v) =>
      if origin.toNat / 1024 ≠ s.topo.chip then
        ok (s.sendReportFlit origin hseq (bits v 34 4) { fvcf := v, body := .hoistReport origin hseq rig delivered })
      else
        match s.ops.sends.find? (fun x => x.id == id && x.msg.origin == origin && x.msg.hseq == hseq &&
            x.targets.any (x.reported target rig)) with
        | none => ok (s.bump cHoistLate 1)
        | some x =>
          ok ((s.modSend id (fun y => y.modTargets (x.reported target rig) (fun t => { t with st := .settled delivered }))).settleSend id)

/-- `HOIST_REPORT_LIMIT_EXPIRY` (R245). -/
def execHoistReportLimitExpiry (id : Nat) (s : State) : Host.Outcome State Fault Refusal :=
  ok ((s.modSend id (fun x => if x.limit then
    { x.modTargets (fun t => !t.isHere && !t.isSettled) (fun t => { t with st := .settled false }) with limit := false }
    else x)).settleSend id)

/-- `HOIST_SEGMENT_FREED` (R243): the channel's flits move again where the pool has room for a segment; sends of this chip that have still to
reach the chip root try again. -/
def execHoistSegmentFreed (pool : Fin 3) (ch : Fin 16) (s : State) : Host.Outcome State Fault Refusal :=
  if (s.poolSplit pool ch 1).isSome then
    let s := { s with ops := { s.ops with waiting := s.ops.waiting.filter (fun w => w ≠ (pool.val, ch.val)) } }
    ok (if pool.val = rootPool then s.turnSends else s)
  else ok s

/-- `HOIST_DELIVERY_VISIBLE` (R236, R244): the bytes stand at `DST`, the receive completes, and the target is reported. -/
def execHoistDeliveryVisible (delivery : Nat) (s : State) : Host.Outcome State Fault Refusal :=
  match s.ops.delivs.find? (fun x => x.id == delivery) with
  | none => ok s
  | some x =>
    let s := { s with ops := { s.ops with delivs := s.ops.delivs.filter (fun y => y.id ≠ delivery) } }
    let s := store s x.recv.dst x.msg.data
    let s := if x.recv.live then s.pushDone x.recv.pos
        (doneOf x.recv.desc .ok Tally.zero (x.msg.hseq.toNat * 2 ^ 32 + x.msg.origin.toNat) x.msg.data.length true none)
      else s
    ok (((s.report x.recv.pos x.msg x.sender true).freeCopy (poolOf x.recv.pos) x.sender).afterDelivery delivery)

/-! ## Resets and let-fly (R237, R241, R430) -/

/-- What an `ENDPOINT` reset does to hoist: holds for the position end, its receives go, its sends run on without a record. -/
def State.resetHoist (s : State) (p : Nat) : State :=
  let s := forEach (s.ops.holds.filter (fun h => h.pos == p)) State.missHold s
  { s with ops := { s.ops with
      recvs := s.ops.recvs.filter (fun r => r.pos ≠ p), withdraws := s.ops.withdraws.filter (fun w => w.pos ≠ p)
      delivs := mapIf (fun x => x.recv.pos == p) (fun x => { x with recv := { x.recv with live := false } }) s.ops.delivs
      sends := mapIf (fun x => x.pos == p) (fun x => { x with live := false }) s.ops.sends
      dups := (List.range 16).foldl (fun t c => Tbl.set (fun _ => []) t (dupKey p c) []) s.ops.dups } }

/-- What a let-fly with the hoist scope does (R241, R430): held copies are dropped, and every send of this chip completes with `ABORTED`, its
copies that fly with it. Messages of other chips that no node holds yet go on. -/
def State.flyHoist (s : State) : State :=
  let held := s.ops.holds
  let s := { s with ops := { s.ops with holds := [], waiting := [] } }
  let s := forEach held (fun h s => s.report h.pos h.msg h.sender false) s
  let s := forEach s.ops.sends (fun x s => (s.writeDmap x).endSend x .aborted) s
  forEach s.ops.pools (fun c s => s.freeCopy c.pool c.sender) s

/-- A send whose source read was poisoned completes with `FAULT`; `DMAP` is undefined (R244, R427). DESIGN CHOICE, log 85. -/
def State.poisonSend (s : State) (x : Send) : State :=
  (storeFree s (dDst x.desc) (dmapLen (s.dmapBits x.desc))).endSend x .fault

end Sys2Proof.Machine
end

