-- ==== Sys2Proof/Machine/Link.lean ====
section
/-! DEFINITION. The shroud ports' link layer: link-up, frames sent and received, replay, protection, and what Masthead does when a
link or a lane fails (R278 to R294, R298, R312 to R321, R386). -/

namespace Sys2Proof.Machine

open Sys2Proof

/-! ## The state of a link (R279) -/

/-- The link-control exchange begins: `LC_INIT` is due. -/
def Link.startExchange (p : Nat) (k : Link) : Link :=
  { k with st := .exchange, peer := none, ackSent := false, ackSeen := false, ctl := [k.control p 1] }

/-- Link-up is attempted from the start: nothing of an earlier link is left but the lanes that have failed. -/
def Link.fresh (p : Nat) (k : Link) : Link :=
  { Link.reset p with st := .training, badLanes := k.badLanes, lanes := k.lanes, llink := k.llink, prot := k.prot }

/-- Both ends have exchanged `LC_INIT_ACK`: the link is up, from sequence number 0, or where the earlier link stood (R279,
R313). -/
def Link.comeUp (p : Nat) (k : Link) : Link :=
  let st := if k.lanes = 0 then LinkSt.up else .reefed
  if k.resume then { k with st := st, resume := false, resend := k.replay, fruitless := flag (!k.replay.isEmpty), ctl := [] }
  else
    { Link.reset p with
      st := st, locked := true, lanes := k.lanes, badLanes := k.badLanes, llink := k.llink, prot := k.prot, peer := k.peer
      ackSent := true, ackSeen := true, superBlock := k.superBlock }

/-- Every declared link and spare is up (R340, R419). -/
def State.declaredUp (s : State) : Bool :=
  s.topo.links.all (fun e => (s.lnk e.2.phys).isUp && (match e.2.spare with | some q => (s.lnk q).isUp | none => true))

def keySlotDefault : Nat → KeySlot := fun _ => { key := 0, salt := 0, ctr := 0, loaded := false }

/-- A key slot (R317). -/
def State.keySlot (s : State) (p dir slot : Nat) : KeySlot := Tbl.get keySlotDefault s.keys.slots (p * 4 + dir * 2 + slot)

def State.setKeySlot (s : State) (p dir slot : Nat) (x : KeySlot) : State :=
  { s with keys := { s.keys with slots := Tbl.set keySlotDefault s.keys.slots (p * 4 + dir * 2 + slot) x } }

/-- The slot in use, and whether a switch is due (R319). -/
def State.keyUse (s : State) (p dir : Nat) : Nat := Tbl.get (fun _ => 0) s.keys.active (p * 2 + dir)

def State.setKeyUse (s : State) (p dir v : Nat) : State :=
  { s with keys := { s.keys with active := Tbl.set (fun _ => 0) s.keys.active (p * 2 + dir) v } }

/-- The block that a port has begun is abandoned with the link: its counter is not used again (R317). -/
def State.dropBlock (s : State) (p : Nat) : State :=
  if (s.lnk p).txBlock.isEmpty then s
  else
    let i := s.keyUse p 0 % 2
    let x := s.keySlot p 0 i
    s.setKeySlot p 0 i { x with ctr := x.ctr + 1 }

/-- A port whose exchange is complete comes up; after an exit from `RETAIN` the wait for links may be over (R419). -/
def State.tryUp (s : State) (p : Nat) : State :=
  let k := s.lnk p
  if k.ackSent && k.ackSeen && k.peer.isSome && k.st == .exchange then
    let s := if k.resume then s else s.dropBlock p
    let s := if k.resume && !k.replay.isEmpty then s.bump (cReplay p) 1 else s
    let s := s.setLnk p (k.comeUp p)
    if s.declaredUp then { s with mh := { s.mh with linksDue := false } } else s
  else s

/-! ## Acknowledgement and replay (R285 to R288) -/

/-- The partner expects number `n` next: the frames below it leave the replay buffer. A number outside the buffer says nothing. DEDUCED, log 86. -/
def Link.acked (k : Link) (n : Nat) : Link :=
  let d := seqDist k.txAck n
  if seqDist k.txAck k.txSeq < d then k
  else
    { k with
      txAck := n % 4096, replay := k.replay.drop d, resend := k.resend.filter (fun f => decide (seqDist n (fSeq f) < 2048))
      fruitless := if d = 0 then k.fruitless else 0 }

/-- The acknowledgement and credit fields of a frame take effect. DEDUCED, log 87. -/
def Link.takeFields (f : Frame) (k : Link) : Link :=
  let k := k.acked (fAck f)
  if k.creditAhead f then k else { k with credited := vcPut k.credited (fCrvc f) (fCrcum f) }

/-- A frame is discarded: one `NAK` for the expected number is due (R286). -/
def Link.reject (k : Link) : Link := if k.isUp && !k.nakOut then { k with nakDue := true } else k

/-! ## Fault reports (R301, R386) -/

/-- The physical ports of the declared links that are up. -/
def State.upLinks (s : State) : List Nat := (s.topo.links.map (fun e => e.2.phys)).filter (fun p => (s.lnk p).isUp)

/-- A message leaves on every up link but one (R300). DEDUCED, log 94. -/
def State.flood (s : State) (m : Msg) (except : Option Nat) : State :=
  forEach (s.upLinks.filter (fun p => some p ≠ except)) (fun p s => s.modLnk p (Link.queueMsg 0 m)) s

/-- This chip sends a fault report to every chip. -/
def State.sendReport (s : State) (code llink : Nat) : State :=
  if s.topo.rigValid then
    let q := s.link.repSeq
    let m := ctlMsg ctFaultReport s.topo.chip everyChip [(82, 8, code), (79, 3, llink), (63, 16, q)]
    ({ s with link := { s.link with repSeq := (q + 1) % 65536, repSeen := ((s.topo.chip, q) :: s.link.repSeen).take 64 } }).flood m none
  else s

/-! ## Collectives that a loss ends (R311, R315, R394) -/

/-- A mark that ends a collective with `FAULT`. -/
def faultMark (c : Coll) : UpMsg :=
  { defn := c.defn, pass := c.pass, reef := false, fault := true, clash := false, ncontrib := 0, vals := none, flushes := []
    tally := Tally.zero }

/-- A collective completes with `FAULT`: at its root, or here and below while a mark goes up. -/
def State.faultColl (c : Coll) (s : State) : State :=
  match s.group c.group with
  | none => s
  | some g =>
    if c.ended.isSome then s
    else if s.hasRoot g then s.endAtRoot c.ctx c.epoch g .fault
    else (s.forwardMark 3 c.ctx c.epoch g none (faultMark c)).deliverDown c.ctx c.epoch g c.group (.ended .fault)

/-- The context that an `EV_RESTORE_NEEDED` names: the one, or 0xFFFF for several. -/
def oneContext (l : List Nat) : Nat :=
  match uniq l with
  | [c] => c
  | _ => 0xFFFF

/-- The contexts of the collectives that a test picks out and that have not ended. -/
def State.hitContexts (s : State) (mine : Coll → Bool) : List Nat :=
  (s.ops.colls.filter (fun c => mine c && c.ended.isNone)).map (·.ctx)

/-- The collectives that a test picks out complete with `FAULT`. -/
def State.faultColls (s : State) (mine : Coll → Bool) : State :=
  forEach (s.ops.colls.filter (fun c => mine c && c.ended.isNone)) State.faultColl s

/-- The job must be restored when contexts have been faulted (Table 11-11). -/
def State.restoreFor (s : State) (failed : Nat) (ctxs : List Nat) : State :=
  if ctxs.isEmpty then s else s.postRestore failed (oneContext ctxs)

/-- A fold node of this chip uses a logical port for its output or an input, and no standby can take it over (R311, R315). Whether the
sender of an input has a standby stands in no record here (DESIGN CHOICE, log 124). -/
def State.nodeCut (s : State) (g : Group) (r : FoldRec) (l : Nat) : Bool :=
  s.hostOf r == s.topo.chip && !s.spareAlive r &&
    ((r.parent != 0xFFFF && s.leaveLink g (some r) == some l) ||
      r.ins.zipIdx.any (fun e => s.inputLink r e.2 e.1 == l && s.inputChip r e.2 e.1 != s.topo.chip))

/-- A node of this chip sends an input of a fold node, and has a standby that can take it over. -/
def State.senderSpared (s : State) (g : Group) (r : FoldRec) : Bool :=
  (s.hosted g).any (fun x => s.spareAlive x && ((s.nextNode g (some x)).map (·.1)) == some r)

/-- This chip sends to a fold node elsewhere over a logical port, and no standby is reached by another (R308, R315). -/
def State.childCut (s : State) (g : Group) (r : FoldRec) (l : Nat) : Bool :=
  s.hostOf r != s.topo.chip && !s.senderSpared g r && r.ins.any (fun i => i.child == s.topo.chip && s.childLink r i == some l &&
    !(s.spareAlive r && s.standbyLink r i != some l))

/-- A fold node's stream uses a logical port of this chip, and no standby is reached by another (R315). -/
def State.cutOff (s : State) (g : Group) (r : FoldRec) (l : Nat) : Bool := s.nodeCut g r l || s.childCut g r l

/-- A collective uses a logical port in such a stream. -/
def State.ridesOn (s : State) (l : Nat) (c : Coll) : Bool :=
  match s.group c.group with
  | some g => g.folds.any (fun r => s.cutOff g r l) || g.transits.any (fun t => t.inPort == l || t.outPort == l)
  | none => false

/-- A stream that this chip forwards has lost a link: its collective ends with `FAULT`, by a fault mark toward its root or by the outcome
toward its members (R315, R429). DESIGN CHOICE, log 125. -/
def State.cutStream (l : Nat) (x : Nat × Nat × Nat × Nat) (s : State) : State :=
  let send : Nat → Nat → FlitBody → Nat → State → State := fun port vc b phase s =>
    match s.physOf port with
    | some q => s.sendFlits vc q (passFlits x.1 x.2.1 x.2.2.1 [phase] 1 b)
    | none => s
  match s.group x.1 with
  | none => s
  | some g => forEach g.transits (fun t s =>
      if t.inPort = l then send t.outPort 2 .faultMark x.2.2.2 s
      else if t.outPort = l then send t.inPort 3 (.down (.ended .fault)) 5 s else s) s

/-- A logical link is lost (R315): collectives over it end with `FAULT`, and a cinch over group 0 has a cause to be abandoned. -/
def State.loseLink (s : State) (l : Nat) : State :=
  let any := s.topo.groups.any (fun e => e.1 == 0 && e.2.folds.any (fun r => s.cutOff e.2 r l))
  let s := s.faultColls (s.ridesOn l)
  let s := forEach s.link.streams (State.cutStream l) s
  if any then s.cutReason 6 else s

/-! ## Port moves and lane reef (R312 to R314) -/

/-- The declared link that a physical port carries. -/
def State.declOn (s : State) (p : Nat) : Option (Nat × LinkDecl) := s.topo.links.find? (fun e => e.2.phys == p)

/-- A spare port of a physical port's link that is up and free. -/
def State.spareFor (s : State) (p : Nat) : Option Nat :=
  match s.declOn p with
  | none => none
  | some e => e.2.spare.filter (fun q => (s.lnk q).isUp && !s.mh.cals.contains q)

/-- A port takes over the key slots of another (R320), which keeps none: no counter is used twice under one key (R317). -/
def State.moveKeys (s : State) (p q : Nat) : State :=
  let s := forEach [0, 1] (fun dir s => forEach [0, 1] (fun i s =>
    (s.setKeySlot q dir i (s.keySlot p dir i)).setKeySlot p dir i (keySlotDefault 0)) s) s
  forEach [0, 1] (fun dir s => (s.setKeyUse q dir (s.keyUse p dir)).setKeyUse p dir 0) s

/-- What a link keeps when it goes on elsewhere, or at two lanes: sequence numbers, credits, the replay buffer and every queue. -/
def Link.resumed (k : Link) : Link :=
  { k with resume := true, resumeAck := k.rxSeq, peer := none, ackSent := false, ackSeen := false, ctl := [], resend := []
           nakDue := false, nakOut := false, fruitless := 0 }

/-- The logical port moves to its spare `q` (R313); the old port is brought up again as the spare. -/
def State.movePort (s : State) (p q : Nat) : State :=
  let k := s.lnk p
  let t := s.lnk q
  let links := s.topo.links.map (fun e => (e.1, if e.2.phys = p then { e.2 with phys := q, spare := some p } else e.2))
  let s := { s with topo := { s.topo with links := links } }
  let s := s.setLnk q (Link.startExchange q { k.resumed with locked := t.locked, lanes := t.lanes, badLanes := t.badLanes })
  (s.moveKeys p q).setLnk p { Link.reset p with st := .training, badLanes := k.badLanes }

/-- The lanes of the pair that is healthy (Table 10-10): `LC_LANES`. -/
def Link.healthyPair (k : Link) : Option Nat :=
  let free : Nat → Bool := fun i => !k.badLanes.contains i
  if free 0 && free 1 then some 1 else if free 2 && free 3 then some 2 else none

/-- The port retrains at two lanes (R314). -/
def Link.retrain (k : Link) (lanes : Nat) : Link :=
  { k.resumed with st := .retraining, lanes := lanes, locked := false }

/-- What Masthead did about a port (Table 10-10); with a link, contexts may be lost. -/
inductive PortReply where
  | moved (q : Nat)
  | reefed
  | lost (ctxs : List Nat)
  deriving DecidableEq, Repr

/-- Masthead's response to a link that is down, by the first matching row of Table 10-10. -/
def State.respondPort (s : State) (p : Nat) : State × PortReply :=
  let k := s.lnk p
  match s.spareFor p with
  | some q => (s.movePort p q, .moved q)
  | none =>
    match (if k.badLanes.isEmpty || k.lanes != 0 then none else k.healthyPair) with
    | some n => (s.setLnk p (k.retrain n), .reefed)
    | none =>
      let l := s.declOn p
      let ctxs := match l with | some e => s.hitContexts (s.ridesOn e.1) | none => []
      let s := (s.dropBlock p).setLnk p (k.fresh p)
      (match l with | some e => s.loseLink e.1 | none => s, .lost ctxs)

/-- A fault record of a port, with what was done. -/
def State.portFault (s : State) (code kind index : Nat) (spareIndex : Nat → Nat) (r : PortReply) : State :=
  match r with
  | .moved q => s.postFault code kind index 5 (spareIndex q) 0
  | .reefed => s.postFault code kind index 4 0xFFFF 0
  | .lost ctxs => (s.postFault code kind index (if ctxs.isEmpty then 0 else 8) 0xFFFF 0).restoreFor 0xFFFF ctxs

/-- A link goes down (R288, R320, R386). DEDUCED, log 93. -/
def State.linkDown (s : State) (p code : Nat) : State :=
  let llink := s.logicalOf p
  let s := s.bump (cLinkDown p) 1
  let r := s.respondPort p
  (r.1.portFault code 7 p id r.2).sendReport 0x41 llink

/-- The sender replays its buffer from frame `n` on; after eight replays without progress the link goes down (R287, R288, DEDUCED,
log 31). -/
def State.replay (s : State) (p n : Nat) : State :=
  let k := s.lnk p
  if 8 ≤ k.fruitless then s.linkDown p 0x41
  else (s.setLnk p { k with resend := k.replay.drop (seqDist k.txAck n), fruitless := k.fruitless + 1 }).bump (cReplay p) 1

/-! ## Sending (R293, R294, R317, R318) -/

/-- The header of a frame that the port sends now (Table 10-2), without its CRC. -/
def Link.header (k : Link) (type vc : Nat) (fvcf : BitVec 50) : BitVec 128 :=
  let c := nth 0 [0, 1, 4, 2, 3] k.crTurn
  fields 128 [(124, 4, type), (121, 3, vc), (109, 12, k.txSeq), (97, 12, k.rxSeq), (94, 3, c), (82, 12, vcCount k.freed c),
    (32, 50, fvcf.toNat)]

/-- A frame goes on the wire: its slot is noted, and at two lanes it takes a second one (R314, DEDUCED, log 115). The eighth frame of a
super-block completes its FEC input blocks (R278). -/
def State.putFrame (s : State) (p : Nat) (f : Frame) : State :=
  let l := (s.lnk p).superBlock ++ [f]
  let full := l.length == 8
  let s := s.modLnk p (fun k =>
    let vc := if fType f = ftData then fVc f else 5
    { k with slots := ((if k.lanes = 0 then [vc] else [5, vc]) ++ k.slots).take 64, superBlock := if full then [] else l })
  let blocks := if full then (superBlockOf l).reverse.map (fun b => (p, b)) else []
  { s with out := { s.out with wire := (p, f) :: s.out.wire, blocks := blocks ++ s.out.blocks } }

/-- The key slot of the block that is open or begins now: a switch takes place at a block boundary (R319). DEDUCED, log 90. -/
def State.txSlot (s : State) (p : Nat) : Nat :=
  let u := s.keyUse p 0
  if (s.lnk p).txBlock.isEmpty && decide (2 ≤ u) then (u + 1) % 2 else u % 2

/-- The port can send a sequenced frame: the replay buffer has room (R285), and in protected mode a key is loaded. -/
def State.canSequence (s : State) (p : Nat) : Bool :=
  let k := s.lnk p
  let x := s.keySlot p 0 (s.txSlot p)
  decide (k.replay.length < 2048) && (!k.prot || (x.loaded && decide (x.ctr < 2 ^ 48)))

/-- An unsequenced frame is sent. -/
def State.sendPlain (s : State) (p type : Nat) (pay : BitVec 512) : State :=
  let k := s.lnk p
  let f := sealFrame (k.header type 0 0) pay
  (s.setLnk p { k with crTurn := (k.crTurn + 1) % 5 }).putFrame p f

/-- A sequenced frame is sent and kept for replay. -/
def State.sendKept (s : State) (p type vc : Nat) (fvcf : BitVec 50) (pay : BitVec 512) : State × Frame :=
  let k := s.lnk p
  let f := sealFrame (k.header type vc fvcf) pay
  ((s.setLnk p { k with
      crTurn := (k.crTurn + 1) % 5, txSeq := (k.txSeq + 1) % 4096, replay := k.replay ++ [f] }).putFrame p f, f)

/-- An `IDLE` or `DATA` frame is sent in sequence; in protected mode it is enciphered and joins the open block. -/
def State.sendSequenced (s : State) (p type vc : Nat) (fvcf : BitVec 50) (pay : BitVec 512) : State :=
  if (s.lnk p).prot then
    let i := s.txSlot p
    let s := s.setKeyUse p 0 (if (s.lnk p).txBlock.isEmpty then i else s.keyUse p 0)
    let x := s.keySlot p 0 i
    let r := s.sendKept p type vc fvcf (gcmPayload x.key x.salt x.ctr (s.lnk p).txBlock.length pay)
    r.1.modLnk p (fun k => { k with txBlock := k.txBlock ++ [r.2] })
  else (s.sendKept p type vc fvcf pay).1

/-- The authenticated data and the ciphertext of a block (R318). -/
def blockAad (l : List Frame) : List Byte := l.flatMap (fun f => (wordBytes 16 f.hdr).drop 4)
def blockText (l : List Frame) : List Byte := l.flatMap (fun f => wordBytes 64 f.pay)

/-- The payload of a `GCMTAG` (Table 10-11). -/
def tagPayload (tag : List Byte) (ctr slot nfr : Nat) : BitVec 512 :=
  BitVec.ofNat 512 (leNat (tag ++ leBytes 8 ctr ++ [BitVec.ofNat 8 slot, BitVec.ofNat 8 nfr]))

/-- The open block is closed by its tag; the counter that would reach 2^48 takes the link down (R317). -/
def State.sendTag (s : State) (p : Nat) : State :=
  let k := s.lnk p
  let i := s.keyUse p 0 % 2
  let x := s.keySlot p 0 i
  let tag := gcmTag x.key x.salt x.ctr (blockAad k.txBlock) (blockText k.txBlock)
  let s := (s.sendKept p ftGcmtag 0 0 (tagPayload tag x.ctr i k.txBlock.length)).1
  let s := s.modLnk p (fun k => { k with txBlock := [], tagDue := false })
  let s := s.setKeySlot p 0 i { x with ctr := x.ctr + 1 }
  if 2 ^ 48 ≤ x.ctr + 1 ∧ s.keyUse p 0 < 2 then s.linkDown p 0x41 else s

/-- Frames of a channel among the last 64 slots. -/
def Link.used (k : Link) (vc : Nat) : Nat := (k.slots.filter (fun x => x == vc)).length

/-- A channel has a frame to send. -/
def Link.waits (k : Link) (vc : Nat) : Bool :=
  match vc with
  | 0 => !k.tx0.isEmpty
  | 1 => !k.tx1.isEmpty
  | 2 => !k.tx2.isEmpty
  | 3 => !k.tx3.isEmpty
  | _ => !k.tx4.isEmpty

/-- A channel has a frame and a credit. -/
def State.ready (s : State) (p vc : Nat) : Bool :=
  (s.lnk p).waits vc && decide (0 < (s.lnk p).credits vc) && s.canSequence p

/-- A let-fly message. -/
def isFly (m : Msg) : Bool := ctType m == ctLetFly

/-- Up to four messages of a queue that satisfy a test, oldest first, and the rest. -/
def takeMsgs (t : Msg → Bool) (l : List Msg) : List Msg × List Msg :=
  let x := (l.filter t).take 4
  (x, x.foldl (fun r m => r.erase m) l)

/-- Whether VC2 comes before VC3 when both have a frame and a credit (R294). -/
def State.vc2First (s : State) (k : Link) : Bool := decide (k.wrr2 * s.policy 0x32 ≤ k.wrr3 * s.policy 0x31)

/-- The round after one more frame of VC2 or VC3. -/
def State.roundAfter (s : State) (k : Link) (vc : Nat) (both : Bool) : Nat × Nat :=
  if !both then (0, 0)
  else
    let a := if vc = 2 then k.wrr2 + 1 else k.wrr2
    let b := if vc = 3 then k.wrr3 + 1 else k.wrr3
    if s.policy 0x31 ≤ a ∧ s.policy 0x32 ≤ b then (0, 0) else (a, b)

/-- The block closes after eight frames, and at once behind a VC0 or VC1 frame when no further frame is ready (R318). -/
def State.closeBlock (s : State) (p vc : Nat) : State :=
  let k := s.lnk p
  let more := [0, 1, 2, 3, 4].any (fun v => s.ready p v) || !k.resend.isEmpty
  if k.prot && (k.txBlock.length == 8 || (decide (vc < 2) && !more)) then s.setLnk p { k with tagDue := true } else s

/-- A `DATA` frame of a channel is sent (R290, R293). -/
def State.sendData (s : State) (p vc : Nat) (fvcf : BitVec 50) (pay : BitVec 512) : State :=
  let s := s.sendSequenced p ftData vc fvcf pay
  (s.modLnk p (fun k => { k with sent := vcPut k.sent vc (vcCount k.sent vc + 1) })).closeBlock p vc

/-- A frame of four messages is sent: the oldest let-flies, or else the oldest of the queue (DESIGN CHOICE, log 32). -/
def State.sendMsgs (s : State) (p vc : Nat) : State :=
  let k := s.lnk p
  let q := match vc with | 0 => k.tx0 | 1 => k.tx1 | _ => k.tx4
  let t := takeMsgs (fun m => vc != 0 || !q.any isFly || isFly m) q
  let k := match vc with
    | 0 => { k with tx0 := t.2 }
    | 1 => { k with tx1 := t.2 }
    | _ => { k with tx4 := t.2 }
  (s.setLnk p k).sendData p vc 0 (msgsPayload t.1)

/-- A flit is sent. -/
def State.sendFlitFrame (s : State) (p vc : Nat) (both : Bool) : State :=
  let k := s.lnk p
  match (if vc = 2 then k.tx2 else k.tx3) with
  | [] => s
  | f :: r =>
    let w := s.roundAfter k vc both
    let k := { k with wrr2 := w.1, wrr3 := w.2 }
    let k := if vc = 2 then { k with tx2 := r } else { k with tx3 := r }
    (s.setLnk p k).sendData p vc f.fvcf (flitBits f.body f.fvcf)

/-- A link-control frame is sent; `LC_REEF_ACK` is the last frame at four lanes (R314). DEDUCED, log 91. -/
def State.sendControl (s : State) (p : Nat) (m : Msg) : State :=
  let s := s.sendPlain p ftLinkctl (msgsPayload [m])
  if lcKind m = 4 then s.modLnk p (fun k => k.retrain k.lanes) else s

/-- A channel other than VC0 has a frame ready, and the chip does not stall (R403). -/
def State.mayCarry (s : State) (p vc : Nat) : Bool := s.ready p vc && !s.rootStalled

/-- `pick_slot` (R293). -/
def State.pickSlot (s : State) (p : Nat) : State :=
  let k := s.lnk p
  let r2 := s.mayCarry p 2
  let r3 := s.mayCarry p 3
  if k.tagDue ∧ k.resend.isEmpty ∧ k.replay.length < 2048 then s.sendTag p
  else
    match k.resend, k.ctl with
    | f :: r, _ => (s.setLnk p { k with resend := r }).putFrame p f
    | [], m :: r => (s.setLnk p { k with ctl := r }).sendControl p m
    | [], [] =>
      if k.nakDue then (s.setLnk p { k with nakDue := false, nakOut := true }).sendPlain p ftNak 0
      else if s.ready p 0 ∧ (k.tx0.any isFly ∨ k.used 0 < 8) then s.sendMsgs p 0
      else if s.mayCarry p 1 then s.sendMsgs p 1
      else if s.mayCarry p 4 ∧ ¬(s.policy 0x30 ≤ k.used 4 ∧ (r2 ∨ r3)) then s.sendMsgs p 4
      else if r2 ∨ r3 then
        s.sendFlitFrame p (if r2 && (!r3 || s.vc2First k) then 2 else 3) (r2 && r3)
      else if k.prot then (if s.canSequence p ∧ k.tagDue = false then (s.sendSequenced p ftIdle 0 0 0).closeBlock p 5 else s)
      else s.sendPlain p ftIdle 0

/-- The next step of the link-control exchange: what is due, `LC_INIT` until one has been received, then `LC_INIT_ACK`. -/
def State.exchangeSlot (s : State) (p : Nat) : State :=
  let k := s.lnk p
  match k.ctl with
  | m :: r => (s.setLnk p { k with ctl := r }).sendPlain p ftLinkctl (msgsPayload [m])
  | [] =>
    if k.peer.isNone then s.sendPlain p ftLinkctl (msgsPayload [k.control p 1])
    else
      let s := s.sendPlain p ftLinkctl (msgsPayload [k.control p 2])
      (s.modLnk p (fun k => { k with ackSent := true })).tryUp p

/-- `FRAME_SLOT` (R293). -/
def execFrameSlot (l : PortNo) (s : State) : Host.Outcome State Fault Refusal :=
  match (s.lnk l).st with
  | .exchange => ok (s.exchangeSlot l)
  | .up => ok (s.pickSlot l)
  | .reefed => ok (s.pickSlot l)
  | _ => ok s

/-! ## Receiving (R283 to R291) -/

/-- The form of a link-control frame. -/
def controlOk (f : Frame) : Bool := fType f != ftLinkctl || lcWellFormed f.pay

/-- A frame reaches a port that is locked. One with a bad codeword, CRC or form is discarded, whichever row brings it; a good one
is taken by the row of its type. Before the link is up, link control alone is heard (DESIGN CHOICE, log 33). -/
def State.receive (s : State) (p : Nat) (f : Frame) (fec : Fec) (mine : Frame → Bool) (act : State → State) : State :=
  let s := match fec with
    | .corrected n => s.bump (cFecCorr p) n
    | _ => s
  let k := s.lnk p
  if !k.locked || !(k.isUp || (k.st == .exchange && fType f == ftLinkctl)) then s
  else if fec = .failed then (s.bump (cFecUncorr p) 1).setLnk p k.reject
  else if fCrc f ≠ (frameCrc f.hdr f.pay).toNat then (s.bump (cCrcErr p) 1).setLnk p k.reject
  else if k.malformed f || !controlOk f then (s.bump (cMalformed p) 1).setLnk p k.reject
  else if mine f then act s else s

/-- A sequenced frame is accepted when it is the one expected (R286). -/
def State.sequence (s : State) (p : Nat) (f : Frame) (act : State → State) : State :=
  let k := s.lnk p
  let d := seqDist k.rxSeq (fSeq f)
  if d = 0 then
    let flit := fType f = ftData ∧ (fVc f = 2 ∨ fVc f = 3)
    if flit ∧ k.orderOk (fVcf f) = false then (s.bump (cMalformed p) 1).setLnk p k.reject
    else
      let k := if flit then k.ordered (fVcf f) else k
      act (s.setLnk p { k with rxSeq := (k.rxSeq + 1) % 4096, nakOut := false })
  else if 2048 ≤ d then s
  else s.setLnk p k.reject

/-- The stream that a transit record forwards: the port on which it goes on (R305). A message in chip-list form and its reports follow no
group's stream (R307). -/
def State.transitPort (s : State) (p vc : Nat) (v : BitVec 50) : Option Nat :=
  match s.group (bits v 38 12) with
  | none => none
  | some g =>
    let here := s.logicalOf p
    let next := if vc = 2 then (g.transits.find? (fun t => t.inPort == here)).map (·.outPort)
      else (g.transits.find? (fun t => t.outPort == here)).map (·.inPort)
    if bit v 11 && bit v 33 then none else next.bind s.physOf

/-- A flit of a collective goes on (R305): the first flit of a contribution takes the mark of a reefed link (R398), and the stream is
remembered. -/
def State.forwardFlit (s : State) (p q vc : Nat) (v : BitVec 50) (pay : BitVec 512) : State :=
  let first := vc == 2 && bits v 12 3 == 0 && bits v 15 3 == 0 && bits v 0 11 == 0
  let x := (bits v 38 12, bits v 26 12, bits v 18 8)
  let s := s.sendFlit vc q { fvcf := v, body := .transit pay (first && (s.lnk p).st == .reefed) }
  if vc = 2 then
    { s with link := { s.link with streams :=
        (x.1, x.2.1, x.2.2, bits v 12 3) :: s.link.streams.filter (fun e => (e.1, e.2.1, e.2.2.1) ≠ x) } }
  else s

/-- A flit of a hoist message goes on once the message is whole, so that no other message of its channel comes between its flits (R282).
DESIGN CHOICE, log 135. -/
def State.forwardHoist (s : State) (p q vc : Nat) (v : BitVec 50) (pay : BitVec 512) : State :=
  if bits v 12 3 = 3 then s.sendFlit vc q { fvcf := v, body := .transit pay false }
  else
    let mine : Nat × BitVec 50 × BitVec 512 → Bool := fun e => e.1 == vc && bits e.2.1 34 4 == bits v 34 4
    let all := (s.lnk p).hbuf ++ [(vc, v, pay)]
    let l := all.filter mine
    let total := match l.head? with | some e => 1 + Config.headerFlits e.2.2 | none => 1
    if l.length < total then s.modLnk p (fun k => { k with hbuf := all })
    else (s.modLnk p (fun k => { k with hbuf := all.filter (fun e => !mine e) })).sendFlits vc q
      (l.map (fun e => { fvcf := e.2.1, body := .transit e.2.2 false }))

/-- A flit for this chip joins its channel's buffer; one of a hoist message that has been taken already goes on to the pool. -/
def Link.takeIn (vc : Nat) (v : BitVec 50) (k : Link) : Link :=
  let chan := bits v 34 4
  let more : Nat × Nat × Nat → Bool := fun e => e.1 == vc && e.2.1 == chan
  if hoistFlit chan v && bits v 12 3 != 1 && k.rest.any more then
    { k with rest := (mapIf more (fun e => (e.1, e.2.1, e.2.2 - 1)) k.rest).filter (fun e => e.2.2 ≠ 0) }.freeBuffer vc
  else
    let k := if vc = 2 then { k with rx2 := k.rx2 ++ [v] } else { k with rx3 := k.rx3 ++ [v] }
    if hoistFlit chan v && bits v 12 3 == 1 then { k with heads := k.heads ++ [(vc, v)] } else k

/-- A frame carries only what the chip root handles in `DOZE` without a wake: heartbeats, let-flies, takeovers (R416). -/
def sleepsThrough (vc : Nat) (pay : BitVec 512) : Bool :=
  vc == 0 && (payloadMsgs pay).all (fun m => m == 0#128 || ctType m == ctHeartbeat || ctType m == ctLetFly || ctType m == ctTakeover)

/-- The content of a `DATA` frame is steered to its channel (R282, R289, R299, R305); in `DOZE` it wakes the block, unless it carries
heartbeats, let-flies and takeovers alone, which wake it where they act on this chip (R416, DEDUCED, log 50). -/
def State.steer (s : State) (p : Nat) (vc : Nat) (v : BitVec 50) (pay : BitVec 512) : State :=
  let s := if sleepsThrough vc pay then s else s.wake
  if vc = 2 ∨ vc = 3 then
    match s.transitPort p vc v with
    | some q =>
      let s := s.modLnk p (fun k => k.freeBuffer vc)
      if bit v 11 then s.forwardHoist p q vc v pay else s.forwardFlit p q vc v pay
    | none => s.modLnk p (Link.takeIn vc v)
  else
    let r := s.sortMsgs p vc (payloadMsgs pay)
    if r.2.isEmpty then r.1.modLnk p (fun k => k.freeBuffer vc)
    else r.1.modLnk p (fun k => k.setRx vc (k.rxOf vc ++ [r.2]))

/-- An accepted `IDLE` or `DATA` frame takes effect: at once, or in protected mode with its block's tag (R318). -/
def State.takeFrame (s : State) (p : Nat) (f : Frame) : State :=
  if (s.lnk p).prot then s.modLnk p (fun k => { k with rxBlock := k.rxBlock ++ [f] })
  else
    let s := s.modLnk p (Link.takeFields f)
    if fType f = ftData then s.steer p (fVc f) (fVcf f) f.pay else s

/-- `IDLE` (R281, R291, R318). -/
def execIdle (l : PortNo) (f : Frame) (fec : Fec) (s : State) : Host.Outcome State Fault Refusal :=
  ok (s.receive l f fec (fun f => fType f == ftIdle) (fun s =>
    if (s.lnk l).prot then s.sequence l f (fun s => s.takeFrame l f) else s.modLnk l (Link.takeFields f)))

/-- `DATA` (R282, R286, R289). -/
def execData (l : PortNo) (f : Frame) (fec : Fec) (s : State) : Host.Outcome State Fault Refusal :=
  ok (s.receive l f fec (fun f => fType f == ftData) (fun s => s.sequence l f (fun s => s.takeFrame l f)))

/-- `NAK` (R287): the frames below the number are acknowledged, and the rest is sent again. On a protected link, where it bears no tag, it
causes a replay and nothing else (R316). -/
def execNak (l : PortNo) (f : Frame) (fec : Fec) (s : State) : Host.Outcome State Fault Refusal :=
  ok (s.receive l f fec (fun f => fType f == ftNak) (fun s =>
    let s := s.wake
    (if (s.lnk l).prot then s else s.modLnk l (Link.takeFields f)).replay l (fAck f)))

/-- Every frame of a block, with its place in it, takes effect. -/
def State.openBlock (s : State) (p : Nat) (x : KeySlot) (ctr : Nat) (l : List Frame) : State :=
  forEach l.zipIdx (fun e s =>
    let s := s.modLnk p (Link.takeFields e.1)
    if fType e.1 = ftData then
      s.steer p (fVc e.1) (fVcf e.1) (gcmPayload x.key x.salt ctr e.2 e.1.pay)
    else s) s

/-- A block has verified under a slot: where that is the new one, the receiver keeps the old one no longer (R319). -/
def State.settleKey (s : State) (p i : Nat) : State :=
  let old := s.keyUse p 1 % 2
  let s := if old = i then s else s.setKeySlot p 1 old (keySlotDefault 0)
  s.setKeyUse p 1 i

/-- A block's tag is checked (R318 to R320). When it fails, the security processor is told, and the frames of the block are expected again
(R313). -/
def State.verifyBlock (s : State) (p : Nat) (f : Frame) : State :=
  let k := s.lnk p
  let ctr := bits f.pay 128 64
  let i := bits f.pay 192 1
  let x := s.keySlot p 1 i
  let tag := gcmTag x.key x.salt ctr (blockAad k.rxBlock) (blockText k.rxBlock)
  let good := x.loaded && bits f.pay 200 8 == k.rxBlock.length && tag == leBytes 16 (bits f.pay 0 128)
  if good then
    let s := (s.setLnk p { k with rxBlock := [], orderBase := k.order }).setKeySlot p 1 i { x with ctr := ctr + 1 }
    ((s.settleKey p i).openBlock p x ctr k.rxBlock).modLnk p (Link.takeFields f)
  else
    let first := match k.rxBlock.head? with | some g => fSeq g | none => fSeq f
    let s := s.setLnk p { k with rxBlock := [], order := k.orderBase, rxSeq := first }
    let s := { s with out := { s.out with security := p :: s.out.security } }
    (s.bump (cGcmFail p) 1).linkDown p 0x42

/-- `GCMTAG` (R318, R320), which is a wake event (R416); a reserved bit of its payload makes it malformed (R15). DEDUCED, log 89. -/
def execGcmtag (l : PortNo) (f : Frame) (fec : Fec) (s : State) : Host.Outcome State Fault Refusal :=
  ok (s.receive l f fec (fun f => fType f == ftGcmtag) (fun s =>
    let s := s.wake
    if bits f.pay 193 7 ≠ 0 ∨ bits f.pay 208 304 ≠ 0 then (s.bump (cMalformed l) 1).modLnk l Link.reject
    else s.sequence l f (fun s => s.verifyBlock l f)))

/-! ## Link control (R279, R298, R313, R314) -/

/-- A link-control frame of a kind. -/
def isControl (kind : Nat) (f : Frame) : Bool := fType f == ftLinkctl && bits f.pay 120 8 == kind

def controlMsg (f : Frame) : Msg := BitVec.ofNat 128 (bits f.pay 0 128)

/-- What a link-control message says of the partner. -/
def Link.learn (m : Msg) (k : Link) : Link := { k with peer := some (lcPort m, lcLlink m, lcProt m, lcDie m) }

/-- The port whose link the partner has moved to its spare `p`: `LC_INIT` there resumes a link that this end has not moved
(R313). -/
def State.movedFrom (s : State) (p : Nat) (m : Msg) : Option Nat :=
  if lcResume m && !(s.lnk p).resume then
    (s.topo.links.find? (fun e => e.2.spare == some p && e.2.peerLlink == lcLlink m)).map (fun e => e.2.phys)
  else none

/-- `LC_INIT` (R279, R313): a port that is up begins the exchange again. -/
def State.takeInit (s : State) (p : Nat) (m : Msg) : State :=
  let s := match s.movedFrom p m with
    | some q => s.movePort q p
    | none => if (s.lnk p).isUp then s.modLnk p (Link.startExchange p) else s
  let k := (s.lnk p).learn m
  let k := if lcResume m then k.acked (lcResumeAck m) else { k with resume := false }
  (s.setLnk p k).tryUp p

/-- `LC_INIT` (R279). -/
def execLcInit (l : PortNo) (f : Frame) (fec : Fec) (s : State) : Host.Outcome State Fault Refusal :=
  ok (s.receive l f fec (isControl 1) (fun s => s.takeInit l (controlMsg f)))

/-- `LC_INIT_ACK` (R279): the link is up once this end has sent one too. -/
def execLcInitAck (l : PortNo) (f : Frame) (fec : Fec) (s : State) : Host.Outcome State Fault Refusal :=
  ok (s.receive l f fec (isControl 2) (fun s =>
    if (s.lnk l).st = .exchange then
      (s.modLnk l (fun k => { (if k.peer.isNone then k.learn (controlMsg f) else k) with ackSeen := true })).tryUp l
    else s))

/-- The acknowledgement and credit fields of a link-control frame on a link that is up (R285, R291); on a protected link it bears no tag, and
they are left alone (R316, R318; DEDUCED, log 87). -/
def State.controlFields (s : State) (l : Nat) (f : Frame) : State :=
  if (s.lnk l).isUp && !(s.lnk l).prot then s.modLnk l (Link.takeFields f) else s

/-- `LC_REEF` (R314): the partner moves the link to the lanes it names; this end confirms, and then retrains. -/
def execLcReef (l : PortNo) (f : Frame) (fec : Fec) (s : State) : Host.Outcome State Fault Refusal :=
  ok (s.receive l f fec (isControl 3) (fun s =>
    let s := s.controlFields l f
    let n := lcLanes (controlMsg f)
    if (s.lnk l).isUp ∧ n ≠ 0 then
      s.modLnk l (fun k =>
        let k := { k with lanes := n }
        { k with ctl := k.ctl ++ [k.control l 4] })
    else s))

/-- `LC_REEF_ACK` (R314): the reef that this end asked for is confirmed, and the port retrains. -/
def execLcReefAck (l : PortNo) (f : Frame) (fec : Fec) (s : State) : Host.Outcome State Fault Refusal :=
  ok (s.receive l f fec (isControl 4) (fun s =>
    let s := s.controlFields l f
    let k := s.lnk l
    if k.st = .up ∧ k.lanes ≠ 0 ∧ lcLanes (controlMsg f) = k.lanes then s.setLnk l (k.retrain k.lanes) else s))

/-! ## Lock, timers and lanes -/

/-- `SUPER_BLOCK_LOCK` (R277 to R279): four super-blocks with the marker in place; a port that trains begins the exchange, and one that
had lost lock accepts frames again. -/
def execSuperBlockLock (l : BlocksAt) (s : State) : Host.Outcome State Fault Refusal :=
  let k := s.lnk l.port
  if markersOk l.blocks = false then ok s else
  match k.st with
  | .training => ok (s.setLnk l.port (Link.startExchange l.port { k with locked := true }))
  | .retraining =>
    if s.mh.cals.contains l.port then ok s else ok (s.setLnk l.port (Link.startExchange l.port { k with locked := true }))
  | .down => ok s
  | _ => ok (s.setLnk l.port { k with locked := true })

/-- `ALIGNMENT_LOCK_LOSS` (R288): the port accepts no frame. -/
def execAlignmentLockLoss (l : PortNo) (s : State) : Host.Outcome State Fault Refusal :=
  ok (s.modLnk l (fun k => { k with locked := false }))

/-- `LOCK_LOSS_TIMEOUT` (R288): a link that has not regained lock goes down. -/
def execLockLossTimeout (l : PortNo) (s : State) : Host.Outcome State Fault Refusal :=
  let k := s.lnk l
  if k.isUp ∧ k.locked = false then ok (s.linkDown l 0x41) else ok s

/-- `NAK_REPEAT_TIMER` (R286): the expected frame has not been accepted since the last `NAK`. -/
def execNakRepeatTimer (l : PortNo) (s : State) : Host.Outcome State Fault Refusal :=
  let k := s.lnk l
  if k.isUp ∧ k.nakOut then ok (s.setLnk l { k with nakDue := true, nakOut := false }) else ok s

/-- `REPLAY_TIMEOUT` (R287, R288). -/
def execReplayTimeout (l : PortNo) (s : State) : Host.Outcome State Fault Refusal :=
  let k := s.lnk l
  if k.isUp ∧ k.replay ≠ [] then ok (s.replay l k.txAck) else ok s

/-- A lane of a port is in use. -/
def Link.uses (k : Link) (lane : Nat) : Bool :=
  match k.lanes with
  | 0 => true
  | 1 => decide (lane < 2)
  | _ => decide (2 ≤ lane)

/-- `LANE_FAILURE` (R312, R384): the link moves to a spare, is reefed through `LC_REEF`, or is lost. A lane that is not in use, or
that has failed before, costs nothing more. -/
def execLaneFailure (l : PortNo) (lane : Fin 4) (s : State) : Host.Outcome State Fault Refusal :=
  let k := s.lnk l
  if k.badLanes.contains lane then ok s
  else
    let k := { k with badLanes := k.badLanes ++ [lane.val] }
    let s := s.setLnk l k
    if k.isUp = false ∨ k.uses lane = false then ok s
    else
      let post : PortReply → State → State := fun r s => s.portFault 0x40 6 (4 * l + lane) (fun q => 4 * q + lane) r
      match s.spareFor l, k.lanes, k.healthyPair with
      | none, 0, some n =>
        let k := { k with lanes := n }
        ok (post .reefed (s.setLnk l { k with ctl := k.ctl ++ [k.control l 3] }))
      | _, _, _ =>
        let r := s.respondPort l
        let s := post r.2 r.1
        match r.2 with
        | .lost _ => ok ((s.bump (cLinkDown l) 1).sendReport 0x41 (s.logicalOf l))
        | _ => ok s

/-- `LINK_UP_TIMEOUT` (R419, R386): a declared link that is not up after an exit from `RETAIN` is handled, and reported to every chip. -/
def execLinkUpTimeout (l : PortNo) (s : State) : Host.Outcome State Fault Refusal :=
  if s.mh.linksDue ∧ (s.lnk l).isUp = false ∧ (s.declOn l).isSome then
    let llink := s.logicalOf l
    let r := s.respondPort l
    ok ((r.1.portFault 0x41 7 l id r.2).sendReport 0x41 llink)
  else ok s

/-- `KEY_LOAD` (R317, R319): the slot takes the key and salt, with its counter at 0; a slot other than the one in use is switched to
at the next block boundary. DEDUCED, log 58. -/
def execKeyLoad (l : PortNo) (rx : Bool) (slot : Fin 2) (key : BitVec 256) (salt : Word32) (s : State) :
    Host.Outcome State Fault Refusal :=
  let dir := flag rx
  let u := s.keyUse l dir
  if s.power.rail then
    let s := s.setKeySlot l dir slot { key := key, salt := salt, ctr := 0, loaded := true }
    ok (if rx ∨ u % 2 = slot.val then s else s.setKeyUse l dir (u % 2 + 2))
  else ok s

end Sys2Proof.Machine
end

