-- ==== Sys2Proof/Machine/Control.lean ====
section
/-! DEFINITION. VC0: let-fly, heartbeats and takeovers, fault reports, the loss of a chip, and Masthead's relays (R273, R299 to R311,
R345, R353, R385, R430). -/

namespace Sys2Proof.Machine

open Sys2Proof

/-! ## The distance table (R273) -/

/-- Entries of the distance table are rewritten; `DT_GEN` passes through an odd value. -/
def State.publish (s : State) (gs : List Nat) : State :=
  if s.topo.dtPub then
    let base := s.inp.regions.dist
    let s := { s with topo := { s.topo with dtGen := s.topo.dtGen + 2 } }
    let s := forEach gs (fun g s => store s (base + 64 + 8 * g) (s.dtEntry g)) s
    store s base (wordBytes 4 s.topo.dtGen)
  else s

/-- The whole table is written, header and entries. -/
def State.publishAll (s : State) : State :=
  let s := { s with topo := { s.topo with dtGen := s.topo.dtGen + 2 } }
  let bytes := wordBytes 4 s.topo.dtGen ++ List.replicate 60 0 ++ (List.range 4096).flatMap (fun g => s.dtEntry g)
  let s := store s s.inp.regions.dist bytes
  { s with topo := { s.topo with dtPub := true } }

/-! ## Let-fly (R300, R356, R430) -/

/-- What a let-fly covers: `LF_SCOPE` with bit 3 collectives, 2 tell-tale, 1 hoist, 0 fairlead and combine; and its contexts. -/
structure Fly where
  scope : Nat
  allCtx : Bool
  ctx : Nat
  deriving DecidableEq, Repr

/-- A context is selected. -/
def Fly.selects (f : Fly) (c : Nat) : Bool := f.allCtx || f.ctx == c

/-- A collective is covered: by bit 3, and a `ROUTE` by bit 0 as well. -/
def Fly.coversColl (f : Fly) (c : Coll) : Bool :=
  f.selects c.ctx && (f.scope.testBit 3 || (f.scope.testBit 0 && (shapeOf c.defn).route))

/-- The whole chip's let-fly (R385). -/
def Fly.every : Fly := { scope := 15, allCtx := true, ctx := 0 }

/-- A let-fly takes effect on this chip (R163, R207, R224, R241, R267, R430); a cinch has a cause to be abandoned (Table 12-4). -/
def State.applyFly (s : State) (f : Fly) : State :=
  let s := s.flyColls f.coversColl
  let s := if f.scope.testBit 3 then s.flyFlits f.selects else s
  let s := if f.scope.testBit 2 then s.flyTellTale else s
  let s := if f.scope.testBit 1 then s.flyHoist else s
  let s := if f.scope.testBit 0 then s.stopCombs (fun o => f.selects (dCtx o.desc)) (some .aborted) else s
  s.cutReason 5

/-- The let-fly message (Table 10-8). -/
def flyMsg (chip id : Nat) (f : Fly) : Msg :=
  ctlMsg ctLetFly chip everyChip
    [(74, 16, id), (70, 4, f.scope), (69, 1, flag f.allCtx), (57, 12, if f.allCtx then 0 else f.ctx)]

/-- This chip issues a let-fly: it drives its own wire, and sends the message on every up link. -/
def State.issueFly (s : State) (f : Fly) : State :=
  let id := s.mh.lfId
  let s := { s with mh := { s.mh with lfId := (id + 1) % 65536 } }
  let s := { s with link := { s.link with flySeen := ((s.topo.chip, id) :: s.link.flySeen).take 64 } }
  (s.applyFly f).flood (flyMsg s.topo.chip id f) none

/-- What a message says. -/
def flyOf (m : Msg) : Fly := { scope := bits m 70 4, allCtx := bit m 69, ctx := bits m 57 12 }

/-- The oldest let-fly of a receive buffer, with the buffer without it: it is acted on when its frame passes its check, whatever stands
before it (R300). -/
def takeFly : List (List Msg) → Option (Msg × List (List Msg) × Bool)
  | [] => none
  | f :: fs =>
    match f.find? isFly with
    | some m =>
      let r := f.erase m
      if r.isEmpty then some (m, fs, true) else some (m, r :: fs, false)
    | none => (takeFly fs).map (fun x => (x.1, f :: x.2.1, x.2.2))

/-- A let-fly wakes a chip in `DOZE` when it acts on what the chip may hold there: words, channels, receives (R416, DEDUCED, log 50). -/
def State.wakeFor (s : State) (f : Fly) : State := if f.scope.testBit 2 || f.scope.testBit 1 then s.wake else s

/-- `LET_FLY_MESSAGE` (R300, R430). -/
def execLetFlyMessage (l : PortNo) (s : State) : Host.Outcome State Fault Refusal :=
  match takeFly (s.lnk l).rx0 with
  | none => ok s
  | some (m, rest, freed) =>
    let s := s.modLnk l (fun k => if freed then (k.setRx 0 rest).freeBuffer 0 else k.setRx 0 rest)
    let pair := (ctSrc m, bits m 74 16)
    if s.link.flySeen.contains pair then ok s
    else
      let s := { s with link := { s.link with flySeen := (pair :: s.link.flySeen).take 64 } }
      ok (((s.wakeFor (flyOf m)).applyFly (flyOf m)).flood m (some l.val))

/-! ## Standby takeover (R308 to R311) -/

/-- Groups with the records of a fold node. -/
def State.groupsWith (s : State) (t : FoldRec → Bool) : List (Nat × Group) :=
  s.topo.groups.filter (fun e => e.2.folds.any t)

/-- What had come to a channel at a node moves on from the standby (R310). -/
def State.resumeChannel (fnid : BitVec 21) (ch : Nat) (s : State) : State :=
  let x := s.chan ch
  match x.st, s.group x.group with
  | .armed, some g =>
    match g.folds.find? (fun r => r.fnid == fnid) with
    | none => s
    | some r =>
      let s := s.checkPrewarn ch g
      match (s.chan ch).nodeTotal r with
      | none => s
      | some n => if r.parent = 0xFFFF then s.releaseAtRoot ch g else s.countUp ch g 8 (some r) n
  | _, _ => s

/-- Every output stream in flight through the node is sent again, collectives, hoist messages and barrier counts (R310). -/
def State.resumeNode (fnid : BitVec 21) (s : State) : State :=
  let s := forEach s.ops.colls (fun c s =>
    match s.group c.group with
    | none => s
    | some g =>
      if g.folds.any (fun r => r.fnid == fnid) then
        let s := match c.down with
          | some m => s.relayDown g (downFlits (some { c with pass := c.pass - 1 }) c.group c.ctx c.epoch m)
          | none => s
        s.advance c.ctx c.epoch g
      else s) s
  (forEach (s.tt.chans.map (·.1)) (State.resumeChannel fnid) s).resendCopied fnid

/-- A fold node passes to its standby, as far as this chip is concerned. -/
def State.switchNode (s : State) (fnid : BitVec 21) : State :=
  if s.topo.takenOver.contains fnid then s
  else
    let s := { s with topo := { s.topo with takenOver := s.topo.takenOver ++ [fnid] } }
    s.publish ((s.groupsWith (fun r => r.fnid == fnid)).map (·.1))

/-- The chips of the same subtree of a fold node's level have these bits of their numbers in common (R26). -/
def subtreeOf (level chip : Nat) : Nat := if level = 5 then chip / 16 else if level = 6 then chip / 512 else 0

/-- The input of a fold node hosted here that takes the output of a node whose standby has taken over. The record of that node is not here: in
the same level the next round's index says which input it is, and above it the input comes from a chip of the standby's own subtree.
DESIGN CHOICE, log 124. -/
def State.parentInput (s : State) (fnid : BitVec 21) (standby : Nat) : Option (FoldRec × Nat) :=
  let level := bits fnid 6 3
  let rank := bits fnid 4 5
  let index := bits fnid 0 4
  let fits : FoldRec → FoldInput × Nat → Bool := fun r e =>
    if r.level = level then
      r.round == bits fnid 4 2 + 1 && bits r.fnid 0 4 == index / 4 && e.2 == index % 4
    else subtreeOf level e.1.child == subtreeOf level standby
  match s.group (bits fnid 9 12) with
  | none => none
  | some g => (sortBy FoldRec.rank ((s.hosted g).filter (fun r => decide (rank < r.rank)))).findSome? (fun r =>
      (r.ins.zipIdx.find? (fits r)).map (fun e => (r, e.2)))

/-- An input of a fold node here comes from a standby from now on (R309). -/
def State.rehome (s : State) (r : FoldRec) (j port chip : Nat) : State :=
  let x : Rehomed := { fnid := r.fnid, input := j, port := port, chip := chip }
  { s with topo := { s.topo with rehomed := x :: s.topo.rehomed.filter (fun h => !(h.fnid == r.fnid && h.input == j)) } }

/-- A node that this chip has taken over feeds a node that it hosts as well: that input is on this chip now. -/
def State.rehomeOwn (s : State) (r : FoldRec) : State :=
  match s.group (bits r.fnid 9 12) with
  | none => s
  | some g =>
    match s.nextNode g (some r) with
    | some (q, j, _) => if s.hostOf q = s.topo.chip then s.rehome q j 0xFF s.topo.chip else s
    | none => s

/-- This chip takes over a fold node: it tells the far end of each input and output, and goes on. DESIGN CHOICE, log 83. DESIGN CHOICE, log 113. -/
def State.takeOver (r : FoldRec) (s : State) : State :=
  let dests := uniq ((r.ins.map (·.child) ++ (if r.parent = 0xFFFF then [] else [r.parent])).filter (fun c => c ≠ s.topo.chip))
  let s := (s.switchNode r.fnid).rehomeOwn r
  let s := forEach dests (fun c s => s.sendMsg 0 c (ctlMsg ctTakeover s.topo.chip c [(69, 21, r.fnid.toNat)])) s
  let s := s.event 0x0103 (leBytes 4 r.fnid.toNat ++ [1])
  s.resumeNode r.fnid

/-- The fold nodes for which this chip stands by, and whose primary is the chip given. -/
def State.standbyFor (s : State) (primary : Nat) : List FoldRec :=
  s.topo.groups.flatMap (fun e => e.2.folds.filter (fun r =>
    r.host == primary && r.standby == s.topo.chip && !s.topo.takenOver.contains r.fnid))

/-- The standby chips of the fold nodes that this chip hosts as their primary. -/
def State.standbyChips (s : State) : List Nat :=
  uniq ((s.topo.groups.flatMap (fun e => e.2.folds.filter (fun r =>
    r.host == s.topo.chip && r.standby != 0xFFFF && r.standby != s.topo.chip && !s.topo.takenOver.contains r.fnid))).map (·.standby))

/-- `HEARTBEAT_SEND` (R309). -/
def execHeartbeatSend (s : State) : Host.Outcome State Fault Refusal :=
  if s.topo.rigValid ∧ s.standbyChips ≠ [] then
    let q := s.link.hbSeq
    let s := { s with link := { s.link with hbSeq := (q + 1) % 65536 } }
    ok (forEach s.standbyChips (fun c s => s.sendMsg 0 c (ctlMsg ctHeartbeat s.topo.chip c [(74, 16, q)])) s)
  else ok s

/-- `HEARTBEAT` (R309): noted by the standby, or forwarded. -/
def execHeartbeat (l : PortNo) (s : State) : Host.Outcome State Fault Refusal :=
  ok (s.onMsg l 0 (fun m => ctType m == ctHeartbeat) (fun m s => s.consumeOrForward 0 (ctDst m) m (fun s =>
    { s with link := { s.link with hbSeen := s.link.hbSeen.put (ctSrc m) (bits m 74 16) } })))

/-- `HEARTBEAT_MISSING` (R309, R386): the standby takes over every node of the primary, and reports it. -/
def execHeartbeatMissing (primary : Fin 32768) (s : State) : Host.Outcome State Fault Refusal :=
  match s.standbyFor primary with
  | [] => ok s
  | rs =>
    let link := ((rs.head?.bind (fun r => r.ins.head?)).map (·.sblink)).getD 0
    ok ((forEach rs State.takeOver s).sendReport 0x48 link)

/-- `TAKEOVER` (R309, R310): from now on the node's frames come from the standby, at the chips that it feeds and at the one that feeds it. -/
def execTakeover (l : PortNo) (s : State) : Host.Outcome State Fault Refusal :=
  ok (s.onMsg l 0 (fun m => ctType m == ctTakeover) (fun m s => s.consumeOrForward 0 (ctDst m) m (fun s =>
    let fnid := BitVec.ofNat 21 (bits m 69 21)
    let s := s.wake
    let s := if (s.groupsWith (fun r => r.fnid == fnid)).isEmpty then s else s.switchNode fnid
    match s.parentInput fnid (ctSrc m) with
    | some (r, j) => s.rehome r j (s.logicalOf l) (ctSrc m)
    | none => s)))

/-! ## The loss of a chip (R173, R311, R385 code 0x48) -/

/-- A fold node is lost with a chip: its host is gone and no standby is left, or the chip sends one of its inputs. An input that another
fold node sends may still come from that node's standby: it counts only when the chip stays away (`last`; DESIGN CHOICE, log 124). -/
def State.nodeLost (s : State) (chip : Nat) (last : Bool) (r : FoldRec) : Bool :=
  ((s.hostOf r == chip || s.topo.lostChips.contains (s.hostOf r)) && !s.spareAlive r) ||
    ((last || r.rank == 20) && r.ins.zipIdx.any (fun e => s.inputChip r e.2 e.1 == chip))

/-- A collective that the loss of a chip ends. -/
def State.lostColl (s : State) (chip : Nat) (last : Bool) (c : Coll) : Bool :=
  match s.group c.group with
  | none => false
  | some g => g.folds.any (s.nodeLost chip last)

/-- Acknowledged remote signals to a failed chip complete with `FAULT` (R173). -/
def State.failSignals (s : State) (chip : Nat) : State :=
  let mine : Flight → Bool := fun f => (match f.via with | .remote _ => true | .posted => true | _ => false) && cChip f.cmd == chip
  let gone := s.tt.flights.filter mine
  let s := { s with tt := { s.tt with flights := s.tt.flights.filter (fun f => !mine f) } }
  (forEach (gone.filter (fun f => cResponds f.cmd)) (fun f s => s.answer (f.issuer.toNat % 1024) .fault 1 (cTarget f.cmd) 0) s).flush

/-- A chip is lost: standbys take over, collectives through what is lost end with `FAULT`, and the job restores. `last` says that every link
to it has stayed down. -/
def State.loseChip (s : State) (chip : Nat) (last : Bool) : State :=
  let spares := (s.topo.groups.flatMap (fun e => e.2.folds)).filter (fun r => s.hostOf r == s.topo.chip && r.standby == chip)
  let s := { s with topo := { s.topo with lostChips := uniq (chip :: s.topo.lostChips) } }
  let s := forEach (s.standbyFor chip) State.takeOver s
  let ctxs := s.hitContexts (s.lostColl chip last)
  let s := s.postFault 0x48 14 chip (if ctxs.isEmpty then 0 else 8) 0xFFFF 0
  let s := forEach spares (fun r s => s.event 0x0103 (leBytes 4 r.fnid.toNat ++ [0])) s
  let s := (s.faultColls (s.lostColl chip last)).failSignals chip
  (s.cutReason 6).postRestore chip (if ctxs.isEmpty then 0xFFFF else oneContext ctxs)

/-- `CHIP_LOST` (R311, R385): every link to a present chip has been down for 20,000 SPCLK cycles. -/
def execChipLost (chip : Fin 32768) (s : State) : Host.Outcome State Fault Refusal :=
  let ls := s.topo.links.filter (fun e => e.2.peer == chip.val)
  if s.isPresent chip ∧ ls ≠ [] ∧ ls.all (fun e => !(s.lnk e.2.phys).isUp) then ok (s.loseChip chip true) else ok s

/-! ## `FAULT_REPORT` (R301, R309, R386) -/

/-- A fault report names the loss of a link of a primary for which this chip stands by. -/
def State.reportHits (s : State) (m : Msg) : List FoldRec :=
  let l := bits m 79 3
  if bits m 82 8 = 0x41 then
    (s.standbyFor (ctSrc m)).filter (fun r => (r.out == l && r.parent != 0xFFFF) || r.ins.any (fun i => i.hlink == l && i.child != r.host))
  else []

/-- This chip's Masthead is handed a fault report. -/
def State.hearReport (s : State) (m : Msg) : State :=
  let code := bits m 82 8
  let s := s.postFault code 14 (ctSrc m) 0 0xFFFF 0
  if 1 ≤ code ∧ code ≤ 4 then s.loseChip (ctSrc m) false else forEach (s.reportHits m) State.takeOver s

/-- `FAULT_REPORT`. -/
def execFaultReport (l : PortNo) (s : State) : Host.Outcome State Fault Refusal :=
  ok (s.onMsg l 0 (fun m => ctType m == ctFaultReport) (fun m s =>
    if ctDst m = everyChip then
      let pair := (ctSrc m, bits m 63 16)
      if s.link.repSeen.contains pair then s
      else (({ s with link := { s.link with repSeen := (pair :: s.link.repSeen).take 64 } }).flood m (some l.val)).hearReport m
    else s.consumeOrForward 0 (ctDst m) m (fun s => s.hearReport m)))

/-! ## `MH_RELAY` (R345, R353) -/

def mrKind (m : Msg) : Nat := bits m 82 8
def mrData (m : Msg) : Word64 := BitVec.ofNat 64 (bits m 0 64)

/-- A relay message to another chip's Masthead. -/
def State.relayTo (s : State) (chip kind data : Nat) : State :=
  s.sendMsg 0 chip (ctlMsg ctRelay s.topo.chip chip [(82, 8, kind), (0, 64, data)])

/-- A relay message of a kind that this chip's Masthead acts on, or that goes on. -/
def State.onRelay (s : State) (l kind : Nat) (f : Msg → State → State) : State :=
  s.onMsg l 0 (fun m => ctType m == ctRelay && mrKind m == kind) (fun m s => s.consumeOrForward 0 (ctDst m) m (f m))

/-- `FEED_QUERY`: the partner answers with its power-feed identifier. -/
def execFeedQuery (l : PortNo) (s : State) : Host.Outcome State Fault Refusal :=
  ok (s.onRelay l 1 (fun m s => s.relayTo (ctSrc m) 2 s.inp.regions.feed.toNat))

/-- A relay waits for this chip's identifier. -/
def Relay.feedFrom (chip : Nat) : Relay → Bool
  | .feed _ _ p => p.chip == chip
  | .words _ _ _ _ _ _ => false

/-- A relay waits for words of this chip. -/
def Relay.wordsFrom (chip : Nat) : Relay → Bool
  | .feed _ _ _ => false
  | .words _ _ c _ _ _ => c == chip

def State.dropRelay (s : State) (r : Relay) : State := { s with mh := { s.mh with relay := s.mh.relay.erase r } }

/-- `FEED_REPLY`: the pairing is in force (R345). -/
def execFeedReply (l : PortNo) (s : State) : Host.Outcome State Fault Refusal :=
  ok (s.onRelay l 2 (fun m s =>
    match s.mh.relay.find? (Relay.feedFrom (ctSrc m)) with
    | some (.feed slot seq p) =>
      let same := bits m 0 32 == s.inp.regions.feed.toNat
      let s := s.dropRelay (.feed slot seq p)
      let s := { s with pol := { s.pol with partner := some { p with sameFeed := same } } }
      s.respond (if same then 0x8002 else 0x8001) 0x0015 seq.toNat slot 0xFFFF []
    | _ => s))

/-- `WORD_READ_RELAY`: both parts of a word are sent back, the architectural part first (DEDUCED, log 34). -/
def execWordReadRelay (l : PortNo) (s : State) : Host.Outcome State Fault Refusal :=
  ok (s.onRelay l 3 (fun m s =>
    let w := bits m 0 16
    let a := if wordIndex w < 768 then (s.word w).arch.toNat else 0
    let b := if wordIndex w < 768 then (s.shadowWord w).toNat else 0
    (s.relayTo (ctSrc m) 4 a).relayTo (ctSrc m) 4 b))

/-- `WORD_READ_REPLY`: the parts come in order, and the last one completes the command (R353). -/
def execWordReadReply (l : PortNo) (s : State) : Host.Outcome State Fault Refusal :=
  ok (s.onRelay l 4 (fun m s =>
    match s.mh.relay.find? (Relay.wordsFrom (ctSrc m)) with
    | some (.words slot seq chip first count parts) =>
      let parts := parts ++ [mrData m]
      if parts.length < 2 * count then
        let old : Relay := .words slot seq chip first count parts.dropLast
        { s with mh := { s.mh with relay := mapIf (fun r => r == old) (fun _ => .words slot seq chip first count parts) s.mh.relay } }
      else
        (s.dropRelay (.words slot seq chip first count parts.dropLast)).respond 0x8001 0x0042 seq.toNat slot 0xFFFF
          (parts.flatMap (wordBytes 8))
    | _ => s))

/-- `RELAY_TIMEOUT` (R345, R353): the oldest relay without its reply is refused with `ESTATE`. -/
def execRelayTimeout (s : State) : Host.Outcome State Fault Refusal :=
  match s.mh.relay with
  | [] => ok s
  | .feed slot seq p :: _ => ok ((s.dropRelay (.feed slot seq p)).respond 0x8012 0x0015 seq.toNat slot 16 [])
  | .words slot seq chip first count parts :: _ =>
    ok ((s.dropRelay (.words slot seq chip first count parts)).respond 0x8012 0x0042 seq.toNat slot 18 [])

end Sys2Proof.Machine
end

