-- ==== Sys2Proof/Machine/Mailbox.lean ====
section
/-! DEFINITION. The mailbox: how Masthead takes a rung slot, checks a command and answers it (R326 to R332); the session, debug unlock
and firmware commands (R333, R334, R359). -/

namespace Sys2Proof.Machine

open Sys2Proof

/-! ## Commands (Table 11-4) -/

/-- A command as Masthead has copied it. -/
structure Cmd where
  slot : Nat
  code : Nat
  len : Nat
  seq : BitVec 32
  bytes : List Byte
  deriving DecidableEq, Repr

/-- The number in `n` bytes of a slot from an offset. -/
def Cmd.nat (c : Cmd) (ofs n : Nat) : Nat := leNat ((c.bytes.drop ofs).take n)

/-- Bytes of a slot are all 0. -/
def Cmd.zero (c : Cmd) (ofs n : Nat) : Bool := c.nat ofs n == 0

/-- The command that a slot holds. -/
def State.slotCmd (s : State) (n : Nat) : Cmd :=
  let b := (List.range 256).map (fun i => Tbl.get byteDefault s.win.slots (256 * n + i))
  { slot := n, code := leNat (b.take 2), len := leNat ((b.drop 2).take 2), seq := BitVec.ofNat 32 (leNat ((b.drop 4).take 4)), bytes := b }

/-- Mailbox statuses (Table 11-6). -/
def rsAccepted : Nat := 0x8000
def rsDone : Nat := 0x8001
def rsSameFeed : Nat := 0x8002
def rsEinval : Nat := 0x8010
def rsNoSpare : Nat := 0x8011
def rsEstate : Nat := 0x8012
def rsEperm : Nat := 0x8013
def rsErange : Nat := 0x8014
def rsEnospc : Nat := 0x8015

/-- A refusal: its status, the offset that `RS_ERRFIELD` names, and the response's body. -/
structure Deny where
  status : Nat
  field : Nat
  data : List Byte
  deriving DecidableEq, Repr

/-- A condition that refuses, with its status and field. -/
abbrev Check := Bool × Deny

def invalid (bad : Bool) (field : Nat) : Check := (bad, { status := rsEinval, field := field, data := [] })
def outOfRange (bad : Bool) (field : Nat) : Check := (bad, { status := rsErange, field := field, data := [] })
def wrongState (bad : Bool) (field : Nat) : Check := (bad, { status := rsEstate, field := field, data := [] })

/-- A refusal of data in memory: the address field, and the offset in the data (R331). -/
def invalidAt (bad : Bool) (field ofs : Nat) : Check := (bad, { status := rsEinval, field := field, data := leBytes 4 ofs })
def rangeAt (bad : Bool) (field ofs : Nat) : Check := (bad, { status := rsErange, field := field, data := leBytes 4 ofs })

/-- The first condition that refuses. -/
def firstDeny (l : List Check) : Option Deny := (l.find? (·.1)).map (·.2)

/-! ## Taking a slot (R327, R328) -/

/-- The rung slot that is taken next: a `LET_FLY` ahead of every other. -/
def State.nextSlot (s : State) : Option Nat :=
  match s.win.rung.find? (fun n => (s.slotCmd n).code = 0x60) with
  | some n => some n
  | none => s.win.rung.head?

/-- Masthead takes a slot when it runs and the ring has room. -/
def State.takes (s : State) (n : Nat) : Bool :=
  s.mh.ready && !s.mh.halted && s.nextSlot == some n && decide (4 + flag s.mh.long.isSome < s.win.freeEntries)

/-- `SLOT_BUSY` is cleared. -/
def State.take (s : State) (n : Nat) : State := { s with win := { s.win with rung := s.win.rung.erase n } }

/-- A final response of a command. -/
def State.reply (s : State) (c : Cmd) (status : Nat) (body : List Byte) : State :=
  s.respond status c.code c.seq.toNat c.slot 0xFFFF body

def State.deny (s : State) (c : Cmd) (d : Deny) : State := s.respond d.status c.code c.seq.toNat c.slot d.field d.data

/-- The codes of Table 11-7. -/
def knownCodes : List Nat :=
  [0x01, 0x10, 0x11, 0x12, 0x13, 0x14, 0x15, 0x16, 0x17, 0x20, 0x21, 0x30, 0x31, 0x40, 0x41, 0x42, 0x43, 0x44, 0x50, 0x60, 0x70]

/-- The long command in progress belongs to the second "during" column of Table 11-9. -/
def LongKind.mild : LongKind → Bool
  | .test _ _ => true
  | .cal _ => true
  | .fwLoad => true
  | _ => false

/-- Table 11-9: the state columns. -/
def stateAccepts (st : MhState) (code target : Nat) : Bool :=
  match st with
  | .boot => false
  | .idle => [0x01, 0x10, 0x16, 0x30, 0x31, 0x11, 0x40, 0x41, 0x44, 0x42, 0x43, 0x50, 0x70].contains code
  | .configured => knownCodes.contains code
  | .lowPower => [0x01, 0x11, 0x40, 0x41, 0x44, 0x70].contains code
  | .fatal => [0x01, 0x11, 0x40, 0x41, 0x44, 0x42, 0x43, 0x50].contains code || (code == 0x70 && target == 3)

/-- Table 11-9: the columns that hold during a long command. -/
def duringAccepts (mild : Bool) (code : Nat) : Bool :=
  if mild then [0x01, 0x12, 0x13, 0x14, 0x15, 0x17, 0x16, 0x11, 0x40, 0x41, 0x44, 0x42, 0x43, 0x60].contains code
  else [0x01, 0x11, 0x40, 0x41, 0x44, 0x42, 0x43, 0x60].contains code

/-- Step 2 of R331 passes. -/
def Masthead.accepts (m : Masthead) (code target : Nat) : Bool :=
  (m.hello || code == 0x01) && stateAccepts m.st code target &&
    (match m.long with
     | some l => duringAccepts l.kind.mild code || (m.st == .fatal && code == 0x70)
     | none => true)

/-- Steps 1 to 3 of R331 that every command passes. -/
def State.commonChecks (s : State) (c : Cmd) (len : Nat) : List Check :=
  [invalid (!c.zero 8 8) 8,
   (!s.mh.accepts c.code (c.nat 16 1), { status := rsEstate, field := 0xFFFF, data := [] }),
   invalid (c.len != len) 2]

/-- Masthead takes the slot of a row that names it, when the slot is next and holds the row's command: the checks in the order of R331,
then the command. A command code that is not in Table 11-7 is refused by whichever row takes the slot (DESIGN CHOICE, log 35). -/
def State.command (s : State) (n code : Nat) (mine : Cmd → Bool) (len : Cmd → Nat) (checks : State → Cmd → List Check)
    (run : Cmd → State → State) : State :=
  if s.takes n then
    let c := s.slotCmd n
    if !knownCodes.contains c.code then (s.take n).deny c { status := rsEinval, field := 0, data := [] }
    else if c.code ≠ code ∨ mine c = false then s
    else
      match firstDeny (s.commonChecks c (len c) ++ checks s c) with
      | some d => (s.take n).deny c d
      | none => run c (s.take n)
  else s

/-- A command without checks of its own. -/
def noChecks (_ : State) (_ : Cmd) : List Check := []

/-- Every slot of a command's code belongs to the row. -/
def anyCmd : Cmd → Bool := fun _ => true

/-- A long command is accepted (R330). -/
def State.startLong (s : State) (c : Cmd) (k : LongKind) : State :=
  let s := s.reply c rsAccepted []
  { s with mh := { s.mh with long := some { kind := k, slot := c.slot, seq := c.seq, cmd := c.code } } }

/-! ## `HELLO` (R333, R334) -/

/-- What the firmware slots hold at first. -/
def versDefault : Nat → BitVec 32 × BitVec 32 := fun i => if i = 0 then (Config.fwVersion, Config.fwSecVersion) else (0, 0)

/-- The version and security version of a firmware slot. -/
def State.versions (s : State) (slot : Nat) : BitVec 32 × BitVec 32 := Tbl.get versDefault s.sec.vers slot

/-- The response body of `HELLO` (Table 11-10). -/
def State.helloBody (s : State) (challenge : List Byte) : List Byte :=
  let v := s.versions s.sec.run
  wordBytes 8 Config.dieId ++ wordBytes 4 v.1 ++ wordBytes 4 v.2 ++ leBytes 2 (if s.topo.rigValid then s.topo.chip else 0xFFFF) ++
    leBytes 2 0 ++ wordBytes 4 s.inp.regions.feed ++ challenge ++ List.replicate (48 - challenge.length) 0

def helloFunc (c : Cmd) : Nat := c.nat 16 1

/-- The row takes a `HELLO` of its function; a reserved function is refused by any of the four rows. -/
def helloMine (f : Nat) (c : Cmd) : Bool := helloFunc c == f || decide (3 < helloFunc c)

def helloLen (c : Cmd) : Nat := if helloFunc c = 2 then 104 else 8

/-- Step 4 of R331 for `HELLO`. DEDUCED, log 97. -/
def helloChecks (_ : State) (c : Cmd) : List Check :=
  [invalid (decide (3 < helloFunc c)) 16, invalid (c.nat 17 1 != (if helloFunc c = 2 then 1 else 0)) 17,
   invalid (c.nat 18 2 != 1) 18, invalid (!c.zero 20 4) 20]

/-- `HELLO` function 0 (R333). -/
def execHello (n : SlotNo) (s : State) : Host.Outcome State Fault Refusal :=
  ok (s.command n 0x01 (helloMine 0) helloLen helloChecks (fun c s =>
    ({ s with mh := { s.mh with hello := true }, win := { s.win with evLost := 0 } }).reply c rsDone (s.helloBody [])))

/-- `HELLO` function 1: a challenge with the security processor's nonce (R334). -/
def execDebugChallenge (n : SlotNo) (nonce : BitVec 288) (s : State) : Host.Outcome State Fault Refusal :=
  ok (s.command n 0x01 (helloMine 1) helloLen helloChecks (fun c s =>
    let ch := wordBytes 8 Config.dieId ++ wordBytes 4 s.sec.unlockCtr ++ wordBytes 36 nonce
    ({ s with sec := { s.sec with challenge := true } }).reply c rsDone (s.helloBody ch)))

/-- `HELLO` function 2: the security processor verifies the signature against the open challenge, at most three times in vain
(R334). DEDUCED, log 96. -/
def execDebugResponse (n : SlotNo) (verified : Bool) (s : State) : Host.Outcome State Fault Refusal :=
  ok (s.command n 0x01 (helloMine 2) helloLen helloChecks (fun c s =>
    let tried := decide (s.sec.attempts < 3)
    if tried && s.sec.challenge && verified then
      ({ s with debug := true, sec := { s.sec with challenge := false, unlockCtr := s.sec.unlockCtr + 1 } }).reply c rsDone
        (s.helloBody [])
    else
      ({ s with sec := { s.sec with challenge := false, attempts := if tried then s.sec.attempts + 1 else s.sec.attempts } }).deny c
        { status := rsEperm, field := 24, data := [] }))

/-- `HELLO` function 3: the unlock ends (R334). -/
def execDebugLock (n : SlotNo) (s : State) : Host.Outcome State Fault Refusal :=
  ok (s.command n 0x01 (helloMine 3) helloLen helloChecks (fun c s =>
    ({ s with debug := false }).reply c rsDone (s.helloBody [])))

/-! ## `FW_UPDATE` (R335, R359) -/

/-- The row takes its action; a reserved action is refused by any of the three rows. -/
def fwMine (a : Nat) (c : Cmd) : Bool := c.nat 16 1 == a || decide (2 < c.nat 16 1)

/-- Steps 4 and 5 of R331 for `FW_UPDATE`. Bytes 17 to 19, which its rule does not list, must be 0 (DESIGN CHOICE, log 100). -/
def fwChecks (_ : State) (c : Cmd) : List Check :=
  let load := c.nat 16 1 = 0
  [invalid (decide (2 < c.nat 16 1)) 16, invalid (!c.zero 17 3) 17, invalid (!load && !c.zero 20 4) 20,
   invalid (if load then c.nat 24 8 % 4096 != 0 else !c.zero 24 8) 24,
   outOfRange (load && (decide (c.nat 20 4 < 4096) || decide (458752 < c.nat 20 4) || c.nat 20 4 % 4096 != 0)) 20,
   outOfRange (load && decide (memEnd < c.nat 24 8 + c.nat 20 4)) 24]

/-- `FW_UPDATE` load: the image goes to the security processor; the slot that does not run holds no verified image meanwhile
(R426). -/
def execFwUpdateLoad (n : SlotNo) (s : State) : Host.Outcome State Fault Refusal :=
  ok (s.command n 0x50 (fwMine 0) (fun _ => 16) fwChecks (fun c s =>
    ({ s with sec := { s.sec with loaded := false } }).startLong c .fwLoad))

/-- The load in progress. -/
def State.loading (s : State) : Bool :=
  match s.mh.long with
  | some l => l.kind == .fwLoad
  | none => false

/-- `FW_IMAGE_LOADED`: the verdict of the security processor (R359). -/
def execFwImageLoaded (v : Verdict) (s : State) : Host.Outcome State Fault Refusal :=
  if s.loading then
    if v.sigOk = false ∨ v.secVersion.toNat < s.sec.minSec.toNat ∨ (v.development ∧ s.debug = false) then ok (s.endLong rsEperm 24 [])
    else
      let s := { s with sec := { s.sec with vers := Tbl.set versDefault s.sec.vers (1 - s.sec.run) (v.version, v.secVersion), loaded := true } }
      ok (s.endLong rsDone 0xFFFF (wordBytes 4 v.version ++ wordBytes 4 v.secVersion))
  else ok s

/-- Activate needs a loaded image, and commit a trial. -/
def fwActivateChecks (s : State) (c : Cmd) : List Check := fwChecks s c ++ [wrongState (!s.sec.loaded) 16]
def fwCommitChecks (s : State) (c : Cmd) : List Check := fwChecks s c ++ [wrongState (!s.sec.trial) 16]

/-- `FW_UPDATE` activate: the loaded slot boots next, in trial, and the unlock ends (R334, R359). -/
def execFwUpdateActivate (n : SlotNo) (s : State) : Host.Outcome State Fault Refusal :=
  ok (s.command n 0x50 (fwMine 1) (fun _ => 16) fwActivateChecks (fun c s =>
    ({ s with sec := { s.sec with boot := 1 - s.sec.run }, debug := false }).reply c rsDone []))

/-- `FW_UPDATE` commit (R359). -/
def execFwUpdateCommit (n : SlotNo) (s : State) : Host.Outcome State Fault Refusal :=
  ok (s.command n 0x50 (fwMine 2) (fun _ => 16) fwCommitChecks (fun c s =>
    let v := (s.versions s.sec.run).2
    let floor := if s.sec.minSec.toNat < v.toNat then v else s.sec.minSec
    ({ s with sec := { s.sec with trial := false, trialResets := 0, minSec := floor } }).reply c rsDone []))

end Sys2Proof.Machine
end

