-- ==== Sys2Proof/Machine/Topology.lean ====
section
/-! DEFINITION. `TOPO_SET`, `TOPO_READ`, groups and contexts (R337 to R344, R265, R273). -/

namespace Sys2Proof.Machine

open Sys2Proof

/-! ## Blocks in memory -/

/-- Some bytes that a command names, and the number in `n` of them. -/
abbrev Block := List Byte

def Block.nat (b : Block) (ofs n : Nat) : Nat := leNat ((b.drop ofs).take n)
def Block.zero (b : Block) (ofs n : Nat) : Bool := ((b.drop ofs).take n).all (fun x => x == 0)

/-- Record `i` of a group block (Table 11-15). -/
def Block.record (b : Block) (i : Nat) : Block := (b.drop (192 + 64 * i)).take 64

def Block.records (b : Block) : List Block := (List.range (b.nat 135 1)).map b.record

/-- A record is of a transit stream. -/
def Block.isTransit (r : Block) : Bool := r.nat 0 4 / 2 ^ 31 % 2 == 1

/-- The inputs that a fold-node record states. -/
def Block.inputs (r : Block) : List FoldInput :=
  (List.range (r.nat 12 1)).map (fun j =>
    { child := r.nat (16 + 12 * j) 2, clink := r.nat (18 + 12 * j) 1, hlink := r.nat (19 + 12 * j) 1
      sblink := r.nat (20 + 12 * j) 1, memb := r.nat (24 + 12 * j) 4 })

def Block.fold (r : Block) : FoldRec :=
  { fnid := BitVec.ofNat 21 (r.nat 0 4), host := r.nat 4 2, standby := r.nat 6 2, parent := r.nat 8 2, out := r.nat 10 1
    outSb := r.nat 11 1, ins := r.inputs }

def Block.transit (r : Block) : TransitRec :=
  { fnid := BitVec.ofNat 21 (r.nat 0 4), txFnid := BitVec.ofNat 21 (r.nat 4 4), input := r.nat 8 1, inPort := r.nat 9 1
    outPort := r.nat 10 1 }

/-- The group that a block states. -/
def Block.group (b : Block) : Group :=
  { members := BitVec.ofNat 1024 (b.nat 0 128), nmemb := b.nat 128 4, nchip := b.nat 132 2, hops := b.nat 134 1
    folds := ((b.records.filter (fun r => !r.isTransit)).map Block.fold)
    transits := ((b.records.filter Block.isTransit).map Block.transit) }

/-- Reserved bits and bytes of a record (Table 11-15), each with its offset: the first that is not 0. The bytes of inputs that the record
does not have must be 0 too, which the table does not say (DESIGN CHOICE, log 129). -/
def Block.recordRsv (r : Block) : List (Bool × Nat) :=
  [(r.nat 0 4 / 2 ^ 21 % 2 ^ 10 != 0, 0)] ++
    (if r.isTransit then [(decide (2 ^ 21 ≤ r.nat 4 4), 4), (!r.zero 11 53, 11)]
     else [(!r.zero 13 3, 13)] ++ (List.range 4).map (fun j =>
       if j < r.nat 12 1 then (!r.zero (21 + 12 * j) 3, 21 + 12 * j) else (!r.zero (16 + 12 * j) 12, 16 + 12 * j)))

/-- A logical port number, or 0xFF for none. -/
def portOrNone (n : Nat) : Bool := n < 8 || n == 0xFF

/-- A chip number, or 0xFFFF for none. -/
def chipOrNone (n : Nat) : Bool := n < 32768 || n == 0xFFFF

/-- A fold node's identifier has a level and a round out of range (R303). -/
def fnidOutOfRange (n : Nat) : Bool := decide (n / 64 % 8 < 5) || decide (2 < n / 16 % 4)

/-- The numbers of a record that lie outside their ranges, with their offsets; a port that a record does not use is not looked at. -/
def Block.recordRange (r : Block) : List (Bool × Nat) :=
  [(fnidOutOfRange (r.nat 0 4), 0)] ++
    (if r.isTransit then
      [(fnidOutOfRange (r.nat 4 4), 4), (decide (4 ≤ r.nat 8 1) && r.nat 8 1 != 0xFF, 8), (decide (8 ≤ r.nat 9 1), 9),
       (decide (8 ≤ r.nat 10 1), 10)]
     else
      [(decide (32768 ≤ r.nat 4 2), 4), (!chipOrNone (r.nat 6 2), 6), (!chipOrNone (r.nat 8 2), 8),
       (r.nat 12 1 == 0 || decide (4 < r.nat 12 1), 12)] ++
      ((Block.inputs r).zipIdx.take 4).flatMap (fun e =>
        [(decide (32768 ≤ e.1.child), 16 + 12 * e.2), (!portOrNone e.1.hlink, 19 + 12 * e.2), (!portOrNone e.1.sblink, 20 + 12 * e.2)]))

/-- What the records of a group block fail of, as refusals that name the field: `f` gives the tests of a record with their offsets in it. -/
def Block.recordChecks (b : Block) (bad : Bool → Nat → Nat → Check) (field base : Nat) (f : Block → List (Bool × Nat)) : List Check :=
  (b.records.zipIdx).flatMap (fun e => (f e.1).map (fun x => bad x.1 field (base + 192 + 64 * e.2 + x.2)))

/-- The form of a group block, whose data the field `field` of a slot addresses, at offset `base` of it (steps 4 and 5). -/
def Block.formChecks (b : Block) (field base : Nat) : List Check :=
  [invalidAt (!b.zero 136 56) field (base + 136)] ++ b.recordChecks invalidAt field base Block.recordRsv

def Block.rangeChecks (b : Block) (field base : Nat) : List Check :=
  [rangeAt (b.nat 128 4 == 0 || decide (33554432 < b.nat 128 4)) field (base + 128),
   rangeAt (b.nat 132 2 == 0 || decide (32768 < b.nat 132 2)) field (base + 132),
   rangeAt (decide (15 < b.nat 134 1)) field (base + 134)] ++ b.recordChecks rangeAt field base Block.recordRange

/-! ## Consistency of a group (R34, R35, R342) -/

/-- The logical ports on which a chip's own fold nodes receive their off-die inputs, as host and as standby. -/
def Group.arrivals (g : Group) (chip : Nat) : List Nat :=
  g.folds.flatMap (fun r =>
    let far := r.ins.filter (fun i => i.child ≠ chip)
    (if r.host = chip then far.map (·.hlink) else []) ++ (if r.standby = chip then far.map (·.sblink) else []))

/-- R34 and R35: at most two fold nodes of one group, and distinct ports. -/
def Group.placed (g : Group) (chip : Nat) : Bool :=
  decide ((g.folds.filter (fun r => r.host = chip || r.standby = chip)).length ≤ 2) && decide ((g.arrivals chip).Nodup)

/-- `G_LOCAL` has a member, or a record names the chip as host, standby or sender (R342). -/
def Group.concerns (g : Group) (chip : Nat) : Bool :=
  g.members != 0#1024 || g.folds.any (fun r => r.host = chip || r.standby = chip || r.feeds chip)

/-- The logical ports of the chip that a fold-node record names, with their offsets in it. -/
def FoldRec.namedPorts (r : FoldRec) (chip : Nat) : List (Nat × Nat) :=
  let goesOn := r.parent ≠ 0xFFFF ∧ r.parent ≠ chip
  (if r.host = chip ∧ goesOn then [(r.out, 10)] else []) ++ (if r.standby = chip ∧ goesOn then [(r.outSb, 11)] else []) ++
  (r.ins.zipIdx).flatMap (fun e =>
    if e.1.child = chip then (if r.host = chip then [] else [(e.1.clink, 18 + 12 * e.2)])
    else (if r.host = chip then [(e.1.hlink, 19 + 12 * e.2)] else []) ++ (if r.standby = chip then [(e.1.sblink, 20 + 12 * e.2)] else []))

/-- The chips that a fold-node record names, with their offsets in it. -/
def FoldRec.namedChips (r : FoldRec) : List (Nat × Nat) :=
  [(r.host, 4)] ++ (if r.standby = 0xFFFF then [] else [(r.standby, 6)]) ++ (if r.parent = 0xFFFF then [] else [(r.parent, 8)]) ++
    (r.ins.zipIdx).map (fun e => (e.1.child, 16 + 12 * e.2))

/-- The members below a node: the sum of its inputs'. -/
def FoldRec.below (r : FoldRec) : Nat := r.ins.foldl (fun n i => n + i.memb) 0

/-- A node's members agree with the record of its parent, where this chip has it, and with the group at the root. -/
def Group.sumAgrees (g : Group) (r : FoldRec) : Bool :=
  if r.parent = 0xFFFF then r.below == g.nmemb
  else
    let up := (sortBy FoldRec.rank (g.folds.filter (fun q => decide (r.rank < q.rank) && q.host == r.parent && q.feeds r.host))).head?
    match up with
    | none => true
    | some q => (q.ins.filter (fun i => i.child == r.host)).all (fun i => i.memb == r.below)

/-- A link that a route leaves by, where it ends at a chip that a record names, ends at the port that the record names there. -/
def endsAt (links : List (Nat × LinkDecl)) (l : Nat) (ends : List (Nat × Nat)) : Bool :=
  match links.find? (fun e => e.1 == l) with
  | none => false
  | some e =>
    let here := ends.filter (fun x => x.1 == e.2.peer)
    here.isEmpty || here.any (fun x => x.2 == e.2.peerLlink)

/-- The streams that a transit record may stand for, where this chip has the record of the node: the chips and ports at which each starts
and at which it ends (R304, R305, R308). -/
def FoldRec.streams (r : FoldRec) (input : Nat) : List (Nat × Nat) × List (Nat × Nat) :=
  match r.ins[input]? with
  | some i => ([(i.child, i.clink)], [(r.host, i.hlink), (r.standby, i.sblink)])
  | none => ([(r.host, r.out), (r.standby, r.outSb)], [])

/-- A route, as its transit record gives it, leads to its named chip, as far as this chip's records and links show it (R305, R342): it goes on,
its node has the input, this chip is at neither end of it, and its links end where the node's record says. DEDUCED, log 95. -/
def Group.routeLeads (g : Group) (chip : Nat) (links : List (Nat × LinkDecl)) (t : TransitRec) : Bool :=
  t.inPort != t.outPort &&
    g.folds.all (fun r => r.fnid != t.txFnid ||
      ((t.input == 0xFF || decide (t.input < r.ins.length)) &&
        (let x := r.streams t.input
         !((x.1 ++ x.2).all (fun e => e.1 == chip)) && endsAt links t.inPort x.1 && endsAt links t.outPort x.2)))

/-- The fold-node records among the first `n` records of a block. -/
def Block.foldsUpTo (b : Block) (n : Nat) : Group := { b.group with folds := ((b.records.take n).filter (fun r => !r.isTransit)).map Block.fold }

/-- The consistency of a group block with this chip, the chips that are present and a set of valid links (R28, R34, R35, R342; step 8). -/
def Block.consistencyChecks (b : Block) (chip : Nat) (present : List Nat) (links : List (Nat × LinkDecl)) (field base : Nat) : List Check :=
  let g := b.group
  let valid := links.map (·.1)
  [invalidAt (!g.concerns chip) field base] ++
  (b.records.zipIdx).flatMap (fun e =>
    let at_ : Bool → Nat → Check := fun bad o => invalidAt bad field (base + 192 + 64 * e.2 + o)
    if e.1.isTransit then
      let t := e.1.transit
      [at_ (!valid.contains t.inPort) 9, at_ (!valid.contains t.outPort) 10, at_ (!g.routeLeads chip links t) 10]
    else
      let r := e.1.fold
      [at_ (!(b.foldsUpTo (e.2 + 1)).placed chip) 4] ++ r.namedChips.map (fun c => at_ (!present.contains c.1) c.2) ++
        (r.namedPorts chip).map (fun p => at_ (!valid.contains p.1) p.2) ++ [at_ (!g.sumAgrees r) 24])

/-- Records of Masthead in use. -/
def Group.records (g : Group) : Nat := g.folds.length + g.transits.length

def State.recordsUsed (s : State) : Nat := s.topo.groups.foldl (fun n e => n + e.2.records) 0

/-! ## `TOPO_READ` (Table 11-12) -/

/-- The physical layer of a port: as a `CAL_PORT` has set it, or the board's (R337). -/
def State.phyOf (s : State) (p : Nat) : Nat := Tbl.get (fun i => (Config.boardPhy i).toNat) s.inp.phy p

/-- The entry of a port. -/
def State.portEntry (s : State) (p : Nat) : List Byte :=
  let k := s.lnk p
  let st := match k.st with | .up => 1 | .reefed => 2 | .retraining => 3 | _ => 0
  let peer := k.peer.getD (0, 0, false, 0)
  let die := if st = 0 then 0 else peer.2.2.2.toNat
  [BitVec.ofNat 8 st, BitVec.ofNat 8 (s.phyOf p), BitVec.ofNat 8 peer.1, BitVec.ofNat 8 peer.2.1] ++ leBytes 4 0 ++ leBytes 8 die

/-- The response's body. -/
def State.topoBody (s : State) : List Byte := wordBytes 8 Config.dieId ++ (List.range 8).flatMap s.portEntry

/-- `TOPO_READ` (R337). -/
def execTopoRead (n : SlotNo) (s : State) : Host.Outcome State Fault Refusal :=
  ok (s.command n 0x11 anyCmd (fun _ => 0) noChecks (fun c s => s.reply c rsDone s.topoBody))

/-! ## `TOPO_SET` (R338 to R340) -/

/-- Whether a logical port is in use in a topology block, and its link. -/
def Block.linkValid (b : Block) (l : Nat) : Bool := b.nat (64 + 32 * l) 1 == 1

def Block.link (b : Block) (l : Nat) : LinkDecl :=
  let o := 64 + 32 * l
  { phys := b.nat (o + 1) 1, spare := if b.nat (o + 2) 1 = 0xFF then none else some (b.nat (o + 2) 1), phy := b.nat (o + 3) 1
    peer := b.nat (o + 4) 2, peerLlink := b.nat (o + 6) 1, prot := b.nat (o + 7) 1 == 1, delay := b.nat (o + 8) 2
    peerDie := BitVec.ofNat 64 (b.nat (o + 16) 8) }

/-- The valid links by logical port. -/
def Block.links (b : Block) : List (Nat × LinkDecl) := ((List.range 8).filter b.linkValid).map (fun l => (l, b.link l))

/-- The bytes of `TB_PRESENT` and `TB_ROUTE`, with their numbers. -/
def Block.presence (b : Block) : List (Byte × Nat) := ((b.drop 320).take 4096).zipIdx
def Block.routeBytes (b : Block) : List (Byte × Nat) := ((b.drop 4416).take 32768).zipIdx

/-- The chips that are present, ascending. -/
def Block.present (b : Block) : List Nat :=
  (b.presence.filter (fun e => e.1 ≠ 0)).flatMap (fun e => (bitList e.1).map (fun j => 8 * e.2 + j))

/-- The routes: chip number to logical port. -/
def Block.routes (b : Block) : List (Nat × Nat) :=
  (b.routeBytes.filter (fun e => bit e.1 7)).map (fun e => (e.2, bits e.1 0 3))

/-- Bytes of a topology block before its group block. -/
def topoHead : Nat := 37184

/-- The topology that a block states. -/
def State.topoOf (s : State) (b : Block) : Topo :=
  { s.topo with
    rigValid := true, chip := b.nat 0 2, present := b.present, links := b.links, routes := b.routes
    groups := [(0, Block.group (b.drop topoHead))], takenOver := [], rehomed := [], lostChips := [] }

/-- A link differs from what `TOPO_READ` reports for a port (R339): the physical layer, the partner's die, or the partner's port, once a
topology of its own has given it one; before that its port is compared at the end of the exchange (R340). DEDUCED, log 95. -/
def State.phyDiffers (s : State) (d : LinkDecl) (p : Nat) : Bool := s.phyOf p != d.phy

def State.portDiffers (s : State) (d : LinkDecl) (p : Nat) : Bool :=
  match (s.lnk p).peer with
  | some (port, llink, prot, _) => (llink != port || prot) && llink != d.peerLlink
  | none => false

def State.dieDiffers (s : State) (d : LinkDecl) (p : Nat) : Bool :=
  let k := s.lnk p
  !k.isUp || (k.peer.getD (0, 0, false, 0)).2.2.2 != d.peerDie

/-- One of a link's ports differs. -/
def LinkDecl.anyPort (d : LinkDecl) (f : LinkDecl → Nat → Bool) : Bool := f d d.phys || d.spare.any (f d)

/-- Every physical port that links and spares name. -/
def linkPorts (l : List (Nat × LinkDecl)) : List Nat := l.flatMap (fun e => e.2.phys :: (e.2.spare.map (fun q => [q])).getD [])

/-- A port that an earlier link or spare of a list names too. -/
def portTaken (l : List (Nat × LinkDecl)) (i : Nat) (p : Nat) : Bool := (linkPorts (l.take i)).contains p

/-- Step 4 for a link record: its codes and its `RSV` bytes. -/
def Block.linkForm (b : Block) (f l : Nat) : List Check :=
  let o := 64 + 32 * l
  let used := b.linkValid l
  [invalidAt (decide (1 < b.nat o 1)) f o, invalidAt (used && decide (2 < b.nat (o + 3) 1)) f (o + 3),
   invalidAt (used && decide (1 < b.nat (o + 7) 1)) f (o + 7), invalidAt (!b.zero (o + 10) 6) f (o + 10),
   invalidAt (!b.zero (o + 24) 8) f (o + 24)]

/-- Step 5 for a valid link. -/
def linkRanges (f : Nat) (e : Nat × LinkDecl) : List Check :=
  let o := 64 + 32 * e.1
  let d := e.2
  [rangeAt (decide (8 ≤ d.phys)) f (o + 1), rangeAt (!d.spare.all (· < 8)) f (o + 2), rangeAt (decide (32768 ≤ d.peer)) f (o + 4),
   rangeAt (decide (8 ≤ d.peerLlink)) f (o + 6), rangeAt (decide (500 < d.delay)) f (o + 8)]

/-- Step 8 for a valid link, the `i`th of the list (R339). -/
def State.linkChecks (s : State) (ls : List (Nat × LinkDecl)) (present : List Nat) (f i : Nat) (e : Nat × LinkDecl) : List Check :=
  let o := 64 + 32 * e.1
  let d := e.2
  [invalidAt (portTaken ls i d.phys) f (o + 1), invalidAt (d.spare.any (fun q => q == d.phys || portTaken ls i q)) f (o + 2),
   invalidAt (d.anyPort s.phyDiffers) f (o + 3), invalidAt (!present.contains d.peer) f (o + 4),
   invalidAt (d.anyPort s.portDiffers) f (o + 6), invalidAt (d.anyPort s.dieDiffers) f (o + 16)]

/-- The first chip whose route is missing, or present for this chip or an absent one. -/
def routeFault (chip : Nat) (present : List Nat) (routes : List (Nat × Nat)) : Nat :=
  let want := present.filter (fun c => c ≠ chip)
  let have_ := routes.map (·.1)
  ((want.filter (fun c => !have_.contains c) ++ have_.filter (fun c => !want.contains c)).foldl (fun m c => match m with
    | none => some c
    | some x => some (min x c)) none).getD 0

/-- Steps 4, 5 and 8 for the block of a `TOPO_SET`, each in the order of the block's bytes; `f` is the field that addresses it. -/
def State.topoChecks (s : State) (b : Block) (f : Nat) : List Check :=
  let g := b.drop topoHead
  let ls := b.links
  let valid := ls.map (·.1)
  let chip := b.nat 0 2
  let group := Block.group g
  let present := b.present
  let routes := b.routes
  [invalidAt (!b.zero 2 62) f 2] ++
  (List.range 8).flatMap (b.linkForm f) ++
  b.routeBytes.map (fun e => invalidAt (bits e.1 3 4 != 0 || (!bit e.1 7 && e.1 != 0#8)) f (4416 + e.2)) ++
  Block.formChecks g f topoHead ++
  [rangeAt (decide (32767 < chip)) f 0] ++
  ls.flatMap (linkRanges f) ++
  Block.rangeChecks g f topoHead ++
  [invalidAt (!present.contains chip) f 0] ++
  (ls.zipIdx).flatMap (fun e => s.linkChecks ls present f e.2 e.1) ++
  [invalidAt (!(routes.map (·.1) == present.filter (fun c => c ≠ chip))) f (4416 + routeFault chip present routes),
   invalidAt (!routes.all (fun e => valid.contains e.2)) f
     (4416 + ((routes.find? (fun e => !valid.contains e.2)).map (·.1)).getD 0),
   invalidAt (group.members != BitVec.allOnes 1024) f topoHead, invalidAt (group.nmemb != 1024 * present.length) f (topoHead + 128),
   invalidAt (group.nchip != present.length) f (topoHead + 132)] ++
  Block.consistencyChecks g chip present ls f topoHead

/-- The length of a topology block. -/
def State.topoLength (s : State) (a : Nat) : Nat := topoHead + 192 + 64 * loadNat s (a + topoHead + 135) 1

/-- No context is bound, and no tag is live or in quarantine. -/
def State.unbound (s : State) : Bool := s.ctxs.isEmpty
def State.untagged (s : State) : Bool := s.led.tags.all (fun e => e.2.st == .free)

/-- The checks of a `TOPO_SET`. Bytes 28 to 31, which R338 does not list, must be 0 (DESIGN CHOICE, log 100). -/
def State.topoSetChecks (s : State) (c : Cmd) : List Check :=
  let a := c.nat 16 8
  let n := c.nat 24 4
  let form : List Check := [invalid (a % 64 != 0) 16, invalid (!c.zero 28 4) 28, outOfRange (decide (memEnd < a + n) || decide (memEnd < a + topoHead + 192)) 16,
    invalid (n != s.topoLength a) 24]
  if (firstDeny form).isSome then form
  else form ++ s.topoChecks (load s a n) 16 ++ [wrongState (!s.unbound || !s.untagged) 16]

/-- The link-control exchange is repeated on a port with a logical port and protection (R279). -/
def State.exchangeAs (p llink : Nat) (prot : Bool) (s : State) : State :=
  s.modLnk p (fun k => Link.startExchange p { k with llink := llink, prot := prot, resume := false })

/-- What a port had before a refused topology: the logical port and protection of the topology in force, or those of R337. -/
def State.putPortBack (p : Nat) (s : State) : State :=
  match s.topo.links.find? (fun e => e.2.phys == p || e.2.spare == some p) with
  | some e => s.exchangeAs p e.1 e.2.prot
  | none => s.exchangeAs p p false

/-- The link-control exchange is repeated with the block's logical port and protection (R340). -/
def State.reExchange (s : State) (ls : List (Nat × LinkDecl)) : State :=
  forEach ls (fun e s => forEach (e.2.phys :: (e.2.spare.map (fun q => [q])).getD []) (fun p s =>
    s.exchangeAs p e.1 e.2.prot) s) s

/-- `TOPO_SET` (R338 to R340). -/
def execTopoSet (n : SlotNo) (s : State) : Host.Outcome State Fault Refusal :=
  ok (s.command n 0x10 anyCmd (fun _ => 16) State.topoSetChecks (fun c s =>
    let t := s.topoOf (load s (c.nat 16 8) (c.nat 24 4))
    (s.startLong c (.topo t)).reExchange t.links))

/-- A port of a declared link is up, and its partner agrees on the logical port and the protection. -/
def State.portAgrees (s : State) (d : LinkDecl) (p : Nat) : Bool :=
  let k := s.lnk p
  k.isUp && (match k.peer with
    | some x => x.2.1 == d.peerLlink && x.2.2.1 == d.prot
    | none => false)

/-- The first link of a topology that is not up as declared. -/
def State.badLink (s : State) (ls : List (Nat × LinkDecl)) : Option Nat :=
  (ls.find? (fun e => !(s.portAgrees e.2 e.2.phys && e.2.spare.all (s.portAgrees e.2)))).map (·.1)

/-- `TOPO_SET_COMPLETE` (R340): every link is up, or 200 ms have passed; then the ports that the refused block names get back what they
had. DEDUCED, log 98. -/
def execTopoSetComplete (s : State) : Host.Outcome State Fault Refusal :=
  match s.mh.long with
  | some { kind := .topo t, .. } =>
    match s.badLink t.links with
    | some l => ok ((forEach (linkPorts t.links) State.putPortBack s).endLong rsEinval 16 (leBytes 4 (64 + 32 * l)))
    | none =>
      let s := { s with topo := { t with dtGen := s.topo.dtGen, dtPub := s.topo.dtPub }, mh := { s.mh with st := .configured } }
      ok (s.publishAll.endLong rsDone 0xFFFF [])
  | _ => ok s

/-! ## Groups (R341 to R343) -/

/-- The checks of a `GROUP_DEFINE`. -/
def State.groupChecks (s : State) (c : Cmd) : List Check :=
  let g := c.nat 16 2
  let a := c.nat 20 8
  let n := c.nat 28 4
  let form : List Check := [invalid (!c.zero 18 2) 18, invalid (a % 64 != 0) 20,
    outOfRange (decide (memEnd < a + n) || decide (memEnd < a + 192)) 20, invalid (n != 192 + 64 * loadNat s (a + 135) 1) 28]
  if (firstDeny form).isSome then form
  else
    let b : Block := load s a n
    form ++ Block.formChecks b 20 0 ++ [outOfRange (decide (4095 < g)) 16] ++ Block.rangeChecks b 20 0 ++
      [(decide (1024 < s.recordsUsed + b.group.records), { status := rsEnospc, field := 20, data := leBytes 4 135 }),
       invalid (g == 0) 16] ++ b.consistencyChecks s.topo.chip s.topo.present s.topo.links 20 0 ++
      [wrongState (s.group g).isSome 16]

/-- `GROUP_DEFINE` (R341, R342, R273). -/
def execGroupDefine (n : SlotNo) (s : State) : Host.Outcome State Fault Refusal :=
  ok (s.command n 0x12 anyCmd (fun _ => 16) State.groupChecks (fun c s =>
    let g := c.nat 16 2
    let x := Block.group (load s (c.nat 20 8) (c.nat 28 4))
    let s := { s with topo := { s.topo with groups := s.topo.groups.put g x } }
    (s.publish [g]).reply c rsDone []))

/-- A context is bound to a group. -/
def State.groupBound (s : State) (g : Nat) : Bool := s.ctxs.any (fun e => e.2.group == g)

/-- The checks of a `GROUP_DELETE`. Bytes 18 and 19, which R343 does not list, must be 0 (DESIGN CHOICE, log 100). -/
def State.deleteChecks (s : State) (c : Cmd) : List Check :=
  let g := c.nat 16 2
  [invalid (!c.zero 18 2) 18, outOfRange (decide (4095 < g)) 16, invalid (g == 0 || (s.group g).isNone) 16,
   wrongState (s.groupBound g) 16]

/-- `GROUP_DELETE` (R343). -/
def execGroupDelete (n : SlotNo) (s : State) : Host.Outcome State Fault Refusal :=
  ok (s.command n 0x13 anyCmd (fun _ => 4) State.deleteChecks (fun c s =>
      let g := c.nat 16 2
      let mine : BitVec 21 → Bool := fun f => f.toNat / 512 == g
      let s := { s with topo := { s.topo with
        groups := s.topo.groups.del g, takenOver := s.topo.takenOver.filter (fun f => !mine f)
        rehomed := s.topo.rehomed.filter (fun h => !mine h.fnid) } }
      (s.publish [g]).reply c rsDone []))

/-! ## Contexts (R265, R344) -/

def bindOp (c : Cmd) : Nat := c.nat 21 1

/-- The row takes its operation; a reserved one is refused by any of the three rows. -/
def bindMine (o : Nat) (c : Cmd) : Bool := bindOp c == o || decide (2 < bindOp c)

/-- Steps 4 and 5 for the fields of Table 11-16. DEDUCED, log 99. -/
def bindCodes (c : Cmd) : List Check :=
  [invalid (decide (2 < bindOp c)) 21, invalid (!c.zero 22 2) 22, invalid (c.nat 24 8 % 64 != 0) 24]

def bindRanges (c : Cmd) : List Check :=
  [outOfRange (decide (4095 < c.nat 16 2)) 16, outOfRange (decide (4095 < c.nat 18 2)) 18,
   outOfRange (!(decide (c.nat 20 1 < 64) || c.nat 20 1 == 0xFF)) 20, outOfRange (decide (memEnd < c.nat 24 8 + 128)) 24]

def bindForm (c : Cmd) : List Check := bindCodes c ++ bindRanges c

/-- The parameter block: 128 zeros where the address is 0. -/
def State.paramBlock (s : State) (c : Cmd) : Block :=
  if c.nat 24 8 = 0 then List.replicate 128 0 else load s (c.nat 24 8) 128

/-- The reserved bytes and bits of a parameter block (step 4), and its rules (step 8) (R265). -/
def paramForm (b : Block) : List Check :=
  [invalidAt (!b.zero 69 3) 24 69, invalidAt (decide (8 ≤ b.nat 72 1)) 24 72, invalidAt (!b.zero 73 55) 24 73]

def paramRules (b : Block) : List Check :=
  let flags := b.nat 72 1
  let scale := b.nat 64 4
  let z4 := flags.testBit 2
  [invalidAt (flags.testBit 1 && (scale % 2 ^ 31 == 0 || scale / 2 ^ 23 % 256 == 255)) 24 64,
   invalidAt (z4 && decide (15 < b.nat 68 1)) 24 68, invalidAt (z4 && !flags.testBit 1) 24 72]

/-- The channel that a command names. -/
def bindChan (c : Cmd) : Option Nat := if c.nat 20 1 = 0xFF then none else some (c.nat 20 1)

/-- The checks of a binding, in the order of R331; a block that cannot be addressed is not read. -/
def State.bindChecks (s : State) (c : Cmd) : List Check :=
  if c.nat 24 8 % 64 ≠ 0 ∨ memEnd < c.nat 24 8 + 128 then bindForm c
  else bindCodes c ++ paramForm (s.paramBlock c) ++ bindRanges c ++ [invalid (s.group (c.nat 18 2)).isNone 18] ++
    paramRules (s.paramBlock c) ++
    [wrongState (s.binding (c.nat 16 2)).isSome 16,
     wrongState ((bindChan c).any (fun ch => (s.chan ch).st != .unbound)) 20, wrongState s.mh.linksDue 16]

/-- `CONTEXT_BIND` with `CB_OP` 0 (R344, R419). -/
def execContextBind (n : SlotNo) (s : State) : Host.Outcome State Fault Refusal :=
  ok (s.command n 0x14 (bindMine 0) (fun _ => 16) State.bindChecks (fun c s =>
      let x : Binding := {
        group := c.nat 18 2, chan := bindChan c, block := s.paramBlock c, started := 0, cut := 0, chosen := false, epochs := [] }
      let s := { s with ctxs := s.ctxs.put (c.nat 16 2) x }
      let s := match bindChan c with
        | some ch => s.setChan ch { chanDefault ch with st := .armed, ctx := c.nat 16 2, group := c.nat 18 2 }
        | none => s
      s.reply c rsDone []))

/-- A command names a context that is bound. -/
def State.boundCheck (s : State) (c : Cmd) : Check := invalid (s.binding (c.nat 16 2)).isNone 16

/-- The channel of a bound context. -/
def State.chanOf (s : State) (ctx : Nat) : Option Nat := (s.binding ctx).bind (·.chan)

/-- The checks of a re-arm. -/
def State.rearmChecks (s : State) (c : Cmd) : List Check :=
  bindForm c ++ [s.boundCheck c, wrongState (!(s.chanOf (c.nat 16 2)).any (fun ch => (s.chan ch).st == .broken)) 16]

/-- `CONTEXT_BIND` with `CB_OP` 1 (R167, R344): this chip's share of a broken channel is armed again at phase 0. -/
def execContextRearm (n : SlotNo) (s : State) : Host.Outcome State Fault Refusal :=
  ok (s.command n 0x14 (bindMine 1) (fun _ => 16) State.rearmChecks (fun c s =>
      match s.chanOf (c.nat 16 2) with
      | none => s.reply c rsDone []
      | some ch =>
        let x := s.chan ch
        (s.setChan ch { chanDefault ch with st := .armed, ctx := x.ctx, group := x.group }).reply c rsDone []))

/-- The context has a descriptor outstanding or queued on the chip: a collective, a `COMBINE` family operation, a hoist send, a receive or a withdrawal that
names it, or a completion record still to be written (R261: every opcode uses `CTX`), or it holds an active slot. -/
def State.ctxBusy (s : State) (ctx : Nat) : Bool :=
  s.ops.slots.contains ctx || s.ops.colls.any (fun x => x.ctx == ctx && !x.members.isEmpty) ||
    s.ops.combs.any (fun o => dCtx o.desc == ctx) || s.ops.sends.any (fun m => dCtx m.desc == ctx) ||
    s.ops.recvs.any (fun r => dCtx r.desc == ctx) || s.ops.delivs.any (fun d => dCtx d.recv.desc == ctx) ||
    s.ops.withdraws.any (fun w => dCtx w.desc == ctx || w.gone.any (fun r => dCtx r.desc == ctx)) ||
    s.ports.any (fun e => e.2.done.any (fun d => d.opcode != 0 && d.ctx == ctx))

/-- An `ARRIVE` that waits, or a `BWAIT`, is outstanding on a channel: counted, or still behind the earlier commands of its port (R166). -/
def State.waitOutstanding (s : State) (ch : Nat) : Bool :=
  !(s.chan ch).waits.isEmpty ||
    s.tt.flights.any (fun f => cTarget f.cmd % 64 == ch && decide (8 ≤ cTop f.cmd) && cWaits f.cmd)

/-- The checks of an unbinding. -/
def State.unbindChecks (s : State) (c : Cmd) : List Check :=
  let ctx := c.nat 16 2
  bindForm c ++ [s.boundCheck c, wrongState (s.ctxBusy ctx || (s.chanOf ctx).any s.waitOutstanding) 16]

/-- `CONTEXT_BIND` with `CB_OP` 2 (R344). -/
def execContextUnbind (n : SlotNo) (s : State) : Host.Outcome State Fault Refusal :=
  ok (s.command n 0x14 (bindMine 2) (fun _ => 16) State.unbindChecks (fun c s =>
      let s := match s.chanOf (c.nat 16 2) with
        | some ch => s.setChan ch (chanDefault ch)
        | none => s
      ({ s with ctxs := s.ctxs.del (c.nat 16 2) }).reply c rsDone []))

end Sys2Proof.Machine
end

