-- ==== Sys2Proof/Machine/Policy.lean ====
section
/-! DEFINITION. Partner, policy values, the precision-reef grant, and let-fly as a command (R345 to R347, R356, R140). -/

namespace Sys2Proof.Machine

open Sys2Proof

/-! ## `PARTNER_SET` (R345) -/

/-- The checks of `PARTNER_SET`. -/
def State.partnerChecks (s : State) (c : Cmd) : List Check :=
  let chip := c.nat 16 2
  [invalid (!c.zero 18 6) 18, invalid (c.nat 24 8 % 4096 != 0) 24, invalid (c.nat 32 8 % 4096 != 0) 32,
   outOfRange (decide (32767 < chip)) 16, outOfRange (decide (memEnd < c.nat 24 8 + c.nat 32 8)) 24,
   invalid (chip == s.topo.chip || !s.isPresent chip) 16]

/-- `PARTNER_SET`: the partner is asked for its power feed, and its answer completes the command. -/
def execPartnerSet (n : SlotNo) (s : State) : Host.Outcome State Fault Refusal :=
  ok (s.command n 0x15 anyCmd (fun _ => 24) State.partnerChecks (fun c s =>
      let p : Partner := { chip := c.nat 16 2, area := c.nat 24 8, len := c.nat 32 8, sameFeed := false }
      let s := { s with mh := { s.mh with relay := s.mh.relay ++ [Relay.feed c.slot c.seq p] } }
      s.relayTo p.chip 1 0))

/-! ## `POLICY_SET` (R346, Table 11-17) -/

/-- The parameters of Table 11-17. -/
def policyIds : List Nat :=
  [0x01, 0x02, 0x03, 0x04, 0x05, 0x06, 0x10, 0x11, 0x12, 0x13, 0x20, 0x30, 0x31, 0x32, 0x40, 0x41, 0x42, 0x43, 0x50, 0x51]

/-- The range of a parameter. -/
def policyOk (id v : Nat) : Bool :=
  let rng : Nat → Nat → Bool := fun lo hi => decide (lo ≤ v) && decide (v ≤ hi)
  match id with
  | 0x01 => rng 1 60000000
  | 0x02 => true
  | 0x03 => rng 0 1
  | 0x04 => rng 1 65535
  | 0x05 => rng 1 65535
  | 0x06 => rng 1 65535
  | 0x10 => decide (v < 2 ^ 52) && v % 4096 == 0
  | 0x11 => rng 0 16777216 && v % 1024 == 0
  | 0x12 => rng 10 1000000
  | 0x13 => v == 0 || rng 10 60000000
  | 0x20 => rng 1 10000
  | 0x30 => rng 16 64
  | 0x31 => rng 1 15
  | 0x32 => rng 1 15
  | 0x40 => rng 50 100
  | 0x41 => rng 0 1
  | 0x42 => rng 16 1024
  | 0x43 => rng 0 2000
  | 0x50 => rng 1 (2 ^ 31)
  | 0x51 => rng 0 1
  | _ => false

/-- The state that a parameter's last column asks for. -/
def State.policyFree (s : State) (id : Nat) : Bool :=
  match id with
  | 0x02 => s.unbound
  | 0x10 => s.untagged
  | 0x11 => s.untagged
  | _ => true

/-- Entry `k` of a command: identifier and value. -/
def policyEntry (c : Cmd) (k : Nat) : Nat × Nat := (c.nat (20 + 12 * k) 2, c.nat (24 + 12 * k) 8)

def policyCount (c : Cmd) : Nat := c.nat 16 2

def policyEntries (c : Cmd) : List (Nat × Nat) := (List.range (min (policyCount c) 19)).map (policyEntry c)

/-- The values with the entries applied. -/
def policyApply (vals : Tbl Nat) (es : List (Nat × Nat)) : Tbl Nat := es.foldl (fun t e => Tbl.set policyDefault t e.1 e.2) vals

/-- The identifier appears earlier in the command. -/
def policyTwice (es : List (Nat × Nat)) (k : Nat) : Bool := ((es.take k).map (·.1)).contains (nth (0, 0) es k).1

/-- The checks of R346, in the order of R331. -/
def State.policyChecks (s : State) (c : Cmd) : List Check :=
  let es := policyEntries c
  let each : (Nat → Nat × Nat → Check) → List Check := fun f => es.zipIdx.map (fun e => f e.2 e.1)
  let after : Nat → Nat := fun id => Tbl.get policyDefault (policyApply s.pol.vals es) id
  let ns := (es.findIdx? (fun e => e.1 == 0x04 || e.1 == 0x05 || e.1 == 0x06)).getD 0
  let sb := (es.findIdx? (fun e => e.1 == 0x11)).getD 0
  [invalid (!c.zero 18 2) 18] ++
  each (fun k e => invalid (!policyIds.contains e.1) (20 + 12 * k)) ++
  each (fun k _ => invalid (!c.zero (22 + 12 * k) 2) (22 + 12 * k)) ++
  [outOfRange (policyCount c == 0 || decide (19 < policyCount c)) 16] ++
  each (fun k e => outOfRange (!policyOk e.1 e.2) (24 + 12 * k)) ++
  each (fun k _ => invalid (policyTwice es k) (20 + 12 * k)) ++
  [invalid (decide (after 0x06 < after 0x04) || decide (after 0x05 < after 0x06)) (20 + 12 * ns),
   invalid (after 0x11 != 0 && !s.pol.sbSet && !es.any (fun e => e.1 == 0x10)) (20 + 12 * sb)] ++
  each (fun k e => wrongState (!s.policyFree e.1) (20 + 12 * k))

/-- The words of a cluster whose ownership mode changes: in pool mode unclaimed, in `FLAG` mode and empty (R140); a cluster that
returns to fixed mode has the words of reset (DEDUCED, log 36). Waiters stay. -/
def State.remapWords (s : State) (map : Nat) : State :=
  let old := s.policy 0x02
  let kept := s.tt.words.filter (fun e => poolBit old (wordCluster e.1) == poolBit map (wordCluster e.1))
  let moved := s.tt.words.filter (fun e => poolBit old (wordCluster e.1) != poolBit map (wordCluster e.1))
  let words := moved.foldl (fun t e =>
    Tbl.set (wordDefault map) t e.1 { wordDefault map e.1 with queue := e.2.queue, drain := e.2.drain }) kept
  { s with tt := { s.tt with words := words } }

/-- The entries take effect. A saddlebag that can back a lost bank ends the want of a backing (R397). -/
def State.applyPolicy (s : State) (es : List (Nat × Nat)) : State :=
  let s := match es.find? (fun e => e.1 == 0x02) with
    | some e => s.remapWords e.2
    | none => s
  let sb := es.any (fun e => e.1 == 0x10)
  let bag := es.any (fun e => e.1 == 0x10 || e.1 == 0x11)
  let vals := policyApply s.pol.vals es
  { s with
    pol := { s.pol with vals := vals, sbSet := s.pol.sbSet || sb }
    led := if sb then { s.led with sbHeld := [] } else s.led
    units := { s.units with unbacked := s.units.unbacked && !(bag && decide (16384 ≤ Tbl.get policyDefault vals 0x11)) } }

/-- `POLICY_SET` (R346). -/
def execPolicySet (n : SlotNo) (s : State) : Host.Outcome State Fault Refusal :=
  ok (s.command n 0x16 anyCmd (fun c => 4 + 12 * policyCount c) State.policyChecks (fun c s =>
    (s.applyPolicy (policyEntries c)).reply c rsDone []))

/-! ## `REEF_ALLOW` (R347) -/

/-- The checks of `REEF_ALLOW`. -/
def reefChecks (_ : State) (c : Cmd) : List Check :=
  let all := c.nat 17 1
  [invalid (decide (1 < c.nat 16 1)) 16, invalid (decide (1 < all)) 17, invalid (all == 1 && !c.zero 18 2) 18,
   outOfRange (decide (4095 < c.nat 18 2)) 18]

/-- `REEF_ALLOW`. -/
def execReefAllow (n : SlotNo) (s : State) : Host.Outcome State Fault Refusal :=
  ok (s.command n 0x17 anyCmd (fun _ => 4) reefChecks (fun c s =>
      let on := c.nat 16 1 = 1
      let mask : BitVec 4096 := if c.nat 17 1 = 1 then BitVec.allOnes 4096 else BitVec.ofNat 4096 (2 ^ c.nat 18 2)
      let g := if on then s.pol.grants ||| mask else s.pol.grants &&& ~~~mask
      ({ s with pol := { s.pol with grants := g } }).reply c rsDone []))

/-! ## `LET_FLY` (R356) -/

/-- The checks of `LET_FLY`. -/
def flyChecks (_ : State) (c : Cmd) : List Check :=
  let all := c.nat 17 1
  [invalid (decide (15 < c.nat 16 1)) 16, invalid (decide (1 < all)) 17, outOfRange (decide (4095 < c.nat 18 2)) 18,
   invalid (c.nat 16 1 == 0) 16]

/-- `LET_FLY`. -/
def execLetFly (n : SlotNo) (s : State) : Host.Outcome State Fault Refusal :=
  ok (s.command n 0x60 anyCmd (fun _ => 4) flyChecks (fun c s =>
      let id := s.mh.lfId
      (s.issueFly { scope := c.nat 16 1, allCtx := c.nat 17 1 == 1, ctx := c.nat 18 2 }).reply c rsDone (leBytes 2 id)))

end Sys2Proof.Machine
end

