-- ==== Sys2Proof/Machine/Inspect.lean ====
section
/-! DEFINITION. Counters, sync words, channels and logs, the ledger, the spare map and the dump, as host software reads them (R351 to
R355). -/

namespace Sys2Proof.Machine

open Sys2Proof

/-! ## `COUNTERS_READ` (R352, Table 11-21) -/

/-- The first counter of a set, and the number of its counters. -/
def counterSet (k : Nat) : Nat × Nat := if k = 0 then (0, 10) else (10 + 7 * (k - 1), 7)

/-- The indices of the counters of a set, in order. -/
def setCounters (k : Nat) : List Nat := (List.range (counterSet k).2).map (fun i => (counterSet k).1 + i)

/-- Some counters start again at 0. -/
def State.clearCounters (s : State) (l : List Nat) : State :=
  { s with counters := l.foldl (fun t i => Tbl.set counterDefault t i 0) s.counters }

/-- The response's body. -/
def State.countersBody (s : State) (k : Nat) : List Byte :=
  leBytes 2 (counterSet k).2 ++ leBytes 2 0 ++ (setCounters k).flatMap (fun i => leBytes 4 (s.counter i))

/-- The checks of `COUNTERS_READ`. Bytes 18 and 19, which its table does not list, must be 0 (DESIGN CHOICE, log 100). -/
def countersChecks (_ : State) (c : Cmd) : List Check :=
  [invalid (decide (1 < c.nat 17 1)) 17, invalid (!c.zero 18 2) 18, outOfRange (decide (8 < c.nat 16 1)) 16]

/-- `COUNTERS_READ`: the values are read and cleared in one step. -/
def execCountersRead (n : SlotNo) (s : State) : Host.Outcome State Fault Refusal :=
  ok (s.command n 0x41 anyCmd (fun _ => 4) countersChecks (fun c s =>
      let k := c.nat 16 1
      let body := s.countersBody k
      (if c.nat 17 1 = 1 then s.clearCounters (setCounters k) else s).reply c rsDone body))

/-! ## `SYNC_INSPECT` (R353) -/

/-- An item of nothing. -/
def blankItem : List Byte := List.replicate 16 0

/-- Both parts of a word; an identifier without a word reads as zeros. -/
def State.wordItem (s : State) (w : Nat) : List Byte :=
  if w < 65536 ∧ wordIndex w < 768 then wordBytes 8 (s.word w).arch ++ wordBytes 8 (s.shadowWord w) else blankItem

/-- The code of a channel's state. -/
def chanCode : ChanState → Nat
  | .unbound => 0
  | .armed => 1
  | .broken => 2

/-- The members of the group with which a channel is bound. -/
def State.chanMembers (s : State) (x : Channel) : Nat :=
  if x.st = .unbound then 0 else ((s.group x.group).map (·.nmemb)).getD 0

/-- A channel: its state, phase, the arrivals counted on this chip, and the members of its group (DESIGN CHOICE, log 37). -/
def State.channelItem (s : State) (ch : Nat) : List Byte :=
  if ch < 64 then
    let x := s.chan ch
    leBytes 4 (chanCode x.st + 4 * (x.phase % 2)) ++ leBytes 4 x.arrived.length ++ leBytes 8 (s.chanMembers x)
  else blankItem

/-- An entry of the error log. -/
def ErrEntry.item (e : ErrEntry) : List Byte :=
  leBytes 2 (statusCode e.status) ++ wordBytes 2 e.word ++ leBytes 4 e.chip ++ wordBytes 4 e.rig ++ leBytes 4 0

/-- An entry of the drift log. -/
def DriftEntry.item (e : DriftEntry) : List Byte :=
  wordBytes 2 e.word ++ leBytes 2 0 ++ leBytes 4 e.value ++ leBytes 4 e.base ++ leBytes 4 (flag e.waited)

/-- Item `i` of one of the four ranges. -/
def State.inspectItem (s : State) (what i : Nat) : List Byte :=
  match what with
  | 0 => s.wordItem i
  | 1 => s.channelItem i
  | 2 => ((s.shadow.errLog[i]?).map ErrEntry.item).getD blankItem
  | _ => ((s.shadow.driftLog[i]?).map DriftEntry.item).getD blankItem

def siChip (c : Cmd) : Nat := c.nat 18 2

/-- The checks of `SYNC_INSPECT`. -/
def State.inspectChecks (s : State) (c : Cmd) : List Check :=
  let other := siChip c != s.topo.chip
  [invalid (decide (3 < c.nat 16 1)) 16, invalid (!c.zero 22 2) 22, outOfRange (decide (14 < c.nat 17 1)) 17,
   outOfRange (decide (32767 < siChip c)) 18, invalid (other && (c.nat 16 1 != 0 || !s.isPresent (siChip c))) 18]

/-- `SYNC_INSPECT`: words of another chip are asked for one by one through `MH_RELAY`. -/
def execSyncInspect (n : SlotNo) (s : State) : Host.Outcome State Fault Refusal :=
  ok (s.command n 0x42 anyCmd (fun _ => 8) State.inspectChecks (fun c s =>
    let what := c.nat 16 1
    let count := c.nat 17 1
    let first := c.nat 20 2
    let chip := siChip c
    if chip = s.topo.chip ∨ count = 0 then
      s.reply c rsDone ((List.range count).flatMap (fun i => s.inspectItem what (first + i)))
    else
      let r := Relay.words c.slot c.seq chip first count []
      let s := { s with mh := { s.mh with relay := s.mh.relay ++ [r] } }
      forEach (List.range count) (fun i s => s.relayTo chip 3 (min (first + i) 0xFFFF)) s))

/-! ## `LEDGER_INSPECT` (R354) -/

def liWhat (c : Cmd) : Nat := c.nat 16 1
def liCount (c : Cmd) : Nat := c.nat 17 1
def liFirst (c : Cmd) : Nat := c.nat 20 4

/-- The entry of row `r` of a slot with its residency byte; one that cannot be read is shown as uncorrectable. -/
def State.entryItem (s : State) (x : TagSlot) (r : Nat) : List Byte :=
  let home := flag (inSaddlebag (x.place r).1)
  match s.readRow x r with
  | .entry e => wordBytes 20 e ++ leBytes 4 home
  | _ => List.replicate 20 0 ++ leBytes 4 (home + 128)

/-- The code of a tag slot's state. -/
def tagCode : TagState → Nat
  | .free => 0
  | .live => 1
  | .quarantine => 2

/-- A tag slot. -/
def State.tagItem (s : State) (k : Nat) : List Byte :=
  let x := s.tagSlot k
  wordBytes 2 x.tag ++ leBytes 1 (tagCode x.st) ++ wordBytes 1 x.gen ++ leBytes 4 x.nopen ++ leBytes 4 x.tokBase ++
    leBytes 4 x.ntok

/-- The slot that a `LEDGER_INSPECT` of entries names. -/
def State.liSlot (s : State) (c : Cmd) : Option Nat := s.findTag (c.nat 18 2)

/-- The tokens that a command names lie in the tag's range. -/
def TagSlot.holdsRange (x : TagSlot) (first count : Nat) : Bool :=
  decide (x.tokBase ≤ first) && decide (first + count ≤ x.tokBase + x.ntok)

/-- The checks of `LEDGER_INSPECT`. -/
def State.ledgerChecks (s : State) (c : Cmd) : List Check :=
  let entries := liWhat c == 0
  let outside := match s.liSlot c with
    | some k => !(s.tagSlot k).holdsRange (liFirst c) (liCount c)
    | none => false
  [invalid (decide (1 < liWhat c)) 16, outOfRange (decide ((if entries then 9 else 14) < liCount c)) 17,
   outOfRange (if entries then outside else decide (64 < liFirst c + liCount c)) 20,
   invalid (entries && (s.liSlot c).isNone) 18]

/-- `LEDGER_INSPECT`. -/
def execLedgerInspect (n : SlotNo) (s : State) : Host.Outcome State Fault Refusal :=
  ok (s.command n 0x43 anyCmd (fun _ => 8) State.ledgerChecks (fun c s =>
    let items : List Byte :=
      if liWhat c = 0 then
        let x := s.tagSlot ((s.liSlot c).getD 0)
        (List.range (liCount c)).flatMap (fun i => s.entryItem x (liFirst c + i - x.tokBase))
      else (List.range (liCount c)).flatMap (fun i => s.tagItem (liFirst c + i))
    s.reply c rsDone (leBytes 8 (liCount c) ++ items)))

/-! ## `SPARE_MAP_READ` (R351, Table 11-20) -/

def spareDefault : Nat → Spare := fun _ => { st := 0, unit := 0 }
def rootDefault : Nat → Nat := fun u => u % 2

def UnitState.cs (u : UnitState) (i : Nat) : Spare := Tbl.get spareDefault u.cspare i
def UnitState.ls (u : UnitState) (i : Nat) : Spare := Tbl.get spareDefault u.lspare i
def UnitState.hr (u : UnitState) (i : Nat) : Nat := Tbl.get rootDefault u.hroot i
def UnitState.cr (u : UnitState) (i : Nat) : Nat := Tbl.get rootDefault u.croot i

/-- Two bytes for a spare: the unit is shown when it is not free. -/
def Spare.bytes (x : Spare) : List Byte := leBytes 2 (if x.st = 0 then 0 else x.st * 8192 + x.unit % 64)

/-- What a physical port is used for. -/
def State.portUse (s : State) (p : Nat) : Nat :=
  let k := s.lnk p
  match s.declOn p with
  | some e => 32 * (if k.st = .reefed then 3 else if k.isUp then 1 else 4) + e.1
  | none =>
    match s.topo.links.find? (fun e => e.2.spare == some p) with
    | some e => 32 * (if k.isUp then 2 else 4) + e.1
    | none => 0

/-- The response's body. -/
def State.spareMap (s : State) : List Byte :=
  let u := s.units
  (List.range 8).flatMap (fun i => (u.cs i).bytes) ++ wordBytes 8 u.fold ++ (List.range 4).flatMap (fun i => leBytes 1 (u.hr i)) ++
    (List.range 2).flatMap (fun i => leBytes 1 (u.cr i)) ++ (List.range 4).flatMap (fun i => (u.ls i).bytes) ++
    leBytes 1 u.spliceUsed ++ leBytes 1 32 ++ (List.range 8).flatMap (fun p => leBytes 1 (s.portUse p))

/-- `SPARE_MAP_READ`. -/
def execSpareMapRead (n : SlotNo) (s : State) : Host.Outcome State Fault Refusal :=
  ok (s.command n 0x40 anyCmd (fun _ => 0) noChecks (fun c s => s.reply c rsDone s.spareMap))

/-! ## `DUMP_FETCH` (R355, R381) -/

/-- The response's body. -/
def DumpState.body (d : DumpState) : List Byte :=
  leBytes 8 (flag d.valid) ++ leBytes 8 (if d.valid then d.addr else 0) ++ leBytes 4 (if d.valid then d.len else 0) ++
    leBytes 4 (if d.valid then d.seq else 0)

/-- The checks of `DUMP_FETCH`. Bytes 17 to 19, which its rule does not list, must be 0 (DESIGN CHOICE, log 100). -/
def dumpChecks (_ : State) (c : Cmd) : List Check := [invalid (decide (1 < c.nat 16 1)) 16, invalid (!c.zero 17 3) 17]

/-- `DUMP_FETCH`: a released dump is no longer valid, and the region may take a new one. -/
def execDumpFetch (n : SlotNo) (s : State) : Host.Outcome State Fault Refusal :=
  ok (s.command n 0x44 anyCmd (fun _ => 4) dumpChecks (fun c s =>
      let body := s.dump.body
      let s := if c.nat 16 1 = 1 then { s with dump := { s.dump with valid := false } } else s
      s.reply c rsDone body))

end Sys2Proof.Machine
end

