-- ==== Sys2Proof/Machine/HostWindow.lean ====
section
/-! DEFINITION. The host window: what a store does and what a load reads (R14, R178, R324 to R329, Tables 11-2 and 11-3). -/

namespace Sys2Proof.Machine

open Sys2Proof

/-- A window write is discarded whole: `WERR` is set, and the offset of the first one is kept (Table 11-3). -/
def State.winErr (s : State) (ofs : Nat) : State :=
  if s.win.werr then s else { s with win := { s.win with werr := true, werrOfs := BitVec.ofNat 16 ofs } }

/-- The code that `MH_STATE` shows (Table 11-8). -/
def mhCode : MhState → Nat
  | .boot => 0
  | .idle => 1
  | .configured => 2
  | .lowPower => 3
  | .fatal => 4

/-- `SLOT_BUSY`. -/
def Window.busy (w : Window) : Nat := w.rung.foldl (fun acc n => acc ||| 1 <<< n) 0

/-! ## Registers -/

/-- `HW_WERR`: its `W1C` bit clears the indication and the offset. -/
def State.writeWerr (s : State) (v : Nat) : State :=
  if v % 65536 / 2 ≠ 0 then s.winErr 0x0008
  else if v % 2 = 1 then { s with win := { s.win with werr := false, werrOfs := 0 } } else s

/-- The slots that a doorbell value rings, ascending. -/
def rungBy (v : Nat) : List Nat := bitList (BitVec.ofNat 16 v)

/-- `HW_DOORBELL` (R327), which wakes the block in `DOZE` (R416). -/
def State.ring (s : State) (v : Nat) : State :=
  let l := rungBy v
  if 65536 ≤ v ∨ s.mh.ready = false ∨ l.any (fun n => s.win.rung.contains n) then s.winErr 0x0010
  else ({ s with win := { s.win with rung := s.win.rung ++ l } }).wake

/-- `HW_RSP_HEAD` (R329). -/
def State.writeRspHead (s : State) (v : Nat) : State :=
  let w := s.win
  if 32 ≤ v ∨ (w.rspTail + 32 - w.rspHead) % 32 < (v + 32 - w.rspHead) % 32 then s.winErr 0x001C
  else { s with win := { w with rspHead := v } }

/-- `HW_IRQ_STATUS`: each 1 clears a cause. -/
def State.clearIrq (s : State) (v : Nat) : State :=
  if 8 ≤ v then s.winErr 0x0020
  else { s with win := { s.win with irqStatus := s.win.irqStatus &&& ~~~(BitVec.ofNat 3 v) } }

/-- `HW_IRQ_MASK`: a cause that is set and whose mask is cleared sends its message (R325). -/
def State.writeIrqMask (s : State) (v : Nat) : State :=
  if 8 ≤ v then s.winErr 0x0024
  else
    let w := s.win
    let freed := bitList (w.irqStatus &&& w.irqMask &&& ~~~(BitVec.ofNat 3 v))
    { s with
      win := { w with irqMask := BitVec.ofNat 3 v }
      out := { s.out with msix := (freed.map w.vec).reverse ++ s.out.msix } }

/-- The reserved bits of `HW_IRQ_VEC` are 0. -/
def vecOk (v : Nat) : Bool := v / 2 ^ 22 == 0 && v / 2 ^ 14 % 4 == 0 && v / 2 ^ 6 % 4 == 0

/-- `HW_IRQ_VEC`. -/
def State.writeIrqVec (s : State) (v : Nat) : State :=
  if vecOk v then { s with win := { s.win with irqVec := BitVec.ofNat 32 v } } else s.winErr 0x0028

/-- `TT_INSPECT_SEL` captures both parts of the word in one step (R178). -/
def State.capture (s : State) (v : Nat) : State :=
  if 65536 ≤ v ∨ 768 ≤ wordIndex v then s.winErr 0x0030
  else { s with win := { s.win with
    sel := BitVec.ofNat 16 v, capArch := (s.word v).arch, capShadow := s.shadowWord v } }

/-- An aligned 32-bit store to a register; one to an `RO` register or a reserved offset is discarded (R324). -/
def State.writeReg (s : State) (ofs v : Nat) : State :=
  match ofs with
  | 0x0008 => s.writeWerr v
  | 0x0010 => s.ring v
  | 0x001C => s.writeRspHead v
  | 0x0020 => s.clearIrq v
  | 0x0024 => s.writeIrqMask v
  | 0x0028 => s.writeIrqVec v
  | 0x0030 => s.capture v
  | _ => s.winErr ofs

/-! ## The window (Table 11-2) -/

/-- A store of `n` bytes at an offset: a register takes aligned 32-bit stores, a command slot aligned stores of 1, 4 or 8 bytes; any
other is discarded (R324, DESIGN CHOICE, log 38). After `OFF` there is nothing to store to. -/
def State.hostStore (s : State) (ofs n v : Nat) : State :=
  if n = 0 ∨ s.power.st = .off then s
  else if 0x1000 ≤ ofs ∧ ofs < 0x2000 then
    if (n = 1 ∨ n = 4 ∨ n = 8) ∧ ofs % n = 0 then
      { s with win := { s.win with slots := putBytes s.win.slots (ofs - 0x1000) (leBytes n v) } }
    else s.winErr ofs
  else if n = 4 ∧ ofs % 4 = 0 then s.writeReg ofs (v % 2 ^ 32)
  else s.winErr ofs

/-- `HW_STATUS`. -/
def State.hwStatus (s : State) : Nat :=
  flag s.mh.ready * 2 ^ 31 + mhCode s.mh.st * 2 ^ 28 + flag s.mh.long.isSome * 2 ^ 27 + s.sec.run % 2 * 2 ^ 26 +
    flag s.sec.trial * 2 ^ 25 + flag s.debug * 2 ^ 24 + s.win.evLost % 65536

/-- The register at an offset. -/
def State.readReg (s : State) (ofs : Nat) : Nat :=
  let w := s.win
  match ofs with
  | 0x0000 => 0x0D170100
  | 0x0004 => s.hwStatus
  | 0x0008 => w.werrOfs.toNat * 65536 + flag w.werr
  | 0x0014 => w.busy
  | 0x0018 => w.rspTail
  | 0x001C => w.rspHead
  | 0x0020 => w.irqStatus.toNat
  | 0x0024 => w.irqMask.toNat
  | 0x0028 => w.irqVec.toNat
  | 0x0030 => w.sel.toNat
  | 0x0038 => w.capArch.toNat
  | 0x0040 => w.capShadow.toNat
  | _ => 0

/-- A load of `n` bytes: a reserved offset reads 0. -/
def State.hostLoad (s : State) (ofs n : Nat) : Nat :=
  let bytes : Tbl Byte → Nat → Nat := fun t base => leNat ((List.range n).map (fun i => Tbl.get byteDefault t (ofs - base + i)))
  if 0x1000 ≤ ofs ∧ ofs < 0x2000 then bytes s.win.slots 0x1000
  else if 0x2000 ≤ ofs ∧ ofs < 0x4000 then bytes s.win.ring 0x2000
  else s.readReg ofs % 2 ^ (8 * n)

/-! ## The rows -/

/-- `HOST_WINDOW_WRITE` (R324). -/
def execHostWindowWrite (ofs : BitVec 16) (n : Fin 9) (v : Word64) (s : State) : Host.Outcome State Fault Refusal :=
  ok (s.hostStore ofs.toNat n v.toNat)

/-- `HW_DOORBELL` (R327). -/
def execHwDoorbell (v : Word32) (s : State) : Host.Outcome State Fault Refusal := ok (s.hostStore 0x0010 4 v.toNat)

/-- `HW_RSP_HEAD` (R329). -/
def execHwRspHead (v : Word32) (s : State) : Host.Outcome State Fault Refusal := ok (s.hostStore 0x001C 4 v.toNat)

/-- `HW_IRQ_MASK` (R325). -/
def execHwIrqMask (v : Word32) (s : State) : Host.Outcome State Fault Refusal := ok (s.hostStore 0x0024 4 v.toNat)

/-- `TT_INSPECT_SEL` (R178). -/
def execTtInspectSel (v : Word32) (s : State) : Host.Outcome State Fault Refusal := ok (s.hostStore 0x0030 4 v.toNat)

end Sys2Proof.Machine
end

