-- ==== Sys2Proof/Machine/Image.lean ====
section
/-! DEFINITION. Containers: the snapshot image and the post-mortem dump, section by section (R368, R375, R380, Tables 12-5 to 12-7). -/

namespace Sys2Proof.Machine

open Sys2Proof

/-! ## Sections (Table 12-5) -/

/-- A section: its type, its record size, its records. -/
structure Sect where
  type : Nat
  rsize : Nat
  recs : List (List Byte)
  deriving DecidableEq, Repr

/-- Bytes of a section with `n` records, with header and padding. -/
def sectLen (rsize n : Nat) : Nat := 64 * ((16 + rsize * n + 63) / 64)

def Sect.len (x : Sect) : Nat := sectLen x.rsize x.recs.length

/-- The bytes of a section that holds its first `n` records. -/
def Sect.bytes (x : Sect) (n : Nat) (cut : Bool) : List Byte :=
  let body := (x.recs.take n).flatten
  leBytes 1 x.type ++ leBytes 1 (flag cut) ++ leBytes 2 x.rsize ++ leBytes 4 n ++ leBytes 4 (x.rsize * n) ++
    wordBytes 4 (crc32c body) ++ body ++ List.replicate (sectLen x.rsize n - 16 - x.rsize * n) 0

/-- Every section whole. -/
def wholeSects (l : List Sect) : List Byte := l.flatMap (fun x => x.bytes x.recs.length false)

/-- The sections that fit in a region (R380): once one is cut, every later one is a header alone. -/
def packSects : Nat → Bool → List Sect → List (List Byte)
  | _, _, [] => []
  | room, cut, x :: r =>
    if !cut && decide (x.len ≤ room) then x.bytes x.recs.length false :: packSects (room - x.len) false r
    else if room < 64 then []
    else
      let n := if cut then 0 else (64 * (room / 64) - 16) / x.rsize
      x.bytes n true :: packSects (room - sectLen x.rsize n) true r

/-- The container header (Table 12-5). -/
def containerHeader (kind nsect : Nat) (chip number seq lost len cause : Nat) (fw : BitVec 32) : List Byte :=
  let l := leBytes 4 0x58524C52 ++ leBytes 1 kind ++ leBytes 1 1 ++ leBytes 2 nsect ++ wordBytes 8 Config.dieId ++ leBytes 2 chip ++
    leBytes 6 number ++ leBytes 4 seq ++ leBytes 4 lost ++ leBytes 8 len ++ wordBytes 4 fw ++ leBytes 4 cause ++ leBytes 12 0
  l ++ wordBytes 4 (crc32c l)

/-- `CH_CHIP`, and `HR_CHIP` (Table 11-10). -/
def State.chipField (s : State) : Nat := if s.topo.rigValid then s.topo.chip else 0xFFFF

/-! ## Records (Table 12-7) -/

/-- A bound context; an epoch that is not recorded is 0 with status 0 (DEDUCED, log 39). -/
def Binding.image (ctx : Nat) (b : Binding) : List Byte :=
  let e := b.epochs.take 4
  let pad := 4 - e.length
  leBytes 2 ctx ++ leBytes 2 b.group ++ leBytes 1 (b.chan.getD 0xFF) ++ leBytes 1 (flag b.chosen) ++ leBytes 2 0 ++
    leBytes 4 b.started ++ leBytes 4 (if b.chosen then b.cut else 0) ++ e.flatMap (fun x => leBytes 2 x.1) ++ leBytes (2 * pad) 0 ++
    e.flatMap (fun x => leBytes 1 (statusCode x.2)) ++ leBytes pad 0 ++ leBytes 20 0 ++ b.block

/-- The words of a chip, by cluster and index. -/
def allWords : List Nat := (List.range 64).flatMap (fun c => (List.range 768).map (fun i => 1024 * c + i))

/-- A waiting command. -/
def waiterBytes (target slot top operand place tmo : Nat) : List Byte :=
  leBytes 2 target ++ leBytes 1 slot ++ leBytes 1 top ++ leBytes 4 operand ++ leBytes 2 place ++ leBytes 1 tmo ++ leBytes 5 0

/-- The waiters of a word: its queue, then its waits for zero. -/
def SyncWord.image (w : Nat) (x : SyncWord) : List (List Byte) :=
  x.waiters.zipIdx.map (fun e => waiterBytes w (e.1.pos % 16) 2 e.1.operand e.2 e.1.tmo)

/-- The barrier waiters of a channel: the operand field, which a barrier wait leaves 0, holds the on-die position (DESIGN CHOICE, log 40). -/
def Channel.waitImage (ch : Nat) (x : Channel) : List (List Byte) :=
  x.waits.zipIdx.map (fun e => waiterBytes ch (e.1.pos % 16) e.1.top e.1.pos e.2 e.1.tmo)

/-- The bitmap of some positions. -/
def posBytes (l : List Nat) : List Byte :=
  leBytes 128 (l.foldl (fun (acc : Nat) p => acc ||| 1 <<< p) 0)

/-- A channel with the counts of the fold nodes that this chip hosts. -/
def State.chanImage (s : State) (ch : Nat) : List Byte :=
  let x := s.chan ch
  let hosts : List FoldRec := match s.group x.group with
    | some g => if x.st = ChanState.unbound then [] else (s.hosted g).take 2
    | none => []
  let nodes := hosts.flatMap (fun r =>
    leBytes 4 r.fnid.toNat ++ leBytes 4 ((x.nodes.filter (fun n => n.fnid = r.fnid)).foldl (fun a n => a + n.count) 0))
  leBytes 1 ch ++ leBytes 1 (chanCode x.st) ++ leBytes 1 x.phase ++ leBytes 1 (flag x.trim) ++ leBytes 4 x.arrived.length ++
    leBytes 2 x.ctx ++ leBytes 6 0 ++ nodes ++ leBytes (16 - nodes.length) 0 ++ posBytes x.arrived

/-- A tag slot; one whose `ROUTE` still runs is recorded as free when `cutOnly` is set. -/
def State.tagImage (s : State) (cutOnly : Bool) (k : Nat) : List Byte :=
  let x := if cutOnly && !(s.tagSlot k).routeDone then tagDefault k else s.tagSlot k
  wordBytes 2 x.tag ++ leBytes 1 (tagCode x.st) ++ wordBytes 1 x.gen ++ leBytes 4 x.tokBase ++ leBytes 4 x.ntok ++
    leBytes 2 x.blocks.length ++ leBytes 2 0 ++ leBytes 4 x.nopen ++ leBytes 12 0

/-- An entry that is not `FREE`, of row `r` of slot `k`; one that cannot be read is written as zeros, with its mark. -/
def State.entryImage (s : State) (k : Nat) (x : TagSlot) (r : Nat) : List (List Byte) :=
  let tail := leBytes 2 (r / 1024) ++ leBytes 2 (r % 1024) ++ leBytes 6 0
  match s.readRow x r with
  | .entry e => if leState e = lsFree then [] else [wordBytes 20 e ++ leBytes 1 k ++ leBytes 1 0 ++ tail]
  | _ => [List.replicate 20 0 ++ leBytes 1 k ++ leBytes 1 1 ++ tail]

/-- The entries of the image: of every tag whose `ROUTE` has completed. The dump holds die entries alone. -/
def State.ledgerImage (s : State) (dump : Bool) : List (List Byte) :=
  (List.range 64).flatMap (fun k =>
    let x := s.tagSlot k
    if x.st = .free ∨ (dump = false ∧ x.routeDone = false) then []
    else (List.range x.ntok).flatMap (fun r =>
      if dump && inSaddlebag (x.place r).1 then [] else s.entryImage k x r))

/-- An endpoint port; responses held by a rebind stand behind the unread ones. -/
def Port.image (x : Port) : List Byte :=
  let resp := (x.resp ++ x.heldResp).take 32
  let nq := x.nq.take 16
  wordBytes 8 x.sqCfg ++ wordBytes 8 x.cqCfg ++ leBytes 2 x.sqHead ++ leBytes 2 x.sqTail ++ leBytes 2 x.cqHead ++ leBytes 2 x.cqTail ++
    leBytes 1 (flag x.cqPhase) ++ leBytes 1 x.credits ++ leBytes 1 resp.length ++ leBytes 1 nq.length ++ leBytes 4 0 ++
    resp.flatMap (wordBytes 8) ++ List.replicate (256 - 8 * resp.length) 0 ++ nq.flatMap (wordBytes 16) ++
    List.replicate (256 - 16 * nq.length) 0 ++ List.replicate 32 0

/-- A held operation with its descriptor. -/
def heldBytes (pos ring : Nat) (d : Desc) : List Byte :=
  leBytes 2 pos ++ leBytes 2 ring ++ leBytes 12 0 ++ d.words.flatMap (wordBytes 8)

/-- Every outstanding `COMBINE` without `GRAD_RET`, and every posted receive; then those of endpoints reset during the stop. -/
def State.heldOps (s : State) (before : List PosImage) : List (List Byte) :=
  (s.ops.combs.filter (fun o => o.live && standing o.desc)).map (fun o => heldBytes o.pos o.ring o.desc) ++
    (s.ops.recvs.filter (·.live)).map (fun r => heldBytes r.pos r.ring r.desc) ++
    before.flatMap (fun e => e.held.map (fun h => heldBytes e.pos h.1 h.2))

/-- The port of a position, as it was before a reset during the stop. -/
def State.portBefore (s : State) (before : List PosImage) (p : Nat) : Port :=
  match before.find? (fun e => e.pos == p) with
  | some e => e.port
  | none => s.port p

/-- The endpoints that were reset during the stop of the cinch that runs. -/
def State.resetInStop (s : State) : List PosImage :=
  match s.mh.cut with
  | some c => c.before
  | none => []

/-- A duplicate table. -/
def dupImage (e : Nat × List (BitVec 25 × BitVec 32)) : List Byte :=
  leBytes 2 (e.1 / 16) ++ leBytes 1 (e.1 % 16) ++ leBytes 1 e.2.length ++ leBytes 4 0 ++
    e.2.flatMap (fun p => wordBytes 4 p.1 ++ wordBytes 4 p.2) ++ List.replicate (256 - 8 * e.2.length) 0

/-! ## The sections (Table 12-6) -/

/-- The sections that image and dump share, with the bitmap of chosen contexts. -/
def State.commonSects (s : State) (chosen : BitVec 4096) (dump : Bool) : List Sect :=
  let before := if dump then [] else s.resetInStop
  [{ type := 0x01, rsize := 512, recs := [wordBytes 512 chosen] },
   { type := 0x02, rsize := 176, recs := s.ctxs.map (fun e => e.2.image e.1) },
   { type := 0x03, rsize := 8, recs := allWords.map (fun w => wordBytes 8 (s.word w).arch) },
   { type := 0x04, rsize := 16
     recs := s.tt.words.flatMap (fun e => e.2.image e.1) ++ s.tt.chans.flatMap (fun e => e.2.waitImage e.1) },
   { type := 0x05, rsize := 160, recs := (List.range 64).map s.chanImage },
   { type := 0x06, rsize := 32, recs := (List.range 64).map (s.tagImage (!dump)) },
   { type := 0x07, rsize := 32, recs := s.ledgerImage dump },
   { type := 0x08, rsize := 576, recs := (List.range 1024).map (fun p => (s.portBefore before p).image) },
   { type := 0x09, rsize := 80, recs := s.heldOps before },
   { type := 0x0A, rsize := 264, recs := (sortBy (fun e => e.1) (s.ops.dups ++ before.flatMap (·.dups))).map dupImage }]

/-- A log of 64 items. -/
def logItems (l : List (List Byte)) : List (List Byte) := l ++ List.replicate (64 - l.length) blankItem

/-- The registers of one of Masthead's cores. DEDUCED, log 101. -/
def mastheadRecord (core : Nat) : List Byte :=
  (List.range 144).map (fun i => Config.mastheadByte (144 * core + i)) ++ List.replicate 112 0

/-- A parameter of Table 11-17 in the entry layout of `POLICY_SET`. -/
def State.policyImage (s : State) (id : Nat) : List Byte := leBytes 4 id ++ leBytes 8 (s.policy id)

/-- The sections of the dump. -/
def State.dumpSects (s : State) : List Sect :=
  s.commonSects 0 true ++
  [{ type := 0x10, rsize := 8, recs := allWords.map (fun w => wordBytes 8 (s.shadowWord w)) },
   { type := 0x11, rsize := 16
     recs := logItems (s.shadow.errLog.map ErrEntry.item) ++ logItems (s.shadow.driftLog.map DriftEntry.item) },
   { type := 0x12, rsize := 4, recs := (List.range 66).map (fun i => leBytes 4 (s.counter i)) },
   { type := 0x13, rsize := 48, recs := [s.spareMap] },
   { type := 0x14, rsize := 16, recs := (List.range 8).map s.portEntry },
   { type := 0x15, rsize := 256, recs := [mastheadRecord 0, mastheadRecord 1] },
   { type := 0x16, rsize := 12, recs := policyIds.map s.policyImage }]

/-! ## The dump (R379 to R381) -/

/-- A dump begins; while an earlier one is valid, or is being written, it is only counted, and so is one whose region cannot hold a header
(DESIGN CHOICE, log 41). -/
def State.beginDump (s : State) (cause : Nat) : State :=
  let d := s.dump
  if d.valid ∨ d.due.isSome ∨ s.inp.regions.dumpLen < 64 then { s with dump := { d with lost := d.lost + 1 } }
  else { s with dump := { d with due := some cause } }

/-- The dump that has begun is written into its region and announced. The block writes it when no command waits (DESIGN CHOICE, log 133). -/
def State.writeDump (s : State) : State :=
  let d := s.dump
  let room := s.inp.regions.dumpLen
  match d.due with
  | none => s
  | some cause =>
    let l := packSects (room - 64) false s.dumpSects
    let body := l.flatten
    let len := 64 + body.length
    let head := containerHeader 2 l.length s.chipField s.cut.last (d.seq + 1) d.lost len cause (s.versions s.sec.run).1
    let a := s.inp.regions.dump
    let s := store s a (head ++ body)
    let s := { s with dump := { valid := true, addr := a, len := len, seq := d.seq + 1, lost := 0, due := none } }
    s.event 0x0106 (leBytes 8 a ++ leBytes 4 len)

end Sys2Proof.Machine
end

