-- ==== Sys2Proof/Machine/Units.lean ====
section
/-! DEFINITION. Fatal errors, spare units, fills, folds, state loss and reef levels (R323, R379, R385 to R398). -/

namespace Sys2Proof.Machine

open Sys2Proof

/-! ## Units (Tables 13-3 and 13-4) -/

/-- `EF_KIND` of a unit. -/
def unitKind : UnitId → Nat
  | .node _ => 1
  | .half _ => 2
  | .root _ => 3
  | .bank _ => 4
  | .selector _ => 11
  | .lane _ => 12
  | .pool _ => 13

/-- `EF_INDEX` of a unit. -/
def unitIndex : UnitId → Nat
  | .node n => n
  | .half u => u
  | .root u => u
  | .bank b => b
  | .selector u => u
  | .lane u => u
  | .pool u => u

def nodeUnit (n : Nat) : UnitId := .node (Fin.ofNat 72 n)
def bankUnit (b : Nat) : UnitId := .bank (Fin.ofNat 68 b)

/-- The unit-state part changes. -/
def State.modUnits (s : State) (f : UnitState → UnitState) : State := { s with units := f s.units }

/-- A unit is marked failed; a reset or a passed test clears the mark (R390). DEDUCED, log 110. -/
def UnitState.markFailed (x : UnitId) (u : UnitState) : UnitState :=
  if u.failed.contains x then u else { u with failed := u.failed ++ [x] }

def UnitState.clearFailed (x : UnitId) (u : UnitState) : UnitState := { u with failed := u.failed.filter (fun y => y ≠ x) }

def UnitState.setCs (i st unit : Nat) (u : UnitState) : UnitState :=
  { u with cspare := Tbl.set spareDefault u.cspare i { st := st, unit := if st = 0 then 0 else unit } }

def UnitState.setLs (i st unit : Nat) (u : UnitState) : UnitState :=
  { u with lspare := Tbl.set spareDefault u.lspare i { st := st, unit := if st = 0 then 0 else unit } }

/-- The state of a root unit, of a half root or of the chip root. -/
def UnitState.rootSt (u : UnitState) (half : Bool) (i : Nat) : Nat := if half then u.hr i else u.cr i

def UnitState.setRoot (half : Bool) (i v : Nat) (u : UnitState) : UnitState :=
  if half then { u with hroot := Tbl.set rootDefault u.hroot i v } else { u with croot := Tbl.set rootDefault u.croot i v }

/-- The other unit of a pair. -/
def pairOf (i : Nat) : Nat := if i % 2 = 0 then i + 1 else i - 1

/-- Masthead runs and takes the decisions of Table 11-1 (R322, R323, R335). -/
def State.mhActs (s : State) : Bool := s.mh.ready && !s.mh.halted && s.mh.st != .fatal && s.power.st != .off

/-! ## Fatal errors (R323, R379, R385, R386) -/

/-- Masthead's cores run: the firmware has been released (Table 14-10), and the power is on. -/
def State.coresRun (s : State) : Bool := (s.power.boot == .firmware || s.power.boot == .done) && s.power.st != .off

/-- A fatal error: the report to every chip, the let-fly of everything, `MH_FATAL`, the record, the dump and the interrupt. Before the
firmware has been released it cannot do so (DEDUCED, log 42). DEDUCED, log 116. -/
def State.fatal (s : State) (code kind index : Nat) : State :=
  if s.coresRun ∧ s.mh.halted = false then
    let s := (s.wake.sendReport code 0).issueFly Fly.every
    let s := { s with mh := { s.mh with st := .fatal, cause := code } }
    ((s.postFault code kind index 9 0xFFFF 0).beginDump code).raiseIrq 2
  else s

/-! ## Clusters and their nodes (R388, R393, R395) -/

/-- The spare that serves a cluster. -/
def UnitState.spareOf (u : UnitState) (c : Nat) : Option Nat :=
  (List.range 8).find? (fun i => (u.cs i).st == 3 && (u.cs i).unit == c)

/-- The node of a cluster that is not folded. -/
def UnitState.ownNode (u : UnitState) (c : Nat) : Nat := match u.spareOf c with | some i => 64 + i | none => c

/-- The node that serves a cluster; under `REEF_FOLD` its host's. -/
def UnitState.nodeOf (u : UnitState) (c : Nat) : Nat :=
  match u.foldHost.find c with
  | some h => u.ownNode h
  | none => u.ownNode c

/-- A cluster is served now. -/
def UnitState.served (u : UnitState) (c : Nat) : Bool := !u.lost.contains c && !u.paused.contains c

/-- The clusters that a node serves, its own first. -/
def UnitState.clustersOf (u : UnitState) (n : Nat) : List Nat :=
  let l := (List.range 64).filter (fun c => u.served c && u.nodeOf c == n)
  l.filter (fun c => (u.foldHost.find c).isNone) ++ l.filter (fun c => (u.foldHost.find c).isSome)

/-- The cluster's node serves no other cluster. -/
def UnitState.alone (u : UnitState) (c : Nat) : Bool :=
  u.served c && (u.foldHost.find c).isNone && !u.foldHost.any (fun e => e.2 == c)

/-- The neighbour into which a cluster folds (R395). -/
def UnitState.neighbour (u : UnitState) (c : Nat) : Option Nat :=
  if u.alone (pairOf c) then some (pairOf c)
  else
    let row := (List.range 8).map (fun i => 8 * (c / 8) + i)
    (sortBy (fun h => 64 * (max h c - min h c) + h) (row.filter (fun h => h != c && u.alone h))).head?

/-- The row whose spare also serves a row. -/
def partnerRow (r : Nat) : Nat := pairOf r

/-- The spare that a cluster may take: its row's when free or merely shadowing, else its partner row's when free (R392). -/
def UnitState.pickSpare (u : UnitState) (c : Nat) : Option Nat :=
  let r := c / 8
  if (u.cs r).st ≤ 1 then some r else if (u.cs (partnerRow r)).st = 0 then some (partnerRow r) else none

/-! ## State loss (R394) -/

/-- Free bytes as a number: contents that the manual leaves undefined (DESIGN CHOICE, log 4). -/
def State.freeNat (s : State) (n : Nat) : Nat := leNat ((List.range n).map (fun i => Config.freeByte (s.free + i)))

/-- A record of a SECDED fault names the failing address (Table 13-3), whose form the manual does not give: it is free (DESIGN CHOICE, log 13). -/
def State.withAddress (s : State) (f : Nat → State → State) : State := f (s.freeNat 8) { s with free := s.free + 8 }

/-- The state of a sync word is lost: what R394 does not give is free, and so is the shadow. -/
def State.loseWord (w : Nat) (s : State) : State :=
  let x := s.word w
  let pool := s.poolMode (wordCluster w)
  let r : BitVec 96 := BitVec.ofNat 96 (s.freeNat 12)
  let y : SyncWord := {
    mode := .flag, own := if pool then .unclaimed else .orphaned, ovf := false, udf := false, trimEn := bit r 0, drift := false
    base := bits r 1 20, owner := if pool then bits r 21 4 else x.owner, value := 0, queue := [], drain := [] }
  let sh : Shadow := {
    lastOp := bits r 25 4, sigSeq := BitVec.ofNat 8 (bits r 29 8), lsValid := bit r 37, lsOffdie := bit r 38
    lastSig := BitVec.ofNat 25 (bits r 39 25) }
  let s := ({ s with free := s.free + 12 }.setWord w y).setShadow w sh
  forEach x.waiters (fun q s => s.answerWait w q .fault 0) s

/-- A channel whose arrival count is lost: its waits complete with `FAULT`, and it is broken on every chip of its group. -/
def State.loseChannel (ch : Nat) (s : State) : State :=
  (s.endBarrierWaits ch (fun _ => true) .fault 0).breakChannel ch none

/-- The armed channels with a member in a cluster. -/
def State.chansIn (s : State) (c : Nat) : List Nat :=
  (List.range 64).filter (fun ch =>
    let x := s.chan ch
    match x.st, s.group x.group with
    | .armed, some g => g.locals.any (fun p => p / 16 == c)
    | _, _ => false)

/-- The contexts of some channels. -/
def State.chanCtxs (s : State) (l : List Nat) : List Nat := l.map (fun ch => (s.chan ch).ctx)

/-- What the loss of some words and channels does, with the records of R394; `more` picks out further collectives that end. -/
def State.loseState (s : State) (words chans : List Nat) (more : Coll → Bool) (node detail : Nat) : State :=
  let ctxs := s.chanCtxs chans
  let mine : Coll → Bool := fun c => more c || ctxs.contains c.ctx
  let hit := s.hitContexts mine
  let s := s.postFault 0x12 1 node 8 0xFFFF detail
  let s := forEach words State.loseWord s
  let s := forEach chans State.loseChannel s
  let s := s.faultColls mine
  s.postRestore 0xFFFF (oneContext hit)

/-! ## Fills and folds (R391 to R396) -/

/-- The cluster resumes: a let-fly that reached it in the pause comes first, then what was held (R392, Table 13-5). -/
def State.resumeCluster (c : Nat) (s : State) : State :=
  let fly := s.inp.deferred.contains (1024 + c)
  let s := s.modUnits (fun u => { u with paused := u.paused.filter (fun x => x ≠ c) })
  let s := { s with inp := { s.inp with deferred := s.inp.deferred.filter (fun x => x ≠ 1024 + c) } }
  let s := if fly then
      forEach (s.tt.chans.map (·.1)) (State.flyMembers (fun p => p / 16 == c)) (s.flushWords (fun w => wordCluster w == c) .aborted)
    else s
  s.flush.turnSends

/-- A spare begins to fill from a cluster's state arrays, and the cluster pauses. -/
def UnitState.startFill (c i : Nat) (u : UnitState) : UnitState :=
  { u.setCs i 2 c with paused := if u.paused.contains c then u.paused else u.paused ++ [c] }

/-- A cluster folds into a neighbour. -/
def UnitState.startFold (c h : Nat) (u : UnitState) : UnitState :=
  { u with foldHost := u.foldHost.put c h, fold := u.fold ||| BitVec.ofNat 64 (2 ^ c ||| 2 ^ h) }

/-- A cluster is folded no longer. -/
def UnitState.endFold (c : Nat) (u : UnitState) : UnitState :=
  match u.foldHost.find c with
  | none => u
  | some h => { u with foldHost := u.foldHost.del c, fold := u.fold &&& ~~~(BitVec.ofNat 64 (2 ^ c ||| 2 ^ h)) }

/-- The failed node whose arrays still hold a cluster's state is noted, and forgotten (R391, R395). -/
def UnitState.putSource (c n : Nat) (u : UnitState) : UnitState :=
  if (u.sources.find c).isSome then u else { u with sources := u.sources.put c n }

def UnitState.dropSource (c : Nat) (u : UnitState) : UnitState := { u with sources := u.sources.del c }

/-- A cluster is lost with all its state (Table 13-5). -/
def State.loseCluster (s : State) (c node code detail : Nat) (post : Bool) : State :=
  let s := if post then s.postFault code 1 node 8 0xFFFF detail else s
  let s := s.modUnits (fun u => { u.dropSource c with lost := u.lost ++ [c] })
  let s := s.withAddress (fun d s => s.loseState ((List.range 768).map (fun i => 1024 * c + i)) (s.chansIn c)
    (fun x => x.members.any (fun m => m.pos / 16 == c)) node d)
  s.resumeCluster c

/-- A cluster whose node has stopped: a spare fills, or the cluster folds, or it is lost. `refill` says that the spare being filled
failed, and `post` that this cluster's cover is the one that the fault's record names (R387: one record for each fault). -/
def State.coverCluster (node code detail : Nat) (refill post : Bool) (c : Nat) (s : State) : State :=
  let s := s.modUnits (fun u => (u.endFold c).putSource c node)
  let note : Nat → Nat → State → State := fun action spare s => if post then s.postFault code 1 node action spare detail else s
  match s.units.pickSpare c with
  | some i => note (if refill then 11 else 1) (64 + i) (s.modUnits (UnitState.startFill c i))
  | none =>
    match s.units.neighbour c with
    | some h => (note 2 (s.units.ownNode h) (s.modUnits (UnitState.startFold c h))).resumeCluster c
    | none => s.loseCluster c node code detail post

/-- The spare of a number fails. -/
def UnitState.failSpare (n : Nat) (u : UnitState) : UnitState :=
  if 64 ≤ n then { u with cspare := Tbl.set spareDefault u.cspare (n - 64) { u.cs (n - 64) with st := 4 } } else u

/-- A cluster node fails (codes 0x10 and 0x11): every cluster that it serves or is being filled with is covered anew. A node that
serves nothing is only marked (DESIGN CHOICE, log 43). -/
def State.nodeFail (s : State) (n code detail : Nat) : State :=
  let served := s.units.clustersOf n
  let old := s.units.cs (n - 64)
  let filling := decide (64 ≤ n) && old.st == 2
  let s := s.modUnits (fun u => (u.failSpare n).markFailed (nodeUnit n))
  if filling then s.coverCluster n code detail true true old.unit
  else if served.isEmpty then s.postFault code 1 n 10 0xFFFF detail
  else forEach served (fun c => State.coverCluster n code detail false (served.head? == some c) c) s

/-- A spare is being filled for a cluster. -/
def UnitState.fillsFor (u : UnitState) (c : Nat) : Bool := (List.range 8).any (fun i => (u.cs i).st == 2 && (u.cs i).unit == c)

/-- Spares that have become free take back folded clusters of their row or partner row, those that none is being filled for (R396). -/
def State.endFolds (s : State) : State :=
  forEach (s.units.foldHost.map (·.1)) (fun c s =>
    match s.units.pickSpare c with
    | some i => if s.units.fillsFor c then s else s.modUnits (UnitState.startFill c i)
    | none => s) s

/-- `FILL_COMPLETE` (R392, R396): the spare serves; a fold that it ends is cleared. -/
def execFillComplete (spare : Fin 8) (s : State) : Host.Outcome State Fault Refusal :=
  let x := s.units.cs spare
  if x.st = 2 then
    ok ((s.modUnits (fun u => ((u.endFold x.unit).dropSource x.unit).setCs spare 3 x.unit)).resumeCluster x.unit)
  else ok s

/-! ## Root units (R389) -/

/-- A unit of a root pair fails: the other serves alone, and with none left the chip is lost. -/
def State.rootFail (s : State) (half : Bool) (i detail : Nat) : State :=
  let unit : UnitId := if half then .half (Fin.ofNat 4 i) else .root (Fin.ofNat 2 i)
  let other := pairOf i
  if 2 ≤ s.units.rootSt half i then s
  else
    let alive := decide (s.units.rootSt half other < 2)
    let s := s.modUnits (fun u => (u.setRoot half i 2).markFailed unit)
    if alive then
      (s.modUnits (UnitState.setRoot half other 0)).postFault (if half then 0x20 else 0x22) (unitKind unit) i 3 other detail
    else s.fatal 0x03 (unitKind unit) i

/-! ## Splice bundles, ledger banks, selectors, lanes and pools (R397, R402, codes 0x28 to 0x39) -/

/-- A splice bundle fails: a spare bundle takes its place, or the plane on it runs at half rate. DEDUCED, log 108. -/
def State.spliceFail (s : State) (b : Nat) : State :=
  if s.units.spliceUsed < 32 then
    let k := s.units.spliceUsed
    (s.modUnits (fun u => { u with spliceUsed := k + 1 })).postFault 0x28 5 b 10 (320 + k) 0
  else (s.modUnits (fun u => { u with spliceLost := uniq (u.spliceLost ++ [b]) })).postFault 0x28 5 b 10 0xFFFF 0

/-- The spare bank that serves a bank, or is being filled from it. -/
def UnitState.bankSpare (u : UnitState) (b : Nat) : Option Nat :=
  (List.range 4).find? (fun i => ((u.ls i).st == 2 || (u.ls i).st == 3) && (u.ls i).unit == b)

/-- A spare bank that is free. -/
def UnitState.freeBank (u : UnitState) : Option Nat := (List.range 4).find? (fun i => (u.ls i).st == 0)

/-- The bank number that a physical bank serves. -/
def UnitState.bankServed (u : UnitState) (b : Nat) : Option Nat :=
  if b < 64 then (if u.servingBank b = b ∧ u.lostBanks.contains b = false then some b else none)
  else if (u.ls (b - 64)).st = 3 then some (u.ls (b - 64)).unit else none

/-- The tag of a die entry, with the row: slot and row. -/
def State.rowAt (s : State) (e : Nat) : Option (Nat × Nat) :=
  (List.range 64).findSome? (fun k =>
    let x := s.tagSlot k
    if x.st = .free then none
    else ((List.range x.ntok).find? (fun r => x.place r == (e / 1024, e % 1024))).map (fun r => (k, r)))

/-- A row is cancelled with its tag because its entry could not be rebuilt (R402): the entry is `FREE` and its tag cancelled. -/
def State.dropEntry (e : Nat) (s : State) : State :=
  let at_ := s.rowAt e
  let s := s.writeEntry (e / 1024) (e % 1024) 0
  match at_ with
  | some (k, _) => s.cancelTag k
  | none => s

/-- The entries of a bank that hold a token, as they are served now. -/
def State.bankEntries (s : State) (b : Nat) : List (Nat × BitVec 160) :=
  (List.range 64).flatMap (fun k =>
    let x := s.tagSlot k
    if x.st = .free then []
    else (List.range x.ntok).filterMap (fun r =>
      let p := x.place r
      let i := entryIndex p.1 p.2
      if inSaddlebag p.1 || bankOf i != b then none
      else (s.rowEntry x r).bind (fun e => if leState e = lsFree then none else some (i, e))))

/-- The entries of a bank are served from elsewhere: `f` makes the change, and each entry is written where it lies then. -/
def State.moveBank (b : Nat) (f : UnitState → UnitState) (s : State) : State :=
  let es := s.bankEntries b
  let s := forEach es (fun e s => s.writeEntry (e.1 / 1024) (e.1 % 1024) 0) s
  forEach es (fun e s => s.writeEntry (e.1 / 1024) (e.1 % 1024) e.2) (s.modUnits f)

/-- A bank is lost without a spare (R397): its uncorrectable entries are dropped, and the others move to the end of the saddlebag, where
that can back the bank. That they move at once is DEDUCED, log 77. -/
def State.loseBank (s : State) (b : Nat) : State :=
  let s := forEach (s.led.bad.filter (fun i => bankOf i == b)) State.dropEntry s
  let u := !s.canBack
  s.moveBank b (fun x => { x with lostBanks := uniq (x.lostBanks ++ [b]), unbacked := x.unbacked || u })

/-- A bank fails (code 0x31): it is rebuilt onto a spare, or served from the saddlebag. A copy that already runs goes on. -/
def State.bankFail (s : State) (b detail : Nat) : State :=
  let n := s.units.servingBank b
  let copying := (List.range 4).any (fun i => (s.units.ls i).st == 2 && (s.units.ls i).unit == b)
  let s := s.modUnits (fun u =>
    let u := u.markFailed (bankUnit n)
    if 64 ≤ n then u.setLs (n - 64) 4 b else u)
  if copying then s
  else
    match s.units.freeBank with
    | some i => (s.modUnits (UnitState.setLs i 2 b)).postFault 0x31 4 n 6 (64 + i) detail
    | none => (s.loseBank b).postFault 0x31 4 n 10 0xFFFF detail

/-- A physical bank has a control fault (code 0x31): the bank number that it serves is rebuilt elsewhere; a copy into it starts again on
another spare, and one that serves nothing is only marked (DESIGN CHOICE, log 43). -/
def State.bankFault (s : State) (b detail : Nat) : State :=
  match s.units.bankServed b with
  | some k => s.bankFail k detail
  | none =>
    let x := s.units.ls (b - 64)
    let s := s.modUnits (fun u => let u := u.markFailed (bankUnit b); if 64 ≤ b then u.setLs (b - 64) 4 x.unit else u)
    if 64 ≤ b ∧ x.st = 2 then s.bankFail x.unit detail else s.postFault 0x31 4 b 10 0xFFFF detail

/-- A selector or a lane has a residue fault: the first is only reported, the second retires it (code 0x38). -/
def State.laneFault (s : State) (x : UnitId) (detail : Nat) : State :=
  if s.units.failed.contains x then s
  else if s.units.suspect.contains x then
    (s.modUnits (UnitState.markFailed x)).postFault 0x38 (unitKind x) (unitIndex x) 10 0xFFFF detail
  else (s.modUnits (fun u => { u with suspect := u.suspect ++ [x] })).postFault 0x38 (unitKind x) (unitIndex x) 0 0xFFFF detail

/-- `BANK_COPY_DONE` (R402): the spare serves beneath the bank number; entries that were uncorrectable are `FREE` in it. -/
def execBankCopyDone (spare : Fin 4) (bad : List (Fin 16384)) (s : State) : Host.Outcome State Fault Refusal :=
  let x := s.units.ls spare
  if x.st = 2 then
    let s := s.modUnits (UnitState.setLs spare 3 x.unit)
    ok (forEach bad (fun i s => s.dropEntry (64 * i.val + x.unit)) s)
  else ok s

end Sys2Proof.Machine
end

