-- ==== Sys2Proof/Machine/Endpoint.lean ====
section
/-! DEFINITION. `ENDPOINT` resets and rebinds, and the record of a reset (R160 to R162, R274, R275, R366, R421, R424). -/

namespace Sys2Proof.Machine

open Sys2Proof

/-- An `EV_RESET_CAUSE` record (Table 14-9). -/
def State.postReset (s : State) (kind source index empty : Nat) : State :=
  s.event 0x0101 (leBytes 1 kind ++ leBytes 1 source ++ leBytes 2 index ++ leBytes 4 empty ++ leBytes 8 s.cut.last ++
    leBytes 4 s.units.failed.length ++ leBytes 4 s.power.resets)

/-- The operations of a position run on without a record; those that wait to be admitted are never started (R275). -/
def State.orphanOps (s : State) (p : Nat) : State :=
  let dead : Coll → Coll := fun c => { c with members := mapIf (fun m => m.pos == p) (fun m => { m with live := false }) c.members }
  { s with ops := { s.ops with
    queue := s.ops.queue.filter (fun e => e.2.2 ≠ p)
    colls := s.ops.colls.map dead
    combs := mapIf (fun o => o.pos == p) (fun o => { o with live := false }) s.ops.combs } }

/-- What an `ENDPOINT` reset does to a port and its operations (R275): completions that were still to be written are discarded. DEDUCED, log 78. DEDUCED, log 117. -/
def State.resetPort (s : State) (p : Nat) : State :=
  let gone := (s.port p).done
  let s := forEach gone (fun x s => match x.coll with
    | some (ctx, epoch) => s.leaveColl ctx epoch p false
    | none => s) (s.orphanOps p)
  (s.resetHoist p).setPort p Port.reset

/-- The operations of a position that an image holds: every outstanding `COMBINE` without `GRAD_RET`, then every posted receive. -/
def State.heldOf (s : State) (p : Nat) : List (Nat × Desc) :=
  (s.ops.combs.filter (fun o => o.live && standing o.desc && o.pos == p)).map (fun o => (o.ring, o.desc)) ++
    (s.ops.recvs.filter (fun r => r.live && r.pos == p)).map (fun r => (r.ring, r.desc))

/-- What the image of a cinch shows of a position is kept through its reset (Table 12-4). -/
def State.keepImage (s : State) (p : Nat) : State :=
  match s.mh.cut with
  | some c =>
    if s.stopped = false ∨ c.before.any (fun e => e.pos == p) then s
    else
      let x : PosImage := { pos := p, port := s.port p, held := s.heldOf p, dups := s.ops.dups.filter (fun e => e.1 / 16 == p) }
      { s with mh := { s.mh with cut := some { c with before := c.before ++ [x] } } }
  | none => s

/-- An `ENDPOINT` reset (R421); during the stop of a cinch its effect on words and channels waits for the release (R366), and the image
shows the state before it (Table 12-4). -/
def State.resetEndpoint (s : State) (p source : Nat) : State :=
  let s := (if s.mh.ready then s.postReset 5 source p 0x0180 else s).keepImage p
  let s := s.resetPort p
  if s.stopped then { s with inp := { s.inp with deferred := uniq (s.inp.deferred ++ [p]) } } else s.resetTellTale p

/-! ## The end of a cinch (R363, R366, R372) -/

/-- The stop of a cinch is released: endpoint resets that came in it take effect on words and channels. -/
def State.releaseStop (s : State) : State :=
  let l := s.inp.deferred.filter (fun p => decide (p < 1024))
  forEach l (fun p s => s.resetTellTale p)
    { s with inp := { s.inp with deferred := s.inp.deferred.filter (fun p => !decide (p < 1024)) } }

/-- A binding that no cinch chooses. -/
def Binding.unchosen (b : Binding) : Binding := { b with chosen := false, cut := 0 }

/-- A cinch is over on this chip: its stop, its holds and its choice of contexts end. -/
def State.endCut (s : State) : State :=
  let s : State := { s with
    mh := { s.mh with cut := none }
    ctxs := s.ctxs.map (fun e => (e.1, e.2.unchosen)) }
  (forEach (s.ports.map (·.1)) (fun p s => s.modPort p (fun x => { x with held := false })) s).releaseStop

/-- `ENDPOINT_RESET` (R421, R416, R426): in `DOZE` the block wakes first. -/
def execEndpointReset (p : Pos) (s : State) : Host.Outcome State Fault Refusal :=
  if s.power.st = .off then ok s else ok (s.wake.resetEndpoint p 5)

/-- `REBIND_DONE` (R162, R274): what was held is delivered; a rebind in a cluster that waits for a fill waits too (Table 13-5). -/
def execRebindDone (p : Pos) (s : State) : Host.Outcome State Fault Refusal :=
  if (s.port p).rebinding ∧ s.units.paused.contains (p.val / 16) = false then
    ok (s.modPort p (fun x => { x with rebinding := false, resp := x.resp ++ x.heldResp, heldResp := [] }))
  else ok s

/-- `ENDPOINT_CORE_FAILED` (R42, R385, codes 0x50 and 0x51): the position is rebound, or reset when no core is free. -/
def execEndpointCoreFailed (p : Pos) (spareCore : Bool) (s : State) : Host.Outcome State Fault Refusal :=
  if s.mhActs then
    if spareCore then ok ((s.postFault 0x50 8 p 0 0xFFFF 0).modPort p (fun x => { x with rebinding := true }))
    else ok ((s.postFault 0x51 8 p 0 0xFFFF 0).resetEndpoint p 4)
  else ok s

end Sys2Proof.Machine
end

