-- ==== Sys2Proof/Machine/Submit.lean ====
section
/-! DEFINITION. Descriptor rows: a port reads the slot at `EP_SQ_HEAD`, checks it and takes it on (R253, R254, R256, R260,
R262, R364). -/

namespace Sys2Proof.Machine

open Sys2Proof

/-- R of R254: descriptors read and not completed, and records written and not released. -/
def Port.inUse (x : Port) : Nat := x.opened + (x.cqTail + ringSize x.cqCfg - x.cqHead) % ringSize x.cqCfg

/-- The port has a descriptor to read, and may read it (R252 to R254, R274, R364, R366, R425). -/
def State.mayRead (s : State) (p : Nat) : Bool :=
  let x := s.port p
  s.running && !s.stopped && !x.rebinding && !x.held && ringOn x.sqCfg && x.sqHead != x.sqTail && ringOn x.cqCfg &&
    decide (x.inUse < ringSize x.cqCfg - 1)

/-- The address of the slot at `EP_SQ_HEAD`. -/
def Port.slotAddr (x : Port) : Nat := ringBase x.sqCfg + 64 * x.sqHead

/-- The descriptor in that slot. -/
def State.slotDesc (s : State) (p : Nat) : Desc := descOf (load s (s.port p).slotAddr 64)

/-- The port advances past the slot it has read. -/
def Port.readSlot (x : Port) : Port := { x with sqHead := (x.sqHead + 1) % ringSize x.sqCfg, opened := x.opened + 1 }

/-- The epoch of a descriptor has started on this chip (R361). -/
def State.epochStarted (s : State) (d : Desc) : Bool :=
  (match s.coll (dCtx d) (dEpoch d) with
   | some c => !c.members.isEmpty
   | none => false) ||
  (match s.binding (dCtx d) with
   | some b => b.endedEpoch (dEpoch d)
   | none => false)

/-- A port does not consume this descriptor while a cinch drains (R364). -/
def State.heldByCut (s : State) (d : Desc) : Bool :=
  match s.mh.cut, s.binding (dCtx d) with
  | some c, some b =>
    c.phase == .drain && isCollective d && (opClass (dOpcode d)).isSome && b.chosen && !s.epochStarted d &&
      decide (b.cut ≤ b.started)
  | _, _ => false

/-- An accepted `TAG_RELEASE` or `TAG_CANCEL` completes at once (R201 to R203). -/
def State.acceptTag (s : State) (p : Nat) (d : Desc) : State :=
  let k := (s.findTag (dTag d)).getD 0
  (if dOpcode d = 0x21 then s.releaseTag k else s.cancelTag k).pushDone p (doneOf d .ok Tally.zero 0 0 true none)

/-- An accepted descriptor of the hoist class. -/
def State.acceptHoist (s : State) (p : Nat) (d : Desc) : State :=
  if dOpcode d ≠ 0x32 then s.startSend p d
  else if dHlen d = 0 then s.withdrawRecvs p d else s.postRecv p d

/-- An accepted descriptor is taken on. -/
def State.accept (s : State) (p : Nat) (d : Desc) : State :=
  match opClass (dOpcode d) with
  | some .reduction | some .route => s.acceptColl p d
  | some .tag => s.acceptTag p d
  | some .combine => s.startComb p d ((s.findTag (dTag d)).getD 0)
  | some .hoist => s.acceptHoist p d
  | none => s

/-- The target list that step 8 reads (R233); empty where no earlier check passes. -/
def tmapRange (d : Desc) : List (Nat × Nat) :=
  if dOpcode d = 0x31 ∧ (checkShape d).isNone ∧ rangesOk d .hoist then [(dDst2 d, tmapLen d)] else []

/-- A descriptor that the port has read is checked, and rejected with its record or taken on (R262, R268). -/
def State.process (s : State) (p : Nat) (d : Desc) : Host.Outcome State Fault Refusal :=
  if inSpace (tmapRange d) = false then .fault .beyondAddressSpace
  else match s.validate p d with
    | some (st, signal) => .next (s.pushDone p (doneOf d st Tally.zero 0 0 signal none))
    | none => if inSpace (s.descRanges d) then .next (s.accept p d) else .fault .beyondAddressSpace

/-- A descriptor row: it acts when the slot holds its operation, and any row takes a reserved opcode (DESIGN CHOICE, log 9). -/
def State.submit (s : State) (p : Nat) (mine : Desc → Bool) : Host.Outcome State Fault Refusal :=
  if s.mayRead p = false then .next s
  else if inSpace [((s.port p).slotAddr, 64)] = false then .fault .beyondAddressSpace
  else
    let d := s.slotDesc p
    if (opClass (dOpcode d)).isSome ∧ mine d = false then .next s
    else if s.heldByCut d then .next (s.modPort p (fun x => { x with held := true }))
    else (s.modPort p Port.readSlot).process p d

/-- The slot holds this opcode. -/
def hasOp (op : Nat) (d : Desc) : Bool := dOpcode d == op

/-- `SUM` (R92, R97, R101). -/
def execSum (p : Pos) (s : State) : Host.Outcome State Fault Refusal := s.submit p (hasOp 0x01)

/-- `SPSUM` (R109, R110). -/
def execSpsum (p : Pos) (s : State) : Host.Outcome State Fault Refusal := s.submit p (hasOp 0x02)

/-- `NSUM` (R118 to R134). -/
def execNsum (p : Pos) (s : State) : Host.Outcome State Fault Refusal := s.submit p (hasOp 0x03)

/-- `MAX` (R104). -/
def execMax (p : Pos) (s : State) : Host.Outcome State Fault Refusal := s.submit p (hasOp 0x04)

/-- `MIN` (R104). -/
def execMin (p : Pos) (s : State) : Host.Outcome State Fault Refusal := s.submit p (hasOp 0x05)

/-- `MAXNUM` (R104). -/
def execMaxnum (p : Pos) (s : State) : Host.Outcome State Fault Refusal := s.submit p (hasOp 0x06)

/-- `MINNUM` (R104). -/
def execMinnum (p : Pos) (s : State) : Host.Outcome State Fault Refusal := s.submit p (hasOp 0x07)

/-- `AMAX` (R104). -/
def execAmax (p : Pos) (s : State) : Host.Outcome State Fault Refusal := s.submit p (hasOp 0x08)

/-- `AMIN` (R104). -/
def execAmin (p : Pos) (s : State) : Host.Outcome State Fault Refusal := s.submit p (hasOp 0x09)

/-- `BAND` (R102). -/
def execBand (p : Pos) (s : State) : Host.Outcome State Fault Refusal := s.submit p (hasOp 0x0A)

/-- `BOR` (R102). -/
def execBor (p : Pos) (s : State) : Host.Outcome State Fault Refusal := s.submit p (hasOp 0x0B)

/-- `BXOR` (R102). -/
def execBxor (p : Pos) (s : State) : Host.Outcome State Fault Refusal := s.submit p (hasOp 0x0C)

/-- `COUNT` (R103). -/
def execCount (p : Pos) (s : State) : Host.Outcome State Fault Refusal := s.submit p (hasOp 0x0D)

/-- `SCANX` (R106). -/
def execScanx (p : Pos) (s : State) : Host.Outcome State Fault Refusal := s.submit p (hasOp 0x0E)

/-- `SCANI` (R106). -/
def execScani (p : Pos) (s : State) : Host.Outcome State Fault Refusal := s.submit p (hasOp 0x0F)

/-- `LSEM` (R111, R112). -/
def execLsem (p : Pos) (s : State) : Host.Outcome State Fault Refusal := s.submit p (hasOp 0x10)

/-- `ROUTE` (R179 to R193). -/
def execRoute (p : Pos) (s : State) : Host.Outcome State Fault Refusal := s.submit p (hasOp 0x20)

/-- `TAG_RELEASE` (R201, R202). -/
def execTagRelease (p : Pos) (s : State) : Host.Outcome State Fault Refusal := s.submit p (hasOp 0x21)

/-- `TAG_CANCEL` (R201, R203). -/
def execTagCancel (p : Pos) (s : State) : Host.Outcome State Fault Refusal := s.submit p (hasOp 0x22)

/-- `COMBINE` (R218 to R223). -/
def execCombine (p : Pos) (s : State) : Host.Outcome State Fault Refusal := s.submit p (hasOp 0x28)

/-- `UNCOMBINE` (R225, R226). -/
def execUncombine (p : Pos) (s : State) : Host.Outcome State Fault Refusal := s.submit p (hasOp 0x29)

/-- `GATEGRAD` (R225, R227). -/
def execGategrad (p : Pos) (s : State) : Host.Outcome State Fault Refusal := s.submit p (hasOp 0x2A)

/-- `BCAST` (R231, R232). -/
def execBcast (p : Pos) (s : State) : Host.Outcome State Fault Refusal := s.submit p (hasOp 0x30)

/-- `MCAST` (R231, R232). -/
def execMcast (p : Pos) (s : State) : Host.Outcome State Fault Refusal := s.submit p (hasOp 0x31)

/-- `HRECV` with nonzero `RLEN` (R234). -/
def execHrecv (p : Pos) (s : State) : Host.Outcome State Fault Refusal :=
  s.submit p (fun d => hasOp 0x32 d && dHlen d != 0)

/-- `HRECV` with `RLEN` 0 withdraws (R235). -/
def execHrecvWithdraw (p : Pos) (s : State) : Host.Outcome State Fault Refusal :=
  s.submit p (fun d => hasOp 0x32 d && dHlen d == 0)

/-- `DESCRIPTOR_READ_POISONED` (R256). DESIGN CHOICE, log 69. -/
def execDescriptorReadPoisoned (p : Pos) (s : State) : Host.Outcome State Fault Refusal :=
  if s.mayRead p = false then ok s
  else
    let s := s.modPort p (fun x => { x.readSlot with err := x.err ||| 0x20#7 })
    let x : Done := { opcode := 0, ctx := 0, ctag := 0, status := .fault, tally := Tally.zero, opval := 0, hlen := 0
                      csig := none, coll := none }
    ok ((s.pushDone p x).postPoison)

end Sys2Proof.Machine
end

