-- ==== Sys2Proof/Machine/Faults.lean ====
section
/-! DEFINITION. Faults as they are detected, and Masthead's responses by the reliability table (R382 to R387, R394, R427, R429,
Tables 13-1 and 13-2), with the shadows of free spares (R399). -/

namespace Sys2Proof.Machine

open Sys2Proof

/-- Masthead responds to a fault while it runs (R322, R335). DESIGN CHOICE, log 107. -/
def State.response (s : State) (f : State → State) : Host.Outcome State Fault Refusal := if s.mhActs then ok (f s) else ok s

/-! ## Residue and flit CRC (codes 0x10, 0x20, 0x22, 0x28, 0x38) -/

/-- A residue check has failed in a unit, or the control of a ledger bank. -/
def State.residue (s : State) (x : UnitId) (detail : Nat) : State :=
  match x with
  | .node n => s.nodeFail n 0x10 detail
  | .half u => s.rootFail true u detail
  | .root u => s.rootFail false u detail
  | .selector _ => s.laneFault x detail
  | .lane _ => s.laneFault x detail
  | .bank b => s.bankFault b 0
  | .pool _ => s

/-- `RESIDUE_ERROR`. -/
def execResidueError (u : UnitId) (plane : Fin 8) (aluLane : Fin 16) (s : State) : Host.Outcome State Fault Refusal :=
  s.response (fun s => s.residue u (plane.val + 256 * aluLane.val))

/-- An edge counts as failed (R384). -/
def State.edgeFail (s : State) (e : Edge) : State :=
  match e with
  | .port p => s.nodeFail (s.units.nodeOf (p.val / 16)) 0x10 0
  | .trunk c => s.nodeFail (s.units.nodeOf c) 0x10 0
  | .splice b => s.spliceFail b
  | .half u => s.rootFail true u 0
  | .root u => s.rootFail false u 0

/-- `FLIT_CRC_ERROR` (R383, R384): the flit is sent again, and 16 of them within the window fail the edge. -/
def execFlitCrcError (e : Edge) (n : Nat) (s : State) : Host.Outcome State Fault Refusal :=
  if n < 16 then ok s else s.response (fun s => s.edgeFail e)

/-! ## SECDED (codes 0x12, 0x20, 0x22, 0x30, 0x31, 0x39) -/

/-- A message that the chip root's pool holds on its way to targets here is dropped, and they are reported missing. -/
def State.dropInbound (x : HoistIn) (s : State) : State :=
  let s := { s with ops := { s.ops with inbound := s.ops.inbound.filter (fun y => y.id ≠ x.id) } }
  (forEach x.pend (fun p s => s.report p x.msg (.there x.id) false) s).freeCopy rootPool (.there x.id)

/-- A segment of a pool is retired: the copies it held are dropped, and their targets reported missing (code 0x39). `hold` is the number of
the held copy, or in the chip root's pool of the message. -/
def State.retireSegment (s : State) (pool hold detail : Nat) : State :=
  let s := { s with ops := { s.ops with
    retired := Tbl.set (fun _ => 0) s.ops.retired pool (Tbl.get (fun _ => 0) s.ops.retired pool + 1) } }
  let s := forEach (s.ops.holds.filter (fun h => h.id == hold && poolOf h.pos == pool)) State.missHold s
  let s := forEach (s.ops.inbound.filter (fun x => x.id == hold && pool == rootPool)) State.dropInbound s
  s.postFault 0x39 13 pool 10 0xFFFF detail

/-- The lanes that read a token of a tag end with `FAULT` (R197, Table 7-3): their rows are not written. -/
def State.faultLanes (s : State) (k token : Nat) : State :=
  let reads : CombOp → Bool := fun o => o.slot == k && o.lanes.any (fun l => l.1 == token &&
    (match l.2 with | .reading _ => true | .writing _ => false))
  let ids := (s.ops.combs.filter reads).map (·.id)
  let s := { s with ops := { s.ops with
    combs := mapIf reads (fun o => { o with lanes := o.lanes.filter (fun l => l.1 ≠ token) }) s.ops.combs } }
  s.stopCombs (fun o => ids.contains o.id) (some .fault)

/-- A die entry is uncorrectable: it is found by the lane that reads it, and else by its next reader (R197, code 0x30, DEDUCED, log 44). -/
def State.entryLost (s : State) (e : Nat) : State :=
  let s := { s with led := { s.led with bad := if s.led.bad.contains e then s.led.bad else s.led.bad ++ [e] } }
  match s.rowAt e with
  | none => s
  | some (k, r) =>
    let token := (s.tagSlot k).tokBase + r
    if s.ops.combs.any (fun o => o.slot == k && o.lanes.any (fun l => l.1 == token)) then
      (s.faultLanes k token).loseEntry k r .uncorrectable
    else s

/-- An uncorrectable word of what SECDED protects. -/
def State.uncorrectable (s : State) (w : Protected) : State :=
  match w with
  | .word w =>
    if wordIndex w.toNat < 768 then
      s.loseState [w.toNat] [] (fun _ => false) (s.units.nodeOf (wordCluster w.toNat)) w.toNat
    else s
  | .channel c ch =>
    s.withAddress (fun d s => s.loseState [] ((s.chansIn c).filter (fun x => x == ch.val)) (fun _ => false) (s.units.nodeOf c) d)
  | .entry e => s.entryLost e
  | .segment pool hold => s.withAddress (fun d s => s.retireSegment pool hold d)
  | .half u => s.withAddress (fun d s => s.rootFail true u d)
  | .root u => s.withAddress (fun d s => s.rootFail false u d)

/-- A unit with 64 corrected errors within its window counts as failed (R384). -/
def State.worn (s : State) (w : Protected) : State :=
  match w with
  | .word w => s.withAddress (fun d s => s.nodeFail (s.units.nodeOf (wordCluster w.toNat)) 0x10 d)
  | .channel c _ => s.withAddress (fun d s => s.nodeFail (s.units.nodeOf c) 0x10 d)
  | .entry e => s.withAddress (fun d s => s.bankFail (e.val % 64) d)
  | .segment pool hold => s.withAddress (fun d s => s.retireSegment pool hold d)
  | .half _ => s
  | .root _ => s

/-- `SECDED_ERROR` (R382, R384, R394). -/
def execSecdedError (w : Protected) (uncorrectable : Bool) (n : Nat) (s : State) : Host.Outcome State Fault Refusal :=
  if uncorrectable then s.response (fun s => s.uncorrectable w)
  else if n < 64 then ok s
  else s.response (fun s => s.worn w)

/-! ## Fatal errors -/

/-- `WIRE_PARITY_ERROR` (code 0x02): eight resends of one word are fatal. -/
def execWireParityError (n : Nat) (s : State) : Host.Outcome State Fault Refusal :=
  if n < 8 then ok s else ok (s.fatal 0x02 15 0)

/-- `LOCKSTEP_MISMATCH` (R323, R360, code 0x01), while the cores run: Masthead restarts without the commands it had in hand; a trial image is
rolled back. -/
def execLockstepMismatch (s : State) : Host.Outcome State Fault Refusal :=
  if s.coresRun then
    let s := s.endCut
    let s := { s with mh := { s.mh with long := none, relay := [], flashWait := [], halted := false } }
    let s := s.fatal 0x01 9 0
    if s.sec.trial then
      ok { s with sec := { s.sec with
        rollback := some (s.versions s.sec.run).1, run := 1 - s.sec.run, boot := 1 - s.sec.run, trial := false, trialResets := 0 } }
    else ok s
  else ok s

/-- `ROOT_PLL_UNLOCK` (code 0x04): the power state does not change until a reset (R426). -/
def execRootPllUnlock (s : State) : Host.Outcome State Fault Refusal :=
  let t := s.fatal 0x04 9 0
  ok { t with power := { t.power with st := s.power.st } }

/-! ## Root pairs and shadows (codes 0x21 and 0x11) -/

/-- A test of a unit is noted. -/
def State.addTest (s : State) (x : TestRun) : State := { s with mh := { s.mh with tests := s.mh.tests ++ [x] } }

/-- `ROOT_PAIR_MISMATCH`: the collectives whose flits differed end with `FAULT`, and both units are tested in turn. -/
def execRootPairMismatch (u : UnitId) (colls : List (Nat × Nat)) (s : State) : Host.Outcome State Fault Refusal :=
  let go : Bool → Nat → UnitId → State → State := fun half i other s =>
    if s.units.rootSt half i < 2 ∧ s.units.rootSt half (pairOf i) < 2 then
      let mine : Coll → Bool := fun c => colls.contains (c.ctx, c.epoch)
      let hit := s.hitContexts mine
      let s := s.postFault 0x21 (unitKind u) i (if hit.isEmpty then 0 else 8) 0xFFFF 0
      let s := (s.faultColls mine).restoreFor 0xFFFF hit
      let s := s.modUnits (fun x => (x.setRoot half i 3).setRoot half (pairOf i) 0)
      (s.addTest { unit := u, spare := none, background := true, forced := false }).addTest
        { unit := other, spare := none, background := true, forced := false }
    else s
  match u with
  | .half i => s.response (go true i (.half (Fin.ofNat 4 (pairOf i))))
  | .root i => s.response (go false i (.root (Fin.ofNat 2 (pairOf i))))
  | _ => ok s

/-- `SHADOW_MISMATCH`: the cluster moves onto the spare that shadows it, and its node is tested. -/
def execShadowMismatch (spare : Fin 8) (s : State) : Host.Outcome State Fault Refusal :=
  s.response (fun s =>
    let x := s.units.cs spare
    if x.st = 1 then
      let n := s.units.nodeOf x.unit
      let s := (s.modUnits (UnitState.setCs spare 3 x.unit)).postFault 0x11 1 n 3 (64 + spare.val) 0
      s.addTest { unit := nodeUnit n, spare := some spare, background := true, forced := false }
    else s)

/-- Background activity may start (R399). -/
def State.mayTest (s : State) : Bool := s.mhActs && s.policy 0x51 == 1 && s.mh.cut.isNone && s.power.st == .active

/-- `SHADOW_ROTATION` (R399): a free spare goes on to the next live node of its row; where no further shadow may start, the one that runs has
come to its end. -/
def execShadowRotation (spare : Fin 8) (s : State) : Host.Outcome State Fault Refusal :=
  let x := s.units.cs spare
  let row := (List.range 8).map (fun i => 8 * spare.val + i)
  let live := row.filter (fun c => s.units.alone c && s.units.nodeOf c == c)
  if s.mayTest ∧ x.st ≤ 1 then
    let later := if x.st = 1 then live.filter (fun c => decide (x.unit < c)) else []
    match later ++ live with
    | [] => ok s
    | c :: _ => ok (s.modUnits (UnitState.setCs spare 1 c))
  else if s.mhActs ∧ x.st = 1 then ok (s.modUnits (UnitState.setCs spare 0 0))
  else ok s

/-! ## Poison (R427, R429, code 0x3A) -/

/-- A member's contribution carries a fault mark. -/
def markFault (p : Nat) (m : Member) : Member :=
  if m.pos = p ∧ m.stage = .sending then { m with up := m.up.map (fun u => { u with fault := true }) } else m

/-- The field of a mailbox command that addresses its data, where it has any: the blocks of `TOPO_SET`, `GROUP_DEFINE` and `CONTEXT_BIND`, the
image of `RESTORE` and that of a `FW_UPDATE` load. -/
def Cmd.dataField (c : Cmd) : Option Nat :=
  match c.code with
  | 0x10 => some 16
  | 0x12 => some 20
  | 0x14 => if c.nat 21 1 = 0 ∧ c.nat 24 8 ≠ 0 then some 24 else none
  | 0x21 => some 16
  | 0x50 => if c.nat 16 1 = 0 then some 24 else none
  | _ => none

/-- A port's `MCAST` whose target list is poisoned completes with `FAULT`, before any check that follows its reading (R262, R427). -/
def State.poisonTargets (s : State) (p : Nat) : State :=
  let d := s.slotDesc p
  if s.mayRead p ∧ dOpcode d = 0x31 ∧ (tmapRange d).isEmpty = false ∧ s.heldByCut d = false then
    ((s.modPort p Port.readSlot).pushDone p (doneOf d .fault Tally.zero 0 0 true none)).postPoison
  else s

/-- A saddlebag entry that a lane reads is poisoned: the operation ends with `FAULT` (R427). -/
def State.poisonEntry (s : State) (id token : Nat) : State :=
  match s.comb id with
  | none => s
  | some o =>
    let x := s.tagSlot o.slot
    let p := x.place (token - o.tokBase)
    let held := x.routeDone && (match s.sbIndex p.1 p.2 with | some i => s.led.sbHeld.contains i | none => false)
    if o.ready.head? = some token ∧ s.stopped = false ∧ held then (s.stopCombs (fun y => y.id == id) (some .fault)).postPoison else s

/-- The data of the mailbox command in a slot are poisoned: Masthead refuses it with `EINVAL` and the field that addresses them, for the spec
gives no status to that (DESIGN CHOICE, log 130). -/
def State.poisonData (s : State) (n : Nat) : State :=
  let c := s.slotCmd n
  match c.dataField with
  | none => s
  | some f =>
    if s.takes n ∧ firstDeny (s.commonChecks c (if c.code = 0x21 then 24 else 16)) = none then
      ((s.take n).postPoison).deny c { status := rsEinval, field := f, data := [] }
    else s

/-- `POISONED_READ`: a collective's source, a combine row, the source of a send, a target list, a saddlebag entry, or the data of a mailbox
command. -/
def execPoisonedRead (r : PoisonedBy) (s : State) : Host.Outcome State Fault Refusal :=
  match r with
  | .collective ctx epoch p =>
    match s.coll ctx epoch with
    | none => ok s
    | some c =>
      if c.members.any (fun m => m.pos == p.val && m.stage == .sending) then
        ok ((s.modColl ctx epoch (fun c => { c with members := c.members.map (markFault p) })).postPoison)
      else ok s
  | .combine id token =>
    match s.comb id with
    | none => ok s
    | some o =>
      if o.lanes.any (fun l => l.1 == token && (match l.2 with | .reading _ => true | .writing _ => false)) then
        let s := s.modComb id (fun o => { o with lanes := o.lanes.filter (fun l => l.1 ≠ token) })
        ok ((s.stopCombs (fun o => o.id == id) (some .fault)).postPoison)
      else ok s
  | .hoist id =>
    match s.ops.sends.find? (fun x => x.id == id) with
    | none => ok s
    | some x => if x.targets.all (fun t => t.st == .flying) then ok ((s.poisonSend x).postPoison) else ok s
  | .targetList p => ok (s.poisonTargets p)
  | .entry id token => ok (s.poisonEntry id token)
  | .commandData n => ok (s.poisonData n)

end Sys2Proof.Machine
end

