-- ==== Sys2Proof/Machine/OnlineTest.lean ====
section
/-! DEFINITION. Online test: `TEST_NODE`, background tests, the end of a test, and `NODE` resets (R349, R399 to R403, R420, R421). -/

namespace Sys2Proof.Machine

open Sys2Proof

/-! ## What a test needs -/

/-- A spare for a cluster other than the one that serves it. -/
def UnitState.otherSpare (u : UnitState) (c : Nat) (not : Nat) : Option Nat :=
  match u.pickSpare c with
  | some i => if i = not then none else some i
  | none => none

/-- A unit is under test. -/
def State.underTest (s : State) (x : UnitId) : Bool := s.mh.tests.any (fun t => t.unit == x)

/-- How a test of a unit can begin. -/
inductive TestPlan where
  /-- The unit serves nothing, and is tested where it stands. -/
  | inPlace
  /-- A spare takes over cluster or bank `served`. -/
  | swap (spare served : Nat)
  /-- The other unit of the pair serves alone. -/
  | pair
  /-- No spare is free. -/
  | none
  deriving DecidableEq, Repr

/-- The plan for a cluster node. -/
def UnitState.planNode (u : UnitState) (n : Nat) : TestPlan :=
  match u.clustersOf n with
  | [] => .inPlace
  | c :: _ =>
    match u.otherSpare c (n - 64 + (if n < 64 then 8 else 0)) with
    | some i => .swap i c
    | none => .none

/-- The plan for a unit of a root pair. -/
def UnitState.planRoot (u : UnitState) (half : Bool) (i : Nat) : TestPlan :=
  if u.rootSt half i = 2 then .inPlace
  else if u.rootSt half (pairOf i) < 2 then .pair else .none

/-- The plan for a ledger bank. -/
def UnitState.planBank (u : UnitState) (b : Nat) : TestPlan :=
  match u.bankServed b with
  | none => .inPlace
  | some k =>
    match u.freeBank with
    | some i => .swap i k
    | none => .none

def UnitState.plan (u : UnitState) : UnitId → TestPlan
  | .node n => u.planNode n
  | .half i => u.planRoot true i
  | .root i => u.planRoot false i
  | .bank b => u.planBank b
  | _ => .inPlace

/-- The row of a node: its cluster's, or the row that a spare serves first. -/
def rowOf (n : Nat) : Nat := if n < 64 then n / 8 else n - 64

/-- A fill is in progress in a row or its partner row, and a fold as well as a fill. -/
def UnitState.filling (u : UnitState) (r : Nat) : Bool :=
  [r, partnerRow r].any (fun q => (u.cs q).st == 2)
def UnitState.busyRow (u : UnitState) (r : Nat) : Bool :=
  u.filling r || u.foldHost.any (fun e => e.1 / 8 == r || e.1 / 8 == partnerRow r)

/-- No spare of a row or its partner row is free. -/
def UnitState.noSpare (u : UnitState) (r : Nat) : Bool := (u.pickSpare (8 * r)).isNone

/-- Why a `TEST_NODE` is turned away (R349, R403, Tables 13-5 and 13-7). -/
def State.testDeny (s : State) (x : UnitId) (forced : Bool) : Option Nat :=
  let u := s.units
  if s.underTest x then some rsEstate
  else
    match x with
    | .node n =>
      let r := rowOf n
      if u.busyRow r && u.noSpare r then (if forced then (if u.filling r then some rsEstate else none) else some rsNoSpare)
      else if decide (64 ≤ n.val) && (u.cs (n - 64)).st == 2 then some rsEstate
      else if u.planNode n = .none ∧ forced = false then some rsNoSpare else none
    | .bank b =>
      if decide (64 ≤ b.val) && (u.ls (b - 64)).st == 2 then some rsEstate
      else if u.planBank b = .none then (if forced = false then some rsNoSpare else if s.untagged then none else some rsEstate)
      else none
    | x => if u.plan x = .none ∧ forced = false then some rsNoSpare else none

/-! ## The start of a test -/

/-- The unit's own code reads "under test": for a spare that stands free, and for a root unit. -/
def UnitState.setTesting (x : UnitId) (u : UnitState) : UnitState :=
  match x with
  | .node n => if 64 ≤ n.val then u.setCs (n - 64) 5 (u.cs (n - 64)).unit else u
  | .half i => u.setRoot true i 3
  | .root i => u.setRoot false i 3
  | .bank b => if 64 ≤ b.val then u.setLs (b - 64) 5 (u.ls (b - 64)).unit else u
  | _ => u

/-- The unit is swapped out, or paused by force, and its test begins (R400, R402, R403). -/
def State.startTest (s : State) (x : UnitId) (forced background : Bool) : State :=
  match s.units.plan x with
  | .inPlace => (s.modUnits (UnitState.setTesting x)).addTest { unit := x, spare := none, background := background, forced := false }
  | .pair =>
    let s := s.modUnits (fun u => match x with
      | .half i => (u.setRoot true i 3).setRoot true (pairOf i) 0
      | .root i => (u.setRoot false i 3).setRoot false (pairOf i) 0
      | _ => u)
    s.addTest { unit := x, spare := none, background := background, forced := false }
  | .swap i k =>
    let s := s.modUnits (fun u =>
      let u := u.setTesting x
      match x with
      | .bank _ => u.setLs i 2 k
      | _ => u.setCs i 3 k)
    s.addTest { unit := x, spare := some i, background := background, forced := false }
  | .none =>
    if forced then
      let s := s.modUnits (fun u =>
        let u := u.setTesting x
        match x with
        | .node n => { u with paused := u.paused ++ u.clustersOf n }
        | _ => u)
      s.addTest { unit := x, spare := none, background := background, forced := true }
    else s

/-! ## `TEST_NODE` (R349) -/

def tnKind (c : Cmd) : Nat := c.nat 16 1
def tnIndex (c : Cmd) : Nat := c.nat 17 1
def tnForce (c : Cmd) : Bool := c.nat 18 1 == 1

/-- The unit that a command names. -/
def tnUnit (c : Cmd) : UnitId :=
  match tnKind c with
  | 1 => .node (Fin.ofNat 72 (tnIndex c))
  | 2 => .half (Fin.ofNat 4 (tnIndex c))
  | 3 => .root (Fin.ofNat 2 (tnIndex c))
  | _ => .bank (Fin.ofNat 68 (tnIndex c))

/-- How many units of a kind there are. -/
def tnLimit (kind : Nat) : Nat :=
  match kind with
  | 1 => 72
  | 2 => 4
  | 3 => 2
  | _ => 68

/-- The checks of `TEST_NODE`. Byte 19, which its table does not list, must be 0 (DESIGN CHOICE, log 100). -/
def State.testChecks (s : State) (c : Cmd) : List Check :=
  let why := s.testDeny (tnUnit c) (tnForce c)
  [invalid (tnKind c == 0 || decide (4 < tnKind c)) 16, invalid (decide (1 < c.nat 18 1)) 18, invalid (!c.zero 19 1) 19,
   outOfRange (decide (tnLimit (tnKind c) ≤ tnIndex c)) 17,
   (why.isSome, { status := why.getD 0, field := 17, data := [] })]

/-- `TEST_NODE`. -/
def execTestNode (n : SlotNo) (s : State) : Host.Outcome State Fault Refusal :=
  ok (s.command n 0x30 anyCmd (fun _ => 4) State.testChecks (fun c s =>
    (s.startLong c (.test (tnUnit c) (tnForce c))).startTest (tnUnit c) (tnForce c) false))

/-- The background may test a unit: one of the kinds of R399 that is not marked failed (R390), and one ledger bank at a time (R402). -/
def State.rotates (s : State) (u : UnitId) : Bool :=
  !s.units.failed.contains u &&
    (match u with
     | .node _ | .half _ | .root _ => true
     | .bank _ => !s.mh.tests.any (fun t => t.background && (match t.unit with | .bank _ => true | _ => false)) && s.units.freeBank.isSome
     | _ => false)

/-- `BACKGROUND_UNIT_TEST` (R399, R402): a unit is tested while a spare is free for it. -/
def execBackgroundUnitTest (u : UnitId) (s : State) : Host.Outcome State Fault Refusal :=
  if s.mayTest ∧ s.rotates u ∧ s.testDeny u false = none then ok (s.startTest u false true) else ok s

/-! ## The end of a test (R400 to R402) -/

/-- A cluster goes back to its own node: the spare that stood in is free. While a spare is being filled for it, that fill goes on. -/
def UnitState.returnCluster (c : Nat) (u : UnitState) : UnitState :=
  if u.fillsFor c then u
  else
    let u := match u.spareOf c with | some i => u.setCs i 0 0 | none => u
    let u := (u.endFold c).dropSource c
    { u with lost := u.lost.filter (fun x => x ≠ c) }

/-- A node that has passed returns to service; a spare whose place another has lost meanwhile is free. -/
def UnitState.passNode (n : Nat) (t : TestRun) (u : UnitState) : UnitState :=
  if n < 64 then u.returnCluster n
  else
    match t.spare with
    | some i => if (u.cs i).st = 3 then (u.setCs (n - 64) 3 (u.cs i).unit).setCs i 0 0 else u.setCs (n - 64) 0 0
    | none => if t.forced then u.setCs (n - 64) 3 (u.cs (n - 64)).unit else u.setCs (n - 64) 0 0

/-- A bank that has passed: it is copied back, and its spare is free; the last lost bank needs no backing any more. -/
def UnitState.passBank (b : Nat) (t : TestRun) (u : UnitState) : UnitState :=
  if b < 64 then
    let u := match u.bankSpare b with | some i => u.setLs i 0 0 | none => u
    let left := u.lostBanks.filter (fun x => x ≠ b)
    { u with lostBanks := left, unbacked := u.unbacked && !left.isEmpty }
  else
    match t.spare with
    | some i => if (u.ls i).st = 3 then (u.setLs (b - 64) 3 (u.ls i).unit).setLs i 0 0 else u.setLs (b - 64) 0 0
    | none => if t.forced then u.setLs (b - 64) 3 (u.ls (b - 64)).unit else u.setLs (b - 64) 0 0

/-- A root unit that has passed shadows the other; where the other has failed, it serves. -/
def UnitState.passRoot (half : Bool) (i : Nat) (u : UnitState) : UnitState :=
  u.setRoot half i (if u.rootSt half (pairOf i) < 2 then 1 else 0)

/-- A unit has passed its test: it returns to service, and folds may end (R396). A `TEST_NODE` ends any mark of failure; a unit that has been
marked meanwhile stays out of service after a test of the background (R390). DEDUCED, log 111. -/
def State.passTest (s : State) (t : TestRun) : State :=
  if t.background && s.units.failed.contains t.unit then s
  else
  let s := s.modUnits (UnitState.clearFailed t.unit)
  match t.unit with
  | .node n => (s.modUnits (UnitState.passNode n t)).endFolds
  | .half i => s.modUnits (UnitState.passRoot true i)
  | .root i => s.modUnits (UnitState.passRoot false i)
  | .bank b => s.moveBank b (UnitState.passBank b t)
  | _ => s

/-- A unit has failed its test: it is marked, and what stood in for it goes on; where nothing stood in, it has failed in service. -/
def State.failTest (s : State) (t : TestRun) : State :=
  if t.forced then
    match t.unit with
    | .node n => s.nodeFail n 0x10 0
    | .half i => (s.modUnits (UnitState.setRoot true i 0)).rootFail true i 0
    | .root i => (s.modUnits (UnitState.setRoot false i 0)).rootFail false i 0
    | .bank b => s.bankFail ((s.units.bankServed b).getD b) 0
    | _ => s
  else
    let s := s.modUnits (UnitState.markFailed t.unit)
    match t.unit with
    | .node n => s.modUnits (UnitState.failSpare n)
    | .half i => s.modUnits (UnitState.setRoot true i 2)
    | .root i => s.modUnits (UnitState.setRoot false i 2)
    | .bank b =>
      let s := if 64 ≤ b.val then s.modUnits (UnitState.setLs (b - 64) 4 (s.units.ls (b - 64)).unit) else s
      s.postFault 0x31 4 b (if t.spare.isSome then 6 else 10) ((t.spare.map (64 + ·)).getD 0xFFFF) 0
    | _ => s

/-- The clusters of a node that a forced test has paused resume, and those that one of a root unit has stalled. -/
def State.endPause (s : State) (t : TestRun) : State :=
  match t.forced, t.unit with
  | true, .node n =>
    let l := s.units.paused.filter (fun c => s.units.nodeOf c == n.val)
    forEach l State.resumeCluster s
  | true, _ => s.flush.turnSends
  | _, _ => s

/-- The second unit of a pair, whose test waited, begins its own (code 0x21). -/
def State.nextOfPair (s : State) (x : UnitId) : State :=
  let go : Bool → Nat → State := fun half i =>
    if s.units.rootSt half (pairOf i) < 2 ∧ s.units.rootSt half i < 2 then
      s.modUnits (fun u => (u.setRoot half (pairOf i) 3).setRoot half i 0)
    else { s with mh := { s.mh with tests := s.mh.tests.filter (fun t => t.unit ≠ (if half then UnitId.half (Fin.ofNat 4 (pairOf i)) else UnitId.root (Fin.ofNat 2 (pairOf i)))) } }
  match x with
  | .half i => if s.underTest (.half (Fin.ofNat 4 (pairOf i))) then go true i else s
  | .root i => if s.underTest (.root (Fin.ofNat 2 (pairOf i))) then go false i else s
  | _ => s

/-- The test of a unit runs now: the test of a root unit that waits for its pair's has not begun, nor has that of a bank whose copy still
runs. -/
def State.testRuns (s : State) (t : TestRun) : Bool :=
  match t.unit with
  | .half i => s.units.hr i == 3
  | .root i => s.units.cr i == 3
  | .bank _ => (match t.spare with | some i => (s.units.ls i).st != 2 | none => true)
  | _ => true

/-- The pause of a forced test in ns (Table 13-7). -/
def testPause (t : TestRun) : Nat :=
  if t.forced then (match t.unit with | .bank _ => 100000 | _ => 1500000) else 0

/-- The long command in progress is a test of a unit. -/
def State.testLong (s : State) (x : UnitId) : Bool :=
  match s.mh.long with
  | some l => (match l.kind with | .test u _ => u == x | _ => false)
  | none => false

/-- `TEST_COMPLETE` (R349, R400 to R403). -/
def execTestComplete (u : UnitId) (pass : Bool) (signature : Word32) (s : State) : Host.Outcome State Fault Refusal :=
  match s.mh.tests.find? (fun t => t.unit == u) with
  | none => ok s
  | some t =>
    if s.testRuns t then
      let s := { s with mh := { s.mh with tests := s.mh.tests.erase t } }
      let s := s.endPause t
      let s := (if pass then s.passTest t else s.failTest t).nextOfPair u
      if t.background = false ∧ s.testLong u then
        ok (s.endLong rsDone 0xFFFF (leBytes 4 (flag (!pass)) ++ leBytes 4 (testPause t) ++ wordBytes 4 signature))
      else ok s
    else ok s

/-! ## `NODE` resets (R420, R421, R424) -/

/-- No logical position uses a unit: a failed node is still used while a spare fills from it, or a fold serves its arrays (R395, R421). -/
def State.idleUnit (s : State) (x : UnitId) : Bool :=
  let u := s.units
  match x with
  | .node n => (u.clustersOf n).isEmpty && !(decide (64 ≤ n.val) && (u.cs (n - 64)).st == 2) && !u.sources.any (fun e => e.2 == n.val) &&
      !s.mh.tests.any (fun t => t.unit == x && t.forced)
  | .half i => decide (2 ≤ u.hr i)
  | .root i => decide (2 ≤ u.cr i)
  | .bank b => (u.bankServed b).isNone && !(decide (64 ≤ b.val) && (u.ls (b - 64)).st == 2)
  | _ => false

/-- `NODE_RESET`: it changes nothing but the record. -/
def execNodeReset (u : UnitId) (s : State) : Host.Outcome State Fault Refusal :=
  if s.mhActs ∧ s.idleUnit u then ok (s.postReset 4 4 (unitIndex u) 0) else ok s

end Sys2Proof.Machine
end

