-- ==== Sys2Proof/Machine/Calibrate.lean ====
section
/-! DEFINITION. `CAL_PORT`, recalibration in the background and its end, and access through the TAP (R350, R399, R403 to R405). -/

namespace Sys2Proof.Machine

open Sys2Proof

/-! ## `CAL_PORT` (R350) -/

def cpPort (c : Cmd) : Nat := c.nat 16 1
def cpForce (c : Cmd) : Bool := c.nat 18 1 == 1

/-- The row takes its action; a reserved one is refused by any of the four rows. -/
def calMine (a : Nat) (c : Cmd) : Bool := c.nat 17 1 == a || decide (3 < c.nat 17 1)

/-- A tap setting is −32 to 31. -/
def tapOk (v : Nat) : Bool := decide (-32 ≤ signed 8 v) && decide (signed 8 v ≤ 31)

/-- Steps 4 and 5 of R331. -/
def calForm (c : Cmd) : List Check :=
  let a := c.nat 17 1
  [invalid (decide (3 < a)) 17, invalid (decide (1 < c.nat 18 1)) 18, invalid (a == 2 && decide (2 < c.nat 19 1)) 19,
   outOfRange (decide (7 < cpPort c)) 16] ++
  (List.range 4).map (fun i => outOfRange (a == 3 && !tapOk (c.nat (20 + i) 1)) (20 + i))

/-- The checks of each action, against the port's role and physical layer besides. -/
def calAdaptChecks (_ : State) (c : Cmd) : List Check := calForm c

/-- A port is under adaptation or recalibration. -/
def State.startCal (s : State) (p : Nat) : State :=
  { s with mh := { s.mh with cals := if s.mh.cals.contains p then s.mh.cals else s.mh.cals ++ [p] } }

/-- `CAL_PORT` action 0: the port adapts without a pause. -/
def execCalPortAdapt (n : SlotNo) (s : State) : Host.Outcome State Fault Refusal :=
  ok (s.command n 0x31 (calMine 0) (fun _ => 8) calAdaptChecks (fun c s =>
    (s.startLong c (.cal (cpPort c))).startCal (cpPort c)))

/-- A port is recalibrated in full: with its link moved to the spare, or in place, when the link resumes afterwards (R313). -/
def State.recalibrate (s : State) (p : Nat) : State :=
  let s := match s.spareFor p with
    | some q => s.movePort p q
    | none =>
      if (s.declOn p).isSome ∧ (s.lnk p).isUp then s.modLnk p (fun k => k.retrain k.lanes) else s.modLnk p (Link.fresh p)
  s.startCal p

/-- A port carries a declared link and has no free spare. -/
def State.needsSpare (s : State) (p : Nat) : Bool := (s.declOn p).isSome && (s.spareFor p).isNone

def State.calRecalChecks (s : State) (c : Cmd) : List Check :=
  calForm c ++ [(s.needsSpare (cpPort c) && !cpForce c, { status := rsNoSpare, field := 16, data := [] })]

/-- `CAL_PORT` action 1: a full recalibration, refused where no spare is free and none is forced (R403). -/
def execCalPortRecalibrate (n : SlotNo) (s : State) : Host.Outcome State Fault Refusal :=
  ok (s.command n 0x31 (calMine 1) (fun _ => 8) State.calRecalChecks (fun c s => (s.startLong c (.cal (cpPort c))).recalibrate (cpPort c)))

/-- A port that a topology in force declares, as link or spare. -/
def State.declares (s : State) (p : Nat) : Bool := s.topo.links.any (fun e => e.2.phys == p || e.2.spare == some p)

def State.calPhyChecks (s : State) (c : Cmd) : List Check := calForm c ++ [wrongState (s.declares (cpPort c)) 16]
def State.calTapsChecks (s : State) (c : Cmd) : List Check := calForm c ++ [invalid (s.phyOf (cpPort c) != 2) 16]

def boardDefault : Nat → Nat := fun i => (Config.boardPhy i).toNat

/-- `CAL_PORT` action 2: the physical layer of a port with no declared role; the setting takes effect in the row. -/
def execCalPortSetPhy (n : SlotNo) (s : State) : Host.Outcome State Fault Refusal :=
  ok (s.command n 0x31 (calMine 2) (fun _ => 8) State.calPhyChecks (fun c s =>
    let s := s.startLong c (.cal (cpPort c))
    ({ s with inp := { s.inp with phy := Tbl.set boardDefault s.inp.phy (cpPort c) (c.nat 19 1) } }).endLong rsDone 0xFFFF []))

/-- `CAL_PORT` action 3: the transmit settings of a chip-to-module port. -/
def execCalPortSetTaps (n : SlotNo) (s : State) : Host.Outcome State Fault Refusal :=
  ok (s.command n 0x31 (calMine 3) (fun _ => 8) State.calTapsChecks (fun c s =>
    let s := s.startLong c (.cal (cpPort c))
    ({ s with inp := { s.inp with
        taps := Tbl.set (fun _ => 0) s.inp.taps (cpPort c) (BitVec.ofNat 32 (c.nat 20 4)) } }).endLong rsDone 0xFFFF []))

/-- The long command in progress calibrates a port. -/
def State.calLong (s : State) (p : Nat) : Bool :=
  match s.mh.long with
  | some l => l.kind == .cal p
  | none => false

/-- `CALIBRATION_DONE` (R350): the port has its lock again, and the link resumes or is brought up. DEDUCED, log 64. -/
def execCalibrationDone (l : PortNo) (s : State) : Host.Outcome State Fault Refusal :=
  if s.mh.cals.contains l.val then
    let k := s.lnk l
    let s := { s with mh := { s.mh with cals := s.mh.cals.filter (fun p => p ≠ l.val) } }
    let s := if k.st = .retraining ∨ k.st = .training then s.setLnk l (Link.startExchange l { k with locked := true }) else s
    ok (if s.calLong l then s.endLong rsDone 0xFFFF [] else s)
  else ok s

/-- `PORT_RECALIBRATION` (R399): a port whose link has no free spare is deferred. -/
def execPortRecalibration (l : PortNo) (s : State) : Host.Outcome State Fault Refusal :=
  if s.mayTest ∧ s.needsSpare l = false ∧ s.mh.cals.contains l.val = false then ok (s.recalibrate l) else ok s

/-! ## The IEEE 1149.1 TAP (R404, R405, Table 13-8) -/

/-- The TAP reaches the network: at boot, on a fatal chip, or under a debug unlock when Masthead has released the network, which is its
firmware's decision and an operand of the row (DESIGN CHOICE, log 106). -/
def State.tapReaches (s : State) (released : Bool) : Bool :=
  s.power.st != .off && (s.mh.st == .boot || s.mh.st == .fatal || (s.debug && released))

/-- A unit is out of service: no logical position uses it, or it is under test (R400, R403, R405). -/
def State.outOfService (s : State) (u : UnitId) : Bool := s.idleUnit u || s.mh.tests.any (fun t => t.unit == u && s.testRuns t)

/-- The segment in which an instrument lies. -/
def tapSegment : Instrument → Segment
  | .openSegment g => g
  | .closeSegment g => g
  | .logicBist u => .unit u
  | .memoryBist u => .unit u
  | .inject u => .unit u
  | .eyeMonitor p lane => .lane p lane
  | .loopback p _ => .port p
  | _ => .chip

/-- Table 13-8 lets the TAP use an instrument on the segment's unit as it stands: reads always, BIST of a unit out of service, loopback of a
port with no role, and error injection anywhere, these under a debug unlock. -/
def State.tapAllows (s : State) : Instrument → Bool
  | .openSegment _ | .closeSegment _ | .status | .eyeMonitor _ _ => true
  | .logicBist u => s.debug && s.outOfService u && (match u with | .node _ | .half _ | .root _ => true | _ => false)
  | .memoryBist u => s.debug && s.outOfService u && (match u with | .node _ | .bank _ | .pool _ => true | _ => false)
  | .inject _ | .injectSecded _ _ => s.debug
  | .loopback p _ => s.debug && !s.declares p
  | .haltMasthead | .resumeMasthead => s.debug
  | .stepMasthead | .readRegister _ _ | .writeRegister _ _ _ => s.debug && s.mh.halted

/-- The TAP reads bytes out. -/
def State.scanOut (s : State) (l : List Byte) : State := { s with tap := { s.tap with scan := l } }

/-- Bytes that the manual does not give are read out: a signature, an eye, what a loopback's checker has counted (free, DESIGN CHOICE,
log 106). -/
def State.scanFree (s : State) (n : Nat) : State :=
  { s with free := s.free + n }.scanOut ((List.range n).map (fun i => Config.freeByte (s.free + i)))

/-- The registers of Masthead's cores are what its firmware has made them: none is known. -/
def State.newRegisters (s : State) : State := { s with tap := { s.tap with regs := [], era := s.free }, free := s.free + 288 }

/-- A register of a halted core. -/
def State.register (s : State) (i : Nat) : Word32 :=
  match s.tap.regs.find i with
  | some v => v
  | none => BitVec.ofNat 32 (leNat ((List.range 4).map (fun j => Config.freeByte (s.tap.era + 4 * i + j))))

/-- What an instrument does (R335, R405, Table 13-8). -/
def State.instrument (s : State) : Instrument → State
  | .openSegment g => { s with tap := { s.tap with opened := if s.tap.opened.contains g then s.tap.opened else s.tap.opened ++ [g] } }
  | .closeSegment g => { s with tap := { s.tap with opened := s.tap.opened.filter (fun x => x ≠ g) } }
  | .status => s.scanOut s.spareMap
  | .logicBist _ | .memoryBist _ => s.scanFree 4
  | .inject u =>
    let d := s.freeNat 2
    let s := { s with free := s.free + 2 }
    if s.mhActs then s.residue u (d % 8 + 256 * (d / 256 % 16)) else s
  | .injectSecded w lost => if s.mhActs && lost then s.uncorrectable w else s
  | .eyeMonitor _ _ => s.scanFree 4
  | .loopback p on =>
    let rest := s.tap.looped.filter (fun q => q ≠ p.val)
    ({ s with tap := { s.tap with looped := if on then rest ++ [p.val] else rest } }).scanFree 4
  | .haltMasthead => if s.mh.halted then s else ({ s with mh := { s.mh with halted := true } }).newRegisters
  | .resumeMasthead => { s with mh := { s.mh with halted := false }, tap := { s.tap with regs := [] } }
  | .stepMasthead => s.newRegisters
  | .readRegister core r => s.scanOut (wordBytes 4 (s.register (36 * core + r)))
  | .writeRegister core r v => { s with tap := { s.tap with regs := s.tap.regs.put (36 * core + r) v } }

/-- `TAP_INSTRUMENT_ACCESS` (R335, R404, R405): where the TAP does not reach the network its segments read closed; an instrument is used through its
open segment. A step of Masthead leaves its registers to its firmware, and changes nothing else that this model holds (DESIGN CHOICE,
log 106). -/
def execTapInstrumentAccess (x : TapAccess) (s : State) : Host.Outcome State Fault Refusal :=
  if s.tapReaches x.released = false then ok { s with tap := { s.tap with opened := [] } }
  else
    let through := match x.instrument with
      | .openSegment _ => true
      | _ => s.tap.opened.contains (tapSegment x.instrument)
    ok (if through && s.tapAllows x.instrument then s.instrument x.instrument else s)

end Sys2Proof.Machine
end

