-- ==== Sys2Proof/Machine/Cinch.lean ====
section
/-! DEFINITION. `CINCH`: the cut and its phases, the image in the partner area, the flash tier (R348, R361 to R374). -/

namespace Sys2Proof.Machine

open Sys2Proof

/-! ## The command (R348, R362) -/

def cnNumber (c : Cmd) : Nat := c.nat 16 6
def cnMap (c : Cmd) : Nat := c.nat 24 8

/-- The chip has a flash tier (R370). -/
def State.hasFlash (s : State) : Bool := s.inp.regions.flashLen != 0

/-- The checks of `CINCH`; the bitmap is aligned to its size (R12). -/
def State.cinchChecks (s : State) (c : Cmd) : List Check :=
  [invalid (!c.zero 22 2) 22, invalid (cnMap c % 512 != 0) 24, outOfRange (decide (memEnd < cnMap c + 512)) 24,
   outOfRange (decide (cnNumber c ≤ s.cut.last)) 16, wrongState s.pol.partner.isNone 16,
   wrongState (s.pol.partner.any (·.sameFeed) && !s.hasFlash) 16]

/-- The chosen contexts: every one where the address is 0 (DEDUCED, log 45). -/
def State.chosenMap (s : State) (a : Nat) : BitVec 4096 :=
  if a = 0 then BitVec.allOnes 4096 else BitVec.ofNat 4096 (loadNat s a 512)

/-- The bindings of chosen contexts are marked. -/
def State.choose (s : State) (m : BitVec 4096) : State :=
  { s with ctxs := s.ctxs.map (fun e => (e.1, { e.2 with chosen := m.getLsbD e.1, cut := 0 })) }

/-- `CINCH` (R363): phase A begins. -/
def execCinch (n : SlotNo) (s : State) : Host.Outcome State Fault Refusal :=
  ok (s.command n 0x20 anyCmd (fun _ => 16) State.cinchChecks (fun c s =>
    let m := s.chosenMap (cnMap c)
    let s := (s.startLong c .cinch).choose m
    { s with mh := { s.mh with cut := some { number := cnNumber c, chosen := m, phase := .agree, reason := 0, imageLen := 0, before := [] } } }))

/-! ## The end (R371, R372, Tables 12-2 and 12-3) -/

/-- The body of the final response. -/
def State.cinchBody (s : State) (reason tiers len addr nctx : Nat) : List Byte :=
  leBytes 1 reason ++ leBytes 1 tiers ++ leBytes 2 0 ++ leBytes 4 len ++ leBytes 8 addr ++ leBytes 6 s.cut.flashed ++
    leBytes 2 0 ++ leBytes 4 nctx

/-- Chosen contexts that are bound here. -/
def State.chosenHere (s : State) : List (Nat × Binding) := s.ctxs.filter (fun e => e.2.chosen)

/-- A copy into the flash window that comes before the commit of the cinch in progress is given up: its half keeps a header of zeros. -/
def Masthead.dropCopy (m : Masthead) : Masthead := { m with flashWait := m.flashWait.filter (fun k => !k.early) }

/-- The cinch is abandoned with a reason (R372); `mine` is this chip's own cause. -/
def State.abandon (s : State) (reason mine : Nat) : State :=
  let n := s.chosenHere.length
  let s := { s with mh := s.mh.dropCopy }
  s.endCut.endLong (if mine = 7 then rsEnospc else rsEstate) 0xFFFF (s.cinchBody reason 0 0 0 n)

/-- The cinch goes on, changed. -/
def State.setCut (s : State) (c : CutRun) : State := { s with mh := { s.mh with cut := some c } }

/-- A step of a cinch: Masthead runs, and the cinch is in this phase. -/
def State.inPhase (s : State) (ph : CutPhase) (f : CutRun → State → State) : Host.Outcome State Fault Refusal :=
  match s.mh.cut with
  | none => ok s
  | some c => if c.phase = ph ∧ s.mh.halted = false then ok (f c s) else ok s

/-! ## Phases A to D (R363 to R367) -/

/-- No other chip is present: an internal collective over group 0 then has this chip's contribution alone. -/
def State.onlyChip (s : State) : Bool := s.topo.present.all (fun c => c == s.topo.chip)

/-- What the other present chips contribute: nothing where there are none. -/
def State.fromOthers (s : State) (n : Nat) : Nat := if s.onlyChip then 0 else n

/-- A contribution of this chip leaves. -/
def State.contribute (s : State) (x : CutSent) : State := { s with out := { s.out with cinch := x :: s.out.cinch } }

/-- X of a context: the `MAX` of this chip's count and those of the others. -/
def State.cutOf (s : State) (a : CutAgreement) (ctx : Nat) (b : Binding) : Nat :=
  max b.started (s.fromOthers ((Tbl.find a.xs ctx).getD 0))

/-- The CRC-32C of the bitmap. -/
def CutRun.crc (c : CutRun) : Nat := (crc32c (wordBytes 512 c.chosen)).toNat

/-- The `MAX` and the `MIN` of number and CRC are equal. -/
def State.agrees (s : State) (c : CutRun) (a : CutAgreement) : Bool :=
  match a.others with
  | none => true
  | some o =>
    s.onlyChip || (max o.maxNumber c.number == min o.minNumber c.number && max o.maxCrc c.crc == min o.minCrc c.crc)

/-- What this chip contributes to the agreement. -/
def State.agreement (s : State) (c : CutRun) : CutSent :=
  .agree c.reason (s.chosenHere.map (fun e => (e.1, e.2.started))) c.number c.crc

/-- `CINCH_AGREE_RESULT` (R362, R363): this chip's contribution, and the result with those of the others. -/
def execCinchAgreeResult (a : CutAgreement) (s : State) : Host.Outcome State Fault Refusal :=
  s.inPhase .agree (fun c s =>
    let r := max (s.fromOthers a.reason) c.reason
    let s := s.contribute (s.agreement c)
    if r ≠ 0 then s.abandon r c.reason
    else if s.agrees c a = false then s.abandon 2 0
    else
      let fix : Nat → Binding → Binding := fun ctx b => if b.chosen then { b with cut := s.cutOf a ctx b } else b
      { s with
        ctxs := s.ctxs.map (fun e => (e.1, fix e.1 e.2))
        mh := { s.mh with cut := some { c with phase := .drain } } })

/-- A completion that the drain waits for: of anything but a collective, whose own members are asked. -/
def Done.blocks (x : Done) : Bool := x.coll.isNone

/-- A context has started and completed every epoch of the cut. -/
def State.drainedCtx (s : State) (ctx : Nat) (b : Binding) : Bool :=
  decide (b.cut ≤ b.started) &&
    !s.ops.colls.any (fun x => x.ctx == ctx && x.members.any (·.live)) && !s.ops.queue.any (fun q => q.1 == ctx)

/-- The chip is drained (R365). DEDUCED, log 103. -/
def State.drained (s : State) : Bool :=
  s.chosenHere.all (fun e => s.drainedCtx e.1 e.2) && s.ops.sends.isEmpty && s.ops.delivs.isEmpty && s.ops.combs.all (fun o => standing o.desc) &&
    s.ports.all (fun e => !e.2.done.any Done.blocks)

/-- `CINCH_DRAINED` (R365, R366): the stop is in force. -/
def execCinchDrained (s : State) : Host.Outcome State Fault Refusal :=
  s.inPhase .drain (fun c s => if s.drained then s.setCut { c with phase := .quiet } else s)

/-! ## Phase E (R368, R369) -/

/-- The half that does not hold the newest durable image. -/
def nextHalf (newest : Option Nat) : Nat := if newest = some 0 then 1 else 0

/-- The address of a half. -/
def halfAddr (base len half : Nat) : Nat := base + half * (len / 2)

/-- The partner half, and the flash half, that the next image takes. -/
def State.partnerBase (s : State) (p : Partner) : Nat := halfAddr p.area p.len (nextHalf s.cut.half)
def State.flashBase (s : State) : Nat := halfAddr s.inp.regions.flash s.inp.regions.flashLen (nextHalf s.cut.flashHalf)

/-- The sections of the image. -/
def State.imageBytes (s : State) (chosen : BitVec 4096) : List Byte := wholeSects (s.commonSects chosen false)

/-- An image is too long for the halves it is meant for (R369, R370, DEDUCED, log 46). -/
def State.tooLong (s : State) (p : Partner) (len : Nat) : Bool :=
  decide (p.len / 2 < len) || (s.hasFlash && decide (s.inp.regions.flashLen / 2 < len))

/-- What was under way on the die has come to rest: commands at their words, notices at the ledger, release ramps and fills done (R366,
DEDUCED, log 47). -/
def State.atRest (s : State) : Bool :=
  s.tt.chans.all (fun e => e.2.rel.isNone) && s.tt.flights.all (fun f => match f.via with | .remote _ => true | .posted => true | _ => false) && s.led.fly.isEmpty && s.units.paused.isEmpty

/-- Where an address of another chip's memory lies among those that this chip writes. DESIGN CHOICE, log 15. -/
def remoteAt (chip a : Nat) : Nat := chip * memEnd + a

/-- Bytes are stored in a partner's memory. DESIGN CHOICE, log 15. -/
def State.storeRemote (s : State) (chip a : Nat) (l : List Byte) : State :=
  { s with remote := Memory.writeN s.remote (remoteAt chip a) l }

/-- Bytes of a partner's memory. -/
def State.loadRemote (s : State) (chip a n : Nat) : List Byte := Memory.readN s.remote (remoteAt chip a) n

/-- A header of zeros. -/
def zeroHeader : List Byte := List.replicate 64 0

/-- Phase E begins: the header of the half that it writes is zeroed. -/
def State.beginCapture (s : State) (c : CutRun) : State :=
  let s := s.setCut { c with phase := .capture }
  match s.pol.partner with
  | some p => if p.len / 2 < 64 then s else s.storeRemote p.chip (s.partnerBase p) zeroHeader
  | none => s

/-- What this chip contributes to a round of phase D. -/
def State.counts (s : State) (c : CutRun) : CutSent := .quiet c.reason s.link.sent1 s.link.recv1 s.link.sent4 s.link.recv4

/-- The sums of every chip's counts are equal, sent and received, for VC1 and for VC4 (R367). -/
def State.quiet (s : State) (sent1 recv1 sent4 recv4 : Nat) : Bool :=
  s.link.sent1 + s.fromOthers sent1 == s.link.recv1 + s.fromOthers recv1 &&
    s.link.sent4 + s.fromOthers sent4 == s.link.recv4 + s.fromOthers recv4

/-- A round of phase D. -/
def State.quietRound (s : State) (c : CutRun) (reason sent1 recv1 sent4 recv4 : Nat) : State :=
  let r := max (s.fromOthers reason) c.reason
  let s := s.contribute (s.counts c)
  if r ≠ 0 then s.abandon r c.reason
  else if s.quiet sent1 recv1 sent4 recv4 then s.beginCapture c
  else s

/-- `CINCH_QUIET_ROUND` (R367): this chip's counts and the sums of those of the others, with the common reason. A chip that does not drain
contributes its reason here (R363, Table 12-3; DEDUCED, log 131). -/
def execCinchQuietRound (reason sent1 recv1 sent4 recv4 : Nat) (s : State) : Host.Outcome State Fault Refusal :=
  match s.mh.cut with
  | none => ok s
  | some c =>
    if s.mh.halted = false ∧ (c.phase = .quiet ∨ (c.phase = .drain ∧ c.reason ≠ 0)) then ok (s.quietRound c reason sent1 recv1 sent4 recv4)
    else ok s

/-- The first copy into the flash window begins: the header of its half is zeroed (R369, R370). -/
def State.beginCopy (s : State) : State := if s.mh.flashWait.isEmpty then s else store s s.flashBase zeroHeader

/-- A copy into the flash window joins those that wait, and begins at once when there is none. -/
def State.queueCopy (s : State) (k : FlashCopy) : State :=
  let first := s.mh.flashWait.isEmpty
  let s := { s with mh := { s.mh with flashWait := s.mh.flashWait ++ [k] } }
  if first then s.beginCopy else s

/-- The sections are visible at the partner, under a header of zeros; the stop is released, and phase F begins. On a same-feed
pairing the copy into the flash window comes before this chip's reason (R371). -/
def State.captured (s : State) (c : CutRun) (p : Partner) (good : Bool) : State :=
  let body := s.imageBytes c.chosen
  let len := 64 + body.length
  if s.tooLong p len then (s.setCut { c with phase := .commit, reason := if c.reason = 0 then 7 else c.reason }).releaseStop
  else
    let a := s.partnerBase p
    let s := s.storeRemote p.chip a (zeroHeader ++ (if good then body else []))
    let r := if good || c.reason != 0 then c.reason else 8
    let s := (s.setCut { c with phase := .commit, reason := r, imageLen := len }).releaseStop
    if p.sameFeed ∧ r = 0 then s.queueCopy { number := c.number, chip := p.chip, src := a, len := len, early := true } else s

/-- `CINCH_CAPTURE_DONE`. -/
def execCinchCaptureDone (good : Bool) (s : State) : Host.Outcome State Fault Refusal :=
  s.inPhase .capture (fun c s =>
    match s.pol.partner with
    | none => s
    | some p => if s.atRest then s.captured c p good else s)

/-! ## Phase F (R371) -/

/-- The header of the image. -/
def State.imageHeader (s : State) (number len : Nat) : List Byte :=
  containerHeader 1 10 s.chipField number 0 0 len 0 (s.versions s.sec.run).1

/-- The image is durable: the header is written, the number is taken, and the flash copy follows, or has come before. A copy of an older
image that has not begun is skipped. -/
def State.commitCut (s : State) (c : CutRun) (p : Partner) : State :=
  let a := s.partnerBase p
  let head := s.imageHeader c.number c.imageLen
  let n := s.chosenHere.length
  let s := s.storeRemote p.chip a head
  let s := if p.sameFeed then store s s.flashBase head else s
  let flashed : CutState := { s.cut with last := c.number, half := some (nextHalf s.cut.half) }
  let s := { s with cut :=
    if p.sameFeed then { flashed with flashHalf := some (nextHalf s.cut.flashHalf), flashed := c.number } else flashed }
  let s := { s with mh := { s.mh with flashWait := s.mh.flashWait.take 1 } }
  let s := if !p.sameFeed && s.hasFlash then
      s.queueCopy { number := c.number, chip := p.chip, src := a, len := c.imageLen, early := false } else s
  s.endCut.endLong rsDone 0xFFFF (s.cinchBody 0 (if p.sameFeed then 3 else 1) c.imageLen a n)

/-- `CINCH_COMMIT_RESULT`: this chip's reason is part of the result, so a copy that must come first has ended. -/
def execCinchCommitResult (reason : Nat) (s : State) : Host.Outcome State Fault Refusal :=
  s.inPhase .commit (fun c s =>
    let r := max (s.fromOthers reason) c.reason
    match s.pol.partner with
    | none => s
    | some p =>
      if s.mh.flashWait.any (·.early) ∧ c.reason = 0 then s
      else
        let s := s.contribute (.commit c.reason)
        if r ≠ 0 then s.abandon r c.reason else s.commitCut c p)

/-- A copy that has begun has ended; a failed one leaves a header of zeros. Before its commit the header is not written yet, and a failure
is a cause to abandon the cinch. -/
def State.copyEnd (s : State) (k : FlashCopy) (good : Bool) : State :=
  if good = false then
    let s := store s s.flashBase zeroHeader
    if k.early then s.cutReason 8 else s
  else
    let bytes := s.loadRemote k.chip k.src k.len
    if k.early then store s s.flashBase (zeroHeader ++ bytes.drop 64)
    else
      let s := store s s.flashBase bytes
      { s with cut := { s.cut with flashHalf := some (nextHalf s.cut.flashHalf), flashed := k.number } }

/-- A copy into the flash window has ended, and the next begins (R371). -/
def State.flashDone (s : State) (k : FlashCopy) (good : Bool) : State :=
  let s := s.copyEnd k good
  ({ s with mh := { s.mh with flashWait := s.mh.flashWait.drop 1 } }).beginCopy

/-- `CINCH_FLASH_COPY_DONE`. -/
def execCinchFlashCopyDone (good : Bool) (s : State) : Host.Outcome State Fault Refusal :=
  match s.mh.flashWait with
  | k :: _ => ok (s.flashDone k good)
  | [] => ok s

/-- The reason of a phase that does not end within `COLL_TIMEOUT` (Table 12-3; phase F DEDUCED, log 48). -/
def timeoutReason : CutPhase → Nat
  | .agree => 1
  | .drain => 3
  | .quiet => 4
  | .capture => 0
  | .commit => 6

/-- `CINCH_PHASE_TIMEOUT` (R363). Phase B has no internal collective: its reason is contributed in the next (Table 12-3; DEDUCED, log 131);
where that does not complete either, the cinch ends with the reason of phase D. -/
def execCinchPhaseTimeout (s : State) : Host.Outcome State Fault Refusal :=
  match s.mh.cut with
  | none => ok s
  | some c =>
    let r := timeoutReason c.phase
    if r = 0 ∨ s.mh.halted then ok s
    else if c.phase ≠ .drain then ok (s.abandon r c.reason)
    else if c.reason = 0 then ok (s.cutReason r)
    else ok (s.abandon 4 c.reason)

end Sys2Proof.Machine
end

