-- ==== Sys2Proof/Machine/PortRegs.lean ====
section
/-! DEFINITION. The registers of an endpoint port: what a store does and what a load reads (R250 to R254, R270 to R272), and
arrival notices on their way (R213 to R215). -/

namespace Sys2Proof.Machine

open Sys2Proof

/-- An error bit of `EP_ERR` is set (Table 9-3). -/
def Port.error (i : Nat) (x : Port) : Port := { x with err := x.err ||| BitVec.ofNat 7 (2 ^ i) }

/-- A discarded register write (R250). -/
def State.regErr (s : State) (p : Nat) : State := s.modPort p (Port.error 4)

/-- A write whose reserved bits are 0 is applied; any other is discarded (R250). -/
def State.writeIf (s : State) (p : Nat) (v : Word64) (fs : List (Nat × Nat)) (f : State → State) : State :=
  if onlyFields v fs then f s else s.regErr p

/-! ## Ring registers (R252 to R254) -/

/-- The encodings of `LOG2` that are not reserved. -/
def log2Ok (v : Word64) : Bool :=
  let n := bits v 0 4
  n == 0 || (decide (4 ≤ n) && decide (n ≤ 12))

/-- A store to `EP_SQ_CFG`. -/
def State.writeSqCfg (s : State) (p : Nat) (v : Word64) : State :=
  s.writeIf p v [(12, 40), (0, 4)] (fun s =>
    if log2Ok v = false then s.regErr p
    else s.modPort p (fun x =>
      if x.sqHead ≠ x.sqTail then x.error 2 else { x with sqCfg := v, sqHead := 0, sqTail := 0 }))

/-- A store to `EP_CQ_CFG`. -/
def State.writeCqCfg (s : State) (p : Nat) (v : Word64) : State :=
  s.writeIf p v [(12, 40), (0, 4)] (fun s =>
    if log2Ok v = false then s.regErr p
    else s.modPort p (fun x =>
      if x.opened ≠ 0 ∨ x.cqHead ≠ x.cqTail then x.error 2
      else { x with cqCfg := v, cqHead := 0, cqTail := 0, cqPhase := true }))

/-- The steps from one index of a ring to another. -/
def ringDist (n from_ to_ : Nat) : Nat := (to_ + n - from_) % n

/-- A store to `EP_SQ_TAIL` (R253). -/
def State.writeSqTail (s : State) (p : Nat) (v : Word64) : State :=
  s.writeIf p v [(0, 12)] (fun s => s.modPort p (fun x =>
    let n := ringSize x.sqCfg
    if ringOn x.sqCfg = false ∨ n ≤ v.toNat ∨ ringDist n x.sqHead v.toNat < ringDist n x.sqHead x.sqTail then x.error 0
    else { x with sqTail := v.toNat }))

/-- A store to `EP_CQ_HEAD` (R254). -/
def State.writeCqHead (s : State) (p : Nat) (v : Word64) : State :=
  s.writeIf p v [(0, 12)] (fun s => s.modPort p (fun x =>
    let n := ringSize x.cqCfg
    if n ≤ v.toNat ∨ ringDist n x.cqHead x.cqTail < ringDist n x.cqHead v.toNat then x.error 1
    else { x with cqHead := v.toNat }))

/-! ## The tell-tale window (R270, R271) -/

/-- A store to `EP_TT_POP`. -/
def State.writeTtPop (s : State) (p : Nat) (v : Word64) : State :=
  s.writeIf p v [(0, 1)] (fun s => s.modPort p (fun x =>
    if bit v 0 ∧ !x.resp.isEmpty then { x with resp := x.resp.drop 1, credits := x.credits + 1 } else x))

/-! ## The notice queue (R213, R214, R272) -/

/-- The check of a notice at its port (R214). -/
def State.noticeCheck (s : State) (m : Msg) : Option CStatus :=
  if nWellFormed m = false then some .badDescriptor else if s.isPresent (nDst m) = false then some .badContext else none

/-- A rejected notice (R272). -/
def Port.rejectNotice (st : CStatus) (x : Port) : Port :=
  { x with nqErr := true, nqLast := some st, nqRej := min (x.nqRej + 1) 0xFFFF }

/-- A store to `EP_NQ_HI` posts a notice. -/
def State.postNotice (s : State) (p : Nat) (v : Word64) : State :=
  let x := s.port p
  let m : Msg := v ++ x.nqLo
  match s.noticeCheck m with
  | some st => s.modPort p (Port.rejectNotice st)
  | none =>
    if 16 ≤ x.nq.length then s.modPort p (Port.rejectNotice .noResource)
    else s.modPort p (fun x => { x with nq := x.nq ++ [setBits m 30 25 (s.rig p)] })

/-- A store to `EP_NQ_STAT` acts only through `NQ_ERR`. -/
def State.writeNqStat (s : State) (p : Nat) (v : Word64) : State :=
  s.writeIf p v [(32, 8), (31, 1), (0, 24)] (fun s => s.modPort p (fun x =>
    if bit v 31 then { x with nqErr := false, nqLast := none, nqRej := 0 } else x))

/-! ## The window (Table 9-1) -/

/-- A store of 64 bits at an offset of a port's window (R250). -/
def State.portWrite (s : State) (p : Nat) (ofs : Nat) (v : Word64) : State :=
  match ofs with
  | 0x008 => s.writeIf p v [(0, 7)] (fun s => s.modPort p (fun x => { x with err := x.err &&& ~~~(BitVec.ofNat 7 v.toNat) }))
  | 0x010 => s.writeSqCfg p v
  | 0x018 => s.writeSqTail p v
  | 0x028 => s.writeCqCfg p v
  | 0x030 => s.writeCqHead p v
  | 0x040 => s.ttStore p v
  | 0x058 => s.writeTtPop p v
  | 0x060 => s.modPort p (fun x => { x with nqLo := v })
  | 0x068 => if s.stopped then s else s.postNotice p v
  | 0x070 => s.writeNqStat p v
  | _ => s.regErr p

/-- A load of 64 bits at an offset of a port's window (Tables 9-1, 9-2, 9-11, 9-15, 9-16); 0 in `RETAIN` (R418). -/
def State.portRead (s : State) (p : Nat) (ofs : Nat) : Word64 :=
  let x := s.port p
  if s.power.st = .retain then 0 else
  match ofs with
  | 0x000 => fields 64 [(63, 1, flag s.topo.rigValid), (0, 25, s.rig p)]
  | 0x008 => x.err.zeroExtend 64
  | 0x010 => x.sqCfg
  | 0x018 => BitVec.ofNat 64 x.sqTail
  | 0x020 => BitVec.ofNat 64 x.sqHead
  | 0x028 => x.cqCfg
  | 0x030 => BitVec.ofNat 64 x.cqHead
  | 0x038 => BitVec.ofNat 64 x.cqTail
  | 0x048 => x.resp.headD 0
  | 0x050 => fields 64 [(8, 6, x.resp.length), (0, 6, x.credits)]
  | 0x070 => fields 64 [(32, 8, 16 - x.nq.length), (31, 1, flag x.nqErr), (16, 8, ((x.nqLast.map statusCode).getD 0)),
      (0, 16, x.nqRej)]
  | 0x078 => fields 64 [(6, 46, s.inp.regions.dist / 64), (0, 1, flag s.topo.dtPub)]
  | _ => 0

/-- A store reaches a port that runs (DEDUCED, log 24); in `DOZE` it wakes the block (R416). -/
def State.portStore (s : State) (p : Nat) (ofs : Nat) (v : Word64) : State :=
  if s.wake.running then s.wake.portWrite p ofs v else s

/-! ## The rows -/

/-- `REGISTER_WRITE` (R250). -/
def execRegisterWrite (p : Pos) (ofs : BitVec 12) (v : Word64) (s : State) : Host.Outcome State Fault Refusal :=
  ok (s.portStore p ofs.toNat v)

/-- `EP_SQ_CFG` (R252). -/
def execEpSqCfg (p : Pos) (v : Word64) (s : State) : Host.Outcome State Fault Refusal := ok (s.portStore p 0x010 v)

/-- `EP_CQ_CFG` (R252). -/
def execEpCqCfg (p : Pos) (v : Word64) (s : State) : Host.Outcome State Fault Refusal := ok (s.portStore p 0x028 v)

/-- `SUBMISSION_DOORBELL` (R253). -/
def execSubmissionDoorbell (p : Pos) (v : Word64) (s : State) : Host.Outcome State Fault Refusal := ok (s.portStore p 0x018 v)

/-- `COMPLETION_DOORBELL` (R254). -/
def execCompletionDoorbell (p : Pos) (v : Word64) (s : State) : Host.Outcome State Fault Refusal := ok (s.portStore p 0x030 v)

/-- `EP_TT_POP` (R271). -/
def execEpTtPop (p : Pos) (v : Word64) (s : State) : Host.Outcome State Fault Refusal := ok (s.portStore p 0x058 v)

/-- `EP_NQ_STAT` (R272). -/
def execEpNqStat (p : Pos) (v : Word64) (s : State) : Host.Outcome State Fault Refusal := ok (s.portStore p 0x070 v)

/-- `NOTICE_POST` (R214, R272). -/
def execNoticePost (p : Pos) (hi : Word64) (s : State) : Host.Outcome State Fault Refusal := ok (s.portStore p 0x068 hi)

/-- `NOTICE_SEND` (R213, R214, R366): the oldest notice leaves, on the die or on VC4. -/
def execNoticeSend (p : Pos) (s : State) : Host.Outcome State Fault Refusal :=
  match s.stopped, (s.port p).nq with
  | false, m :: r =>
    let s := s.modPort p (fun x => { x with nq := r })
    if nDst m = s.topo.chip then ok { s with led := { s.led with fly := s.led.fly ++ [m] } }
    else ok (s.originate 4 (nDst m) m)
  | _, _ => ok s

/-- `ARRIVAL` (R204, R215): the oldest notice that travels on the die, or the oldest received on a link's VC4, which goes on when
its home is another chip. -/
def execArrival (src : NoticeSource) (s : State) : Host.Outcome State Fault Refusal :=
  match src with
  | .onDie =>
    match s.led.fly with
    | [] => ok s
    | m :: r => ok (({ s with led := { s.led with fly := r } }).applyNotice m)
  | .offDie l =>
    ok (s.onMsg l 4 (fun _ => true) (fun m s => s.consumeOrForward 4 (nDst m) m (fun s => s.applyNotice m)))

end Sys2Proof.Machine
end

