-- ==== Sys2Proof/Machine/Restore.lean ====
section
/-! DEFINITION. `RESTORE`: the checks of an image and what its sections bring back (R348, R376, R377). -/

namespace Sys2Proof.Machine

open Sys2Proof

/-! ## The container (R375, Tables 12-5 and 12-6) -/

/-- The sections of an image: type, record size, and the number of records where it is fixed. -/
def imageTypes : List (Nat × Nat × Option Nat) :=
  [(0x01, 512, some 1), (0x02, 176, none), (0x03, 8, some 49152), (0x04, 16, none), (0x05, 160, some 64), (0x06, 32, some 64),
   (0x07, 32, none), (0x08, 576, some 1024), (0x09, 80, none), (0x0A, 264, none)]

/-- `SH_COUNT` and `SH_RSIZE` of the section at an offset. -/
def Block.secCount (b : Block) (o : Nat) : Nat := b.nat (o + 4) 4
def Block.secSize (b : Block) (o : Nat) : Nat := b.nat (o + 2) 2

/-- The offset behind the section at an offset. -/
def Block.secEnd (b : Block) (o : Nat) : Nat := o + sectLen (b.secSize o) (b.secCount o)

/-- The offset of section `i`. -/
def Block.secOfs (b : Block) : Nat → Nat
  | 0 => 64
  | i + 1 => b.secEnd (b.secOfs i)

/-- Bytes cut into records. -/
def cutRecords (size : Nat) : Nat → Block → List Block
  | 0, _ => []
  | n + 1, b => b.take size :: cutRecords size n (b.drop size)

/-- The records of section `i`. -/
def Block.secRecs (b : Block) (i : Nat) : List Block :=
  let o := b.secOfs i
  cutRecords (b.secSize o) (b.secCount o) (b.drop (o + 16))

/-- The checks of section `i` of an image. DEDUCED, log 102. -/
def Block.secChecks (b : Block) (i : Nat) (t : Nat × Nat × Option Nat) : List Check :=
  let o := b.secOfs i
  let n := t.2.1 * b.secCount o
  [invalidAt (decide (b.length < o + 16) || b.nat o 1 != t.1) 24 o, invalidAt (b.nat (o + 1) 1 != 0) 24 (o + 1),
   invalidAt (b.secSize o != t.2.1) 24 (o + 2), invalidAt (t.2.2.any (fun k => b.secCount o != k)) 24 (o + 4),
   invalidAt (b.nat (o + 8) 4 != n || decide (b.length < o + 16 + n)) 24 (o + 8),
   invalidAt (b.nat (o + 12) 4 != (crc32c ((b.drop (o + 16)).take n)).toNat) 24 (o + 12),
   invalidAt (!b.zero (o + 16 + n) (b.secEnd o - (o + 16 + n))) 24 (o + 16 + n)]

/-- The checks of an image's form. -/
def Block.imageChecks (b : Block) (number : Nat) : List Check :=
  [invalidAt (b.nat 0 4 != 0x58524C52) 24 0, invalidAt (b.nat 4 1 != 1) 24 4, invalidAt (b.nat 5 1 != 1) 24 5,
   invalidAt (b.nat 60 4 != (crc32c (b.take 60)).toNat) 24 60, invalidAt (b.nat 32 8 != b.length) 24 32,
   invalidAt (b.nat 18 6 != number) 24 18, invalidAt (b.nat 6 2 != 10) 24 6, invalidAt (!b.zero 24 8) 24 24,
   invalidAt (!b.zero 44 16) 24 44] ++
  (imageTypes.zipIdx.flatMap (fun e => b.secChecks e.2 e.1)) ++ [invalidAt (b.secOfs 10 != b.length) 24 32]

/-! ## Reserved bytes and codes of the records (R15, R331, Table 12-7), and fields out of range -/

/-- Bits outside some fields of the 64-bit word at an offset are not 0. -/
def Block.stray (r : Block) (o : Nat) (fs : List (Nat × Nat)) : Bool := !onlyFields (BitVec.ofNat 64 (r.nat o 8)) fs

/-- `S_CONTEXTS`. -/
def contextRsv (r : Block) : List (Bool × Nat) :=
  [(decide (1 < r.nat 5 1), 5), (!r.zero 6 2, 6)] ++
    (List.range 4).map (fun i => ((statusOf (r.nat (24 + i) 1)).isNone, 24 + i)) ++ [(!r.zero 28 20, 28)]

/-- `S_SYNCWORDS` (Table 5-2). -/
def wordRsv (r : Block) : List (Bool × Nat) :=
  let a : Word64 := BitVec.ofNat 64 (r.nat 0 8)
  [(decide (2 ≤ bits a 62 2) || bits a 60 2 == 3 || r.stray 0 [(56, 8), (32, 20), (24, 4), (0, 20)], 0)]

/-- `S_WAITERS`: the waits on words, `WAIT`, and those on channels, `ARRIVE` and `BWAIT`. -/
def waiterRsv (r : Block) : List (Bool × Nat) :=
  let top := r.nat 3 1
  [(top == 2 && decide (768 ≤ r.nat 0 2 % 1024), 0), (!(top == 2 || top == 8 || top == 9), 3), (!r.zero 11 5, 11)]

/-- `S_CHANNELS`: record `i` is that of channel `i`. -/
def channelRsv (i : Nat) (r : Block) : List (Bool × Nat) :=
  [(r.nat 0 1 != i, 0), (decide (2 < r.nat 1 1), 1), (decide (1 < r.nat 3 1), 3), (!r.zero 10 6, 10),
   (decide (2 ^ 21 ≤ r.nat 16 4), 16), (decide (2 ^ 21 ≤ r.nat 24 4), 24)]

/-- `S_TAGS`. -/
def tagRsv (r : Block) : List (Bool × Nat) :=
  [(decide (2 < r.nat 2 1), 2), (!r.zero 7 1, 7), (!r.zero 11 1, 11), (!r.zero 14 2, 14), (!r.zero 20 12, 20)]

/-- `S_LEDGER` (Tables 6-3 and 6-4); bit 0 of byte 21 marks an entry that could not be read. -/
def entryRsv (r : Block) : List (Bool × Nat) :=
  let e : BitVec 160 := BitVec.ofNat 160 (r.nat 0 20)
  [(decide (5 < leState e) || bits e 0 6 != 0, 0), (decide (1 < r.nat 21 1), 21), (!r.zero 26 6, 26)]

/-- `S_PORTS` (Table 9-4). -/
def portRsv (r : Block) : List (Bool × Nat) :=
  let cfg : Nat → Bool × Nat := fun o => (r.stray o [(12, 40), (0, 4)] || !log2Ok (BitVec.ofNat 64 (r.nat o 8)), o)
  [cfg 0, cfg 8, (decide (1 < r.nat 24 1), 24), (!r.zero 28 4, 28),
   (!r.zero (32 + 8 * r.nat 26 1) (256 - 8 * r.nat 26 1), 32), (!r.zero (288 + 16 * r.nat 27 1) (256 - 16 * r.nat 27 1), 288), (!r.zero 544 32, 544)]

/-- `S_HELDOPS`: a receive or a standing `COMBINE`, whose descriptor uses only its own fields (R257). -/
def heldRsv (r : Block) : List (Bool × Nat) :=
  let d := descOf (r.drop 16)
  [(!r.zero 4 12, 4), (!(dOpcode d == 0x32 || standing d) || (checkShape d).isSome, 16)]

/-- `S_HOIST`. -/
def dupRsv (r : Block) : List (Bool × Nat) :=
  [(decide (15 < r.nat 2 1), 2), (!r.zero 4 4, 4)] ++
    (List.range (min (r.nat 3 1) 32)).map (fun i => (decide (2 ^ 25 ≤ r.nat (8 + 8 * i) 4), 8 + 8 * i)) ++
    [(!r.zero (8 + 8 * r.nat 3 1) (256 - 8 * r.nat 3 1), 8)]

/-- Fields out of range. -/
def contextRange (r : Block) : List (Bool × Nat) := [(decide (4096 ≤ r.nat 0 2), 0), (decide (64 ≤ r.nat 4 1) && r.nat 4 1 != 0xFF, 4)]
def waiterRange (r : Block) : List (Bool × Nat) :=
  let word := r.nat 3 1 == 2
  [(!word && decide (64 ≤ r.nat 0 2), 0), (decide (16 ≤ r.nat 2 1), 2), (decide ((if word then 2 ^ 20 else 1024) ≤ r.nat 4 4), 4),
   (decide (16 ≤ r.nat 10 1), 10)]
def tagRange (r : Block) : List (Bool × Nat) :=
  [(r.nat 2 1 != 0 && decide (2 ^ 24 < r.nat 4 3 + r.nat 8 3), 4), (r.nat 2 1 != 0 && decide (1024 * r.nat 12 2 < r.nat 8 3), 12)]
def entryRange (r : Block) : List (Bool × Nat) := [(decide (64 ≤ r.nat 20 1), 20), (decide (1024 ≤ r.nat 24 2), 24)]
def portRange (r : Block) : List (Bool × Nat) :=
  [(decide (32 < r.nat 25 1), 25), (decide (32 < r.nat 26 1), 26), (decide (16 < r.nat 27 1), 27)]
def heldRange (r : Block) : List (Bool × Nat) := [(decide (1024 ≤ r.nat 0 2), 0)]
def dupRange (r : Block) : List (Bool × Nat) := [(decide (1024 ≤ r.nat 0 2), 0), (decide (32 < r.nat 3 1), 3)]

/-- The tests of the records of section `i`, as checks with their offsets in the data. -/
def Block.recordTests (b : Block) (check : Bool → Nat → Nat → Check) (i : Nat) (f : Nat → Block → List (Bool × Nat)) : List Check :=
  (b.secRecs i).zipIdx.flatMap (fun e =>
    (f e.2 e.1).map (fun x => check x.1 24 (b.secOfs i + 16 + b.secSize (b.secOfs i) * e.2 + x.2)))

/-- Reserved bytes and codes of every record. -/
def Block.imageRsv (b : Block) : List Check :=
  b.recordTests invalidAt 1 (fun _ => contextRsv) ++ b.recordTests invalidAt 2 (fun _ => wordRsv) ++
    b.recordTests invalidAt 3 (fun _ => waiterRsv) ++ b.recordTests invalidAt 4 channelRsv ++ b.recordTests invalidAt 5 (fun _ => tagRsv) ++
    b.recordTests invalidAt 6 (fun _ => entryRsv) ++ b.recordTests invalidAt 7 (fun _ => portRsv) ++
    b.recordTests invalidAt 8 (fun _ => heldRsv) ++ b.recordTests invalidAt 9 (fun _ => dupRsv)

/-- Fields out of range of every record. -/
def Block.imageRanges (b : Block) : List Check :=
  b.recordTests rangeAt 1 (fun _ => contextRange) ++ b.recordTests rangeAt 3 (fun _ => waiterRange) ++
    b.recordTests rangeAt 5 (fun _ => tagRange) ++ b.recordTests rangeAt 6 (fun _ => entryRange) ++
    b.recordTests rangeAt 7 (fun _ => portRange) ++ b.recordTests rangeAt 8 (fun _ => heldRange) ++ b.recordTests rangeAt 9 (fun _ => dupRange)

/-! ## The checks against the chip (R376) -/

/-- The channel field of a record. -/
def chanField (n : Nat) : Option Nat := if n = 0xFF then none else some n

/-- A recorded context is bound as recorded. -/
def State.boundAs (s : State) (r : Block) : Bool :=
  match s.binding (r.nat 0 2) with
  | none => false
  | some x => x.group == r.nat 2 2 && x.chan == chanField (r.nat 4 1) && x.block == (r.drop 48).take 128

/-- The blocks of the tags that an image holds. -/
def Block.blocksHeld (b : Block) : Nat :=
  ((b.secRecs 5).filter (fun r => r.nat 2 1 != 0)).foldl (fun n r => n + r.nat 12 2) 0

/-- A port has an operation outstanding, be it one of an endpoint that has been reset since (R275). -/
def State.portsBusy (s : State) : Bool :=
  s.ports.any (fun e => e.2.opened != 0) || s.ops.colls.any (fun c => !c.members.isEmpty) || !s.ops.queue.isEmpty ||
    !s.ops.combs.isEmpty || !s.ops.sends.isEmpty || !s.ops.recvs.isEmpty || !s.ops.delivs.isEmpty

def rtAddr (c : Cmd) : Nat := c.nat 24 8
def rtLen (c : Cmd) : Nat := c.nat 32 4

/-- The checks of `RESTORE`, in the order of R331. -/
def State.restoreChecks (s : State) (c : Cmd) : List Check :=
  let form : List Check := [invalid (!c.zero 22 2) 22, invalid (rtAddr c % 64 != 0) 24, invalid (!c.zero 36 4) 36,
    outOfRange (decide (memEnd < rtAddr c + rtLen c)) 24]
  if (firstDeny form).isSome then form
  else
    let b : Block := load s (rtAddr c) (rtLen c)
    let outer := form ++ b.imageChecks (c.nat 16 6)
    let whole := if (firstDeny outer).isSome then outer else outer ++ b.imageRsv ++ b.imageRanges
    if (firstDeny whole).isSome then whole
    else
      whole ++
      [((s.takeBlocks (1024 * b.blocksHeld)).isNone, { status := rsEnospc, field := 24, data := leBytes 4 (b.secOfs 5) }),
       invalidAt (b.nat 16 2 != s.topo.chip) 24 16] ++
      ((b.secRecs 1).zipIdx.map (fun e => invalidAt (!s.boundAs e.1) 24 (b.secOfs 1 + 16 + 176 * e.2))) ++
      [wrongState (s.portsBusy || !s.untagged) 16]

/-! ## What the sections bring back (R377) -/

/-- `S_CONTEXTS`: the epochs started, and the last of them with their statuses (DEDUCED, log 39). -/
def State.restoreContext (r : Block) (s : State) : State :=
  match s.binding (r.nat 0 2) with
  | none => s
  | some x =>
    let u := r.nat 8 4
    let epochs := (List.range (min u 4)).map (fun i => (r.nat (16 + 2 * i) 2, (statusOf (r.nat (24 + i) 1)).getD .ok))
    { s with ctxs := s.ctxs.put (r.nat 0 2) { x with started := u, epochs := epochs } }

/-- A sync word from its architectural part (Table 5-2). -/
def wordOf (a : Word64) : SyncWord :=
  { mode := if bits a 62 2 = 1 then .count else .flag
    own := match bits a 60 2 with | 0 => .unclaimed | 1 => .owned | _ => .orphaned
    ovf := bit a 59, udf := bit a 58, trimEn := bit a 57, drift := bit a 56, base := bits a 32 20, owner := bits a 24 4
    value := bits a 0 20, queue := [], drain := [] }

/-- `S_SYNCWORDS`: every word, without waiters. -/
def State.restoreWords (s : State) (rs : List Block) : State :=
  forEach (allWords.zip rs) (fun e s => s.setWord e.1 (wordOf (BitVec.ofNat 64 (e.2.nat 0 8))))
    { s with tt := { s.tt with words := [] } }

/-- A wait is outstanding at its port again. -/
def State.beginWait (s : State) (p : Nat) (barrier : Bool) (id : Nat) : State :=
  s.modPort p (fun x => { x with waits := x.waits ++ [(barrier, id)] })

/-- `S_WAITERS`: a wait on a word joins its queue, or waits for zero. -/
def State.restoreWordWaiter (s : State) (r : Block) : State :=
  let w := r.nat 0 2
  let q : Waiter := { pos := 16 * wordCluster w + r.nat 2 1 % 16, operand := r.nat 4 4 % 2 ^ 20, tmo := r.nat 10 1 % 16 }
  let x := s.word w
  let y : SyncWord := if x.mode = .count ∧ q.operand = 0 then { x with drain := x.drain ++ [q] } else { x with queue := x.queue ++ [q] }
  if wordIndex w < 768 then (s.setWord w y).beginWait q.pos false w else s

/-- `S_WAITERS`: a barrier wait, whose operand field holds its position (DESIGN CHOICE, log 40). -/
def State.restoreBarrierWaiter (s : State) (r : Block) : State :=
  let ch := r.nat 0 2 % 64
  let p := r.nat 4 4 % 1024
  let x := s.chan ch
  let q : BWaiter := { pos := p, top := r.nat 3 1, tmo := r.nat 10 1 % 16, phase := x.phase }
  (s.setChan ch { x with waits := x.waits ++ [q] }).beginWait p true ch

/-- The waiters of an image, each queue in its recorded order. -/
def State.restoreWaiters (s : State) (rs : List Block) : State :=
  forEach (sortBy (fun r => Block.nat r 8 2) rs) (fun r s =>
    if r.nat 3 1 = 2 then s.restoreWordWaiter r else s.restoreBarrierWaiter r) s

/-- The fold-node counts of a channel record: they do not name their inputs (DEDUCED, log 49). -/
def restoredCounts (g : Group) (r : Block) : List NodeCount :=
  [16, 24].flatMap (fun o =>
    match g.folds.find? (fun f => f.fnid.toNat == r.nat o 4) with
    | some f =>
      if r.nat (o + 4) 4 = 0 then []
      else [{ fnid := f.fnid, input := f.ins.length, count := r.nat (o + 4) 4, trim := bit (BitVec.ofNat 8 (r.nat 3 1)) 0 }]
    | none => [])

/-- `S_CHANNELS`: channel `i`. A member that has not arrived in a later phase than 0 has arrived in the one before it (DEDUCED, log 49). -/
def State.restoreChannel (i : Nat) (r : Block) (s : State) : State :=
  let ctx := r.nat 8 2
  match r.nat 1 1, s.binding ctx with
  | 0, _ => s.setChan i (chanDefault i)
  | st, some b =>
    match s.group b.group with
    | none => s
    | some g =>
      let n := r.nat 2 1
      let here := bitList (BitVec.ofNat 1024 (r.nat 32 128))
      let before : List Nat := if n = 0 then [] else g.locals.filter (fun p => !here.contains p)
      let last := (here.map (fun p => (p, LastArr.inPhase n)) ++ before.map (fun p => (p, LastArr.inPhase (n - 1)))).foldl
        (fun t e => Tbl.set lastDefault t e.1 e.2) []
      let x : Channel := { chanDefault i with
        st := if st = 1 then .armed else .broken, ctx := ctx, group := b.group, phase := n, arrived := here, last := last
        trim := bit (BitVec.ofNat 8 (r.nat 3 1)) 0, nodes := restoredCounts g r
        sentUp := here.length == g.locals.length }
      let s := s.setChan i x
      s.modChan i (fun y => { y with
        prewarned := s.hasRoot g && decide (prewarnAt (s.policy 0x40) g.nmemb ≤ s.rootCount i g) })
  | _, none => s

/-- `S_TAGS`: slot `k`, with blocks placed anew (R196), every entry of them `FREE`. -/
def State.restoreTag (k : Nat) (r : Block) (s : State) : State :=
  if r.nat 2 1 = 0 then s
  else
    let x : TagSlot := {
      st := if r.nat 2 1 = 1 then .live else .quarantine, tag := BitVec.ofNat 16 (r.nat 0 2), gen := BitVec.ofNat 8 (r.nat 3 1)
      tokBase := r.nat 4 3, ntok := r.nat 8 3, blocks := (s.takeBlocks (1024 * r.nat 12 2)).getD [], routeDone := true
      routeCancelled := false, nopen := r.nat 16 4 }
    forEach (List.range x.ntok) (fun i s => s.writeRow x i 0) (s.setTag k x)

/-- An entry that could not be read stays so: marked on the die, or with a wrong CRC. -/
def State.writeUnreadable (s : State) (x : TagSlot) (i : Nat) : State :=
  let p := x.place i
  match s.sbIndex p.1 p.2 with
  | some j =>
    store { s with led := { s.led with sbHeld := j :: s.led.sbHeld.filter (fun k => k ≠ j) } } (s.sbAddr j) (List.replicate 32 0)
  | none => { s with led := { s.led with bad := entryIndex p.1 p.2 :: s.led.bad } }

/-- `S_LEDGER`: an entry goes to the same place in the same block of its tag. -/
def State.restoreEntry (r : Block) (s : State) : State :=
  let x := s.tagSlot (r.nat 20 1 % 64)
  let i := 1024 * r.nat 22 2 + r.nat 24 2 % 1024
  if x.ntok ≤ i then s
  else if bit (BitVec.ofNat 8 (r.nat 21 1)) 0 then s.writeUnreadable x i
  else s.writeRow x i (BitVec.ofNat 160 (r.nat 0 20))

/-- `S_PORTS`: the port of position `p`. -/
def State.restorePort (p : Nat) (r : Block) (s : State) : State :=
  s.modPort p (fun x => { x with
    sqCfg := BitVec.ofNat 64 (r.nat 0 8), cqCfg := BitVec.ofNat 64 (r.nat 8 8), sqHead := r.nat 16 2, sqTail := r.nat 18 2
    cqHead := r.nat 20 2, cqTail := r.nat 22 2, cqPhase := r.nat 24 1 == 1, credits := r.nat 25 1
    resp := (List.range (min (r.nat 26 1) 32)).map (fun i => BitVec.ofNat 64 (r.nat (32 + 8 * i) 8)), heldResp := []
    nq := (List.range (min (r.nat 27 1) 16)).map (fun i => BitVec.ofNat 128 (r.nat (288 + 16 * i) 16)), waits := [] })

/-- `S_HELDOPS`: a receive is posted again, a standing `COMBINE` is outstanding again; one whose tag is not in the image is outstanding
without a slot, and `COMBINE_LIMIT` can end it (DEDUCED, log 132). -/
def State.restoreHeld (r : Block) (s : State) : State :=
  let p := r.nat 0 2 % 1024
  let ring := r.nat 2 2
  let d := descOf (r.drop 16)
  let s := s.modPort p (fun x => { x with opened := x.opened + 1 })
  if dOpcode d = 0x32 then
    { s with ops := { s.ops with recvs := s.ops.recvs ++
        [{ pos := p, chan := dHchan d, dst := dDst d, rlen := dHlen d, desc := d, ring := ring, applied := false, live := true }] } }
  else
    let id := s.ops.nextId
    match s.findTag (dTag d) with
    | none =>
      { s with ops := { s.ops with nextId := id + 1, combs := s.ops.combs ++ [{
          id := id, pos := p, desc := d, ring := ring, slot := 64, tokBase := dTokFirst d, served := [], lanes := [], ready := [],
          ncancel := 0, tally := Tally.zero, cause := none, limit := s.policy 0x13 ≠ 0, live := true }] } }
    | some k =>
      let s := s.startComb p d k
      { s with ops := { s.ops with combs := mapIf (fun o => o.id == id) (fun o => { o with ring := ring }) s.ops.combs } }

/-- `S_HOIST`: a duplicate table. -/
def State.restoreDups (r : Block) (s : State) : State :=
  let pairs := (List.range (min (r.nat 3 1) 32)).map (fun i =>
    (BitVec.ofNat 25 (r.nat (8 + 8 * i) 4), BitVec.ofNat 32 (r.nat (12 + 8 * i) 4)))
  { s with ops := { s.ops with dups := s.ops.dups.put (16 * (r.nat 0 2 % 1024) + r.nat 2 1 % 16) pairs } }

/-- Every section takes effect; the waits come after the ports whose waits they are. -/
def State.applyImage (s : State) (b : Block) : State :=
  let s := forEach (b.secRecs 1) State.restoreContext s
  let s := s.restoreWords (b.secRecs 2)
  let s := forEach (b.secRecs 4).zipIdx (fun e s => s.restoreChannel e.2 e.1) s
  let s := forEach (b.secRecs 5).zipIdx (fun e s => s.restoreTag e.2 e.1) s
  let s := forEach (b.secRecs 6) State.restoreEntry s
  let s := forEach (b.secRecs 7).zipIdx (fun e s => s.restorePort e.2 e.1) s
  let s := s.restoreWaiters (b.secRecs 3)
  let s := forEach (b.secRecs 8) State.restoreHeld s
  let s := forEach (b.secRecs 9) State.restoreDups { s with ops := { s.ops with dups := [] } }
  { s with shadow := { s.shadow with shadows := [] } }

/-- `RESTORE` (R377): the image takes effect in the row, between `ACCEPTED` and `DONE`. -/
def execRestore (n : SlotNo) (s : State) : Host.Outcome State Fault Refusal :=
  ok (s.command n 0x21 anyCmd (fun _ => 24) State.restoreChecks (fun c s =>
    let b : Block := load s (rtAddr c) (rtLen c)
    let s := s.reply c rsAccepted []
    (s.applyImage b).reply c rsDone []))

end Sys2Proof.Machine
end

