-- ==== Sys2Proof/Machine/Power.lean ====
section
/-! DEFINITION. Power states, resets and start-up (R357, R358, R360, R415 to R426). -/

namespace Sys2Proof.Machine

open Sys2Proof

/-- The link state after everything of class 9 is lost: the reef level and the failed lanes of each port, which are of class 11, stay
(R423). -/
def LinkState.lost (x : LinkState) : LinkState :=
  { LinkState.reset with
    links := x.links.foldl (fun t e => Tbl.set Link.reset t e.1 { Link.reset e.1 with lanes := e.2.lanes, badLanes := e.2.badLanes }) [] }

/-! ## `POWER_STATE` (R357, R415, Table 14-6) -/

def pwTarget (c : Cmd) : Nat := c.nat 16 1

/-- The row takes its target; a reserved one is refused by any of the four rows. -/
def powerMine (t : Nat) (c : Cmd) : Bool := pwTarget c == t || decide (3 < pwTarget c)

/-- Step 4 of R331. DESIGN CHOICE, log 100. -/
def powerForm (c : Cmd) : List Check := [invalid (decide (3 < pwTarget c)) 16, invalid (!c.zero 17 3) 17]

/-- A port has an operation other than a posted `HRECV` outstanding or queued, or a wait (Table 14-6). -/
def State.portAwake (s : State) (p : Nat) (x : Port) : Bool :=
  x.opened != (s.ops.recvs.filter (fun r => r.live && r.pos == p)).length || (ringOn x.sqCfg && x.sqHead != x.sqTail) ||
    !x.waits.isEmpty

/-- What keeps Rolrax out of `DOZE`. -/
def State.dozeBlocked (s : State) : Bool :=
  s.ports.any (fun e => s.portAwake e.1 e.2) || !s.ops.holds.isEmpty || !s.ops.combs.isEmpty || !s.ops.sends.isEmpty ||
    !s.units.paused.isEmpty || (List.range 8).any (fun i => (s.units.cs i).st == 2) ||
    (List.range 4).any (fun i => (s.units.ls i).st == 2) || !s.mh.tests.isEmpty

/-- What keeps it out of `RETAIN` besides. -/
def State.retainBlocked (s : State) : Bool := s.dozeBlocked || !s.unbound || !s.untagged || !s.ops.recvs.isEmpty

/-- The state to which Masthead returns. -/
def State.awakeState (s : State) : MhState := if s.mh.st = .lowPower then s.mh.before else s.mh.st

/-- The checks of each target. -/
def activeChecks (_ : State) (c : Cmd) : List Check := powerForm c
def State.dozeChecks (s : State) (c : Cmd) : List Check :=
  powerForm c ++ [wrongState (s.power.st == .retain || (s.power.st == .active && s.dozeBlocked)) 16]
def State.retainChecks (s : State) (c : Cmd) : List Check := powerForm c ++ [wrongState (s.power.st != .retain && s.retainBlocked) 16]
def State.offChecks (s : State) (c : Cmd) : List Check :=
  powerForm c ++ [wrongState (s.mh.st == .configured && (!s.unbound || !s.untagged)) 16]

/-- A request to the power manager; once all power has been asked to go it stays so. -/
def PowerState.ask (r : RailReq) (p : PowerState) : PowerState := if p.railReq = some .off then p else { p with railReq := some r }

/-- `POWER_STATE` `ACTIVE` (R415, R419): at once from `DOZE`; from `RETAIN` the rail is asked for first. -/
def execPowerStateActive (n : SlotNo) (s : State) : Host.Outcome State Fault Refusal :=
  ok (s.command n 0x70 (powerMine 0) (fun _ => 4) activeChecks (fun c s =>
    let s := s.startLong c (.power .active)
    if s.power.st = .retain then { s with power := s.power.ask .restore }
    else s.wake.endLong rsDone 0xFFFF []))

/-- `POWER_STATE` `DOZE` (R415, R417): accepted; the clocks are gated when no command waits (DESIGN CHOICE, log 51). Where the block is in
`DOZE` already it is done at once. -/
def execPowerStateDoze (n : SlotNo) (s : State) : Host.Outcome State Fault Refusal :=
  ok (s.command n 0x70 (powerMine 1) (fun _ => 4) State.dozeChecks (fun c s =>
      let s := s.startLong c (.power .doze)
      if s.power.st = .active then s else s.endLong rsDone 0xFFFF []))

/-- Steps 2 to 4 of R417: the conditions are checked again, the clocks are gated, and `DONE` is written. -/
def State.gateClocks (s : State) : State :=
  if s.dozing = false ∨ s.mh.halted ∨ s.power.st ≠ .active then s
  else if s.dozeBlocked then s.endLong rsEstate 0x10 []
  else
    ({ s with power := { s.power with st := .doze }, mh := { s.mh with before := s.mh.st, st := .lowPower } }).endLong rsDone 0xFFFF []

/-- What the block does by itself when no command waits: a dump that has begun is written, a `DOZE` request takes effect. DESIGN CHOICE,
log 133. -/
def State.idle (s : State) : State := s.writeDump.gateClocks

/-- `POWER_STATE` `RETAIN` (R415, R418): the links and keys are lost, and the rail is removed. DESIGN CHOICE, log 61. -/
def execPowerStateRetain (n : SlotNo) (s : State) : Host.Outcome State Fault Refusal :=
  ok (s.command n 0x70 (powerMine 2) (fun _ => 4) State.retainChecks (fun c s =>
      let s := s.startLong c (.power .retain)
      if s.power.st = .retain then s.endLong rsDone 0xFFFF []
      else { s with
        power := ({ s.power with st := .retain } : PowerState).ask .retain
        mh := { s.mh with before := s.awakeState, st := .lowPower, cals := [], linksDue := false }
        link := s.link.lost, keys := KeyState.reset, inp := { s.inp with phy := [], taps := [] } }))

/-- `POWER_STATE` `OFF` (R415): `DONE` is written before the power goes. -/
def execPowerStateOff (n : SlotNo) (s : State) : Host.Outcome State Fault Refusal :=
  ok (s.command n 0x70 (powerMine 3) (fun _ => 4) State.offChecks (fun c s =>
      let s := (s.startLong c (.power .off)).endLong rsDone 0xFFFF []
      { s with power := s.power.ask .off }))

/-- `WAKE_EVENT` (R416): a timer, a fault report or what the next command brings. -/
def execWakeEvent (_w : Wake) (s : State) : Host.Outcome State Fault Refusal := ok s.wake

/-! ## Links that come up (R337, R419) -/

/-- A port as it trains: with the lanes left to it, and the logical port and protection of a declared link, or its own number and none. -/
def State.trainAs (s : State) (p : Nat) : Link :=
  let k := s.lnk p
  let x := { Link.reset p with st := .training, lanes := k.lanes, badLanes := k.badLanes }
  match s.topo.links.find? (fun e => e.2.phys == p || e.2.spare == some p) with
  | some e => { x with llink := e.1, prot := e.2.prot }
  | none => x

/-- Link-up is attempted on every port. -/
def State.trainAll (s : State) : State := forEach (List.range 8) (fun p s => s.setLnk p (s.trainAs p)) s

/-! ## Resets (R420 to R424) -/

/-- Classes that a reset empties (Table 14-8). -/
def emptiedBy : ResetKind → BitVec 16
  | .cold => 0xFFFF
  | .warm => 0xC7FF
  | .block => 0x47FF
  | .node => 0
  | .endpoint => 0x0180
  | .retainExit => 0x0600

/-- `RC_KIND` (Table 14-9). -/
def resetCode : ResetKind → Nat
  | .cold => 1
  | .warm => 2
  | .block => 3
  | .node => 4
  | .endpoint => 5
  | .retainExit => 6

/-- A spare whose fill or copy a reset has cut short has nothing left to fill, and one under test is free again (DEDUCED, log 52). -/
def settleSpare (x : Spare) : Spare :=
  if x.st = 2 then { x with st := 3 } else if x.st = 5 then { st := 0, unit := 0 } else x

/-- The units as `WARM` and `BLOCK` leave them: the maps are kept, and nothing is in progress on them; the arrays of a folded
cluster's node serve on (R395). -/
def UnitState.settle (u : UnitState) : UnitState :=
  let cs := (List.range 8).foldl (fun t i => Tbl.set spareDefault t i (settleSpare (u.cs i))) []
  let ls := (List.range 4).foldl (fun t i => Tbl.set spareDefault t i (settleSpare (u.ls i))) []
  let root : (Nat → Nat) → Nat → Tbl Nat := fun f n =>
    (List.range n).foldl (fun t i => Tbl.set rootDefault t i (if f i = 3 then (if f (pairOf i) < 2 then 1 else 0) else f i)) []
  { u with
    cspare := cs, lspare := ls, hroot := root u.hr 4, croot := root u.cr 2, paused := [], unbacked := false
    sources := u.sources.filter (fun e => u.fold.getLsbD e.1) }

/-- What the security processor does at a reset (R359, R360, R334): an activated image boots in trial; the third reset of a trial image
without a commit rolls it back; challenges are void. DEDUCED, log 104. -/
def SecState.atReset (x : SecState) (kind : ResetKind) (version : BitVec 32) : SecState :=
  let x := { x with challenge := false, attempts := if kind = .cold then 0 else x.attempts }
  if x.boot ≠ x.run then
    if kind = .block then x else { x with run := x.boot, trial := true, trialResets := 0, loaded := false }
  else if x.trial then
    if 2 ≤ x.trialResets then
      { x with run := 1 - x.run, boot := 1 - x.run, trial := false, trialResets := 0, rollback := some version }
    else { x with trialResets := x.trialResets + 1 }
  else x

/-- A `WARM` or `BLOCK` reset finds a dump that is being written, or has yet to be: it is lost, and counted (R426). -/
def DumpState.afterReset (d : DumpState) : DumpState := { d with due := none, lost := if d.due.isSome then d.lost + 1 else d.lost }

/-- The state after a reset (Table 14-8): everything but what the kind keeps has its reset value. Chip memory, which is Octain's, keeps its
contents (R422, DESIGN CHOICE, log 53). DESIGN CHOICE, log 92. DESIGN CHOICE, log 118. -/
def State.afterReset (s : State) (kind : ResetKind) (source : Nat) : State :=
  let cold := decide (kind = .cold)
  { State.reset with
    pending := s.pending, mem := s.mem, remote := s.remote, out := s.out, free := s.free
    units := if cold then UnitState.reset else s.units.settle
    dump := if cold then DumpState.reset else s.dump.afterReset
    link := if cold then LinkState.reset else s.link.lost
    cut := if cold then CutState.reset else s.cut
    debug := decide (kind = .block) && s.debug
    sec := s.sec.atReset kind (s.versions s.sec.run).1
    power := { PowerState.reset with
      kind := kind, source := source, resets := if cold then 0 else min (s.power.resets + 1) 0xFFFFFFFF, empty := emptiedBy kind } }

/-- `COLD_RESET`. -/
def execColdReset (powerOn : Bool) (s : State) : Host.Outcome State Fault Refusal := ok (s.afterReset .cold (if powerOn then 1 else 2))

/-- `WARM_RESET`; after `OFF` only a cold reset helps (R415). -/
def execWarmReset (s : State) : Host.Outcome State Fault Refusal :=
  if s.power.st = .off then ok s else ok (s.afterReset .warm 2)

/-- `BLOCK_RESET`. -/
def execBlockReset (s : State) : Host.Outcome State Fault Refusal :=
  if s.power.st = .off then ok s else ok (s.afterReset .block 3)

/-- The rail has come back (R419): every declared link is brought up from sequence number 0. DEDUCED, log 105. -/
def State.exitRetain (s : State) : State :=
  let s := { s with
    power := { s.power with st := .active, rail := true, railReq := none }
    mh := { s.mh with st := s.mh.before, linksDue := !s.topo.links.isEmpty } }
  (s.trainAll.endLong rsDone 0xFFFF []).postReset (resetCode .retainExit) 6 0xFFFF (emptiedBy .retainExit).toNat

/-- All power is removed: every class is as after `COLD`; what the security processor holds of the firmware stays (R423). -/
def State.powerOff (s : State) : State :=
  let sec := { s.sec with challenge := false, attempts := 0 }
  let s := s.afterReset .cold 1
  { s with sec := sec, power := { s.power with st := .off, rail := false } }

/-- `RAIL_ACK` (R415, R418, R419). -/
def execRailAck (s : State) : Host.Outcome State Fault Refusal :=
  match s.power.railReq with
  | none => ok s
  | some .restore => ok s.exitRetain
  | some .retain => ok (({ s with power := { s.power with rail := false, railReq := none } }).endLong rsDone 0xFFFF [])
  | some .off => ok s.powerOff

/-! ## Start-up (R425, Tables 14-10 and 14-11) -/

/-- A spare. -/
def isSpare : UnitId → Bool
  | .node n => decide (64 ≤ n.val)
  | .bank b => decide (64 ≤ b.val)
  | _ => false

/-- A cluster whose own node has failed at start-up: a spare, a neighbour, or none serves it. -/
def UnitState.assignCluster (c : Nat) (u : UnitState) : UnitState :=
  match u.pickSpare c with
  | some i => u.setCs i 3 c
  | none =>
    match u.neighbour c with
    | some h => u.startFold c h
    | none => { u with lost := u.lost ++ [c] }

/-- A bank that has failed at start-up. -/
def UnitState.assignBank (b : Nat) (u : UnitState) : UnitState :=
  match u.freeBank with
  | some i => u.setLs i 3 b
  | none => { u with lostBanks := u.lostBanks ++ [b] }

/-- A unit that has failed MBIST is marked, and a spare or a reef level is assigned (Table 13-4). -/
def UnitState.mbistFail (x : UnitId) (u : UnitState) : UnitState :=
  if u.failed.contains x then u
  else
    let u := u.markFailed x
    match x with
    | .node n => if 64 ≤ n.val then u.failSpare n else u.assignCluster n
    | .half i => (u.setRoot true i 2).setRoot true (pairOf i) (if u.hr (pairOf i) = 2 then 2 else 0)
    | .root i => (u.setRoot false i 2).setRoot false (pairOf i) (if u.cr (pairOf i) = 2 then 2 else 0)
    | .bank b => if 64 ≤ b.val then u.setLs (b - 64) 4 0 else u.assignBank b
    | _ => u

/-- `MBIST_DONE`: after `COLD` the failing units are marked, the spares among them first; memories hold their reset values. -/
def execMbistDone (failed : List UnitId) (s : State) : Host.Outcome State Fault Refusal :=
  if s.power.boot = .mbist ∧ s.power.st ≠ .off then
    let l := if s.power.kind = .cold then failed.filter isSpare ++ failed.filter (fun x => !isSpare x) else []
    let s := s.modUnits (forEach l UnitState.mbistFail)
    ok { s with power := { s.power with boot := .verify } }
  else ok s

/-- The other slot boots (R360). -/
def State.rollBack (s : State) : State :=
  { s with
    sec := { s.sec with
      rollback := some (s.versions s.sec.run).1, run := 1 - s.sec.run, boot := 1 - s.sec.run, trial := false, trialResets := 0 }
    power := { s.power with boot := .verify } }

/-- `IMAGE_VERIFIED` (R358, R360). -/
def execImageVerified (good : Bool) (s : State) : Host.Outcome State Fault Refusal :=
  if s.power.boot = .verify then
    ok (if good then { s with power := { s.power with boot := .firmware } } else s.rollBack)
  else ok s

/-- `TRIAL_BOOT_TIMEOUT` (R360). -/
def execTrialBootTimeout (s : State) : Host.Outcome State Fault Refusal :=
  if s.power.boot = .firmware ∧ s.sec.trial then ok s.rollBack else ok s

/-- The records that start-up posts: the reset, a rollback, and the banks that failed MBIST (R424, R360, code 0x31). -/
def State.startRecords (s : State) : State :=
  let s := s.postReset (resetCode s.power.kind) s.power.source 0xFFFF s.power.empty.toNat
  let s : State := match s.sec.rollback with
    | some v => ({ s with sec := { s.sec with rollback := none } }).event 0x0105 (wordBytes 4 v ++ leBytes 1 s.sec.run)
    | none => s
  if s.power.kind = .cold then
    forEach s.units.failed (fun x s => match x with
      | .bank b =>
        match (if b.val < 64 then s.units.bankSpare b else none) with
        | some i => s.postFault 0x31 4 b 6 (64 + i) 0
        | none => s.postFault 0x31 4 b 10 0xFFFF 0
      | _ => s) s
  else s

/-- The regions that Octain reports lie in chip memory. -/
def regionRanges (r : Regions) : List (Nat × Nat) := [(r.flash, r.flashLen), (r.dump, r.dumpLen), (r.dist, 32832)]

/-- `MH_READY` (R337, R370, R424, R425). -/
def execMhReady (r : Regions) (s : State) : Host.Outcome State Fault Refusal :=
  if s.power.boot = .firmware then
    let s := { s with
      power := { s.power with boot := .done }, mh := { s.mh with ready := true, st := .idle }, inp := { s.inp with regions := r } }
    within (regionRanges r) s.trainAll.startRecords
  else ok s

end Sys2Proof.Machine
end

