-- ==== Sys2Proof/Machine/Dispatch.lean ====
section
/-! DEFINITION. The effect of a command: one arm per row of the table. -/

namespace Sys2Proof.Machine

open Sys2Proof

/-- The effect of the command on everything but the queue. -/
def exec (i : Instr) (s : State) : Host.Outcome State Fault Refusal :=
  match i with
  | .sum p => Sys2Proof.Machine.execSum p s
  | .spsum p => Sys2Proof.Machine.execSpsum p s
  | .nsum p => Sys2Proof.Machine.execNsum p s
  | .max p => Sys2Proof.Machine.execMax p s
  | .min p => Sys2Proof.Machine.execMin p s
  | .maxnum p => Sys2Proof.Machine.execMaxnum p s
  | .minnum p => Sys2Proof.Machine.execMinnum p s
  | .amax p => Sys2Proof.Machine.execAmax p s
  | .amin p => Sys2Proof.Machine.execAmin p s
  | .band p => Sys2Proof.Machine.execBand p s
  | .bor p => Sys2Proof.Machine.execBor p s
  | .bxor p => Sys2Proof.Machine.execBxor p s
  | .count p => Sys2Proof.Machine.execCount p s
  | .scanx p => Sys2Proof.Machine.execScanx p s
  | .scani p => Sys2Proof.Machine.execScani p s
  | .lsem p => Sys2Proof.Machine.execLsem p s
  | .route p => Sys2Proof.Machine.execRoute p s
  | .tagRelease p => Sys2Proof.Machine.execTagRelease p s
  | .tagCancel p => Sys2Proof.Machine.execTagCancel p s
  | .combine p => Sys2Proof.Machine.execCombine p s
  | .uncombine p => Sys2Proof.Machine.execUncombine p s
  | .gategrad p => Sys2Proof.Machine.execGategrad p s
  | .bcast p => Sys2Proof.Machine.execBcast p s
  | .mcast p => Sys2Proof.Machine.execMcast p s
  | .hrecv p => Sys2Proof.Machine.execHrecv p s
  | .hrecvWithdraw p => Sys2Proof.Machine.execHrecvWithdraw p s
  | .descriptorReadPoisoned p => Sys2Proof.Machine.execDescriptorReadPoisoned p s
  | .sig p w => Sys2Proof.Machine.execSig p w s
  | .wait p w => Sys2Proof.Machine.execWait p w s
  | .dec p w => Sys2Proof.Machine.execDec p w s
  | .test p w => Sys2Proof.Machine.execTest p w s
  | .init p w => Sys2Proof.Machine.execInit p w s
  | .claim p w => Sys2Proof.Machine.execClaim p w s
  | .release p w => Sys2Proof.Machine.execRelease p w s
  | .arrive p w => Sys2Proof.Machine.execArrive p w s
  | .bwait p w => Sys2Proof.Machine.execBwait p w s
  | .syncWordCycle word from_ => Sys2Proof.Machine.execSyncWordCycle word from_ s
  | .waitTimeout word p => Sys2Proof.Machine.execWaitTimeout word p s
  | .barrierWaitTimeout ch p => Sys2Proof.Machine.execBarrierWaitTimeout ch p s
  | .releaseStep ch => Sys2Proof.Machine.execReleaseStep ch s
  | .fleetWaitExpiry ch => Sys2Proof.Machine.execFleetWaitExpiry ch s
  | .sigMessage l => Sys2Proof.Machine.execSigMessage l s
  | .sigAck l => Sys2Proof.Machine.execSigAck l s
  | .barArrive l => Sys2Proof.Machine.execBarArrive l s
  | .barRelease l => Sys2Proof.Machine.execBarRelease l s
  | .barOrphan l => Sys2Proof.Machine.execBarOrphan l s
  | .barPrewarn l => Sys2Proof.Machine.execBarPrewarn l s
  | .endpointReset p => Sys2Proof.Machine.execEndpointReset p s
  | .rebindDone p => Sys2Proof.Machine.execRebindDone p s
  | .treeFlit ctx epoch src => Sys2Proof.Machine.execTreeFlit ctx epoch src s
  | .collectiveTimeout ctx epoch p => Sys2Proof.Machine.execCollectiveTimeout ctx epoch p s
  | .timeoutMark ctx epoch => Sys2Proof.Machine.execTimeoutMark ctx epoch s
  | .resultAtPort ctx epoch p src => Sys2Proof.Machine.execResultAtPort ctx epoch p src s
  | .completionWrite p => Sys2Proof.Machine.execCompletionWrite p s
  | .routeCountsResult ctx epoch p src => Sys2Proof.Machine.execRouteCountsResult ctx epoch p src s
  | .tagQuarantineExpiry slot => Sys2Proof.Machine.execTagQuarantineExpiry slot s
  | .noticePost p hi => Sys2Proof.Machine.execNoticePost p hi s
  | .noticeSend p => Sys2Proof.Machine.execNoticeSend p s
  | .arrival src => Sys2Proof.Machine.execArrival src s
  | .combineLaneBegin id token => Sys2Proof.Machine.execCombineLaneBegin id token s
  | .rowWriteVisible id token => Sys2Proof.Machine.execRowWriteVisible id token s
  | .combineLimitExpiry id => Sys2Proof.Machine.execCombineLimitExpiry id s
  | .hoistCreditApply p ch => Sys2Proof.Machine.execHoistCreditApply p ch s
  | .hoistAtHoldingNode p src => Sys2Proof.Machine.execHoistAtHoldingNode p src s
  | .holdLimitExpiry hold => Sys2Proof.Machine.execHoldLimitExpiry hold s
  | .deliveryReport id target src => Sys2Proof.Machine.execDeliveryReport id target src s
  | .hoistReportLimitExpiry id => Sys2Proof.Machine.execHoistReportLimitExpiry id s
  | .hoistSegmentFreed pool ch => Sys2Proof.Machine.execHoistSegmentFreed pool ch s
  | .registerWrite p ofs v => Sys2Proof.Machine.execRegisterWrite p ofs v s
  | .epSqCfg p v => Sys2Proof.Machine.execEpSqCfg p v s
  | .epCqCfg p v => Sys2Proof.Machine.execEpCqCfg p v s
  | .submissionDoorbell p v => Sys2Proof.Machine.execSubmissionDoorbell p v s
  | .completionDoorbell p v => Sys2Proof.Machine.execCompletionDoorbell p v s
  | .epTtPop p v => Sys2Proof.Machine.execEpTtPop p v s
  | .epNqStat p v => Sys2Proof.Machine.execEpNqStat p v s
  | .hostWindowWrite ofs n v => Sys2Proof.Machine.execHostWindowWrite ofs n v s
  | .hwDoorbell v => Sys2Proof.Machine.execHwDoorbell v s
  | .hwRspHead v => Sys2Proof.Machine.execHwRspHead v s
  | .hwIrqMask v => Sys2Proof.Machine.execHwIrqMask v s
  | .ttInspectSel v => Sys2Proof.Machine.execTtInspectSel v s
  | .hello n => Sys2Proof.Machine.execHello n s
  | .debugChallenge n nonce => Sys2Proof.Machine.execDebugChallenge n nonce s
  | .debugResponse n verified => Sys2Proof.Machine.execDebugResponse n verified s
  | .debugLock n => Sys2Proof.Machine.execDebugLock n s
  | .topoSet n => Sys2Proof.Machine.execTopoSet n s
  | .topoSetComplete => Sys2Proof.Machine.execTopoSetComplete s
  | .topoRead n => Sys2Proof.Machine.execTopoRead n s
  | .groupDefine n => Sys2Proof.Machine.execGroupDefine n s
  | .groupDelete n => Sys2Proof.Machine.execGroupDelete n s
  | .contextBind n => Sys2Proof.Machine.execContextBind n s
  | .contextRearm n => Sys2Proof.Machine.execContextRearm n s
  | .contextUnbind n => Sys2Proof.Machine.execContextUnbind n s
  | .partnerSet n => Sys2Proof.Machine.execPartnerSet n s
  | .policySet n => Sys2Proof.Machine.execPolicySet n s
  | .reefAllow n => Sys2Proof.Machine.execReefAllow n s
  | .cinch n => Sys2Proof.Machine.execCinch n s
  | .cinchAgreeResult a => Sys2Proof.Machine.execCinchAgreeResult a s
  | .cinchDrained => Sys2Proof.Machine.execCinchDrained s
  | .cinchQuietRound reason sent1 recv1 sent4 recv4 => Sys2Proof.Machine.execCinchQuietRound reason sent1 recv1 sent4 recv4 s
  | .cinchCaptureDone ok => Sys2Proof.Machine.execCinchCaptureDone ok s
  | .cinchCommitResult reason => Sys2Proof.Machine.execCinchCommitResult reason s
  | .cinchFlashCopyDone ok => Sys2Proof.Machine.execCinchFlashCopyDone ok s
  | .cinchPhaseTimeout => Sys2Proof.Machine.execCinchPhaseTimeout s
  | .restore n => Sys2Proof.Machine.execRestore n s
  | .testNode n => Sys2Proof.Machine.execTestNode n s
  | .testComplete u pass signature => Sys2Proof.Machine.execTestComplete u pass signature s
  | .calPortAdapt n => Sys2Proof.Machine.execCalPortAdapt n s
  | .calPortRecalibrate n => Sys2Proof.Machine.execCalPortRecalibrate n s
  | .calPortSetPhy n => Sys2Proof.Machine.execCalPortSetPhy n s
  | .calPortSetTaps n => Sys2Proof.Machine.execCalPortSetTaps n s
  | .spareMapRead n => Sys2Proof.Machine.execSpareMapRead n s
  | .countersRead n => Sys2Proof.Machine.execCountersRead n s
  | .syncInspect n => Sys2Proof.Machine.execSyncInspect n s
  | .ledgerInspect n => Sys2Proof.Machine.execLedgerInspect n s
  | .dumpFetch n => Sys2Proof.Machine.execDumpFetch n s
  | .fwUpdateLoad n => Sys2Proof.Machine.execFwUpdateLoad n s
  | .fwUpdateActivate n => Sys2Proof.Machine.execFwUpdateActivate n s
  | .fwUpdateCommit n => Sys2Proof.Machine.execFwUpdateCommit n s
  | .letFly n => Sys2Proof.Machine.execLetFly n s
  | .powerStateActive n => Sys2Proof.Machine.execPowerStateActive n s
  | .powerStateDoze n => Sys2Proof.Machine.execPowerStateDoze n s
  | .powerStateRetain n => Sys2Proof.Machine.execPowerStateRetain n s
  | .powerStateOff n => Sys2Proof.Machine.execPowerStateOff n s
  | .wakeEvent w => Sys2Proof.Machine.execWakeEvent w s
  | .railAck => Sys2Proof.Machine.execRailAck s
  | .frameSlot l => Sys2Proof.Machine.execFrameSlot l s
  | .idle l f fec => Sys2Proof.Machine.execIdle l f fec s
  | .data l f fec => Sys2Proof.Machine.execData l f fec s
  | .nak l f fec => Sys2Proof.Machine.execNak l f fec s
  | .gcmtag l f fec => Sys2Proof.Machine.execGcmtag l f fec s
  | .lcInit l f fec => Sys2Proof.Machine.execLcInit l f fec s
  | .lcInitAck l f fec => Sys2Proof.Machine.execLcInitAck l f fec s
  | .lcReef l f fec => Sys2Proof.Machine.execLcReef l f fec s
  | .lcReefAck l f fec => Sys2Proof.Machine.execLcReefAck l f fec s
  | .superBlockLock l => Sys2Proof.Machine.execSuperBlockLock l s
  | .nakRepeatTimer l => Sys2Proof.Machine.execNakRepeatTimer l s
  | .replayTimeout l => Sys2Proof.Machine.execReplayTimeout l s
  | .lockLossTimeout l => Sys2Proof.Machine.execLockLossTimeout l s
  | .laneFailure l lane => Sys2Proof.Machine.execLaneFailure l lane s
  | .keyLoad l rx slot key salt => Sys2Proof.Machine.execKeyLoad l rx slot key salt s
  | .letFlyMessage l => Sys2Proof.Machine.execLetFlyMessage l s
  | .heartbeat l => Sys2Proof.Machine.execHeartbeat l s
  | .heartbeatSend => Sys2Proof.Machine.execHeartbeatSend s
  | .heartbeatMissing primary => Sys2Proof.Machine.execHeartbeatMissing primary s
  | .takeover l => Sys2Proof.Machine.execTakeover l s
  | .faultReport l => Sys2Proof.Machine.execFaultReport l s
  | .feedQuery l => Sys2Proof.Machine.execFeedQuery l s
  | .feedReply l => Sys2Proof.Machine.execFeedReply l s
  | .wordReadRelay l => Sys2Proof.Machine.execWordReadRelay l s
  | .wordReadReply l => Sys2Proof.Machine.execWordReadReply l s
  | .relayTimeout => Sys2Proof.Machine.execRelayTimeout s
  | .residueError u plane aluLane => Sys2Proof.Machine.execResidueError u plane aluLane s
  | .flitCrcError e n => Sys2Proof.Machine.execFlitCrcError e n s
  | .secdedError w uncorrectable n => Sys2Proof.Machine.execSecdedError w uncorrectable n s
  | .wireParityError n => Sys2Proof.Machine.execWireParityError n s
  | .lockstepMismatch => Sys2Proof.Machine.execLockstepMismatch s
  | .rootPairMismatch u colls => Sys2Proof.Machine.execRootPairMismatch u colls s
  | .shadowMismatch spare => Sys2Proof.Machine.execShadowMismatch spare s
  | .poisonedRead r => Sys2Proof.Machine.execPoisonedRead r s
  | .endpointCoreFailed p spareCore => Sys2Proof.Machine.execEndpointCoreFailed p spareCore s
  | .rootPllUnlock => Sys2Proof.Machine.execRootPllUnlock s
  | .chipLost chip => Sys2Proof.Machine.execChipLost chip s
  | .fillComplete spare => Sys2Proof.Machine.execFillComplete spare s
  | .shadowRotation spare => Sys2Proof.Machine.execShadowRotation spare s
  | .backgroundUnitTest u => Sys2Proof.Machine.execBackgroundUnitTest u s
  | .portRecalibration l => Sys2Proof.Machine.execPortRecalibration l s
  | .bankCopyDone spare bad => Sys2Proof.Machine.execBankCopyDone spare bad s
  | .coldReset powerOn => Sys2Proof.Machine.execColdReset powerOn s
  | .warmReset => Sys2Proof.Machine.execWarmReset s
  | .blockReset => Sys2Proof.Machine.execBlockReset s
  | .nodeReset u => Sys2Proof.Machine.execNodeReset u s
  | .mbistDone failed => Sys2Proof.Machine.execMbistDone failed s
  | .imageVerified ok => Sys2Proof.Machine.execImageVerified ok s
  | .mhReady r => Sys2Proof.Machine.execMhReady r s
  | .trialBootTimeout => Sys2Proof.Machine.execTrialBootTimeout s
  | .rowReadReturn id token => Sys2Proof.Machine.execRowReadReturn id token s
  | .hoistDeliveryVisible delivery => Sys2Proof.Machine.execHoistDeliveryVisible delivery s
  | .calibrationDone l => Sys2Proof.Machine.execCalibrationDone l s
  | .fwImageLoaded v => Sys2Proof.Machine.execFwImageLoaded v s
  | .alignmentLockLoss l => Sys2Proof.Machine.execAlignmentLockLoss l s
  | .linkUpTimeout l => Sys2Proof.Machine.execLinkUpTimeout l s
  | .tapInstrumentAccess x => Sys2Proof.Machine.execTapInstrumentAccess x s

end Sys2Proof.Machine
end

