-- ==== Sys2Proof/Safety.lean ====
section
/-! DEFINITION. What is true of every state that a run can reach from a sound one, and the conditions under which a row has its own effect:
the terms in which the claims are stated. -/

namespace Sys2Proof.Machine

open Sys2Proof

/-- The keys of a table rise strictly. -/
abbrev Tbl.Rising {α : Type} (m : Tbl α) : Prop := (m.map (·.1)).Pairwise (· < ·)

/-- The parts of a state that every step keeps sound: both memories and the tables of ports, channels, tag slots, links, policy values and
counters in canonical form, the keys of the sync words, shadows, ledger entries and response bytes rising, the indices of the response ring inside it (R329), the two logs no longer than 64 entries (R152, R176), every
policy value in its range with the thresholds in order (R346), and every counter within 32 bits (R352). -/
structure SoundParts (mem remote : List Host.Cell) (ports : Tbl Port) (chans : Tbl Channel) (tags : Tbl TagSlot) (links : Tbl Link)
    (words : Tbl SyncWord) (shadows : Tbl Shadow) (die : Tbl (BitVec 160)) (ring : Tbl Byte) (head tail errs drifts : Nat)
    (vals counters : Tbl Nat) : Prop where
  mem_wf : Memory.wf mem = true
  remote_wf : Memory.wf remote = true
  ports_wf : Tbl.wf portDefault ports = true
  chans_wf : Tbl.wf chanDefault chans = true
  tags_wf : Tbl.wf tagDefault tags = true
  links_wf : Tbl.wf Link.reset links = true
  words_up : Tbl.Rising words
  shadows_up : Tbl.Rising shadows
  die_up : Tbl.Rising die
  ring_up : Tbl.Rising ring
  head_lt : head < 32
  tail_lt : tail < 32
  errs_le : errs ≤ 64
  drifts_le : drifts ≤ 64
  policy_wf : Tbl.wf policyDefault vals = true
  policy_ok : ∀ id ∈ policyIds, policyOk id (Tbl.get policyDefault vals id) = true
  policy_le : Tbl.get policyDefault vals 0x04 ≤ Tbl.get policyDefault vals 0x06 ∧
    Tbl.get policyDefault vals 0x06 ≤ Tbl.get policyDefault vals 0x05
  counters_wf : Tbl.wf counterDefault counters = true
  counters_le : ∀ i, Tbl.get counterDefault counters i ≤ 0xFFFFFFFF

/-- A sound state. -/
abbrev State.Sound (s : State) : Prop :=
  SoundParts s.mem s.remote s.ports s.tt.chans s.led.tags s.link.links s.tt.words s.shadow.shadows s.led.die s.win.ring
    s.win.rspHead s.win.rspTail s.shadow.errLog.length s.shadow.driftLog.length s.pol.vals s.counters

/-! ## When a row has its own effect -/

/-- The chip's ports run, no stop of a cinch is in force, and no `DOZE` request is about to take effect, which a store would cancel (R366,
R417, R425). -/
abbrev State.Live (s : State) : Prop := s.running = true ∧ s.stopped = false ∧ s.dozing = false

/-- No arrival and no barrier wait is among the commands in flight, so none can be held back or become due (R166). -/
abbrev State.NoFence (s : State) : Prop := ∀ f ∈ s.tt.flights, cTop f.cmd < 8

/-- Port `p` reads the slot at `EP_SQ_HEAD` (R252 to R254), which lies in the address space, and no cinch holds it back (R364). -/
abbrev State.Reads (s : State) (p : Nat) : Prop :=
  s.mayRead p = true ∧ inSpace [((s.port p).slotAddr, 64)] = true ∧ s.heldByCut (s.slotDesc p) = false

/-- Port `p` reads a descriptor with this opcode, which passes every check of Table 9-10; the memory that it names lies in the address
space. -/
abbrev State.Accepts (s : State) (p op : Nat) : Prop :=
  s.Reads p ∧ dOpcode (s.slotDesc p) = op ∧ inSpace (tmapRange (s.slotDesc p)) = true ∧ s.validate p (s.slotDesc p) = none ∧
    inSpace (s.descRanges (s.slotDesc p)) = true

/-- Masthead takes slot `n`, which holds a command that belongs to the row, and no check of R331 refuses it (R327, R328). -/
abbrev State.Passes (s : State) (n code : Nat) (mine : Cmd → Bool) (len : Cmd → Nat) (checks : State → Cmd → List Check) : Prop :=
  s.takes n = true ∧ (s.slotCmd n).code = code ∧ mine (s.slotCmd n) = true ∧
    firstDeny (s.commonChecks (s.slotCmd n) (len (s.slotCmd n)) ++ checks s (s.slotCmd n)) = none

/-- The state once slot `n` is free again and its command has its final response (R328 to R330). -/
abbrev State.answered (s : State) (n status : Nat) (body : List Byte) : State := (s.take n).reply (s.slotCmd n) status body

end Sys2Proof.Machine
end

