-- ==== Sys2Proof/Certificates/Slice0/Obligations.lean ====
section
/-! DEFINITION. The statements about the model, each a proposition of its own. `Sound`, `Live`, `NoFence` and the other premises are in
`Sys2Proof/Safety.lean`. -/

open Sys2Proof Sys2Proof.Machine

/-- `StepRunsTheFrontCommand`: A step takes the command at the front of the queue and is `exec` of it on the state with the queue's rest. The
queue is the model's own (log 1). With no command waiting the block idles: it writes a dump that is due and gates the clocks of a `DOZE`
request that is accepted (the model's choice, log 133), no command comes of it, and where neither is due nothing changes. That there is a
queue is the model's choice (log 1). -/
def Obligations.StepRunsTheFrontCommand : Prop :=
 (∀ (c : Instr) (r : List Instr) (s : State), step { s with pending := c :: r } = exec c { s with pending := r }) ∧
 (∀ s : State, s.pending = [] →
    step s = .next s.idle ∧ s.idle.pending = [] ∧ (s.dump.due = none → s.dozing = false → s.idle = s))

/-- `CommandsKeepWhatIsNotTheirs` (R322): No command changes the queue of the commands that wait. No row of these changes the topology, the
policy, the units' map, the dump, the partner chip's memory, the durable image's place, the debug unlock, the firmware or the long command,
which belong to Masthead: the descriptors, the tell-tale commands and the sync messages, the on-die rows of collectives, `ROUTE` and hoist,
notices, the lanes, the registers of a port, `IDLE` and `DATA`. (A store or a frame may end a `DOZE` request whose clocks are not gated yet,
R417.) The queue is the model's own (log 1). -/
def Obligations.CommandsKeepWhatIsNotTheirs : Prop :=
 (∀ (c : Instr) (s t : State), s.Sound → exec c s = .next t → t.pending = s.pending) ∧
 (∀ (s t : State) (p : Pos) (w : BitVec 60) (word : BitVec 16) (r : List (BitVec 25 × Bool)) (q : List (BitVec 25)) (k : Fin 8) (ch : Fin 64) (l : PortNo) (f : Frame) (lost : Bool) (good : Fec) (ctx : Fin 4096) (epoch : Fin 65536)
      (v : Word64) (id token : Nat) (hc : Fin 16) (ofs : BitVec 12),
    ∀ c ∈ [Instr.sum p, .spsum p, .nsum p, .max p, .min p, .maxnum p, .minnum p, .amax p, .amin p, .band p, .bor p, .bxor p, .count p, .scanx p, .scani p, .lsem p,
      .route p, .tagRelease p, .tagCancel p, .combine p, .uncombine p, .gategrad p, .bcast p, .mcast p, .hrecv p, .hrecvWithdraw p, .descriptorReadPoisoned p,
      .sig p w, .wait p w, .dec p w, .test p w, .init p w, .claim p w, .release p w, .arrive p w, .bwait p w, .syncWordCycle word ⟨r, q⟩, .waitTimeout word p,
      .barrierWaitTimeout ch ⟨p, k⟩, .releaseStep ch, .fleetWaitExpiry ch, .sigMessage l, .sigAck l, .barArrive l, .barRelease l, .barOrphan ⟨l, lost⟩, .barPrewarn l,
      .treeFlit ctx epoch (.onDie p), .collectiveTimeout ctx epoch p, .timeoutMark ctx epoch, .resultAtPort ctx epoch p .onDie, .completionWrite p,
      .routeCountsResult ctx epoch p .onDie, .noticePost p v, .noticeSend p, .combineLaneBegin id token, .rowReadReturn id token, .rowWriteVisible id token,
      .combineLimitExpiry id, .hoistCreditApply p hc, .hoistAtHoldingNode p (.onDie id), .holdLimitExpiry id, .deliveryReport id token .onDie,
      .hoistReportLimitExpiry id, .hoistDeliveryVisible id, .registerWrite p ofs v, .epSqCfg p v, .epCqCfg p v, .submissionDoorbell p v, .completionDoorbell p v,
      .epTtPop p v, .epNqStat p v, .idle l f good, .data l f good],
      exec c s = .next t → t.topo = s.topo ∧ t.pol = s.pol ∧ t.units = s.units ∧ t.dump = s.dump ∧ t.cut = s.cut ∧ t.debug = s.debug ∧ t.sec = s.sec ∧
        t.remote = s.remote ∧ (s.dozing = false → t.mh.long = s.mh.long) ∧ t.inp.regions = s.inp.regions)

/-- `EveryStepKeepsSoundness`: Every step takes a sound state to a sound state: memories and tables in canonical form, their keys rising, ring
indices below 32 (R329), logs of at most 64 entries (R152, R176), policy values in their ranges and in order (R346), counters within 32 bits
(R352). Chip memory that nothing has written reads 0 (the model's choice, log 2). -/
def Obligations.EveryStepKeepsSoundness : Prop :=
  ∀ s t : State, s.Sound → step s = .next t → t.Sound

/-- `ResetIsSoundAndGivesTheResetValues` (R420 to R424, R152, R176, R324, R346): The state after reset is sound. What reset leaves, of the
values that the manual gives: no context, no topology, every sync word in `FLAG` mode with value 0, every policy parameter of Table 11-17
its default, every port with 32 credits, its other registers 0 and no descriptor, and no operation anywhere, empty logs, `IRQ` causes clear
and masked, Masthead in boot. The queue, and the values that log entries name, are the model's own. The queue is the model's own (log 1),
and that start-up then waits for its events is log 10. -/
def Obligations.ResetIsSoundAndGivesTheResetValues : Prop :=
 (State.reset.Sound) ∧
 (let s := State.reset
  s.pending = [] ∧ s.mh.st = .boot ∧ s.mh.ready = false ∧ s.mh.hello = false ∧ s.mh.long = none ∧ s.mh.cut = none ∧ s.debug = false ∧
    s.topo.rigValid = false ∧ s.topo.groups = [] ∧ s.ctxs = [] ∧ s.pol.partner = none ∧ s.pol.grants = 0#4096 ∧
    (∀ w, s.word w = wordDefault 0 w ∧ (s.word w).mode = .flag ∧ (s.word w).value = 0 ∧ (s.word w).owner = wordIndex w / 48) ∧
    (∀ c, (s.chan c).st = .unbound) ∧
    (∀ p, let x := s.port p
      x.credits = 32 ∧ x.sqCfg = 0 ∧ x.cqCfg = 0 ∧ x.err = 0 ∧ x.sqTail = 0 ∧ x.sqHead = 0 ∧ x.cqHead = 0 ∧ x.cqTail = 0 ∧ x.cqPhase = true ∧
        x.opened = 0 ∧ x.done = [] ∧ x.resp = [] ∧ x.heldResp = [] ∧ x.waits = [] ∧ x.nqLo = 0 ∧ x.nq = [] ∧ x.nqErr = false ∧ x.nqLast = none ∧
        x.nqRej = 0 ∧ x.rebinding = false ∧ x.held = false) ∧
    s.ops.colls = [] ∧ s.ops.slots = [] ∧ s.ops.queue = [] ∧ s.ops.combs = [] ∧ s.ops.sends = [] ∧ s.ops.recvs = [] ∧ s.ops.holds = [] ∧
    s.ops.delivs = [] ∧ s.ops.dups = [] ∧ s.shadow.errLog = [] ∧ s.shadow.driftLog = [] ∧ (∀ i, s.counter i = 0) ∧
    (∀ k, (s.tagSlot k).st = .free) ∧ s.win.irqStatus = 0 ∧ s.win.irqMask = 7 ∧ s.win.rung = [] ∧
    (∀ e ∈ [(0x01, 2000000), (0x02, 0), (0x03, 1), (0x04, 1), (0x05, 65535), (0x06, 1024), (0x10, 0), (0x11, 0), (0x12, 2000), (0x13, 100000),
      (0x20, 50), (0x30, 32), (0x31, 1), (0x32, 1), (0x40, 90), (0x41, 1), (0x42, 64), (0x43, 2000), (0x50, 65536), (0x51, 1)],
      s.policy e.1 = e.2))

/-- `OnlyMemoryAccessStops`: No command is refused, and a command faults only with `beyondAddressSpace` (the model's choice, log 3), where the
addresses that it touches do not all lie in the 52-bit address space: of the descriptor rows, the slot at `EP_SQ_HEAD`, the target list of
an `MCAST`, or the memory that an accepted descriptor names; of `COMPLETION_WRITE`, the record; of `MH_READY`, the three regions. That such
an access stops is the model's choice (log 3). -/
def Obligations.OnlyMemoryAccessStops : Prop :=
  ∀ (c : Instr) (s : State),
    (∀ r, exec c s ≠ .refused r) ∧
    (∀ f, exec c s = .fault f → f = .beyondAddressSpace ∧
      ((∃ p : Pos, c ∈ [Instr.sum p, .spsum p, .nsum p, .max p, .min p, .maxnum p, .minnum p, .amax p, .amin p, .band p, .bor p, .bxor p,
          .count p, .scanx p, .scani p, .lsem p, .route p, .tagRelease p, .tagCancel p, .combine p, .uncombine p, .gategrad p, .bcast p,
          .mcast p, .hrecv p, .hrecvWithdraw p] ∧ s.mayRead p = true ∧
        (inSpace [((s.port p).slotAddr, 64)] = false ∨ inSpace (tmapRange (s.slotDesc p)) = false ∨
          s.validate p (s.slotDesc p) = none ∧ inSpace (s.descRanges (s.slotDesc p)) = false)) ∨
       (∃ p : Pos, c = .completionWrite p ∧ (s.port p).done ≠ [] ∧ inSpace [((s.port p).recordAddr, 32)] = false) ∨
       (∃ g, c = .mhReady g ∧ s.power.boot = .firmware ∧
        inSpace [(g.flash, g.flashLen), (g.dump, g.dumpLen), (g.dist, 32832)] = false)))

/-- `CollectiveDescriptorsStart` (R253, R263, R266): An accepted collective of each of the 17 opcodes joins the collective of its context and
epoch as a live member; its first contribution leaves when its context is active or a slot is free, and else it enters the admission queue.
Chip memory, the tell-tale network, counters, links and the other ports are unchanged. How many flits a contribution takes is the model's
choice (log 6), and so are the slot and the blocks that a `ROUTE` takes (log 75). -/
def Obligations.CollectiveDescriptorsStart : Prop :=
  ∀ (s : State) (p : Pos), s.Sound →
    ∀ r ∈ [(Instr.sum p, 0x01), (.spsum p, 0x02), (.nsum p, 0x03), (.max p, 0x04), (.min p, 0x05), (.maxnum p, 0x06), (.minnum p, 0x07),
      (.amax p, 0x08), (.amin p, 0x09), (.band p, 0x0A), (.bor p, 0x0B), (.bxor p, 0x0C), (.count p, 0x0D), (.scanx p, 0x0E),
      (.scani p, 0x0F), (.lsem p, 0x10), (.route p, 0x20)],
    s.Accepts p r.2 →
      let d := s.slotDesc p
      ∃ t, exec r.1 s = .next t ∧
        t.port p = (s.port p).readSlot ∧ (∀ q, q ≠ p.val → t.port q = s.port q) ∧
        (∃ c ∈ t.ops.colls, c.ctx = dCtx d ∧ c.epoch = dEpoch d ∧ ∃ m ∈ c.members, m.pos = p.val ∧ m.desc = d ∧ m.live = true ∧
          m.stage = (if s.slotFor (dCtx d) then .sending else .queued) ∧
          m.up.map (·.defn) = (if s.slotFor (dCtx d) then some (definingOf d) else none)) ∧
        t.ops.queue = (if s.slotFor (dCtx d) then s.ops.queue else s.ops.queue ++ [(dCtx d, dEpoch d, p.val)]) ∧
        (if r.2 = 0x20 then
          t.tagSlot s.freeTagSlot = { st := .live, tag := BitVec.ofNat 16 (dTag d), gen := BitVec.ofNat 8 (dEpoch d)
                                      tokBase := dRTokBase d, ntok := dRNtok d, blocks := (s.takeBlocks (dRNtok d)).getD []
                                      routeDone := false, routeCancelled := false, nopen := 0 }
         else t.led = s.led) ∧
        t.mem = s.mem ∧ t.tt = s.tt ∧ t.shadow = s.shadow ∧ t.counters = s.counters ∧ t.link = s.link ∧ t.win = s.win ∧
        t.topo = s.topo ∧ t.pol = s.pol ∧ t.units = s.units ∧ t.mh = s.mh ∧ t.power = s.power

/-- `TagAndCombineDescriptorsAreAccepted` (R201 to R203, R207, R202, R203, R218, R220, R225): An accepted `TAG_RELEASE` or `TAG_CANCEL`
completes at once with `OK`, and its slot is no longer live. Where the `ROUTE` still runs, a cancel puts the slot into quarantine and only
marks the `ROUTE`. With its `ROUTE` complete, a `TAG_CANCEL` frees every entry of its tag that is `COMBINED`, all arrived, or unreadable
(log 76), makes the other open ones `CANCELLED` unless a lane has begun on them, and leaves the rest; a `TAG_RELEASE` frees the `COMBINED`
ones, and not one that cannot be read (log 134). A slot that holds no entry after that is free, and its blocks with it (log 11); any other
waits in quarantine. (Here no bank is lost and the tag's blocks are different ones.) An accepted `COMBINE` with `GRAD_RET` 1, `UNCOMBINE` or
`GATEGRAD` stands with every token that it names ready, in ascending order; a standing `COMBINE` counts the entries that are `COMBINED`
already as served, and is complete at once when that is all of them. -/
def Obligations.TagAndCombineDescriptorsAreAccepted : Prop :=
 (∀ (s : State) (p : Pos), s.Sound →
    ∀ r ∈ [(Instr.tagRelease p, 0x21), (.tagCancel p, 0x22)], s.Accepts p r.2 →
      let d := s.slotDesc p
      let k := (s.findTag (dTag d)).getD 0
      ∃ t, exec r.1 s = .next t ∧ (t.port p).done.getLast? = some (doneOf d .ok Tally.zero 0 0 true none) ∧
        (t.port p).sqHead = ((s.port p).sqHead + 1) % ringSize (s.port p).sqCfg ∧
        (t.tagSlot k).st ≠ .live ∧ (∀ j, j ≠ k → t.tagSlot j = s.tagSlot j) ∧
        (r.2 = 0x22 ∧ (s.tagSlot k).routeDone = false →
          t.tagSlot k = { s.tagSlot k with st := .quarantine, routeCancelled := true } ∧ t.led.die = s.led.die ∧ t.mem = s.mem) ∧
        t.tt = s.tt ∧ t.shadow = s.shadow ∧ t.counters = s.counters ∧ t.link = s.link ∧ t.win = s.win ∧ t.topo = s.topo) ∧
 (∀ (s : State) (p : Pos), s.Sound → s.units.lostBanks = [] →
    ∀ r ∈ [(Instr.tagRelease p, 0x21), (.tagCancel p, 0x22)], s.Accepts p r.2 →
      let k := (s.findTag (dTag (s.slotDesc p))).getD 0
      let x := s.tagSlot k
      let cancelled : Nat → EntryRead := fun n => match s.readRow x n with
        | .entry e =>
          if leState e = lsCombined then .entry 0
          else if leOpen e && !s.laneBegun k (x.tokBase + n) then
            (if leAllArrived e then .entry 0 else .entry (leSetState e lsCancelled))
          else .entry e
        | _ => .entry 0
      let left : Nat → EntryRead := fun n =>
        if r.2 = 0x22 then cancelled n else if s.rowIs x n (fun e => leState e == lsCombined) then .entry 0 else s.readRow x n
      let holds := (List.range x.ntok).any (fun n => match left n with | .entry e => leState e != lsFree | _ => true)
      let opens := (List.range x.ntok).filter (fun n => match left n with | .entry e => leOpen e | _ => false)
      x.routeDone = true → x.blocks.Nodup → x.ntok ≤ 1024 * x.blocks.length →
        ∃ t, exec r.1 s = .next t ∧ (∀ n < x.ntok, t.readRow x n = left n) ∧
          t.tagSlot k = (if holds then { x with st := .quarantine, nopen := if r.2 = 0x22 then opens.length else x.nopen }
            else tagDefault 0) ∧
          (holds = false → ∀ b ∈ t.heldBlocks, ∃ j, j ≠ k ∧ b ∈ (s.tagSlot j).blocks) ∧ (∀ j, j ≠ k → t.tagSlot j = s.tagSlot j)) ∧
 (∀ (s : State) (p : Pos), s.Sound →
    ∀ r ∈ [(Instr.combine p, 0x28), (.uncombine p, 0x29), (.gategrad p, 0x2A)], s.Accepts p r.2 →
      let d := s.slotDesc p
      let k := (s.findTag (dTag d)).getD 0
      let x := s.tagSlot k
      let served := (combTokens d).filter (fun n => s.rowIs x (n - x.tokBase) (fun e => leState e == lsCombined))
      ∃ t, exec r.1 s = .next t ∧ t.ops.nextId = s.ops.nextId + 1 ∧
        (t.port p).sqHead = ((s.port p).sqHead + 1) % ringSize (s.port p).sqCfg ∧
        (standing d = false → ∃ o ∈ t.ops.combs, o.id = s.ops.nextId ∧ o.pos = p.val ∧ o.desc = d ∧ o.slot = k ∧
          o.ready = combTokens d ∧ o.served = [] ∧ o.lanes = []) ∧
        (standing d = true ∧ served ≠ combTokens d → ∃ o ∈ t.ops.combs, o.id = s.ops.nextId ∧ o.pos = p.val ∧ o.desc = d ∧
          o.slot = k ∧ o.served = served ∧ o.lanes = []) ∧
        (standing d = true ∧ served = combTokens d → (t.port p).done.getLast? = some (doneOf d .ok Tally.zero 0 0 true none)) ∧
        t.mem = s.mem ∧ t.led = s.led ∧ t.tt = s.tt ∧ t.counters = s.counters ∧ t.link = s.link ∧ t.win = s.win)

/-- `HoistDescriptorsAreAccepted` (R231 to R233, R242, R243, R248, R230, R307, R308, R234, R235): An accepted `BCAST` or `MCAST` reads its
source into one message with the sender's rig index and its sequence number, whose copies are on their way to every target; without a target
left to reach it completes with `OK`. A message for the other half or another chip needs segments in the chip root's pool, and leaves the
chip from there at once unless its channel waits there, the pool has no room or its cluster has stopped. The copies of a message that leaves
the chip are its header, its target list and its data in that order: for a group once on VC2 of each port that leads up its tree or to a
standby, and once on VC3 of each that leads down; for a chip list once on each port that leads to a listed chip, with the chips behind that
port (the virtual channel of a chip list is read from R23 and R230, log 80). `HRECV` with a nonzero `RLEN` posts a receive behind those that
stand; one with `RLEN` 0 withdraws every receive of the endpoint and channel that is not committed. Each of them completes with `CANCELLED`
and then the withdrawal itself, at once where no message is committed to a receive of the endpoint and channel, and otherwise when those
have been delivered. Which member of a group other than group 0 has which index, where the group leaves the chip, is log 27. -/
def Obligations.HoistDescriptorsAreAccepted : Prop :=
 (∀ (s : State) (p : Pos), s.Sound →
    ∀ r ∈ [(Instr.bcast p, 0x30), (.mcast p, 0x31)], s.Accepts p r.2 →
      let d := s.slotDesc p
      let old := if dHretry d then loadNat s (dDst d) (dmapLen (s.dmapBits d)) else 0
      let targets := (s.sendTargets p d).filter (fun x => !old.testBit x.index)
      ∃ t, exec r.1 s = .next t ∧ t.ops.nextId = s.ops.nextId + 1 ∧
        (t.port p).sqHead = ((s.port p).sqHead + 1) % ringSize (s.port p).sqCfg ∧
        (targets ≠ [] → (∃ x ∈ t.ops.sends, x.id = s.ops.nextId ∧ x.pos = p.val ∧ x.desc = d ∧ x.targets = targets ∧
          x.msg.origin.toNat = s.rig p % 2 ^ 25 ∧ x.msg.hseq = dHseq d ∧ x.msg.data = load s (dSrc d) (dHlen d) ∧
          x.msg.chan.val = dHchan d ∧ x.limit = targets.any (fun y => !y.isHere) ∧
          (x.turns = false → x.turned = true ∧ t.link = s.link) ∧
          (x.turns = true → s.portHeld p = true ∨ s.ops.waiting.contains (rootPool, dHchan d) = true →
            x.turned = false ∧ t.link = s.link) ∧
          (x.turns = true → s.portHeld p = false → s.ops.waiting.contains (rootPool, dHchan d) = false →
            (s.poolSplit rootPool (dHchan d) (segments x.msg)).isSome = true → x.turned = true ∧ t.link = (s.spreadSend x).link)) ∧
          t.mem = s.mem) ∧
        (targets = [] → (t.port p).done.getLast? = some (doneOf d .ok Tally.zero 0 0 true none) ∧ t.link = s.link) ∧
        t.tt = s.tt ∧ t.led = s.led ∧ t.counters = s.counters ∧ t.win = s.win) ∧
 (∀ (s : State) (x : Send) (l : Nat), s.Sound → x.targets.any (fun y => !y.isHere) = true →
    let d := x.desc
    let chips := x.targets.filterMap (fun y => match y.place with | .listed r => some (r / 1024) | _ => none)
    let away := chips.filter (fun c => c ≠ s.topo.chip)
    let behind := away.filter (fun c => s.routeTo c = some l)
    (∀ g, dOpcode d = 0x30 → s.group (dGroup d) = some g →
      ((s.spreadSend x).lnk l).tx2 = (s.lnk l).tx2 ++
        (if (s.upPorts g ++ s.copyPorts g).contains l then messageFlits (dGroup d) x.msg none else []) ∧
      ((s.spreadSend x).lnk l).tx3 = (s.lnk l).tx3 ++ (if (s.downPorts g).contains l then messageFlits (dGroup d) x.msg none else [])) ∧
    (dOpcode d ≠ 0x30 →
      ((s.spreadSend x).lnk l).tx2 = (s.lnk l).tx2 ++
        (if behind ≠ [] ∧ s.treeVc l = 2 then messageFlits 0 x.msg (some (dHpos d, behind)) else []) ∧
      ((s.spreadSend x).lnk l).tx3 = (s.lnk l).tx3 ++
        (if behind ≠ [] ∧ s.treeVc l = 3 then messageFlits 0 x.msg (some (dHpos d, behind)) else []))) ∧
 (∀ (s : State) (p : Pos), s.Sound → s.Accepts p 0x32 →
    let d := s.slotDesc p
    let mine : Recv → Bool := fun r => r.pos == p.val && r.chan == dHchan d
    let first := (s.ops.delivs.filter (fun x => mine x.recv)).map (·.id)
    let kept := s.ops.recvs.filter (fun r => !mine r)
    (dHlen d ≠ 0 → ∃ t, exec (.hrecv p) s = .next t ∧ t.port p = (s.port p).readSlot ∧
      ∃ x, t = { s with ports := t.ports, ops := { s.ops with recvs := s.ops.recvs ++ [x] } } ∧ x.pos = p.val ∧ x.chan = dHchan d ∧
        x.dst = dDst d ∧ x.rlen = dHlen d ∧ x.desc = d ∧ x.applied = false ∧ x.live = true) ∧
    (dHlen d = 0 → first = [] → ∃ t, exec (.hrecvWithdraw p) s = .next t ∧
      t = { s with ports := t.ports, ops := { s.ops with recvs := kept } } ∧
      t.port p = { (s.port p).readSlot with
        done := (s.port p).done ++ (s.ops.recvs.filter mine).map (fun r => doneOf r.desc .cancelled Tally.zero 0 0 true none) ++
          [doneOf d .ok Tally.zero 0 0 true none] }) ∧
    (dHlen d = 0 → first ≠ [] → ∃ t, exec (.hrecvWithdraw p) s = .next t ∧ t.port p = (s.port p).readSlot ∧
      t = { s with ports := t.ports, ops := { s.ops with
        recvs := kept, withdraws := s.ops.withdraws ++ [{ pos := p.val, desc := d, gone := s.ops.recvs.filter mine, first := first }] } }))

/-- `DescriptorsThatDoNotStart` (R252 to R254, R364, R366, R262): A port that may not read, for an empty or disabled ring, no room for a record,
a rebind or a cinch, changes nothing at any descriptor row; nor does a row whose slot holds another operation (the model's choice, log 9). A
slot that a draining cinch holds back is only marked as held. A descriptor that fails a check of Table 9-10 leaves only the advance past its
slot and a completion with the status of the first failure, whose flags and counters read 0. -/
def Obligations.DescriptorsThatDoNotStart : Prop :=
 (∀ (s : State) (p : Pos),
    ∀ r ∈ [(Instr.sum p, hasOp 0x01), (.spsum p, hasOp 0x02), (.nsum p, hasOp 0x03), (.max p, hasOp 0x04), (.min p, hasOp 0x05),
      (.maxnum p, hasOp 0x06), (.minnum p, hasOp 0x07), (.amax p, hasOp 0x08), (.amin p, hasOp 0x09), (.band p, hasOp 0x0A),
      (.bor p, hasOp 0x0B), (.bxor p, hasOp 0x0C), (.count p, hasOp 0x0D), (.scanx p, hasOp 0x0E), (.scani p, hasOp 0x0F),
      (.lsem p, hasOp 0x10), (.route p, hasOp 0x20), (.tagRelease p, hasOp 0x21), (.tagCancel p, hasOp 0x22), (.combine p, hasOp 0x28),
      (.uncombine p, hasOp 0x29), (.gategrad p, hasOp 0x2A), (.bcast p, hasOp 0x30), (.mcast p, hasOp 0x31),
      (.hrecv p, fun d => hasOp 0x32 d && dHlen d != 0), (.hrecvWithdraw p, fun d => hasOp 0x32 d && dHlen d == 0)],
      (s.mayRead p = false → exec r.1 s = .next s ∧ exec (.descriptorReadPoisoned p) s = .next s) ∧
      (s.mayRead p = true → inSpace [((s.port p).slotAddr, 64)] = true →
        ((opClass (dOpcode (s.slotDesc p))).isSome = true → r.2 (s.slotDesc p) = false → exec r.1 s = .next s) ∧
        (r.2 (s.slotDesc p) = true → s.heldByCut (s.slotDesc p) = true →
          exec r.1 s = .next (s.modPort p (fun x => { x with held := true }))))) ∧
 (∀ (s : State) (p : Pos) (st : CStatus) (signal : Bool), s.Sound → s.Reads p → inSpace (tmapRange (s.slotDesc p)) = true →
    s.validate p (s.slotDesc p) = some (st, signal) →
    ∀ r ∈ [(Instr.sum p, hasOp 0x01), (.spsum p, hasOp 0x02), (.nsum p, hasOp 0x03), (.max p, hasOp 0x04), (.min p, hasOp 0x05),
      (.maxnum p, hasOp 0x06), (.minnum p, hasOp 0x07), (.amax p, hasOp 0x08), (.amin p, hasOp 0x09), (.band p, hasOp 0x0A),
      (.bor p, hasOp 0x0B), (.bxor p, hasOp 0x0C), (.count p, hasOp 0x0D), (.scanx p, hasOp 0x0E), (.scani p, hasOp 0x0F),
      (.lsem p, hasOp 0x10), (.route p, hasOp 0x20), (.tagRelease p, hasOp 0x21), (.tagCancel p, hasOp 0x22), (.combine p, hasOp 0x28),
      (.uncombine p, hasOp 0x29), (.gategrad p, hasOp 0x2A), (.bcast p, hasOp 0x30), (.mcast p, hasOp 0x31),
      (.hrecv p, fun d => hasOp 0x32 d && dHlen d != 0), (.hrecvWithdraw p, fun d => hasOp 0x32 d && dHlen d == 0)],
    r.2 (s.slotDesc p) = true ∨ opClass (dOpcode (s.slotDesc p)) = none →
      ∃ t x, exec r.1 s = .next t ∧ t = { s with ports := t.ports } ∧ (∀ q, q ≠ p.val → t.port q = s.port q) ∧
        t.port p = { (s.port p).readSlot with done := (s.port p).done ++ [x] } ∧
        x.status = st ∧ x.tally = Tally.zero ∧ x.opcode = dOpcode (s.slotDesc p) ∧ x.ctag = dCtag (s.slotDesc p) ∧
        (x.csig.isSome → signal = true ∧ dCsigEn (s.slotDesc p) = true))

/-- `WordCommandsAndRemoteSignalsLeave` (R149, R150, R270, R171): A store to `EP_TT_CMD` of `SIG`, `WAIT`, `DEC`, `TEST`, `INIT`, `CLAIM` or
`RELEASE` for a word of this die that passes the port's checks takes a credit if it responds, is an outstanding wait if it waits, and is on
its way to its word behind the commands in flight. Nothing else changes. A `SIG` for a word of another chip that passes the port's checks
leaves as one sync message with its operand, its issuer and, when it asks for an acknowledgement, a tag. It stays among the commands in
flight, until its `SIG_ACK` or, where it asks for none, until the step that says it has reached its word (log 68). The tag of an
acknowledged remote SIG is the lowest free one (log 23). -/
def Obligations.WordCommandsAndRemoteSignalsLeave : Prop :=
 (∀ (s : State) (p : Pos) (w : BitVec 60), s.Sound → s.Live → s.NoFence →
    ∀ r ∈ [(Instr.sig p w, 1), (.wait p w, 2), (.dec p w, 3), (.test p w, 4), (.init p w, 5), (.claim p w, 6), (.release p w, 7)],
      let c := ttCommand r.2 w
      s.portCheck p c = none → (cResponds c = true → (s.port p).credits ≠ 0) → (cRemote c && cChip c != s.topo.chip) = false →
        ∃ t, exec r.1 s = .next t ∧
          t = { s with ports := t.ports, tt := { s.tt with flights :=
            s.tt.flights ++ [{ cmd := c, issuer := BitVec.ofNat 25 (s.rig p), via := .port }] } } ∧
          t.port p = { s.port p with
            credits := (s.port p).credits - flag (cResponds c)
            waits := (s.port p).waits ++ (if cWaits c then [(false, cTarget c)] else []) } ∧
          (∀ q, q ≠ p.val → t.port q = s.port q)) ∧
 (∀ (s : State) (p : Pos) (w : BitVec 60), s.Sound → s.Live →
    let c := ttCommand 1 w
    let rig := BitVec.ofNat 25 (s.rig p)
    let ack := bit c 59
    s.portCheck p c = none → (ack = true → (s.port p).credits ≠ 0) → cRemote c = true → cChip c ≠ s.topo.chip →
      ∃ t, exec (.sig p w) s = .next t ∧
        t.link = (s.originate 1 (cChip c) (syncMsg 1 0 (cChip c) (flag ack) (cTarget c) rig.toNat (cOperand c) 0 0
          (if ack then (s.freeTag rig).toNat else 0))).link ∧
        t.tt.flights = s.tt.flights ++ [{ cmd := c, issuer := rig, via := if ack then .remote (s.freeTag rig) else .posted }] ∧
        t.tt.words = s.tt.words ∧ t.tt.chans = s.tt.chans ∧
        t.port p = { s.port p with credits := (s.port p).credits - flag ack } ∧ (∀ q, q ≠ p.val → t.port q = s.port q) ∧
        t.mem = s.mem ∧ t.shadow = s.shadow ∧ t.counters = s.counters)

/-- `PortChecksAndCredits` (R150, R152, R270): A tell-tale command that fails a check at its port touches no word. One that responds takes its
credit and answers with the status of the first failure and value 0; a posted `SIG` sets `TT_REJ`, bumps the sync error counter and leaves
an entry in the error log while the log has room. A tell-tale command that responds, written with `TT_CREDITS` 0, has no effect but to set
`TT_OVF`. -/
def Obligations.PortChecksAndCredits : Prop :=
 (∀ (s : State) (p : Pos) (w : BitVec 60) (st : CStatus), s.Sound → s.Live →
    ∀ r ∈ [(Instr.sig p w, 1), (.wait p w, 2), (.dec p w, 3), (.test p w, 4), (.init p w, 5), (.claim p w, 6), (.release p w, 7),
      (.arrive p w, 8), (.bwait p w, 9)],
      let c := ttCommand r.2 w
      s.portCheck p c = some st →
        (cResponds c = true → (s.port p).credits ≠ 0 → (s.port p).rebinding = false →
          ∃ t, exec r.1 s = .next t ∧ t = { s with ports := t.ports } ∧ (∀ q, q ≠ p.val → t.port q = s.port q) ∧
            t.port p = { s.port p with
              credits := (s.port p).credits - 1, resp := (s.port p).resp ++ [responseWord st r.2 (cTarget c) 0] }) ∧
        (cResponds c = false →
          ∃ t, exec r.1 s = .next t ∧ t.tt = s.tt ∧ t.mem = s.mem ∧ t.port p = { s.port p with err := (s.port p).err ||| 0x40#7 } ∧
            (∀ q, q ≠ p.val → t.port q = s.port q) ∧ t.counter cSyncErr = sat32 (s.counter cSyncErr + 1) ∧
            t.shadow.errLog = (if s.shadow.errLog.length < 64 then s.shadow.errLog ++
              [{ status := st, word := BitVec.ofNat 16 (cTarget c), chip := if cRemote c then cChip c else s.topo.chip
                 rig := BitVec.ofNat 25 (s.rig p) }] else s.shadow.errLog))) ∧
 (∀ (s : State) (p : Pos) (w : BitVec 60), s.Live → (s.port p).credits = 0 →
    ∀ r ∈ [(Instr.sig p w, 1), (.wait p w, 2), (.dec p w, 3), (.test p w, 4), (.init p w, 5), (.claim p w, 6), (.release p w, 7),
      (.arrive p w, 8), (.bwait p w, 9)],
      cResponds (ttCommand r.2 w) = true → exec r.1 s = .next (s.setPort p { s.port p with err := (s.port p).err ||| 0x08#7 }))

/-- `ArrivalsAndBarrierWaits` (R165, R166, R164, R168 to R170, R175, R176, R410, R412, R308): An `ARRIVE` of a member that has no earlier
command in flight, on an armed channel whose phase it has not arrived in, is counted in the phase. With `WAIT` 1 it waits for the release,
and with `WAIT` 0 it answers `OK` at once. (Here it is not the last member of its chip.) A `BWAIT` of a member on an armed channel is
answered at once when the member has not arrived since the binding (`BAD_CONTEXT`), when a let-fly cleared its arrival (`ABORTED`), or when
its last arrival has been released (`OK`, with the drift count after a trim phase, R176); otherwise it waits for the phase of that arrival.
An `ARRIVE` or a `BWAIT` is answered at once with `BAD_CONTEXT` on an unbound channel, `ORPHAN` on a broken one and `NOT_OWNER` where the
group does not have the position; an `ARRIVE` of a member that has arrived in the phase already, or whose last phase is not released to it,
with `OVERFILL`. The channel stays as it is. On a group of one chip without the fleet ramp, the `ARRIVE` of the last member ends the phase.
The pre-warn pulse goes out unless it has, then the release pulse; the channel counts the next phase; the first step of the ramp answers the
waiters of its clusters with `OK`. In a trim phase every drifted word is marked and, where nobody waits on it, put back to its baseline;
each goes to the drift log while it has room, and the waiters get their number. On a chip that hosts no fold node of the group, the `ARRIVE`
of its last member sends the count up, to the host of the next node and to its standby, and the phase goes on until the release comes down. -/
def Obligations.ArrivalsAndBarrierWaits : Prop :=
 (∀ (s : State) (p : Pos) (w : BitVec 60) (g : Group), s.Sound → s.Live → s.NoFence →
    let c := ttCommand 8 w
    let ch := bits c 0 6
    let x := s.chan ch
    s.portCheck p c = none → (s.port p).credits ≠ 0 → (s.port p).rebinding = false →
    (∀ f ∈ s.tt.flights, f.fromPort (BitVec.ofNat 25 (s.rig p)) = false) → s.portHeld p = false →
    s.channelRefusal ch p = none → s.group x.group = some g → x.arrived.contains p.val = false →
    (∀ n, x.lastOf p = .inPhase n → x.releasedTo p n = true) → x.arrived.length + 1 < g.locals.length →
      ∃ t, exec (.arrive p w) s = .next t ∧ (t.chan ch).arrived = x.arrived ++ [p.val] ∧ (t.chan ch).phase = x.phase ∧
        (t.chan ch).st = .armed ∧ (t.chan ch).trim = (x.trim || bit c 58) ∧
        (t.chan ch).waits = x.waits ++ (if bit c 57 then [{ pos := p.val, top := 8, tmo := bits c 52 4, phase := x.phase }] else []) ∧
        (t.port p).resp = (s.port p).resp ++ (if bit c 57 then [] else [responseWord .ok 8 ch 0]) ∧
        t.tt.flights = s.tt.flights ∧ t.tt.words = s.tt.words ∧ t.mem = s.mem) ∧
 (∀ (s : State) (p : Pos) (w : BitVec 60), s.Sound → s.Live → s.NoFence →
    let c := ttCommand 9 w
    let ch := bits c 0 6
    let x := s.chan ch
    s.portCheck p c = none → (s.port p).credits ≠ 0 → (s.port p).rebinding = false →
    (∀ f ∈ s.tt.flights, f.fromPort (BitVec.ofNat 25 (s.rig p)) = false) → s.portHeld p = false →
    s.channelRefusal ch p = none →
      ∃ t, exec (.bwait p w) s = .next t ∧ t.tt.flights = s.tt.flights ∧ t.tt.words = s.tt.words ∧ t.mem = s.mem ∧
        (match x.lastOf p with
         | .never => (t.port p).resp = (s.port p).resp ++ [responseWord .badContext 9 ch 0] ∧ t.chan ch = x
         | .cleared => (t.port p).resp = (s.port p).resp ++ [responseWord .aborted 9 ch 0] ∧ t.chan ch = x
         | .inPhase n =>
           if x.releasedTo p n then (t.port p).resp = (s.port p).resp ++ [responseWord .ok 9 ch (x.lastDrift.getD 0)] ∧ t.chan ch = x
           else (t.port p).resp = (s.port p).resp ∧
             t.chan ch = { x with waits := x.waits ++ [{ pos := p.val, top := 9, tmo := bits c 52 4, phase := n }] })) ∧
 (∀ (s : State) (p : Pos) (w : BitVec 60) (st : CStatus), s.Sound → s.Live → s.NoFence →
    ∀ r ∈ [(Instr.arrive p w, 8), (.bwait p w, 9)],
      let c := ttCommand r.2 w
      let x := s.chan (bits c 0 6)
      s.portCheck p c = none → (s.port p).credits ≠ 0 → (s.port p).rebinding = false →
      (∀ f ∈ s.tt.flights, f.fromPort (BitVec.ofNat 25 (s.rig p)) = false) → s.portHeld p = false →
      ((x.st = .unbound ∧ st = .badContext) ∨ (x.st = .broken ∧ st = .orphan) ∨
        (x.st = .armed ∧ (∃ g, s.group x.group = some g ∧ g.has p = false) ∧ st = .notOwner) ∨
        (r.2 = 8 ∧ s.channelRefusal (bits c 0 6) p = none ∧ st = .overfill ∧
          (x.arrived.contains p.val = true ∨ ∃ n, x.lastOf p = .inPhase n ∧ x.releasedTo p n = false))) →
        ∃ t, exec r.1 s = .next t ∧ (t.port p).resp = (s.port p).resp ++ [responseWord st r.2 (bits c 0 6) 0] ∧
          (t.port p).credits = (s.port p).credits - 1 ∧ (∀ q, q ≠ p.val → t.port q = s.port q) ∧ t.tt = s.tt ∧ t.mem = s.mem ∧
          t.shadow = s.shadow ∧ t.counters = s.counters ∧ t.link = s.link ∧ t.out = s.out) ∧
 (∀ (s : State) (p : Pos) (w : BitVec 60) (g : Group), s.Sound → s.Live → s.NoFence →
    let c := ttCommand 8 w
    let ch := bits c 0 6
    let x := s.chan ch
    s.portCheck p c = none → (s.port p).credits ≠ 0 →
    (∀ f ∈ s.tt.flights, f.fromPort (BitVec.ofNat 25 (s.rig p)) = false) → s.portHeld p = false →
    s.channelRefusal ch p = none → s.group x.group = some g → x.arrived.contains p.val = false →
    (∀ n, x.lastOf p = .inPhase n → x.releasedTo p n = true) → x.arrived.length + 1 = g.locals.length → g.folds = [] →
    x.sentUp = false → (∀ q ∈ x.arrived ++ [p.val], s.stands q = true) → s.fleetSkew ch = 0 →
      let trim := x.trim || bit c 58
      let waits := x.waits ++ (if bit c 57 then [{ pos := p.val, top := 8, tmo := bits c 52 4, phase := x.phase }] else [])
      let l := if trim then s.driftedWords g else []
      let steps := 2 ^ s.rampLog
      let now : BWaiter → Bool := fun q => decide (q.phase = x.phase) && decide (stepOf steps q.pos = 0)
      let value := if trim then min l.length 0xFFFFF else 0
      ∃ t, exec (.arrive p w) s = .next t ∧ (t.chan ch).st = .armed ∧ (t.chan ch).phase = x.phase + 1 ∧ (t.chan ch).arrived = [] ∧
        (t.chan ch).trim = false ∧ (t.chan ch).prewarned = false ∧ (t.chan ch).lastDrift = (if trim then some value else none) ∧
        (t.chan ch).rel = (if steps = 1 then none else some { phase := x.phase, steps := steps, next := 1, fleet := none }) ∧
        (t.chan ch).waits = waits.filter (fun q => !now q) ∧
        (∀ q, (s.port q).rebinding = false → (t.port q).resp = (s.port q).resp ++
          (if q = p.val ∧ bit c 57 = false then [responseWord .ok 8 ch 0] else []) ++
          ((sortBy BWaiter.pos (waits.filter now)).filter (fun y => y.pos == q)).map (fun y => responseWord .ok y.top ch value)) ∧
        t.out.pm = .release s.rampLog 0 :: (if x.prewarned then [] else [.prewarn ch]) ++ s.out.pm ∧
        (∀ v, t.word v = (if l.contains v then
          { s.word v with drift := true, value := if (s.word v).waiters.isEmpty then (s.word v).base else (s.word v).value }
          else s.word v)) ∧
        (s.shadow.driftLog.length + l.length ≤ 64 → t.shadow.driftLog = s.shadow.driftLog ++ l.map (fun v =>
          { word := BitVec.ofNat 16 v, value := (s.word v).value, base := (s.word v).base, waited := !(s.word v).waiters.isEmpty })) ∧
        t.mem = s.mem ∧ t.link = s.link ∧ t.tt.flights = s.tt.flights) ∧
 (∀ (s : State) (p : Pos) (w : BitVec 60) (g : Group) (r : FoldRec) (j : Nat) (i : FoldInput), s.Sound → s.Live → s.NoFence →
    let c := ttCommand 8 w
    let ch := bits c 0 6
    let x := s.chan ch
    s.portCheck p c = none → (s.port p).credits ≠ 0 →
    (∀ f ∈ s.tt.flights, f.fromPort (BitVec.ofNat 25 (s.rig p)) = false) → s.portHeld p = false →
    s.channelRefusal ch p = none → s.group x.group = some g → x.arrived.contains p.val = false →
    (∀ n, x.lastOf p = .inPhase n → x.releasedTo p n = true) → x.arrived.length + 1 = g.locals.length → g.folds ≠ [] →
    s.hosted g = [] → s.nextNode g none = some (r, j, i) → x.sentUp = false → (∀ q ∈ x.arrived ++ [p.val], s.stands q = true) →
      ∃ t, exec (.arrive p w) s = .next t ∧ (t.chan ch).arrived = x.arrived ++ [p.val] ∧ (t.chan ch).phase = x.phase ∧
        (t.chan ch).sentUp = true ∧
        t.link = (s.barrierTo (uniq ([s.hostOf r] ++ s.standbysOf r)) 3 ch (min (x.arrived.length + 1) 0xFFFFF) x.phase
          (x.trim || bit c 58)).link ∧
        t.out = s.out ∧ t.mem = s.mem ∧ t.tt.words = s.tt.words)

/-- `SyncCommandsTakeEffect` (R145, R151, R153, R155, R156, Table 5-5): A command that passes the checks at its word has the effect of its
opcode on the word, and on its shadow, and is answered with the status and value given; a `DEC` or a `WAIT` that leaves a count at 0 serves
every wait for zero as well. Every other word, every channel and chip memory stay. (A `SIG` that serves waiters: the next statement.) Of two
commands that reach a word in one cycle, the one of the earlier class takes effect first, `INIT`, `CLAIM`, `RELEASE` and `TEST` before
`WAIT`, that before `SIG`, and that before `DEC`; in one class, that of the lower rig index. The order in which the row names them does not
matter. A `CLAIM` of index 0x3FF takes the lowest unclaimed word of its cluster, whose index it answers, and `NO_RESOURCE` where there is
none; with a nonzero operand it is `BAD_DESCRIPTOR`. Which of two failed checks answers, and what RELEASE keeps, is read by inference (log
67, DEDUCED). -/
def Obligations.SyncCommandsTakeEffect : Prop :=
 (∀ (s : State) (word : BitVec 16) (r : BitVec 25 × Bool) (f : Flight), s.Sound → s.NoFence → wordIndex word.toNat < 768 →
    s.heldClusters.contains (wordCluster word.toNat) = false →
    s.tt.flights.find? (fun f => f.goesTo word.toNat && f.issuer == r.1 && f.isCompletion == r.2) = some f →
    wordCheck word.toNat (s.word word.toNat) f = none →
    let w := word.toNat
    let x := s.word w
    let c := f.cmd
    let n := cOperand c
    let effect : SyncWord → Shadow → CStatus → Nat → List Waiter → Prop := fun y sh st v served =>
      ∃ t, exec (.syncWordCycle word ⟨[r], []⟩) s = .next t ∧ t.word w = y ∧ (∀ u, u ≠ w → t.word u = s.word u) ∧
        t.shadowOf w = sh ∧ (∀ u, u ≠ w → t.shadowOf u = s.shadowOf u) ∧
        t.ports = (served.foldl (fun a q => a.answerWait w q .ok 0) (s.answerFlight w f st v)).ports ∧
        t.tt.flights = s.tt.flights.erase f ∧ t.tt.chans = s.tt.chans ∧ t.mem = s.mem ∧ t.led = s.led ∧ t.link = (s.answerFlight w f st v).link
    let queued : SyncWord → Prop := fun y =>
      ∃ t, exec (.syncWordCycle word ⟨[r], []⟩) s = .next t ∧ t.word w = y ∧ (∀ u, u ≠ w → t.word u = s.word u) ∧ t.ports = s.ports ∧
        t.tt.flights = s.tt.flights.erase f ∧ t.tt.chans = s.tt.chans ∧ t.mem = s.mem
    let waiter : Waiter := { pos := r.1.toNat % 1024, operand := n, tmo := cTmo c }
    let signalled := (s.shadowOf w).signalled f
    let reached := (s.shadowOf w).reached (cTop c) false
    let cleared := (s.shadowOf w).reached (cTop c) true
    let less : SyncWord := { x with value := x.value - n, drain := if x.value = n then [] else x.drain }
    let zero : List Waiter := if x.value = n then x.drain else []
    (cTop c = 1 → x.mode = .flag → x.queue = [] →
      (x.value ≠ 1 → effect { x with value := 1 } signalled .ok 1 []) ∧ (x.value = 1 → effect { x with ovf := true } signalled .overfill 1 [])) ∧
    (cTop c = 1 → x.mode = .count → x.waiters = [] →
      (x.value + n ≤ 1048575 → effect { x with value := x.value + n } signalled .ok (x.value + n) []) ∧
      (1048575 < x.value + n → effect { x with value := 1048575, ovf := true } signalled .overfill 1048575 [])) ∧
    (cTop c = 2 → x.mode = .flag → (x.value = 1 → effect { x with value := 0 } reached .ok 0 []) ∧
      (x.value ≠ 1 → queued { x with queue := x.queue ++ [waiter] })) ∧
    (cTop c = 2 → x.mode = .count → n = 0 → (x.value = 0 → effect x reached .ok 0 []) ∧ (x.value ≠ 0 → queued { x with drain := x.drain ++ [waiter] })) ∧
    (cTop c = 2 → x.mode = .count → n ≠ 0 →
      (x.queue = [] → n ≤ x.value → effect less reached .ok (x.value - n) zero) ∧
      (x.queue ≠ [] ∨ x.value < n → queued { x with queue := x.queue ++ [waiter] })) ∧
    (cTop c = 3 → (x.value < n → effect { x with udf := true } reached .underflowSync x.value []) ∧
      (n ≤ x.value → effect less reached .ok (x.value - n) zero)) ∧
    (cTop c = 4 → effect x (s.shadowOf w) .ok x.value []) ∧
    (cTop c = 5 → (x.waiters ≠ [] → effect x reached .badContext x.value []) ∧
      (x.waiters = [] → effect { x with
          mode := if bit c 57 then .count else .flag, own := .owned, ovf := false, udf := false, drift := false, trimEn := bit c 58, base := n, value := n }
        cleared .ok n [])) ∧
    (cTop c = 6 → (x.own = .unclaimed → effect { x with own := .owned, owner := r.1.toNat % 16 } cleared .ok (wordIndex w) []) ∧
      (x.own ≠ .unclaimed → effect x reached .notOwner x.value [])) ∧
    (cTop c = 7 → (x.waiters ≠ [] → effect x reached .badContext x.value []) ∧
      (x.waiters = [] → effect { x with
        mode := .flag, own := .unclaimed, value := 0, ovf := false, udf := false, drift := false, trimEn := false } reached .ok 0 []))) ∧
 (∀ (s : State) (word : BitVec 16) (r q : BitVec 25 × Bool) (f g : Flight), s.NoFence → wordIndex word.toNat < 768 →
    s.heldClusters.contains (wordCluster word.toNat) = false → r ≠ q →
    s.tt.flights.find? (fun x => x.goesTo word.toNat && x.issuer == r.1 && x.isCompletion == r.2) = some f →
    s.tt.flights.find? (fun x => x.goesTo word.toNat && x.issuer == q.1 && x.isCompletion == q.2) = some g →
    let class_ : Flight → Nat := fun x => if cTop x.cmd = 3 then 3 else if cTop x.cmd = 1 then 2 else if cTop x.cmd = 2 then 1 else 0
    (class_ f < class_ g ∨ (class_ f = class_ g ∧ r.1.toNat < q.1.toNat)) →
      ∃ u t, exec (.syncWordCycle word ⟨[r], []⟩) s = .next u ∧ exec (.syncWordCycle word ⟨[q], []⟩) u = .next t ∧
        exec (.syncWordCycle word ⟨[r, q], []⟩) s = .next t ∧ exec (.syncWordCycle word ⟨[q, r], []⟩) s = .next t) ∧
 (∀ (s : State) (word : BitVec 16) (r : BitVec 25 × Bool) (f : Flight), s.Sound → s.NoFence → wordIndex word.toNat = 0x3FF →
    s.heldClusters.contains (wordCluster word.toNat) = false →
    s.tt.flights.find? (fun f => f.goesTo word.toNat && f.issuer == r.1 && f.isCompletion == r.2) = some f →
    let c := wordCluster word.toNat
    let refused : CStatus → Prop := fun st => ∃ t, exec (.syncWordCycle word ⟨[r], []⟩) s = .next t ∧ t.tt.words = s.tt.words ∧
      t.ports = (s.answerFlight word.toNat f st 0).ports ∧ t.tt.flights = s.tt.flights.erase f ∧ t.tt.chans = s.tt.chans ∧ t.mem = s.mem
    (cOperand f.cmd ≠ 0 → refused .badDescriptor) ∧
    (cOperand f.cmd = 0 → (∀ i, i < 768 → (s.word (c * 1024 + i)).own ≠ .unclaimed) → refused .noResource) ∧
    (∀ i, cOperand f.cmd = 0 → i < 768 → (s.word (c * 1024 + i)).own = .unclaimed → (∀ j, j < i → (s.word (c * 1024 + j)).own ≠ .unclaimed) →
      ∃ t, exec (.syncWordCycle word ⟨[r], []⟩) s = .next t ∧
        t.word (c * 1024 + i) = { s.word (c * 1024 + i) with own := .owned, owner := r.1.toNat % 16 } ∧
        (∀ u, u ≠ c * 1024 + i → t.word u = s.word u) ∧ t.shadowOf (c * 1024 + i) = (s.shadowOf (c * 1024 + i)).reached 6 true ∧
        t.ports = (s.answerFlight word.toNat f .ok i).ports ∧ t.tt.flights = s.tt.flights.erase f ∧ t.tt.chans = s.tt.chans ∧ t.mem = s.mem))

/-- `SignalsServeWaiters` (R151, R153, R162, R403): A `SIG` to a flag with waiters releases the head waiter with `OK`, and the flag stays 0; a
`SIG` to a count serves the queue from its head while the count covers it, each waiter with `OK` and what is left, then the waits for zero
when nothing is left, and then the signaller is answered. A command that fails a check at its word leaves the word as it is, and is answered
with that status; a cluster that waits for a fill, or that a forced test stalls, takes no command. -/
def Obligations.SignalsServeWaiters : Prop :=
  ∀ (s : State) (word : BitVec 16) (r : BitVec 25 × Bool) (f : Flight), s.Sound → s.NoFence → wordIndex word.toNat < 768 →
    let w := word.toNat
    let x := s.word w
    (s.heldClusters.contains (wordCluster w) = true → ∀ l, exec (.syncWordCycle word ⟨l, []⟩) s = .next s) ∧
    (s.heldClusters.contains (wordCluster w) = false →
      s.tt.flights.find? (fun f => f.goesTo w && f.issuer == r.1 && f.isCompletion == r.2) = some f →
      (∀ st, wordCheck w x f = some st → ∃ t, exec (.syncWordCycle word ⟨[r], []⟩) s = .next t ∧ t.tt.words = s.tt.words ∧
        t.ports = (s.answerFlight w f st x.value).ports ∧ t.tt.flights = s.tt.flights.erase f ∧ t.mem = s.mem) ∧
      (wordCheck w x f = none → cTop f.cmd = 1 → x.mode = .flag → ∀ q l, x.queue = q :: l → ∃ t, exec (.syncWordCycle word ⟨[r], []⟩) s = .next t ∧
        t.word w = { x with queue := l } ∧ (∀ u, u ≠ w → t.word u = s.word u) ∧
        t.ports = ((s.answerWait w q .ok 0).answerFlight w f .ok x.value).ports ∧ t.tt.chans = s.tt.chans ∧ t.mem = s.mem) ∧
      (wordCheck w x f = none → cTop f.cmd = 1 → x.mode = .count → ∃ t k, exec (.syncWordCycle word ⟨[r], []⟩) s = .next t ∧
        (let y := t.word w
         let full := decide (1048575 < x.value + cOperand f.cmd)
         let sum := min (x.value + cOperand f.cmd) 1048575
         let step : State × Nat → Waiter → State × Nat := fun a q => (a.1.answerWait w q .ok (a.2 - q.operand), a.2 - q.operand)
         y.queue = x.queue.drop k ∧ y.value + ((x.queue.take k).map (·.operand)).sum = sum ∧
          (∀ q, y.queue.head? = some q → y.value < q.operand) ∧ y.drain = (if y.value = 0 then [] else x.drain) ∧
          y.mode = x.mode ∧ y.own = x.own ∧ y.owner = x.owner ∧ y.base = x.base ∧ y.udf = x.udf ∧ y.drift = x.drift ∧ y.trimEn = x.trimEn ∧
          y.ovf = (x.ovf || full) ∧
          t.ports = (((if y.value = 0 then x.drain else []).foldl (fun a q => a.answerWait w q .ok 0)
            ((x.queue.take k).foldl step (s, sum)).1).answerFlight w f (if full then .overfill else .ok) y.value).ports ∧
          t.link = (s.answerFlight w f (if full then .overfill else .ok) y.value).link) ∧
        (∀ u, u ≠ w → t.word u = s.word u) ∧ t.tt.chans = s.tt.chans ∧ t.mem = s.mem ∧ t.led = s.led))

/-- `WaitsAndReleases` (R153, R165, R169, R410, R413): A wait with a timeout that expires leaves its word or channel with `TIMEOUT`, and the
word, the arrivals and every other wait stay; a release step answers the waiters of its clusters with `OK`, in the order of their positions,
and a fleet wait that ends decides the release and takes its first step. Without such a wait or release nothing changes. Under a fleet wait
the row of its end decides the release (log 9). -/
def Obligations.WaitsAndReleases : Prop :=
  ∀ (s : State) (word : BitVec 16) (ch : Fin 64) (p : Pos) (k : Fin 8), s.Sound →
    let w := word.toNat
    let x := s.word w
    let y := s.chan ch
    let timed := y.waits.filter (fun q => decide (q.pos = p.val) && decide (q.tmo ≠ 0))
    let answered : List BWaiter → State := fun l =>
      (sortBy BWaiter.pos l).foldl (fun a q => (a.endWait q.pos true ch).answer q.pos .ok q.top ch (y.lastDrift.getD 0)) s
    let now : Nat → Nat → Nat → BWaiter → Bool := fun phase steps i q => decide (q.phase = phase) && decide (stepOf steps q.pos = i)
    (x.waiters.find? (fun q => q.pos == p.val && q.tmo != 0) = none → exec (.waitTimeout word p) s = .next s) ∧
    (∀ q, x.waiters.find? (fun q => q.pos == p.val && q.tmo != 0) = some q → ∃ t, exec (.waitTimeout word p) s = .next t ∧
      t.word w = { x with queue := x.queue.erase q, drain := x.drain.erase q } ∧ (∀ u, u ≠ w → t.word u = s.word u) ∧
      t.ports = ((s.endWait p false w).answer p .timeout 2 w x.value).ports ∧ t.tt.chans = s.tt.chans ∧ t = { s with tt := t.tt, ports := t.ports }) ∧
    (timed[k.val]? = none → exec (.barrierWaitTimeout ch ⟨p, k⟩) s = .next s) ∧
    (∀ q, timed[k.val]? = some q → ∃ t, exec (.barrierWaitTimeout ch ⟨p, k⟩) s = .next t ∧ t.chan ch = { y with waits := y.waits.erase q } ∧
      (∀ i, i ≠ ch.val → t.chan i = s.chan i) ∧ t.tt.words = s.tt.words ∧ t = { s with tt := t.tt, ports := t.ports } ∧
      t.ports = ((s.endWait p true ch).answer p .timeout q.top ch 0).ports) ∧
    (y.rel = none ∨ y.rel.any (fun r => r.fleet.isSome) = true → exec (.releaseStep ch) s = .next s) ∧
    (∀ r, y.rel = some r → r.fleet = none → ∃ t, exec (.releaseStep ch) s = .next t ∧
      t.chan ch = { y with
        rel := if r.next + 1 < r.steps then some { r with next := r.next + 1 } else none
        waits := y.waits.filter (fun q => !now r.phase r.steps r.next q) } ∧
      t.ports = (answered (y.waits.filter (now r.phase r.steps r.next))).ports ∧
      (∀ i, i ≠ ch.val → t.chan i = s.chan i) ∧ t.tt.words = s.tt.words ∧ t = { s with tt := t.tt, ports := t.ports }) ∧
    ((∀ r, y.rel = some r → r.fleet = none) → exec (.fleetWaitExpiry ch) s = .next s) ∧
    (∀ r d, y.rel = some r → r.fleet = some d → ∃ t, exec (.fleetWaitExpiry ch) s = .next t ∧ t.out = { s.out with pm := .release s.rampLog d :: s.out.pm } ∧
      t.chan ch = { y with
        rel := if 1 < 2 ^ s.rampLog then some { phase := r.phase, steps := 2 ^ s.rampLog, next := 1, fleet := none } else none
        waits := y.waits.filter (fun q => !now r.phase (2 ^ s.rampLog) 0 q) } ∧
      t.ports = (answered (y.waits.filter (now r.phase (2 ^ s.rampLog) 0))).ports ∧
      (∀ i, i ≠ ch.val → t.chan i = s.chan i) ∧ t.tt.words = s.tt.words ∧ t = { s with tt := t.tt, ports := t.ports, out := t.out })

/-- `MessagesForOtherChipsGoOn` (R171, R204, R300, R301, R305, R309, R345, R353): A message row takes the oldest message of its channel and
kind; one for another chip goes on along its route, and frees its buffer with its frame. With no message waiting the row has no effect, nor
has one of another channel than VC0 while a forced test of a chip root stalls the chip (R403). That a row whose message is not there has no
effect is log 9. -/
def Obligations.MessagesForOtherChipsGoOn : Prop :=
  ∀ (s : State) (l : PortNo) (lost : Bool),
    ∀ r ∈ ([(Instr.sigMessage l, 1, fun m => decide (mKind m = 1), mDst), (.sigAck l, 1, fun m => decide (mKind m = 2), mDst),
      (.barArrive l, 1, fun m => decide (mKind m = 3), mDst), (.barRelease l, 1, fun m => decide (mKind m = 4), mDst),
      (.barOrphan ⟨l, lost⟩, 1, fun m => decide (mKind m = 5), mDst), (.barPrewarn l, 1, fun m => decide (mKind m = 6), mDst),
      (.arrival (.offDie l), 4, fun _ => true, nDst), (.heartbeat l, 0, fun m => ctType m == ctHeartbeat, ctDst),
      (.takeover l, 0, fun m => ctType m == ctTakeover, ctDst),
      (.faultReport l, 0, fun m => ctType m == ctFaultReport && decide (ctDst m ≠ everyChip), ctDst),
      (.feedQuery l, 0, fun m => ctType m == ctRelay && mrKind m == 1, ctDst), (.feedReply l, 0, fun m => ctType m == ctRelay && mrKind m == 2, ctDst),
      (.wordReadRelay l, 0, fun m => ctType m == ctRelay && mrKind m == 3, ctDst),
      (.wordReadReply l, 0, fun m => ctType m == ctRelay && mrKind m == 4, ctDst)] : List (Instr × Nat × (Msg → Bool) × (Msg → Nat))),
      (s.headMsg l r.2.1 = none ∨ (r.2.1 ≠ 0 ∧ s.rootStalled = true) → exec r.1 s = .next s) ∧
      (∀ m, s.headMsg l r.2.1 = some m → (r.2.1 = 0 ∨ s.rootStalled = false) → r.2.2.1 m = true → (s.topo.rigValid = false ∨ s.topo.chip ≠ r.2.2.2 m) →
        exec r.1 s = .next ((s.modLnk l (Link.dropMsg r.2.1)).sendMsg r.2.1 (r.2.2.2 m) m))

/-- `SyncMessagesTakeEffect` (R167, R170 to R172, R394, R165, R170, R308, R169, R175, R176, R410 to R413): At its chip a `SIG` flies on to its
word (log 57), a `SIG_ACK` answers the signal that it acknowledges, a pre-warn marks the phase, and a break releases every waiter, with
`FAULT` where it comes from a lost count, which the row says (log 62), and else with `ORPHAN`. A message that is not well-formed here, or of
a channel that is not armed, is discarded and logged (log 21 for an unbound one). A `BAR_ARRIVE` is noted at the input that it fills (log 56
says which, DEDUCED); a count that does not complete its node waits there; at the root it may reach the share at which the pre-warn goes
out, once in a phase. A complete node that is not the root sends its sum up, to the host of the next node and to its standby. The count that
completes the root, and a `BAR_RELEASE` of the phase on another chip, end it there: the next phase begins, without arrivals. The root sends
the release to the chips below, behind the pre-warn where that is still due, and another chip passes it on to its own. In a trim phase every
drifted word is marked and, where nobody waits on it, put back to its baseline; the value that the waiters get is the count that the release
carries, which at a root above other chips rests on free values (log 20). Without a fleet wait the first step of the release is taken at
once. Read by inference: whose acknowledgement a SIG_ACK is (log 54) and which input a BAR_ARRIVE fills (logs 22 and 56). -/
def Obligations.SyncMessagesTakeEffect : Prop :=
 (∀ (s : State) (l : PortNo) (lost : Bool) (m : Msg), s.Sound → s.headMsg l 1 = some m → s.topo.rigValid = true → s.topo.chip = mDst m →
    s.rootStalled = false →
    let ch := mTarget m % 64
    let x := s.chan ch
    let rest : State → Prop := fun t => t = { s with
      tt := t.tt, ports := t.ports, shadow := t.shadow, counters := t.counters, link := t.link, out := t.out, free := t.free }
    (mKind m = 1 → wordIndex (mTarget m) < 768 → ∃ t, exec (.sigMessage l) s = .next t ∧ t = { s with tt := t.tt, link := t.link } ∧
      t.tt = { s.tt with flights := s.tt.flights ++ [{
        cmd := fields 64 [(60, 4, 1), (59, 1, flag (mAckreq m)), (32, 20, mOperand m), (0, 16, mTarget m)]
        issuer := BitVec.ofNat 25 (mOrigin m), via := .offDie (mOrigin m / 1024) (BitVec.ofNat 8 (mTag m)) (mAckreq m) }] } ∧
      t.link.recv1 = s.link.recv1 + 1) ∧
    (mKind m = 1 → 768 ≤ wordIndex (mTarget m) → ∃ t, exec (.sigMessage l) s = .next t ∧ t.tt = s.tt ∧ t.counter cSyncErr = sat32 (s.counter cSyncErr + 1) ∧
      t.ports = s.ports ∧ t.mem = s.mem) ∧
    (∀ f st, mKind m = 2 → s.NoFence → s.tt.flights.find? (fun f => decide (f.via = .remote (BitVec.ofNat 8 (mTag m))) && decide (f.issuer.toNat = mOrigin m)) = some f →
      statusOf (mStatus m) = some st → cResponds f.cmd = true →
      ∃ t, exec (.sigAck l) s = .next t ∧ t.tt = { s.tt with flights := s.tt.flights.erase f } ∧
        t.ports = (s.answer (mOrigin m % 1024) st 1 (cTarget f.cmd) (mOperand m)).ports ∧
        t = { s with tt := t.tt, ports := t.ports, link := t.link }) ∧
    (x.st ≠ .armed → ∀ r ∈ [(Instr.barArrive l, 3), (.barRelease l, 4), (.barOrphan ⟨l, lost⟩, 5), (.barPrewarn l, 6)], mKind m = r.2 →
      ∃ t, exec r.1 s = .next t ∧ t.tt = s.tt ∧ t.ports = s.ports ∧ t.counter cSyncErr = sat32 (s.counter cSyncErr + 1) ∧ rest t) ∧
    (∀ g, x.st = .armed → s.group x.group = some g →
      (mKind m = 4 → x.phase % 2 ≠ mPhase m → ∃ t, exec (.barRelease l) s = .next t ∧ t.tt = s.tt ∧ t.ports = s.ports ∧ rest t) ∧
      (mKind m = 5 → ∃ t, exec (.barOrphan ⟨l, lost⟩) s = .next t ∧ t.chan ch = { x with st := .broken, rel := none, waits := [] } ∧
        (∀ k, k ≠ ch → t.chan k = s.chan k) ∧ t.tt.words = s.tt.words ∧
        t.ports = ((sortBy BWaiter.pos x.waits).foldl (fun a q =>
          (a.endWait q.pos true ch).answer q.pos (if lost then .fault else .orphan) q.top ch 0) s).ports ∧ rest t) ∧
      (mKind m = 6 → x.phase % 2 = mPhase m → x.prewarned = false → ∃ t, exec (.barPrewarn l) s = .next t ∧ t.chan ch = { x with prewarned := true } ∧
        (∀ k, k ≠ ch → t.chan k = s.chan k) ∧ t.out.pm = .prewarn ch :: s.out.pm ∧ t.ports = s.ports ∧ rest t))) ∧
 (∀ (s : State) (l : PortNo) (m : Msg) (g : Group) (r : FoldRec) (j : Nat), s.Sound → s.headMsg l 1 = some m → s.topo.rigValid = true →
    s.topo.chip = mDst m → s.rootStalled = false → mKind m = 3 →
    let ch := mTarget m % 64
    let x := s.chan ch
    x.st = .armed → s.group x.group = some g → x.phase % 2 = mPhase m → s.hostOf r = s.topo.chip →
    s.arriveInput ch g l (mOrigin m / 1024) = some (r, j) →
    let y := x.addCount r j (mOperand m) (mTrim m)
    let u := (s.modLnk l (Link.dropMsg 1)).countRecv 1
    let due := s.hasRoot g && !x.prewarned && decide (prewarnAt (s.policy 0x40) g.nmemb ≤ (s.setChan ch y).rootCount ch g)
    let same : State → Prop := fun t => (∀ k, k ≠ ch → t.chan k = s.chan k) ∧ t.tt.words = s.tt.words ∧ t.ports = s.ports ∧ t.mem = s.mem ∧
      t.ops = s.ops ∧ t.led = s.led
    (y.nodeTotal r = none → ∃ t, exec (.barArrive l) s = .next t ∧ t.chan ch = (if due then { y with prewarned := true } else y) ∧ same t ∧
      t.link = (if due then u.barrierTo (s.childChips g) 6 ch 0 x.phase false else u).link ∧
      t.out = (if due then { s.out with pm := .prewarn ch :: s.out.pm } else s.out)) ∧
    (∀ n, y.nodeTotal r = some n → r.parent ≠ 0xFFFF → s.hasRoot g = false →
      (∀ q k i, s.nextNode g (some r) = some (q, k, i) → s.hostOf q ≠ s.topo.chip → ∃ t, exec (.barArrive l) s = .next t ∧ t.chan ch = y ∧ same t ∧
        t.link = (u.barrierTo (uniq ([s.hostOf q] ++ s.standbysOf q)) 3 ch (min n 0xFFFFF) x.phase y.trim).link ∧ t.out = s.out) ∧
      (s.nextNode g (some r) = none → ∃ t, exec (.barArrive l) s = .next t ∧ t.chan ch = y ∧ same t ∧
        t.link = (u.barrierTo [r.parent] 3 ch (min n 0xFFFFF) x.phase y.trim).link ∧ t.out = s.out))) ∧
 (∀ (s : State) (l : PortNo) (m : Msg) (g : Group) (i : Instr), s.Sound → s.headMsg l 1 = some m → s.topo.rigValid = true →
    s.topo.chip = mDst m → s.rootStalled = false →
    let ch := mTarget m % 64
    let x := s.chan ch
    x.st = .armed → s.group x.group = some g → x.phase % 2 = mPhase m →
    let ends := i = .barArrive l ∧ mKind m = 3 ∧ ∃ r j, s.hostOf r = s.topo.chip ∧ s.arriveInput ch g l (mOrigin m / 1024) = some (r, j) ∧
      r.parent = 0xFFFF ∧ s.hasRoot g = true ∧ ((x.addCount r j (mOperand m) (mTrim m)).nodeTotal r).isSome = true
    let down := i = .barRelease l ∧ mKind m = 4
    let u := (s.modLnk l (Link.dropMsg 1)).countRecv 1
    let trim : Bool := if mKind m = 4 then mTrim m else (x.trim || mTrim m)
    let words := if trim then s.driftedWords g else []
    let steps := 2 ^ s.rampLog
    let now : BWaiter → Bool := fun q => decide (q.phase = x.phase) && decide (stepOf steps q.pos = 0)
    (ends ∨ down) → ∃ t v, exec i s = .next t ∧
      ((mKind m = 4 ∨ trim = false) → v = if trim then mOperand m else 0) ∧
      (t.chan ch).st = .armed ∧ (t.chan ch).phase = x.phase + 1 ∧ (t.chan ch).arrived = [] ∧ (t.chan ch).trim = false ∧ (t.chan ch).nodes = [] ∧
      (t.chan ch).sentUp = false ∧ (t.chan ch).prewarned = false ∧ (t.chan ch).lastDrift = (if trim then some v else none) ∧
      (t.chan ch).last = x.last ∧
      (s.fleetSkew ch ≠ 0 → (t.chan ch).waits = x.waits ∧ t.ports = s.ports ∧
        (t.chan ch).rel = some { phase := x.phase, steps := 1, next := 0, fleet := some (s.fleetSkew ch) } ∧
        t.out.pm = (if x.prewarned then [] else [.prewarn ch]) ++ s.out.pm) ∧
      (s.fleetSkew ch = 0 → (t.chan ch).waits = x.waits.filter (fun q => !now q) ∧
        (t.chan ch).rel = (if steps = 1 then none else some { phase := x.phase, steps := steps, next := 1, fleet := none }) ∧
        t.ports = ((sortBy BWaiter.pos (x.waits.filter now)).foldl (fun a q => (a.endWait q.pos true ch).answer q.pos .ok q.top ch v) s).ports ∧
        t.out.pm = .release s.rampLog 0 :: (if x.prewarned then [] else [.prewarn ch]) ++ s.out.pm) ∧
      (trim = false → t.link = (if mKind m = 4 then u.barrierTo ((s.childChips g).filter (fun c => c ≠ mOrigin m / 1024)) 4 ch (mOperand m) x.phase false
        else (if x.prewarned then u else u.barrierTo (s.childChips g) 6 ch 0 x.phase false).barrierTo (s.childChips g) 4 ch 0 x.phase false).link) ∧
      (∀ w, t.word w = (if words.contains w then
        { s.word w with drift := true, value := if (s.word w).waiters.isEmpty then (s.word w).base else (s.word w).value } else s.word w)) ∧
      (s.shadow.driftLog.length + words.length ≤ 64 → t.shadow.driftLog = s.shadow.driftLog ++ words.map (fun w =>
        { word := BitVec.ofNat 16 w, value := (s.word w).value, base := (s.word w).base, waited := !(s.word w).waiters.isEmpty })) ∧
      (∀ k, k ≠ ch → t.chan k = s.chan k) ∧ t.mem = s.mem ∧ t.ops = s.ops ∧ t.led = s.led)

/-- `EndpointResetsAndRebinds` (R160, R161, R167, R274, R275, R385, R421): A reset puts the port back to its reset values, orphans the words
that its position owns, whose other waiters get `ORPHAN`, and breaks the armed channels of its groups, whose other waiters get it too; its
own waits are withdrawn without an answer. In the stop of a cinch the words and channels wait for its end. The end of a rebind delivers the
responses that were held. After `OFF` a reset has no effect. What a reset during the stop of a cinch does at once, and what at the release,
is log 26. -/
def Obligations.EndpointResetsAndRebinds : Prop :=
  ∀ (s : State) (p : Pos), s.Sound →
    (s.power.st = .off → exec (.endpointReset p) s = .next s) ∧
    (s.power.st ≠ .off → exec (.endpointReset p) s = .next (s.wake.resetEndpoint p 5)) ∧
    (let u := ((if s.mh.ready then s.postReset 5 5 p 0x0180 else s).keepImage p).resetPort p
     u.port p = Port.reset ∧ (u.stopped = false → s.resetEndpoint p 5 = u.resetTellTale p) ∧
      (u.stopped = true → s.resetEndpoint p 5 = { u with inp := { u.inp with deferred := uniq (u.inp.deferred ++ [p.val]) } })) ∧
    (let t := s.resetTellTale p
     let mine : Nat → Bool := fun k => decide ((s.chan k).st = .armed) && (match s.group (s.chan k).group with | some g => g.has p | none => false)
     (∀ k, k < 64 → mine k = true → t.chan k = { s.chan k with st := .broken, rel := none, waits := [] }) ∧
      (∀ k, k < 64 → mine k = false → t.chan k = { s.chan k with waits := (s.chan k).waits.filter (fun w => decide (w.pos ≠ p.val)) }) ∧
      (∀ k, k < 64 → mine k = true → ∀ q ∈ (s.chan k).waits, q.pos ≠ p.val → (s.port q.pos).rebinding = false →
        responseWord .orphan q.top k 0 ∈ (t.port q.pos).resp) ∧
      (∀ w, w ∈ s.wordsOf p → t.word w = { s.word w with own := .orphaned, queue := [], drain := [] } ∧
        (∀ q ∈ (s.word w).waiters, q.pos ≠ p.val → (s.port q.pos).rebinding = false →
          responseWord .orphan 2 w (s.word w).value ∈ (t.port q.pos).resp)) ∧
      (∀ w, w ∉ s.wordsOf p → t.word w = { s.word w with
        queue := (s.word w).queue.filter (fun q => decide (q.pos ≠ p.val)), drain := (s.word w).drain.filter (fun q => decide (q.pos ≠ p.val)) }) ∧
      t.port p = s.port p ∧ t.mem = s.mem ∧ t.led = s.led ∧ t.ops = s.ops) ∧
    (s.mhActs = true → ∃ t, exec (.endpointCoreFailed p true) s = .next t ∧ t.port p = { s.port p with rebinding := true } ∧
      (∀ q, q ≠ p.val → t.port q = s.port q) ∧ t.tt = s.tt ∧ t.mem = s.mem ∧ t.led = s.led ∧ t.ops = s.ops ∧
      t.win = (s.postFault 0x50 8 p 0 0xFFFF 0).win) ∧
    (s.mhActs = true → exec (.endpointCoreFailed p false) s = .next ((s.postFault 0x51 8 p 0 0xFFFF 0).resetEndpoint p 4)) ∧
    (∀ core, s.mhActs = false → exec (.endpointCoreFailed p core) s = .next s) ∧
    ((s.port p).rebinding = true → s.units.paused.contains (p.val / 16) = false → exec (.rebindDone p) s = .next (s.setPort p { s.port p with
      rebinding := false, resp := (s.port p).resp ++ (s.port p).heldResp, heldResp := [] })) ∧
    ((s.port p).rebinding = false ∨ s.units.paused.contains (p.val / 16) = true → exec (.rebindDone p) s = .next s)

/-- `TreeFlitsAreFolded` (R30 to R36, R86, R87, R392, R429, R30, R31, R33, R38, R32, R36, R39): A member's contribution that reaches its cluster
node is noted once, with the reef bit of a folded cluster. In a group of one chip nothing leaves before the last member; the last one gives
the root the folded contributions, and what the root says is on its way down; a fault mark or fields that differ end the collective. A
cluster that waits for a fill or that a forced test stalls, or no such contribution, changes nothing. The reef bit of a lost splice bundle
is log 73's (a design choice). `cfold` of nothing is absent and of one value is that value; of up to four it is the left fold, lowest child
first; of more it is the fold of the results of its groups of four. A contribution without values is as if it were not there. The tree's
value of some contributions depends on their rig indices alone, not on their order; at each level it is the fold, by ascending child index,
of the values of the subtrees below, and one contribution passes through unchanged. How many flits a contribution takes is log 6 (the
model's choice). -/
def Obligations.TreeFlitsAreFolded : Prop :=
 (∀ (s : State) (ctx : Fin 4096) (epoch : Fin 65536) (p : Pos),
    (s.portHeld p = true ∨ s.coll ctx epoch = none → exec (.treeFlit ctx epoch (.onDie p)) s = .next s) ∧
    (∀ c m u g, s.portHeld p = false → s.coll ctx epoch = some c →
      c.members.find? (fun m => m.pos == p.val && m.stage == .sending) = some m → m.up = some u → s.group c.group = some g →
      let v := { u with reef := u.reef || s.clusterReefed p }
      let first := c.arrived.isEmpty && c.nodes.isEmpty && c.got.isEmpty && c.pass == 1
      let d := { c with
        members := sentMember p c.members
        defn := if first then u.defn else c.defn
        arrived := if c.arrived.any (fun a => a.1 == p.val) then c.arrived else c.arrived ++ [(p.val, v)] }
      let odd := u.clash || decide (u.defn ≠ d.defn)
      exec (.treeFlit ctx epoch (.onDie p)) s = .next ((s.setColl d).treeArrival ctx epoch g none v) ∧
      (g.folds = [] → odd = false → u.fault = false → g.locals.all (fun q => d.arrived.any (fun a => a.1 == q)) = false →
        exec (.treeFlit ctx epoch (.onDie p)) s = .next (s.setColl d)) ∧
      (g.folds = [] → odd = false → u.fault = false → g.locals.all (fun q => d.arrived.any (fun a => a.1 == q)) = true → g.locals ≠ [] →
        c.ended = none → c.sentUp.contains 0 = false →
        let x := shapeOf d.defn
        let f := foldUps x (passKind x d.asP1 d.pass) (sortBy (·.1) d.arrived)
        let splice := !s.units.spliceLost.isEmpty && s.crossesSplice g
        ∃ t e a, exec (.treeFlit ctx epoch (.onDie p)) s = .next t ∧ d.arrived.head? = some a ∧ t.coll ctx epoch = some e ∧
          (let y := joinUps (d.arrived.map (·.2)) f.1 f.2 a.2
           e.down = some (s.rootSays g.nmemb d { y with reef := y.reef || splice }).2) ∧ e.ended = e.down.bind downStatus ∧
          e.pass = d.pass + 1 ∧ e.arrived = [] ∧ e.members = d.members ∧
          t = { s with ops := { s.ops with colls := t.ops.colls }, ctxs := t.ctxs, mh := t.mh }) ∧
      (g.folds = [] → odd = true ∨ u.fault = true → c.ended = none →
        ∃ t e, exec (.treeFlit ctx epoch (.onDie p)) s = .next t ∧ t.coll ctx epoch = some e ∧
          e.ended = some (if odd then .badContext else .fault) ∧ e.down = some (.ended (if odd then .badContext else .fault)) ∧ e.members = d.members ∧
          t = { s with ops := { s.ops with colls := t.ops.colls }, ctxs := t.ctxs, mh := t.mh }))) ∧
 ((∀ (α : Type) (op : α → α → α × Tally) (a : α) (l : List α),
    let left (x : α) (r : List α) : α := r.foldl (fun y z => (op y z).1) x
    cfold op [] = (none, Tally.zero) ∧ cfold op [a] = (some a, Tally.zero) ∧
    (l.length ≤ 3 → (cfold op (a :: l)).1 = some (left a l)) ∧
    (4 < l.length → (cfold op l).1 = (cfold op ((List.range ((l.length + 3) / 4)).filterMap (fun b => match (l.drop (4 * b)).take 4 with
      | [] => none
      | x :: r => some (left x r)))).1)) ∧
  (∀ (x : Shape) (k : PassKind) (l : List (Nat × UpMsg)),
    foldUps x k l = foldUps x k (l.filter (fun m => m.2.vals.isSome)) ∧ foldInputs x k l = foldInputs x k (l.filter (fun m => m.2.vals.isSome)) ∧
    (gathers x = false → l.all (fun m => m.2.vals.isNone) = true → (foldUps x k l).1 = none ∧ (foldInputs x k l).1 = none))) ∧
 (∀ (k : Comb) (l : List (Nat × List Elem)), (l.map (·.1)).Nodup →
    (k.tree []).1 = none ∧ (∀ e, l = [e] → (k.tree l).1 = some e.2) ∧ (∀ l', l.Perm l' → k.tree l' = k.tree l) ∧
    (∀ j ∈ [(0, 4), (4, 9), (9, 10), (10, 14), (14, 19), (19, 25)], l ≠ [] → (∀ e ∈ l, ∀ e' ∈ l, e.1 >>> j.2 = e'.1 >>> j.2) →
      (k.tree l).1 = (k.fold ((sortBy id (uniq (l.map (fun e => e.1 >>> j.1)))).map (fun c =>
        ((k.tree (l.filter (fun e => e.1 >>> j.1 == c))).1).getD []))).1))

/-- `PartialsAndDownMessagesCountOnce` (R36, R44, R86, R290, R304, R308, R309, R87, R188, R310): The flits of a child's partial are taken off
the link that its input arrives on, at most as many as the message has left, and the partial counts once at its fold node and pass, when it
is whole or carries a mark. Flits of an epoch that has ended here or that a let-fly has reached (log 123, a design choice), of a pass or an
input that is over, or that come on the link of a node whose standby has taken over only free their buffers; what arrives elsewhere, or with
no flit of the pass received, changes nothing. How many flits a pass takes is log 6's (a design choice). The flits of a down message from
above are taken off the link it came on, at most as many as are missing; when it is whole it is relayed to the chips below and recorded, by
a chip that does not hold the root. Flits of an epoch that has ended, of a pass that is over, or that come from a primary whose standby has
taken over only free their buffers; on any other link nothing is taken. Then the port takes what is there for it. So it is for the counts of
a `ROUTE` and for everything else; how many flits a message takes is log 6's (a design choice). -/
def Obligations.PartialsAndDownMessagesCountOnce : Prop :=
 (∀ (s : State) (ctx : Fin 4096) (epoch : Fin 65536) (l : PortNo) (fnid : BitVec 21) (j : Fin 4) (u : UpMsg) (flown : Bool) (b : Binding) (g : Group)
      (r : FoldRec),
    s.binding ctx = some b → s.group b.group = some g → g.folds.find? (fun r => r.fnid == fnid) = some r →
    let i := Instr.treeFlit ctx epoch (.offDie l fnid j u flown)
    let all := flitOf b.group ctx epoch valuePhases
    let drop := s.takeFlits l 2 all (s.flitsOn l 2 all)
    let c0 := (s.coll ctx epoch).getD (Coll.fresh ctx epoch b.group u.defn)
    let c : Coll := if c0.arrived.isEmpty && c0.nodes.isEmpty && c0.got.isEmpty && c0.pass == 1 then { c0 with defn := u.defn } else c0
    let mine := flitOf c.group c.ctx c.epoch c.phases
    let part := (c.got.find? (fun x => x.fnid == r.fnid && x.input == j.val)).getD
      { fnid := r.fnid, input := j.val, count := 0, reef := (s.lnk l).st == .reefed }
    let need := c.flits * c.phases.length
    let n := min (s.flitsOn l 2 mine) (need - part.count)
    let s1 := s.takeFlits l 2 mine n
    let mark := u.fault || u.clash || decide (u.defn ≠ c.defn)
    let v := { u with reef := u.reef || part.reef }
    (s.rootStalled = true → exec i s = .next s) ∧
    (s.formerPort r j ≠ some l.val → s.inputPort r j ≠ some l.val → exec i s = .next s) ∧
    (s.rootStalled = false → s.formerPort r j = some l.val → exec i s = .next drop) ∧
    (s.rootStalled = false → s.formerPort r j ≠ some l.val → s.inputPort r j = some l.val →
      (flown = true ∨ b.endedEpoch epoch = true → exec i s = .next drop) ∧
      (flown = false → b.endedEpoch epoch = false → s.hostOf r = s.topo.chip →
        (u.pass ≠ c.pass ∨ c.nodes.any (fun n => n.1 == fnid && n.2.1 == j.val) = true → exec i s = .next drop) ∧
        (u.pass = c.pass → c.nodes.any (fun n => n.1 == fnid && n.2.1 == j.val) = false →
          (n = 0 → exec i s = .next s) ∧
          (n ≠ 0 → part.count + n < need → mark = false → exec i s = .next (s1.setColl { c with
            got := { part with count := part.count + n } :: c.got.filter (fun x => !(x.fnid == r.fnid && x.input == j.val)) })) ∧
          (n ≠ 0 → need ≤ part.count + n ∨ mark = true →
            exec i s = .next ((s1.setColl { c with nodes := c.nodes ++ [(r.fnid, j.val, v)] }).treeArrival c.ctx c.epoch g (some r) v)))))) ∧
 (∀ (s : State) (ctx : Fin 4096) (epoch : Fin 65536) (p : Pos) (l : PortNo) (m : DownMsg) (b : Binding) (g : Group),
    s.binding ctx = some b → s.group b.group = some g → s.portStalled p = false → ((∃ x e, m = .counts x e) → s.stopped = false ∧ s.bankStalled = false) →
    let row : DownSource → Instr := fun src => match m with
      | .counts _ _ => .routeCountsResult ctx epoch p src
      | _ => .resultAtPort ctx epoch p src
    let becomes : State → Prop := fun t => exec (row (.offDie l m)) s = exec (row .onDie) t
    let all := flitOf b.group ctx epoch (5 :: valuePhases)
    let drop := s.takeFlits l 3 all (s.flitsOn l 3 all)
    (s.hasRoot g = true → becomes s) ∧
    (s.hasRoot g = false → (s.upPorts g).contains l.val = false →
      ((s.formerUpPorts g).contains l.val = true → becomes drop) ∧ ((s.formerUpPorts g).contains l.val = false → becomes s)) ∧
    (s.hasRoot g = false → (s.upPorts g).contains l.val = true →
      (b.endedEpoch epoch = true → becomes drop) ∧
      (b.endedEpoch epoch = false → s.coll ctx epoch = none →
        (s.flitsOn l 3 all = 0 → becomes s) ∧ (s.flitsOn l 3 all ≠ 0 → becomes (drop.deliverDown ctx epoch g b.group m))) ∧
      (b.endedEpoch epoch = false → ∀ c, s.coll ctx epoch = some c →
        let early : BitVec 50 → Bool := fun f => flitOf c.group c.ctx c.epoch valuePhases f && c.phases.all (fun ph => decide (bits f 12 3 < ph))
        let s1 := s.takeFlits l 3 early (s.flitsOn l 3 early)
        let mine := flitOf c.group c.ctx c.epoch ((if hasValues m then c.phases else []) ++ (if hasStatus m then [5] else []))
        let need := (if hasValues m then c.flits * c.phases.length else 0) + (if hasStatus m then 1 else 0)
        let got := if hasValues m then c.gotDown else 0
        let n := min (s1.flitsOn l 3 mine) (need - got)
        let s2 := s1.takeFlits l 3 mine n
        (n = 0 → becomes s1) ∧
        (n ≠ 0 → c.staleDown m = true → becomes s2) ∧
        (n ≠ 0 → c.staleDown m = false → got + n < need →
          becomes (s2.setColl { c with gotDown := got + n, early := match m with | .final r => some r | _ => c.early })) ∧
        (n ≠ 0 → c.staleDown m = false → need ≤ got + n →
          becomes ((s2.shadowRoot c.ctx c.epoch g false).deliverDown c.ctx c.epoch g c.group m)))))

/-- `ResultsAndCompletionsAreWritten` (R53, R87, R95, R110, R124, R132, R135, R206, R255, R403, R44, R266, R268, R274): A member takes what has
come down for it: a result is written to its destinations and the completion waits at its port; a pass result puts its next contribution on
the way, a widened run reading its source once for both of its passes; an outcome without a result gives the completion that status, and
destinations stay unless the manual calls them undefined (log 4 says what they hold then), and a `ROUTE` gives its blocks and its tag slot
back. With nothing to take, or in a stalled half, the row has no effect. The oldest completion of a port is written at `EP_CQ_TAIL` with the
ring's phase, and the tail moves on; its completion signal leaves behind it. With nothing to write, no room, or a rebind, the row has no
effect. When the completion of the last member of a context is written, the context leaves its slot, and the operation that has waited
longest for a slot takes it and starts; while another member of the context is outstanding, nothing that waits for a slot starts. -/
def Obligations.ResultsAndCompletionsAreWritten : Prop :=
 (∀ (s : State) (ctx : Fin 4096) (epoch : Fin 65536) (p : Pos), s.Sound →
    let i := Instr.resultAtPort ctx epoch p .onDie
    (s.coll ctx epoch = none ∨ s.portStalled p = true → exec i s = .next s) ∧
    (∀ c, s.coll ctx epoch = some c → c.taker p = none → exec i s = .next s) ∧
    (∀ c m, s.coll ctx epoch = some c → s.portStalled p = false →
      (∀ r, c.taker p = some (m, .final r) → m.live = true → ∃ t, exec i s = .next t ∧
        t.mem = (s.writeResult m.pos m.desc r).mem ∧
        t.port m.pos = { s.port m.pos with
          done := (s.port m.pos).done ++ [doneOf m.desc r.status r.tally r.opval 0 true (some (ctx.val, epoch.val))] } ∧
        (∀ q, q ≠ m.pos → t.port q = s.port q) ∧ t = { s with mem := t.mem, ports := t.ports, ops := t.ops }) ∧
      (∀ st, c.taker p = some (m, .ended st) → m.live = true → ∃ t, exec i s = .next t ∧
        t.port m.pos = { s.port m.pos with done := (s.port m.pos).done ++ [doneOf m.desc st Tally.zero 0 0 true (some (ctx.val, epoch.val))] } ∧
        (CStatusVoid st = false → t.mem = s.mem) ∧ (∀ q, q ≠ m.pos → t.port q = s.port q) ∧
        (m.tagSlot = none → t = { s with mem := t.mem, ports := t.ports, ops := t.ops, free := t.free }) ∧
        (∀ k, m.tagSlot = some k → t = { s with mem := t.mem, ports := t.ports, ops := t.ops, free := t.free, led := { s.led with tags := t.led.tags } } ∧
          (t.tagSlot k).st = .free ∧ (t.tagSlot k).blocks = [] ∧ (∀ q, q ≠ k → t.tagSlot q = s.tagSlot q))) ∧
      (∀ dn, c.taker p = some (m, dn) → ((∃ w b, dn = .pass1 w b) ∨ ∃ w b k, dn = .widen w b k) →
        let x := shapeOf (definingOf m.desc)
        let codes := if x.nsum = true ∧ c.pass = 3 then (widenedIdx x c.widened).map (nth 0 (s.sourceCodes m.desc x))
          else if x.nsum = true ∧ 3 < c.pass then m.held else s.sourceCodes m.desc x
        exec i s = .next (s.modColl c.ctx c.epoch (fun c' => { c' with members := replaceMember m ({ m with
          stage := .sending, up := some (s.contribution m.pos m.desc c.pass c.asP1 c.words codes)
          held := if x.nsum = true ∧ c.pass = 3 then codes else [] } : Member) c'.members }))))) ∧
 (∀ (s : State) (p : Pos) (x : Done) (rest : List Done), s.Sound →
    let q := s.port p
    (q.done = [] ∨ q.rebinding = true ∨ q.cqRoom = false → exec (.completionWrite p) s = .next s) ∧
    (q.done = x :: rest → q.rebinding = false → q.cqRoom = true → inSpace [(q.recordAddr, 32)] = true →
      ∃ t, exec (.completionWrite p) s = .next t ∧ t.mem = Memory.writeN s.mem q.recordAddr (wordBytes 32 (x.record q.cqPhase)) ∧
        t.port p = { q with
          done := rest
          cqTail := (q.cqTail + 1) % ringSize q.cqCfg
          opened := q.opened - 1
          cqPhase := if q.cqTail + 1 = ringSize q.cqCfg then !q.cqPhase else q.cqPhase } ∧
        (∀ k, k ≠ p.val → t.port k = s.port k) ∧
        t.tt = { s.tt with flights := s.tt.flights ++ (match x.csig with
          | some w => [{ cmd := fields 64 [(60, 4, 1), (32, 20, 1), (0, 16, w.toNat)], issuer := BitVec.ofNat 25 (s.rig p), via := .completion }]
          | none => []) } ∧
        (x.coll = none → t.ops = s.ops) ∧ t = { s with mem := t.mem, ports := t.ports, tt := t.tt, ops := t.ops })) ∧
 (∀ (s : State) (p : Pos) (x : Done) (rest : List Done) (ctx epoch : Nat) (c : Coll) (m : Member), s.Sound →
    (s.port p).done = x :: rest → (s.port p).rebinding = false → (s.port p).cqRoom = true → inSpace [((s.port p).recordAddr, 32)] = true →
    x.coll = some (ctx, epoch) → (s.ops.colls.map (fun c => (c.ctx, c.epoch))).Nodup → s.coll ctx epoch = some c → c.members = [m] →
    m.pos = p.val → m.stage = .done → m.live = true →
    ((∃ d ∈ s.ops.colls, d.ctx = ctx ∧ d.epoch ≠ epoch ∧ d.members ≠ []) → ∃ t, exec (.completionWrite p) s = .next t ∧
      t.ops.slots = s.ops.slots ∧ t.ops.queue = s.ops.queue) ∧
    (∀ e k q, (∀ d ∈ s.ops.colls, d.ctx = ctx → d.epoch ≠ epoch → d.members = []) → ctx ∈ s.ops.slots → s.ops.slots.length = 256 → s.ops.slots.Nodup →
      s.ops.queue = [e] → e.1 ∉ s.ops.slots → s.coll e.1 e.2.1 = some k →
      k.members.find? (fun y => decide (y.pos = e.2.2) && decide (y.stage = .queued) && y.live) = some q →
      ∃ t k', exec (.completionWrite p) s = .next t ∧ t.ops.slots = s.ops.slots.filter (fun y => decide (y ≠ ctx)) ++ [e.1] ∧ t.ops.queue = [] ∧
        t.coll e.1 e.2.1 = some k' ∧ k'.members.any (fun y => decide (y.pos = e.2.2) && decide (y.stage = .sending)) = true ∧
        (k'.members.filter (fun y => decide (y.stage = .queued))).length + 1 = (k.members.filter (fun y => decide (y.stage = .queued))).length))

/-- `RouteResultsAreWritten` (R188 to R194, R207, R366): The counts give a member of a `ROUTE` its slots: records go to `DST`, the load vector
to `DST2`, entries to its blocks unless its tag was cancelled, and the completion carries the dropped and unselected sides. A cancelled
tag's slot is free then, and keeps no entry. During the stop of a cinch, in a stalled half, and during a forced test of a ledger bank (log
112, a design choice) the row has no effect. -/
def Obligations.RouteResultsAreWritten : Prop :=
  ∀ (s : State) (ctx : Fin 4096) (epoch : Fin 65536) (p : Pos) (c : Coll) (m : Member) (k : Nat) (totals base : List Int)
      (prefixes : List (Nat × List Int)), s.Sound →
    (s.stopped = true ∨ s.bankStalled = true ∨ s.portStalled p = true → ∀ src, exec (.routeCountsResult ctx epoch p src) s = .next s) ∧
    (s.stopped = false → s.bankStalled = false → s.portStalled p = false → s.coll ctx epoch = some c → c.down = some (.counts totals prefixes) →
      c.members.find? (fun m => m.pos == p.val && m.stage == .waiting) = some m → m.tagSlot = some k → m.live = true →
      prefixes.find? (fun e => e.1 == s.rig p) = some (s.rig p, base) →
      let d := m.desc
      let x := s.tagSlot k
      let g := gather ((m.sel.zip (m.wts.zip (routeSlots d m.sel totals base))).map (fun r => routedRow d r.1 (r.2.1.map (·.toNat)) r.2.2))
      let rows := g.1
      let loads := (List.range (dNexp d)).map (fun e => nth 0 totals e + (if dRouteK d then nth 0 totals (dNexp d + e) else 0))
      ∃ t, exec (.routeCountsResult ctx epoch p .onDie) s = .next t ∧
        t.mem = Memory.writeN (Memory.writeN (s.writeEntries d x rows).mem (dDst d) (rows.flatMap (fun r => wordBytes 16 (routeRecord r.a r.b r.w0 r.w1))))
          (dDst2 d) (loads.flatMap (fun v => leBytes 8 (unsigned 64 v))) ∧
        t.led.die = (s.writeEntries d x rows).led.die ∧
        t.tagSlot k = (if x.routeCancelled then tagDefault 0 else { x with routeDone := true, nopen := x.ntok }) ∧
        (x.routeCancelled = true → t.led.die = s.led.die) ∧
        t.port m.pos = { s.port m.pos with done := (s.port m.pos).done ++ [doneOf d (if x.routeCancelled then .cancelled else .ok) (m.tally.join g.2)
          (countSides d rows (fun y => !y.valid && !y.drop) * 2 ^ 32 + countSides d rows (fun y => y.drop)) 0 true (some (ctx.val, epoch.val))] } ∧
        (∀ q, q ≠ m.pos → t.port q = s.port q) ∧ t = { s with mem := t.mem, led := t.led, ports := t.ports, ops := t.ops })

/-- `TimeoutsEndCollectives` (R88): An expired member timer leaves one mark on its collective; at the root a mark ends the collective with
`TIMEOUT`, unless it has ended; a chip without the root passes the mark up, and so it does with a mark received, of which it takes one flit.
A member that is done, or a second mark, changes nothing, and with no mark nothing happens. -/
def Obligations.TimeoutsEndCollectives : Prop :=
  ∀ (s : State) (ctx : Fin 4096) (epoch : Fin 65536) (p : Pos),
    (∀ c, s.coll ctx epoch = some c →
      (c.members.any (fun m => m.pos == p.val && m.stage != .done) = true → c.marks.any (fun k => k.1 == p.val) = false →
        exec (.collectiveTimeout ctx epoch p) s = .next (s.modColl ctx epoch (fun c => { c with marks := c.marks ++ [(p.val, true)] }))) ∧
      (c.members.any (fun m => m.pos == p.val && m.stage != .done) = false ∨ c.marks.any (fun k => k.1 == p.val) = true →
        exec (.collectiveTimeout ctx epoch p) s = .next s)) ∧
    (s.coll ctx epoch = none → exec (.collectiveTimeout ctx epoch p) s = .next s) ∧
    (s.binding ctx = none → exec (.timeoutMark ctx epoch) s = .next s) ∧
    (∀ b g, s.binding ctx = some b → s.group b.group = some g →
      (∀ c, s.coll ctx epoch = some c → c.marks.any (·.2) = true →
        let s1 := s.modColl ctx epoch (fun c => { c with marks := c.marks.map (fun k => (k.1, false)) })
        (s.hasRoot g = true → c.ended.isSome = true → exec (.timeoutMark ctx epoch) s = .next s1) ∧
        (s.hasRoot g = true → c.ended = none → c.members ≠ [] → ∃ t e, exec (.timeoutMark ctx epoch) s = .next t ∧ t.coll ctx epoch = some e ∧
          e.ended = some .timeout ∧ e.down = some (.ended .timeout) ∧ e.members = c.members ∧
          (∃ x, t.binding ctx = some x ∧ x.epochs.head? = some (epoch.val, .timeout)) ∧ t.mem = s.mem ∧ t.ports = s.ports ∧ t.tt = s.tt) ∧
        (s.hasRoot g = false → exec (.timeoutMark ctx epoch) s = .next (s1.markUp ctx epoch b.group g))) ∧
      ((s.coll ctx epoch).any (fun c => c.marks.any (·.2)) = false →
        let mine := flitOf b.group ctx epoch [5]
        ((∀ l, l < 8 → s.flitsOn l 2 mine = 0) → exec (.timeoutMark ctx epoch) s = .next s) ∧
        (∀ l, l < 8 → s.flitsOn l 2 mine ≠ 0 → (∀ q, q < l → s.flitsOn q 2 mine = 0) →
          let s1 := s.takeFlits l 2 mine 1
          (b.endedEpoch epoch = true → exec (.timeoutMark ctx epoch) s = .next s1) ∧
          (b.endedEpoch epoch = false → s.hasRoot g = false → exec (.timeoutMark ctx epoch) s = .next (s1.markUp ctx epoch b.group g)) ∧
          (∀ c, b.endedEpoch epoch = false → s.hasRoot g = true → s.coll ctx epoch = some c → c.ended = none → c.members ≠ [] →
            ∃ t e, exec (.timeoutMark ctx epoch) s = .next t ∧ t.coll ctx epoch = some e ∧ e.ended = some .timeout ∧ e.down = some (.ended .timeout) ∧
              e.members = c.members ∧ t.mem = s.mem ∧ t.ports = s.ports ∧ t.tt = s.tt))))

/-- `NoticesReachTheLedger` (R213, R214, R272, R366, R204, R215, R216, Table 6-5): A store to `EP_NQ_HI` of a running port posts a notice with
the port's rig index as its origin; a malformed one, an absent home chip or a full queue rejects it, which `EP_NQ_STAT` shows. The oldest
notice leaves on the die or on VC4, as its home says. During the stop of a cinch neither row has an effect. Model's choice (log 126): a
message of type 0 that is not all 0 is malformed. The oldest notice on the die, or a received one whose home is this chip, is taken and
applied. A malformed one, a stray and a repeated one only bump their counters; the first notice of a valid side sets that side's arrival bit
and, unless the entry is cancelled, its state `WAITING`, and a standing `COMBINE` of the token learns when it is ready. Model's choice (logs
109, 126): the kind and index of a lost saddlebag entry's record, and a message of type 0 that is not all 0. -/
def Obligations.NoticesReachTheLedger : Prop :=
 (∀ (s : State) (p : Pos) (hi : Word64),
    let x := s.port p
    let m : Msg := hi ++ x.nqLo
    let reject : CStatus → State := fun st => s.setPort p { x with nqErr := true, nqLast := some st, nqRej := min (x.nqRej + 1) 0xFFFF }
    (s.Live →
      (nWellFormed m = false → exec (.noticePost p hi) s = .next (reject .badDescriptor)) ∧
      (nWellFormed m = true → s.isPresent (nDst m) = false → exec (.noticePost p hi) s = .next (reject .badContext)) ∧
      (nWellFormed m = true → s.isPresent (nDst m) = true → 16 ≤ x.nq.length → exec (.noticePost p hi) s = .next (reject .noResource)) ∧
      (nWellFormed m = true → s.isPresent (nDst m) = true → x.nq.length < 16 →
        exec (.noticePost p hi) s = .next (s.setPort p { x with nq := x.nq ++ [setBits m 30 25 (s.rig p)] })) ∧
      (∀ n r, x.nq = n :: r →
        (nDst n = s.topo.chip → ∃ t, exec (.noticeSend p) s = .next t ∧ t = { s with ports := t.ports, led := { s.led with fly := s.led.fly ++ [n] } } ∧
          t.ports = (s.setPort p { x with nq := r }).ports) ∧
        (nDst n ≠ s.topo.chip → exec (.noticeSend p) s = .next ((s.setPort p { x with nq := r }).originate 4 (nDst n) n)))) ∧
    (s.running = true → s.stopped = true → s.dozing = false → exec (.noticePost p hi) s = .next s) ∧
    (s.stopped = true ∨ x.nq = [] → exec (.noticeSend p) s = .next s)) ∧
 (∀ (s : State) (l : PortNo) (m : Msg) (rest : List Msg), s.Sound →
    (s.led.fly = [] → exec (.arrival .onDie) s = .next s) ∧
    (s.led.fly = m :: rest → exec (.arrival .onDie) s = .next (({ s with led := { s.led with fly := rest } } : State).applyNotice m)) ∧
    (s.headMsg l 4 = some m → s.rootStalled = false → s.topo.rigValid = true → s.topo.chip = nDst m → ∃ t, exec (.arrival (.offDie l)) s = .next t ∧
      t = ({ s with link := t.link } : State).applyNotice m ∧ t.link.recv4 = s.link.recv4 + 1) ∧
    (nWellFormed m = false → s.applyNotice m = s.bump cNoticeMalformed 1) ∧
    (nWellFormed m = true → s.findTag (nTag m) = none → s.applyNotice m = s.bump cLedgerStray 1) ∧
    (∀ k, nWellFormed m = true → s.findTag (nTag m) = some k →
      let x := s.tagSlot k
      let r := nToken m - x.tokBase
      let i := nSide m
      (x.routeDone = false ∨ nToken m < x.tokBase ∨ x.tokBase + x.ntok ≤ nToken m → s.applyNotice m = s.bump cLedgerStray 1) ∧
      (x.routeDone = true → x.tokBase ≤ nToken m → nToken m < x.tokBase + x.ntok →
        ((∀ e, s.readRow x r ≠ .entry e) → s.applyNotice m = s.loseEntry k r (s.readRow x r)) ∧
        (∀ e, s.readRow x r = .entry e →
          (x.gen.toNat ≠ nGen m ∨ leState e = lsFree → s.applyNotice m = s.bump cLedgerStray 1) ∧
          (x.gen.toNat = nGen m → leState e ≠ lsFree → (leSv e i = false ∨ leArr e i = true ∨ leState e = lsCombined) →
            s.applyNotice m = s.bump cLedgerDup 1) ∧
          (x.gen.toNat = nGen m → leState e ≠ lsFree → leState e ≠ lsCombined → leSv e i = true → leArr e i = false →
            (leState e ≠ lsCancelled →
              let y := leSetState (leSetArr e i) lsWaiting
              let u := s.writeRow x r y
              let t := s.applyNotice m
              t = { u with ops := t.ops } ∧ (leReady y = false → t.ops = s.ops) ∧
                (leReady y = true → ∀ o ∈ s.ops.combs, o.slot = k → standing o.desc = true → (combTokens o.desc).contains (x.tokBase + r) = true →
                  o.cause = none → o.served.contains (x.tokBase + r) = false → o.lanes.any (fun z => z.1 == x.tokBase + r) = false →
                  ∃ y ∈ t.ops.combs, y.id = o.id ∧ x.tokBase + r ∈ y.ready)) ∧
            (leState e = lsCancelled →
              let t := s.applyNotice m
              t.counter cLedgerCxlArr = sat32 (s.counter cLedgerCxlArr + 1) ∧ t = { s with led := t.led, mem := t.mem, counters := t.counters, ops := { s.ops with combs := t.ops.combs } } ∧
                (leAllArrived (leSetArr e i) = false → t.led = (s.writeRow x r (leSetArr e i)).led ∧ t.mem = (s.writeRow x r (leSetArr e i)).mem ∧ t.ops = s.ops) ∧
                (leAllArrived (leSetArr e i) = true → t.rowIs x r (fun z => leState z == lsFree) = true)))))))

/-- `LanesLimitsAndQuarantine` (R197, R217, R220 to R223, R225 to R229, R366, R224, Table 7-3, R205, code 0x3B): A lane begins on the oldest
ready token of an operation with the entry that it reads; when its rows have come it computes the output rows of the operation; when those
are visible they stand in memory, the token is served, and under a standing `COMBINE` its entry is `COMBINED`. An entry that cannot be read
gives the operation `FAULT`, and its tag is cancelled. An entry whose tag has been cancelled is freed. No lane begins out of turn or during
the stop of a cinch. Model's choice (logs 11, 76, 77, 109): what a cancel makes of a row, where a lost bank's entries lie, an operation
without a slot, the record of a lost saddlebag entry. When the limit of an operation that runs under one expires, it takes no further token;
when none of its rows is in the lanes it completes with `TIMEOUT`, and its port gets that completion. Operations without a limit go on. When
the limit of a quarantined tag whose `ROUTE` has completed expires, its slot is free and every entry that it held is `FREE`; the entries are
counted, and reported when there were any. For any other slot nothing happens. Model's choice (log 11): the blocks are free with the slot,
and an operation that is left on it has no slot any more. -/
def Obligations.LanesLimitsAndQuarantine : Prop :=
 (∀ (s : State) (id token : Nat), s.Sound →
    (s.comb id = none → ∀ c ∈ [Instr.combineLaneBegin id token, .rowReadReturn id token, .rowWriteVisible id token], exec c s = .next s) ∧
    (∀ o, s.comb id = some o →
      let x := s.tagSlot o.slot
      let r := token - o.tokBase
      (o.ready.head? ≠ some token ∨ s.stopped = true → exec (.combineLaneBegin id token) s = .next s) ∧
      (o.ready.head? = some token → s.stopped = false →
        (∀ e, s.readRow x r = .entry e → exec (.combineLaneBegin id token) s = .next
          (s.modComb id (fun o => { o with ready := o.ready.drop 1, lanes := o.lanes ++ [(token, .reading e)] }))) ∧
        ((∀ e, s.readRow x r ≠ .entry e) → exec (.combineLaneBegin id token) s = .next
          ((s.stopCombs (fun o => o.id == id) (some .fault)).loseEntry o.slot r (s.readRow x r)))) ∧
      (∀ e, o.lanes.find? (fun l => l.1 == token) = some (token, .reading e) → exec (.rowReadReturn id token) s = .next (s.modComb id (fun y => { y with
        lanes := mapIf (fun l => l.1 == token) (fun l => (l.1, .writing (s.laneRows o.desc e r).1)) y.lanes
        tally := y.tally.join (s.laneRows o.desc e r).2 }))) ∧
      (∀ rows, o.lanes.find? (fun l => l.1 == token) = some (token, .writing rows) →
        let u := forEach rows (fun r s => store s r.1 r.2) s
        (∃ t, exec (.rowWriteVisible id token) s = .next t ∧ (∀ y ∈ t.ops.combs, y.id = id → token ∈ y.served ∧ y.lanes.any (fun l => l.1 == token) = false) ∧
          (standing o.desc = false → t.mem = u.mem ∧ t.led = s.led ∧ t = { s with mem := t.mem, ops := t.ops, ports := t.ports }) ∧
          (standing o.desc = true → x.st = .free → t.mem = u.mem ∧ t.led = s.led ∧ t = { s with mem := t.mem, ops := t.ops, ports := t.ports }) ∧
          (standing o.desc = true → x.st = .quarantine →
            let y := ((u.writeRow x r 0).closeRow o.slot).settleTag o.slot
            t.mem = y.mem ∧ t.led = y.led ∧ t = { s with mem := t.mem, led := t.led, ops := t.ops, ports := t.ports }) ∧
          (standing o.desc = true → x.st = .live → ∀ e, u.rowEntry x r = some e →
            let y := (u.writeRow x r (leSetState e lsCombined)).closeRow o.slot
            t.mem = y.mem ∧ t.led = y.led ∧ t = { s with mem := t.mem, led := t.led, ops := t.ops, ports := t.ports }) ∧
          (standing o.desc = true → x.st = .live → u.rowEntry x r = none →
            let y := (u.stopCombs (fun y => y.id == id) (some .fault)).loseEntry o.slot r (u.readRow x r)
            t.mem = y.mem ∧ t.led = y.led ∧ t.win = y.win ∧ ∀ y ∈ t.ops.combs, y.id = id → y.cause.isSome = true))))) ∧
 (∀ (s : State) (id : Nat), s.Sound →
    (∃ t, exec (.combineLimitExpiry id) s = .next t ∧ t = { s with ops := { s.ops with combs := t.ops.combs }, ports := t.ports } ∧
      (∀ o ∈ s.ops.combs, (o.id ≠ id ∨ o.limit = false) → o.finished = false → o ∈ t.ops.combs) ∧
      (∀ o ∈ s.ops.combs, o.id = id → o.limit = true → o.cause = none → o.lanes ≠ [] → { o with cause := some .timeout, ready := [] } ∈ t.ops.combs) ∧
      (∀ o ∈ t.ops.combs, o.finished = false)) ∧
    (∀ o, s.ops.combs = [o] → o.id = id → o.limit = true → o.cause = none → o.lanes = [] → o.live = true →
      ∃ t, exec (.combineLimitExpiry id) s = .next t ∧ t.ops.combs = [] ∧
        t.port o.pos = { s.port o.pos with done := (s.port o.pos).done ++ [doneOf o.desc .timeout Tally.zero 0 0 true none] })) ∧
 (∀ (s : State) (k : Fin 64), s.Sound →
    let x := s.tagSlot k
    (x.st ≠ .quarantine ∨ x.routeDone = false → exec (.tagQuarantineExpiry k) s = .next s) ∧
    (x.st = .quarantine → x.routeDone = true →
      let left := (List.range x.ntok).filter (fun r => match s.readRow x r with
        | .entry e => leState e != lsFree
        | _ => true)
      ∃ t, exec (.tagQuarantineExpiry k) s = .next t ∧ (t.tagSlot k).st = .free ∧ (∀ j, j ≠ k.val → t.tagSlot j = s.tagSlot j) ∧
        (∀ r, r < x.ntok → t.rowIs x r (fun e => leState e == lsFree) = true) ∧ (t.tagSlot k).blocks = [] ∧
        t.counter cLedgerQexp = sat32 (s.counter cLedgerQexp + left.length) ∧ t.mem = s.mem ∧ t.tt = s.tt ∧ t.ports = s.ports ∧
        t.ops = { s.ops with combs := mapIf (fun o => o.slot == k.val) (fun o => { o with slot := 64 }) s.ops.combs } ∧
        (left = [] → s.dozing = false → t.win = s.win)))

/-- `HoldsAndDeliveries` (R234, R239, R235, R236, R243, R244, R272): The credits of an endpoint's receives on a channel appear at its half root,
and nothing else does while no message is held for it; the oldest message that is held is delivered to the oldest receive when it is new and
fits; a duplicate is dropped, one too long is missing, and either leaves the receive. A hold that expires is counted and its target reported
missing; for a hold that is gone nothing happens. Model's choice (log 81): the pair of a message counts as delivered when it is committed. A
delivery that becomes visible stands at `DST`; the receive completes with the sender, its sequence number and the length, and the sender is
told; a withdrawal that waited for it alone completes after it. A freed segment lets a channel move again once its pool has room; with no
room, or for no such delivery, nothing happens. -/
def Obligations.HoldsAndDeliveries : Prop :=
 (∀ (s : State) (p : Pos) (ch : Fin 16) (id : Nat), s.Sound →
    let marked := mapIf (fun r => r.pos == p.val && r.chan == ch.val) (fun r => { r with applied := true }) s.ops.recvs
    let u : State := { s with ops := { s.ops with recvs := marked } }
    (s.holdsOf p ch = [] → exec (.hoistCreditApply p ch) s = .next u) ∧
    (∀ h, s.holdsOf p ch = [h] → u.credited p ch = none → exec (.hoistCreditApply p ch) s = .next u) ∧
    (∀ h r, s.holdsOf p ch = [h] → u.credited p ch = some r → ∃ t, exec (.hoistCreditApply p ch) s = .next t ∧
      t.ops.holds = s.ops.holds.filter (fun x => x.id ≠ h.id) ∧
      (s.isDup p h.msg = false → h.msg.data.length ≤ r.rlen → t = { s with ops := t.ops } ∧ t.ops.recvs = marked.erase r ∧
        t.ops.delivs = s.ops.delivs ++ [{ id := s.ops.nextId, msg := h.msg, recv := r, sender := h.sender }] ∧
        t.dupPairs p ch = ((h.msg.origin, h.msg.hseq) :: s.dupPairs p ch).take 32) ∧
      (s.isDup p h.msg = true → t.counter cHoistDup = sat32 (s.counter cHoistDup + 1) ∧ t.ops.recvs = marked ∧ t.ops.delivs = s.ops.delivs ∧
        t = { s with ops := t.ops, counters := t.counters, link := t.link }) ∧
      (s.isDup p h.msg = false → r.rlen < h.msg.data.length → t.counter cHoistOversize = sat32 (s.counter cHoistOversize + 1) ∧ t.ops.recvs = marked ∧
        t.ops.delivs = s.ops.delivs ∧ t = { s with ops := t.ops, counters := t.counters, link := t.link })) ∧
    ((∀ h ∈ s.ops.holds, h.id ≠ id) → exec (.holdLimitExpiry id) s = .next s) ∧
    (∀ h, s.ops.holds.find? (fun h => h.id == id) = some h →
      (exec (.holdLimitExpiry id) s = .next (let t := (s.bump cHoistHoldExp 1).missHold h
                                             State.serveHolds (t.holdsOf h.pos h.msg.chan) t)) ∧
      (s.credited h.pos h.msg.chan = none → ∃ t, exec (.holdLimitExpiry id) s = .next t ∧
        t.ops.holds = s.ops.holds.filter (fun x => x.id ≠ h.id) ∧ t.counter cHoistHoldExp = sat32 (s.counter cHoistHoldExp + 1) ∧
        t = { s with ops := t.ops, counters := t.counters, link := t.link } ∧ t.ops.recvs = s.ops.recvs ∧ t.ops.delivs = s.ops.delivs))) ∧
 (∀ (s : State) (k : Nat) (pool : Fin 3) (ch : Fin 16), s.Sound →
    let moves : State := { s with ops := { s.ops with waiting := s.ops.waiting.filter (fun w => w ≠ (pool.val, ch.val)) } }
    ((∀ x ∈ s.ops.delivs, x.id ≠ k) → exec (.hoistDeliveryVisible k) s = .next s) ∧
    (∀ x, s.ops.delivs.find? (fun x => x.id == k) = some x →
      let okRec := doneOf x.recv.desc .ok Tally.zero (x.msg.hseq.toNat * 2 ^ 32 + x.msg.origin.toNat) x.msg.data.length true none
      ∃ t, exec (.hoistDeliveryVisible k) s = .next t ∧ t.mem = Memory.writeN s.mem x.recv.dst x.msg.data ∧
        t.ops.delivs = s.ops.delivs.filter (fun y => y.id ≠ k) ∧ t = { s with mem := t.mem, ports := t.ports, ops := t.ops, link := t.link } ∧
        t.ops.withdraws = (s.ops.withdraws.map (fun w => { w with first := w.first.filter (fun i => i ≠ k) })).filter (fun w => !w.first.isEmpty) ∧
        ((∀ w ∈ s.ops.withdraws, w.first.filter (fun i => i ≠ k) ≠ []) →
          (x.recv.live = true → t.ports = (s.pushDone x.recv.pos okRec).ports) ∧ (x.recv.live = false → t.ports = s.ports)) ∧
        (∀ w, s.ops.withdraws = [w] → w.first = [k] → w.pos = x.recv.pos → x.recv.live = true →
          t.port w.pos = { s.port w.pos with
            done := (s.port w.pos).done ++ [okRec] ++ w.gone.map (fun r => doneOf r.desc .cancelled Tally.zero 0 0 true none) ++ [doneOf w.desc .ok Tally.zero 0 0 true none] }) ∧
        (∀ id, x.sender = .here id → t.link = s.link ∧ t.ops.sends = mapIf (fun y => y.id == id)
          (fun y => y.modTargets (fun a => a.at_ x.recv.pos && !a.isSettled) (fun a => { a with st := .report true })) s.ops.sends)) ∧
    ((s.poolSplit pool ch 1).isSome = true → pool.val ≠ rootPool → exec (.hoistSegmentFreed pool ch) s = .next moves) ∧
    ((s.poolSplit pool ch 1).isSome = true → pool.val = rootPool → exec (.hoistSegmentFreed pool ch) s = .next moves.turnSends) ∧
    (s.poolSplit pool ch 1 = none → exec (.hoistSegmentFreed pool ch) s = .next s))

/-- `CopiesReachTheirTargets` (R236 to R238, R240, R242, R243, R247, R237, R307, R308 to R310): The copy of a send that is next for its target
is dropped as a duplicate, reported missing when it is too long, delivered to a receive whose credit is there, or held; for either of the
last two the message takes its segments in the half root's pool once, and with no room it stops upstream with its channel. A copy that is
not next, that has still to turn at the chip root, or whose channel or half is stopped, stays. Model's choice (logs 55, 81, 84): what stays
in a pool until when, and that a pair counts as delivered when its message is committed. The oldest message of a channel of a link passes
the chip root once, when the root's pool has room for what has targets here: it is taken off the link, goes on to the chips beyond and is
under way to its targets here, and it reaches each holding node as a copy of this chip does, behind older ones of its sender and channel.
With no room it stays on the link. What is not the oldest changes nothing. Model's choice (log 84): what stays in a pool until when. A
group's message that comes to the standby of a fold node on a link of that node is taken and kept, and reaches no target; one that still
comes on a link of a node that its standby has replaced is taken and dropped. Model's choice (log 83): that the last 32 are kept. -/
def Obligations.CopiesReachTheirTargets : Prop :=
 (∀ (s : State) (p : Pos) (id : Nat), s.Sound →
    (s.nextCopy id p = none → exec (.hoistAtHoldingNode p (.onDie id)) s = .next s) ∧
    (∀ x, s.nextCopy id p = some x →
      let m := x.msg
      let stays := s.portStalled p = true ∨ x.id ≠ id ∨ x.turned = false ∨ (x.turns = false ∧ s.portStopped x.pos = true) ∨
        s.ops.waiting.contains (poolOf p, m.chan.val) = true
      let behind := s.ops.holds.any (fun h => h.pos == p.val && h.msg.chan == m.chan)
      let room := s.stored (poolOf p) (.here id) = true ∨ (s.poolSplit (poolOf p) m.chan (segments m)).isSome = true
      let came (y : Send) : Send := y.modTargets (fun k => k.at_ p && k.st == .flying) (fun k => { k with st := .atNode })
      let told (b : Bool) (y : Send) : Send := (came y).modTargets (fun k => k.at_ p && !k.isSettled) (fun k => { k with st := .report b })
      let sends (f : Send → Send) : List Send := mapIf (fun y => y.id == id) f s.ops.sends
      (stays → exec (.hoistAtHoldingNode p (.onDie id)) s = .next s) ∧
      (¬ stays →
        (s.isDup p m = true → ∃ t, exec (.hoistAtHoldingNode p (.onDie id)) s = .next t ∧ t = { s with ops := t.ops, counters := t.counters } ∧
          t.counter cHoistDup = sat32 (s.counter cHoistDup + 1) ∧ t.ops = { s.ops with sends := sends (told true), pools := t.ops.pools }) ∧
        (∀ r, s.isDup p m = false → behind = false → s.credited p m.chan = some r → r.rlen < m.data.length →
          ∃ t, exec (.hoistAtHoldingNode p (.onDie id)) s = .next t ∧ t = { s with ops := t.ops, counters := t.counters } ∧
          t.counter cHoistOversize = sat32 (s.counter cHoistOversize + 1) ∧ t.ops = { s.ops with sends := sends (told false), pools := t.ops.pools }) ∧
        (∀ r, s.isDup p m = false → behind = false → s.credited p m.chan = some r → m.data.length ≤ r.rlen → room →
          ∃ t, exec (.hoistAtHoldingNode p (.onDie id)) s = .next t ∧ t = { s with ops := t.ops } ∧
          t.ops = { s.ops with
            sends := sends came, pools := t.ops.pools, nextId := s.ops.nextId + 1, recvs := s.ops.recvs.erase r, dups := t.ops.dups
            delivs := s.ops.delivs ++ [{ id := s.ops.nextId, msg := m, recv := r, sender := .here id }] } ∧
          t.dupPairs p m.chan = ((m.origin, m.hseq) :: s.dupPairs p m.chan).take 32 ∧ t.stored (poolOf p) (.here id) = true) ∧
        (s.isDup p m = false → (behind = true ∨ s.credited p m.chan = none) → room →
          ∃ t, exec (.hoistAtHoldingNode p (.onDie id)) s = .next t ∧ t = { s with ops := t.ops } ∧
          t.ops = { s.ops with
            sends := sends came, pools := t.ops.pools, nextId := s.ops.nextId + 1
            holds := s.ops.holds ++ [{ id := s.ops.nextId, pos := p, msg := m, sender := .here id }] } ∧ t.stored (poolOf p) (.here id) = true) ∧
        (s.isDup p m = false → (∀ r, behind = false → s.credited p m.chan = some r → m.data.length ≤ r.rlen) → ¬ room →
          exec (.hoistAtHoldingNode p (.onDie id)) s = .next { s with ops := { s.ops with waiting := (poolOf p, m.chan.val) :: s.ops.waiting } })))) ∧
 (∀ (s : State) (p : Pos) (l : PortNo) (m : HoistMsg) (list : Option (Nat × List Nat)),
    let u := if s.rootStalled || (s.nextInbound l m.chan p).isSome then s else s.takeInbound l m list
    (u.nextInbound l m.chan p = none → exec (.hoistAtHoldingNode p (.offDie l m list)) s = .next u) ∧
    (∀ x, u.nextInbound l m.chan p = some x →
      let stays := u.portStalled p = true ∨ x.msg ≠ m ∨ u.ops.waiting.contains (poolOf p, m.chan.val) = true
      (stays → exec (.hoistAtHoldingNode p (.offDie l m list)) s = .next u) ∧
      (¬ stays → exec (.hoistAtHoldingNode p (.offDie l m list)) s = .next (u.atNode p m (.there x.id))) ∧
      (¬ stays → u.isDup p m = false → ∀ r, u.credited p m.chan = some r →
        m.data.length ≤ r.rlen → u.ops.holds.any (fun h => h.pos == p.val && h.msg.chan == m.chan) = false →
        (u.stored (poolOf p) (.there x.id) = true ∨ (u.poolSplit (poolOf p) m.chan (segments m)).isSome = true) →
        ∃ t, exec (.hoistAtHoldingNode p (.offDie l m list)) s = .next t ∧ t = { u with ops := t.ops } ∧ t.ops.recvs = u.ops.recvs.erase r ∧
          t.ops.delivs = u.ops.delivs ++ [{ id := u.ops.nextId, msg := m, recv := r, sender := .there x.id }])) ∧
    (s.rootStalled = false → s.nextInbound l m.chan p = none →
      (s.hoistWaiting l m.chan = none → u = s) ∧
      (∀ vc head, s.hoistWaiting l m.chan = some (vc, head) →
        let n := bits head 38 12
        let pend := s.targetsHere m list n
        let off (t : State) : State := t.modLnk l (Link.takeMessage vc m.chan (messageFlits n m list).length head)
        let passes := list.isSome = true ∨ ∀ g, s.group n = some g → s.standsByOn g l = none ∧ (s.formerPorts g).contains l.val = false
        (bit head 33 ≠ list.isSome → u = s) ∧
        (bit head 33 = list.isSome → passes → s.ops.waiting.contains (rootPool, m.chan.val) = true → u = s) ∧
        (bit head 33 = list.isSome → passes → s.ops.waiting.contains (rootPool, m.chan.val) = false → s.stored rootPool (.there s.ops.nextId) = false →
          (pend = [] → u.link = (off (s.spreadOn m list n l)).link ∧ u.ops.inbound = s.ops.inbound ∧ u.ops.pools = s.ops.pools) ∧
          (pend ≠ [] → ∀ k, s.poolSplit rootPool m.chan (segments m) = some k →
            u.link = (off (s.spreadOn m list n l)).link ∧ u.ops.inbound = s.ops.inbound ++ [{ id := s.ops.nextId, link := l, msg := m, pend := pend }] ∧
            u.ops.pools = s.ops.pools ++ [{ pool := rootPool, sender := .there s.ops.nextId, chan := m.chan, own := k.1, shared := k.2 }]) ∧
          (pend ≠ [] → s.poolSplit rootPool m.chan (segments m) = none →
            u = { s with ops := { s.ops with waiting := (rootPool, m.chan.val) :: s.ops.waiting } }))))) ∧
 (∀ (s : State) (p : Pos) (l : PortNo) (m : HoistMsg) (vc : Nat) (head : BitVec 50) (g : Group),
    s.rootStalled = false → s.nextInbound l m.chan p = none → s.hoistWaiting l m.chan = some (vc, head) → bit head 33 = false → s.group (bits head 38 12) = some g →
    let off := (s.modLnk l (Link.takeMessage vc m.chan (messageFlits (bits head 38 12) m none).length head)).link
    (∀ r, s.standsByOn g l = some r → exec (.hoistAtHoldingNode p (.offDie l m none)) s = .next { s with link := off, ops := { s.ops with
      copied := ({ fnid := r.fnid, group := bits head 38 12, msg := m, port := l, head := head } :: s.ops.copied).take 32 } }) ∧
    (s.standsByOn g l = none → (s.formerPorts g).contains l.val = true → exec (.hoistAtHoldingNode p (.offDie l m none)) s = .next { s with link := off }))

/-- `ReportsSettleTargets` (R244, R245): A report settles its target; when the last target of a send is settled, `DMAP` has the bits of those
delivered and the send completes, with `OK` or with `SHORT` and the number missing. A report for a send of another chip goes back the way of
its message; a late one is counted. When the report limit expires the targets off the die that are not settled count as missing. Model's
choice (log 80): the channel of a report that has no way back but its route. That a second report for a settled target is late is log 82
(DEDUCED). -/
def Obligations.ReportsSettleTargets : Prop :=
  ∀ (s : State) (id target : Nat), s.Sound →
    let done (x : Send) (t : State) : Prop :=
      t.mem = (s.writeDmap x).mem ∧ t.ops.sends = s.ops.sends.filter (fun y => y.id ≠ id) ∧ t = { s with mem := t.mem, ports := t.ports, ops := t.ops } ∧
        (x.live = true → t.port x.pos = { s.port x.pos with done := (s.port x.pos).done ++
          [doneOf x.desc (if x.targets.all Target.delivered then .ok else .short) Tally.zero (x.targets.filter (fun k => !k.delivered)).length 0 true none] })
    let settle (k : Target) : Target := match k.st with | .report b => { k with st := .settled b } | _ => k
    ((∀ x ∈ s.ops.sends, x.id ≠ id) → exec (.deliveryReport id target .onDie) s = .next s ∧ exec (.hoistReportLimitExpiry id) s = .next s) ∧
    (∀ x, s.ops.sends.find? (fun x => x.id == id) = some x →
      (let y := x.modTargets (fun k => k.index == target) settle
       (y.targets.all Target.isSettled = true → ∃ t, exec (.deliveryReport id target .onDie) s = .next t ∧ done y t) ∧
       (y.targets.all Target.isSettled = false → exec (.deliveryReport id target .onDie) s = .next
         (s.modSend id (fun z => z.modTargets (fun k => k.index == target) settle)))) ∧
      (let late (z : Send) : Send := { z.modTargets (fun k => !k.isHere && !k.isSettled) (fun k => { k with st := .settled false }) with limit := false }
       (x.limit = true → (late x).targets.all Target.isSettled = true → ∃ t, exec (.hoistReportLimitExpiry id) s = .next t ∧ done (late x) t) ∧
       (x.limit = true → (late x).targets.all Target.isSettled = false → exec (.hoistReportLimitExpiry id) s = .next
         (s.modSend id (fun z => if z.limit then late z else z))))) ∧
    (∀ (l : PortNo) origin hseq rig delivered, s.rootStalled = true ∨ s.takeReport l = none →
      exec (.deliveryReport id target (.offDie l origin hseq rig delivered)) s = .next s) ∧
    (∀ (l : PortNo) origin hseq rig delivered u v, s.rootStalled = false → s.takeReport l = some (u, v) →
      let goesOn : TxFlit := { fvcf := v, body := .hoistReport origin hseq rig delivered }
      (origin.toNat / 1024 ≠ s.topo.chip →
        (∀ tr, s.trailOf origin hseq (bits v 34 4) = some tr →
          exec (.deliveryReport id target (.offDie l origin hseq rig delivered)) s = .next (u.sendFlits tr.back tr.port [goesOn])) ∧
        (s.trailOf origin hseq (bits v 34 4) = none → ∀ port, s.routeTo (origin.toNat / 1024) = some port →
          exec (.deliveryReport id target (.offDie l origin hseq rig delivered)) s = .next (u.sendFlits (s.treeVc port) port [goesOn]))) ∧
      (origin.toNat / 1024 = s.topo.chip → (∀ x ∈ s.ops.sends, x.id = id → x.msg.origin = origin → x.msg.hseq = hseq →
          x.targets.any (x.reported target rig) = false) →
        exec (.deliveryReport id target (.offDie l origin hseq rig delivered)) s = .next (u.bump cHoistLate 1)) ∧
      (origin.toNat / 1024 = s.topo.chip → ∀ x, s.ops.sends.find? (fun x => x.id == id && x.msg.origin == origin && x.msg.hseq == hseq &&
          x.targets.any (x.reported target rig)) = some x →
        exec (.deliveryReport id target (.offDie l origin hseq rig delivered)) s = .next
          ((u.modSend id (fun y => y.modTargets (x.reported target rig) (fun k => { k with st := .settled delivered }))).settleSend id)))

/-- `PortRegistersAreWritten` (R250 to R254, R270 to R272, R416, R425, R250, R415, R418): A store to a ring register of a running port is
applied when it is legal, and else is discarded with its bit of `EP_ERR`: a reserved field or encoding with `REG_ERR`, a ring in use with
`CFG_ERR`, a tail or head outside its bounds with `SQ_DB_ERR` or `CQ_DB_ERR`. A pop removes the oldest response and returns a credit;
`NQ_ERR` clears the queue's error. Each touches only its own port. Model's choice (logs 24, 26, 70): stores to a port that runs act during
the stop of a cinch too, and the units of the ring registers. `REGISTER_WRITE` clears the `W1C` bits of `EP_ERR`, holds the low half of a
notice, and has at every other writable offset the effect of that register's own row; at a read-only or reserved offset it is discarded with
`REG_ERR`. In `DOZE` a store wakes the block first, and one that comes before a `DOZE` request has gated the clocks ends that request; while
the ports do not run it has no effect. What a load reads is the register; in `RETAIN` it reads 0 (R418). Model's choice (log 24): what a
store does while the ports do not run. That ports run once the start-up of Masthead's memory is over is log 24. -/
def Obligations.PortRegistersAreWritten : Prop :=
 (∀ (s : State) (p : Pos) (v : Word64), s.running = true → s.dozing = false →
    let x := s.port p
    let now : Port → Instr → Prop := fun y c => exec c s = .next (s.setPort p y)
    let err : Nat → Port := fun i => { x with err := x.err ||| BitVec.ofNat 7 (2 ^ i) }
    let cfgOk := onlyFields v [(12, 40), (0, 4)] = true ∧ log2Ok v = true
    (¬cfgOk → now (err 4) (.epSqCfg p v) ∧ now (err 4) (.epCqCfg p v)) ∧
    (cfgOk → (x.sqHead ≠ x.sqTail → now (err 2) (.epSqCfg p v)) ∧ (x.sqHead = x.sqTail → now { x with sqCfg := v, sqHead := 0, sqTail := 0 } (.epSqCfg p v)) ∧
      (x.opened ≠ 0 ∨ x.cqHead ≠ x.cqTail → now (err 2) (.epCqCfg p v)) ∧
      (x.opened = 0 → x.cqHead = x.cqTail → now { x with cqCfg := v, cqHead := 0, cqTail := 0, cqPhase := true } (.epCqCfg p v))) ∧
    (onlyFields v [(0, 12)] = false → now (err 4) (.submissionDoorbell p v) ∧ now (err 4) (.completionDoorbell p v)) ∧
    (onlyFields v [(0, 12)] = true →
      let sqBad := ringOn x.sqCfg = false ∨ ringSize x.sqCfg ≤ v.toNat ∨ ringDist (ringSize x.sqCfg) x.sqHead v.toNat < ringDist (ringSize x.sqCfg) x.sqHead x.sqTail
      let cqBad := ringSize x.cqCfg ≤ v.toNat ∨ ringDist (ringSize x.cqCfg) x.cqHead x.cqTail < ringDist (ringSize x.cqCfg) x.cqHead v.toNat
      (sqBad → now (err 0) (.submissionDoorbell p v)) ∧ (¬sqBad → now { x with sqTail := v.toNat } (.submissionDoorbell p v)) ∧
      (cqBad → now (err 1) (.completionDoorbell p v)) ∧ (¬cqBad → now { x with cqHead := v.toNat } (.completionDoorbell p v))) ∧
    (onlyFields v [(0, 1)] = false → now (err 4) (.epTtPop p v)) ∧
    (onlyFields v [(0, 1)] = true → ∀ r l, x.resp = r :: l →
      (bit v 0 = true → now { x with resp := l, credits := x.credits + 1 } (.epTtPop p v)) ∧ (bit v 0 = false → now x (.epTtPop p v))) ∧
    (onlyFields v [(0, 1)] = true → x.resp = [] → now x (.epTtPop p v)) ∧
    (onlyFields v [(32, 8), (31, 1), (0, 24)] = false → now (err 4) (.epNqStat p v)) ∧
    (onlyFields v [(32, 8), (31, 1), (0, 24)] = true →
      (bit v 31 = true → now { x with nqErr := false, nqLast := none, nqRej := 0 } (.epNqStat p v)) ∧ (bit v 31 = false → now x (.epNqStat p v)))) ∧
 (∀ (s : State) (p : Pos) (ofs : BitVec 12) (v : Word64),
    (s.running = true → s.dozing = false →
      let x := s.port p
      (ofs = 0x008#12 → onlyFields v [(0, 7)] = true → exec (.registerWrite p ofs v) s = .next (s.setPort p { x with err := x.err &&& ~~~(BitVec.ofNat 7 v.toNat) })) ∧
      (ofs = 0x060#12 → exec (.registerWrite p ofs v) s = .next (s.setPort p { x with nqLo := v })) ∧
      (ofs ∉ [0x008#12, 0x010#12, 0x018#12, 0x028#12, 0x030#12, 0x040#12, 0x058#12, 0x060#12, 0x068#12, 0x070#12] →
        exec (.registerWrite p ofs v) s = .next (s.setPort p { x with err := x.err ||| 0x10#7 }))) ∧
    (∀ r ∈ [(0x010#12, Instr.epSqCfg p v), (0x018#12, .submissionDoorbell p v), (0x028#12, .epCqCfg p v), (0x030#12, .completionDoorbell p v),
      (0x058#12, .epTtPop p v), (0x068#12, .noticePost p v), (0x070#12, .epNqStat p v)],
      exec (.registerWrite p r.1 v) s = exec r.2 s ∧ (s.wake.running = true → s.wake.dozing = false → exec r.2 s.wake = exec r.2 s) ∧ (s.wake.running = false → exec r.2 s = .next s)) ∧
    (s.power.st = .active → s.dozing = true → s.wake = s.endLong 0x8012 0x10 [] ∧ s.wake.mh.long = none) ∧
    (s.power.st = .doze → s.mh.st = .lowPower → s.wake = { s with power := { s.power with st := .active }, mh := { s.mh with st := s.mh.before } }) ∧
    (let x := s.port p
     (s.power.st = .retain → ∀ o, s.portRead p o = 0#64) ∧ (s.power.st ≠ .retain → s.portRead p 0x008 = x.err.zeroExtend 64 ∧ s.portRead p 0x010 = x.sqCfg ∧ s.portRead p 0x028 = x.cqCfg ∧ s.portRead p 0x060 = 0#64 ∧
       (s.portRead p 0x000).toNat = (if s.topo.rigValid then 2 ^ 63 else 0) + s.rig p % 2 ^ 25)))

/-- `HostWindowIsWritten` (R324, R325, R327, R329, Table 11-3, R141, R144, R178): A doorbell rings its slots, in ascending order, behind those
that wait; a response head inside the written entries moves; a mask write signals the causes that it frees; `W1C` bits clear; a command slot
takes aligned stores of 1, 4 and 8 bytes. Everything else is discarded whole, and the offset of the first discarded store is kept. Model's
choice (log 38): which sizes of store a command slot takes. A store to `TT_INSPECT_SEL` captures the architectural part and the shadow of
the word that it selects, which the two capture registers then show; a selector that names no word is discarded. The word itself does not
change. -/
def Obligations.HostWindowIsWritten : Prop :=
 (∀ (s : State) (v : Word32), s.power.st ≠ .off →
    let w := s.win
    let n := v.toNat
    let bad : Nat → State := fun ofs => if w.werr then s else { s with win := { w with werr := true, werrOfs := BitVec.ofNat 16 ofs } }
    let rung := bitList (BitVec.ofNat 16 n)
    let badRing := 65536 ≤ n ∨ s.mh.ready = false ∨ rung.any (fun k => w.rung.contains k) = true
    let badHead := 32 ≤ n ∨ (w.rspTail + 32 - w.rspHead) % 32 < (n + 32 - w.rspHead) % 32
    (badRing → exec (.hwDoorbell v) s = .next (bad 0x10)) ∧
    (¬badRing → exec (.hwDoorbell v) s = .next ({ s with win := { w with rung := w.rung ++ rung } } : State).wake) ∧
    (badHead → exec (.hwRspHead v) s = .next (bad 0x1C)) ∧ (¬badHead → exec (.hwRspHead v) s = .next { s with win := { w with rspHead := n } }) ∧
    (8 ≤ n → exec (.hwIrqMask v) s = .next (bad 0x24)) ∧
    (n < 8 → ∃ t, exec (.hwIrqMask v) s = .next t ∧ t = { s with win := { w with irqMask := BitVec.ofNat 3 n }, out := t.out } ∧
      t.out.msix = ((bitList (w.irqStatus &&& w.irqMask &&& ~~~(BitVec.ofNat 3 n))).map w.vec).reverse ++ s.out.msix) ∧
    (∀ r ∈ [(0x0010#16, Instr.hwDoorbell v), (0x001C#16, .hwRspHead v), (0x0024#16, .hwIrqMask v), (0x0030#16, .ttInspectSel v)],
      exec (.hostWindowWrite r.1 4 (v.zeroExtend 64)) s = exec r.2 s) ∧
    (∀ (ofs : BitVec 16) (k : Fin 9) (x : Word64), 0x1000 ≤ ofs.toNat → ofs.toNat < 0x2000 → k.val ∈ [1, 4, 8] → ofs.toNat % k.val = 0 →
      ∃ t, exec (.hostWindowWrite ofs k x) s = .next t ∧ t = { s with win := { w with slots := t.win.slots } } ∧
        t.win.slots = putBytes w.slots (ofs.toNat - 0x1000) (leBytes k x.toNat)) ∧
    (∀ (ofs : BitVec 16) (k : Fin 9) (x : Word64), k.val ≠ 0 → (0x1000 ≤ ofs.toNat → ofs.toNat < 0x2000 → k.val ∉ [1, 4, 8] ∨ ofs.toNat % k.val ≠ 0) →
      (ofs.toNat < 0x1000 ∨ 0x2000 ≤ ofs.toNat → k.val ≠ 4 ∨ ofs.toNat % 4 ≠ 0 ∨ ofs.toNat ∉ [0x08, 0x10, 0x1C, 0x20, 0x24, 0x28, 0x30]) →
      exec (.hostWindowWrite ofs k x) s = .next (bad ofs.toNat)) ∧
    (exec (.hostWindowWrite 0x0008 4 1) s = .next { s with win := { w with werr := false, werrOfs := 0 } }) ∧
    (n < 8 → exec (.hostWindowWrite 0x0020 4 (v.zeroExtend 64)) s = .next { s with win := { w with irqStatus := w.irqStatus &&& ~~~(BitVec.ofNat 3 n) } }) ∧
    (vecOk n = true → exec (.hostWindowWrite 0x0028 4 (v.zeroExtend 64)) s = .next { s with win := { w with irqVec := v } }) ∧
    (vecOk n = false → exec (.hostWindowWrite 0x0028 4 (v.zeroExtend 64)) s = .next (bad 0x28))) ∧
 (∀ (s : State) (v : Word32), s.power.st ≠ .off →
    let w := v.toNat
    (w < 65536 → wordIndex w < 768 → ∃ t, exec (.ttInspectSel v) s = .next t ∧
      t = { s with win := { s.win with sel := BitVec.ofNat 16 w, capArch := (s.word w).arch, capShadow := s.shadowWord w } } ∧
      t.hostLoad 0x38 8 = (s.word w).arch.toNat ∧ t.hostLoad 0x40 8 = (s.shadowWord w).toNat ∧ t.hostLoad 0x30 4 = w) ∧
    ((65536 ≤ w ∨ 768 ≤ wordIndex w) → ∃ t, exec (.ttInspectSel v) s = .next t ∧ t = { s with win := { s.win with werr := true, werrOfs := t.win.werrOfs } } ∧
      t.win.werrOfs = (if s.win.werr then s.win.werrOfs else 0x30#16)) ∧
    (∀ (x : State) (ofs : BitVec 16) (k : Fin 9) (y : Word64), x.power.st = .off → exec (.hostWindowWrite ofs k y) x = .next x ∧ exec (.ttInspectSel v) x = .next x))

/-- `MailboxRowsAreChecked` (R327, R328, R331, R332): A mailbox row whose slot is not taken, because Masthead does not run, the slot is not the
next, or the response ring has no room, or whose slot holds another row's command, changes nothing. A taken command that fails a check is
answered once, with the status and field of the first check that it fails, in the order of R331; a code outside Table 11-7 is answered
`EINVAL` at field 0. Nothing but its slot, the response ring and the interrupt changes. That a row whose slot holds another command waits is
log 9; an unknown code, answered by whichever row takes it, is log 35. -/
def Obligations.MailboxRowsAreChecked : Prop :=
 (∀ (s : State) (n : SlotNo) (nonce : BitVec 288) (ok : Bool),
    ∀ r ∈ ([(Instr.hello n, 0x01, helloMine 0), (.debugChallenge n nonce, 0x01, helloMine 1), (.debugResponse n ok, 0x01, helloMine 2),
      (.debugLock n, 0x01, helloMine 3), (.topoSet n, 0x10, anyCmd), (.topoRead n, 0x11, anyCmd), (.groupDefine n, 0x12, anyCmd),
      (.groupDelete n, 0x13, anyCmd), (.contextBind n, 0x14, bindMine 0), (.contextRearm n, 0x14, bindMine 1),
      (.contextUnbind n, 0x14, bindMine 2), (.partnerSet n, 0x15, anyCmd), (.policySet n, 0x16, anyCmd), (.reefAllow n, 0x17, anyCmd),
      (.cinch n, 0x20, anyCmd), (.restore n, 0x21, anyCmd), (.testNode n, 0x30, anyCmd), (.calPortAdapt n, 0x31, calMine 0),
      (.calPortRecalibrate n, 0x31, calMine 1), (.calPortSetPhy n, 0x31, calMine 2), (.calPortSetTaps n, 0x31, calMine 3),
      (.spareMapRead n, 0x40, anyCmd), (.countersRead n, 0x41, anyCmd), (.syncInspect n, 0x42, anyCmd), (.ledgerInspect n, 0x43, anyCmd),
      (.dumpFetch n, 0x44, anyCmd), (.fwUpdateLoad n, 0x50, fwMine 0), (.fwUpdateActivate n, 0x50, fwMine 1),
      (.fwUpdateCommit n, 0x50, fwMine 2), (.letFly n, 0x60, anyCmd), (.powerStateActive n, 0x70, powerMine 0),
      (.powerStateDoze n, 0x70, powerMine 1), (.powerStateRetain n, 0x70, powerMine 2), (.powerStateOff n, 0x70, powerMine 3)] :
      List (Instr × Nat × (Cmd → Bool))),
      s.takes n = false ∨ knownCodes.contains (s.slotCmd n).code = true ∧
          ((s.slotCmd n).code ≠ r.2.1 ∨ r.2.2 (s.slotCmd n) = false) → exec r.1 s = .next s) ∧
 (∀ (s : State) (n : SlotNo) (nonce : BitVec 288) (ok : Bool) (d : Deny), s.takes n = true →
    ∀ r ∈ ([(Instr.hello n, 0x01, helloMine 0, helloLen, helloChecks), (.debugChallenge n nonce, 0x01, helloMine 1, helloLen, helloChecks),
      (.debugResponse n ok, 0x01, helloMine 2, helloLen, helloChecks), (.debugLock n, 0x01, helloMine 3, helloLen, helloChecks),
      (.topoSet n, 0x10, anyCmd, fun _ => 16, State.topoSetChecks), (.topoRead n, 0x11, anyCmd, fun _ => 0, noChecks),
      (.groupDefine n, 0x12, anyCmd, fun _ => 16, State.groupChecks), (.groupDelete n, 0x13, anyCmd, fun _ => 4, State.deleteChecks),
      (.contextBind n, 0x14, bindMine 0, fun _ => 16, State.bindChecks), (.contextRearm n, 0x14, bindMine 1, fun _ => 16, State.rearmChecks),
      (.contextUnbind n, 0x14, bindMine 2, fun _ => 16, State.unbindChecks), (.partnerSet n, 0x15, anyCmd, fun _ => 24, State.partnerChecks),
      (.policySet n, 0x16, anyCmd, fun c => 4 + 12 * policyCount c, State.policyChecks), (.reefAllow n, 0x17, anyCmd, fun _ => 4, reefChecks),
      (.cinch n, 0x20, anyCmd, fun _ => 16, State.cinchChecks), (.restore n, 0x21, anyCmd, fun _ => 24, State.restoreChecks),
      (.testNode n, 0x30, anyCmd, fun _ => 4, State.testChecks), (.calPortAdapt n, 0x31, calMine 0, fun _ => 8, calAdaptChecks),
      (.calPortRecalibrate n, 0x31, calMine 1, fun _ => 8, State.calRecalChecks), (.calPortSetPhy n, 0x31, calMine 2, fun _ => 8, State.calPhyChecks),
      (.calPortSetTaps n, 0x31, calMine 3, fun _ => 8, State.calTapsChecks), (.spareMapRead n, 0x40, anyCmd, fun _ => 0, noChecks),
      (.countersRead n, 0x41, anyCmd, fun _ => 4, countersChecks), (.syncInspect n, 0x42, anyCmd, fun _ => 8, State.inspectChecks),
      (.ledgerInspect n, 0x43, anyCmd, fun _ => 8, State.ledgerChecks), (.dumpFetch n, 0x44, anyCmd, fun _ => 4, dumpChecks),
      (.fwUpdateLoad n, 0x50, fwMine 0, fun _ => 16, fwChecks), (.fwUpdateActivate n, 0x50, fwMine 1, fun _ => 16, fwActivateChecks),
      (.fwUpdateCommit n, 0x50, fwMine 2, fun _ => 16, fwCommitChecks), (.letFly n, 0x60, anyCmd, fun _ => 4, flyChecks),
      (.powerStateActive n, 0x70, powerMine 0, fun _ => 4, activeChecks), (.powerStateDoze n, 0x70, powerMine 1, fun _ => 4, State.dozeChecks),
      (.powerStateRetain n, 0x70, powerMine 2, fun _ => 4, State.retainChecks), (.powerStateOff n, 0x70, powerMine 3, fun _ => 4, State.offChecks)] :
      List (Instr × Nat × (Cmd → Bool) × (Cmd → Nat) × (State → Cmd → List Check))),
      let c := s.slotCmd n
      let refused : Deny → Prop := fun d => exec r.1 s = .next ({ s with win := { s.win with rung := s.win.rung.erase n } }.respond d.status c.code
        c.seq.toNat n d.field d.data)
      (knownCodes.contains c.code = false → refused { status := rsEinval, field := 0, data := [] }) ∧
      (c.code = r.2.1 → r.2.2.1 c = true → firstDeny (s.commonChecks c (r.2.2.2.1 c) ++ r.2.2.2.2 s c) = some d → refused d))

/-- `RecordsAndSessions` (R328, R329, Table 11-5, R333, R334): A final response is written at `RSP_TAIL` of the ring as the host reads it:
status, code, sequence number, slot, phase, the body's length and the field; the tail moves on by one around the ring, and `IRQ_RSP` is set.
`HELLO` opens the session and clears `EV_LOST`; a challenge opens with the nonce of the security processor, the die and the unlock counter;
a verified response to the open challenge, within three tries, unlocks debug and counts, and any other is refused with `EPERM` and voids the
challenge; the lock ends the unlock. (That a response without an open challenge counts as a failed attempt is the model's reading, log 96.)
What an entry of the ring holds past its record is log 17 and is not stated. -/
def Obligations.RecordsAndSessions : Prop :=
 (∀ (s : State) (status cmd seq slot errfield : Nat) (body : List Byte), s.Sound → body.length ≤ 240 → status < 2 ^ 16 → cmd < 2 ^ 16 →
    seq < 2 ^ 32 → slot < 16 → errfield < 2 ^ 16 →
      let t := s.respond status cmd seq slot errfield body
      let a := 0x2000 + 256 * s.win.rspTail
      t.hostLoad a 2 = status ∧ t.hostLoad (a + 2) 2 = cmd ∧ t.hostLoad (a + 4) 4 = seq ∧ t.hostLoad (a + 8) 1 = slot ∧
        t.hostLoad (a + 9) 1 = flag s.win.rspPhase ∧ t.hostLoad (a + 10) 2 = body.length ∧ t.hostLoad (a + 12) 2 = errfield ∧
        (∀ i, i < body.length → t.hostLoad (a + 16 + i) 1 = (body.getD i 0).toNat) ∧
        (∀ b, 0x2000 ≤ b → b < 0x4000 → b < a ∨ a + 256 ≤ b → t.hostLoad b 1 = s.hostLoad b 1) ∧
        t.win.rspTail = (s.win.rspTail + 1) % 32 ∧ t.win.rspPhase = (if s.win.rspTail = 31 then !s.win.rspPhase else s.win.rspPhase) ∧
        t.win.irqStatus.getLsbD 0 = true ∧ t.win.rung = s.win.rung ∧ t.win.slots = s.win.slots ∧ t.mem = s.mem ∧ t.mh = s.mh ∧
        t.topo = s.topo ∧ t.ports = s.ports) ∧
 (∀ (s : State) (n : SlotNo) (nonce : BitVec 288) (verified : Bool),
    (s.Passes n 0x01 (helloMine 0) helloLen helloChecks → exec (.hello n) s =
      .next ({ s with mh := { s.mh with hello := true }, win := { s.win with evLost := 0 } }.answered n rsDone (s.helloBody []))) ∧
    (s.Passes n 0x01 (helloMine 1) helloLen helloChecks → exec (.debugChallenge n nonce) s =
      .next ({ s with sec := { s.sec with challenge := true } }.answered n rsDone
        (s.helloBody (wordBytes 8 Config.dieId ++ wordBytes 4 s.sec.unlockCtr ++ wordBytes 36 nonce)))) ∧
    (s.Passes n 0x01 (helloMine 2) helloLen helloChecks → s.sec.attempts < 3 → s.sec.challenge = true →
      exec (.debugResponse n true) s = .next
        ({ s with debug := true, sec := { s.sec with challenge := false, unlockCtr := s.sec.unlockCtr + 1 } }.answered n rsDone (s.helloBody []))) ∧
    (s.Passes n 0x01 (helloMine 2) helloLen helloChecks → (3 ≤ s.sec.attempts ∨ s.sec.challenge = false ∨ verified = false) →
      ∃ t, exec (.debugResponse n verified) s = .next t ∧ t.debug = s.debug ∧ t.sec.challenge = false ∧ t.sec.unlockCtr = s.sec.unlockCtr ∧
        t.sec.attempts = (if s.sec.attempts < 3 then s.sec.attempts + 1 else s.sec.attempts) ∧ t.win = (({ s with sec := t.sec }.take n).deny (s.slotCmd n)
          { status := rsEperm, field := 24, data := [] }).win) ∧
    (s.Passes n 0x01 (helloMine 3) helloLen helloChecks → exec (.debugLock n) s = .next ({ s with debug := false }.answered n rsDone (s.helloBody []))))

/-- `TopologyCommands` (R337 to R340): `TOPO_READ` reports every port; `TOPO_SET` becomes the long command and repeats the link-control exchange
of every port that it declares, and no topology changes yet; when every declared link is up as declared the topology is in force, Masthead
is configured and the distance table is written, and else the command is refused with the first link that is not, and every port that the
block names gets back what it had: the logical port and protection of the topology in force, or those of R337. (Which facts of its links a
block is held to is the model's reading, log 95; that the ports are put back so, and that completion is a row, is log 98.) -/
def Obligations.TopologyCommands : Prop :=
  ∀ (s : State) (n : SlotNo), s.Sound →
    (s.Passes n 0x11 anyCmd (fun _ => 0) noChecks → exec (.topoRead n) s = .next (s.answered n rsDone s.topoBody)) ∧
    (s.Passes n 0x10 anyCmd (fun _ => 16) State.topoSetChecks → ∃ t x, exec (.topoSet n) s = .next t ∧
      x = s.topoOf (load s ((s.slotCmd n).nat 16 8) ((s.slotCmd n).nat 24 4)) ∧
      t.mh = { s.mh with long := some { kind := .topo x, slot := n, seq := (s.slotCmd n).seq, cmd := 0x10 } } ∧
      t.topo = s.topo ∧ t.win = (s.answered n rsAccepted []).win ∧ t.mem = s.mem ∧ t.ctxs = s.ctxs ∧
      (∀ p, p ∉ x.links.flatMap (fun e => e.2.phys :: e.2.spare.toList) → t.lnk p = s.lnk p)) ∧
    (∀ l x, s.mh.long = some l → l.kind = .topo x →
      (∀ k, s.badLink x.links = some k → ∃ t, exec .topoSetComplete s = .next t ∧ t.topo = s.topo ∧ t.mh = { s.mh with long := none } ∧
        (∀ p, if (linkPorts x.links).contains p then
            (t.lnk p).llink = ((s.topo.links.find? (fun e => e.2.phys == p || e.2.spare == some p)).map (·.1)).getD p ∧
            (t.lnk p).prot = ((s.topo.links.find? (fun e => e.2.phys == p || e.2.spare == some p)).map (·.2.prot)).getD false
          else t.lnk p = s.lnk p) ∧
        t.win = ({ s with mh := { s.mh with long := none } }.respond rsEinval l.cmd l.seq.toNat l.slot 16 (leBytes 4 (64 + 32 * k))).win ∧ t.mem = s.mem) ∧
      (s.badLink x.links = none → ∃ t, exec .topoSetComplete s = .next t ∧
        t.topo = { x with dtGen := s.topo.dtGen + 2, dtPub := true } ∧ t.mh = { s.mh with st := .configured, long := none } ∧
        t.win = ({ s with mh := { s.mh with st := .configured, long := none } }.respond rsDone l.cmd l.seq.toNat l.slot 0xFFFF []).win ∧
        t.ctxs = s.ctxs ∧ t.link = s.link ∧ t.ports = s.ports ∧
        (∀ a, a < s.inp.regions.dist ∨ s.inp.regions.dist + 32832 ≤ a → Memory.read t.mem a = Memory.read s.mem a)))

/-- `GroupAndContextCommands` (R341 to R343, R273, R344, R165, R167): A group is defined as its block states it, or deleted, and its entry of
the distance table is written between two changes of `DT_GEN` once the table is published. A binding starts with no epoch and arms its
channel at phase 0; a re-arm puts a broken channel back to phase 0 with no arrivals and no waits; an unbinding frees the context and its
channel. -/
def Obligations.GroupAndContextCommands : Prop :=
 (∀ (s : State) (n : SlotNo), s.Sound →
    let c := s.slotCmd n
    let g := c.nat 16 2
    (s.Passes n 0x12 anyCmd (fun _ => 16) State.groupChecks → ∃ t, exec (.groupDefine n) s = .next t ∧
      t.group g = some (Block.group (load s (c.nat 20 8) (c.nat 28 4))) ∧ (∀ k, k ≠ g → t.group k = s.group k) ∧
      t.topo.dtGen = (if s.topo.dtPub then s.topo.dtGen + 2 else s.topo.dtGen) ∧ (s.topo.dtPub = false → t.mem = s.mem) ∧
      (s.topo.dtPub = true → Memory.readN t.mem (s.inp.regions.dist + 64 + 8 * g) 8 = t.dtEntry g ∧
        ∀ a, (a < s.inp.regions.dist ∨ s.inp.regions.dist + 4 ≤ a) →
          (a < s.inp.regions.dist + 64 + 8 * g ∨ s.inp.regions.dist + 64 + 8 * g + 8 ≤ a) → Memory.read t.mem a = Memory.read s.mem a) ∧
      t.win = (s.answered n rsDone []).win ∧ t.ctxs = s.ctxs ∧ t.mh = s.mh ∧ t.tt = s.tt ∧ t.link = s.link) ∧
    (s.Passes n 0x13 anyCmd (fun _ => 4) State.deleteChecks → ∃ t, exec (.groupDelete n) s = .next t ∧
      t.group g = none ∧ (∀ k, k ≠ g → t.group k = s.group k) ∧ (s.topo.dtPub = false → t.mem = s.mem) ∧
      (s.topo.dtPub = true → Memory.readN t.mem (s.inp.regions.dist + 64 + 8 * g) 8 = List.replicate 8 0) ∧
      t.win = (s.answered n rsDone []).win ∧ t.ctxs = s.ctxs ∧ t.mh = s.mh ∧ t.tt = s.tt ∧ t.link = s.link)) ∧
 (∀ (s : State) (n : SlotNo), s.Sound →
    let c := s.slotCmd n
    let ctx := c.nat 16 2
    (s.Passes n 0x14 (bindMine 0) (fun _ => 16) State.bindChecks → ∃ t, exec (.contextBind n) s = .next t ∧
      t.binding ctx = some { group := c.nat 18 2, chan := bindChan c, block := s.paramBlock c, started := 0, cut := 0, chosen := false, epochs := [] } ∧
      (∀ k, k ≠ ctx → t.binding k = s.binding k) ∧
      (∀ ch, bindChan c = some ch → t.chan ch = { chanDefault ch with st := .armed, ctx := ctx, group := c.nat 18 2 }) ∧
      (∀ ch, bindChan c ≠ some ch → t.chan ch = s.chan ch) ∧ t.win = (s.answered n rsDone []).win ∧ t.mem = s.mem ∧ t.topo = s.topo ∧ t.tt.words = s.tt.words) ∧
    (s.Passes n 0x14 (bindMine 1) (fun _ => 16) State.rearmChecks → ∃ t ch, exec (.contextRearm n) s = .next t ∧ s.chanOf ctx = some ch ∧
      t.chan ch = { chanDefault ch with st := .armed, ctx := (s.chan ch).ctx, group := (s.chan ch).group } ∧
      (∀ k, k ≠ ch → t.chan k = s.chan k) ∧ t.ctxs = s.ctxs ∧ t.win = (s.answered n rsDone []).win ∧ t.mem = s.mem ∧ t.tt.words = s.tt.words) ∧
    (s.Passes n 0x14 (bindMine 2) (fun _ => 16) State.unbindChecks → ∃ t, exec (.contextUnbind n) s = .next t ∧ t.binding ctx = none ∧
      (∀ k, k ≠ ctx → t.binding k = s.binding k) ∧ (∀ ch, s.chanOf ctx = some ch → t.chan ch = chanDefault ch) ∧
      (∀ ch, s.chanOf ctx ≠ some ch → t.chan ch = s.chan ch) ∧ t.win = (s.answered n rsDone []).win ∧ t.mem = s.mem ∧ t.topo = s.topo ∧ t.tt.words = s.tt.words))

/-- `PolicyCommands` (R345 to R347, R356): `POLICY_SET` puts every value that it names in force and leaves the others; `REEF_ALLOW` sets or
clears the grant of one context or of all; `PARTNER_SET` asks the partner for its power feed and is not answered yet; `LET_FLY` issues a
let-fly of its scope under the next identifier, which the response carries. -/
def Obligations.PolicyCommands : Prop :=
  ∀ (s : State) (n : SlotNo), s.Sound →
    let c := s.slotCmd n
    (s.Passes n 0x16 anyCmd (fun c => 4 + 12 * policyCount c) State.policyChecks → ∃ t, exec (.policySet n) s = .next t ∧
      (∀ e ∈ policyEntries c, t.policy e.1 = e.2) ∧ (∀ id, id ∉ (policyEntries c).map (·.1) → t.policy id = s.policy id) ∧
      (0x02 ∉ (policyEntries c).map (·.1) → t.tt = s.tt) ∧ (0x10 ∉ (policyEntries c).map (·.1) → t.led = s.led) ∧
      (0x10 ∉ (policyEntries c).map (·.1) → 0x11 ∉ (policyEntries c).map (·.1) → t.units = s.units) ∧
      t.win = (s.answered n rsDone []).win ∧
      t = { s with pol := t.pol, tt := t.tt, led := t.led, win := t.win, out := t.out, units := { s.units with unbacked := t.units.unbacked } }) ∧
    (s.Passes n 0x17 anyCmd (fun _ => 4) reefChecks → ∃ t, exec (.reefAllow n) s = .next t ∧
      (∀ k, k < 4096 → t.pol.grants.getLsbD k =
        (if c.nat 17 1 = 1 ∨ k = c.nat 18 2 then decide (c.nat 16 1 = 1) else s.pol.grants.getLsbD k)) ∧
      t = { s with pol := { s.pol with grants := t.pol.grants } }.answered n rsDone []) ∧
    (s.Passes n 0x15 anyCmd (fun _ => 24) State.partnerChecks → ∃ t, exec (.partnerSet n) s = .next t ∧
      t.mh = { s.mh with relay := s.mh.relay ++
        [.feed n c.seq { chip := c.nat 16 2, area := c.nat 24 8, len := c.nat 32 8, sameFeed := false }] } ∧
      t.link = (s.relayTo (c.nat 16 2) 1 0).link ∧ t = { s.take n with mh := t.mh, link := t.link }) ∧
    (s.Passes n 0x60 anyCmd (fun _ => 4) flyChecks → exec (.letFly n) s = .next
      (((s.take n).issueFly { scope := c.nat 16 1, allCtx := c.nat 17 1 == 1, ctx := c.nat 18 2 }).reply c rsDone (leBytes 2 s.mh.lfId)))

/-- `CinchesRunTheirPhases` (R348, R362, R363, R362 to R368): An accepted `CINCH` is the long command, with its number and the chosen contexts,
in phase A, and marks the bindings of the chosen contexts. This chip contributes its own reason, counts, number and bitmap to each internal
collective, and the outcome is that of all: with one number and one choice on every chip and no cause to abandon, the agreement fixes the
cut of each chosen context at the largest count and the drain begins; a drained chip is quiet (what the drain waits for is read from R365,
log 103); equal sums of sent and received messages end phase D, and the header of the partner half that phase E writes is zeroed. A common
cause, or a disagreement, abandons the cinch. A chip that does not drain gives its reason in the next round (log 131). A context map of 0
stands for every context (log 45). -/
def Obligations.CinchesRunTheirPhases : Prop :=
 (∀ (s : State) (n : SlotNo),
    let c := s.slotCmd n
    let chosen := s.chosenMap (cnMap c)
    s.Passes n 0x20 anyCmd (fun _ => 16) State.cinchChecks → ∃ t, exec (.cinch n) s = .next t ∧
      t.mh = { s.mh with
        long := some { kind := .cinch, slot := n, seq := c.seq, cmd := 0x20 }
        cut := some { number := cnNumber c, chosen := chosen, phase := .agree, reason := 0, imageLen := 0, before := [] } } ∧
      t.ctxs = s.ctxs.map (fun e => (e.1, { e.2 with chosen := chosen.getLsbD e.1, cut := 0 })) ∧
      t.win = (s.answered n rsAccepted []).win ∧ t = { s with mh := t.mh, ctxs := t.ctxs, win := t.win, out := t.out }) ∧
 (∀ (s : State) (c : CutRun) (a : CutAgreement) (reason s1 r1 s4 r4 : Nat), s.mh.cut = some c → s.mh.halted = false →
    let others : Nat → Nat := fun n => if s.topo.present.all (fun k => k == s.topo.chip) then 0 else n
    let one := s.topo.present.all (fun k => k == s.topo.chip) = true ∨ ∀ o, a.others = some o →
      max o.maxNumber c.number = min o.minNumber c.number ∧ max o.maxCrc c.crc = min o.minCrc c.crc
    let ra := max (others a.reason) c.reason
    let rq := max (others reason) c.reason
    let even := s.link.sent1 + others s1 = s.link.recv1 + others r1 ∧ s.link.sent4 + others s4 = s.link.recv4 + others r4
    let said : CutSent := .agree c.reason (s.chosenHere.map (fun e => (e.1, e.2.started))) c.number c.crc
    let told : CutSent := .quiet c.reason s.link.sent1 s.link.recv1 s.link.sent4 s.link.recv4
    let round := c.phase = .quiet ∨ (c.phase = .drain ∧ c.reason ≠ 0)
    (c.phase = .agree → ra = 0 → one → ∃ t, exec (.cinchAgreeResult a) s = .next t ∧
      t = { s.contribute said with ctxs := t.ctxs, mh := { s.mh with cut := some { c with phase := .drain } } } ∧
      t.ctxs = s.ctxs.map (fun e => (e.1,
        if e.2.chosen then { e.2 with cut := max e.2.started (others ((Tbl.find a.xs e.1).getD 0)) } else e.2))) ∧
    (c.phase = .agree → ra ≠ 0 → exec (.cinchAgreeResult a) s = .next ((s.contribute said).abandon ra c.reason)) ∧
    (c.phase = .agree → ra = 0 → ¬one → exec (.cinchAgreeResult a) s = .next ((s.contribute said).abandon 2 0)) ∧
    (c.phase = .drain → s.drained = true → exec .cinchDrained s = .next { s with mh := { s.mh with cut := some { c with phase := .quiet } } }) ∧
    (c.phase = .drain → s.drained = false → exec .cinchDrained s = .next s) ∧
    (round → rq ≠ 0 → exec (.cinchQuietRound reason s1 r1 s4 r4) s = .next ((s.contribute told).abandon rq c.reason)) ∧
    (c.phase = .quiet → rq = 0 → ¬even → exec (.cinchQuietRound reason s1 r1 s4 r4) s = .next (s.contribute told)) ∧
    (∀ p, s.pol.partner = some p → 128 ≤ p.len → c.phase = .quiet → rq = 0 → even →
      exec (.cinchQuietRound reason s1 r1 s4 r4) s = .next { s.contribute told with
        mh := { s.mh with cut := some { c with phase := .capture } }
        remote := Memory.writeN s.remote (remoteAt p.chip (s.partnerBase p)) (List.replicate 64 0) }))

/-- `CinchesCommitOrLeaveNothing` (R368 to R371, R371, R363, R372): At rest (log 47), phase E leaves the sections of the image behind a header
of zeros in the partner half that does not hold the newest durable image, or notes its own cause: an image that is too long for the halves
(log 46), or a capture that failed; it releases the stop. The commit of a cinch without a cause writes the header, takes the number and the
half, and completes with `DONE`. The flash copy follows, ahead of older ones that have not begun; on a same-feed pairing it comes before the
commit, which waits for it and then writes the flash header too. A cause abandons the cinch, and the durable image stays. The first copy
that waits has begun, its header zeroed. When it ends after its commit, the image at its partner chip is the newest one in flash, and a copy
that fails leaves a header of zeros there; one that comes before the commit stays under a header of zeros, and its failure is this chip's
cause to abandon. The next copy then begins. A cinch that is abandoned, by a cause or because a phase but E has not ended in time, is over:
no stop, no choice of contexts, no long command; the newest durable image, its number and all of chip memory stay as they are. A drain that
takes too long is this chip's reason, and one that still has not ended when the next round is late ends the cinch (logs 48, 131). Which half
an image must fit is log 46; what the capture waits for is log 47; the reason of a late phase F is log 48. -/
def Obligations.CinchesCommitOrLeaveNothing : Prop :=
 (∀ (s : State) (c : CutRun) (p : Partner) (good : Bool) (reason : Nat), s.mh.cut = some c → s.mh.halted = false → s.pol.partner = some p →
    let r := max (if s.topo.present.all (fun k => k == s.topo.chip) then 0 else reason) c.reason
    let half := remoteAt p.chip (s.partnerBase p)
    let copy : Nat → Bool → FlashCopy := fun len early => { number := c.number, chip := p.chip, src := s.partnerBase p, len := len, early := early }
    (c.phase = .capture → s.atRest = false → exec (.cinchCaptureDone good) s = .next s) ∧
    (c.phase = .capture → s.atRest = true → c.reason = 0 →
      let body := s.imageBytes c.chosen
      let fits := !s.tooLong p (64 + body.length)
      ∃ t, exec (.cinchCaptureDone good) s = .next t ∧
        t.mh.cut = some { c with
          phase := .commit
          reason := if fits then (if good then 0 else 8) else 7
          imageLen := if fits then 64 + body.length else c.imageLen } ∧
        t.remote = (if fits then Memory.writeN s.remote half (List.replicate 64 0 ++ (if good then body else [])) else s.remote) ∧
        t.mh.flashWait = s.mh.flashWait ++ (if p.sameFeed && fits && good then [copy (64 + body.length) true] else []) ∧
        (p.sameFeed = false → t.mem = s.mem) ∧ t.cut = s.cut ∧ t.win = s.win ∧ t.ctxs = s.ctxs ∧ t.pol = s.pol ∧ t.led = s.led) ∧
    (c.phase = .commit → r = 0 → s.mh.flashWait.any (·.early) = false → ∃ t, exec (.cinchCommitResult reason) s = .next t ∧
      t.remote = Memory.writeN s.remote half (s.imageHeader c.number c.imageLen) ∧
      t.cut = { s.cut with
        last := c.number, half := some (nextHalf s.cut.half)
        flashHalf := if p.sameFeed then some (nextHalf s.cut.flashHalf) else s.cut.flashHalf
        flashed := if p.sameFeed then c.number else s.cut.flashed } ∧ t.mh.cut = none ∧ t.mh.long = none ∧
      t.mh.flashWait = s.mh.flashWait.take 1 ++ (if s.hasFlash && !p.sameFeed then [copy c.imageLen false] else []) ∧
      t.mem = (if p.sameFeed then Memory.writeN s.mem s.flashBase (s.imageHeader c.number c.imageLen)
        else if s.hasFlash ∧ s.mh.flashWait = [] then Memory.writeN s.mem s.flashBase (List.replicate 64 0) else s.mem) ∧
      t.out.cinch = .commit c.reason :: s.out.cinch ∧ t.pol = s.pol ∧ t.led = s.led) ∧
    (c.phase = .commit → s.mh.flashWait.any (·.early) = true → c.reason = 0 → exec (.cinchCommitResult reason) s = .next s) ∧
    (c.phase = .commit → r ≠ 0 → (s.mh.flashWait.any (·.early) = false ∨ c.reason ≠ 0) →
      exec (.cinchCommitResult reason) s = .next ((s.contribute (.commit c.reason)).abandon r c.reason))) ∧
 (∀ (s : State) (k : FlashCopy) (rest : List FlashCopy) (good : Bool), s.mh.flashWait = k :: rest →
    let waits := { s.mh with flashWait := rest }
    let image := Memory.readN s.remote (remoteAt k.chip k.src) k.len
    let zeros : List Byte := List.replicate 64 0
    (k.early = false → exec (.cinchFlashCopyDone good) s = .next (if good then
      { s with mh := waits, mem := Memory.writeN s.mem s.flashBase image, cut := { s.cut with flashHalf := some (nextHalf s.cut.flashHalf), flashed := k.number } }
      else { s with mh := waits, mem := Memory.writeN s.mem s.flashBase zeros }).beginCopy) ∧
    (k.early = true → exec (.cinchFlashCopyDone good) s = .next (if good then
      { s with mh := waits, mem := Memory.writeN s.mem s.flashBase (zeros ++ image.drop 64) }
      else { s with
        mh := { waits with cut := s.mh.cut.map (fun (c : CutRun) => if c.reason = 0 then { c with reason := 8 } else c) }
        mem := Memory.writeN s.mem s.flashBase zeros }).beginCopy) ∧
    (rest = [] → ∀ u : State, u.mh.flashWait = rest → u.beginCopy = u) ∧
    (∀ u : State, u.mh.flashWait = rest → rest ≠ [] → u.beginCopy = { u with mem := Memory.writeN u.mem u.flashBase zeros })) ∧
 (∀ (s : State) (c : CutRun) (l : Long) (reason mine : Nat), s.mh.cut = some c → s.mh.long = some l →
    (let t := s.abandon reason mine
     t.mh.cut = none ∧ t.mh.long = none ∧ t.stopped = false ∧ (∀ e ∈ t.ctxs, e.2.chosen = false ∧ e.2.cut = 0) ∧
        t.cut = s.cut ∧ t.remote = s.remote ∧ t.mem = s.mem ∧ t.led = s.led ∧ t.ops = s.ops ∧
        t.mh.flashWait = s.mh.flashWait.filter (fun k => !k.early) ∧
        t.win = (s.respond (if mine = 7 then rsEnospc else rsEstate) l.cmd l.seq.toNat l.slot 0xFFFF
          (s.cinchBody reason 0 0 0 s.chosenHere.length)).win) ∧
    (s.mh.halted = false →
      (c.phase = .agree → exec .cinchPhaseTimeout s = .next (s.abandon 1 c.reason)) ∧
      (c.phase = .drain → c.reason = 0 → exec .cinchPhaseTimeout s = .next { s with mh := { s.mh with cut := some { c with reason := 3 } } }) ∧
      (c.phase = .drain → c.reason ≠ 0 → exec .cinchPhaseTimeout s = .next (s.abandon 4 c.reason)) ∧
      (c.phase = .quiet → exec .cinchPhaseTimeout s = .next (s.abandon 4 c.reason)) ∧
      (c.phase = .commit → exec .cinchPhaseTimeout s = .next (s.abandon 6 c.reason))) ∧
    ((s.mh.halted = true ∨ c.phase = .capture) → exec .cinchPhaseTimeout s = .next s))

/-- `RestoreBringsBack` (R377, R376): An accepted `RESTORE` is answered `ACCEPTED` and, the image in effect, `DONE`. Every sync word has the
value, mode, owner and flags of its record, and every shadow is that of reset; the links, the topology, the units and Masthead stay. A
recorded context has its count of epochs and the statuses of the last four again, and a context without a record stays. A recorded channel
is armed or broken again in its phase, with its arrivals, its counts and the waits recorded for it, each in the recorded order; one recorded
unbound is unbound. A recorded tag has its slot, its tokens and its count again. A port without a held operation has its rings, its credits
and its queues as recorded, with the waits recorded for it. A held receive is posted again, in the recorded order. A sync word has its
recorded waiters, each in the recorded order. How the fields that an image does not carry are set is log 49. -/
def Obligations.RestoreBringsBack : Prop :=
 (∀ (s : State) (n : SlotNo), s.Sound → s.Passes n 0x21 anyCmd (fun _ => 24) State.restoreChecks →
    let c := s.slotCmd n
    let b : Block := load s (rtAddr c) (rtLen c)
    ∃ t, exec (.restore n) s = .next t ∧ t = (((s.answered n rsAccepted []).applyImage b).reply c rsDone []) ∧
      (∀ i, i < 49152 →
        let w := i / 768 * 1024 + i % 768
        let x := wordOf (BitVec.ofNat 64 (Block.nat ((b.secRecs 2).getD i []) 0 8))
        t.word w = { x with queue := (t.word w).queue, drain := (t.word w).drain }) ∧
      (∀ w, t.shadowOf w = shadowDefault w) ∧
      t.topo = s.topo ∧ t.link = s.link ∧ t.units = s.units ∧ t.mh = s.mh ∧ t.pol = s.pol ∧ t.remote = s.remote ∧ t.cut = s.cut) ∧
 (∀ (s : State) (n : SlotNo), s.Sound → s.Passes n 0x21 anyCmd (fun _ => 24) State.restoreChecks →
    let b : Block := load s (rtAddr (s.slotCmd n)) (rtLen (s.slotCmd n))
    let waits : Nat → Nat → List BWaiter := fun i phase =>
      ((sortBy (fun r => Block.nat r 8 2) (b.secRecs 3)).filter (fun r => Block.nat r 3 1 != 2 && Block.nat r 0 2 % 64 == i)).map (fun r =>
        { pos := Block.nat r 4 4 % 1024, top := Block.nat r 3 1, tmo := Block.nat r 10 1 % 16, phase := phase })
    ∃ t, exec (.restore n) s = .next t ∧
      (((b.secRecs 1).map (fun r => Block.nat r 0 2)).Nodup → ∀ r ∈ b.secRecs 1, ∀ x, s.binding (Block.nat r 0 2) = some x →
        t.binding (Block.nat r 0 2) = some { x with
          started := Block.nat r 8 4
          epochs := (List.range (min (Block.nat r 8 4) 4)).map (fun i =>
            (Block.nat r (16 + 2 * i) 2, (statusOf (Block.nat r (24 + i) 1)).getD .ok)) }) ∧
      (∀ ctx, ctx ∉ (b.secRecs 1).map (fun r => Block.nat r 0 2) → t.binding ctx = s.binding ctx) ∧
      (∀ i, i < 64 → let r := (b.secRecs 4).getD i []
        (Block.nat r 1 1 = 0 → t.chan i = { chanDefault i with waits := waits i 0 }) ∧
        (Block.nat r 1 1 ≠ 0 → ∀ x g, s.binding (Block.nat r 8 2) = some x → s.group x.group = some g →
          let here := bitList (BitVec.ofNat 1024 (Block.nat r 32 128))
          t.chan i = { chanDefault i with
            st := if Block.nat r 1 1 = 1 then .armed else .broken, ctx := Block.nat r 8 2, group := x.group, phase := Block.nat r 2 1
            arrived := here, last := (t.chan i).last, trim := bit (BitVec.ofNat 8 (Block.nat r 3 1)) 0, nodes := restoredCounts g r
            sentUp := here.length == g.locals.length, prewarned := (t.chan i).prewarned, waits := waits i (Block.nat r 2 1) }))) ∧
 (∀ (s : State) (n : SlotNo), s.Sound → s.Passes n 0x21 anyCmd (fun _ => 24) State.restoreChecks →
    let b : Block := load s (rtAddr (s.slotCmd n)) (rtLen (s.slotCmd n))
    let ws := sortBy (fun r => Block.nat r 8 2) (b.secRecs 3)
    let waiter : Block → Waiter := fun r =>
      { pos := 16 * wordCluster (Block.nat r 0 2) + Block.nat r 2 1 % 16, operand := Block.nat r 4 4 % 2 ^ 20, tmo := Block.nat r 10 1 % 16 }
    ∃ t, exec (.restore n) s = .next t ∧
      ((∀ r ∈ b.secRecs 8, dOpcode (descOf (r.drop 16)) = 0x32) → ∀ k, k < 64 → let r := (b.secRecs 5).getD k []
        (Block.nat r 2 1 = 0 → t.tagSlot k = s.tagSlot k) ∧
        (Block.nat r 2 1 ≠ 0 → t.tagSlot k = {
          st := if Block.nat r 2 1 = 1 then .live else .quarantine, tag := BitVec.ofNat 16 (Block.nat r 0 2), gen := BitVec.ofNat 8 (Block.nat r 3 1)
          tokBase := Block.nat r 4 3, ntok := Block.nat r 8 3, blocks := (t.tagSlot k).blocks, routeDone := true
          routeCancelled := false, nopen := Block.nat r 16 4 })) ∧
      (∀ p, p < 1024 → (∀ h ∈ b.secRecs 8, Block.nat h 0 2 ≠ p) → let r := (b.secRecs 7).getD p []
        t.port p = { s.port p with
          sqCfg := BitVec.ofNat 64 (Block.nat r 0 8), cqCfg := BitVec.ofNat 64 (Block.nat r 8 8), sqHead := Block.nat r 16 2
          sqTail := Block.nat r 18 2, cqHead := Block.nat r 20 2, cqTail := Block.nat r 22 2, cqPhase := Block.nat r 24 1 == 1
          credits := Block.nat r 25 1, heldResp := []
          resp := (List.range (Block.nat r 26 1)).map (fun i => BitVec.ofNat 64 (Block.nat r (32 + 8 * i) 8))
          nq := (List.range (Block.nat r 27 1)).map (fun i => BitVec.ofNat 128 (Block.nat r (288 + 16 * i) 16))
          waits := ws.filterMap (fun r =>
            if Block.nat r 3 1 = 2 then (if (waiter r).pos = p then some (false, Block.nat r 0 2) else none)
            else if Block.nat r 4 4 % 1024 = p then some (true, Block.nat r 0 2 % 64) else none) }) ∧
      t.ops.recvs = (b.secRecs 8).filterMap (fun r => let d := descOf (r.drop 16)
        if dOpcode d = 0x32 then some { pos := Block.nat r 0 2 % 1024, chan := dHchan d, dst := dDst d, rlen := dHlen d, desc := d
                                        ring := Block.nat r 2 2, applied := false, live := true } else none) ∧
      (∀ i, i < 49152 → let w := i / 768 * 1024 + i % 768
        let mine := (ws.filter (fun r => Block.nat r 3 1 == 2 && Block.nat r 0 2 == w)).map waiter
        let zero : Waiter → Bool := fun q => (t.word w).mode == .count && q.operand == 0
        (t.word w).drain = mine.filter zero ∧ (t.word w).queue = mine.filter (fun q => !zero q)))

/-- `TestsRunAndEnd` (R349, R399, R400, R390, R400 to R402, R421, R424): An accepted `TEST_NODE` is the long command, and the test of its unit
is noted; in the background a unit is tested only while it is not marked failed, a spare is free for it and tests may run, and one ledger
bank at a time. Only the units and Masthead's own state change. When a test that was not forced ends, the unit is marked failed by a
failure. A pass ends any mark, but that of the background leaves a unit that has been marked meanwhile as it is (log 111, DEDUCED). The
command, if there is one, completes with the result and the signature. Without a test of the unit nothing changes; a pass of a ledger bank
also moves the entries that lie elsewhere. A reset of a unit that no position uses leaves only its record. -/
def Obligations.TestsRunAndEnd : Prop :=
 (∀ (s : State) (n : SlotNo) (u : UnitId),
    (s.Passes n 0x30 anyCmd (fun _ => 4) State.testChecks →
      let c := s.slotCmd n
      ∃ t x, exec (.testNode n) s = .next t ∧ t = { s with units := t.units, mh := t.mh, win := t.win, out := t.out } ∧
        t.mh = { s.mh with
          long := some { kind := .test (tnUnit c) (tnForce c), slot := n, seq := c.seq, cmd := 0x30 }
          tests := s.mh.tests ++ [x] } ∧
        x.unit = tnUnit c ∧ x.background = false ∧ t.win = (s.answered n rsAccepted []).win) ∧
    (s.mayTest = true → s.rotates u = true → s.testDeny u false = none →
      ∃ t x, exec (.backgroundUnitTest u) s = .next t ∧ t = { s with units := t.units, mh := { s.mh with tests := s.mh.tests ++ [x] } } ∧
        x.unit = u ∧ x.background = true ∧ x.forced = false) ∧
    ((s.mayTest = false ∨ s.rotates u = false ∨ s.testDeny u false ≠ none) → exec (.backgroundUnitTest u) s = .next s) ∧
    (u ∈ s.units.failed → s.rotates u = false) ∧
    (∀ b b' : Fin 68, (∃ x ∈ s.mh.tests, x.background = true ∧ x.unit = .bank b') → s.rotates (.bank b) = false)) ∧
 (∀ (s : State) (u : UnitId) (pass : Bool) (signature : Word32),
    (s.mh.tests.find? (fun t => t.unit == u) = none → exec (.testComplete u pass signature) s = .next s) ∧
    (∀ x, s.mh.tests.find? (fun t => t.unit == u) = some x → s.testRuns x = false → exec (.testComplete u pass signature) s = .next s) ∧
    (∀ x, s.mh.tests.find? (fun t => t.unit == u) = some x → s.testRuns x = true → x.forced = false →
      ∃ t, exec (.testComplete u pass signature) s = .next t ∧
        (pass = true → (x.background = true → u ∉ s.units.failed) → u ∉ t.units.failed) ∧
        (pass = true → x.background = true → u ∈ s.units.failed → u ∈ t.units.failed) ∧
        (pass = true → t = { s with units := t.units, mh := t.mh, win := t.win, out := t.out, led := t.led, mem := t.mem } ∧
          ((∀ b, u ≠ .bank b) → t.mem = s.mem ∧ t.led = s.led) ∧
          (x.background = false → s.testLong u = true → ∀ l, s.mh.long = some l → t.win = (s.respond rsDone l.cmd l.seq.toNat l.slot 0xFFFF
            (leBytes 4 0 ++ leBytes 4 0 ++ wordBytes 4 signature)).win)) ∧
        (pass = false → u ∈ t.units.failed ∧ t.mem = s.mem ∧ t.led = s.led) ∧
        (x.background = false → s.testLong u = true → t.mh.long = none) ∧
        (∀ y ∈ t.mh.tests, y ∈ s.mh.tests.erase x) ∧ t.tt = s.tt ∧ t.topo = s.topo ∧ t.link = s.link)) ∧
 (∀ (s : State) (u : UnitId),
    (s.mhActs = true → s.idleUnit u = true → ∃ t, exec (.nodeReset u) s = .next t ∧ t = { s with win := t.win, out := t.out } ∧
      (s.win.freeEntries ≠ 0 → t.win.rspTail = (s.win.rspTail + 1) % 32 ∧ t.win.irqStatus.getLsbD 1 = true)) ∧
    (s.mhActs = false ∨ s.idleUnit u = false → exec (.nodeReset u) s = .next s))

/-- `Calibration` (R350, R399, R335, R404, R405): Adaptation and recalibration are the long command of the port until its lock is back; with a
free spare the link moves there first; the physical layer and the transmit settings take effect at once, in `ACCEPTED` and `DONE`. When a
port under calibration has its lock, a port that trains exchanges link control, and the command completes; in the background a port is
recalibrated only with a free spare or no declared link. What marks the lock of a port that has no long command is log 64's (DEDUCED). Where
the TAP does not reach the network, its segments read closed; where it does, an instrument is used through its open segment, as far as Table
13-8 allows it. Without a debug unlock only reads are allowed; a halt stops Masthead, a resume lets it go on, and a halted core's register
reads as it was written. That the network is released is an operand, and what a step leaves in the registers is free (log 106, the model's
choice). -/
def Obligations.Calibration : Prop :=
 (∀ (s : State) (n : SlotNo), s.Sound →
    let c := s.slotCmd n
    let p := cpPort c
    let long := { s.mh with long := some { kind := .cal p, slot := n, seq := c.seq, cmd := 0x31 } }
    let cals := if s.mh.cals.contains p then s.mh.cals else s.mh.cals ++ [p]
    (s.Passes n 0x31 (calMine 0) (fun _ => 8) calAdaptChecks →
      exec (.calPortAdapt n) s = .next { s.answered n rsAccepted [] with mh := { long with cals := cals } }) ∧
    (s.Passes n 0x31 (calMine 1) (fun _ => 8) State.calRecalChecks → ∃ t, exec (.calPortRecalibrate n) s = .next t ∧
      t = { s.answered n rsAccepted [] with topo := t.topo, link := t.link, keys := t.keys, mh := { long with cals := cals } } ∧
      (∀ q, s.spareFor p = some q → t.topo = (s.movePort p q).topo ∧ t.link = (s.movePort p q).link ∧ t.keys = (s.movePort p q).keys) ∧
      (s.spareFor p = none → t.topo = s.topo ∧ t.keys = s.keys ∧ (∀ q, q ≠ p → t.lnk q = s.lnk q) ∧
        t.lnk p = (if (s.declOn p).isSome ∧ (s.lnk p).isUp = true then (s.lnk p).retrain (s.lnk p).lanes else Link.fresh p (s.lnk p)))) ∧
    (s.Passes n 0x31 (calMine 2) (fun _ => 8) State.calPhyChecks → exec (.calPortSetPhy n) s = .next
      ({ s with inp := { s.inp with phy := Tbl.set boardDefault s.inp.phy p (c.nat 19 1) }, mh := { s.mh with long := none } }.answered n rsAccepted []
        |>.reply c rsDone [])) ∧
    (s.Passes n 0x31 (calMine 3) (fun _ => 8) State.calTapsChecks → exec (.calPortSetTaps n) s = .next
      ({ s with inp := { s.inp with taps := Tbl.set (fun _ => 0) s.inp.taps p (BitVec.ofNat 32 (c.nat 20 4)) }, mh := { s.mh with long := none } }.answered n rsAccepted []
        |>.reply c rsDone []))) ∧
 (∀ (s : State) (l : PortNo), s.Sound →
    (l.val ∈ s.mh.cals → ∃ t, exec (.calibrationDone l) s = .next t ∧ t.mh.cals = s.mh.cals.filter (fun p => p ≠ l.val) ∧
      (((s.lnk l).st = .retraining ∨ (s.lnk l).st = .training) → t.lnk l = Link.startExchange l { s.lnk l with locked := true }) ∧
      (¬((s.lnk l).st = .retraining ∨ (s.lnk l).st = .training) → t.link = s.link) ∧ (∀ q, q ≠ l.val → t.lnk q = s.lnk q) ∧
      (∀ x, s.mh.long = some x → x.kind = .cal l → t.mh.long = none ∧
        t.win = (s.respond rsDone x.cmd x.seq.toNat x.slot 0xFFFF []).win) ∧
      (s.calLong l = false → t.mh.long = s.mh.long ∧ t.win = s.win) ∧ t = { s with link := t.link, mh := t.mh, win := t.win, out := t.out }) ∧
    (l.val ∉ s.mh.cals → exec (.calibrationDone l) s = .next s) ∧
    (s.mayTest = true → s.needsSpare l = false → l.val ∉ s.mh.cals → exec (.portRecalibration l) s = .next (s.recalibrate l)) ∧
    ((s.mayTest = false ∨ s.needsSpare l = true ∨ l.val ∈ s.mh.cals) → exec (.portRecalibration l) s = .next s)) ∧
 (∀ (s : State) (x : Instrument) (released : Bool),
    (s.tapReaches released = false → exec (.tapInstrumentAccess ⟨x, released⟩) s = .next { s with tap := { s.tap with opened := [] } }) ∧
    (s.power.st ≠ .off → s.mh.st ≠ .boot → s.mh.st ≠ .fatal → s.debug = false ∨ released = false → s.tapReaches released = false) ∧
    (s.tapReaches released = true →
      (∀ g, exec (.tapInstrumentAccess ⟨.openSegment g, released⟩) s = .next { s with
        tap := { s.tap with opened := if g ∈ s.tap.opened then s.tap.opened else s.tap.opened ++ [g] } }) ∧
      ((∀ g, x ≠ .openSegment g) → tapSegment x ∉ s.tap.opened → exec (.tapInstrumentAccess ⟨x, released⟩) s = .next s) ∧
      (s.tapAllows x = false → exec (.tapInstrumentAccess ⟨x, released⟩) s = .next s) ∧
      (∀ g, g ∈ s.tap.opened → exec (.tapInstrumentAccess ⟨.closeSegment g, released⟩) s = .next { s with
        tap := { s.tap with opened := s.tap.opened.filter (fun y => y ≠ g) } }) ∧
      (.chip ∈ s.tap.opened →
        exec (.tapInstrumentAccess ⟨.status, released⟩) s = .next { s with tap := { s.tap with scan := s.spareMap } } ∧
        (s.debug = true →
          (s.mh.halted = false → ∃ t, exec (.tapInstrumentAccess ⟨.haltMasthead, released⟩) s = .next t ∧
            t = { s with mh := { s.mh with halted := true }, tap := t.tap, free := t.free } ∧ t.tap.regs = []) ∧
          (s.mh.halted = true → exec (.tapInstrumentAccess ⟨.haltMasthead, released⟩) s = .next s) ∧
          exec (.tapInstrumentAccess ⟨.resumeMasthead, released⟩) s = .next
            { s with mh := { s.mh with halted := false }, tap := { s.tap with regs := [] } } ∧
          (s.mh.halted = true → ∀ core r v, ∃ t, exec (.tapInstrumentAccess ⟨.writeRegister core r v, released⟩) s = .next t ∧
            t = { s with tap := { s.tap with regs := t.tap.regs } } ∧
            (∃ t', exec (.tapInstrumentAccess ⟨.readRegister core r, released⟩) t = .next t' ∧
              t' = { t with tap := { t.tap with scan := wordBytes 4 v } }))))) ∧
    (s.debug = false → (x = .status ∨ (∃ g, x = .openSegment g) ∨ (∃ g, x = .closeSegment g) ∨ ∃ p lane, x = .eyeMonitor p lane) ∨ s.tapAllows x = false))

/-- `InspectionCommands` (R351 to R355): Each is answered `DONE` with what it reads. `COUNTERS_READ` clears the counters of the set that it has
read when asked to, and `DUMP_FETCH` releases the dump when asked to; nothing else changes. A `SYNC_INSPECT` of another chip's words asks
that chip through `MH_RELAY`, and is not answered yet. -/
def Obligations.InspectionCommands : Prop :=
  ∀ (s : State) (n : SlotNo), s.Sound →
    let c := s.slotCmd n
    (s.Passes n 0x40 anyCmd (fun _ => 0) noChecks → exec (.spareMapRead n) s = .next (s.answered n rsDone s.spareMap)) ∧
    (s.Passes n 0x41 anyCmd (fun _ => 4) countersChecks → ∃ t, exec (.countersRead n) s = .next t ∧
      t = { s with counters := t.counters }.answered n rsDone (s.countersBody (c.nat 16 1)) ∧
      (∀ i, t.counter i = (if c.nat 17 1 = 1 ∧ i ∈ setCounters (c.nat 16 1) then 0 else s.counter i))) ∧
    (s.Passes n 0x42 anyCmd (fun _ => 8) State.inspectChecks →
      (siChip c = s.topo.chip ∨ c.nat 17 1 = 0 → exec (.syncInspect n) s = .next
        (s.answered n rsDone ((List.range (c.nat 17 1)).flatMap (fun i => s.inspectItem (c.nat 16 1) (c.nat 20 2 + i))))) ∧
      (siChip c ≠ s.topo.chip → c.nat 17 1 ≠ 0 → ∃ t, exec (.syncInspect n) s = .next t ∧ t = { s.take n with mh := t.mh, link := t.link } ∧
        t.mh = { s.mh with relay := s.mh.relay ++ [.words n c.seq (siChip c) (c.nat 20 2) (c.nat 17 1) []] })) ∧
    (s.Passes n 0x43 anyCmd (fun _ => 8) State.ledgerChecks → exec (.ledgerInspect n) s = .next (s.answered n rsDone (leBytes 8 (liCount c) ++
      (if liWhat c = 0 then (List.range (liCount c)).flatMap (fun i =>
          s.entryItem (s.tagSlot ((s.liSlot c).getD 0)) (liFirst c + i - (s.tagSlot ((s.liSlot c).getD 0)).tokBase))
        else (List.range (liCount c)).flatMap (fun i => s.tagItem (liFirst c + i)))))) ∧
    (s.Passes n 0x44 anyCmd (fun _ => 4) dumpChecks → exec (.dumpFetch n) s = .next
      ({ s with dump := if c.nat 16 1 = 1 then { s.dump with valid := false } else s.dump }.answered n rsDone s.dump.body))

/-- `DumpFetches` (R331, R355): `DUMP_FETCH` has a body of four bytes, whose first, `DF_RELEASE`, is 0 or 1; any other is refused. It returns
whether a dump is valid, and its address, length and sequence number; with `DF_RELEASE` 1 the dump is consumed, and the region may take a
new one. That the three bytes after the first must be 0, and that the first is looked at first, is the model's reading (log 100). -/
def Obligations.DumpFetches : Prop :=
  ∀ (s : State) (n : SlotNo), s.takes n = true → (s.slotCmd n).code = 0x44 →
    let c := s.slotCmd n
    let deny (f : Nat) : Prop := firstDeny (s.commonChecks c 4 ++ dumpChecks s c) = some { status := rsEinval, field := f, data := [] } ∧
      exec (.dumpFetch n) s = .next ((s.take n).deny c { status := rsEinval, field := f, data := [] })
    (firstDeny (s.commonChecks c 4) = none → 1 < c.nat 16 1 → deny 16) ∧
    (firstDeny (s.commonChecks c 4) = none → c.nat 16 1 ≤ 1 → c.zero 17 3 = false → deny 17) ∧
    (firstDeny (s.commonChecks c 4) = none → c.nat 16 1 ≤ 1 → c.zero 17 3 = true → ∃ t body, exec (.dumpFetch n) s = .next t ∧
      t = { s with dump := { s.dump with valid := s.dump.valid && decide (c.nat 16 1 = 0) } }.answered n rsDone body ∧ body.length = 24 ∧
      leNat (body.take 1) = flag s.dump.valid ∧
      (s.dump.valid = true → s.dump.addr < 2 ^ 64 → s.dump.len < 2 ^ 32 → s.dump.seq < 2 ^ 32 →
        leNat ((body.drop 8).take 8) = s.dump.addr ∧ leNat ((body.drop 16).take 4) = s.dump.len ∧ leNat ((body.drop 20).take 4) = s.dump.seq))

/-- `FirmwareCommands` (R335, R359, R360): A load is the long command while no verified image stands in the slot that does not run; the verdict
of the security processor ends it, with `EPERM` for a bad signature, an old security version or a development image without an unlock;
activate boots the other slot next and ends the unlock; commit ends the trial and raises the least security version; a trial image that does
not start in time rolls back. -/
def Obligations.FirmwareCommands : Prop :=
  ∀ (s : State) (n : SlotNo) (v : Verdict),
    let c := s.slotCmd n
    let bad := v.sigOk = false ∨ v.secVersion.toNat < s.sec.minSec.toNat ∨ (v.development = true ∧ s.debug = false)
    (s.Passes n 0x50 (fwMine 0) (fun _ => 16) fwChecks → exec (.fwUpdateLoad n) s = .next { s.answered n rsAccepted [] with
      sec := { s.sec with loaded := false }
      mh := { s.mh with long := some { kind := .fwLoad, slot := n, seq := c.seq, cmd := 0x50 } } }) ∧
    (∀ l, s.mh.long = some l → l.kind = .fwLoad →
      (bad → exec (.fwImageLoaded v) s = .next ({ s with mh := { s.mh with long := none } }.respond rsEperm l.cmd l.seq.toNat l.slot 24 [])) ∧
      (¬bad → exec (.fwImageLoaded v) s = .next ({ s with
          mh := { s.mh with long := none }
          sec := { s.sec with vers := Tbl.set versDefault s.sec.vers (1 - s.sec.run) (v.version, v.secVersion), loaded := true } }.respond
        rsDone l.cmd l.seq.toNat l.slot 0xFFFF (wordBytes 4 v.version ++ wordBytes 4 v.secVersion)))) ∧
    (s.loading = false → exec (.fwImageLoaded v) s = .next s) ∧
    (s.Passes n 0x50 (fwMine 1) (fun _ => 16) fwActivateChecks → exec (.fwUpdateActivate n) s = .next
      ({ s with sec := { s.sec with boot := 1 - s.sec.run }, debug := false }.answered n rsDone [])) ∧
    (s.Passes n 0x50 (fwMine 2) (fun _ => 16) fwCommitChecks → ∃ t, exec (.fwUpdateCommit n) s = .next t ∧
      t = { s with sec := { s.sec with trial := false, trialResets := 0, minSec := t.sec.minSec } }.answered n rsDone [] ∧
      t.sec.minSec.toNat = max s.sec.minSec.toNat (s.versions s.sec.run).2.toNat) ∧
    (s.power.boot = .firmware → s.sec.trial = true → ∃ t, exec .trialBootTimeout s = .next t ∧
      t = { s with sec := t.sec, power := { s.power with boot := .verify } } ∧ t.sec.run = 1 - s.sec.run ∧ t.sec.boot = 1 - s.sec.run ∧ t.sec.trial = false) ∧
    (s.power.boot ≠ .firmware ∨ s.sec.trial = false → exec .trialBootTimeout s = .next s)

/-- `PowerStatesAndTheRail` (R357, R415 to R419, R416, R417, R423): `ACTIVE` completes in its row, and `DOZE` too where the block does not run;
from `ACTIVE` it is accepted, and takes effect later. Entering `RETAIN` takes the links but for the lanes of the ports, and the keys, in the
row itself (log 61, a design choice), and asks for the rail to be removed; leaving it asks for the rail, and `OFF` completes before the
power goes. No later request takes back that of `OFF` (log 61). A `DOZE` request that has been accepted takes effect when no command waits
(log 51, a design choice): where Table 14-6 still allows it, the clocks are gated and `DONE` is written; where it does not, or a wake event
has come first, the request ends with `ESTATE` in the field of the target, and the power state stays `ACTIVE`. A wake event ends `DOZE`,
with Masthead as it was before, but not on a chip whose clock has failed (log 116). The rail's answer ends the exit from `RETAIN`, with
every port in training, the entry, or, after `OFF`, all power: then every state but chip memory and what the security processor keeps is
that of a cold reset (log 104). That chip memory outlasts every power state is log 53, and what of the model's own outlasts them is log 92
(the model's choices). -/
def Obligations.PowerStatesAndTheRail : Prop :=
 (∀ (s : State) (n : SlotNo),
    let c := s.slotCmd n
    let long : PowerSt → Option Long := fun k => some { kind := .power k, slot := n, seq := c.seq, cmd := 0x70 }
    (s.Passes n 0x70 (powerMine 0) (fun _ => 4) activeChecks →
      (s.power.st ≠ .retain → exec (.powerStateActive n) s = .next
        (({ s.wake with mh := { s.wake.mh with long := none } }.answered n rsAccepted []).reply c rsDone [])) ∧
      (s.power.st = .retain → exec (.powerStateActive n) s = .next { s.answered n rsAccepted [] with
        mh := { s.mh with long := long PowerSt.active }, power := s.power.ask .restore })) ∧
    (s.Passes n 0x70 (powerMine 1) (fun _ => 4) State.dozeChecks →
      (s.power.st = .active → exec (.powerStateDoze n) s = .next { s.answered n rsAccepted [] with mh := { s.mh with long := long .doze } }) ∧
      (s.power.st ≠ .active → exec (.powerStateDoze n) s = .next
        ({ s with mh := { s.mh with long := none } }.answered n rsAccepted [] |>.reply c rsDone []))) ∧
    (s.Passes n 0x70 (powerMine 2) (fun _ => 4) State.retainChecks →
      (s.power.st = .retain → exec (.powerStateRetain n) s = .next
        ({ s with mh := { s.mh with long := none } }.answered n rsAccepted [] |>.reply c rsDone [])) ∧
      (s.power.st ≠ .retain → exec (.powerStateRetain n) s = .next { s.answered n rsAccepted [] with
        power := ({ s.power with st := .retain } : PowerState).ask .retain
        mh := { s.mh with long := long .retain, before := s.awakeState, st := .lowPower, cals := [], linksDue := false }
        link := s.link.lost, keys := KeyState.reset, inp := { s.inp with phy := [], taps := [] } })) ∧
    (s.Passes n 0x70 (powerMine 3) (fun _ => 4) State.offChecks → exec (.powerStateOff n) s = .next
      ({ s with power := s.power.ask .off, mh := { s.mh with long := none } }.answered n rsAccepted [] |>.reply c rsDone [])) ∧
    (∀ (p : PowerState) r, p.railReq ≠ some .off → p.ask r = { p with railReq := some r }) ∧
    (∀ (p : PowerState) r, p.railReq = some .off → p.ask r = p)) ∧
 (∀ (s : State) (l : Long) (w : Wake), s.mh.long = some l → l.kind = .power .doze → s.power.st = .active →
    (s.pending = [] → s.mh.halted = false → s.dump.due = none →
      (s.dozeBlocked = false → step s = .next ({ s with
          power := { s.power with st := .doze }, mh := { s.mh with before := s.mh.st, st := .lowPower, long := none } }.respond
        rsDone l.cmd l.seq.toNat l.slot 0xFFFF [])) ∧
      (s.dozeBlocked = true → step s = .next ({ s with mh := { s.mh with long := none } }.respond rsEstate l.cmd l.seq.toNat l.slot 0x10 []))) ∧
    exec (.wakeEvent w) s = .next ({ s with mh := { s.mh with long := none } }.respond rsEstate l.cmd l.seq.toNat l.slot 0x10 [])) ∧
 (∀ (s : State) (w : Wake),
    (s.power.st = .doze → s.mh.st = .lowPower →
      exec (.wakeEvent w) s = .next { s with power := { s.power with st := .active }, mh := { s.mh with st := s.mh.before } }) ∧
    (s.power.st = .doze → s.mh.st ≠ .lowPower → exec (.wakeEvent w) s = .next s) ∧
    (s.power.st ≠ .doze → s.dozing = false → exec (.wakeEvent w) s = .next s) ∧
    (s.power.railReq = none → exec .railAck s = .next s) ∧
    (s.power.railReq = some .restore → s.Sound → ∃ t, exec .railAck s = .next t ∧
      t.power = { s.power with st := .active, rail := true, railReq := none } ∧
      t.mh = { s.mh with st := s.mh.before, linksDue := !s.topo.links.isEmpty, long := none } ∧
      (∀ p, p < 8 → t.lnk p = s.trainAs p) ∧ t.mem = s.mem ∧ t.tt = s.tt ∧ t.led = s.led ∧ t.topo = s.topo ∧ t.ctxs = s.ctxs ∧ t.ports = s.ports) ∧
    (∀ l, s.power.railReq = some .retain → s.mh.long = some l → exec .railAck s = .next
      ({ s with power := { s.power with rail := false, railReq := none }, mh := { s.mh with long := none } }.respond rsDone l.cmd l.seq.toNat l.slot 0xFFFF [])) ∧
    (s.power.railReq = some .off → exec .railAck s = .next { s.afterReset .cold 1 with
      sec := { s.sec with challenge := false, attempts := 0 }, power := { (s.afterReset .cold 1).power with st := .off, rail := false } }))

/-- `ResetsAndStartUp` (R334, R359, R360, R420, R422, R423, R426, Table 14-8, R358, R370, R424, R425): A reset leaves everything as after
power-on but chip memory and what its kind keeps: the failed units and their spares, the durable image and the lanes of each port through
`WARM` and `BLOCK`, where a dump that is being written is lost and counted (log 118), and a debug unlock through `BLOCK`. An activated image
boots in trial at `COLD` and `WARM`; the third reset of a trial image that has not been committed rolls it back, and the other two are
counted (log 104). Chip memory stays (log 53), and so do the queue, what has left the block and the free values (log 92). After `OFF` only a
cold reset helps. Start-up goes from MBIST, which after a cold reset marks the units that fail, to the verified image, with a roll-back to
the other slot when the image is bad, and to `MH_READY`: Masthead is idle, every port is in training, and the regions that Octain reports
are taken. The record of the reset, with its kind, its source and the classes that it emptied, is posted, then that of a roll-back; after a
cold reset the banks that have failed MBIST follow. Each of the three events has no effect out of its turn. Units under fill or test through
a reset (log 52) and which slot runs first (log 10) are the model's choices. -/
def Obligations.ResetsAndStartUp : Prop :=
 (∀ (s : State) (powerOn : Bool),
    let secAfter : SecState → Bool → Bool → SecState → Prop := fun x cold block y =>
      let x : SecState := { x with challenge := false, attempts := if cold then 0 else x.attempts }
      (x.boot = x.run → x.trial = false → y = x) ∧
      (x.boot ≠ x.run → y = if block then x else { x with run := x.boot, trial := true, trialResets := 0, loaded := false }) ∧
      (x.boot = x.run → x.trial = true → x.trialResets < 2 → y = { x with trialResets := x.trialResets + 1 }) ∧
      (x.boot = x.run → x.trial = true → 2 ≤ x.trialResets →
        y = { x with run := 1 - x.run, boot := 1 - x.run, trial := false, trialResets := 0, rollback := some (s.versions s.sec.run).1 })
    (∃ t, exec (.coldReset powerOn) s = .next t ∧ t = { State.reset with
      pending := s.pending, mem := s.mem, remote := s.remote, out := s.out, free := s.free, sec := t.sec, power := t.power } ∧
      t.power = { PowerState.reset with kind := .cold, source := if powerOn then 1 else 2, resets := 0, empty := 0xFFFF } ∧
      secAfter s.sec true false t.sec) ∧
    (∀ r ∈ [(Instr.warmReset, ResetKind.warm, 2, 0xC7FF#16, false), (.blockReset, .block, 3, 0x47FF#16, s.debug)],
      (s.power.st = .off → exec r.1 s = .next s) ∧
      (s.power.st ≠ .off → ∃ t, exec r.1 s = .next t ∧ t = { State.reset with
        pending := s.pending, mem := s.mem, remote := s.remote, out := s.out, free := s.free, cut := s.cut, debug := r.2.2.2.2
        dump := { s.dump with due := none, lost := if s.dump.due = none then s.dump.lost else s.dump.lost + 1 }
        link := t.link, units := t.units, sec := t.sec, power := t.power } ∧
        (s.Sound → ∀ p, t.lnk p = { Link.reset p with lanes := (s.lnk p).lanes, badLanes := (s.lnk p).badLanes }) ∧
        t.link = { LinkState.reset with links := t.link.links } ∧
        t.units.failed = s.units.failed ∧ t.units.foldHost = s.units.foldHost ∧ t.units.lostBanks = s.units.lostBanks ∧ t.units.paused = [] ∧
        t.power = { PowerState.reset with
          kind := r.2.1, source := r.2.2.1, resets := min (s.power.resets + 1) 0xFFFFFFFF, empty := r.2.2.2.1 } ∧
        secAfter s.sec false (r.2.1 == .block) t.sec))) ∧
 (∀ (s : State) (failed : List UnitId) (good : Bool) (r : Regions), s.Sound →
    (s.power.boot = .mbist → s.power.st ≠ .off → ∃ t, exec (.mbistDone failed) s = .next t ∧
      t = { s with units := t.units, power := { s.power with boot := .verify } } ∧
      (s.power.kind ≠ .cold → t.units = s.units) ∧ (s.power.kind = .cold → ∀ u ∈ failed, u ∈ t.units.failed)) ∧
    (s.power.boot ≠ .mbist ∨ s.power.st = .off → exec (.mbistDone failed) s = .next s) ∧
    (s.power.boot = .verify → exec (.imageVerified true) s = .next { s with power := { s.power with boot := .firmware } }) ∧
    (s.power.boot = .verify → ∃ t, exec (.imageVerified false) s = .next t ∧ t = { s with sec := t.sec } ∧ t.sec.run = 1 - s.sec.run ∧
      t.sec.boot = 1 - s.sec.run ∧ t.sec.trial = false ∧ t.sec.rollback = some (s.versions s.sec.run).1) ∧
    (s.power.boot ≠ .verify → exec (.imageVerified good) s = .next s) ∧
    (s.power.boot = .firmware → inSpace (regionRanges r) = true → ∃ t, exec (.mhReady r) s = .next t ∧
      t.power.boot = .done ∧ (s.power.st ≠ .doze → t.power = { s.power with boot := .done } ∧ t.mh = { s.mh with ready := true, st := .idle }) ∧
      t.mh.ready = true ∧ t.inp.regions = r ∧ (∀ p, p < 8 → t.lnk p = s.trainAs p) ∧ t.topo = s.topo ∧ t.mem = s.mem ∧ t.ports = s.ports ∧ t.tt = s.tt ∧
      (s.power.kind ≠ .cold ∨ (∀ b, UnitId.bank b ∉ s.units.failed) →
        let u := { s with power := { s.power with boot := .done }, mh := { s.mh with ready := true, st := .idle }, inp := { s.inp with regions := r } }.trainAll
        let v := u.event 0x0101 (leBytes 1 (resetCode s.power.kind) ++ leBytes 1 s.power.source ++ leBytes 2 0xFFFF ++ leBytes 4 s.power.empty.toNat ++
          leBytes 8 s.cut.last ++ leBytes 4 s.units.failed.length ++ leBytes 4 s.power.resets)
        (s.sec.rollback = none → t = v) ∧
        (∀ x, s.sec.rollback = some x →
          t = ({ v with sec := { s.sec with rollback := none } }).event 0x0105 (wordBytes 4 x ++ leBytes 1 s.sec.run)))) ∧
    (s.power.boot ≠ .firmware → exec (.mhReady r) s = .next s))

/-- `FaultsAndTheirThresholds` (R322, R335, R383, R384, R197, R390, R397, codes 0x10, 0x12, 0x28 to 0x31, 0x39, R389, R394, codes 0x12, 0x20,
0x22, 0x30, R323, R360, R385, R386, R426): Repeated flits and corrected errors below their thresholds, and word repeats below eight, change
nothing; nor does any fault of Table 13-2 while Masthead does not run (log 107, a design choice). The sixteenth repeat of a flit fails the
node at its edge or costs a splice bundle; the 64th corrected error of a node's memory fails the node, and of a bank the bank. An
uncorrectable die entry is unreadable from then on. The failing address in a record is a free value (log 13). Model's choice (logs 44, 107):
who finds an uncorrectable entry, and that Masthead answers none of these while its cores do not run. An uncorrectable sync word is
orphaned, or in a pool unclaimed, with value 0 and no waiter; one of a channel breaks it where a member of the cluster uses it; one of a
root unit is its failure; a die entry that no lane reads is only marked until its reader comes (log 44, DEDUCED). Eight repeats of a parity
error, the loss of the PLL and a lockstep mismatch are fatal: Masthead is in `FATAL` with the code, and `IRQ_FATAL` is set. The loss of the
PLL leaves the power state, a lockstep mismatch ends what Masthead had in hand and rolls a trial image back. Before the firmware has been
released nothing happens (log 42, the model's reading). A node that serves nothing is only marked (log 43). -/
def Obligations.FaultsAndTheirThresholds : Prop :=
 (∀ (s : State) (n : Nat) (e : Edge) (w : Protected) (u : UnitId) (plane : Fin 8) (lane : Fin 16) (colls : List (Nat × Nat)) (spare : Fin 8),
    (n < 16 → exec (.flitCrcError e n) s = .next s) ∧ (n < 64 → exec (.secdedError w false n) s = .next s) ∧
    (n < 8 → exec (.wireParityError n) s = .next s) ∧
    (s.mhActs = false → ∀ c ∈ [Instr.residueError u plane lane, .flitCrcError e n, .secdedError w true n, .secdedError w false n,
      .rootPairMismatch u colls, .shadowMismatch spare, .nodeReset u], exec c s = .next s)) ∧
 (∀ (s : State) (n : Nat) (c : Fin 64) (p : Pos) (b : Fin 352) (w : BitVec 16) (ch : Fin 64) (e : Fin 1048576), s.mhActs = true → s.Sound →
    (16 ≤ n →
      exec (.flitCrcError (.port p) n) s = .next (s.nodeFail (s.units.nodeOf (p.val / 16)) 0x10 0) ∧
      exec (.flitCrcError (.trunk c) n) s = .next (s.nodeFail (s.units.nodeOf c) 0x10 0) ∧
      exec (.flitCrcError (.splice b) n) s = .next (s.spliceFail b)) ∧
    (64 ≤ n →
      let u : State := { s with free := s.free + 8 }
      exec (.secdedError (.word w) false n) s = .next (u.nodeFail (s.units.nodeOf (wordCluster w.toNat)) 0x10 (s.freeNat 8)) ∧
      exec (.secdedError (.channel c ch) false n) s = .next (u.nodeFail (s.units.nodeOf c) 0x10 (s.freeNat 8)) ∧
      exec (.secdedError (.entry e) false n) s = .next (u.bankFail (e.val % 64) (s.freeNat 8))) ∧
    (s.rowAt e = none → s.units.lostBanks.contains (bankOf e) = false → ∃ t, exec (.secdedError (.entry e) true n) s = .next t ∧ t = { s with led := { s.led with bad := t.led.bad } } ∧ t.led.bad.contains e.val = true ∧
      ∀ tag token, t.readEntry (e.val / 1024) (e.val % 1024) tag token = .uncorrectable) ∧
    (768 ≤ wordIndex w.toNat → exec (.secdedError (.word w) true n) s = .next s)) ∧
 (∀ (s : State) (w : BitVec 16) (c : Fin 64) (ch : Fin 64) (i : Fin 4) (j : Fin 2) (e : Fin 1048576) (n : Nat), s.mhActs = true →
    (wordIndex w.toNat < 768 → s.power.st ≠ .doze → s.dozing = false → ∃ t, exec (.secdedError (.word w) true n) s = .next t ∧
      t.word w.toNat = { mode := .flag, own := if s.poolMode (wordCluster w.toNat) then .unclaimed else .orphaned, ovf := false, udf := false
                         trimEn := (t.word w.toNat).trimEn, drift := false, base := (t.word w.toNat).base
                         owner := if s.poolMode (wordCluster w.toNat) then (t.word w.toNat).owner else (s.word w.toNat).owner
                         value := 0, queue := [], drain := [] } ∧
      (∀ v, v ≠ w.toNat → t.word v = s.word v) ∧ t.tt.chans = s.tt.chans ∧ t.mem = s.mem ∧ t.led = s.led ∧ t.units = s.units) ∧
    (¬wordIndex w.toNat < 768 → exec (.secdedError (.word w) true n) s = .next s) ∧
    (s.Sound → ch.val ∈ s.chansIn c → ∃ t, exec (.secdedError (.channel c ch) true n) s = .next t ∧ (t.chan ch).st = .broken ∧ (t.chan ch).waits = [] ∧
      t.mem = s.mem ∧ t.led = s.led ∧ t.units = s.units) ∧
    (s.units.hr i < 2 → s.units.hr (pairOf i) < 2 → ∃ t, exec (.secdedError (.half i) true n) s = .next t ∧
      t.units = { s.units with
        failed := if s.units.failed.contains (UnitId.half i) then s.units.failed else s.units.failed ++ [UnitId.half i]
        hroot := Tbl.set rootDefault (Tbl.set rootDefault s.units.hroot i 2) (pairOf i) 0 } ∧ t.mem = s.mem ∧ t.tt = s.tt ∧ t.ops = s.ops) ∧
    (s.units.cr j < 2 → s.units.cr (pairOf j) < 2 → ∃ t, exec (.secdedError (.root j) true n) s = .next t ∧
      t.units = { s.units with
        failed := if s.units.failed.contains (UnitId.root j) then s.units.failed else s.units.failed ++ [UnitId.root j]
        croot := Tbl.set rootDefault (Tbl.set rootDefault s.units.croot j 2) (pairOf j) 0 } ∧ t.mem = s.mem ∧ t.tt = s.tt ∧ t.ops = s.ops) ∧
    (s.rowAt e = none → exec (.secdedError (.entry e) true n) s = .next { s with led := { s.led with
      bad := if s.led.bad.contains e.val then s.led.bad else s.led.bad ++ [e.val] } })) ∧
 (∀ (s : State) (n : Nat), 8 ≤ n →
    (s.coresRun = true → ∀ r ∈ [(Instr.wireParityError n, 2), (.rootPllUnlock, 4), (.lockstepMismatch, 1)], (s.mh.halted = false ∨ r.2 = 1) →
      ∃ t, exec r.1 s = .next t ∧ t.mh.st = .fatal ∧ t.mh.cause = r.2 ∧ t.win.irqStatus.getLsbD 2 = true ∧
        (r.2 = 4 → t.power.st = s.power.st) ∧
        (r.2 = 1 → t.mh.long = none ∧ t.mh.cut = none ∧ t.mh.relay = [] ∧ t.mh.halted = false ∧
          t.sec = if s.sec.trial then { s.sec with
            rollback := some (s.versions s.sec.run).1, run := 1 - s.sec.run, boot := 1 - s.sec.run, trial := false, trialResets := 0 } else s.sec) ∧
        (r.2 ≠ 1 → t.sec = s.sec) ∧ t.topo = s.topo ∧ t.pol = s.pol ∧ t.units = s.units) ∧
    (s.coresRun = false → ∀ i ∈ [Instr.wireParityError n, .rootPllUnlock, .lockstepMismatch], exec i s = .next s))

/-- `SparesCoverFailedUnits` (R388, R391, R393, codes 0x10 and 0x11, R387, Tables 11-11 and 13-3, R389, codes 0x20 to 0x22, code 0x21, R392,
R396, R399, R402): A residue fault of a node that serves one cluster only, with a spare free or shadowing in its row, marks the node and
starts the fill of that spare from it, and the cluster pauses; the record has code 0x10, the node and the spare. A shadow that differs takes
its cluster over at once, with a record of code 0x11, and the node is tested. A fault's record names its code, the kind and index of what
failed, the action, the reef levels in force, the spare and the detail; on a block in `DOZE` it is a wake event first. A unit of a half-root
pair or of the chip-root pair that fails leaves the other of its pair serving alone, with a record that names both. A mismatch of a pair
that serves takes both units out for test, one after the other. Without a collective it names, its record is all else. A collective that a
mismatch names, in a group that is defined, and that has not ended ends with `FAULT`; the others stay as they are. A pair that does not
serve in full, or another unit, changes nothing. When a fill is complete the spare serves its cluster, which resumes, and a fold of it ends;
when a bank's copy is complete the spare bank serves it; a shadow goes on to the next live node of its row. Out of turn none of them has an
effect. -/
def Obligations.SparesCoverFailedUnits : Prop :=
 (∀ (s : State) (n : Fin 72) (plane : Fin 8) (lane : Fin 16) (spare : Fin 8), s.mhActs = true →
    (∀ i, n.val < 64 → s.units.clustersOf n = [n.val] → s.units.foldHost.find n.val = none → s.units.pickSpare n.val = some i →
      exec (.residueError (.node n) plane lane) s = .next (({ s with units := { s.units with
          failed := if s.units.failed.contains (UnitId.node n) then s.units.failed else s.units.failed ++ [UnitId.node n]
          cspare := Tbl.set spareDefault s.units.cspare i { st := 2, unit := n.val }
          sources := if (s.units.sources.find n.val).isSome then s.units.sources else s.units.sources.put n.val n.val
          paused := if s.units.paused.contains n.val then s.units.paused else s.units.paused ++ [n.val] } }).postFault
        0x10 1 n.val 1 (64 + i) (plane.val + 256 * lane.val))) ∧
    ((s.units.cs spare).st = 1 →
      let node := s.units.nodeOf (s.units.cs spare).unit
      let u := ({ s with units := { s.units with
        cspare := Tbl.set spareDefault s.units.cspare spare { st := 3, unit := (s.units.cs spare).unit } } }).postFault 0x11 1 node 3 (64 + spare.val) 0
      exec (.shadowMismatch spare) s = .next { u with mh := { u.mh with
        tests := u.mh.tests ++ [{ unit := nodeUnit node, spare := some spare.val, background := true, forced := false }] } }) ∧
    ((s.units.cs spare).st ≠ 1 → exec (.shadowMismatch spare) s = .next s)) ∧
 (∀ (s : State) (code kind index action spare detail : Nat),
    let levels := (if s.units.fold = 0 then 0 else 1) + (if s.units.spliceLost = [] then 0 else 2) +
      (if s.link.links.any (fun e => e.2.lanes != 0) = true then 4 else 0) + (if s.units.lostBanks = [] then 0 else 8)
    (s.power.st ≠ .doze → s.dozing = false → s.win.freeEntries ≠ 0 →
      s.postFault code kind index action spare detail = (s.writeRecord 0x8001 0x0102 0 0xFF 0xFFFF (leBytes 1 code ++ leBytes 1 kind ++ leBytes 2 index ++
        leBytes 1 action ++ leBytes 1 levels ++ leBytes 2 spare ++ leBytes 8 detail)).raiseIrq 1) ∧
    (s.power.st ≠ .doze → s.dozing = false → s.win.freeEntries = 0 →
      s.postFault code kind index action spare detail = { s with win := { s.win with evLost := min (s.win.evLost + 1) 0xFFFF } })) ∧
 (∀ (s : State) (i : Fin 4) (j : Fin 2) (plane : Fin 8) (lane : Fin 16) (colls : List (Nat × Nat)), s.mhActs = true →
    (s.units.hr i < 2 → s.units.hr (pairOf i) < 2 →
      exec (.residueError (.half i) plane lane) s = .next (({ s with units := { s.units with
          failed := if s.units.failed.contains (UnitId.half i) then s.units.failed else s.units.failed ++ [UnitId.half i]
          hroot := Tbl.set rootDefault (Tbl.set rootDefault s.units.hroot i 2) (pairOf i) 0 } }).postFault 0x20 2 i.val 3 (pairOf i) (plane.val + 256 * lane.val)) ∧
      (∃ t, exec (.rootPairMismatch (.half i) colls) s = .next t ∧
        t.units = { s.units with hroot := Tbl.set rootDefault (Tbl.set rootDefault s.units.hroot i 3) (pairOf i) 0 } ∧
        t.mh.tests = s.mh.tests ++ [{ unit := .half i, spare := none, background := true, forced := false },
          { unit := .half (Fin.ofNat 4 (pairOf i)), spare := none, background := true, forced := false }] ∧ t.topo = s.topo ∧ t.pol = s.pol ∧
        ((∀ c ∈ s.ops.colls, (c.ctx, c.epoch) ∉ colls) → t.win = (s.postFault 0x21 2 i.val 0 0xFFFF 0).win ∧ t.ops = s.ops ∧ t.mem = s.mem ∧ t.link = s.link))) ∧
    (s.units.cr j < 2 → s.units.cr (pairOf j) < 2 →
      exec (.residueError (.root j) plane lane) s = .next (({ s with units := { s.units with
          failed := if s.units.failed.contains (UnitId.root j) then s.units.failed else s.units.failed ++ [UnitId.root j]
          croot := Tbl.set rootDefault (Tbl.set rootDefault s.units.croot j 2) (pairOf j) 0 } }).postFault 0x22 3 j.val 3 (pairOf j) (plane.val + 256 * lane.val)) ∧
      (∃ t, exec (.rootPairMismatch (.root j) colls) s = .next t ∧
        t.units = { s.units with croot := Tbl.set rootDefault (Tbl.set rootDefault s.units.croot j 3) (pairOf j) 0 } ∧
        t.mh.tests = s.mh.tests ++ [{ unit := .root j, spare := none, background := true, forced := false },
          { unit := .root (Fin.ofNat 2 (pairOf j)), spare := none, background := true, forced := false }] ∧ t.topo = s.topo ∧ t.pol = s.pol))) ∧
 (∀ (s : State) (u : UnitId) (colls : List (Nat × Nat)), s.mhActs = true → (s.ops.colls.map (fun c => (c.ctx, c.epoch))).Nodup →
    let serves : Bool := match u with
      | .half i => decide (s.units.hr i < 2 ∧ s.units.hr (pairOf i) < 2)
      | .root i => decide (s.units.cr i < 2 ∧ s.units.cr (pairOf i) < 2)
      | _ => false
    (serves = false → exec (.rootPairMismatch u colls) s = .next s) ∧
    (serves = true → ∃ t, exec (.rootPairMismatch u colls) s = .next t ∧
      (∀ c ∈ s.ops.colls, c.members ≠ [] → (c.ctx, c.epoch) ∈ colls → (s.group c.group).isSome = true → c.ended = none →
        ∃ c', t.coll c.ctx c.epoch = some c' ∧ c'.ended = some .fault) ∧
      (∀ c ∈ s.ops.colls, c.members ≠ [] → (c.ctx, c.epoch) ∉ colls → t.coll c.ctx c.epoch = some c))) ∧
 (∀ (s : State) (i : Fin 8) (j : Fin 4),
    ((s.units.cs i).st = 2 → ∃ t, exec (.fillComplete i) s = .next t ∧
      t.units = { (((s.units.endFold (s.units.cs i).unit).dropSource (s.units.cs i).unit).setCs i 3 (s.units.cs i).unit) with
        paused := s.units.paused.filter (fun c => c ≠ (s.units.cs i).unit) } ∧ t.mem = s.mem ∧ t.led = s.led ∧ t.topo = s.topo ∧
      (s.ops.sends = [] → t.ops = s.ops)) ∧
    ((s.units.cs i).st ≠ 2 → exec (.fillComplete i) s = .next s) ∧
    ((s.units.ls j).st = 2 → exec (.bankCopyDone j []) s = .next { s with units := s.units.setLs j 3 (s.units.ls j).unit }) ∧
    (∀ bad, (s.units.ls j).st ≠ 2 → exec (.bankCopyDone j bad) s = .next s) ∧
    (s.mhActs = false ∨ 1 < (s.units.cs i).st ∨ (s.mayTest = false ∧ (s.units.cs i).st ≠ 1) → exec (.shadowRotation i) s = .next s) ∧
    (s.mhActs = true → s.mayTest = false → (s.units.cs i).st = 1 → exec (.shadowRotation i) s = .next { s with units := s.units.setCs i 0 0 }) ∧
    (s.mayTest = true → (s.units.cs i).st ≤ 1 → ∃ t, exec (.shadowRotation i) s = .next t ∧ t = { s with units := t.units } ∧
      (t = s ∨ ∃ c, c / 8 = i.val ∧ s.units.alone c = true ∧ s.units.nodeOf c = c ∧ t.units = s.units.setCs i 1 c)))

/-- `PoisonEndsItsOperation` (R427, R429, code 0x3A, R256): A poisoned source marks its member's contribution with a fault; a poisoned row, a
poisoned saddlebag entry or a poisoned source of a send ends its operation with `FAULT`, and a poisoned target list its descriptor; the data
of a mailbox command that are poisoned end it with `EINVAL` and the field that addresses them (log 130, a design choice). All are reported;
which memory-side port the record names is free (log 28). A read of an operation that is over has no effect. A descriptor read that returns
poisoned data completes on every port that may read: it sets `SQ_FAULT`, advances past the slot and makes a completion with status `FAULT`
whose `OPCODE`, `CTX` and `CTAG` are 0, and the host window gets the fault record of code 0x3A (whose port number is a free value, log 28).
What becomes of the copies of a poisoned send that are on their way is log 85 (the model's choice). -/
def Obligations.PoisonEndsItsOperation : Prop :=
 (∀ (s : State) (ctx epoch id : Nat) (p : Pos) (token : Nat) (n : SlotNo),
    (∀ c, s.coll ctx epoch = some c → c.members.any (fun m => m.pos == p.val && m.stage == .sending) = true →
      ∃ t, exec (.poisonedRead (.collective ctx epoch p)) s = .next t ∧
        t.ops = (s.modColl ctx epoch (fun c => { c with members := c.members.map (markFault p) })).ops ∧
        t.ports = s.ports ∧ t.mem = s.mem ∧ t.tt = s.tt ∧ t.led = s.led ∧ t.ctxs = s.ctxs) ∧
    (s.coll ctx epoch = none → exec (.poisonedRead (.collective ctx epoch p)) s = .next s) ∧
    (∀ o, s.comb id = some o → o.lanes.any (fun l => l.1 == token && (match l.2 with | .reading _ => true | .writing _ => false)) = true →
      exec (.poisonedRead (.combine id token)) s = .next (((s.modComb id (fun o => { o with lanes := o.lanes.filter (fun l => l.1 ≠ token) })).stopCombs
        (fun o => o.id == id) (some .fault)).postPoison)) ∧
    (∀ x, s.ops.sends.find? (fun x => x.id == id) = some x → x.targets.all (fun t => t.st == .flying) = true →
      exec (.poisonedRead (.hoist id)) s = .next (s.poisonSend x).postPoison) ∧
    (s.comb id = none → exec (.poisonedRead (.combine id token)) s = .next s) ∧
    ((∀ x ∈ s.ops.sends, x.id ≠ id) → exec (.poisonedRead (.hoist id)) s = .next s) ∧
    (s.mayRead p = true → dOpcode (s.slotDesc p) = 0x31 → tmapRange (s.slotDesc p) ≠ [] → s.heldByCut (s.slotDesc p) = false →
      exec (.poisonedRead (.targetList p)) s = .next (((s.modPort p Port.readSlot).pushDone p
        (doneOf (s.slotDesc p) .fault Tally.zero 0 0 true none)).postPoison)) ∧
    (s.mayRead p = false ∨ dOpcode (s.slotDesc p) ≠ 0x31 ∨ tmapRange (s.slotDesc p) = [] → exec (.poisonedRead (.targetList p)) s = .next s) ∧
    (∀ o k, s.comb id = some o → o.ready.head? = some token → s.stopped = false → (s.tagSlot o.slot).routeDone = true →
      s.sbIndex ((s.tagSlot o.slot).place (token - o.tokBase)).1 ((s.tagSlot o.slot).place (token - o.tokBase)).2 = some k → k ∈ s.led.sbHeld →
      exec (.poisonedRead (.entry id token)) s = .next ((s.stopCombs (fun y => y.id == id) (some .fault)).postPoison)) ∧
    (s.comb id = none → exec (.poisonedRead (.entry id token)) s = .next s) ∧
    (∀ f, (s.slotCmd n).dataField = some f → s.takes n = true →
      firstDeny (s.commonChecks (s.slotCmd n) (if (s.slotCmd n).code = 0x21 then 24 else 16)) = none →
      exec (.poisonedRead (.commandData n)) s = .next (((s.take n).postPoison).deny (s.slotCmd n) { status := rsEinval, field := f, data := [] })) ∧
    ((s.slotCmd n).dataField = none ∨ s.takes n = false → exec (.poisonedRead (.commandData n)) s = .next s)) ∧
 (∀ (s : State) (p : Pos), s.Sound → s.mayRead p = true →
    ∃ t x, exec (.descriptorReadPoisoned p) s = .next t ∧
      t.port p = { (s.port p).readSlot with err := (s.port p).err ||| 0x20#7, done := (s.port p).done ++ [x] } ∧
      x.status = .fault ∧ x.opcode = 0 ∧ x.ctx = 0 ∧ x.ctag = 0 ∧ x.csig = none ∧ x.tally = Tally.zero ∧ t.win = s.postPoison.win ∧
      (∀ q, q ≠ p.val → t.port q = s.port q) ∧ t.mem = s.mem ∧ t.ops = s.ops ∧ t.tt = s.tt ∧ t.led = s.led ∧ t.ctxs = s.ctxs ∧
      t.topo = s.topo ∧ t.pol = s.pol ∧ t.counters = s.counters ∧ t.link = s.link ∧ t.units = s.units)

/-- `LostChipsAndFaultReports` (R311, R385, R301, R309, R386): A present chip whose every link is down is lost, and the loss is reported with
code 0x48; the chip is noted as lost, and where no fold node of it has its standby here, a collective through a fold node of it that has no
standby ends with `FAULT`. While a link to it is up, or for a chip without a link here, nothing happens. A fault report for every chip is
acted on once and goes on over every other link that is up; a repeat only leaves the buffer. This chip's Masthead records its code and
sender; a fatal code loses the sender's chip, and the loss of a link that a primary needs has the standby here take over. Model's choice
(log 94): over which links it goes on. -/
def Obligations.LostChipsAndFaultReports : Prop :=
 (∀ (s : State) (chip : Fin 32768),
    let ls := s.topo.links.filter (fun e => e.2.peer == chip.val)
    (s.isPresent chip = true → ls ≠ [] → ls.all (fun e => !(s.lnk e.2.phys).isUp) = true → exec (.chipLost chip) s = .next (s.loseChip chip true)) ∧
    (s.isPresent chip = true → ls ≠ [] → ls.all (fun e => !(s.lnk e.2.phys).isUp) = true → s.standbyFor chip = [] →
      (s.ops.colls.map (fun c => (c.ctx, c.epoch))).Nodup → ∃ t, exec (.chipLost chip) s = .next t ∧
        t.topo = { s.topo with lostChips := uniq (chip.val :: s.topo.lostChips) } ∧ t.units = s.units ∧ t.mem = s.mem ∧ t.led = s.led ∧ t.pol = s.pol ∧
        (∀ c ∈ s.ops.colls, c.members ≠ [] → c.ended = none → ∀ g, s.group c.group = some g →
          (∃ r ∈ g.folds, r.host = chip.val ∧ r.standby = 0xFFFF) → (∀ r ∈ g.folds, s.topo.takenOver.contains r.fnid = false) →
          ∃ c', t.coll c.ctx c.epoch = some c' ∧ c'.ended = some .fault)) ∧
    (s.isPresent chip = false ∨ ls = [] ∨ ls.any (fun e => (s.lnk e.2.phys).isUp) = true → exec (.chipLost chip) s = .next s)) ∧
 (∀ (s : State) (l : PortNo) (m : Msg), s.headMsg l 0 = some m → ctType m = ctFaultReport →
    let u := s.modLnk l (Link.dropMsg 0)
    let pair := (ctSrc m, bits m 63 16)
    (ctDst m = everyChip → s.link.repSeen.contains pair = true → exec (.faultReport l) s = .next u) ∧
    (ctDst m = everyChip → s.link.repSeen.contains pair = false → exec (.faultReport l) s = .next
      ((({ u with link := { u.link with repSeen := (pair :: s.link.repSeen).take 64 } } : State).flood m (some l.val)).hearReport m)) ∧
    (ctDst m ≠ everyChip → s.topo.rigValid = true → s.topo.chip = ctDst m → exec (.faultReport l) s = .next (u.hearReport m)) ∧
    (∀ x : State,
      (1 ≤ bits m 82 8 → bits m 82 8 ≤ 4 → x.hearReport m = (x.postFault (bits m 82 8) 14 (ctSrc m) 0 0xFFFF 0).loseChip (ctSrc m) false) ∧
      ((bits m 82 8 = 0 ∨ 4 < bits m 82 8) → x.reportHits m = [] → x.hearReport m = x.postFault (bits m 82 8) 14 (ctSrc m) 0 0xFFFF 0) ∧
      (bits m 82 8 = 0x41 → ∀ r ∈ x.reportHits m, (x.hearReport m).topo.takenOver.contains r.fnid = true)))

/-- `FramesAreChosenByPriority` (R278, R279, R281, R285, R291, R293, R294, R403): A slot of a port that is up sends what is first of: the tag of
a closed block, a replay, link control, a `NAK`, a let-fly or VC0 inside its share, VC1, VC4 inside its share, VC2 or VC3 by their weights,
and `IDLE`. While the chip stalls under a test it carries VC0 alone. A port in the exchange sends link control; any other sends nothing. The
eighth frame of a super-block completes its 20 blocks (R278). (Frames outside protected mode.) Model's choice (logs 32, 91): which messages
of VC0 share a let-fly's frame, and when a port that confirms a reef retrains. -/
def Obligations.FramesAreChosenByPriority : Prop :=
  ∀ (s : State) (l : PortNo), s.Sound →
    let k := s.lnk l
    let sends (x : Frame) (t : State) : Prop := exec (.frameSlot l) s = .next t ∧ t.out.wire = (l.val, x) :: s.out.wire ∧
      t.out.blocks = (if k.superBlock.length = 7 then (superBlockOf (k.superBlock ++ [x])).reverse.map (fun b => (l.val, b)) else []) ++ s.out.blocks
    (∀ vc, s.mayCarry l vc = (s.ready l vc && !s.rootStalled)) ∧
    ((k.st = .down ∨ k.st = .training ∨ k.st = .retraining) → exec (.frameSlot l) s = .next s) ∧
    ((k.st = .up ∨ k.st = .reefed) → k.tagDue = false → k.prot = false →
      (∀ f r, k.resend = f :: r → ∃ t, sends f t ∧ (t.lnk l).resend = r ∧ (t.lnk l).txSeq = k.txSeq ∧ (t.lnk l).replay = k.replay) ∧
      (∀ m r, k.resend = [] → k.ctl = m :: r → ∃ t, sends (sealFrame (k.header ftLinkctl 0 0) (msgsPayload [m])) t ∧ (t.lnk l).txSeq = k.txSeq ∧
        (lcKind m ≠ 4 → (t.lnk l).ctl = r) ∧ (lcKind m = 4 → (t.lnk l).st = .retraining)) ∧
      (k.resend = [] → k.ctl = [] → k.nakDue = true → ∃ t, sends (sealFrame (k.header ftNak 0 0) 0) t ∧ (t.lnk l).nakDue = false ∧ (t.lnk l).nakOut = true ∧
        (t.lnk l).txSeq = k.txSeq) ∧
      (k.resend = [] → k.ctl = [] → k.nakDue = false →
        let data (vc : Nat) (fv : BitVec 50) (pay : BitVec 512) (t : State) : Prop :=
          let x := sealFrame (k.header ftData vc fv) pay
          sends x t ∧ (t.lnk l).txSeq = (k.txSeq + 1) % 4096 ∧ (t.lnk l).replay = k.replay ++ [x] ∧ (t.lnk l).sent = vcPut k.sent vc (vcCount k.sent vc + 1)
        (s.ready l 0 = true → (k.tx0.any isFly = true ∨ k.used 0 < 8) → ∃ t,
          data 0 0 (msgsPayload (takeMsgs (fun m => !k.tx0.any isFly || isFly m) k.tx0).1) t ∧ (t.lnk l).tx0 = (takeMsgs (fun m => !k.tx0.any isFly || isFly m) k.tx0).2) ∧
        ((s.ready l 0 = false ∨ k.tx0.any isFly = false ∧ 8 ≤ k.used 0) →
          (s.mayCarry l 1 = true → ∃ t, data 1 0 (msgsPayload (takeMsgs (fun _ => true) k.tx1).1) t ∧ (t.lnk l).tx1 = (takeMsgs (fun _ => true) k.tx1).2) ∧
          (s.mayCarry l 1 = false → s.mayCarry l 4 = true → (k.used 4 < s.policy 0x30 ∨ s.mayCarry l 2 = false ∧ s.mayCarry l 3 = false) →
            ∃ t, data 4 0 (msgsPayload (takeMsgs (fun _ => true) k.tx4).1) t ∧ (t.lnk l).tx4 = (takeMsgs (fun _ => true) k.tx4).2) ∧
          (s.mayCarry l 1 = false → (s.mayCarry l 4 = false ∨ s.policy 0x30 ≤ k.used 4) → s.mayCarry l 2 = true → (s.mayCarry l 3 = true → s.vc2First k = true) →
            ∀ f r, k.tx2 = f :: r → ∃ t, data 2 f.fvcf (flitBits f.body f.fvcf) t ∧ (t.lnk l).tx2 = r) ∧
          (s.mayCarry l 1 = false → (s.mayCarry l 4 = false ∨ s.policy 0x30 ≤ k.used 4) → s.mayCarry l 3 = true → (s.mayCarry l 2 = true → s.vc2First k = false) →
            ∀ f r, k.tx3 = f :: r → ∃ t, data 3 f.fvcf (flitBits f.body f.fvcf) t ∧ (t.lnk l).tx3 = r) ∧
          (s.mayCarry l 1 = false → s.mayCarry l 4 = false → s.mayCarry l 2 = false → s.mayCarry l 3 = false →
            ∃ t, sends (sealFrame (k.header ftIdle 0 0) 0) t ∧ (t.lnk l).txSeq = k.txSeq ∧ (t.lnk l).replay = k.replay)))) ∧
    (∀ m r, k.st = .exchange → k.ctl = m :: r → ∃ t, sends (sealFrame (k.header ftLinkctl 0 0) (msgsPayload [m])) t ∧ (t.lnk l).ctl = r ∧ (t.lnk l).st = .exchange) ∧
    (k.st = .exchange → k.ctl = [] → k.peer = none → ∃ t, sends (sealFrame (k.header ftLinkctl 0 0) (msgsPayload [k.control l 1])) t ∧ (t.lnk l).st = .exchange)

/-- `FramesAreTakenOrDiscarded` (R283, R284, R286 to R288, R321, R281, R282, R285 to R291, R299, R305, R318, R398): A port that is not locked,
or not up, takes no frame but link control in the exchange. A frame with an uncorrectable codeword, a wrong CRC or a bad form is counted and
discarded, and makes one `NAK` due when none is out; a frame of another type than the row's changes nothing. Codewords that were corrected
are counted. Model's choice (log 33): what a port hears before it is up. Outside protected mode `IDLE` gives its acknowledgement and
credits; the expected `DATA` frame moves the receive sequence on, gives them too, and its content waits in its channel, or goes on where a
transit record leads, with the mark of a reefed link on the first flit of a contribution; a duplicate changes nothing, and a gap makes a
`NAK` due. `NAK` acknowledges what lies below its number and has the rest sent again. Model's choice (logs 31, 80, 86): what order the flits
of a stream keep, which hoist flits a taken message still gets, and an acknowledgement outside the buffer. Which frames wake the block is
log 50 (the model's choice). -/
def Obligations.FramesAreTakenOrDiscarded : Prop :=
 (∀ (s : State) (l : PortNo) (f : Frame) (fec : Fec), s.Sound →
    let k := s.lnk l
    let i := l.val
    let u := match fec with | .corrected n => s.bump (cFecCorr i) n | _ => s
    let rejects (c : Nat) (x : Instr) : Prop := ∃ t, exec x s = .next t ∧ t = { u with counters := t.counters, link := t.link } ∧
      t.counter c = sat32 (s.counter c + 1) ∧ (∀ d, d ≠ c → t.counter d = u.counter d) ∧ (∀ q, q ≠ i → t.lnk q = s.lnk q) ∧
      t.lnk i = (if k.isUp && !k.nakOut then { k with nakDue := true } else k)
    (∀ n, fec = .corrected n → u.counter (cFecCorr i) = sat32 (s.counter (cFecCorr i) + n)) ∧
    ∀ x ∈ [(Instr.idle l f fec, fun f => fType f == ftIdle), (.data l f fec, fun f => fType f == ftData), (.nak l f fec, fun f => fType f == ftNak),
      (.gcmtag l f fec, fun f => fType f == ftGcmtag), (.lcInit l f fec, isControl 1), (.lcInitAck l f fec, isControl 2), (.lcReef l f fec, isControl 3),
      (.lcReefAck l f fec, isControl 4)],
      (k.locked = false ∨ k.isUp = false ∧ ¬(k.st = .exchange ∧ fType f = ftLinkctl) → exec x.1 s = .next u) ∧
      (k.locked = true → k.isUp = true ∨ k.st = .exchange ∧ fType f = ftLinkctl →
        (fec = .failed → rejects (cFecUncorr i) x.1) ∧
        (fec ≠ .failed → fCrc f ≠ (frameCrc f.hdr f.pay).toNat → rejects (cCrcErr i) x.1) ∧
        (fec ≠ .failed → fCrc f = (frameCrc f.hdr f.pay).toNat → (k.malformed f = true ∨ controlOk f = false) → rejects (cMalformed i) x.1) ∧
        (fec ≠ .failed → fCrc f = (frameCrc f.hdr f.pay).toNat → k.malformed f = false → controlOk f = true → x.2 f = false → exec x.1 s = .next u))) ∧
 (∀ (s : State) (l : PortNo) (f : Frame), s.Sound →
    let k := s.lnk l
    let v := fVcf f
    let awake := s.power.st ≠ .doze ∧ s.dozing = false
    k.locked = true → k.isUp = true → k.prot = false → fCrc f = (frameCrc f.hdr f.pay).toNat → k.malformed f = false →
      (fType f = ftIdle → exec (.idle l f .clean) s = .next (s.setLnk l (Link.takeFields f k))) ∧
      (fType f = ftData →
        (2048 ≤ seqDist k.rxSeq (fSeq f) → exec (.data l f .clean) s = .next s) ∧
        (seqDist k.rxSeq (fSeq f) ≠ 0 → seqDist k.rxSeq (fSeq f) < 2048 →
          exec (.data l f .clean) s = .next (s.setLnk l (if k.nakOut then k else { k with nakDue := true }))) ∧
        (seqDist k.rxSeq (fSeq f) = 0 → awake →
          let next : Link → Link := fun y => Link.takeFields f { y with rxSeq := (k.rxSeq + 1) % 4096, nakOut := false }
          (fVc f = 2 ∨ fVc f = 3 → k.orderOk v = true → s.transitPort l (fVc f) v = none →
            ∃ t, exec (.data l f .clean) s = .next t ∧ t = { s with link := t.link } ∧ (∀ q, q ≠ l.val → t.lnk q = s.lnk q) ∧
              t.lnk l = Link.takeIn (fVc f) v (next (k.ordered v)) ∧
              (bit v 11 = false ∨ bits v 12 3 = 1 ∨ bits v 12 3 = 3 ∨ k.rest = [] →
                let y := next (k.ordered v)
                let z : Link := if fVc f = 2 then { y with rx2 := k.rx2 ++ [v] } else { y with rx3 := k.rx3 ++ [v] }
                t.lnk l = (if bit v 11 = true ∧ bits v 12 3 = 1 then { z with heads := k.heads ++ [(fVc f, v)] } else z))) ∧
          (∀ q, fVc f = 2 ∨ fVc f = 3 → k.orderOk v = true → s.transitPort l (fVc f) v = some q → q ≠ l.val → bit v 11 = false →
            ∃ t, exec (.data l f .clean) s = .next t ∧ t = { s with link := t.link } ∧ t.lnk l = (next (k.ordered v)).freeBuffer (fVc f) ∧
              (let x : TxFlit := { fvcf := v, body := .transit f.pay (fVc f == 2 && bits v 12 3 == 0 && bits v 15 3 == 0 && bits v 0 11 == 0 && k.st == .reefed) }
               t.lnk q = (if fVc f = 2 then { s.lnk q with tx2 := (s.lnk q).tx2 ++ [x] } else { s.lnk q with tx3 := (s.lnk q).tx3 ++ [x] }))) ∧
          (fVc f = 2 ∨ fVc f = 3 → k.orderOk v = false → ∃ t, exec (.data l f .clean) s = .next t ∧
            t.counter (cMalformed l) = sat32 (s.counter (cMalformed l) + 1) ∧ t.lnk l = (if k.nakOut then k else { k with nakDue := true })) ∧
          (fVc f = 0 ∨ fVc f = 1 ∨ fVc f = 4 → ∃ t, exec (.data l f .clean) s = .next t ∧
            (let ms := (s.sortMsgs l (fVc f) (payloadMsgs f.pay)).2
             t.lnk l = (if ms = [] then (next k).freeBuffer (fVc f) else (next k).setRx (fVc f) (k.rxOf (fVc f) ++ [ms])))))) ∧
      (fType f = ftNak → awake →
        let y := Link.takeFields f k
        y.fruitless < 8 → ∃ t, exec (.nak l f .clean) s = .next t ∧ t.lnk l = { y with resend := y.replay, fruitless := y.fruitless + 1 } ∧
          t.counter (cReplay l) = sat32 (s.counter (cReplay l) + 1) ∧ t = { s with link := t.link, counters := t.counters }))

/-- `ProtectedBlocks` (R15, R313, R316 to R320): The tag of a block closes it. A good one, under the key slot and counter that it names, moves
that slot's counter on and opens the block, every frame of it takes effect, and another slot than the one it names is no longer kept; a bad
one is counted and reported to the security processor, drops the block, whose frames are expected again, and takes the link down. A `NAK`,
which bears no tag, causes a replay alone. A loaded key replaces its slot with the counter at 0, and one for the other transmit slot is
switched to at the next block boundary. Model's choice (logs 58, 89): when a loaded key is switched to, and a tag with a reserved bit. The
byte order of salt and counter is log 29. -/
def Obligations.ProtectedBlocks : Prop :=
  ∀ (s : State) (l : PortNo) (f : Frame) (rx : Bool) (slot : Fin 2) (key : BitVec 256) (salt : Word32), s.Sound →
    let k := s.lnk l
    let awake := s.power.st ≠ .doze ∧ s.dozing = false
    let i := bits f.pay 192 1
    let ctr := bits f.pay 128 64
    let x := s.keySlot l 1 i
    let good := x.loaded = true ∧ bits f.pay 200 8 = k.rxBlock.length ∧ gcmTag x.key x.salt ctr (blockAad k.rxBlock) (blockText k.rxBlock) = leBytes 16 (bits f.pay 0 128)
    let y : Link := { k with rxSeq := (k.rxSeq + 1) % 4096, nakOut := false, rxBlock := [], orderBase := k.order }
    let z : Link := { k with rxSeq := ((k.rxBlock.head?).map fSeq).getD (fSeq f), nakOut := false, rxBlock := [], order := k.orderBase }
    (awake → k.locked = true → k.isUp = true → fType f = ftGcmtag → fCrc f = (frameCrc f.hdr f.pay).toNat → k.malformed f = false →
      (bits f.pay 193 7 ≠ 0 ∨ bits f.pay 208 304 ≠ 0 → exec (.gcmtag l f .clean) s = .next ((s.bump (cMalformed l) 1).modLnk l Link.reject)) ∧
      (bits f.pay 193 7 = 0 → bits f.pay 208 304 = 0 → seqDist k.rxSeq (fSeq f) = 0 →
        (good → exec (.gcmtag l f .clean) s = .next (((((s.setLnk l y).setKeySlot l 1 i { x with ctr := ctr + 1 }).settleKey l i).openBlock l x ctr k.rxBlock).modLnk l
          (Link.takeFields f))) ∧
        (good → k.rxBlock = [] → ∃ t, exec (.gcmtag l f .clean) s = .next t ∧ t.lnk l = Link.takeFields f y ∧ (t.keySlot l 1 i).ctr = ctr + 1 ∧
          t.keyUse l 1 = i ∧ (s.keyUse l 1 % 2 ≠ i → t.keySlot l 1 (1 - i) = keySlotDefault 0) ∧ t = { s with link := t.link, keys := t.keys }) ∧
        (¬good → exec (.gcmtag l f .clean) s = .next
          (({ s.setLnk l z with out := { s.out with security := l.val :: s.out.security } } : State).bump (cGcmFail l) 1 |>.linkDown l 0x42)))) ∧
    (awake → k.locked = true → k.isUp = true → k.prot = true → fType f = ftNak → fCrc f = (frameCrc f.hdr f.pay).toNat → k.malformed f = false → k.fruitless < 8 →
      ∃ t, exec (.nak l f .clean) s = .next t ∧ t = { s with link := t.link, counters := t.counters } ∧
        t.lnk l = { k with resend := k.replay.drop (seqDist k.txAck (fAck f)), fruitless := k.fruitless + 1 }) ∧
    (s.power.rail = false → exec (.keyLoad l rx slot key salt) s = .next s) ∧
    (s.power.rail = true → ∃ t, exec (.keyLoad l rx slot key salt) s = .next t ∧ t = { s with keys := t.keys } ∧
      t.keySlot l (flag rx) slot = { key := key, salt := salt, ctr := 0, loaded := true } ∧
      (∀ p d j, d < 2 → j < 2 → ¬(p = l.val ∧ d = flag rx ∧ j = slot.val) → t.keySlot p d j = s.keySlot p d j) ∧
      (rx = true ∨ s.keyUse l 0 % 2 = slot.val → t.keys.active = s.keys.active) ∧
      (rx = false → s.keyUse l 0 % 2 ≠ slot.val → t.keyUse l 0 = s.keyUse l 0 % 2 + 2))

/-- `LinksComeUpAndGoDown` (R277 to R279, R285, R288, R291, R298, R313, R314, R317, R286 to R288, R312 to R315, R384, R386, R419): Lock ends the
training of a port, which begins the exchange; `LC_INIT` gives the partner, and with both acknowledgements the link is up at four lanes, or
reefed at two, and counts from 0, or goes on where the link it resumes stood; the counter of a block that was open is not used again. Lost
lock stops reception. `LC_REEF` has the port confirm the lanes that it names, and the confirmation has the asking port retrain; outside
protected mode both give their acknowledgement and credits. A `NAK` without progress is due again; a replay timer sends the replay buffer
again, the ninth time it takes the link down; a link that has lost lock goes down when its time is over. A link that goes down moves to a
free spare with its queues and sequence numbers, else retrains on a healthy pair of lanes, else is lost and trains afresh. None of them acts
on a link that is not in that state. A link that is not up in time after `RETAIN` is handled so too, and reported to every chip. Model's
choice (logs 31, 93): which replays count as fruitless, and what Masthead's response to a link that is down spans. Read by inference: what a
port sends while it comes up and what a lost link keeps (log 91), when a calibrated port counts as locked (log 64). -/
def Obligations.LinksComeUpAndGoDown : Prop :=
 (∀ (s : State) (l : PortNo) (f : Frame) (blocks : List (BitVec 257)), s.Sound →
    let k := s.lnk l
    let y := if k.prot then k else Link.takeFields f k
    let here (t : State) (x : Link) : Prop := t.lnk l = x ∧ (∀ q, q ≠ l.val → t.lnk q = s.lnk q) ∧ t = { s with link := t.link }
    (markersOk blocks = false → exec (.superBlockLock ⟨l, blocks⟩) s = .next s) ∧
    (markersOk blocks = true →
     (k.st = .training → ∃ t, exec (.superBlockLock ⟨l, blocks⟩) s = .next t ∧ here t (Link.startExchange l { k with locked := true })) ∧
    (k.st = .retraining → s.mh.cals.contains l.val = false → ∃ t, exec (.superBlockLock ⟨l, blocks⟩) s = .next t ∧ here t (Link.startExchange l { k with locked := true })) ∧
    (k.st = .retraining ∧ s.mh.cals.contains l.val = true ∨ k.st = .down → exec (.superBlockLock ⟨l, blocks⟩) s = .next s) ∧
    (k.st = .exchange ∨ k.isUp = true → ∃ t, exec (.superBlockLock ⟨l, blocks⟩) s = .next t ∧ here t { k with locked := true })) ∧
    (∃ t, exec (.alignmentLockLoss l) s = .next t ∧ here t { k with locked := false }) ∧
    (k.locked = true → fType f = ftLinkctl → fCrc f = (frameCrc f.hdr f.pay).toNat → k.malformed f = false → controlOk f = true →
      let m := controlMsg f
      (k.st = .exchange → lcKind m = 1 → lcResume m = false → (k.ackSent = false ∨ k.ackSeen = false) → ∃ t, exec (.lcInit l f .clean) s = .next t ∧
        here t { k with peer := some (lcPort m, lcLlink m, lcProt m, lcDie m), resume := false }) ∧
      (k.st = .exchange → lcKind m = 2 → k.ackSent = false → ∃ t, exec (.lcInitAck l f .clean) s = .next t ∧
        here t { k with peer := (if k.peer.isNone then some (lcPort m, lcLlink m, lcProt m, lcDie m) else k.peer), ackSeen := true }) ∧
      (k.st = .exchange → lcKind m = 2 → k.ackSent = true → k.resume = false → ∃ t, exec (.lcInitAck l f .clean) s = .next t ∧
        (t.lnk l).st = (if k.lanes = 0 then .up else .reefed) ∧ (t.lnk l).txSeq = 0 ∧ (t.lnk l).rxSeq = 0 ∧ (t.lnk l).replay = [] ∧ (t.lnk l).locked = true ∧
        (t.lnk l).peer.isSome = true ∧ t = { s with link := t.link, mh := t.mh, keys := t.keys } ∧ (k.txBlock = [] → t.keys = s.keys) ∧
        (k.txBlock ≠ [] → let i := s.keyUse l 0 % 2
                          t.keySlot l 0 i = { s.keySlot l 0 i with ctr := (s.keySlot l 0 i).ctr + 1 })) ∧
      (k.st = .exchange → lcKind m = 2 → k.ackSent = true → k.resume = true → ∃ t, exec (.lcInitAck l f .clean) s = .next t ∧
        (t.lnk l).st = (if k.lanes = 0 then .up else .reefed) ∧ (t.lnk l).txSeq = k.txSeq ∧ (t.lnk l).rxSeq = k.rxSeq ∧ (t.lnk l).replay = k.replay ∧
        (t.lnk l).resend = k.replay ∧ (t.lnk l).resume = false) ∧
      (k.isUp = true → lcKind m = 3 → lcLanes m ≠ 0 → ∃ t, exec (.lcReef l f .clean) s = .next t ∧
        here t { y with lanes := lcLanes m, ctl := k.ctl ++ [({ k with lanes := lcLanes m } : Link).control l 4] }) ∧
      (k.st = .up → lcKind m = 4 → k.lanes ≠ 0 → lcLanes m = k.lanes → ∃ t, exec (.lcReefAck l f .clean) s = .next t ∧
        here t (y.retrain k.lanes) ∧ (t.lnk l).st = .retraining ∧ (t.lnk l).resume = true))) ∧
 (∀ (s : State) (l : PortNo) (lane : Fin 4), s.Sound →
    let k := s.lnk l
    (k.isUp = false ∨ k.nakOut = false → exec (.nakRepeatTimer l) s = .next s) ∧
    (k.isUp = true → k.nakOut = true → exec (.nakRepeatTimer l) s = .next (s.setLnk l { k with nakDue := true, nakOut := false })) ∧
    (k.isUp = false ∨ k.replay = [] → exec (.replayTimeout l) s = .next s) ∧
    (k.isUp = true → k.replay ≠ [] → k.fruitless < 8 → ∃ t, exec (.replayTimeout l) s = .next t ∧ t.lnk l = { k with resend := k.replay, fruitless := k.fruitless + 1 } ∧
      t.counter (cReplay l) = sat32 (s.counter (cReplay l) + 1) ∧ t = { s with link := t.link, counters := t.counters }) ∧
    (k.isUp = true → k.replay ≠ [] → 8 ≤ k.fruitless → exec (.replayTimeout l) s = .next (s.linkDown l 0x41)) ∧
    (k.isUp = false ∨ k.locked = true → exec (.lockLossTimeout l) s = .next s) ∧
    (k.isUp = true → k.locked = false → exec (.lockLossTimeout l) s = .next (s.linkDown l 0x41)) ∧
    ((s.linkDown l 0x41).counter (cLinkDown l) = sat32 (s.counter (cLinkDown l) + 1)) ∧
    (∀ q, s.spareFor l = some q → q ≠ l.val → ∃ c t, s.respondPort l = (t, .moved q) ∧ t.topo.links = s.topo.links.map (fun e =>
        (e.1, if e.2.phys = l.val then { e.2 with phys := q, spare := some l.val } else e.2)) ∧ t.lnk q = c ∧
        c.st = .exchange ∧ c.txSeq = k.txSeq ∧ c.rxSeq = k.rxSeq ∧ c.replay = k.replay ∧ c.resume = true ∧ c.tx1 = k.tx1 ∧ c.tx2 = k.tx2 ∧ c.tx3 = k.tx3 ∧
        (t.lnk l).st = .training ∧ (∀ d i, d < 2 → i < 2 → t.keySlot q d i = s.keySlot l d i ∧ t.keySlot l d i = keySlotDefault 0)) ∧
    (∀ n, s.spareFor l = none → k.badLanes ≠ [] → k.lanes = 0 → k.healthyPair = some n → s.respondPort l = (s.setLnk l (k.retrain n), .reefed)) ∧
    (s.spareFor l = none → (k.badLanes = [] ∨ k.lanes ≠ 0 ∨ k.healthyPair = none) →
      let u := (s.dropBlock l).setLnk l (k.fresh l)
      (s.declOn l = none → s.respondPort l = (u, .lost [])) ∧
      (∀ e, s.declOn l = some e → s.respondPort l = (u.loseLink e.1, .lost (s.hitContexts (s.ridesOn e.1))))) ∧
    (k.badLanes.contains lane.val = true → exec (.laneFailure l lane) s = .next s) ∧
    (k.badLanes.contains lane.val = false → (k.isUp = false ∨ k.uses lane = false) →
      exec (.laneFailure l lane) s = .next (s.setLnk l { k with badLanes := k.badLanes ++ [lane.val] })) ∧
    (∀ n, k.badLanes.contains lane.val = false → k.isUp = true → k.uses lane = true → s.spareFor l = none → k.lanes = 0 →
      ({ k with badLanes := k.badLanes ++ [lane.val] } : Link).healthyPair = some n → ∃ t, exec (.laneFailure l lane) s = .next t ∧
        t.lnk l = (let y := { k with badLanes := k.badLanes ++ [lane.val], lanes := n }
                   { y with ctl := k.ctl ++ [y.control l 3] })) ∧
    ((s.mh.linksDue = false ∨ k.isUp = true ∨ s.declOn l = none) → exec (.linkUpTimeout l) s = .next s) ∧
    (s.mh.linksDue = true → k.isUp = false → (s.declOn l).isSome = true → exec (.linkUpTimeout l) s = .next
      (((s.respondPort l).1.portFault 0x41 7 l id (s.respondPort l).2).sendReport 0x41 (s.logicalOf l))))

/-- `LetFliesAndTakeovers` (R300, R356, R430, R163, R411, R308 to R310, R386): The oldest let-fly of a receive buffer is taken whatever stands
before it. One that this chip has seen has no further effect; a new one is noted, applied to what it covers, and sent on over every other
link that is up. After a let-fly of the collective scope no collective that it covers is left without an end; its hoist scope leaves no
send, no hold, and of the pools only what a message of another chip or a delivery still needs. One with the tell-tale or the hoist scope
wakes the block. Model's choice (logs 50, 94, 123): which let-flies wake it, over which links it goes on, and which received flits are
dropped. A let-fly whose scope includes the tell-tale network takes every waiter off every word and every channel, each with the answer
`ABORTED` at its port, and changes nothing else of a word; every channel keeps its state and phase and forgets the arrivals that have not
been released. One whose scope leaves it out does not touch the network. (While no cluster waits for a fill; for one that does, log 121.) A
primary sends a heartbeat with its next number to each standby, which notes it. A standby that misses them takes over every node of that
primary, says so to the chips around it and reports code 0x48; a chip that hears of a takeover from then on counts the standby as the node's
host, and one that hosts the node above takes its input from where the message came. A chip with no such node does nothing. Model's choice
(logs 83, 113, 124): what a standby sends again, the link that its report names, and which input above is the node's. The number of a
heartbeat and the code of a missing one are read by inference (log 93). -/
def Obligations.LetFliesAndTakeovers : Prop :=
 (∀ (s : State) (l : PortNo), s.Sound →
    (takeFly (s.lnk l).rx0 = none → exec (.letFlyMessage l) s = .next s) ∧
    (∀ m rest freed, takeFly (s.lnk l).rx0 = some (m, rest, freed) →
      let u := s.setLnk l (if freed then ((s.lnk l).setRx 0 rest).freeBuffer 0 else (s.lnk l).setRx 0 rest)
      let pair := (ctSrc m, bits m 74 16)
      (s.link.flySeen.contains pair = true → exec (.letFlyMessage l) s = .next u) ∧
      (s.link.flySeen.contains pair = false → exec (.letFlyMessage l) s = .next
        (((({ u with link := { u.link with flySeen := (pair :: s.link.flySeen).take 64 } } : State).wakeFor (flyOf m)).applyFly (flyOf m)).flood m (some l.val)))) ∧
    (∀ f : Fly, (f.scope.testBit 3 = true → ∀ c ∈ (s.applyFly f).ops.colls, f.selects c.ctx = true → c.ended.isSome = true) ∧
      (f.scope.testBit 1 = true → (s.applyFly f).ops.sends = [] ∧ (s.applyFly f).ops.holds = [] ∧ (s.applyFly f).ops.inbound = s.ops.inbound ∧
        ∀ c ∈ (s.applyFly f).ops.pools, (s.applyFly f).copyNeeded c.pool c.sender = true) ∧
      (f.scope.testBit 0 = true → ∀ o ∈ (s.applyFly f).ops.combs, f.selects (dCtx o.desc) = true → o.cause.isSome = true) ∧
      (f.scope = 0 → s.applyFly f = s.cutReason 5))) ∧
 (∀ (s : State) (f : Fly), s.Sound → s.units.paused = [] →
    let t := s.applyFly f
    (f.scope.testBit 2 = false → t.tt = s.tt) ∧
    (f.scope.testBit 2 = true → t.tt.flights = s.tt.flights ∧
      (∀ w, t.word w = { s.word w with queue := [], drain := [] }) ∧
      (∀ w, ∀ q ∈ (s.word w).waiters, (s.port q.pos).rebinding = false → responseWord .aborted 2 w (s.word w).value ∈ (t.port q.pos).resp) ∧
      (∀ ch, let x := s.chan ch
             let y := t.chan ch
             y.st = x.st ∧ y.phase = x.phase ∧ y.arrived = [] ∧ y.waits = [] ∧ y.rel = none ∧
               (∀ p n, x.lastOf p = .inPhase n → y.lastOf p = (if x.releasedTo p n then .inPhase n else .cleared)) ∧
               (∀ b ∈ x.waits, (s.port b.pos).rebinding = false → responseWord .aborted b.top ch 0 ∈ (t.port b.pos).resp)))) ∧
 (∀ (s : State) (l : PortNo) (primary : Fin 32768) (m : Msg), s.Sound →
    (s.topo.rigValid = false ∨ s.standbyChips = [] → exec .heartbeatSend s = .next s) ∧
    (s.topo.rigValid = true → s.standbyChips ≠ [] → ∃ t, exec .heartbeatSend s = .next t ∧ t = { s with link := t.link } ∧
      t.link.hbSeq = (s.link.hbSeq + 1) % 65536 ∧ (∀ c port, s.standbyChips = [c] → s.routeTo c = some port →
        t.lnk port = Link.queueMsg 0 (ctlMsg ctHeartbeat s.topo.chip c [(74, 16, s.link.hbSeq)]) (s.lnk port))) ∧
    (s.headMsg l 0 = some m → s.topo.rigValid = true → s.topo.chip = ctDst m → ctType m = ctHeartbeat →
      ∃ t, exec (.heartbeat l) s = .next t ∧ t.link.hbSeen.find (ctSrc m) = some (bits m 74 16) ∧ t = { s with link := t.link }) ∧
    (s.headMsg l 0 = some m → s.topo.rigValid = true → s.topo.chip = ctDst m → ctType m = ctTakeover → s.power.st ≠ .doze → s.dozing = false → ∃ t, exec (.takeover l) s = .next t ∧
      t = { s with link := t.link, topo := t.topo, mem := t.mem } ∧
      (let n := BitVec.ofNat 21 (bits m 69 21)
       (s.topo.groups.any (fun e => e.2.folds.any (fun r => r.fnid == n)) = true → t.topo.takenOver.contains n = true ∧
        ∀ e ∈ s.topo.groups, ∀ r ∈ e.2.folds, r.fnid = n → t.hostOf r = r.standby) ∧
       (s.topo.groups.any (fun e => e.2.folds.any (fun r => r.fnid == n)) = false → t.mem = s.mem ∧ (s.parentInput n (ctSrc m) = none → t.topo = s.topo) ∧
         (∀ r j, s.parentInput n (ctSrc m) = some (r, j) → t.topo = { s.topo with rehomed :=
           { fnid := r.fnid, input := j, port := s.logicalOf l, chip := ctSrc m } :: s.topo.rehomed.filter (fun h => !(h.fnid == r.fnid && h.input == j)) })))) ∧
    (s.standbyFor primary = [] → exec (.heartbeatMissing primary) s = .next s) ∧
    (∀ r rs, s.standbyFor primary = r :: rs → ∃ t, exec (.heartbeatMissing primary) s = .next t ∧
      t = (forEach (r :: rs) State.takeOver s).sendReport 0x48 ((r.ins.head?.map (·.sblink)).getD 0) ∧
      (∀ x ∈ r :: rs, t.topo.takenOver.contains x.fnid = true ∧ t.hostOf x = x.standby)))

/-- `RelaysAreAnswered` (R345, R353): A Masthead answers a feed query with its power-feed identifier, and a word query with both parts of the
word. A feed reply puts the pairing in force, with whether the feeds are the same, and answers `PARTNER_SET`; the last part of the last word
answers the `SYNC_INSPECT` with all of them; a relay that gets no reply is refused with `ESTATE`. A reply that no relay waits for has no
effect but to leave its buffer. Both parts of a word travel in two replies (log 34). -/
def Obligations.RelaysAreAnswered : Prop :=
  ∀ (s : State) (l : PortNo) (m : Msg),
    (s.headMsg l 0 = some m → s.topo.rigValid = true → s.topo.chip = ctDst m → ctType m = ctRelay →
      let u := s.modLnk l (Link.dropMsg 0)
      (mrKind m = 1 → exec (.feedQuery l) s = .next (u.relayTo (ctSrc m) 2 s.inp.regions.feed.toNat)) ∧
      (mrKind m = 2 → ∀ slot seq p, s.mh.relay.find? (Relay.feedFrom (ctSrc m)) = some (.feed slot seq p) →
        let same := bits m 0 32 == s.inp.regions.feed.toNat
        exec (.feedReply l) s = .next (({ u with
            mh := { s.mh with relay := s.mh.relay.erase (.feed slot seq p) }, pol := { s.pol with partner := some { p with sameFeed := same } } } : State).respond
          (if same then 0x8002 else 0x8001) 0x0015 seq.toNat slot 0xFFFF [])) ∧
      (mrKind m = 2 → s.mh.relay.find? (Relay.feedFrom (ctSrc m)) = none → exec (.feedReply l) s = .next u) ∧
      (mrKind m = 3 → wordIndex (bits m 0 16) < 768 → exec (.wordReadRelay l) s = .next
        ((u.relayTo (ctSrc m) 4 (s.word (bits m 0 16)).arch.toNat).relayTo (ctSrc m) 4 (s.shadowWord (bits m 0 16)).toNat)) ∧
      (mrKind m = 4 → ∀ slot seq chip first count parts, s.mh.relay.find? (Relay.wordsFrom (ctSrc m)) = some (.words slot seq chip first count parts) →
        (parts.length + 1 = 2 * count → exec (.wordReadReply l) s = .next (({ u with
            mh := { s.mh with relay := s.mh.relay.erase (.words slot seq chip first count parts) } } : State).respond 0x8001 0x0042 seq.toNat slot 0xFFFF
          ((parts ++ [mrData m]).flatMap (wordBytes 8)))) ∧
        (parts.length + 1 < 2 * count → ∃ t, exec (.wordReadReply l) s = .next t ∧ t = { u with mh := { s.mh with relay := t.mh.relay } } ∧
          .words slot seq chip first count (parts ++ [mrData m]) ∈ t.mh.relay)) ∧
      (mrKind m = 4 → s.mh.relay.find? (Relay.wordsFrom (ctSrc m)) = none → exec (.wordReadReply l) s = .next u)) ∧
    (s.mh.relay = [] → exec .relayTimeout s = .next s) ∧
    (∀ slot seq p r, s.mh.relay = .feed slot seq p :: r → exec .relayTimeout s = .next
      (({ s with mh := { s.mh with relay := r } } : State).respond 0x8012 0x0015 seq.toNat slot 16 [])) ∧
    (∀ slot seq chip first count parts r, s.mh.relay = .words slot seq chip first count parts :: r → exec .relayTimeout s = .next
      (({ s with mh := { s.mh with relay := r } } : State).respond 0x8012 0x0042 seq.toNat slot 18 []))

/-- `ShortConversionsSaturate` (R76): A finite source above the largest finite value of a short format becomes that value with the source's sign
and bumps the saturation counter, under every rounding attribute, for KF16 as well; a source equal to it converts exactly and bumps nothing. -/
def Obligations.ShortConversionsSaturate : Prop :=
  ∀ f ∈ [Fmt.kf16, .kf8e4, .kf8e5, .kf4, .kf3], ∀ (m : Rm) (neg : Bool) (n d : Nat), 0 < d →
    (f.maxval * d < n → (toShort f m (.fin neg n d)).2 = Tally.oneSat ∧
      ∃ a b, f.value (toShort f m (.fin neg n d)).1 = .fin neg a b ∧ a = f.maxval * b ∧ 0 < b) ∧
    (n = f.maxval * d → (toShort f m (.fin neg n d)).2 = Tally.zero ∧
      ∃ a b, f.value (toShort f m (.fin neg n d)).1 = .fin neg a b ∧ a = f.maxval * b ∧ 0 < b)

/-- `ShortConversionsFlush` (R77): A nonzero finite source whose rounded result in a short format is zero bumps the flush counter; in KF16 the
zero keeps the source's sign, and in the other formats it is code 0. A source of either zero converts to zero and bumps nothing, and so does
a source in range that rounds to a nonzero value, a subnormal among them. -/
def Obligations.ShortConversionsFlush : Prop :=
  ∀ f ∈ [Fmt.kf16, .kf8e4, .kf8e5, .kf4, .kf3], ∀ (m : Rm) (neg : Bool) (n d : Nat), 0 < d → 0 < n →
    let r := toShort f m (.fin neg n d)
    ((∃ q, f.value r.1 = .zero q) → r.2 = Tally.oneFlush ∧ r.1 = (if f = .kf16 ∧ neg = true then 0x8000 else 0)) ∧
    ((∀ q, f.value r.1 ≠ .zero q) → r.2.flush = 0 ∧ (n ≤ f.maxval * d → r.2 = Tally.zero)) ∧
    (toShort f m (.zero neg)).2 = Tally.zero ∧ (∃ q, f.value (toShort f m (.zero neg)).1 = .zero q)

/-- `IntegerSumsAreExact` (R30 to R32, R81, R101, R91, R92, R101 to R104, R106, R112, R104, R105, R94 to R99, R107, R109, R110, R121 to R128,
R131): However the members of an integer sum lie in the tree, the root has the exact sum of their elements, without a flag or a count; its
conversion into an integer format is exact where the sum fits, and else the nearest limit with one saturation. Which step the tree applies
in a plain pass, by opcode and format; a P1 step adds under the descriptor's attribute, returns its first NaN, and makes an invalid sum the
default NaN with `NV`. Over contributions without a NaN each extremum is one of them and ranks before every other, −0 below +0, and its
position is the lowest rig index that holds it; a NaN among several gives `MAX`, `MIN`, `AMAX` and `AMIN` the lowest NaN, quieted, and gives
way to a number under `MAXNUM` and `MINNUM`. In P2 and P3 the combined word gives the greatest exponent, the tree adds the windows exactly
whatever its shape, and the root value is the sum of the truncated contributions at the last window's unit; a NaN makes the element the NaN
of the lowest rig index; infinities and zeros settle as Table 3-4 says. Each member of a scan gets the converted tree value of the members
up to it, itself among them under `SCANI`; the first member of a `SCANX` gets the empty prefix: 0, or the limit of the extremum. An absent
member of an `SPSUM` contributes no value and no count, any other one; counts add up the tree; with none the result is `UNVISITED` with an
empty tally and code 0 for every element where `ZERO_UNVISITED` asks for it, else it carries the number. The scale of a block covers its
greatest element, so that no element saturates; a level stays within the bound that keeps the group's sum below 2^31; the tree adds levels
exactly and keeps a sentinel; the result is the sum times the scale. -/
def Obligations.IntegerSumsAreExact : Prop :=
 ((∀ (n : Nat) (l : List (Nat × List Elem)), l ≠ [] → (∀ e ∈ l, e.1 < 2 ^ 25 ∧ e.2.length = n ∧ ∀ x ∈ e.2, ∃ v q, x = .int v q) →
    ∃ r, (Comb.isum).tree l = (some r, Tally.zero) ∧ r.length = n ∧
      ∀ i, i < n → elemNum (nth (Elem.int 0 0) r i) = (l.map (fun e => elemNum (nth (Elem.int 0 0) e.2 i))).sum) ∧
  (∀ (f : Fmt) (m : Rm) (v : Int), f.isInt = true →
    (f.intMin ≤ v → v ≤ f.intMax → (convInt f m v).2 = Tally.zero ∧ signed f.width (convInt f m v).1 = v) ∧
    (f.intMax < v → (convInt f m v).2 = Tally.oneSat ∧ signed f.width (convInt f m v).1 = f.intMax) ∧
    (v < f.intMin → (convInt f m v).2 = Tally.oneSat ∧ signed f.width (convInt f m v).1 = f.intMin))) ∧
 ((∀ x : Shape,
    let sum := if x.ifmt.isInt then Comb.isum else .fsum x.acc x.rm
    let ext (e : Ext) := if x.ifmt.isInt then Comb.iext e else .ext e x.acc
    (x.op ∈ [0x01, 0x02, 0x03] → x.comb = sum) ∧ (x.op ∈ [0x0E, 0x0F] → (x.scanop = 0 → x.comb = sum) ∧ (x.scanop = 1 → x.comb = ext .max) ∧ (x.scanop = 2 → x.comb = ext .min)) ∧
    (∀ r ∈ [(0x04, Ext.max), (0x05, .min), (0x06, .maxnum), (0x07, .minnum), (0x08, .amax), (0x09, .amin)], x.op = r.1 → x.comb = ext r.2) ∧
    (x.op = 0x0A → x.comb = .band) ∧ (x.op = 0x0B → x.comb = .bor) ∧ (x.op = 0x0C → x.comb = .bxor) ∧ (x.op = 0x0D → x.comb = .isum) ∧ (x.op = 0x10 → x.comb = .lsem)) ∧
  (∀ f ∈ [Fmt.f32, .f64], ∀ (m : Rm) (a b p q : Nat), a < 2 ^ f.width → b < 2 ^ f.width →
    let sum (c : Nat) (t : Tally) : Prop := (Comb.fsum f m).step (.flt (BitVec.ofNat 64 a) p) (.flt (BitVec.ofNat 64 b) q) = (.flt (BitVec.ofNat 64 c) p, t)
    let sig : Tally := if f.isSig a || f.isSig b then Tally.invalid else Tally.zero
    (f.isNan a = true → sum (f.quiet a) sig) ∧ (f.isNan a = false → f.isNan b = true → sum (f.quiet b) sig) ∧
    (f.isNan a = false → f.isNan b = false →
      (f.isInf a = true → f.isInf b = true → a ≠ b → sum f.defaultNan Tally.invalid) ∧ (f.isInf a = true → (f.isInf b = true → a = b) → sum a Tally.zero) ∧
      (f.isInf a = false → f.isInf b = true → sum b Tally.zero) ∧
      (f.isInf a = false → f.isInf b = false → ieeeNeg f a = b → sum (if m = .rdn then f.signBit else 0) Tally.zero) ∧
      (f.isInf a = false → f.isInf b = false → a % f.signBit ≠ 0 → b % f.signBit = 0 → sum a Tally.zero)))) ∧
 (∀ f ∈ [Fmt.f32, .f64], ∀ (k : Ext) (l : List (Nat × Nat)), l ≠ [] → (l.map (·.1)).Nodup → (∀ e ∈ l, e.1 < 2 ^ 25 ∧ e.2 < 2 ^ f.width) →
    let tree := (Comb.ext k f).tree (l.map (fun e => (e.1, [Elem.flt (BitVec.ofNat 64 e.2) e.1])))
    let before (a b : Nat) : Prop := match k with
      | .max | .maxnum => f.rank b ≤ f.rank a
      | .min | .minnum => f.rank a ≤ f.rank b
      | .amax => f.mag b < f.mag a ∨ f.mag b = f.mag a ∧ f.rank b ≤ f.rank a
      | .amin => f.mag a < f.mag b ∨ f.mag a = f.mag b ∧ f.rank a ≤ f.rank b
    let best (l : List (Nat × Nat)) : Prop := ∃ e ∈ l, tree.1 = some [.flt (BitVec.ofNat 64 e.2) e.1] ∧ (∀ x ∈ l, before e.2 x.2) ∧ (∀ x ∈ l, x.2 = e.2 → e.1 ≤ x.1)
    ((∀ e ∈ l, f.isNan e.2 = false) → best l ∧ tree.2 = Tally.zero) ∧
    (k = .maxnum ∨ k = .minnum → (∃ e ∈ l, f.isNan e.2 = false) → best (l.filter (fun e => !f.isNan e.2))) ∧
    (k ≠ .maxnum → k ≠ .minnum → 2 ≤ l.length → ∀ e ∈ l, f.isNan e.2 = true → (∀ x ∈ l, f.isNan x.2 = true → e.1 ≤ x.1) →
      ∃ p, tree.1 = some [.flt (BitVec.ofNat 64 (f.quiet e.2)) p])) ∧
 ((∀ (p3 : Bool) (m : Rm) (cs : List Nat), (∀ c ∈ cs, c < 2 ^ 32 ∧ Fmt.f32.isNan c = false ∧ Fmt.f32.isInf c = false) → (∃ c ∈ cs, c % 2 ^ 31 ≠ 0) →
    let expo (c : Nat) : Option Int := match Fmt.f32.value c with | .fin _ n d => some (floorLog2 n d) | _ => none
    ∃ e, settle ((cs.map classWord).foldl joinWord 0) (m == .rdn) = .window e ∧ (∃ c ∈ cs, expo c = some e) ∧ (∀ c ∈ cs, ∀ q, expo c = some q → q ≤ e) ∧
      (let unit : Int := if p3 then e - 75 else e - 37
       let cut (c : Nat) : Int := match Fmt.f32.value c with | .fin neg n d => truncScaled neg n d (-unit) | _ => 0
       let ws := cs.map (windows p3 e)
       let total := (cs.map cut).sum
       windowValue p3 e m (ws.map (·.1.1)).sum (ws.map (·.1.2)).sum =
         (if total = 0 then .zero (m == .rdn) else Val.scaled (decide (total < 0)) total.natAbs unit))) ∧
  (∀ l : List (Nat × Int × Int), l ≠ [] → (∀ e ∈ l, e.1 < 2 ^ 25) →
    Comb.window.tree (l.map (fun e => (e.1, [Elem.win e.2.1 e.2.2]))) = (some [.win (l.map (·.2.1)).sum (l.map (·.2.2)).sum], Tally.zero)) ∧
  (∀ l : List (Nat × Nat), l ≠ [] → (l.map (·.1)).Nodup → (∀ e ∈ l, e.1 < 2 ^ 25 ∧ e.2 < 2 ^ 32) →
    let words := l.map (fun e => classWord e.2)
    (∃ p, Comb.word.tree (l.map (fun e => (e.1, [Elem.int (classWord e.2) e.1]))) = (some [.int ((words.foldl joinWord 0 : Nat) : Int) p], Tally.zero)) ∧
    (∀ e ∈ l, Fmt.f32.isNan e.2 = true → (∀ x ∈ l, Fmt.f32.isNan x.2 = true → e.1 ≤ x.1) → (∀ r, settle (words.foldl joinWord 0) r = .key) ∧
      ∃ p, Comb.window.tree (l.map (fun x => (x.1, [Elem.int (nanKey x.1 x.2) x.1]))) = (some [.int (e.1 * 2 ^ 32 + e.2 : Nat) p], Tally.zero)) ∧
    ((∀ e ∈ l, Fmt.f32.isNan e.2 = false) → ∀ r, let w := settle (words.foldl joinWord 0) r
      (0x7F800000 ∈ l.map (·.2) → 0xFF800000 ∈ l.map (·.2) → w = .value .nar Tally.invalid) ∧ (0x7F800000 ∈ l.map (·.2) → 0xFF800000 ∉ l.map (·.2) → w = .value (.inf false) Tally.zero) ∧
      (0x7F800000 ∉ l.map (·.2) → 0xFF800000 ∈ l.map (·.2) → w = .value (.inf true) Tally.zero) ∧
      ((∀ e ∈ l, e.2 % 2 ^ 31 = 0) → w = .value (.zero (decide (0x80000000 ∈ l.map (·.2)) && (decide (0 ∉ l.map (·.2)) || r))) Tally.zero)))) ∧
 (∀ (x : Shape) (t : Tally) (l : List (Nat × List Elem)), 0 < x.nelem → (l.map (·.1)).Pairwise (· < ·) → (∀ e ∈ l, e.2.length = x.nelem ∧ ∀ v ∈ e.2, elemPos v = e.1) →
    let r := scanResult x t (l.flatMap (·.2))
    let upTo (p : Nat) := l.filter (fun e => if x.op = 0x0F then decide (e.1 ≤ p) else decide (e.1 < p))
    r.status = .ok ∧ r.scan.map (·.1) = l.map (·.1) ∧
    (∀ e ∈ l, (∀ v, (x.comb.tree (upTo e.1)).1 = some v → (e.1, v.map (fun y => (finalCode x y).1)) ∈ r.scan) ∧
      (upTo e.1 = [] → (e.1, List.replicate x.nelem (emptyPrefix x)) ∈ r.scan)) ∧
    (x.scanop = 0 → emptyPrefix x = 0) ∧ (x.scanop = 1 → x.ifmt.isInt = false → x.ofmt = .f32 → emptyPrefix x = 0xFF800000) ∧
    (x.scanop = 2 → x.ifmt.isInt = false → x.ofmt = .f32 → emptyPrefix x = 0x7F800000) ∧
    (x.ifmt = x.ofmt → x.ifmt.isInt = true → (x.scanop = 1 → signed x.ofmt.width (emptyPrefix x) = x.ifmt.intMin) ∧ (x.scanop = 2 → signed x.ofmt.width (emptyPrefix x) = x.ifmt.intMax))) ∧
 ((∀ (s : State) (p pass : Nat) (d : Desc) (p1 : Bool) (words codes : List Nat), (shapeOf (definingOf d)).op = 0x02 →
    let u := s.contribution p d pass p1 words codes
    (dSpAbsent d = true → u.vals = none ∧ u.ncontrib = 0 ∧ u.tally = Tally.zero) ∧ (dSpAbsent d = false → u.vals.isSome = true ∧ u.ncontrib = 1)) ∧
  (∀ (l : List UpMsg) (v : Option (List Elem)) (t : Tally) (m : UpMsg), (joinUps l v t m).ncontrib = (l.map (·.ncontrib)).sum) ∧
  (∀ (x : Shape) (p1 : Bool) (n : Nat) (t : Tally) (codes poss : List Nat), x.op = 0x02 →
    (n = 0 → finish x p1 n t codes poss =
      { status := .unvisited, tally := Tally.zero, opval := 0, codes := if x.flag then List.replicate x.nelem 0 else [], poss := [], scan := [] }) ∧
    (n ≠ 0 → finish x p1 n t codes poss = { status := if p1 then .reefedPrec else .ok, tally := t, opval := n, codes := codes, poss := poss, scan := [] }))) ∧
 ((∀ (q : Fmt) (n big x : Nat), nsFormat q = true → n ≤ 2 ^ 25 → big < 0x7F800000 → x < 2 ^ 32 → x % 2 ^ 31 ≤ big →
    let r := nsLevel x (nsScale big q (headroom q n)) q (headroom q n)
    r.2.sat = 0 ∧ r.1.natAbs * 2 ^ headroom q n ≤ q.maxval * 2 ^ levelScale q ∧ r.1.natAbs * n < 2 ^ 31 ∧ (x % 2 ^ 31 = 0 → r = (0, Tally.zero))) ∧
  (∀ (q : Fmt) (x h : Nat) (s : Option (Nat × Nat)), nsFormat q = true → x < 2 ^ 32 → 0x7F800000 ≤ x % 2 ^ 31 → nsLevel x s q h = (sentinel, Tally.oneNar)) ∧
  (∀ l : List (Nat × Int), l ≠ [] → (l.map (·.1)).Nodup → (∀ e ∈ l, e.1 < 2 ^ 25) →
    let tree := Comb.level.tree (l.map (fun e => (e.1, [Elem.int e.2 e.1])))
    (sentinel ∈ l.map (·.2) → ∃ p, tree = (some [.int sentinel p], Tally.zero)) ∧
    (sentinel ∉ l.map (·.2) → (l.map (fun e => e.2.natAbs)).sum < 2 ^ 31 → ∃ p, tree = (some [.int (l.map (·.2)).sum p], Tally.zero))) ∧
  (∀ (sum : Int) (q f : Fmt) (m : Rm) (sn sd : Nat), sum ≠ sentinel →
    nsResult sum none q f m = convFloat f m (.zero false) ∧ (sum = 0 → nsResult sum (some (sn, sd)) q f m = convFloat f m (.zero (m == .rdn))) ∧
    (sum ≠ 0 → nsResult sum (some (sn, sd)) q f m = convFloat f m (.fin (decide (sum < 0)) (sum.natAbs * sn) (sd * 2 ^ levelScale q)))) ∧
  (∀ flushes thr k : Nat, widenTest flushes thr k = true ↔ thr * k < 2 ^ 16 * flushes))

/-- `ExpertsAreSelectedByRank` (R183, R184, R111 to R113, R115): Side 0 of a token is the expert, not a NaN, that ranks before every other; with
k = 2 side 1 is the one that ranks before every other but side 0. A side is without a selection only where no candidate is left. `exp_k` at
zero, the infinities and its two thresholds; a merge of equal finite maxima adds the sums, −Inf gives way, a NaN takes the pair, and any
other merge scales both sums by `exp_k` of their distance to the greater maximum; a raw element is a pair of its own. -/
def Obligations.ExpertsAreSelectedByRank : Prop :=
 (∀ (xs : List Nat) (t : Nat) (rot : Bool),
    let cand : Nat → Prop := fun e => e < xs.length ∧ Fmt.f32.isNan (nth 0 xs e) = false
    let best : (Nat → Prop) → Option Nat → Prop := fun c o => match o with
      | some e => c e ∧ ∀ b, c b → b ≠ e → ranksBefore xs e b t xs.length rot = true
      | none => ∀ b, ¬c b
    (∃ o, selectExperts xs t 1 rot = [o] ∧ best cand o) ∧
    (∃ o p, selectExperts xs t 2 rot = [o, p] ∧ best cand o ∧ best (fun e => cand e ∧ o ≠ some e ∧ o ≠ none) p)) ∧
 ((expK 0 = (0x3F800000, Tally.zero) ∧ expK 0x80000000 = (0x3F800000, Tally.zero) ∧ expK 0x7F800000 = (0x7F800000, Tally.zero) ∧ expK 0xFF800000 = (0, Tally.zero) ∧
    (∀ x, 0x42B20000 ≤ x → x < 0x7F800000 → expK x = (0x7F800000, { Tally.zero with of := true, nx := true })) ∧
    (∀ x, 0xC2D00000 ≤ x → x < 0xFF800000 → expK x = (0, { Tally.zero with uf := true, nx := true }))) ∧
  (∀ m m' s s' : Nat, m < 2 ^ 32 → m' < 2 ^ 32 → s < 2 ^ 32 → s' < 2 ^ 32 →
    let nan := Fmt.f32.isNan
    (nan m = true → (lsemOp (m, s) (m', s')).1 = (Fmt.f32.quiet m, Fmt.f32.quiet m)) ∧ (nan m = false → nan m' = true → (lsemOp (m, s) (m', s')).1 = (Fmt.f32.quiet m', Fmt.f32.quiet m')) ∧
    (nan m = false → Fmt.f32.isInf m = false → nan s = false → nan s' = false → lsemOp (m, s) (m, s') = ((m, (add32 s s').1), (add32 s s').2)) ∧
    (nan m = false → m ≠ 0xFF800000 → s % 2 ^ 31 ≠ 0 → nan s = false → nan s' = false → Fmt.f32.isInf s' = false →
      (lsemOp (m, s) (0xFF800000, s')).1 = (m, s)) ∧
    (nan m = false → nan m' = false → let g := Fmt.f32.greater m m'
      Fmt.f32.isInf g = false → (lsemOp (m, s) (m', s')).1 = (g, (add32 (mul32 s (expK (add32 m (ieeeNeg .f32 g)).1).1).1
        (mul32 s' (expK (add32 m' (ieeeNeg .f32 g)).1).1).1).1))) ∧
  (∀ c, c < 2 ^ 32 → Fmt.f32.isNan c = false → (lsemElem true .f32 c).1 = .pair (BitVec.ofNat 32 c) (if c = 0xFF800000 then 0 else 0x3F800000)))

/-- `SlotsAreNotShared` (R187, R188, R190, R185, R186): The selections of one expert on a side take the slots from that side's base up, one each
and in row order, as many as the member has counted; a slot at or above the capacity is dropped, with no weight. `GATE_ONE` gives 1.0 to
each selection; else the weight is `exp_k` of the score's distance to the greatest over the sum, or an equal share among the experts at an
infinite greatest; no selection weighs nothing. A single selection under `GATE_SEL` weighs 1.0. A kept side weighs 1.0 when the other was
dropped under `DROP_RENORM`, unless its weight is zero; only valid sides are converted. -/
def Obligations.SlotsAreNotShared : Prop :=
 (∀ (base : Nat → Nat) (side : List (Option Nat)) (nexp e : Nat), e < nexp →
    (∀ r : Nat, side[r]? = some (some e) → ∃ k : Nat, (slotsOf base side)[r]? = some (some (base e + k)) ∧ k < (side.filter (fun x => x = some e)).length) ∧
    (∀ (r r' k : Nat), r < r' → side[r]? = some (some e) → side[r']? = some (some e) → (slotsOf base side)[r]? = some (some k) →
      ∃ k' : Nat, (slotsOf base side)[r']? = some (some k') ∧ k < k') ∧
    (∀ k : Nat, k < (side.filter (fun x => x = some e)).length → ∃ r : Nat, side[r]? = some (some e) ∧ (slotsOf base side)[r]? = some (some (base e + k))) ∧
    (countVector nexp [side])[e]? = some ((side.filter (fun x => x = some e)).length : Int) ∧
    (∀ (slot cap w : Nat), let y := sideOf (some e) (some slot) cap w
      (cap ≤ slot → y.valid = false ∧ y.drop = true ∧ y.slot = 0xFFFFFF ∧ y.w = 0) ∧
      (slot < cap → y = { exp := e, valid := true, drop := false, slot := slot, w := w }))) ∧
 ((∀ (xs : List Nat) (sel : List (Option Nat)) (mode : GateMode), (∀ e, some e ∈ sel → e < xs.length ∧ Fmt.f32.isNan (nth 0 xs e) = false) → (∀ x ∈ xs, x < 2 ^ 32) →
    let w : List Nat := (gateWeights xs sel mode).1
    let pool := (List.range xs.length).filter (fun e => match mode with | .all => !Fmt.f32.isNan (nth 0 xs e) | _ => sel.contains (some e))
    let p (m e : Nat) : Nat := (expK (add32 (nth 0 xs e) (ieeeNeg .f32 m)).1).1
    w.length = sel.length ∧ (∀ i : Nat, sel[i]? = some none → w[i]? = some 0) ∧ (mode = .one → ∀ (i e : Nat), sel[i]? = some (some e) → w[i]? = some 0x3F800000) ∧
    (mode = .sel → ∀ e, sel = [some e] → w = [0x3F800000]) ∧
    (mode ≠ .one → sel.Nodup → ∀ m ∈ pool.map (nth 0 xs), (∀ e ∈ pool, Fmt.f32.rank (nth 0 xs e) ≤ Fmt.f32.rank m) → ∀ (i e : Nat), sel[i]? = some (some e) →
      (Fmt.f32.isInf m = true → w[i]? = some (if nth 0 xs e = m then (reciprocal (pool.filter (fun e => nth 0 xs e == m)).length).1 else 0)) ∧
      (Fmt.f32.isInf m = false → w[i]? = some (ieeeDiv .f32 .rne (p m e) ((cfold add32 (pool.map (p m))).1.getD 0)).1))) ∧
  (∀ (on : Bool) (x y : Side), let r := renorm on x y
    (on = true → y.drop = true → x.valid = true → x.w ≠ 0 → x.w ≠ 0x80000000 → r = { x with w := 0x3F800000 }) ∧
    (on = false ∨ y.drop = false ∨ x.valid = false ∨ x.w = 0 → r = x) ∧
    (x.valid = false → x.stored = (0, Tally.zero)) ∧ (x.valid = true → x.stored = toShort .kf16 .rne (Fmt.f32.value x.w))))
end

