-- ==== Sys2Proof/Laws/Exec.lean ====
section
/-! SUPPORT. What `exec` is for each command: one equation per row of the table, by which a proof reaches the row's meaning without
unfolding the dispatch. -/

namespace Sys2Proof.Machine

open Sys2Proof

variable (s : State)

@[simp] theorem exec_sum (p) : exec (.sum p) s = execSum p s := rfl
@[simp] theorem exec_spsum (p) : exec (.spsum p) s = execSpsum p s := rfl
@[simp] theorem exec_nsum (p) : exec (.nsum p) s = execNsum p s := rfl
@[simp] theorem exec_max (p) : exec (.max p) s = execMax p s := rfl
@[simp] theorem exec_min (p) : exec (.min p) s = execMin p s := rfl
@[simp] theorem exec_maxnum (p) : exec (.maxnum p) s = execMaxnum p s := rfl
@[simp] theorem exec_minnum (p) : exec (.minnum p) s = execMinnum p s := rfl
@[simp] theorem exec_amax (p) : exec (.amax p) s = execAmax p s := rfl
@[simp] theorem exec_amin (p) : exec (.amin p) s = execAmin p s := rfl
@[simp] theorem exec_band (p) : exec (.band p) s = execBand p s := rfl
@[simp] theorem exec_bor (p) : exec (.bor p) s = execBor p s := rfl
@[simp] theorem exec_bxor (p) : exec (.bxor p) s = execBxor p s := rfl
@[simp] theorem exec_count (p) : exec (.count p) s = execCount p s := rfl
@[simp] theorem exec_scanx (p) : exec (.scanx p) s = execScanx p s := rfl
@[simp] theorem exec_scani (p) : exec (.scani p) s = execScani p s := rfl
@[simp] theorem exec_lsem (p) : exec (.lsem p) s = execLsem p s := rfl
@[simp] theorem exec_route (p) : exec (.route p) s = execRoute p s := rfl
@[simp] theorem exec_tagRelease (p) : exec (.tagRelease p) s = execTagRelease p s := rfl
@[simp] theorem exec_tagCancel (p) : exec (.tagCancel p) s = execTagCancel p s := rfl
@[simp] theorem exec_combine (p) : exec (.combine p) s = execCombine p s := rfl
@[simp] theorem exec_uncombine (p) : exec (.uncombine p) s = execUncombine p s := rfl
@[simp] theorem exec_gategrad (p) : exec (.gategrad p) s = execGategrad p s := rfl
@[simp] theorem exec_bcast (p) : exec (.bcast p) s = execBcast p s := rfl
@[simp] theorem exec_mcast (p) : exec (.mcast p) s = execMcast p s := rfl
@[simp] theorem exec_hrecv (p) : exec (.hrecv p) s = execHrecv p s := rfl
@[simp] theorem exec_hrecvWithdraw (p) : exec (.hrecvWithdraw p) s = execHrecvWithdraw p s := rfl
@[simp] theorem exec_descriptorReadPoisoned (p) : exec (.descriptorReadPoisoned p) s = execDescriptorReadPoisoned p s := rfl
@[simp] theorem exec_sig (p w) : exec (.sig p w) s = execSig p w s := rfl
@[simp] theorem exec_wait (p w) : exec (.wait p w) s = execWait p w s := rfl
@[simp] theorem exec_dec (p w) : exec (.dec p w) s = execDec p w s := rfl
@[simp] theorem exec_test (p w) : exec (.test p w) s = execTest p w s := rfl
@[simp] theorem exec_init (p w) : exec (.init p w) s = execInit p w s := rfl
@[simp] theorem exec_claim (p w) : exec (.claim p w) s = execClaim p w s := rfl
@[simp] theorem exec_release (p w) : exec (.release p w) s = execRelease p w s := rfl
@[simp] theorem exec_arrive (p w) : exec (.arrive p w) s = execArrive p w s := rfl
@[simp] theorem exec_bwait (p w) : exec (.bwait p w) s = execBwait p w s := rfl
@[simp] theorem exec_syncWordCycle (word from_) : exec (.syncWordCycle word from_) s = execSyncWordCycle word from_ s := rfl
@[simp] theorem exec_waitTimeout (word p) : exec (.waitTimeout word p) s = execWaitTimeout word p s := rfl
@[simp] theorem exec_barrierWaitTimeout (ch p) : exec (.barrierWaitTimeout ch p) s = execBarrierWaitTimeout ch p s := rfl
@[simp] theorem exec_releaseStep (ch) : exec (.releaseStep ch) s = execReleaseStep ch s := rfl
@[simp] theorem exec_fleetWaitExpiry (ch) : exec (.fleetWaitExpiry ch) s = execFleetWaitExpiry ch s := rfl
@[simp] theorem exec_sigMessage (l) : exec (.sigMessage l) s = execSigMessage l s := rfl
@[simp] theorem exec_sigAck (l) : exec (.sigAck l) s = execSigAck l s := rfl
@[simp] theorem exec_barArrive (l) : exec (.barArrive l) s = execBarArrive l s := rfl
@[simp] theorem exec_barRelease (l) : exec (.barRelease l) s = execBarRelease l s := rfl
@[simp] theorem exec_barOrphan (l) : exec (.barOrphan l) s = execBarOrphan l s := rfl
@[simp] theorem exec_barPrewarn (l) : exec (.barPrewarn l) s = execBarPrewarn l s := rfl
@[simp] theorem exec_endpointReset (p) : exec (.endpointReset p) s = execEndpointReset p s := rfl
@[simp] theorem exec_rebindDone (p) : exec (.rebindDone p) s = execRebindDone p s := rfl
@[simp] theorem exec_treeFlit (ctx epoch src) : exec (.treeFlit ctx epoch src) s = execTreeFlit ctx epoch src s := rfl
@[simp] theorem exec_collectiveTimeout (ctx epoch p) : exec (.collectiveTimeout ctx epoch p) s = execCollectiveTimeout ctx epoch p s := rfl
@[simp] theorem exec_timeoutMark (ctx epoch) : exec (.timeoutMark ctx epoch) s = execTimeoutMark ctx epoch s := rfl
@[simp] theorem exec_resultAtPort (ctx epoch p src) : exec (.resultAtPort ctx epoch p src) s = execResultAtPort ctx epoch p src s := rfl
@[simp] theorem exec_completionWrite (p) : exec (.completionWrite p) s = execCompletionWrite p s := rfl
@[simp] theorem exec_routeCountsResult (ctx epoch p src) : exec (.routeCountsResult ctx epoch p src) s = execRouteCountsResult ctx epoch p src s := rfl
@[simp] theorem exec_tagQuarantineExpiry (slot) : exec (.tagQuarantineExpiry slot) s = execTagQuarantineExpiry slot s := rfl
@[simp] theorem exec_noticePost (p hi) : exec (.noticePost p hi) s = execNoticePost p hi s := rfl
@[simp] theorem exec_noticeSend (p) : exec (.noticeSend p) s = execNoticeSend p s := rfl
@[simp] theorem exec_arrival (src) : exec (.arrival src) s = execArrival src s := rfl
@[simp] theorem exec_combineLaneBegin (id token) : exec (.combineLaneBegin id token) s = execCombineLaneBegin id token s := rfl
@[simp] theorem exec_rowWriteVisible (id token) : exec (.rowWriteVisible id token) s = execRowWriteVisible id token s := rfl
@[simp] theorem exec_combineLimitExpiry (id) : exec (.combineLimitExpiry id) s = execCombineLimitExpiry id s := rfl
@[simp] theorem exec_hoistCreditApply (p ch) : exec (.hoistCreditApply p ch) s = execHoistCreditApply p ch s := rfl
@[simp] theorem exec_hoistAtHoldingNode (p src) : exec (.hoistAtHoldingNode p src) s = execHoistAtHoldingNode p src s := rfl
@[simp] theorem exec_holdLimitExpiry (hold) : exec (.holdLimitExpiry hold) s = execHoldLimitExpiry hold s := rfl
@[simp] theorem exec_deliveryReport (id target src) : exec (.deliveryReport id target src) s = execDeliveryReport id target src s := rfl
@[simp] theorem exec_hoistReportLimitExpiry (id) : exec (.hoistReportLimitExpiry id) s = execHoistReportLimitExpiry id s := rfl
@[simp] theorem exec_hoistSegmentFreed (pool ch) : exec (.hoistSegmentFreed pool ch) s = execHoistSegmentFreed pool ch s := rfl
@[simp] theorem exec_registerWrite (p ofs v) : exec (.registerWrite p ofs v) s = execRegisterWrite p ofs v s := rfl
@[simp] theorem exec_epSqCfg (p v) : exec (.epSqCfg p v) s = execEpSqCfg p v s := rfl
@[simp] theorem exec_epCqCfg (p v) : exec (.epCqCfg p v) s = execEpCqCfg p v s := rfl
@[simp] theorem exec_submissionDoorbell (p v) : exec (.submissionDoorbell p v) s = execSubmissionDoorbell p v s := rfl
@[simp] theorem exec_completionDoorbell (p v) : exec (.completionDoorbell p v) s = execCompletionDoorbell p v s := rfl
@[simp] theorem exec_epTtPop (p v) : exec (.epTtPop p v) s = execEpTtPop p v s := rfl
@[simp] theorem exec_epNqStat (p v) : exec (.epNqStat p v) s = execEpNqStat p v s := rfl
@[simp] theorem exec_hostWindowWrite (ofs n v) : exec (.hostWindowWrite ofs n v) s = execHostWindowWrite ofs n v s := rfl
@[simp] theorem exec_hwDoorbell (v) : exec (.hwDoorbell v) s = execHwDoorbell v s := rfl
@[simp] theorem exec_hwRspHead (v) : exec (.hwRspHead v) s = execHwRspHead v s := rfl
@[simp] theorem exec_hwIrqMask (v) : exec (.hwIrqMask v) s = execHwIrqMask v s := rfl
@[simp] theorem exec_ttInspectSel (v) : exec (.ttInspectSel v) s = execTtInspectSel v s := rfl
@[simp] theorem exec_hello (n) : exec (.hello n) s = execHello n s := rfl
@[simp] theorem exec_debugChallenge (n nonce) : exec (.debugChallenge n nonce) s = execDebugChallenge n nonce s := rfl
@[simp] theorem exec_debugResponse (n verified) : exec (.debugResponse n verified) s = execDebugResponse n verified s := rfl
@[simp] theorem exec_debugLock (n) : exec (.debugLock n) s = execDebugLock n s := rfl
@[simp] theorem exec_topoSet (n) : exec (.topoSet n) s = execTopoSet n s := rfl
@[simp] theorem exec_topoSetComplete : exec .topoSetComplete s = execTopoSetComplete s := rfl
@[simp] theorem exec_topoRead (n) : exec (.topoRead n) s = execTopoRead n s := rfl
@[simp] theorem exec_groupDefine (n) : exec (.groupDefine n) s = execGroupDefine n s := rfl
@[simp] theorem exec_groupDelete (n) : exec (.groupDelete n) s = execGroupDelete n s := rfl
@[simp] theorem exec_contextBind (n) : exec (.contextBind n) s = execContextBind n s := rfl
@[simp] theorem exec_contextRearm (n) : exec (.contextRearm n) s = execContextRearm n s := rfl
@[simp] theorem exec_contextUnbind (n) : exec (.contextUnbind n) s = execContextUnbind n s := rfl
@[simp] theorem exec_partnerSet (n) : exec (.partnerSet n) s = execPartnerSet n s := rfl
@[simp] theorem exec_policySet (n) : exec (.policySet n) s = execPolicySet n s := rfl
@[simp] theorem exec_reefAllow (n) : exec (.reefAllow n) s = execReefAllow n s := rfl
@[simp] theorem exec_cinch (n) : exec (.cinch n) s = execCinch n s := rfl
@[simp] theorem exec_cinchAgreeResult (a) : exec (.cinchAgreeResult a) s = execCinchAgreeResult a s := rfl
@[simp] theorem exec_cinchDrained : exec .cinchDrained s = execCinchDrained s := rfl
@[simp] theorem exec_cinchQuietRound (reason sent1 recv1 sent4 recv4) : exec (.cinchQuietRound reason sent1 recv1 sent4 recv4) s = execCinchQuietRound reason sent1 recv1 sent4 recv4 s := rfl
@[simp] theorem exec_cinchCaptureDone (ok) : exec (.cinchCaptureDone ok) s = execCinchCaptureDone ok s := rfl
@[simp] theorem exec_cinchCommitResult (reason) : exec (.cinchCommitResult reason) s = execCinchCommitResult reason s := rfl
@[simp] theorem exec_cinchFlashCopyDone (ok) : exec (.cinchFlashCopyDone ok) s = execCinchFlashCopyDone ok s := rfl
@[simp] theorem exec_cinchPhaseTimeout : exec .cinchPhaseTimeout s = execCinchPhaseTimeout s := rfl
@[simp] theorem exec_restore (n) : exec (.restore n) s = execRestore n s := rfl
@[simp] theorem exec_testNode (n) : exec (.testNode n) s = execTestNode n s := rfl
@[simp] theorem exec_testComplete (u pass signature) : exec (.testComplete u pass signature) s = execTestComplete u pass signature s := rfl
@[simp] theorem exec_calPortAdapt (n) : exec (.calPortAdapt n) s = execCalPortAdapt n s := rfl
@[simp] theorem exec_calPortRecalibrate (n) : exec (.calPortRecalibrate n) s = execCalPortRecalibrate n s := rfl
@[simp] theorem exec_calPortSetPhy (n) : exec (.calPortSetPhy n) s = execCalPortSetPhy n s := rfl
@[simp] theorem exec_calPortSetTaps (n) : exec (.calPortSetTaps n) s = execCalPortSetTaps n s := rfl
@[simp] theorem exec_spareMapRead (n) : exec (.spareMapRead n) s = execSpareMapRead n s := rfl
@[simp] theorem exec_countersRead (n) : exec (.countersRead n) s = execCountersRead n s := rfl
@[simp] theorem exec_syncInspect (n) : exec (.syncInspect n) s = execSyncInspect n s := rfl
@[simp] theorem exec_ledgerInspect (n) : exec (.ledgerInspect n) s = execLedgerInspect n s := rfl
@[simp] theorem exec_dumpFetch (n) : exec (.dumpFetch n) s = execDumpFetch n s := rfl
@[simp] theorem exec_fwUpdateLoad (n) : exec (.fwUpdateLoad n) s = execFwUpdateLoad n s := rfl
@[simp] theorem exec_fwUpdateActivate (n) : exec (.fwUpdateActivate n) s = execFwUpdateActivate n s := rfl
@[simp] theorem exec_fwUpdateCommit (n) : exec (.fwUpdateCommit n) s = execFwUpdateCommit n s := rfl
@[simp] theorem exec_letFly (n) : exec (.letFly n) s = execLetFly n s := rfl
@[simp] theorem exec_powerStateActive (n) : exec (.powerStateActive n) s = execPowerStateActive n s := rfl
@[simp] theorem exec_powerStateDoze (n) : exec (.powerStateDoze n) s = execPowerStateDoze n s := rfl
@[simp] theorem exec_powerStateRetain (n) : exec (.powerStateRetain n) s = execPowerStateRetain n s := rfl
@[simp] theorem exec_powerStateOff (n) : exec (.powerStateOff n) s = execPowerStateOff n s := rfl
@[simp] theorem exec_wakeEvent (w) : exec (.wakeEvent w) s = execWakeEvent w s := rfl
@[simp] theorem exec_railAck : exec .railAck s = execRailAck s := rfl
@[simp] theorem exec_frameSlot (l) : exec (.frameSlot l) s = execFrameSlot l s := rfl
@[simp] theorem exec_idle (l f fec) : exec (.idle l f fec) s = execIdle l f fec s := rfl
@[simp] theorem exec_data (l f fec) : exec (.data l f fec) s = execData l f fec s := rfl
@[simp] theorem exec_nak (l f fec) : exec (.nak l f fec) s = execNak l f fec s := rfl
@[simp] theorem exec_gcmtag (l f fec) : exec (.gcmtag l f fec) s = execGcmtag l f fec s := rfl
@[simp] theorem exec_lcInit (l f fec) : exec (.lcInit l f fec) s = execLcInit l f fec s := rfl
@[simp] theorem exec_lcInitAck (l f fec) : exec (.lcInitAck l f fec) s = execLcInitAck l f fec s := rfl
@[simp] theorem exec_lcReef (l f fec) : exec (.lcReef l f fec) s = execLcReef l f fec s := rfl
@[simp] theorem exec_lcReefAck (l f fec) : exec (.lcReefAck l f fec) s = execLcReefAck l f fec s := rfl
@[simp] theorem exec_superBlockLock (l) : exec (.superBlockLock l) s = execSuperBlockLock l s := rfl
@[simp] theorem exec_nakRepeatTimer (l) : exec (.nakRepeatTimer l) s = execNakRepeatTimer l s := rfl
@[simp] theorem exec_replayTimeout (l) : exec (.replayTimeout l) s = execReplayTimeout l s := rfl
@[simp] theorem exec_lockLossTimeout (l) : exec (.lockLossTimeout l) s = execLockLossTimeout l s := rfl
@[simp] theorem exec_laneFailure (l lane) : exec (.laneFailure l lane) s = execLaneFailure l lane s := rfl
@[simp] theorem exec_keyLoad (l rx slot key salt) : exec (.keyLoad l rx slot key salt) s = execKeyLoad l rx slot key salt s := rfl
@[simp] theorem exec_letFlyMessage (l) : exec (.letFlyMessage l) s = execLetFlyMessage l s := rfl
@[simp] theorem exec_heartbeat (l) : exec (.heartbeat l) s = execHeartbeat l s := rfl
@[simp] theorem exec_heartbeatSend : exec .heartbeatSend s = execHeartbeatSend s := rfl
@[simp] theorem exec_heartbeatMissing (primary) : exec (.heartbeatMissing primary) s = execHeartbeatMissing primary s := rfl
@[simp] theorem exec_takeover (l) : exec (.takeover l) s = execTakeover l s := rfl
@[simp] theorem exec_faultReport (l) : exec (.faultReport l) s = execFaultReport l s := rfl
@[simp] theorem exec_feedQuery (l) : exec (.feedQuery l) s = execFeedQuery l s := rfl
@[simp] theorem exec_feedReply (l) : exec (.feedReply l) s = execFeedReply l s := rfl
@[simp] theorem exec_wordReadRelay (l) : exec (.wordReadRelay l) s = execWordReadRelay l s := rfl
@[simp] theorem exec_wordReadReply (l) : exec (.wordReadReply l) s = execWordReadReply l s := rfl
@[simp] theorem exec_relayTimeout : exec .relayTimeout s = execRelayTimeout s := rfl
@[simp] theorem exec_residueError (u plane aluLane) : exec (.residueError u plane aluLane) s = execResidueError u plane aluLane s := rfl
@[simp] theorem exec_flitCrcError (e n) : exec (.flitCrcError e n) s = execFlitCrcError e n s := rfl
@[simp] theorem exec_secdedError (w uncorrectable n) : exec (.secdedError w uncorrectable n) s = execSecdedError w uncorrectable n s := rfl
@[simp] theorem exec_wireParityError (n) : exec (.wireParityError n) s = execWireParityError n s := rfl
@[simp] theorem exec_lockstepMismatch : exec .lockstepMismatch s = execLockstepMismatch s := rfl
@[simp] theorem exec_rootPairMismatch (u colls) : exec (.rootPairMismatch u colls) s = execRootPairMismatch u colls s := rfl
@[simp] theorem exec_shadowMismatch (spare) : exec (.shadowMismatch spare) s = execShadowMismatch spare s := rfl
@[simp] theorem exec_poisonedRead (r) : exec (.poisonedRead r) s = execPoisonedRead r s := rfl
@[simp] theorem exec_endpointCoreFailed (p spareCore) : exec (.endpointCoreFailed p spareCore) s = execEndpointCoreFailed p spareCore s := rfl
@[simp] theorem exec_rootPllUnlock : exec .rootPllUnlock s = execRootPllUnlock s := rfl
@[simp] theorem exec_chipLost (chip) : exec (.chipLost chip) s = execChipLost chip s := rfl
@[simp] theorem exec_fillComplete (spare) : exec (.fillComplete spare) s = execFillComplete spare s := rfl
@[simp] theorem exec_shadowRotation (spare) : exec (.shadowRotation spare) s = execShadowRotation spare s := rfl
@[simp] theorem exec_backgroundUnitTest (u) : exec (.backgroundUnitTest u) s = execBackgroundUnitTest u s := rfl
@[simp] theorem exec_portRecalibration (l) : exec (.portRecalibration l) s = execPortRecalibration l s := rfl
@[simp] theorem exec_bankCopyDone (spare bad) : exec (.bankCopyDone spare bad) s = execBankCopyDone spare bad s := rfl
@[simp] theorem exec_coldReset (powerOn) : exec (.coldReset powerOn) s = execColdReset powerOn s := rfl
@[simp] theorem exec_warmReset : exec .warmReset s = execWarmReset s := rfl
@[simp] theorem exec_blockReset : exec .blockReset s = execBlockReset s := rfl
@[simp] theorem exec_nodeReset (u) : exec (.nodeReset u) s = execNodeReset u s := rfl
@[simp] theorem exec_mbistDone (failed) : exec (.mbistDone failed) s = execMbistDone failed s := rfl
@[simp] theorem exec_imageVerified (ok) : exec (.imageVerified ok) s = execImageVerified ok s := rfl
@[simp] theorem exec_mhReady (r) : exec (.mhReady r) s = execMhReady r s := rfl
@[simp] theorem exec_trialBootTimeout : exec .trialBootTimeout s = execTrialBootTimeout s := rfl
@[simp] theorem exec_rowReadReturn (id token) : exec (.rowReadReturn id token) s = execRowReadReturn id token s := rfl
@[simp] theorem exec_hoistDeliveryVisible (delivery) : exec (.hoistDeliveryVisible delivery) s = execHoistDeliveryVisible delivery s := rfl
@[simp] theorem exec_calibrationDone (l) : exec (.calibrationDone l) s = execCalibrationDone l s := rfl
@[simp] theorem exec_fwImageLoaded (v) : exec (.fwImageLoaded v) s = execFwImageLoaded v s := rfl
@[simp] theorem exec_alignmentLockLoss (l) : exec (.alignmentLockLoss l) s = execAlignmentLockLoss l s := rfl
@[simp] theorem exec_linkUpTimeout (l) : exec (.linkUpTimeout l) s = execLinkUpTimeout l s := rfl
@[simp] theorem exec_tapInstrumentAccess (x) : exec (.tapInstrumentAccess x) s = execTapInstrumentAccess x s := rfl

end Sys2Proof.Machine
end

