-- ==== Sys2Proof/Laws/Memory.lean ====
section
/-! SUPPORT. The laws of sparse tables and of chip memory: a read after a write, and the canonical form. -/

namespace Sys2Proof.Machine

open Sys2Proof

variable {α : Type} [DecidableEq α] {d : Nat → α}

/-- Raising the lower bound of a table keeps its form. -/
theorem Tbl.wfFrom_mono {m : Tbl α} {a b : Nat} (h : Tbl.wfFrom d (some b) m = true) (hab : a ≤ b) :
    Tbl.wfFrom d (some a) m = true := by
  cases m with
  | nil => rfl
  | cons e r =>
    simp only [Tbl.wfFrom, Bool.and_eq_true, decide_eq_true_eq] at h ⊢
    exact ⟨⟨by omega, h.1.2⟩, h.2⟩

/-- A table keeps its form when an entry above the lower bound is set. -/
theorem Tbl.set_wfFrom {m : Tbl α} {lo k : Nat} (v : α) (h : Tbl.wfFrom d (some lo) m = true) (hk : lo < k) :
    Tbl.wfFrom d (some lo) (Tbl.set d m k v) = true := by
  induction m generalizing lo with
  | nil => by_cases hv : v = d k <;> simp [Tbl.set, Tbl.wfFrom, hv, hk]
  | cons e r ih =>
    obtain ⟨j, w⟩ := e
    simp only [Tbl.wfFrom, Bool.and_eq_true, decide_eq_true_eq] at h
    rcases Nat.lt_trichotomy j k with hj | hj | hj
    · simp [Tbl.set, hj, Tbl.wfFrom, h.1.1, h.1.2, ih h.2 hj]
    · subst hj
      by_cases hv : v = d j
      · simp [Tbl.set, hv, Tbl.wfFrom_mono h.2 (Nat.le_of_lt h.1.1)]
      · simp [Tbl.set, hv, Tbl.wfFrom, hk, h.2]
    · have hne : ¬j < k := by omega
      have hne' : j ≠ k := by omega
      by_cases hv : v = d k
      · simp [Tbl.set, hne, hne', hv, Tbl.wfFrom, h.1.1, h.1.2, h.2]
      · simp [Tbl.set, hne, hne', hv, Tbl.wfFrom, hk, hj, h.1.2, h.2]

/-- Setting an entry keeps the canonical form. -/
theorem Tbl.set_wf {m : Tbl α} (k : Nat) (v : α) (h : Tbl.wf d m = true) : Tbl.wf d (Tbl.set d m k v) = true := by
  cases m with
  | nil => by_cases hv : v = d k <;> simp [Tbl.wf, Tbl.set, Tbl.wfFrom, hv]
  | cons e r =>
    obtain ⟨j, w⟩ := e
    simp only [Tbl.wf, Tbl.wfFrom, Bool.and_eq_true, decide_eq_true_eq, Bool.true_and] at h
    rcases Nat.lt_trichotomy j k with hj | hj | hj
    · simp [Tbl.wf, Tbl.set, hj, Tbl.wfFrom, h.1, Tbl.set_wfFrom v h.2 hj]
    · subst hj
      by_cases hv : v = d j
      · simp only [Tbl.wf, Tbl.set, hv, Nat.lt_irrefl, if_true, if_false]
        cases r with
        | nil => rfl
        | cons e' r' =>
          have h2 := h.2
          simp only [Tbl.wfFrom, Bool.and_eq_true, decide_eq_true_eq, Bool.true_and] at h2 ⊢
          exact ⟨h2.1.2, h2.2⟩
      · simp [Tbl.wf, Tbl.set, hv, Tbl.wfFrom, h.2]
    · have hne : ¬j < k := by omega
      have hne' : j ≠ k := by omega
      by_cases hv : v = d k
      · simp [Tbl.wf, Tbl.set, hne, hne', hv, Tbl.wfFrom, h.1, h.2]
      · simp [Tbl.wf, Tbl.set, hne, hne', hv, Tbl.wfFrom, hj, h.1, h.2]

/-- A key below every listed one reads as unlisted. -/
theorem Tbl.get_of_wfFrom {m : Tbl α} {lo k : Nat} (h : Tbl.wfFrom d (some lo) m = true) (hk : k ≤ lo) : Tbl.get d m k = d k := by
  induction m generalizing lo with
  | nil => rfl
  | cons e r ih =>
    simp only [Tbl.wfFrom, Bool.and_eq_true, decide_eq_true_eq] at h
    have : e.1 ≠ k := by omega
    simp [Tbl.get, this, ih h.2 (by omega : k ≤ e.1)]

/-- A read of the entry that was set gives its value. -/
theorem Tbl.get_set_same {m : Tbl α} (k : Nat) (v : α) (h : Tbl.wf d m = true) : Tbl.get d (Tbl.set d m k v) k = v := by
  suffices H : ∀ lo, Tbl.wfFrom d lo m = true → Tbl.get d (Tbl.set d m k v) k = v from H none h
  clear h
  induction m with
  | nil => intro lo _; by_cases hv : v = d k <;> simp [Tbl.set, Tbl.get, hv]
  | cons e r ih =>
    intro lo h
    obtain ⟨j, w⟩ := e
    have hr : Tbl.wfFrom d (some j) r = true := by
      simp only [Tbl.wfFrom, Bool.and_eq_true] at h
      exact h.2
    rcases Nat.lt_trichotomy j k with hj | hj | hj
    · have : j ≠ k := by omega
      simp [Tbl.set, hj, Tbl.get, this, ih _ hr]
    · subst hj
      by_cases hv : v = d j
      · simp [Tbl.set, hv, Tbl.get_of_wfFrom hr (Nat.le_refl j)]
      · simp [Tbl.set, hv, Tbl.get]
    · have hne : ¬j < k := by omega
      have hne' : j ≠ k := by omega
      by_cases hv : v = d k
      · simp [Tbl.set, hne, hne', hv, Tbl.get, Tbl.get_of_wfFrom hr (Nat.le_of_lt hj)]
      · simp [Tbl.set, hne, hne', hv, Tbl.get]

/-- A read of any other entry is as before. -/
theorem Tbl.get_set_other {m : Tbl α} {k j : Nat} (v : α) (h : j ≠ k) : Tbl.get d (Tbl.set d m k v) j = Tbl.get d m j := by
  induction m with
  | nil => by_cases hv : v = d k <;> simp [Tbl.set, Tbl.get, hv, Ne.symm h]
  | cons e r ih =>
    obtain ⟨i, w⟩ := e
    by_cases h1 : i < k
    · simp [Tbl.set, h1, Tbl.get, ih]
    · by_cases h3 : i = k
      · subst h3
        by_cases hv : v = d i <;> simp [Tbl.set, hv, Tbl.get, Ne.symm h]
      · by_cases hv : v = d k <;> simp [Tbl.set, h1, h3, hv, Tbl.get, Ne.symm h]

/-! ## Chip memory -/

theorem Memory.write_wf {m : List Host.Cell} (a : Nat) (b : Byte) (h : Memory.wf m = true) : Memory.wf (Memory.write m a b) = true :=
  Tbl.set_wf a b h

/-- Every store of bytes keeps the canonical form. -/
theorem Memory.writeN_wf {m : List Host.Cell} (a : Nat) (l : List Byte) (h : Memory.wf m = true) :
    Memory.wf (Memory.writeN m a l) = true := by
  induction l generalizing m a with
  | nil => exact h
  | cons b r ih => exact ih (a + 1) (Memory.write_wf a b h)

theorem Memory.read_write_same {m : List Host.Cell} (a : Nat) (b : Byte) (h : Memory.wf m = true) :
    Memory.read (Memory.write m a b) a = b := Tbl.get_set_same a b h

theorem Memory.read_write_other {m : List Host.Cell} {a c : Nat} (b : Byte) (h : c ≠ a) :
    Memory.read (Memory.write m a b) c = Memory.read m c := Tbl.get_set_other b h

/-- A byte outside the stored ones reads as before. -/
theorem Memory.read_writeN_outside {m : List Host.Cell} {a c : Nat} {l : List Byte} (h : c < a ∨ a + l.length ≤ c) :
    Memory.read (Memory.writeN m a l) c = Memory.read m c := by
  induction l generalizing m a with
  | nil => rfl
  | cons b r ih =>
    simp only [List.length_cons] at h
    rw [Memory.writeN, ih (by omega), Memory.read_write_other b (by omega)]

/-- Byte `i` of the stored ones reads as stored. -/
theorem Memory.read_writeN_inside {m : List Host.Cell} {a i : Nat} {l : List Byte} (h : Memory.wf m = true) (hi : i < l.length) :
    Memory.read (Memory.writeN m a l) (a + i) = l[i] := by
  induction l generalizing m a i with
  | nil => simp at hi
  | cons b r ih =>
    cases i with
    | zero =>
      rw [Memory.writeN, Memory.read_writeN_outside (by omega)]
      exact Memory.read_write_same a b h
    | succ n =>
      have := ih (a := a + 1) (i := n) (Memory.write_wf a b h) (by simpa using hi)
      rw [Memory.writeN, show a + (n + 1) = a + 1 + n by omega, this]
      rfl

/-- The bytes read where bytes were stored are the stored ones. -/
theorem Memory.readN_writeN {m : List Host.Cell} (a : Nat) (l : List Byte) (h : Memory.wf m = true) :
    Memory.readN (Memory.writeN m a l) a l.length = l := by
  apply List.ext_getElem
  · simp [Memory.readN]
  · intro i h1 h2
    simp only [Memory.readN, List.getElem_map, List.getElem_range]
    exact Memory.read_writeN_inside h h2

end Sys2Proof.Machine
end

