-- ==== Sys2Proof/Laws/Kept.lean ====
section
/-! SUPPORT. What no step changes: the queue, and the soundness of the state. `State.Kept q s` says both of a state, and one lemma per
operation carries it over, in the order of the definitions; here the operations on sync words, channels, responses and the ledger. -/

namespace Sys2Proof.Machine

open Sys2Proof

/-- An entry of a table in which one is set is that one or an old one. -/
theorem Tbl.set_keys {α : Type} [DecidableEq α] {d : Nat → α} {m : Tbl α} {k : Nat} {v : α} {e : Nat × α} (h : e ∈ Tbl.set d m k v) :
    e = (k, v) ∨ e ∈ m := by
  induction m with
  | nil => by_cases hv : v = d k <;> simp_all [Tbl.set]
  | cons x r ih =>
    obtain ⟨j, w⟩ := x
    simp only [Tbl.set] at h
    split at h
    · simp only [List.mem_cons] at h ⊢
      rcases h with h | h 
      · simp [h]
      · rcases ih h with h | h <;> simp [h]
    · split at h
      · split at h
        · simp [h]
        · simp only [List.mem_cons] at h ⊢
          tauto
      · split at h <;> simp_all

/-- Setting an entry keeps the keys rising. -/
theorem Tbl.set_rising {α : Type} [DecidableEq α] {d : Nat → α} {m : Tbl α} (k : Nat) (v : α) (h : Tbl.Rising m) : Tbl.Rising (Tbl.set d m k v) := by
  induction m with
  | nil => by_cases hv : v = d k <;> simp [Tbl.Rising, Tbl.set, hv]
  | cons x r ih =>
    obtain ⟨j, w⟩ := x
    simp only [Tbl.Rising, List.map_cons, List.pairwise_cons, List.mem_map, forall_exists_index, and_imp, forall_apply_eq_imp_iff₂] at h ih ⊢
    simp only [Tbl.set]
    split
    · next hj =>
      simp only [List.map_cons, List.pairwise_cons, List.mem_map, forall_exists_index, and_imp, forall_apply_eq_imp_iff₂]
      refine ⟨fun e he => ?_, ih h.2⟩
      rcases Tbl.set_keys he with rfl | he
      · exact hj
      · exact h.1 e he
    · split
      · next hj =>
        subst hj
        split
        · exact h.2
        · simpa using h
      · split
        · simpa using h
        · simp only [List.map_cons, List.pairwise_cons, List.mem_cons, List.mem_map, forall_eq_or_imp, forall_exists_index, and_imp, forall_apply_eq_imp_iff₂]
          exact ⟨⟨by omega, fun e he => by have := h.1 e he; omega⟩, h⟩

/-- A key below every listed one reads as unlisted. -/
theorem Tbl.get_above {α : Type} {d : Nat → α} {m : Tbl α} {k : Nat} (h : ∀ e ∈ m, k < e.1) : Tbl.get d m k = d k := by
  induction m with
  | nil => rfl
  | cons x r ih =>
    have := h x (by simp)
    have hne : x.1 ≠ k := by omega
    simp [Tbl.get, hne, ih (fun e he => h e (by simp [he]))]

/-- A read of the entry that was set gives its value. -/
theorem Tbl.get_set_rising {α : Type} [DecidableEq α] {d : Nat → α} {m : Tbl α} (k : Nat) (v : α) (h : Tbl.Rising m) :
    Tbl.get d (Tbl.set d m k v) k = v := by
  induction m with
  | nil => by_cases hv : v = d k <;> simp [Tbl.set, Tbl.get, hv]
  | cons x r ih =>
    obtain ⟨j, w⟩ := x
    simp only [Tbl.Rising, List.map_cons, List.pairwise_cons, List.mem_map, forall_exists_index, and_imp, forall_apply_eq_imp_iff₂] at h ih
    rcases Nat.lt_trichotomy j k with hj | hj | hj
    · have : j ≠ k := by omega
      simp [Tbl.set, hj, Tbl.get, this, ih h.2]
    · subst hj
      by_cases hv : v = d j
      · simp [Tbl.set, hv, Tbl.get_above h.1]
      · simp [Tbl.set, hv, Tbl.get]
    · have hne : ¬j < k := by omega
      have hne' : j ≠ k := by omega
      by_cases hv : v = d k
      · simp [Tbl.set, hne, hne', hv, Tbl.get, Tbl.get_above (fun e he => Nat.lt_trans hj (h.1 e he))]
      · simp [Tbl.set, hne, hne', hv, Tbl.get]

/-- Storing bytes keeps the keys rising. -/
theorem putBytes_rising {t : Tbl Byte} (a : Nat) (l : List Byte) (h : Tbl.Rising t) : Tbl.Rising (putBytes t a l) := by
  induction l generalizing t a with
  | nil => exact h
  | cons b r ih => exact ih _ (Tbl.set_rising _ _ h)

/-- So does any sequence of changes that each do. -/
theorem Tbl.foldl_rising {α β : Type} {f : Tbl α → β → Tbl α} (hf : ∀ t x, Tbl.Rising t → Tbl.Rising (f t x)) {l : List β} {m : Tbl α}
    (h : Tbl.Rising m) : Tbl.Rising (l.foldl f m) := by
  induction l generalizing m with
  | nil => exact h
  | cons x r ih => exact ih (hf m x h)

/-- So does leaving entries out. -/
theorem Tbl.filter_rising {α : Type} {m : Tbl α} (p : Nat × α → Bool) (h : Tbl.Rising m) : Tbl.Rising (m.filter p) :=
  (h.sublist ((List.filter_sublist).map _))
/-- The queue is `q`, and the parts of a sound state are sound. -/
structure KeptParts (q p : List Instr) (mem remote : List Host.Cell) (ports : Tbl Port) (chans : Tbl Channel) (tags : Tbl TagSlot)
    (links : Tbl Link) (words : Tbl SyncWord) (shadows : Tbl Shadow) (die : Tbl (BitVec 160)) (ring : Tbl Byte)
    (head tail errs drifts : Nat) (vals counters : Tbl Nat) : Prop where
  queue : p = q
  sound : SoundParts mem remote ports chans tags links words shadows die ring head tail errs drifts vals counters

/-- A sound state whose queue is `q`. It is stated of the parts, so that a change of any other field keeps it by definition. -/
abbrev State.Kept (q : List Instr) (s : State) : Prop :=
  KeptParts q s.pending s.mem s.remote s.ports s.tt.chans s.led.tags s.link.links s.tt.words s.shadow.shadows s.led.die
    s.win.ring s.win.rspHead s.win.rspTail
    s.shadow.errLog.length s.shadow.driftLog.length s.pol.vals s.counters

variable {q : List Instr} {s : State}

theorem kept_ite {c : Prop} [Decidable c] {a b : State} (ha : c → a.Kept q) (hb : ¬c → b.Kept q) :
    (if c then a else b).Kept q := by
  split
  · exact ha ‹_›
  · exact hb ‹_›

/-- An operation applied for every entry of a list. -/
theorem kept_forEach {α : Type} {l : List α} {f : α → State → State} (hf : ∀ x t, State.Kept q t → (f x t).Kept q)
    (h : s.Kept q) : (forEach l f s).Kept q := by
  unfold forEach
  induction l generalizing s with
  | nil => exact h
  | cons x r ih => exact ih (hf x s h)

/-- A next state is kept. -/
def KeptOut (q : List Instr) : Host.Outcome State Fault Refusal → Prop
  | .next t => t.Kept q
  | _ => True

theorem kept_ok (h : s.Kept q) : KeptOut q (ok s) := h
theorem kept_next (h : s.Kept q) : KeptOut q (.next s) := h
theorem kept_fault {f : Fault} : KeptOut q (.fault f) := trivial

theorem kept_oite {c : Prop} [Decidable c] {a b : Host.Outcome State Fault Refusal} (ha : c → KeptOut q a)
    (hb : ¬c → KeptOut q b) : KeptOut q (if c then a else b) := by
  split
  · exact ha ‹_›
  · exact hb ‹_›

theorem kept_store (a b) (h : s.Kept q) : (store s a b).Kept q :=
  ⟨h.queue, { h.sound with mem_wf := Memory.writeN_wf _ _ h.sound.mem_wf }⟩

theorem kept_storeFree (a b) (h : s.Kept q) : (storeFree s a b).Kept q :=
  ⟨h.queue, { h.sound with mem_wf := Memory.writeN_wf _ _ h.sound.mem_wf }⟩

theorem kept_within (a) (h : s.Kept q) : KeptOut q (within a s) := by
  unfold within
  repeat' with_reducible first
    | assumption | apply kept_next | apply kept_fault | apply kept_ite | apply kept_oite | split | extract_lets | intro _

theorem kept_setPort (a b) (h : s.Kept q) : (s.setPort a b).Kept q :=
  ⟨h.queue, { h.sound with ports_wf := Tbl.set_wf _ _ h.sound.ports_wf }⟩

theorem kept_modPort (a b) (h : s.Kept q) : (State.modPort s a b).Kept q := by
  unfold State.modPort
  repeat' with_reducible first | assumption | apply kept_setPort

/-- A counter set to a value of 32 bits. -/
theorem counters_le_set {t : Tbl Nat} (k v : Nat) (hv : v ≤ 0xFFFFFFFF) (hw : Tbl.wf counterDefault t = true)
    (h : ∀ i, Tbl.get counterDefault t i ≤ 0xFFFFFFFF) (i : Nat) : Tbl.get counterDefault (Tbl.set counterDefault t k v) i ≤ 0xFFFFFFFF := by
  by_cases hi : i = k
  · subst hi
    rw [Tbl.get_set_same i v hw]
    exact hv
  · rw [Tbl.get_set_other v hi]
    exact h i

theorem kept_bump (a b) (h : s.Kept q) : (s.bump a b).Kept q :=
  ⟨h.queue, { h.sound with
    counters_wf := Tbl.set_wf _ _ h.sound.counters_wf
    counters_le := counters_le_set _ _ (Nat.min_le_right _ _) h.sound.counters_wf h.sound.counters_le }⟩

theorem kept_raiseIrq (a) (h : s.Kept q) : (State.raiseIrq s a).Kept q := h

theorem kept_writeRecord (a b c d e f) (h : s.Kept q) : (s.writeRecord a b c d e f).Kept q := by
  unfold State.writeRecord
  extract_lets w head entry
  clear_value entry
  have hr : Tbl.Rising (putBytes w.ring (256 * w.rspTail) entry) := putBytes_rising _ _ h.sound.ring_up
  have ht : (w.rspTail + 1) % 32 < 32 := Nat.mod_lt _ (by decide)
  exact ⟨h.queue, { h.sound with tail_lt := ht, ring_up := hr }⟩

theorem kept_respond (a b c d e f) (h : s.Kept q) : (State.respond s a b c d e f).Kept q := by
  unfold State.respond
  repeat' with_reducible first | assumption | apply kept_raiseIrq | apply kept_writeRecord

theorem kept_event (a b) (h : s.Kept q) : (State.event s a b).Kept q := by
  unfold State.event
  repeat' with_reducible first
    | assumption | apply kept_raiseIrq | apply kept_writeRecord | apply kept_ite | split | extract_lets | intro _

theorem kept_setLnk (a b) (h : s.Kept q) : (s.setLnk a b).Kept q :=
  ⟨h.queue, { h.sound with links_wf := Tbl.set_wf _ _ h.sound.links_wf }⟩

theorem kept_modLnk (a b) (h : s.Kept q) : (State.modLnk s a b).Kept q := by
  unfold State.modLnk
  repeat' with_reducible first | assumption | apply kept_setLnk

theorem kept_sendMsg (a b c) (h : s.Kept q) : (State.sendMsg s a b c).Kept q := by
  unfold State.sendMsg
  repeat' with_reducible first | assumption | apply kept_modLnk | split

theorem kept_countSent (a) (h : s.Kept q) : (State.countSent s a).Kept q := by
  unfold State.countSent
  repeat' with_reducible first | assumption | apply kept_ite | split | extract_lets | intro _

theorem kept_countRecv (a) (h : s.Kept q) : (State.countRecv s a).Kept q := by
  unfold State.countRecv
  repeat' with_reducible first | assumption | apply kept_ite | split | extract_lets | intro _

theorem kept_originate (a b c) (h : s.Kept q) : (State.originate s a b c).Kept q := by
  unfold State.originate
  repeat' with_reducible first | assumption | apply kept_sendMsg | apply kept_countSent

theorem kept_sendFlit (a b c) (h : s.Kept q) : (State.sendFlit s a b c).Kept q := by
  unfold State.sendFlit
  repeat' with_reducible first | assumption | apply kept_modLnk

theorem kept_sendFlits (a b c) (h : s.Kept q) : (State.sendFlits s a b c).Kept q := by
  unfold State.sendFlits
  repeat' with_reducible first | assumption | apply kept_modLnk

theorem kept_endLong (a b c) (h : s.Kept q) : (State.endLong s a b c).Kept q := by
  unfold State.endLong
  repeat' with_reducible first | assumption | apply kept_respond | split

theorem kept_wake (h : s.Kept q) : (State.wake s).Kept q := by
  unfold State.wake
  repeat' with_reducible first | assumption | apply kept_endLong | apply kept_ite | split | extract_lets | intro _

theorem kept_setWord (a b) (h : s.Kept q) : (State.setWord s a b).Kept q :=
  ⟨h.queue, { h.sound with words_up := Tbl.set_rising _ _ h.sound.words_up }⟩

theorem kept_setShadow (a b) (h : s.Kept q) : (State.setShadow s a b).Kept q :=
  ⟨h.queue, { h.sound with shadows_up := Tbl.set_rising _ _ h.sound.shadows_up }⟩

theorem kept_answer (a b c d e) (h : s.Kept q) : (State.answer s a b c d e).Kept q := by
  unfold State.answer
  repeat' with_reducible first | assumption | apply kept_modPort

theorem kept_endWait (a b c) (h : s.Kept q) : (State.endWait s a b c).Kept q := by
  unfold State.endWait
  repeat' with_reducible first | assumption | apply kept_modPort

theorem kept_answerWait (a b c d) (h : s.Kept q) : (State.answerWait s a b c d).Kept q := by
  unfold State.answerWait
  repeat' with_reducible first | assumption | apply kept_answer | apply kept_endWait

theorem kept_logSync (a b c d) (h : s.Kept q) : (s.logSync a b c d).Kept q := by
  have hb := kept_bump (s := s) cSyncErr 1 h
  unfold State.logSync
  extract_lets e t
  split
  · next hl =>
    have : (t.shadow.errLog ++ [e]).length ≤ 64 := by simpa using hl
    exact ⟨hb.queue, { hb.sound with errs_le := this }⟩
  · exact hb

theorem kept_logDrift (e) (h : s.Kept q) : (s.logDrift e).Kept q := by
  unfold State.logDrift
  split
  · next hl =>
    have : (s.shadow.driftLog ++ [e]).length ≤ 64 := by simpa using hl
    exact ⟨h.queue, { h.sound with drifts_le := this }⟩
  · exact kept_bump _ _ h

theorem kept_onMsg (a b c d) (hd : ∀ x0 t, State.Kept q t → (d x0 t).Kept q) (h : s.Kept q) : (State.onMsg s a b c d).Kept q := by
  unfold State.onMsg
  repeat' with_reducible first | assumption | apply kept_modLnk | apply hd | apply kept_ite | split | extract_lets | intro _

theorem kept_consumeOrForward (a b c d) (hd : ∀ t, State.Kept q t → (d t).Kept q)
    (h : s.Kept q) : (State.consumeOrForward s a b c d).Kept q := by
  unfold State.consumeOrForward
  repeat' with_reducible first
    | assumption | apply kept_countRecv | apply kept_sendMsg | apply hd | apply kept_ite | split | extract_lets | intro _

theorem kept_setChan (a b) (h : s.Kept q) : (s.setChan a b).Kept q :=
  ⟨h.queue, { h.sound with chans_wf := Tbl.set_wf _ _ h.sound.chans_wf }⟩

theorem kept_modChan (a b) (h : s.Kept q) : (State.modChan s a b).Kept q := by
  unfold State.modChan
  repeat' with_reducible first | assumption | apply kept_setChan

theorem kept_pulse (a) (h : s.Kept q) : (State.pulse s a).Kept q := h

theorem kept_answerBarrier (a b c d) (h : s.Kept q) : (State.answerBarrier s a b c d).Kept q := by
  unfold State.answerBarrier
  repeat' with_reducible first | assumption | apply kept_answer | apply kept_endWait

theorem kept_endBarrierWaits (a b c d) (h : s.Kept q) : (State.endBarrierWaits s a b c d).Kept q := by
  unfold State.endBarrierWaits
  repeat' with_reducible first
    | assumption | apply kept_setChan | apply kept_forEach | apply kept_answerBarrier | split | extract_lets | intro _

theorem kept_releaseStepAt (a b) (h : s.Kept q) : (State.releaseStepAt s a b).Kept q := by
  unfold State.releaseStepAt
  repeat' with_reducible first | assumption | apply kept_setChan | apply kept_endBarrierWaits

theorem kept_decideRelease (a b c) (h : s.Kept q) : (State.decideRelease s a b c).Kept q := by
  unfold State.decideRelease
  repeat' with_reducible first | assumption | apply kept_pulse | apply kept_releaseStepAt

theorem kept_prewarn (a) (h : s.Kept q) : (State.prewarn s a).Kept q := by
  unfold State.prewarn
  repeat' with_reducible first | assumption | apply kept_pulse | apply kept_modChan | apply kept_ite | split | extract_lets | intro _

theorem kept_endPhase (a b) (h : s.Kept q) : (State.endPhase s a b).Kept q := by
  unfold State.endPhase
  repeat' with_reducible first
    | assumption | apply kept_prewarn | apply kept_modChan | apply kept_decideRelease | apply kept_ite | split | extract_lets
    | intro _

theorem kept_trimWord (a) (h : s.Kept q) : (State.trimWord a s).Kept q := by
  unfold State.trimWord
  repeat' with_reducible first | assumption | apply kept_setWord | apply kept_logDrift

theorem kept_trimCheck (a) (h : s.Kept q) : (State.trimCheck s a).1.Kept q := by
  unfold State.trimCheck
  repeat' with_reducible first | assumption | apply kept_forEach | apply kept_trimWord | split | extract_lets | intro _

theorem kept_foreignDrift (a) (h : s.Kept q) : (State.foreignDrift s a).1.Kept q := h

theorem kept_chipDrift (a) (h : s.Kept q) : (State.chipDrift s a).1.Kept q := by
  unfold State.chipDrift
  repeat' with_reducible first | assumption | apply kept_trimCheck | apply kept_foreignDrift

theorem kept_barrierTo (a b c d e f) (h : s.Kept q) : (State.barrierTo s a b c d e f).Kept q := by
  unfold State.barrierTo
  repeat' with_reducible first | assumption | apply kept_forEach | apply kept_originate | split | extract_lets | intro _

theorem kept_checkPrewarn (a b) (h : s.Kept q) : (State.checkPrewarn s a b).Kept q := by
  unfold State.checkPrewarn
  repeat' with_reducible first
    | assumption | apply kept_barrierTo | apply kept_prewarn | apply kept_ite | split | extract_lets | intro _

theorem kept_releaseAtRoot (ch g) (h : s.Kept q) : (s.releaseAtRoot ch g).Kept q := by
  have hd := kept_chipDrift g h
  unfold State.releaseAtRoot
  extract_lets x c drift s0
  have h0 : s0.Kept q := kept_ite (fun _ => hd) (fun _ => h)
  clear_value s0
  repeat' with_reducible first | assumption | apply kept_endPhase | apply kept_barrierTo | apply kept_ite | extract_lets | intro _

theorem kept_countUp (ch g n a c) (h : s.Kept q) : (State.countUp ch g n a c s).Kept q := by
  induction n generalizing s a c with
  | zero => exact h
  | succ n ih =>
    unfold State.countUp
    repeat' with_reducible first
      | assumption | apply ih | apply kept_releaseAtRoot | apply kept_checkPrewarn | apply kept_setChan | apply kept_barrierTo | apply kept_ite
      | split | extract_lets | intro _

theorem kept_afterArrival (a b) (h : s.Kept q) : (State.afterArrival s a b).Kept q := by
  unfold State.afterArrival
  repeat' with_reducible first
    | assumption | apply kept_checkPrewarn | apply kept_countUp | apply kept_setChan | apply kept_ite | split | extract_lets | intro _

theorem kept_answerChannel (a b c d e f) (h : s.Kept q) : (State.answerChannel s a b c d e f).Kept q := by
  unfold State.answerChannel
  repeat' with_reducible first | assumption | apply kept_answer | apply kept_endWait | apply kept_ite | split | extract_lets | intro _

theorem kept_applyArrive (a b) (h : s.Kept q) : (State.applyArrive s a b).Kept q := by
  unfold State.applyArrive
  repeat' with_reducible first
    | assumption | apply kept_answerChannel | apply kept_setChan | apply kept_answer | apply kept_afterArrival | apply kept_ite
    | split | extract_lets | intro _

theorem kept_applyBwait (a b) (h : s.Kept q) : (State.applyBwait s a b).Kept q := by
  unfold State.applyBwait
  repeat' with_reducible first
    | assumption | apply kept_answerChannel | apply kept_setChan | apply kept_ite | split | extract_lets | intro _

theorem kept_breakHere (a) (h : s.Kept q) : (State.breakHere s a).Kept q := by
  unfold State.breakHere
  repeat' with_reducible first | assumption | apply kept_modChan | apply kept_endBarrierWaits

theorem kept_breakChannel (a b) (h : s.Kept q) : (State.breakChannel s a b).Kept q := by
  unfold State.breakChannel
  repeat' with_reducible first | assumption | apply kept_breakHere | apply kept_barrierTo | split

theorem kept_flyChannel (a b) (h : s.Kept q) : (State.flyChannel a b s).Kept q := by
  unfold State.flyChannel
  repeat' with_reducible first | assumption | apply kept_setChan | apply kept_endBarrierWaits

theorem kept_flyMembers (a b) (h : s.Kept q) : (State.flyMembers a b s).Kept q := by
  unfold State.flyMembers
  repeat' with_reducible first | assumption | apply kept_setChan | apply kept_endBarrierWaits

theorem kept_execBarrierWaitTimeout (a b) (h : s.Kept q) : KeptOut q (execBarrierWaitTimeout a b s) := by
  unfold execBarrierWaitTimeout
  repeat' with_reducible first | assumption | apply kept_ok | apply kept_answerBarrier | apply kept_setChan | split | extract_lets

theorem kept_execReleaseStep (a) (h : s.Kept q) : KeptOut q (execReleaseStep a s) := by
  unfold execReleaseStep
  repeat' with_reducible first
    | assumption | apply kept_ok | apply kept_releaseStepAt | apply kept_ite | apply kept_oite | split | extract_lets | intro _

theorem kept_execFleetWaitExpiry (a) (h : s.Kept q) : KeptOut q (execFleetWaitExpiry a s) := by
  unfold execFleetWaitExpiry
  repeat' with_reducible first | assumption | apply kept_ok | apply kept_decideRelease | split

theorem kept_onChannel (a b) (hb : ∀ x0 x1 t, State.Kept q t → (b x0 x1 t).Kept q) (h : s.Kept q) : (State.onChannel s a b).Kept q := by
  unfold State.onChannel
  repeat' with_reducible first | assumption | apply kept_logSync | apply hb | split | extract_lets

theorem kept_followPhase (a b c) (h : s.Kept q) : (State.followPhase s a b c).Kept q := by
  unfold State.followPhase
  repeat' with_reducible first | assumption | apply kept_modChan | apply kept_ite | split | extract_lets | intro _

theorem kept_execBarArrive (a) (h : s.Kept q) : KeptOut q (execBarArrive a s) := by
  unfold execBarArrive
  repeat' with_reducible first
    | assumption | apply kept_ok | apply kept_onMsg | apply kept_consumeOrForward | apply kept_onChannel | apply kept_followPhase
    | apply kept_modChan | apply kept_checkPrewarn | apply kept_releaseAtRoot | apply kept_countUp | apply kept_ite | apply kept_oite
    | split | extract_lets | intro _

theorem kept_execBarRelease (a) (h : s.Kept q) : KeptOut q (execBarRelease a s) := by
  unfold execBarRelease
  repeat' with_reducible first
    | assumption | apply kept_ok | apply kept_onMsg | apply kept_consumeOrForward | apply kept_onChannel | apply kept_barrierTo
    | apply kept_chipDrift | apply kept_modChan | apply kept_endPhase | apply kept_ite | apply kept_oite | split | extract_lets
    | intro _

theorem kept_execBarOrphan (a) (h : s.Kept q) : KeptOut q (execBarOrphan a s) := by
  unfold execBarOrphan
  repeat' with_reducible first
    | assumption | apply kept_ok | apply kept_onMsg | apply kept_consumeOrForward | apply kept_onChannel | apply kept_endBarrierWaits
    | apply kept_breakChannel | apply kept_ite | apply kept_oite | split | extract_lets | intro _

theorem kept_execBarPrewarn (a) (h : s.Kept q) : KeptOut q (execBarPrewarn a s) := by
  unfold execBarPrewarn
  repeat' with_reducible first
    | assumption | apply kept_ok | apply kept_onMsg | apply kept_consumeOrForward | apply kept_onChannel | apply kept_barrierTo
    | apply kept_prewarn | apply kept_ite | apply kept_oite | split | extract_lets | intro _

theorem kept_postFault (a b c d e f) (h : s.Kept q) : (State.postFault s a b c d e f).Kept q := by
  unfold State.postFault
  repeat' with_reducible first | assumption | apply kept_event | apply kept_wake

theorem kept_postRestore (a b) (h : s.Kept q) : (State.postRestore s a b).Kept q := by
  unfold State.postRestore
  repeat' with_reducible first | assumption | apply kept_event

theorem kept_postPoison (h : s.Kept q) : (State.postPoison s).Kept q := by
  unfold State.postPoison
  repeat' with_reducible first | assumption | apply kept_postFault

theorem kept_pushDone (a b) (h : s.Kept q) : (State.pushDone s a b).Kept q := by
  unfold State.pushDone
  repeat' with_reducible first | assumption | apply kept_modPort

theorem kept_sortMsgs (a b c) (h : s.Kept q) : (State.sortMsgs s a b c).1.Kept q := by
  unfold State.sortMsgs
  repeat' with_reducible first | assumption | apply kept_bump | apply kept_forEach | apply kept_logSync | split | extract_lets | intro _

theorem kept_writeEntry (a b c) (h : s.Kept q) : (State.writeEntry s a b c).Kept q := by
  unfold State.writeEntry
  extract_lets i
  split
  · split
    · exact h
    · exact kept_store _ _ h
  · exact ⟨h.queue, { h.sound with die_up := Tbl.set_rising _ _ h.sound.die_up }⟩

theorem kept_setTag (a b) (h : s.Kept q) : (s.setTag a b).Kept q :=
  ⟨h.queue, { h.sound with tags_wf := Tbl.set_wf _ _ h.sound.tags_wf }⟩

theorem kept_writeRow (a b c) (h : s.Kept q) : (State.writeRow s a b c).Kept q := by
  unfold State.writeRow
  repeat' with_reducible first | assumption | apply kept_writeEntry

theorem kept_closeRow (a) (h : s.Kept q) : (State.closeRow s a).Kept q := by
  unfold State.closeRow
  repeat' with_reducible first | assumption | apply kept_setTag

theorem kept_freeSlot (a) (h : s.Kept q) : (State.freeSlot s a).Kept q := by
  unfold State.freeSlot
  repeat' with_reducible first | assumption | apply kept_setTag

theorem kept_settleTag (a) (h : s.Kept q) : (State.settleTag s a).Kept q := by
  unfold State.settleTag
  repeat' with_reducible first | assumption | apply kept_freeSlot | apply kept_ite | split | extract_lets | intro _

theorem kept_finishCombs (h : s.Kept q) : (State.finishCombs s).Kept q := by
  unfold State.finishCombs
  repeat' with_reducible first | assumption | apply kept_forEach | apply kept_pushDone | apply kept_ite | split | extract_lets | intro _

theorem kept_stopCombs (a b) (h : s.Kept q) : (State.stopCombs s a b).Kept q := by
  unfold State.stopCombs
  repeat' with_reducible first | assumption | apply kept_finishCombs

theorem kept_cancelRow (a b c) (h : s.Kept q) : (State.cancelRow s a b c).Kept q := by
  unfold State.cancelRow
  repeat' with_reducible first | assumption | apply kept_writeRow | apply kept_ite | split | extract_lets | intro _

theorem kept_cancelTag (a) (h : s.Kept q) : (State.cancelTag s a).Kept q := by
  unfold State.cancelTag
  repeat' with_reducible first
    | assumption | apply kept_stopCombs | apply kept_setTag | apply kept_forEach | apply kept_cancelRow | apply kept_settleTag
    | apply kept_ite | split | extract_lets | intro _

theorem kept_releaseTag (a) (h : s.Kept q) : (State.releaseTag s a).Kept q := by
  unfold State.releaseTag
  repeat' with_reducible first
    | assumption | apply kept_forEach | apply kept_writeRow | apply kept_setTag | apply kept_settleTag | apply kept_stopCombs
    | apply kept_ite | split | extract_lets | intro _

theorem kept_loseEntry (a b c) (h : s.Kept q) : (State.loseEntry s a b c).Kept q := by
  unfold State.loseEntry
  repeat' with_reducible first | assumption | apply kept_cancelTag | apply kept_postFault | split

theorem kept_tokenReady (a b) (h : s.Kept q) : (State.tokenReady s a b).Kept q := h

theorem kept_readyFound (a b) (h : s.Kept q) : (State.readyFound s a b).Kept q := by
  unfold State.readyFound
  repeat' with_reducible first | assumption | apply kept_forEach | apply kept_tokenReady | split | extract_lets | intro _

theorem kept_firstNotice (a b c d e) (h : s.Kept q) : (State.firstNotice s a b c d e).Kept q := by
  unfold State.firstNotice
  repeat' with_reducible first
    | assumption | apply kept_bump | apply kept_settleTag | apply kept_writeRow | apply kept_tokenReady | apply kept_ite | split
    | extract_lets | intro _

theorem kept_applyNotice (a) (h : s.Kept q) : (State.applyNotice s a).Kept q := by
  unfold State.applyNotice
  repeat' with_reducible first
    | assumption | apply kept_bump | apply kept_firstNotice | apply kept_loseEntry | apply kept_ite | split | extract_lets | intro _

theorem kept_abandonRoute (a) (h : s.Kept q) : (State.abandonRoute s a).Kept q := by
  have h1 : (s.setTag a (tagDefault 0)).Kept q := by repeat' with_reducible first | assumption | apply kept_setTag
  exact h1

theorem kept_execTagQuarantineExpiry (a) (h : s.Kept q) : KeptOut q (execTagQuarantineExpiry a s) := by
  unfold execTagQuarantineExpiry
  repeat' with_reducible first
    | assumption | apply kept_forEach | apply kept_writeRow | apply kept_wake | apply kept_freeSlot | apply kept_bump | apply kept_ok
    | apply kept_postFault | apply kept_ite | apply kept_oite | split | extract_lets | intro _

theorem kept_modComb (a b) (h : s.Kept q) : (State.modComb s a b).Kept q := h

theorem kept_startComb (a b c) (h : s.Kept q) : (State.startComb s a b c).Kept q := by
  unfold State.startComb
  repeat' with_reducible first | assumption | apply kept_finishCombs

theorem kept_execCombineLaneBegin (a b) (h : s.Kept q) : KeptOut q (execCombineLaneBegin a b s) := by
  unfold execCombineLaneBegin
  repeat' with_reducible first
    | assumption | apply kept_ok | apply kept_modComb | apply kept_stopCombs | apply kept_loseEntry | apply kept_ite | apply kept_oite
    | split | extract_lets | intro _

theorem kept_execRowReadReturn (a b) (h : s.Kept q) : KeptOut q (execRowReadReturn a b s) := by
  unfold execRowReadReturn
  repeat' with_reducible first | assumption | apply kept_ok | apply kept_modComb | split

theorem kept_markCombined (a b) (h : s.Kept q) : (State.markCombined s a b).Kept q := by
  unfold State.markCombined
  repeat' with_reducible first
    | assumption | apply kept_settleTag | apply kept_closeRow | apply kept_writeRow | apply kept_loseEntry | apply kept_stopCombs
    | split | extract_lets

theorem kept_execRowWriteVisible (a b) (h : s.Kept q) : KeptOut q (execRowWriteVisible a b s) := by
  unfold execRowWriteVisible
  repeat' with_reducible first
    | assumption | apply kept_ok | apply kept_forEach | apply kept_store | apply kept_markCombined | apply kept_modComb
    | apply kept_finishCombs | apply kept_ite | apply kept_oite | split | extract_lets | intro _

theorem kept_execCombineLimitExpiry (a) (h : s.Kept q) : KeptOut q (execCombineLimitExpiry a s) := by
  unfold execCombineLimitExpiry
  repeat' with_reducible first | assumption | apply kept_ok | apply kept_stopCombs

end Sys2Proof.Machine
end

