-- ==== Sys2Proof/Laws/KeptTree.lean ====
section
/-! SUPPORT. `State.Kept` over the operations on tell-tale commands, collectives and hoist. -/

namespace Sys2Proof.Machine

open Sys2Proof

variable {q : List Instr} {s : State}

theorem kept_setColl (a) (h : s.Kept q) : (State.setColl s a).Kept q := h

theorem kept_modColl (a b c) (h : s.Kept q) : (State.modColl s a b c).Kept q := h

theorem kept_tidyColls (h : s.Kept q) : (State.tidyColls s).Kept q := h

theorem kept_cutReason (a) (h : s.Kept q) : (State.cutReason s a).Kept q := h

theorem kept_recordEpoch (a b c) (h : s.Kept q) : (State.recordEpoch s a b c).Kept q := by
  unfold State.recordEpoch
  repeat' with_reducible first | assumption | apply kept_cutReason | apply kept_ite | split | extract_lets | intro _

theorem kept_answerFlight (a b c d) (h : s.Kept q) : (State.answerFlight s a b c d).Kept q := by
  unfold State.answerFlight
  repeat' with_reducible first
    | assumption | apply kept_answer | apply kept_endWait | apply kept_logSync | apply kept_originate | apply kept_ite | split
    | extract_lets | intro _

theorem kept_releaseDrain (a) (h : s.Kept q) : (State.releaseDrain s a).Kept q := by
  unfold State.releaseDrain
  repeat' with_reducible first
    | assumption | apply kept_forEach | apply kept_answerWait | apply kept_setWord | apply kept_ite | split | extract_lets | intro _

theorem kept_serveQueue (w l) (h : s.Kept q) : (State.serveQueue w l s).Kept q := by
  induction l generalizing s with
  | nil => exact h
  | cons x r ih =>
    unfold State.serveQueue
    repeat' with_reducible first | assumption | apply ih | apply kept_answerWait | apply kept_setWord | apply kept_ite | extract_lets | intro _

theorem kept_manage (a b) (h : s.Kept q) : (State.manage s a b).Kept q := by
  unfold State.manage
  repeat' with_reducible first
    | assumption | apply kept_answerFlight | apply kept_setShadow | apply kept_setWord | apply kept_ite | split | extract_lets
    | intro _

theorem kept_join (a b) (h : s.Kept q) : (State.join s a b).Kept q := by
  unfold State.join
  repeat' with_reducible first
    | assumption | apply kept_answerFlight | apply kept_setWord | apply kept_releaseDrain | apply kept_ite | split | extract_lets
    | intro _

theorem kept_signal (a b) (h : s.Kept q) : (State.signal s a b).Kept q := by
  unfold State.signal
  repeat' with_reducible first
    | assumption | apply kept_answerFlight | apply kept_answerWait | apply kept_setWord | apply kept_releaseDrain
    | apply kept_serveQueue | apply kept_ite | split | extract_lets | intro _

theorem kept_decrement (a b) (h : s.Kept q) : (State.decrement s a b).Kept q := by
  unfold State.decrement
  repeat' with_reducible first
    | assumption | apply kept_answerFlight | apply kept_setWord | apply kept_releaseDrain | apply kept_ite | split | extract_lets
    | intro _

theorem kept_atWord (w f) (h : s.Kept q) : (s.atWord w f).Kept q := by
  unfold State.atWord
  extract_lets top t
  have ht : t.Kept q := by
    repeat' with_reducible first | assumption | apply kept_setShadow | apply kept_ite | intro _
  clear_value t top
  repeat' with_reducible first
    | assumption | apply kept_answerFlight | apply kept_signal | apply kept_join | apply kept_decrement | apply kept_manage | split

theorem kept_ttCycle (a b) (h : s.Kept q) : (State.ttCycle s a b).Kept q := by
  unfold State.ttCycle
  repeat' with_reducible first | assumption | apply kept_forEach | apply kept_atWord | split | extract_lets | intro _

theorem kept_claimAny (a b) (h : s.Kept q) : (State.claimAny a b s).Kept q := by
  unfold State.claimAny
  repeat' with_reducible first
    | assumption | apply kept_answerFlight | apply kept_setShadow | apply kept_setWord | apply kept_ite | split | extract_lets
    | intro _

theorem kept_flushFences (n) (h : s.Kept q) : (State.flushFences n s).Kept q := by
  induction n generalizing s with
  | zero => exact h
  | succ n ih =>
    unfold State.flushFences
    repeat' with_reducible first | assumption | apply ih | apply kept_applyArrive | apply kept_applyBwait | apply kept_ite | split | extract_lets | intro _

theorem kept_flush (h : s.Kept q) : (State.flush s).Kept q := by
  unfold State.flush
  repeat' with_reducible first | assumption | apply kept_flushFences

theorem kept_launch (a b) (h : s.Kept q) : (State.launch s a b).Kept q := by
  unfold State.launch
  repeat' with_reducible first | assumption | apply kept_originate | apply kept_flush | apply kept_ite | split | extract_lets | intro _

theorem kept_issue (a b) (h : s.Kept q) : (State.issue s a b).Kept q := by
  unfold State.issue
  repeat' with_reducible first
    | assumption | apply kept_modPort | apply kept_answer | apply kept_logSync | apply kept_launch | apply kept_ite | split
    | extract_lets | intro _

theorem kept_ttStore (a b) (h : s.Kept q) : (State.ttStore s a b).Kept q := by
  unfold State.ttStore
  repeat' with_reducible first | assumption | apply kept_wake | apply kept_issue | apply kept_ite | split | extract_lets | intro _

theorem kept_orphanWord (a) (h : s.Kept q) : (State.orphanWord a s).Kept q := by
  unfold State.orphanWord
  repeat' with_reducible first
    | assumption | apply kept_setWord | apply kept_forEach | apply kept_answerWait | split | extract_lets | intro _

theorem kept_withdrawWaits (a) (h : s.Kept q) : (State.withdrawWaits s a).Kept q := by
  unfold State.withdrawWaits
  extract_lets words tt s0
  have h : s0.Kept q := ⟨h.queue, { h.sound with words_up := List.Pairwise.nil }⟩
  clear_value s0
  repeat' with_reducible first
    | assumption | apply kept_forEach | apply kept_setWord | apply kept_modChan | split | extract_lets | intro _

theorem kept_withdrawFlights (a) (h : s.Kept q) : (State.withdrawFlights s a).Kept q := h

theorem kept_resetTellTale (a) (h : s.Kept q) : (State.resetTellTale s a).Kept q := by
  unfold State.resetTellTale
  repeat' with_reducible first
    | assumption | apply kept_withdrawFlights | apply kept_withdrawWaits | apply kept_forEach | apply kept_orphanWord
    | apply kept_breakChannel | apply kept_ite | split | extract_lets | intro _

theorem kept_flushWords (a b) (h : s.Kept q) : (State.flushWords s a b).Kept q := by
  unfold State.flushWords
  repeat' with_reducible first
    | assumption | apply kept_forEach | apply kept_setWord | apply kept_answerWait | split | extract_lets | intro _

theorem kept_flyTellTale (h : s.Kept q) : (State.flyTellTale s).Kept q := by
  unfold State.flyTellTale
  repeat' with_reducible first
    | assumption | apply kept_flushWords | apply kept_forEach | apply kept_flyChannel | apply kept_pulse | apply kept_ite | split
    | extract_lets | intro _

theorem kept_execSig (a b) (h : s.Kept q) : KeptOut q (execSig a b s) := by
  unfold execSig
  repeat' with_reducible first | assumption | apply kept_ok | apply kept_ttStore

theorem kept_execWait (a b) (h : s.Kept q) : KeptOut q (execWait a b s) := by
  unfold execWait
  repeat' with_reducible first | assumption | apply kept_ok | apply kept_ttStore

theorem kept_execDec (a b) (h : s.Kept q) : KeptOut q (execDec a b s) := by
  unfold execDec
  repeat' with_reducible first | assumption | apply kept_ok | apply kept_ttStore

theorem kept_execTest (a b) (h : s.Kept q) : KeptOut q (execTest a b s) := by
  unfold execTest
  repeat' with_reducible first | assumption | apply kept_ok | apply kept_ttStore

theorem kept_execInit (a b) (h : s.Kept q) : KeptOut q (execInit a b s) := by
  unfold execInit
  repeat' with_reducible first | assumption | apply kept_ok | apply kept_ttStore

theorem kept_execClaim (a b) (h : s.Kept q) : KeptOut q (execClaim a b s) := by
  unfold execClaim
  repeat' with_reducible first | assumption | apply kept_ok | apply kept_ttStore

theorem kept_execRelease (a b) (h : s.Kept q) : KeptOut q (execRelease a b s) := by
  unfold execRelease
  repeat' with_reducible first | assumption | apply kept_ok | apply kept_ttStore

theorem kept_execArrive (a b) (h : s.Kept q) : KeptOut q (execArrive a b s) := by
  unfold execArrive
  repeat' with_reducible first | assumption | apply kept_ok | apply kept_ttStore

theorem kept_execBwait (a b) (h : s.Kept q) : KeptOut q (execBwait a b s) := by
  unfold execBwait
  repeat' with_reducible first | assumption | apply kept_ok | apply kept_ttStore

theorem kept_execSyncWordCycle (a b) (h : s.Kept q) : KeptOut q (execSyncWordCycle a b s) := by
  unfold execSyncWordCycle
  repeat' with_reducible first
    | assumption | apply kept_ok | apply kept_flush | apply kept_forEach | apply kept_claimAny | apply kept_ttCycle | apply kept_ite
    | apply kept_oite | split | extract_lets | intro _

theorem kept_execWaitTimeout (a b) (h : s.Kept q) : KeptOut q (execWaitTimeout a b s) := by
  unfold execWaitTimeout
  repeat' with_reducible first | assumption | apply kept_ok | apply kept_answerWait | apply kept_setWord | split | extract_lets

theorem kept_execSigMessage (a) (h : s.Kept q) : KeptOut q (execSigMessage a s) := by
  unfold execSigMessage
  repeat' with_reducible first
    | assumption | apply kept_ok | apply kept_onMsg | apply kept_consumeOrForward | apply kept_logSync | apply kept_ite
    | apply kept_oite | split | extract_lets | intro _

theorem kept_execSigAck (a) (h : s.Kept q) : KeptOut q (execSigAck a s) := by
  unfold execSigAck
  repeat' with_reducible first
    | assumption | apply kept_ok | apply kept_onMsg | apply kept_consumeOrForward | apply kept_flush | apply kept_answer
    | apply kept_ite | apply kept_oite | split | extract_lets | intro _

theorem kept_startMember (a b c) (h : s.Kept q) : (State.startMember s a b c).Kept q := by
  unfold State.startMember
  repeat' with_reducible first | assumption | apply kept_modColl | apply kept_ite | split | extract_lets | intro _

theorem kept_admitFrom (n) (h : s.Kept q) : (State.admitFrom n s).Kept q := by
  induction n generalizing s with
  | zero => exact h
  | succ n ih =>
    unfold State.admitFrom
    extract_lets _ next
    clear_value next
    split
    · exact h
    · exact ih (kept_startMember _ _ _ h)

theorem kept_admitNext (h : s.Kept q) : (State.admitNext s).Kept q := by
  unfold State.admitNext
  repeat' with_reducible first | assumption | apply kept_admitFrom

theorem kept_admit (h : s.Kept q) : (State.admitNext s).Kept q := by
  unfold State.admitNext
  repeat' with_reducible first | assumption | apply kept_admitFrom

theorem kept_openTag (a) (h : s.Kept q) : (State.openTag s a).Kept q := by
  unfold State.openTag
  repeat' with_reducible first | assumption | apply kept_setTag

theorem kept_acceptColl (a b) (h : s.Kept q) : (State.acceptColl s a b).Kept q := by
  unfold State.acceptColl
  repeat' with_reducible first
    | assumption | apply kept_openTag | apply kept_setColl | apply kept_startMember | apply kept_ite | split | extract_lets | intro _

theorem kept_releaseSlot (a) (h : s.Kept q) : (State.releaseSlot s a).Kept q := by
  unfold State.releaseSlot
  repeat' with_reducible first | assumption | apply kept_admitNext | apply kept_ite | split | extract_lets | intro _

theorem kept_leaveColl (a b c d) (h : s.Kept q) : (State.leaveColl s a b c d).Kept q := by
  unfold State.leaveColl
  repeat' with_reducible first | assumption | apply kept_releaseSlot | apply kept_tidyColls | apply kept_modColl

theorem kept_completeMember (a b c d e f) (h : s.Kept q) : (State.completeMember s a b c d e f).Kept q := by
  unfold State.completeMember
  repeat' with_reducible first
    | assumption | apply kept_modColl | apply kept_pushDone | apply kept_leaveColl | apply kept_ite | split | extract_lets | intro _

theorem kept_endBlocks (a b c) (h : s.Kept q) : (State.endBlocks s a b c).Kept q := by
  unfold State.endBlocks
  repeat' with_reducible first | assumption | apply kept_forEach | apply kept_store | apply kept_ite | split | extract_lets | intro _

theorem kept_voidDest (a b c) (h : s.Kept q) : (State.voidDest s a b c).Kept q := by
  unfold State.voidDest
  repeat' with_reducible first
    | assumption | apply kept_endBlocks | apply kept_forEach | apply kept_storeFree | apply kept_ite | split | extract_lets | intro _

theorem kept_endMember (a b c d) (h : s.Kept q) : (State.endMember s a b c d).Kept q := by
  unfold State.endMember
  repeat' with_reducible first
    | assumption | apply kept_voidDest | apply kept_abandonRoute | apply kept_completeMember | apply kept_ite | split | extract_lets
    | intro _

theorem kept_relayDown (a b) (h : s.Kept q) : (State.relayDown s a b).Kept q := by
  unfold State.relayDown
  repeat' with_reducible first | assumption | apply kept_forEach | apply kept_sendFlits | split | extract_lets | intro _

theorem kept_deliverDown (a b c d e) (h : s.Kept q) : (State.deliverDown s a b c d e).Kept q := by
  unfold State.deliverDown
  repeat' with_reducible first
    | assumption | apply kept_modColl | apply kept_recordEpoch | apply kept_tidyColls | apply kept_relayDown | split

theorem kept_concludePass (a b c d) (h : s.Kept q) : (State.concludePass s a b c d).Kept q := by
  unfold State.concludePass
  repeat' with_reducible first
    | assumption | apply kept_deliverDown | apply kept_setColl | apply kept_ite | split | extract_lets | intro _

theorem kept_endAtRoot (a b c d) (h : s.Kept q) : (State.endAtRoot s a b c d).Kept q := by
  unfold State.endAtRoot
  repeat' with_reducible first | assumption | apply kept_deliverDown | apply kept_ite | split | extract_lets | intro _

theorem kept_passUp (a b c d) (h : s.Kept q) : (State.passUp s a b c d).Kept q := by
  unfold State.passUp
  repeat' with_reducible first
    | assumption | apply kept_modColl | apply kept_forEach | apply kept_sendFlits | apply kept_ite | split | extract_lets | intro _

theorem kept_sendChipValue (a b c) (h : s.Kept q) : (State.sendChipValue s a b c).Kept q := by
  unfold State.sendChipValue
  repeat' with_reducible first
    | assumption | apply kept_modColl | apply kept_concludePass | apply kept_passUp | apply kept_ite | split | extract_lets | intro _

theorem kept_sendNodeValue (a b c d) (h : s.Kept q) : (State.sendNodeValue s a b c d).Kept q := by
  unfold State.sendNodeValue
  repeat' with_reducible first
    | assumption | apply kept_modColl | apply kept_concludePass | apply kept_passUp | apply kept_ite | split | extract_lets | intro _

theorem kept_shadowRoot (a b c d) (h : s.Kept q) : (State.shadowRoot s a b c d).Kept q := by
  unfold State.shadowRoot
  repeat' with_reducible first | assumption | apply kept_setColl | apply kept_ite | split | extract_lets | intro _

theorem kept_advance (a b c) (h : s.Kept q) : (State.advance s a b c).Kept q := by
  unfold State.advance
  repeat' with_reducible first
    | assumption | apply kept_forEach | apply kept_sendNodeValue | apply kept_sendChipValue | apply kept_shadowRoot | apply kept_ite
    | split | extract_lets | intro _

theorem kept_forwardMark (n a b g c u) (h : s.Kept q) : (State.forwardMark n a b g c u s).Kept q := by
  induction n generalizing s c with
  | zero => exact h
  | succ n ih =>
    unfold State.forwardMark
    repeat' with_reducible first | assumption | apply ih | apply kept_endAtRoot | apply kept_passUp | apply kept_ite | split | extract_lets | intro _

theorem kept_treeArrival (a b c d e) (h : s.Kept q) : (State.treeArrival s a b c d e).Kept q := by
  unfold State.treeArrival
  repeat' with_reducible first
    | assumption | apply kept_forwardMark | apply kept_advance | apply kept_ite | split | extract_lets | intro _

theorem kept_treeFlitHere (a b c) (h : s.Kept q) : (State.treeFlitHere s a b c).Kept q := by
  unfold State.treeFlitHere
  repeat' with_reducible first | assumption | apply kept_treeArrival | apply kept_setColl | apply kept_ite | split

theorem kept_takeFlits (a b c d) (h : s.Kept q) : (State.takeFlits s a b c d).Kept q := by
  unfold State.takeFlits
  repeat' with_reducible first | assumption | apply kept_modLnk

theorem kept_inputFlits (a b c d e f) (h : s.Kept q) : (State.inputFlits s a b c d e f).Kept q := by
  unfold State.inputFlits
  repeat' with_reducible first
    | assumption | apply kept_takeFlits | apply kept_setColl | apply kept_treeArrival | apply kept_ite | split | extract_lets
    | intro _

theorem kept_treeFlitFrom (a b c d e f g) (h : s.Kept q) : (State.treeFlitFrom s a b c d e f g).Kept q := by
  unfold State.treeFlitFrom
  repeat' with_reducible first
    | assumption | apply kept_takeFlits | apply kept_inputFlits | apply kept_ite | split | extract_lets | intro _

theorem kept_execTreeFlit (a b c) (h : s.Kept q) : KeptOut q (execTreeFlit a b c s) := by
  unfold execTreeFlit
  repeat' with_reducible first
    | assumption | apply kept_ok | apply kept_treeFlitHere | apply kept_treeFlitFrom | apply kept_ite | apply kept_oite | split
    | extract_lets | intro _

theorem kept_writeResult (a b c) (h : s.Kept q) : (State.writeResult s a b c).Kept q := by
  unfold State.writeResult
  repeat' with_reducible first | assumption | apply kept_store | apply kept_ite | split | extract_lets | intro _

theorem kept_portTakes (a b c) (h : s.Kept q) : (State.portTakes s a b c).Kept q := by
  unfold State.portTakes
  repeat' with_reducible first
    | assumption | apply kept_completeMember | apply kept_writeResult | apply kept_endMember | apply kept_modColl | apply kept_ite
    | split

theorem kept_resultHere (a b c) (h : s.Kept q) : (State.resultHere s a b c).Kept q := by
  unfold State.resultHere
  repeat' with_reducible first | assumption | apply kept_portTakes | split

theorem kept_downFlitsAt (a b c d) (h : s.Kept q) : (State.downFlitsAt s a b c d).Kept q := by
  unfold State.downFlitsAt
  repeat' with_reducible first
    | assumption | apply kept_takeFlits | apply kept_setColl | apply kept_deliverDown | apply kept_shadowRoot | apply kept_ite | split
    | extract_lets | intro _

theorem kept_downFrom (a b c d) (h : s.Kept q) : (State.downFrom s a b c d).Kept q := by
  unfold State.downFrom
  repeat' with_reducible first
    | assumption | apply kept_takeFlits | apply kept_downFlitsAt | apply kept_deliverDown | apply kept_ite | split | extract_lets
    | intro _

theorem kept_execResultAtPort (a b c d) (h : s.Kept q) : KeptOut q (execResultAtPort a b c d s) := by
  unfold execResultAtPort
  repeat' with_reducible first
    | assumption | apply kept_ok | apply kept_resultHere | apply kept_downFrom | apply kept_ite | apply kept_oite | split
    | extract_lets | intro _

theorem kept_execCollectiveTimeout (a b c) (h : s.Kept q) : KeptOut q (execCollectiveTimeout a b c s) := by
  unfold execCollectiveTimeout
  repeat' with_reducible first
    | assumption | apply kept_ok | apply kept_modColl | apply kept_ite | apply kept_oite | split | extract_lets | intro _

theorem kept_markUp (a b c d) (h : s.Kept q) : (State.markUp s a b c d).Kept q := by
  unfold State.markUp
  repeat' with_reducible first | assumption | apply kept_sendFlits | split

theorem kept_mark (a b c d) (h : s.Kept q) : (State.mark s a b c d).Kept q := by
  unfold State.mark
  repeat' with_reducible first
    | assumption | apply kept_deliverDown | apply kept_markUp | apply kept_ite | split | extract_lets | intro _

theorem kept_execTimeoutMark (a b) (h : s.Kept q) : KeptOut q (execTimeoutMark a b s) := by
  unfold execTimeoutMark
  repeat' with_reducible first
    | assumption | apply kept_ok | apply kept_modColl | apply kept_mark | apply kept_takeFlits | apply kept_ite | apply kept_oite
    | split | extract_lets | intro _

theorem kept_completionSignal (a b) (h : s.Kept q) : (State.completionSignal s a b).Kept q := h

theorem kept_writeCompletion (a b c) (h : s.Kept q) : (State.writeCompletion s a b c).Kept q := by
  unfold State.writeCompletion
  repeat' with_reducible first
    | assumption | apply kept_store | apply kept_setPort | apply kept_completionSignal | apply kept_leaveColl | apply kept_ite | split

theorem kept_execCompletionWrite (a) (h : s.Kept q) : KeptOut q (execCompletionWrite a s) := by
  unfold execCompletionWrite
  repeat' with_reducible first
    | assumption | apply kept_ok | apply kept_writeCompletion | apply kept_fault | apply kept_ite | apply kept_oite | split
    | extract_lets | intro _

theorem kept_writeEntries (a b c) (h : s.Kept q) : (State.writeEntries s a b c).Kept q := by
  unfold State.writeEntries
  repeat' with_reducible first | assumption | apply kept_forEach | apply kept_writeRow | apply kept_ite | split | extract_lets | intro _

theorem kept_routeFinish (a b c d e) (h : s.Kept q) : (State.routeFinish s a b c d e).Kept q := by
  unfold State.routeFinish
  repeat' with_reducible first
    | assumption | apply kept_writeEntries | apply kept_store | apply kept_freeSlot | apply kept_readyFound | apply kept_setTag
    | apply kept_completeMember | apply kept_ite | split | extract_lets | intro _

theorem kept_routeHere (a b c) (h : s.Kept q) : (State.routeHere s a b c).Kept q := by
  unfold State.routeHere
  repeat' with_reducible first | assumption | apply kept_routeFinish | split

theorem kept_execRouteCountsResult (a b c d) (h : s.Kept q) : KeptOut q (execRouteCountsResult a b c d s) := by
  unfold execRouteCountsResult
  repeat' with_reducible first
    | assumption | apply kept_ok | apply kept_routeHere | apply kept_downFrom | apply kept_ite | apply kept_oite | split
    | extract_lets | intro _

theorem kept_abortMembers (a b n) (h : s.Kept q) : (State.abortMembers a b n s).Kept q := by
  induction n generalizing s with
  | zero => exact h
  | succ n ih =>
    unfold State.abortMembers
    split
    · exact h
    · exact ih (kept_endMember _ _ _ _ h)

theorem kept_flyColl (a b) (h : s.Kept q) : (State.flyColl s a b).Kept q := by
  unfold State.flyColl
  repeat' with_reducible first
    | assumption | apply kept_recordEpoch | apply kept_modColl | apply kept_tidyColls | apply kept_abortMembers | apply kept_ite
    | split | extract_lets | intro _

theorem kept_flyColls (a) (h : s.Kept q) : (State.flyColls s a).Kept q := by
  unfold State.flyColls
  repeat' with_reducible first | assumption | apply kept_forEach | apply kept_flyColl | split | extract_lets | intro _

theorem kept_flyFlits (a) (h : s.Kept q) : (State.flyFlits s a).Kept q := by
  unfold State.flyFlits
  repeat' with_reducible first | assumption | apply kept_forEach | apply kept_takeFlits | split | extract_lets | intro _

theorem kept_writeDmap (a) (h : s.Kept q) : (State.writeDmap s a).Kept q := by
  unfold State.writeDmap
  repeat' with_reducible first | assumption | apply kept_store

theorem kept_endSend (a b) (h : s.Kept q) : (State.endSend s a b).Kept q := by
  unfold State.endSend
  repeat' with_reducible first | assumption | apply kept_pushDone | apply kept_ite | split | extract_lets | intro _

theorem kept_settleSend (a) (h : s.Kept q) : (State.settleSend s a).Kept q := by
  unfold State.settleSend
  repeat' with_reducible first
    | assumption | apply kept_endSend | apply kept_writeDmap | apply kept_ite | split | extract_lets | intro _

theorem kept_modSend (a b) (h : s.Kept q) : (State.modSend s a b).Kept q := h

theorem kept_spreadGroup (a b c d) (h : s.Kept q) : (State.spreadGroup s a b c d).Kept q := by
  unfold State.spreadGroup
  repeat' with_reducible first | assumption | apply kept_forEach | apply kept_sendFlits | split | extract_lets | intro _

theorem kept_spreadList (a b c d) (h : s.Kept q) : (State.spreadList s a b c d).Kept q := by
  unfold State.spreadList
  repeat' with_reducible first | assumption | apply kept_forEach | apply kept_sendFlits | split | extract_lets | intro _

theorem kept_waitAt (a b) (h : s.Kept q) : (State.waitAt s a b).Kept q := by
  unfold State.waitAt
  repeat' with_reducible first | assumption | apply kept_ite | split | extract_lets | intro _

theorem kept_freeCopy (a b) (h : s.Kept q) : (State.freeCopy s a b).Kept q := by
  unfold State.freeCopy
  repeat' with_reducible first | assumption | apply kept_ite | split | extract_lets | intro _

theorem kept_spreadSend (a) (h : s.Kept q) : (State.spreadSend s a).Kept q := by
  unfold State.spreadSend
  repeat' with_reducible first
    | assumption | apply kept_spreadGroup | apply kept_spreadList | apply kept_ite | split | extract_lets | intro _

/-- A copy that is stored, or is stored already. -/
theorem kept_putCopy {t : State} {a b m} (h : s.Kept q) (e : s.putCopy a b m = some t) : t.Kept q := by
  unfold State.putCopy at e
  split at e
  · cases e; exact h
  · obtain ⟨w, -, rfl⟩ := Option.map_eq_some_iff.mp e
    exact h

theorem kept_turnSend (a) (h : s.Kept q) : (State.turnSend a s).Kept q := by
  unfold State.turnSend
  split
  · exact h
  · split
    · exact kept_waitAt _ _ h
    · next e => exact kept_freeCopy _ _ (kept_spreadSend _ (kept_modSend _ _ (kept_putCopy h e)))

theorem kept_turnSends (h : s.Kept q) : (State.turnSends s).Kept q := by
  unfold State.turnSends
  repeat' with_reducible first | assumption | apply kept_forEach | apply kept_turnSend | split | extract_lets | intro _

theorem kept_startSend (a b) (h : s.Kept q) : (State.startSend s a b).Kept q := by
  unfold State.startSend
  repeat' with_reducible first
    | assumption | apply kept_pushDone | apply kept_writeDmap | apply kept_turnSend | apply kept_ite | split | extract_lets | intro _

theorem kept_postRecv (a b) (h : s.Kept q) : (State.postRecv s a b).Kept q := h

theorem kept_endWithdraw (a) (h : s.Kept q) : (State.endWithdraw a s).Kept q := by
  unfold State.endWithdraw
  repeat' with_reducible first | assumption | apply kept_pushDone | apply kept_forEach | split | extract_lets | intro _

theorem kept_withdrawRecvs (a b) (h : s.Kept q) : (State.withdrawRecvs s a b).Kept q := by
  unfold State.withdrawRecvs
  repeat' with_reducible first | assumption | apply kept_endWithdraw | apply kept_ite | split | extract_lets | intro _

theorem kept_afterDelivery (a) (h : s.Kept q) : (State.afterDelivery s a).Kept q := by
  unfold State.afterDelivery
  repeat' with_reducible first | assumption | apply kept_forEach | apply kept_endWithdraw | split | extract_lets | intro _

theorem kept_sendReportFlit (a b c d) (h : s.Kept q) : (State.sendReportFlit s a b c d).Kept q := by
  unfold State.sendReportFlit
  repeat' with_reducible first | assumption | apply kept_sendFlits | split

theorem kept_report (a b c d) (h : s.Kept q) : (State.report s a b c d).Kept q := by
  unfold State.report
  repeat' with_reducible first | assumption | apply kept_modSend | apply kept_sendReportFlit | split

theorem kept_dropDup (a b c) (h : s.Kept q) : (State.dropDup s a b c).Kept q := by
  unfold State.dropDup
  repeat' with_reducible first | assumption | apply kept_report | apply kept_bump

theorem kept_oversize (a b c) (h : s.Kept q) : (State.oversize s a b c).Kept q := by
  unfold State.oversize
  repeat' with_reducible first | assumption | apply kept_report | apply kept_bump

theorem kept_commit (a b c d) (h : s.Kept q) : (State.commit s a b c d).Kept q := h

theorem kept_hold (a b c) (h : s.Kept q) : (State.hold s a b c).Kept q := h

theorem kept_takesCopy (a b) (h : s.Kept q) : (State.takesCopy s a b).Kept q := by
  unfold State.takesCopy
  repeat' with_reducible first | assumption | apply kept_modSend | split

theorem kept_atNode (p m f) (h : s.Kept q) : (s.atNode p m f).Kept q := by
  unfold State.atNode
  extract_lets behind r long s0
  have h0 : s0.Kept q := by
    unfold s0
    split
    · exact kept_dropDup _ _ _ (kept_takesCopy _ _ h)
    · split
      · exact kept_oversize _ _ _ (kept_takesCopy _ _ h)
      · split
        · exact kept_waitAt _ _ h
        · next e _ => exact kept_commit _ _ _ _ (kept_takesCopy _ _ (kept_putCopy h e))
        · next e _ => exact kept_hold _ _ _ (kept_takesCopy _ _ (kept_putCopy h e))
  exact kept_freeCopy _ _ (kept_freeCopy _ _ h0)

theorem kept_endHold (a) (h : s.Kept q) : (State.endHold s a).Kept q := by
  unfold State.endHold
  repeat' with_reducible first | assumption | apply kept_freeCopy

theorem kept_serveHolds (l) (h : s.Kept q) : (State.serveHolds l s).Kept q := by
  induction l generalizing s with
  | nil => exact h
  | cons x r ih =>
    unfold State.serveHolds
    repeat' with_reducible first
      | assumption | apply ih | apply kept_endHold | apply kept_dropDup | apply kept_oversize | apply kept_commit | apply kept_ite | split
      | extract_lets | intro _

theorem kept_missHold (a) (h : s.Kept q) : (State.missHold a s).Kept q := by
  unfold State.missHold
  repeat' with_reducible first | assumption | apply kept_report | apply kept_endHold

theorem kept_spreadOn (a b c d) (h : s.Kept q) : (State.spreadOn s a b c d).Kept q := by
  unfold State.spreadOn
  repeat' with_reducible first | assumption | apply kept_spreadList | apply kept_spreadGroup | split

theorem kept_throughRoot {t : State} {a b c m l} (h : s.Kept q) (e : s.throughRoot a b c m l = some t) : t.Kept q := by
  unfold State.throughRoot at e
  extract_lets n id pend at e
  obtain ⟨u, hu, rfl⟩ := Option.map_eq_some_iff.mp e
  have h0 : u.Kept q := by
    split at hu
    · cases hu; exact h
    · exact kept_putCopy h hu
  exact kept_spreadOn _ _ _ _ h0

theorem kept_takeInbound (a b c) (h : s.Kept q) : (State.takeInbound s a b c).Kept q := by
  unfold State.takeInbound
  split
  · exact h
  · extract_lets n take
    have ht : ∀ t : State, t.Kept q → (take t).Kept q := fun t => kept_modLnk _ _
    clear_value take
    split
    · exact h
    · split
      · exact ht _ h
      · split
        · exact ht _ h
        · split
          · exact h
          · split
            · next e => exact ht _ (kept_throughRoot h e)
            · exact kept_waitAt _ _ h

theorem kept_resendCopied (a) (h : s.Kept q) : (State.resendCopied s a).Kept q := by
  unfold State.resendCopied
  refine kept_forEach (fun x t ht => ?_) h
  cases e : t.throughRoot x.port 2 x.head x.msg none with
  | none => exact ht
  | some u => exact kept_throughRoot ht e

theorem kept_execHoistCreditApply (a b) (h : s.Kept q) : KeptOut q (execHoistCreditApply a b s) := by
  unfold execHoistCreditApply
  repeat' with_reducible first | assumption | apply kept_ok | apply kept_serveHolds

theorem kept_execHoistAtHoldingNode (a b) (h : s.Kept q) : KeptOut q (execHoistAtHoldingNode a b s) := by
  unfold execHoistAtHoldingNode
  repeat' with_reducible first
    | assumption | apply kept_ok | apply kept_atNode | apply kept_takeInbound | apply kept_ite | apply kept_oite | split
    | extract_lets | intro _

theorem kept_execHoldLimitExpiry (a) (h : s.Kept q) : KeptOut q (execHoldLimitExpiry a s) := by
  unfold execHoldLimitExpiry
  repeat' with_reducible first | assumption | apply kept_ok | apply kept_missHold | apply kept_bump | apply kept_serveHolds | split

theorem kept_takeReport {t : State × BitVec 50} (l) (h : s.Kept q) (e : s.takeReport l = some t) : t.1.Kept q := by
  unfold State.takeReport at e
  extract_lets k at e
  split at e
  · cases e; exact kept_setLnk _ _ h
  · cases e; exact kept_setLnk _ _ h
  · cases e

theorem kept_execDeliveryReport (a b c) (h : s.Kept q) : KeptOut q (execDeliveryReport a b c s) := by
  unfold execDeliveryReport
  split
  · exact kept_ok (kept_settleSend _ (kept_modSend _ _ h))
  split
  · exact h
  next t v e =>
  have ht : t.Kept q := by
    split at e
    · cases e
    · exact kept_takeReport _ h e
  repeat' with_reducible first
    | assumption | apply kept_ok | apply kept_settleSend | apply kept_modSend | apply kept_bump | apply kept_sendReportFlit
    | apply kept_oite | split | intro _

theorem kept_execHoistReportLimitExpiry (a) (h : s.Kept q) : KeptOut q (execHoistReportLimitExpiry a s) := by
  unfold execHoistReportLimitExpiry
  repeat' with_reducible first | assumption | apply kept_ok | apply kept_settleSend | apply kept_modSend

theorem kept_execHoistSegmentFreed (a b) (h : s.Kept q) : KeptOut q (execHoistSegmentFreed a b s) := by
  unfold execHoistSegmentFreed
  repeat' with_reducible first
    | assumption | apply kept_ok | apply kept_turnSends | apply kept_ite | apply kept_oite | split | extract_lets | intro _

theorem kept_execHoistDeliveryVisible (a) (h : s.Kept q) : KeptOut q (execHoistDeliveryVisible a s) := by
  unfold execHoistDeliveryVisible
  repeat' with_reducible first
    | assumption | apply kept_ok | apply kept_store | apply kept_pushDone | apply kept_afterDelivery | apply kept_freeCopy
    | apply kept_report | apply kept_ite | apply kept_oite | split | extract_lets | intro _

theorem kept_resetHoist (a) (h : s.Kept q) : (State.resetHoist s a).Kept q := by
  unfold State.resetHoist
  repeat' with_reducible first | assumption | apply kept_forEach | apply kept_missHold | split | extract_lets | intro _

theorem kept_flyHoist (h : s.Kept q) : (State.flyHoist s).Kept q := by
  unfold State.flyHoist
  repeat' with_reducible first
    | assumption | apply kept_forEach | apply kept_report | apply kept_endSend | apply kept_writeDmap | apply kept_freeCopy | split
    | extract_lets | intro _

theorem kept_poisonSend (a) (h : s.Kept q) : (State.poisonSend s a).Kept q := by
  unfold State.poisonSend
  repeat' with_reducible first | assumption | apply kept_endSend | apply kept_storeFree

end Sys2Proof.Machine
end

