-- ==== Sys2Proof/Laws/KeptLink.lean ====
section
/-! SUPPORT. `State.Kept` over the operations on links, control messages and the mailbox. -/

namespace Sys2Proof.Machine

open Sys2Proof

variable {q : List Instr} {s : State}

theorem kept_setKeySlot (a b c d) (h : s.Kept q) : (State.setKeySlot s a b c d).Kept q := h

theorem kept_setKeyUse (a b c) (h : s.Kept q) : (State.setKeyUse s a b c).Kept q := h

theorem kept_dropBlock (a) (h : s.Kept q) : (State.dropBlock s a).Kept q := by
  unfold State.dropBlock
  repeat' with_reducible first | assumption | apply kept_setKeySlot | apply kept_ite | split | extract_lets | intro _

theorem kept_tryUp (a) (h : s.Kept q) : (State.tryUp s a).Kept q := by
  unfold State.tryUp
  repeat' with_reducible first
    | assumption | apply kept_dropBlock | apply kept_bump | apply kept_setLnk | apply kept_ite | split | extract_lets | intro _

theorem kept_flood (a b) (h : s.Kept q) : (State.flood s a b).Kept q := by
  unfold State.flood
  repeat' with_reducible first | assumption | apply kept_forEach | apply kept_modLnk | split | extract_lets | intro _

theorem kept_sendReport (a b) (h : s.Kept q) : (State.sendReport s a b).Kept q := by
  unfold State.sendReport
  repeat' with_reducible first | assumption | apply kept_flood | apply kept_ite | split | extract_lets | intro _

theorem kept_faultColl (a) (h : s.Kept q) : (State.faultColl a s).Kept q := by
  unfold State.faultColl
  repeat' with_reducible first
    | assumption | apply kept_endAtRoot | apply kept_deliverDown | apply kept_forwardMark | apply kept_ite | split | extract_lets
    | intro _

theorem kept_faultColls (a) (h : s.Kept q) : (State.faultColls s a).Kept q := by
  unfold State.faultColls
  repeat' with_reducible first | assumption | apply kept_forEach | apply kept_faultColl | split | extract_lets | intro _

theorem kept_restoreFor (a b) (h : s.Kept q) : (State.restoreFor s a b).Kept q := by
  unfold State.restoreFor
  repeat' with_reducible first | assumption | apply kept_postRestore | apply kept_ite | split | extract_lets | intro _

theorem kept_cutStream (a b) (h : s.Kept q) : (State.cutStream a b s).Kept q := by
  unfold State.cutStream
  extract_lets send
  have hs : ∀ p v m n (t : State), t.Kept q → (send p v m n t).Kept q := by
    intro p v m n t ht
    dsimp only [send]
    split
    · exact kept_sendFlits _ _ _ ht
    · exact ht
  clear_value send
  repeat' with_reducible first | assumption | apply hs | apply kept_forEach | apply kept_ite | split | intro _

theorem kept_loseLink (a) (h : s.Kept q) : (State.loseLink s a).Kept q := by
  unfold State.loseLink
  repeat' with_reducible first
    | assumption | apply kept_faultColls | apply kept_forEach | apply kept_cutStream | apply kept_cutReason | apply kept_ite | split
    | extract_lets | intro _

theorem kept_moveKeys (a b) (h : s.Kept q) : (State.moveKeys s a b).Kept q := by
  unfold State.moveKeys
  repeat' with_reducible first
    | assumption | apply kept_forEach | apply kept_setKeySlot | apply kept_setKeyUse | split | extract_lets | intro _

theorem kept_movePort (a b) (h : s.Kept q) : (State.movePort s a b).Kept q := by
  unfold State.movePort
  repeat' with_reducible first | assumption | apply kept_setLnk | apply kept_moveKeys

theorem kept_respondPort (p) (h : s.Kept q) : (s.respondPort p).1.Kept q := by
  have ht := kept_setLnk p (Link.fresh p (s.lnk p)) (kept_dropBlock p h)
  have key : ∀ (l : Option (Nat × LinkDecl)) (t : State), t.Kept q →
      State.Kept q (match l with | some e => t.loseLink e.1 | none => t) := by
    intro l t ht
    cases l
    · exact ht
    · exact kept_loseLink _ ht
  unfold State.respondPort
  extract_lets k
  split
  · exact kept_movePort _ _ h
  · split
    · exact kept_setLnk _ _ h
    · exact key _ _ ht

theorem kept_portFault (a b c d e) (h : s.Kept q) : (State.portFault s a b c d e).Kept q := by
  unfold State.portFault
  repeat' with_reducible first | assumption | apply kept_postFault | apply kept_restoreFor | apply kept_ite | split

theorem kept_linkDown (a b) (h : s.Kept q) : (State.linkDown s a b).Kept q := by
  unfold State.linkDown
  repeat' with_reducible first | assumption | apply kept_bump | apply kept_respondPort | apply kept_sendReport | apply kept_portFault

theorem kept_replay (a b) (h : s.Kept q) : (State.replay s a b).Kept q := by
  unfold State.replay
  repeat' with_reducible first
    | assumption | apply kept_linkDown | apply kept_bump | apply kept_setLnk | apply kept_ite | split | extract_lets | intro _

theorem kept_putFrame (a b) (h : s.Kept q) : (State.putFrame s a b).Kept q := by
  unfold State.putFrame
  repeat' with_reducible first | assumption | apply kept_modLnk

theorem kept_sendPlain (a b c) (h : s.Kept q) : (State.sendPlain s a b c).Kept q := by
  unfold State.sendPlain
  repeat' with_reducible first | assumption | apply kept_putFrame | apply kept_setLnk

theorem kept_sendKept (a b c d e) (h : s.Kept q) : (State.sendKept s a b c d e).1.Kept q := by
  unfold State.sendKept
  repeat' with_reducible first | assumption | apply kept_putFrame | apply kept_setLnk

theorem kept_sendSequenced (a b c d e) (h : s.Kept q) : (State.sendSequenced s a b c d e).Kept q := by
  unfold State.sendSequenced
  repeat' with_reducible first
    | assumption | apply kept_setKeyUse | apply kept_sendKept | apply kept_modLnk | apply kept_ite | split | extract_lets | intro _

theorem kept_sendTag (a) (h : s.Kept q) : (State.sendTag s a).Kept q := by
  unfold State.sendTag
  repeat' with_reducible first
    | assumption | apply kept_sendKept | apply kept_modLnk | apply kept_setKeySlot | apply kept_linkDown | apply kept_ite | split
    | extract_lets | intro _

theorem kept_closeBlock (a b) (h : s.Kept q) : (State.closeBlock s a b).Kept q := by
  unfold State.closeBlock
  repeat' with_reducible first | assumption | apply kept_setLnk | apply kept_ite | split | extract_lets | intro _

theorem kept_sendData (a b c d) (h : s.Kept q) : (State.sendData s a b c d).Kept q := by
  unfold State.sendData
  repeat' with_reducible first | assumption | apply kept_sendSequenced | apply kept_closeBlock | apply kept_modLnk

theorem kept_sendMsgs (a b) (h : s.Kept q) : (State.sendMsgs s a b).Kept q := by
  unfold State.sendMsgs
  repeat' with_reducible first | assumption | apply kept_sendData | apply kept_setLnk

theorem kept_sendFlitFrame (a b c) (h : s.Kept q) : (State.sendFlitFrame s a b c).Kept q := by
  unfold State.sendFlitFrame
  repeat' with_reducible first | assumption | apply kept_sendData | apply kept_setLnk | apply kept_ite | split | extract_lets

theorem kept_sendControl (a b) (h : s.Kept q) : (State.sendControl s a b).Kept q := by
  unfold State.sendControl
  repeat' with_reducible first | assumption | apply kept_sendPlain | apply kept_modLnk | apply kept_ite | split | extract_lets | intro _

theorem kept_pickSlot (a) (h : s.Kept q) : (State.pickSlot s a).Kept q := by
  unfold State.pickSlot
  repeat' with_reducible first
    | assumption | apply kept_sendTag | apply kept_putFrame | apply kept_setLnk | apply kept_sendControl | apply kept_sendPlain
    | apply kept_sendMsgs | apply kept_sendFlitFrame | apply kept_closeBlock | apply kept_sendSequenced | apply kept_ite | split
    | extract_lets | intro _

theorem kept_exchangeSlot (a) (h : s.Kept q) : (State.exchangeSlot s a).Kept q := by
  unfold State.exchangeSlot
  repeat' with_reducible first
    | assumption | apply kept_sendPlain | apply kept_setLnk | apply kept_tryUp | apply kept_modLnk | apply kept_ite | split
    | extract_lets | intro _

theorem kept_execFrameSlot (a) (h : s.Kept q) : KeptOut q (execFrameSlot a s) := by
  unfold execFrameSlot
  repeat' with_reducible first | assumption | apply kept_ok | apply kept_exchangeSlot | apply kept_pickSlot | split

theorem kept_receive (a b c d e) (he : ∀ t, State.Kept q t → (e t).Kept q) (h : s.Kept q) : (State.receive s a b c d e).Kept q := by
  unfold State.receive
  repeat' with_reducible first
    | assumption | apply kept_bump | apply kept_setLnk | apply he | apply kept_ite | split | extract_lets | intro _

theorem kept_sequence (a b c) (hc : ∀ t, State.Kept q t → (c t).Kept q) (h : s.Kept q) : (State.sequence s a b c).Kept q := by
  unfold State.sequence
  repeat' with_reducible first
    | assumption | apply kept_setLnk | apply kept_bump | apply hc | apply kept_ite | split | extract_lets | intro _

theorem kept_forwardFlit (a b c d e) (h : s.Kept q) : (State.forwardFlit s a b c d e).Kept q := by
  unfold State.forwardFlit
  repeat' with_reducible first | assumption | apply kept_sendFlit | apply kept_ite | split | extract_lets | intro _

theorem kept_forwardHoist (a b c d e) (h : s.Kept q) : (State.forwardHoist s a b c d e).Kept q := by
  unfold State.forwardHoist
  repeat' with_reducible first
    | assumption | apply kept_sendFlit | apply kept_modLnk | apply kept_sendFlits | apply kept_ite | split | extract_lets | intro _

theorem kept_steer (a b c d) (h : s.Kept q) : (State.steer s a b c d).Kept q := by
  unfold State.steer
  repeat' with_reducible first
    | assumption | apply kept_wake | apply kept_modLnk | apply kept_forwardHoist | apply kept_forwardFlit | apply kept_sortMsgs
    | apply kept_ite | split | extract_lets | intro _

theorem kept_takeFrame (a b) (h : s.Kept q) : (State.takeFrame s a b).Kept q := by
  unfold State.takeFrame
  repeat' with_reducible first | assumption | apply kept_modLnk | apply kept_steer | apply kept_ite | split | extract_lets | intro _

theorem kept_execIdle (a b c) (h : s.Kept q) : KeptOut q (execIdle a b c s) := by
  unfold execIdle
  repeat' with_reducible first
    | assumption | apply kept_ok | apply kept_receive | apply kept_sequence | apply kept_takeFrame | apply kept_modLnk
    | apply kept_ite | apply kept_oite | split | extract_lets | intro _

theorem kept_execData (a b c) (h : s.Kept q) : KeptOut q (execData a b c s) := by
  unfold execData
  repeat' with_reducible first
    | assumption | apply kept_ok | apply kept_receive | apply kept_sequence | apply kept_takeFrame | split | extract_lets | intro _

theorem kept_execNak (a b c) (h : s.Kept q) : KeptOut q (execNak a b c s) := by
  unfold execNak
  repeat' with_reducible first
    | assumption | apply kept_ok | apply kept_receive | apply kept_wake | apply kept_replay | apply kept_modLnk | apply kept_ite
    | apply kept_oite | split | extract_lets | intro _

theorem kept_openBlock (a b c d) (h : s.Kept q) : (State.openBlock s a b c d).Kept q := by
  unfold State.openBlock
  repeat' with_reducible first
    | assumption | apply kept_forEach | apply kept_modLnk | apply kept_steer | apply kept_ite | split | extract_lets | intro _

theorem kept_settleKey (a b) (h : s.Kept q) : (State.settleKey s a b).Kept q := by
  unfold State.settleKey
  repeat' with_reducible first
    | assumption | apply kept_setKeySlot | apply kept_setKeyUse | apply kept_ite | split | extract_lets | intro _

theorem kept_verifyBlock (a b) (h : s.Kept q) : (State.verifyBlock s a b).Kept q := by
  unfold State.verifyBlock
  repeat' with_reducible first
    | assumption | apply kept_setKeySlot | apply kept_setLnk | apply kept_modLnk | apply kept_openBlock | apply kept_settleKey
    | apply kept_linkDown | apply kept_bump | apply kept_ite | split | extract_lets | intro _

theorem kept_execGcmtag (a b c) (h : s.Kept q) : KeptOut q (execGcmtag a b c s) := by
  unfold execGcmtag
  repeat' with_reducible first
    | assumption | apply kept_ok | apply kept_receive | apply kept_wake | apply kept_modLnk | apply kept_bump | apply kept_sequence
    | apply kept_verifyBlock | apply kept_ite | apply kept_oite | split | extract_lets | intro _

theorem kept_takeInit (a b) (h : s.Kept q) : (State.takeInit s a b).Kept q := by
  unfold State.takeInit
  repeat' with_reducible first
    | assumption | apply kept_movePort | apply kept_modLnk | apply kept_tryUp | apply kept_setLnk | apply kept_ite | split
    | extract_lets | intro _

theorem kept_execLcInit (a b c) (h : s.Kept q) : KeptOut q (execLcInit a b c s) := by
  unfold execLcInit
  repeat' with_reducible first | assumption | apply kept_ok | apply kept_receive | apply kept_takeInit | split | extract_lets | intro _

theorem kept_execLcInitAck (a b c) (h : s.Kept q) : KeptOut q (execLcInitAck a b c s) := by
  unfold execLcInitAck
  repeat' with_reducible first
    | assumption | apply kept_ok | apply kept_receive | apply kept_tryUp | apply kept_modLnk | apply kept_ite | apply kept_oite
    | split | extract_lets | intro _

theorem kept_controlFields (a b) (h : s.Kept q) : (State.controlFields s a b).Kept q := by
  unfold State.controlFields
  repeat' with_reducible first | assumption | apply kept_modLnk | apply kept_ite | split | extract_lets | intro _

theorem kept_execLcReef (a b c) (h : s.Kept q) : KeptOut q (execLcReef a b c s) := by
  unfold execLcReef
  repeat' with_reducible first
    | assumption | apply kept_ok | apply kept_receive | apply kept_controlFields | apply kept_modLnk | apply kept_ite
    | apply kept_oite | split | extract_lets | intro _

theorem kept_execLcReefAck (a b c) (h : s.Kept q) : KeptOut q (execLcReefAck a b c s) := by
  unfold execLcReefAck
  repeat' with_reducible first
    | assumption | apply kept_ok | apply kept_receive | apply kept_controlFields | apply kept_setLnk | apply kept_ite
    | apply kept_oite | split | extract_lets | intro _

theorem kept_execSuperBlockLock (a) (h : s.Kept q) : KeptOut q (execSuperBlockLock a s) := by
  unfold execSuperBlockLock
  repeat' with_reducible first
    | assumption | apply kept_ok | apply kept_setLnk | apply kept_ite | apply kept_oite | split | extract_lets | intro _

theorem kept_execAlignmentLockLoss (a) (h : s.Kept q) : KeptOut q (execAlignmentLockLoss a s) := by
  unfold execAlignmentLockLoss
  repeat' with_reducible first | assumption | apply kept_ok | apply kept_modLnk

theorem kept_execLockLossTimeout (a) (h : s.Kept q) : KeptOut q (execLockLossTimeout a s) := by
  unfold execLockLossTimeout
  repeat' with_reducible first
    | assumption | apply kept_ok | apply kept_linkDown | apply kept_ite | apply kept_oite | split | extract_lets | intro _

theorem kept_execNakRepeatTimer (a) (h : s.Kept q) : KeptOut q (execNakRepeatTimer a s) := by
  unfold execNakRepeatTimer
  repeat' with_reducible first
    | assumption | apply kept_ok | apply kept_setLnk | apply kept_ite | apply kept_oite | split | extract_lets | intro _

theorem kept_execReplayTimeout (a) (h : s.Kept q) : KeptOut q (execReplayTimeout a s) := by
  unfold execReplayTimeout
  repeat' with_reducible first
    | assumption | apply kept_ok | apply kept_replay | apply kept_ite | apply kept_oite | split | extract_lets | intro _

theorem kept_execLaneFailure (a b) (h : s.Kept q) : KeptOut q (execLaneFailure a b s) := by
  unfold execLaneFailure
  repeat' with_reducible first
    | assumption | apply kept_ok | apply kept_setLnk | apply kept_portFault | apply kept_respondPort | apply kept_sendReport
    | apply kept_bump | apply kept_ite | apply kept_oite | split | extract_lets | intro _

theorem kept_execLinkUpTimeout (a) (h : s.Kept q) : KeptOut q (execLinkUpTimeout a s) := by
  unfold execLinkUpTimeout
  repeat' with_reducible first
    | assumption | apply kept_respondPort | apply kept_ok | apply kept_sendReport | apply kept_portFault | apply kept_ite
    | apply kept_oite | split | extract_lets | intro _

theorem kept_execKeyLoad (a b c d e) (h : s.Kept q) : KeptOut q (execKeyLoad a b c d e s) := by
  unfold execKeyLoad
  repeat' with_reducible first
    | assumption | apply kept_setKeySlot | apply kept_ok | apply kept_setKeyUse | apply kept_ite | apply kept_oite | split
    | extract_lets | intro _

theorem kept_publish (a) (h : s.Kept q) : (State.publish s a).Kept q := by
  unfold State.publish
  repeat' with_reducible first | assumption | apply kept_forEach | apply kept_store | apply kept_ite | split | extract_lets | intro _

theorem kept_publishAll (h : s.Kept q) : (State.publishAll s).Kept q := by
  unfold State.publishAll
  repeat' with_reducible first | assumption | apply kept_store

theorem kept_applyFly (a) (h : s.Kept q) : (State.applyFly s a).Kept q := by
  unfold State.applyFly
  repeat' with_reducible first
    | assumption | apply kept_flyColls | apply kept_flyFlits | apply kept_flyTellTale | apply kept_flyHoist | apply kept_stopCombs
    | apply kept_cutReason | apply kept_ite | split | extract_lets | intro _

theorem kept_issueFly (a) (h : s.Kept q) : (State.issueFly s a).Kept q := by
  unfold State.issueFly
  repeat' with_reducible first | assumption | apply kept_flood | apply kept_applyFly

theorem kept_wakeFor (a) (h : s.Kept q) : (State.wakeFor s a).Kept q := by
  unfold State.wakeFor
  repeat' with_reducible first | assumption | apply kept_wake | apply kept_ite | split | extract_lets | intro _

theorem kept_execLetFlyMessage (a) (h : s.Kept q) : KeptOut q (execLetFlyMessage a s) := by
  unfold execLetFlyMessage
  repeat' with_reducible first
    | assumption | apply kept_ok | apply kept_modLnk | apply kept_flood | apply kept_applyFly | apply kept_wakeFor | apply kept_ite
    | apply kept_oite | split | extract_lets | intro _

theorem kept_resumeChannel (a b) (h : s.Kept q) : (State.resumeChannel a b s).Kept q := by
  unfold State.resumeChannel
  repeat' with_reducible first
    | assumption | apply kept_checkPrewarn | apply kept_releaseAtRoot | apply kept_countUp | apply kept_ite | split | extract_lets

theorem kept_resumeNode (a) (h : s.Kept q) : (State.resumeNode a s).Kept q := by
  unfold State.resumeNode
  repeat' with_reducible first
    | assumption | apply kept_forEach | apply kept_relayDown | apply kept_advance | apply kept_resendCopied | apply kept_resumeChannel
    | apply kept_ite | split | extract_lets | intro _

theorem kept_switchNode (a) (h : s.Kept q) : (State.switchNode s a).Kept q := by
  unfold State.switchNode
  repeat' with_reducible first | assumption | apply kept_publish | apply kept_ite | split | extract_lets | intro _

theorem kept_rehome (a b c d) (h : s.Kept q) : (State.rehome s a b c d).Kept q := h

theorem kept_rehomeOwn (a) (h : s.Kept q) : (State.rehomeOwn s a).Kept q := by
  unfold State.rehomeOwn
  repeat' with_reducible first | assumption | apply kept_rehome | apply kept_ite | split | extract_lets | intro _

theorem kept_takeOver (a) (h : s.Kept q) : (State.takeOver a s).Kept q := by
  unfold State.takeOver
  repeat' with_reducible first
    | assumption | apply kept_rehomeOwn | apply kept_switchNode | apply kept_forEach | apply kept_sendMsg | apply kept_event
    | apply kept_resumeNode | apply kept_ite | split | extract_lets | intro _

theorem kept_execHeartbeatSend (h : s.Kept q) : KeptOut q (execHeartbeatSend s) := by
  unfold execHeartbeatSend
  repeat' with_reducible first
    | assumption | apply kept_ok | apply kept_forEach | apply kept_sendMsg | apply kept_ite | apply kept_oite | split | extract_lets
    | intro _

theorem kept_execHeartbeat (a) (h : s.Kept q) : KeptOut q (execHeartbeat a s) := by
  unfold execHeartbeat
  repeat' with_reducible first
    | assumption | apply kept_ok | apply kept_onMsg | apply kept_consumeOrForward | split | extract_lets | intro _

theorem kept_execHeartbeatMissing (a) (h : s.Kept q) : KeptOut q (execHeartbeatMissing a s) := by
  unfold execHeartbeatMissing
  repeat' with_reducible first
    | assumption | apply kept_ok | apply kept_sendReport | apply kept_forEach | apply kept_takeOver | split | extract_lets | intro _

theorem kept_execTakeover (a) (h : s.Kept q) : KeptOut q (execTakeover a s) := by
  unfold execTakeover
  repeat' with_reducible first
    | assumption | apply kept_ok | apply kept_onMsg | apply kept_consumeOrForward | apply kept_wake | apply kept_switchNode
    | apply kept_rehome | apply kept_ite | apply kept_oite | split | extract_lets | intro _

theorem kept_failSignals (a) (h : s.Kept q) : (State.failSignals s a).Kept q := by
  unfold State.failSignals
  repeat' with_reducible first | assumption | apply kept_flush | apply kept_forEach | apply kept_answer | split | extract_lets | intro _

theorem kept_loseChip (a b) (h : s.Kept q) : (State.loseChip s a b).Kept q := by
  unfold State.loseChip
  repeat' with_reducible first
    | assumption | apply kept_forEach | apply kept_takeOver | apply kept_postFault | apply kept_event | apply kept_failSignals
    | apply kept_faultColls | apply kept_postRestore | apply kept_cutReason | apply kept_ite | split | extract_lets | intro _

theorem kept_execChipLost (a) (h : s.Kept q) : KeptOut q (execChipLost a s) := by
  unfold execChipLost
  repeat' with_reducible first
    | assumption | apply kept_ok | apply kept_loseChip | apply kept_ite | apply kept_oite | split | extract_lets | intro _

theorem kept_hearReport (a) (h : s.Kept q) : (State.hearReport s a).Kept q := by
  unfold State.hearReport
  repeat' with_reducible first
    | assumption | apply kept_postFault | apply kept_loseChip | apply kept_forEach | apply kept_takeOver | apply kept_ite | split
    | extract_lets | intro _

theorem kept_execFaultReport (a) (h : s.Kept q) : KeptOut q (execFaultReport a s) := by
  unfold execFaultReport
  repeat' with_reducible first
    | assumption | apply kept_ok | apply kept_onMsg | apply kept_hearReport | apply kept_flood | apply kept_consumeOrForward
    | apply kept_ite | apply kept_oite | split | extract_lets | intro _

theorem kept_relayTo (a b c) (h : s.Kept q) : (State.relayTo s a b c).Kept q := by
  unfold State.relayTo
  repeat' with_reducible first | assumption | apply kept_sendMsg

theorem kept_onRelay (a b c) (hc : ∀ x0 t, State.Kept q t → (c x0 t).Kept q) (h : s.Kept q) : (State.onRelay s a b c).Kept q := by
  unfold State.onRelay
  repeat' with_reducible first | assumption | apply kept_onMsg | apply kept_consumeOrForward | apply hc | split | extract_lets | intro _

theorem kept_execFeedQuery (a) (h : s.Kept q) : KeptOut q (execFeedQuery a s) := by
  unfold execFeedQuery
  repeat' with_reducible first | assumption | apply kept_ok | apply kept_onRelay | apply kept_relayTo | split | extract_lets | intro _

theorem kept_dropRelay (a) (h : s.Kept q) : (State.dropRelay s a).Kept q := h

theorem kept_execFeedReply (a) (h : s.Kept q) : KeptOut q (execFeedReply a s) := by
  unfold execFeedReply
  repeat' with_reducible first
    | assumption | apply kept_ok | apply kept_onRelay | apply kept_dropRelay | apply kept_respond | apply kept_ite | apply kept_oite
    | split | extract_lets | intro _

theorem kept_execWordReadRelay (a) (h : s.Kept q) : KeptOut q (execWordReadRelay a s) := by
  unfold execWordReadRelay
  repeat' with_reducible first
    | assumption | apply kept_ok | apply kept_onRelay | apply kept_relayTo | apply kept_ite | apply kept_oite | split | extract_lets
    | intro _

theorem kept_execWordReadReply (a) (h : s.Kept q) : KeptOut q (execWordReadReply a s) := by
  unfold execWordReadReply
  repeat' with_reducible first
    | assumption | apply kept_ok | apply kept_onRelay | apply kept_respond | apply kept_dropRelay | apply kept_ite | apply kept_oite
    | split | extract_lets | intro _

theorem kept_execRelayTimeout (h : s.Kept q) : KeptOut q (execRelayTimeout s) := by
  unfold execRelayTimeout
  repeat' with_reducible first | assumption | apply kept_ok | apply kept_respond | apply kept_dropRelay | split

theorem kept_take (a) (h : s.Kept q) : (State.take s a).Kept q := h

theorem kept_reply (a b c) (h : s.Kept q) : (State.reply s a b c).Kept q := by
  unfold State.reply
  repeat' with_reducible first | assumption | apply kept_respond

theorem kept_deny (a b) (h : s.Kept q) : (State.deny s a b).Kept q := by
  unfold State.deny
  repeat' with_reducible first | assumption | apply kept_respond

theorem kept_command (a b c d e f) (hf : ∀ x0 t, State.Kept q t → (f x0 t).Kept q) (h : s.Kept q) : (State.command s a b c d e f).Kept q := by
  unfold State.command
  repeat' with_reducible first
    | assumption | apply kept_deny | apply kept_take | apply hf | apply kept_ite | split | extract_lets | intro _

theorem kept_startLong (a b) (h : s.Kept q) : (State.startLong s a b).Kept q := by
  unfold State.startLong
  repeat' with_reducible first | assumption | apply kept_reply

theorem kept_execHello (a) (h : s.Kept q) : KeptOut q (execHello a s) := by
  unfold execHello
  repeat' with_reducible first | assumption | apply kept_ok | apply kept_command | apply kept_reply | split | extract_lets | intro _

theorem kept_execDebugChallenge (a b) (h : s.Kept q) : KeptOut q (execDebugChallenge a b s) := by
  unfold execDebugChallenge
  repeat' with_reducible first | assumption | apply kept_ok | apply kept_command | apply kept_reply | split | extract_lets | intro _

theorem kept_execDebugResponse (a b) (h : s.Kept q) : KeptOut q (execDebugResponse a b s) := by
  unfold execDebugResponse
  repeat' with_reducible first
    | assumption | apply kept_ok | apply kept_command | apply kept_reply | apply kept_deny | apply kept_ite | apply kept_oite | split
    | extract_lets | intro _

theorem kept_execDebugLock (a) (h : s.Kept q) : KeptOut q (execDebugLock a s) := by
  unfold execDebugLock
  repeat' with_reducible first | assumption | apply kept_ok | apply kept_command | apply kept_reply | split | extract_lets | intro _

theorem kept_execFwUpdateLoad (a) (h : s.Kept q) : KeptOut q (execFwUpdateLoad a s) := by
  unfold execFwUpdateLoad
  repeat' with_reducible first | assumption | apply kept_ok | apply kept_command | apply kept_startLong | split | extract_lets | intro _

theorem kept_execFwImageLoaded (a) (h : s.Kept q) : KeptOut q (execFwImageLoaded a s) := by
  unfold execFwImageLoaded
  repeat' with_reducible first
    | assumption | apply kept_ok | apply kept_endLong | apply kept_ite | apply kept_oite | split | extract_lets | intro _

theorem kept_execFwUpdateActivate (a) (h : s.Kept q) : KeptOut q (execFwUpdateActivate a s) := by
  unfold execFwUpdateActivate
  repeat' with_reducible first | assumption | apply kept_ok | apply kept_command | apply kept_reply | split | extract_lets | intro _

theorem kept_execFwUpdateCommit (a) (h : s.Kept q) : KeptOut q (execFwUpdateCommit a s) := by
  unfold execFwUpdateCommit
  repeat' with_reducible first
    | assumption | apply kept_ok | apply kept_command | apply kept_reply | apply kept_ite | apply kept_oite | split | extract_lets
    | intro _

theorem kept_execTopoRead (a) (h : s.Kept q) : KeptOut q (execTopoRead a s) := by
  unfold execTopoRead
  repeat' with_reducible first | assumption | apply kept_ok | apply kept_command | apply kept_reply | split | extract_lets | intro _

theorem kept_exchangeAs (a b c) (h : s.Kept q) : (State.exchangeAs a b c s).Kept q := by
  unfold State.exchangeAs
  repeat' with_reducible first | assumption | apply kept_modLnk

theorem kept_putPortBack (a) (h : s.Kept q) : (State.putPortBack a s).Kept q := by
  unfold State.putPortBack
  repeat' with_reducible first | assumption | apply kept_exchangeAs | split

theorem kept_reExchange (a) (h : s.Kept q) : (State.reExchange s a).Kept q := by
  unfold State.reExchange
  repeat' with_reducible first | assumption | apply kept_forEach | apply kept_exchangeAs | split | extract_lets | intro _

theorem kept_execTopoSet (a) (h : s.Kept q) : KeptOut q (execTopoSet a s) := by
  unfold execTopoSet
  repeat' with_reducible first
    | assumption | apply kept_ok | apply kept_command | apply kept_reExchange | apply kept_startLong | split | extract_lets | intro _

theorem kept_execTopoSetComplete (h : s.Kept q) : KeptOut q (execTopoSetComplete s) := by
  unfold execTopoSetComplete
  repeat' with_reducible first
    | assumption | apply kept_ok | apply kept_endLong | apply kept_forEach | apply kept_putPortBack | apply kept_publishAll | split
    | extract_lets | intro _

theorem kept_execGroupDefine (a) (h : s.Kept q) : KeptOut q (execGroupDefine a s) := by
  unfold execGroupDefine
  repeat' with_reducible first
    | assumption | apply kept_ok | apply kept_command | apply kept_reply | apply kept_publish | split | extract_lets | intro _

theorem kept_execGroupDelete (a) (h : s.Kept q) : KeptOut q (execGroupDelete a s) := by
  unfold execGroupDelete
  repeat' with_reducible first
    | assumption | apply kept_ok | apply kept_command | apply kept_reply | apply kept_publish | split | extract_lets | intro _

theorem kept_execContextBind (a) (h : s.Kept q) : KeptOut q (execContextBind a s) := by
  unfold execContextBind
  repeat' with_reducible first
    | assumption | apply kept_ok | apply kept_command | apply kept_setChan | apply kept_reply | split | extract_lets | intro _

theorem kept_execContextRearm (a) (h : s.Kept q) : KeptOut q (execContextRearm a s) := by
  unfold execContextRearm
  repeat' with_reducible first
    | assumption | apply kept_ok | apply kept_command | apply kept_reply | apply kept_setChan | split | extract_lets | intro _

theorem kept_execContextUnbind (a) (h : s.Kept q) : KeptOut q (execContextUnbind a s) := by
  unfold execContextUnbind
  repeat' with_reducible first
    | assumption | apply kept_ok | apply kept_command | apply kept_setChan | apply kept_reply | split | extract_lets | intro _

theorem kept_execPartnerSet (a) (h : s.Kept q) : KeptOut q (execPartnerSet a s) := by
  unfold execPartnerSet
  repeat' with_reducible first | assumption | apply kept_ok | apply kept_command | apply kept_relayTo | split | extract_lets | intro _

theorem remapWords_rising (a) (h : Tbl.Rising s.tt.words) : Tbl.Rising (State.remapWords s a).tt.words :=
  Tbl.foldl_rising (fun _ _ ht => Tbl.set_rising _ _ ht) (Tbl.filter_rising _ h)

theorem kept_remapWords (a) (h : s.Kept q) : (State.remapWords s a).Kept q :=
  ⟨h.queue, { h.sound with words_up := remapWords_rising a h.sound.words_up }⟩

/-- Values in their ranges stay so when checked entries are applied. -/
theorem policyApply_ok (es : List (Nat × Nat)) {t : Tbl Nat} (hes : ∀ e ∈ es, policyOk e.1 e.2 = true)
    (hw : Tbl.wf policyDefault t = true) (h : ∀ id ∈ policyIds, policyOk id (Tbl.get policyDefault t id) = true) :
    Tbl.wf policyDefault (policyApply t es) = true ∧
      ∀ id ∈ policyIds, policyOk id (Tbl.get policyDefault (policyApply t es) id) = true := by
  induction es generalizing t with
  | nil => exact ⟨hw, h⟩
  | cons e r ih =>
    refine ih (fun x hx => hes x (List.mem_cons_of_mem _ hx)) (Tbl.set_wf _ _ hw) (fun id hid => ?_)
    by_cases hi : id = e.1
    · subst hi
      rw [Tbl.get_set_same _ _ hw]
      exact hes e List.mem_cons_self
    · rw [Tbl.get_set_other _ hi]
      exact h id hid

theorem kept_applyPolicy (es) (hes : ∀ e ∈ es, policyOk e.1 e.2 = true)
    (ho : Tbl.get policyDefault (policyApply s.pol.vals es) 0x04 ≤ Tbl.get policyDefault (policyApply s.pol.vals es) 0x06 ∧
      Tbl.get policyDefault (policyApply s.pol.vals es) 0x06 ≤ Tbl.get policyDefault (policyApply s.pol.vals es) 0x05)
    (h : s.Kept q) : (s.applyPolicy es).Kept q := by
  have hp := policyApply_ok es hes h.sound.policy_wf h.sound.policy_ok
  have ht : ∀ b : Bool, Tbl.wf tagDefault (if b then { s.led with sbHeld := [] } else s.led).tags = true ∧
      Tbl.Rising (if b then { s.led with sbHeld := [] } else s.led).die := by
    intro b
    cases b <;> exact ⟨h.sound.tags_wf, h.sound.die_up⟩
  unfold State.applyPolicy
  split
  · exact ⟨h.queue, { h.sound with
      policy_wf := hp.1, policy_ok := hp.2, policy_le := ho, tags_wf := (ht _).1, die_up := (ht _).2
      words_up := remapWords_rising _ h.sound.words_up }⟩
  · exact ⟨h.queue, { h.sound with
      policy_wf := hp.1, policy_ok := hp.2, policy_le := ho, tags_wf := (ht _).1, die_up := (ht _).2 }⟩

/-- A condition of a list from which nothing was refused does not hold. -/
theorem firstDeny_none {l : List Check} (h : firstDeny l = none) {x : Check} (hx : x ∈ l) : x.1 = false := by
  simpa using List.find?_eq_none.1 (by simpa [firstDeny] using h) x hx

/-- A command whose own step needs what the checks have established. -/
theorem kept_command_checked {n code mine len checks} {run : Cmd → State → State} (h : s.Kept q)
    (hr : ∀ c, firstDeny (s.commonChecks c (len c) ++ checks s c) = none → (run c (s.take n)).Kept q) :
    (s.command n code mine len checks run).Kept q := by
  have ht := kept_take (s := s) n h
  unfold State.command
  extract_lets c
  clear_value c
  split
  · split
    · exact kept_deny _ _ ht
    split
    · exact h
    split
    · exact kept_deny _ _ ht
    · next e => exact hr c e
  · exact h

/-- The entries of a checked `POLICY_SET` are in their ranges, and leave the thresholds in order. -/
theorem policyChecks_pass {c : Cmd} (h : firstDeny (s.policyChecks c) = none) :
    (∀ e ∈ policyEntries c, policyOk e.1 e.2 = true) ∧
      Tbl.get policyDefault (policyApply s.pol.vals (policyEntries c)) 0x04 ≤
        Tbl.get policyDefault (policyApply s.pol.vals (policyEntries c)) 0x06 ∧
      Tbl.get policyDefault (policyApply s.pol.vals (policyEntries c)) 0x06 ≤
        Tbl.get policyDefault (policyApply s.pol.vals (policyEntries c)) 0x05 := by
  have H := fun {x} => firstDeny_none (x := x) h
  constructor
  · intro e he
    obtain ⟨k, hk⟩ : ∃ k, (e, k) ∈ (policyEntries c).zipIdx := by
      obtain ⟨k, hk, rfl⟩ := List.getElem_of_mem he
      exact ⟨k, List.mk_mem_zipIdx_iff_getElem?.2 (by simp [hk])⟩
    have := H (x := outOfRange (!policyOk e.1 e.2) (24 + 12 * k)) (by
      unfold State.policyChecks
      simp only [List.mem_append, List.mem_map]
      exact .inl (.inl (.inl (.inr ⟨_, hk, rfl⟩))))
    simpa [outOfRange] using this
  · have := H (x := invalid _ _) (by
      unfold State.policyChecks
      simp only [List.mem_append, List.mem_map]
      exact .inl (.inr (List.mem_cons_self)))
    simp only [invalid, Bool.or_eq_false_iff, decide_eq_false_iff_not] at this
    omega

theorem kept_execPolicySet (n) (h : s.Kept q) : KeptOut q (execPolicySet n s) := by
  unfold execPolicySet
  refine kept_ok (kept_command_checked h (fun c hc => kept_reply _ _ _ ?_))
  have hp := policyChecks_pass (s := s) (c := c) (by
    simp only [firstDeny, List.find?_append, Option.map_eq_none_iff, Option.or_eq_none_iff] at hc ⊢
    exact hc.2)
  exact kept_applyPolicy _ hp.1 hp.2 (kept_take n h)

theorem kept_execReefAllow (a) (h : s.Kept q) : KeptOut q (execReefAllow a s) := by
  unfold execReefAllow
  repeat' with_reducible first
    | assumption | apply kept_ok | apply kept_command | apply kept_reply | apply kept_ite | apply kept_oite | split | extract_lets
    | intro _

theorem kept_execLetFly (a) (h : s.Kept q) : KeptOut q (execLetFly a s) := by
  unfold execLetFly
  repeat' with_reducible first
    | assumption | apply kept_ok | apply kept_command | apply kept_reply | apply kept_issueFly | split | extract_lets | intro _

theorem kept_clearCounters (l) (h : s.Kept q) : (s.clearCounters l).Kept q := by
  have H : ∀ (l : List Nat) (t : Tbl Nat), Tbl.wf counterDefault t = true → (∀ i, Tbl.get counterDefault t i ≤ 0xFFFFFFFF) →
      Tbl.wf counterDefault (l.foldl (fun t i => Tbl.set counterDefault t i 0) t) = true ∧
        ∀ i, Tbl.get counterDefault (l.foldl (fun t i => Tbl.set counterDefault t i 0) t) i ≤ 0xFFFFFFFF := by
    intro l
    induction l with
    | nil => exact fun t hw hl => ⟨hw, hl⟩
    | cons x r ih => exact fun t hw hl => ih _ (Tbl.set_wf _ _ hw) (counters_le_set _ _ (Nat.zero_le _) hw hl)
  have := H l s.counters h.sound.counters_wf h.sound.counters_le
  exact ⟨h.queue, { h.sound with counters_wf := this.1, counters_le := this.2 }⟩

theorem kept_execCountersRead (a) (h : s.Kept q) : KeptOut q (execCountersRead a s) := by
  unfold execCountersRead
  repeat' with_reducible first
    | assumption | apply kept_ok | apply kept_command | apply kept_reply | apply kept_clearCounters | apply kept_ite | apply kept_oite
    | split | extract_lets | intro _

theorem kept_execSyncInspect (a) (h : s.Kept q) : KeptOut q (execSyncInspect a s) := by
  unfold execSyncInspect
  repeat' with_reducible first
    | assumption | apply kept_ok | apply kept_command | apply kept_reply | apply kept_forEach | apply kept_relayTo | apply kept_ite
    | apply kept_oite | split | extract_lets | intro _

theorem kept_execLedgerInspect (a) (h : s.Kept q) : KeptOut q (execLedgerInspect a s) := by
  unfold execLedgerInspect
  repeat' with_reducible first
    | assumption | apply kept_ok | apply kept_command | apply kept_reply | apply kept_ite | apply kept_oite | split | extract_lets
    | intro _

theorem kept_execSpareMapRead (a) (h : s.Kept q) : KeptOut q (execSpareMapRead a s) := by
  unfold execSpareMapRead
  repeat' with_reducible first | assumption | apply kept_ok | apply kept_command | apply kept_reply | split | extract_lets | intro _

theorem kept_execDumpFetch (a) (h : s.Kept q) : KeptOut q (execDumpFetch a s) := by
  unfold execDumpFetch
  repeat' with_reducible first
    | assumption | apply kept_ok | apply kept_command | apply kept_reply | apply kept_ite | apply kept_oite | split | extract_lets
    | intro _

theorem kept_winErr (a) (h : s.Kept q) : (State.winErr s a).Kept q := by
  unfold State.winErr
  repeat' with_reducible first | assumption | apply kept_ite | split | extract_lets | intro _

theorem kept_writeWerr (a) (h : s.Kept q) : (State.writeWerr s a).Kept q := by
  unfold State.writeWerr
  repeat' with_reducible first | assumption | apply kept_winErr | apply kept_ite | split | extract_lets | intro _

theorem kept_ring (a) (h : s.Kept q) : (State.ring s a).Kept q := by
  unfold State.ring
  repeat' with_reducible first | assumption | apply kept_winErr | apply kept_wake | apply kept_ite | split | extract_lets | intro _

theorem kept_writeRspHead (v) (h : s.Kept q) : (s.writeRspHead v).Kept q := by
  unfold State.writeRspHead
  extract_lets
  split
  · exact kept_winErr _ h
  · next hv => exact ⟨h.queue, { h.sound with head_lt := by dsimp only; omega }⟩

theorem kept_clearIrq (a) (h : s.Kept q) : (State.clearIrq s a).Kept q := by
  unfold State.clearIrq
  repeat' with_reducible first | assumption | apply kept_winErr | apply kept_ite | split | extract_lets | intro _

theorem kept_writeIrqMask (a) (h : s.Kept q) : (State.writeIrqMask s a).Kept q := by
  unfold State.writeIrqMask
  repeat' with_reducible first | assumption | apply kept_winErr | apply kept_ite | split | extract_lets | intro _

theorem kept_writeIrqVec (a) (h : s.Kept q) : (State.writeIrqVec s a).Kept q := by
  unfold State.writeIrqVec
  repeat' with_reducible first | assumption | apply kept_winErr | apply kept_ite | split | extract_lets | intro _

theorem kept_capture (a) (h : s.Kept q) : (State.capture s a).Kept q := by
  unfold State.capture
  repeat' with_reducible first | assumption | apply kept_winErr | apply kept_ite | split | extract_lets | intro _

theorem kept_writeReg (a b) (h : s.Kept q) : (State.writeReg s a b).Kept q := by
  unfold State.writeReg
  repeat' with_reducible first
    | assumption | apply kept_writeWerr | apply kept_ring | apply kept_writeRspHead | apply kept_clearIrq | apply kept_writeIrqMask
    | apply kept_writeIrqVec | apply kept_capture | apply kept_winErr | split

theorem kept_hostStore (a b c) (h : s.Kept q) : (State.hostStore s a b c).Kept q := by
  unfold State.hostStore
  repeat' with_reducible first | assumption | apply kept_winErr | apply kept_writeReg | apply kept_ite | split | extract_lets | intro _

theorem kept_execHostWindowWrite (a b c) (h : s.Kept q) : KeptOut q (execHostWindowWrite a b c s) := by
  unfold execHostWindowWrite
  repeat' with_reducible first | assumption | apply kept_ok | apply kept_hostStore

theorem kept_execHwDoorbell (a) (h : s.Kept q) : KeptOut q (execHwDoorbell a s) := by
  unfold execHwDoorbell
  repeat' with_reducible first | assumption | apply kept_ok | apply kept_hostStore

theorem kept_execHwRspHead (a) (h : s.Kept q) : KeptOut q (execHwRspHead a s) := by
  unfold execHwRspHead
  repeat' with_reducible first | assumption | apply kept_ok | apply kept_hostStore

theorem kept_execHwIrqMask (a) (h : s.Kept q) : KeptOut q (execHwIrqMask a s) := by
  unfold execHwIrqMask
  repeat' with_reducible first | assumption | apply kept_ok | apply kept_hostStore

theorem kept_execTtInspectSel (a) (h : s.Kept q) : KeptOut q (execTtInspectSel a s) := by
  unfold execTtInspectSel
  repeat' with_reducible first | assumption | apply kept_ok | apply kept_hostStore

end Sys2Proof.Machine
end

