-- ==== Sys2Proof/Laws/Frame.lean ====
section
/-! SUPPORT. What no operation of the engines touches: `s.Core q` says that `s` agrees with `q` on the topology, the policy, the
units, the dump, the durable images, the security state, the host's inputs, and on Masthead but for its state code and the cinch. One lemma
per operation carries it over. -/

namespace Sys2Proof.Machine

open Sys2Proof

/-- The parts that the engines leave alone. -/
structure CoreParts (q : State) (pending : List Instr) (remote : List Host.Cell) (topo : Topo) (pol : PolicyState) (units : UnitState) (dump : DumpState) (cut : CutState) (debug : Bool) (sec : SecState) (tap : TapState) (regions : Regions) (phy : Tbl Nat) (taps : Tbl Word32) (ready : Bool) (hello : Bool) (relay : List Relay) (tests : List TestRun) (cals : List Nat) (flashWait : List FlashCopy) (cause : Nat) (halted : Bool) : Prop where
  pending : pending = q.pending
  remote : remote = q.remote
  topo : topo = q.topo
  pol : pol = q.pol
  units : units = q.units
  dump : dump = q.dump
  cut : cut = q.cut
  debug : debug = q.debug
  sec : sec = q.sec
  tap : tap = q.tap
  regions : regions = q.inp.regions
  phy : phy = q.inp.phy
  taps : taps = q.inp.taps
  ready : ready = q.mh.ready
  hello : hello = q.mh.hello
  relay : relay = q.mh.relay
  tests : tests = q.mh.tests
  cals : cals = q.mh.cals
  flashWait : flashWait = q.mh.flashWait
  cause : cause = q.mh.cause
  halted : halted = q.mh.halted

/-- `s` agrees with `q` on them. -/
abbrev State.Core (s q : State) : Prop := CoreParts q s.pending s.remote s.topo s.pol s.units s.dump s.cut s.debug s.sec s.tap s.inp.regions s.inp.phy s.inp.taps s.mh.ready s.mh.hello s.mh.relay s.mh.tests s.mh.cals s.mh.flashWait s.mh.cause s.mh.halted

theorem State.core_refl (s : State) : s.Core s := ⟨rfl, rfl, rfl, rfl, rfl, rfl, rfl, rfl, rfl, rfl, rfl, rfl, rfl, rfl, rfl, rfl, rfl, rfl, rfl, rfl, rfl⟩

variable {q s : State}

/-- A next state agrees with `q`. -/
def CoreOut (q : State) : Host.Outcome State Fault Refusal → Prop
  | .next t => State.Core t q
  | _ => True

theorem core_ite {c : Prop} [Decidable c] {a b : State} (ha : c → a.Core q) (hb : ¬c → b.Core q) :
    (if c then a else b).Core q := by
  split
  · exact ha ‹_›
  · exact hb ‹_›

theorem core_forEach {α : Type} {l : List α} {f : α → State → State} (hf : ∀ x t, State.Core t q → (f x t).Core q)
    (h : s.Core q) : (forEach l f s).Core q := by
  unfold forEach
  induction l generalizing s with
  | nil => exact h
  | cons x r ih => exact ih (hf x s h)

theorem core_ok (h : s.Core q) : CoreOut q (ok s) := h

theorem core_next (h : s.Core q) : CoreOut q (.next s) := h

theorem core_fault {f : Fault} : CoreOut q (.fault f) := trivial

theorem core_oite {c : Prop} [Decidable c] {a b : Host.Outcome State Fault Refusal} (ha : c → CoreOut q a)
    (hb : ¬c → CoreOut q b) : CoreOut q (if c then a else b) := by
  split
  · exact ha ‹_›
  · exact hb ‹_›

theorem core_store (a b) (h : s.Core q) : (store s a b).Core q := h

theorem core_storeFree (a b) (h : s.Core q) : (storeFree s a b).Core q := h

theorem core_within (a) (h : s.Core q) : CoreOut q (within a s) := by
  unfold within
  repeat' with_reducible first
    | assumption | apply core_next | apply core_fault | apply core_ite | apply core_oite | split | extract_lets | intro _

theorem core_setPort (a b) (h : s.Core q) : (s.setPort a b).Core q := h

theorem core_modPort (a b) (h : s.Core q) : (State.modPort s a b).Core q := by
  unfold State.modPort
  repeat' with_reducible first | assumption | apply core_setPort

theorem core_bump (a b) (h : s.Core q) : (s.bump a b).Core q := h

theorem core_raiseIrq (a) (h : s.Core q) : (State.raiseIrq s a).Core q := h

theorem core_writeRecord (a b c d e f) (h : s.Core q) : (s.writeRecord a b c d e f).Core q := h

theorem core_respond (a b c d e f) (h : s.Core q) : (State.respond s a b c d e f).Core q := by
  unfold State.respond
  repeat' with_reducible first | assumption | apply core_raiseIrq | apply core_writeRecord

theorem core_event (a b) (h : s.Core q) : (State.event s a b).Core q := by
  unfold State.event
  repeat' with_reducible first
    | assumption | apply core_raiseIrq | apply core_writeRecord | apply core_ite | split | extract_lets | intro _

theorem core_setLnk (a b) (h : s.Core q) : (s.setLnk a b).Core q := h

theorem core_modLnk (a b) (h : s.Core q) : (State.modLnk s a b).Core q := by
  unfold State.modLnk
  repeat' with_reducible first | assumption | apply core_setLnk

theorem core_sendMsg (a b c) (h : s.Core q) : (State.sendMsg s a b c).Core q := by
  unfold State.sendMsg
  repeat' with_reducible first | assumption | apply core_modLnk | split

theorem core_countSent (a) (h : s.Core q) : (State.countSent s a).Core q := by
  unfold State.countSent
  repeat' with_reducible first | assumption | apply core_ite | split | extract_lets | intro _

theorem core_countRecv (a) (h : s.Core q) : (State.countRecv s a).Core q := by
  unfold State.countRecv
  repeat' with_reducible first | assumption | apply core_ite | split | extract_lets | intro _

theorem core_originate (a b c) (h : s.Core q) : (State.originate s a b c).Core q := by
  unfold State.originate
  repeat' with_reducible first | assumption | apply core_sendMsg | apply core_countSent

theorem core_sendFlit (a b c) (h : s.Core q) : (State.sendFlit s a b c).Core q := by
  unfold State.sendFlit
  repeat' with_reducible first | assumption | apply core_modLnk

theorem core_sendFlits (a b c) (h : s.Core q) : (State.sendFlits s a b c).Core q := by
  unfold State.sendFlits
  repeat' with_reducible first | assumption | apply core_modLnk

theorem core_endLong (a b c) (h : s.Core q) : (State.endLong s a b c).Core q := by
  unfold State.endLong
  repeat' with_reducible first | assumption | apply core_respond | split

theorem core_wake (h : s.Core q) : (State.wake s).Core q := by
  unfold State.wake
  repeat' with_reducible first | assumption | apply core_endLong | apply core_ite | split | extract_lets | intro _

theorem core_setWord (a b) (h : s.Core q) : (State.setWord s a b).Core q := h

theorem core_setShadow (a b) (h : s.Core q) : (State.setShadow s a b).Core q := h

theorem core_answer (a b c d e) (h : s.Core q) : (State.answer s a b c d e).Core q := by
  unfold State.answer
  repeat' with_reducible first | assumption | apply core_modPort

theorem core_endWait (a b c) (h : s.Core q) : (State.endWait s a b c).Core q := by
  unfold State.endWait
  repeat' with_reducible first | assumption | apply core_modPort

theorem core_answerWait (a b c d) (h : s.Core q) : (State.answerWait s a b c d).Core q := by
  unfold State.answerWait
  repeat' with_reducible first | assumption | apply core_answer | apply core_endWait

theorem core_logSync (a b c d) (h : s.Core q) : (s.logSync a b c d).Core q := by
  unfold State.logSync
  extract_lets e t
  split
  · exact h
  · exact h

theorem core_logDrift (e) (h : s.Core q) : (s.logDrift e).Core q := by
  unfold State.logDrift
  split
  · exact h
  · exact h

theorem core_onMsg (a b c d) (hd : ∀ x0 t, State.Core t q → (d x0 t).Core q) (h : s.Core q) : (State.onMsg s a b c d).Core q := by
  unfold State.onMsg
  repeat' with_reducible first | assumption | apply core_modLnk | apply hd | apply core_ite | split | extract_lets | intro _

theorem core_consumeOrForward (a b c d) (hd : ∀ t, State.Core t q → (d t).Core q)
    (h : s.Core q) : (State.consumeOrForward s a b c d).Core q := by
  unfold State.consumeOrForward
  repeat' with_reducible first
    | assumption | apply core_countRecv | apply core_sendMsg | apply hd | apply core_ite | split | extract_lets | intro _

theorem core_setChan (a b) (h : s.Core q) : (s.setChan a b).Core q := h

theorem core_modChan (a b) (h : s.Core q) : (State.modChan s a b).Core q := by
  unfold State.modChan
  repeat' with_reducible first | assumption | apply core_setChan

theorem core_pulse (a) (h : s.Core q) : (State.pulse s a).Core q := h

theorem core_answerBarrier (a b c d) (h : s.Core q) : (State.answerBarrier s a b c d).Core q := by
  unfold State.answerBarrier
  repeat' with_reducible first | assumption | apply core_answer | apply core_endWait

theorem core_endBarrierWaits (a b c d) (h : s.Core q) : (State.endBarrierWaits s a b c d).Core q := by
  unfold State.endBarrierWaits
  repeat' with_reducible first
    | assumption | apply core_setChan | apply core_forEach | apply core_answerBarrier | split | extract_lets | intro _

theorem core_releaseStepAt (a b) (h : s.Core q) : (State.releaseStepAt s a b).Core q := by
  unfold State.releaseStepAt
  repeat' with_reducible first | assumption | apply core_setChan | apply core_endBarrierWaits

theorem core_decideRelease (a b c) (h : s.Core q) : (State.decideRelease s a b c).Core q := by
  unfold State.decideRelease
  repeat' with_reducible first | assumption | apply core_pulse | apply core_releaseStepAt

theorem core_prewarn (a) (h : s.Core q) : (State.prewarn s a).Core q := by
  unfold State.prewarn
  repeat' with_reducible first | assumption | apply core_pulse | apply core_modChan | apply core_ite | split | extract_lets | intro _

theorem core_endPhase (a b) (h : s.Core q) : (State.endPhase s a b).Core q := by
  unfold State.endPhase
  repeat' with_reducible first
    | assumption | apply core_prewarn | apply core_modChan | apply core_decideRelease | apply core_ite | split | extract_lets
    | intro _

theorem core_trimWord (a) (h : s.Core q) : (State.trimWord a s).Core q := by
  unfold State.trimWord
  repeat' with_reducible first | assumption | apply core_setWord | apply core_logDrift

theorem core_trimCheck (a) (h : s.Core q) : (State.trimCheck s a).1.Core q := by
  unfold State.trimCheck
  repeat' with_reducible first | assumption | apply core_forEach | apply core_trimWord | split | extract_lets | intro _

theorem core_foreignDrift (a) (h : s.Core q) : (State.foreignDrift s a).1.Core q := h

theorem core_chipDrift (a) (h : s.Core q) : (State.chipDrift s a).1.Core q := by
  unfold State.chipDrift
  repeat' with_reducible first | assumption | apply core_trimCheck | apply core_foreignDrift

theorem core_barrierTo (a b c d e f) (h : s.Core q) : (State.barrierTo s a b c d e f).Core q := by
  unfold State.barrierTo
  repeat' with_reducible first | assumption | apply core_forEach | apply core_originate | split | extract_lets | intro _

theorem core_checkPrewarn (a b) (h : s.Core q) : (State.checkPrewarn s a b).Core q := by
  unfold State.checkPrewarn
  repeat' with_reducible first
    | assumption | apply core_barrierTo | apply core_prewarn | apply core_ite | split | extract_lets | intro _

theorem core_releaseAtRoot (ch g) (h : s.Core q) : (s.releaseAtRoot ch g).Core q := by
  have hd := core_chipDrift g h
  unfold State.releaseAtRoot
  extract_lets x c drift s0
  have h0 : s0.Core q := core_ite (fun _ => hd) (fun _ => h)
  clear_value s0
  repeat' with_reducible first | assumption | apply core_endPhase | apply core_barrierTo | apply core_ite | extract_lets | intro _

theorem core_countUp (ch g n a c) (h : s.Core q) : (State.countUp ch g n a c s).Core q := by
  induction n generalizing s a c with
  | zero => exact h
  | succ n ih =>
    unfold State.countUp
    repeat' with_reducible first
      | assumption | apply ih | apply core_releaseAtRoot | apply core_checkPrewarn | apply core_setChan | apply core_barrierTo | apply core_ite
      | split | extract_lets | intro _

theorem core_afterArrival (a b) (h : s.Core q) : (State.afterArrival s a b).Core q := by
  unfold State.afterArrival
  repeat' with_reducible first
    | assumption | apply core_checkPrewarn | apply core_countUp | apply core_setChan | apply core_ite | split | extract_lets | intro _

theorem core_answerChannel (a b c d e f) (h : s.Core q) : (State.answerChannel s a b c d e f).Core q := by
  unfold State.answerChannel
  repeat' with_reducible first | assumption | apply core_answer | apply core_endWait | apply core_ite | split | extract_lets | intro _

theorem core_applyArrive (a b) (h : s.Core q) : (State.applyArrive s a b).Core q := by
  unfold State.applyArrive
  repeat' with_reducible first
    | assumption | apply core_answerChannel | apply core_setChan | apply core_answer | apply core_afterArrival | apply core_ite
    | split | extract_lets | intro _

theorem core_applyBwait (a b) (h : s.Core q) : (State.applyBwait s a b).Core q := by
  unfold State.applyBwait
  repeat' with_reducible first
    | assumption | apply core_answerChannel | apply core_setChan | apply core_ite | split | extract_lets | intro _

theorem core_breakHere (a) (h : s.Core q) : (State.breakHere s a).Core q := by
  unfold State.breakHere
  repeat' with_reducible first | assumption | apply core_modChan | apply core_endBarrierWaits

theorem core_breakChannel (a b) (h : s.Core q) : (State.breakChannel s a b).Core q := by
  unfold State.breakChannel
  repeat' with_reducible first | assumption | apply core_breakHere | apply core_barrierTo | split

theorem core_flyChannel (a b) (h : s.Core q) : (State.flyChannel a b s).Core q := by
  unfold State.flyChannel
  repeat' with_reducible first | assumption | apply core_setChan | apply core_endBarrierWaits

theorem core_flyMembers (a b) (h : s.Core q) : (State.flyMembers a b s).Core q := by
  unfold State.flyMembers
  repeat' with_reducible first | assumption | apply core_setChan | apply core_endBarrierWaits

theorem core_execBarrierWaitTimeout (a b) (h : s.Core q) : CoreOut q (execBarrierWaitTimeout a b s) := by
  unfold execBarrierWaitTimeout
  repeat' with_reducible first | assumption | apply core_ok | apply core_answerBarrier | apply core_setChan | split | extract_lets

theorem core_execReleaseStep (a) (h : s.Core q) : CoreOut q (execReleaseStep a s) := by
  unfold execReleaseStep
  repeat' with_reducible first
    | assumption | apply core_ok | apply core_releaseStepAt | apply core_ite | apply core_oite | split | extract_lets | intro _

theorem core_execFleetWaitExpiry (a) (h : s.Core q) : CoreOut q (execFleetWaitExpiry a s) := by
  unfold execFleetWaitExpiry
  repeat' with_reducible first | assumption | apply core_ok | apply core_decideRelease | split

theorem core_onChannel (a b) (hb : ∀ x0 x1 t, State.Core t q → (b x0 x1 t).Core q) (h : s.Core q) : (State.onChannel s a b).Core q := by
  unfold State.onChannel
  repeat' with_reducible first | assumption | apply core_logSync | apply hb | split | extract_lets

theorem core_followPhase (a b c) (h : s.Core q) : (State.followPhase s a b c).Core q := by
  unfold State.followPhase
  repeat' with_reducible first | assumption | apply core_modChan | apply core_ite | split | extract_lets | intro _

theorem core_execBarArrive (a) (h : s.Core q) : CoreOut q (execBarArrive a s) := by
  unfold execBarArrive
  repeat' with_reducible first
    | assumption | apply core_ok | apply core_onMsg | apply core_consumeOrForward | apply core_onChannel | apply core_followPhase
    | apply core_modChan | apply core_checkPrewarn | apply core_releaseAtRoot | apply core_countUp | apply core_ite | apply core_oite
    | split | extract_lets | intro _

theorem core_execBarRelease (a) (h : s.Core q) : CoreOut q (execBarRelease a s) := by
  unfold execBarRelease
  repeat' with_reducible first
    | assumption | apply core_ok | apply core_onMsg | apply core_consumeOrForward | apply core_onChannel | apply core_barrierTo
    | apply core_chipDrift | apply core_modChan | apply core_endPhase | apply core_ite | apply core_oite | split | extract_lets
    | intro _

theorem core_execBarOrphan (a) (h : s.Core q) : CoreOut q (execBarOrphan a s) := by
  unfold execBarOrphan
  repeat' with_reducible first
    | assumption | apply core_ok | apply core_onMsg | apply core_consumeOrForward | apply core_onChannel | apply core_endBarrierWaits
    | apply core_breakChannel | apply core_ite | apply core_oite | split | extract_lets | intro _

theorem core_execBarPrewarn (a) (h : s.Core q) : CoreOut q (execBarPrewarn a s) := by
  unfold execBarPrewarn
  repeat' with_reducible first
    | assumption | apply core_ok | apply core_onMsg | apply core_consumeOrForward | apply core_onChannel | apply core_barrierTo
    | apply core_prewarn | apply core_ite | apply core_oite | split | extract_lets | intro _

theorem core_postFault (a b c d e f) (h : s.Core q) : (State.postFault s a b c d e f).Core q := by
  unfold State.postFault
  repeat' with_reducible first | assumption | apply core_event | apply core_wake

theorem core_postRestore (a b) (h : s.Core q) : (State.postRestore s a b).Core q := by
  unfold State.postRestore
  repeat' with_reducible first | assumption | apply core_event

theorem core_postPoison (h : s.Core q) : (State.postPoison s).Core q := by
  unfold State.postPoison
  repeat' with_reducible first | assumption | apply core_postFault

theorem core_pushDone (a b) (h : s.Core q) : (State.pushDone s a b).Core q := by
  unfold State.pushDone
  repeat' with_reducible first | assumption | apply core_modPort

theorem core_sortMsgs (a b c) (h : s.Core q) : (State.sortMsgs s a b c).1.Core q := by
  unfold State.sortMsgs
  repeat' with_reducible first | assumption | apply core_bump | apply core_forEach | apply core_logSync | split | extract_lets | intro _

theorem core_writeEntry (a b c) (h : s.Core q) : (State.writeEntry s a b c).Core q := by
  unfold State.writeEntry
  extract_lets i
  split
  · split
    · exact h
    · exact core_store _ _ h
  · exact h

theorem core_setTag (a b) (h : s.Core q) : (s.setTag a b).Core q := h

theorem core_writeRow (a b c) (h : s.Core q) : (State.writeRow s a b c).Core q := by
  unfold State.writeRow
  repeat' with_reducible first | assumption | apply core_writeEntry

theorem core_closeRow (a) (h : s.Core q) : (State.closeRow s a).Core q := by
  unfold State.closeRow
  repeat' with_reducible first | assumption | apply core_setTag

theorem core_freeSlot (a) (h : s.Core q) : (State.freeSlot s a).Core q := by
  unfold State.freeSlot
  repeat' with_reducible first | assumption | apply core_setTag

theorem core_settleTag (a) (h : s.Core q) : (State.settleTag s a).Core q := by
  unfold State.settleTag
  repeat' with_reducible first | assumption | apply core_freeSlot | apply core_ite | split | extract_lets | intro _

theorem core_finishCombs (h : s.Core q) : (State.finishCombs s).Core q := by
  unfold State.finishCombs
  repeat' with_reducible first | assumption | apply core_forEach | apply core_pushDone | apply core_ite | split | extract_lets | intro _

theorem core_stopCombs (a b) (h : s.Core q) : (State.stopCombs s a b).Core q := by
  unfold State.stopCombs
  repeat' with_reducible first | assumption | apply core_finishCombs

theorem core_cancelRow (a b c) (h : s.Core q) : (State.cancelRow s a b c).Core q := by
  unfold State.cancelRow
  repeat' with_reducible first | assumption | apply core_writeRow | apply core_ite | split | extract_lets | intro _

theorem core_cancelTag (a) (h : s.Core q) : (State.cancelTag s a).Core q := by
  unfold State.cancelTag
  repeat' with_reducible first
    | assumption | apply core_stopCombs | apply core_setTag | apply core_forEach | apply core_cancelRow | apply core_settleTag
    | apply core_ite | split | extract_lets | intro _

theorem core_releaseTag (a) (h : s.Core q) : (State.releaseTag s a).Core q := by
  unfold State.releaseTag
  repeat' with_reducible first
    | assumption | apply core_forEach | apply core_writeRow | apply core_setTag | apply core_settleTag | apply core_stopCombs
    | apply core_ite | split | extract_lets | intro _

theorem core_loseEntry (a b c) (h : s.Core q) : (State.loseEntry s a b c).Core q := by
  unfold State.loseEntry
  repeat' with_reducible first | assumption | apply core_cancelTag | apply core_postFault | split

theorem core_tokenReady (a b) (h : s.Core q) : (State.tokenReady s a b).Core q := h

theorem core_readyFound (a b) (h : s.Core q) : (State.readyFound s a b).Core q := by
  unfold State.readyFound
  repeat' with_reducible first | assumption | apply core_forEach | apply core_tokenReady | split | extract_lets | intro _

theorem core_firstNotice (a b c d e) (h : s.Core q) : (State.firstNotice s a b c d e).Core q := by
  unfold State.firstNotice
  repeat' with_reducible first
    | assumption | apply core_bump | apply core_settleTag | apply core_writeRow | apply core_tokenReady | apply core_ite | split
    | extract_lets | intro _

theorem core_applyNotice (a) (h : s.Core q) : (State.applyNotice s a).Core q := by
  unfold State.applyNotice
  repeat' with_reducible first
    | assumption | apply core_bump | apply core_firstNotice | apply core_loseEntry | apply core_ite | split | extract_lets | intro _

theorem core_abandonRoute (a) (h : s.Core q) : (State.abandonRoute s a).Core q := by
  have h1 : (s.setTag a (tagDefault 0)).Core q := by repeat' with_reducible first | assumption | apply core_setTag
  exact h1

theorem core_execTagQuarantineExpiry (a) (h : s.Core q) : CoreOut q (execTagQuarantineExpiry a s) := by
  unfold execTagQuarantineExpiry
  repeat' with_reducible first
    | assumption | apply core_forEach | apply core_writeRow | apply core_wake | apply core_freeSlot | apply core_bump | apply core_ok
    | apply core_postFault | apply core_ite | apply core_oite | split | extract_lets | intro _

theorem core_modComb (a b) (h : s.Core q) : (State.modComb s a b).Core q := h

theorem core_startComb (a b c) (h : s.Core q) : (State.startComb s a b c).Core q := by
  unfold State.startComb
  repeat' with_reducible first | assumption | apply core_finishCombs

theorem core_execCombineLaneBegin (a b) (h : s.Core q) : CoreOut q (execCombineLaneBegin a b s) := by
  unfold execCombineLaneBegin
  repeat' with_reducible first
    | assumption | apply core_ok | apply core_modComb | apply core_stopCombs | apply core_loseEntry | apply core_ite | apply core_oite
    | split | extract_lets | intro _

theorem core_execRowReadReturn (a b) (h : s.Core q) : CoreOut q (execRowReadReturn a b s) := by
  unfold execRowReadReturn
  repeat' with_reducible first | assumption | apply core_ok | apply core_modComb | split

theorem core_markCombined (a b) (h : s.Core q) : (State.markCombined s a b).Core q := by
  unfold State.markCombined
  repeat' with_reducible first
    | assumption | apply core_settleTag | apply core_closeRow | apply core_writeRow | apply core_loseEntry | apply core_stopCombs
    | split | extract_lets

theorem core_execRowWriteVisible (a b) (h : s.Core q) : CoreOut q (execRowWriteVisible a b s) := by
  unfold execRowWriteVisible
  repeat' with_reducible first
    | assumption | apply core_ok | apply core_forEach | apply core_store | apply core_markCombined | apply core_modComb
    | apply core_finishCombs | apply core_ite | apply core_oite | split | extract_lets | intro _

theorem core_execCombineLimitExpiry (a) (h : s.Core q) : CoreOut q (execCombineLimitExpiry a s) := by
  unfold execCombineLimitExpiry
  repeat' with_reducible first | assumption | apply core_ok | apply core_stopCombs

theorem core_setColl (a) (h : s.Core q) : (State.setColl s a).Core q := h

theorem core_modColl (a b c) (h : s.Core q) : (State.modColl s a b c).Core q := h

theorem core_tidyColls (h : s.Core q) : (State.tidyColls s).Core q := h

theorem core_cutReason (a) (h : s.Core q) : (State.cutReason s a).Core q := h

theorem core_recordEpoch (a b c) (h : s.Core q) : (State.recordEpoch s a b c).Core q := by
  unfold State.recordEpoch
  repeat' with_reducible first | assumption | apply core_cutReason | apply core_ite | split | extract_lets | intro _

theorem core_answerFlight (a b c d) (h : s.Core q) : (State.answerFlight s a b c d).Core q := by
  unfold State.answerFlight
  repeat' with_reducible first
    | assumption | apply core_answer | apply core_endWait | apply core_logSync | apply core_originate | apply core_ite | split
    | extract_lets | intro _

theorem core_releaseDrain (a) (h : s.Core q) : (State.releaseDrain s a).Core q := by
  unfold State.releaseDrain
  repeat' with_reducible first
    | assumption | apply core_forEach | apply core_answerWait | apply core_setWord | apply core_ite | split | extract_lets | intro _

theorem core_serveQueue (w l) (h : s.Core q) : (State.serveQueue w l s).Core q := by
  induction l generalizing s with
  | nil => exact h
  | cons x r ih =>
    unfold State.serveQueue
    repeat' with_reducible first | assumption | apply ih | apply core_answerWait | apply core_setWord | apply core_ite | extract_lets | intro _

theorem core_manage (a b) (h : s.Core q) : (State.manage s a b).Core q := by
  unfold State.manage
  repeat' with_reducible first
    | assumption | apply core_answerFlight | apply core_setShadow | apply core_setWord | apply core_ite | split | extract_lets
    | intro _

theorem core_join (a b) (h : s.Core q) : (State.join s a b).Core q := by
  unfold State.join
  repeat' with_reducible first
    | assumption | apply core_answerFlight | apply core_setWord | apply core_releaseDrain | apply core_ite | split | extract_lets
    | intro _

theorem core_signal (a b) (h : s.Core q) : (State.signal s a b).Core q := by
  unfold State.signal
  repeat' with_reducible first
    | assumption | apply core_answerFlight | apply core_answerWait | apply core_setWord | apply core_releaseDrain
    | apply core_serveQueue | apply core_ite | split | extract_lets | intro _

theorem core_decrement (a b) (h : s.Core q) : (State.decrement s a b).Core q := by
  unfold State.decrement
  repeat' with_reducible first
    | assumption | apply core_answerFlight | apply core_setWord | apply core_releaseDrain | apply core_ite | split | extract_lets
    | intro _

theorem core_atWord (w f) (h : s.Core q) : (s.atWord w f).Core q := by
  unfold State.atWord
  extract_lets top t
  have ht : t.Core q := by
    repeat' with_reducible first | assumption | apply core_setShadow | apply core_ite | intro _
  clear_value t top
  repeat' with_reducible first
    | assumption | apply core_answerFlight | apply core_signal | apply core_join | apply core_decrement | apply core_manage | split

theorem core_ttCycle (a b) (h : s.Core q) : (State.ttCycle s a b).Core q := by
  unfold State.ttCycle
  repeat' with_reducible first | assumption | apply core_forEach | apply core_atWord | split | extract_lets | intro _

theorem core_claimAny (a b) (h : s.Core q) : (State.claimAny a b s).Core q := by
  unfold State.claimAny
  repeat' with_reducible first
    | assumption | apply core_answerFlight | apply core_setShadow | apply core_setWord | apply core_ite | split | extract_lets
    | intro _

theorem core_flushFences (n) (h : s.Core q) : (State.flushFences n s).Core q := by
  induction n generalizing s with
  | zero => exact h
  | succ n ih =>
    unfold State.flushFences
    repeat' with_reducible first | assumption | apply ih | apply core_applyArrive | apply core_applyBwait | apply core_ite | split | extract_lets | intro _

theorem core_flush (h : s.Core q) : (State.flush s).Core q := by
  unfold State.flush
  repeat' with_reducible first | assumption | apply core_flushFences

theorem core_launch (a b) (h : s.Core q) : (State.launch s a b).Core q := by
  unfold State.launch
  repeat' with_reducible first | assumption | apply core_originate | apply core_flush | apply core_ite | split | extract_lets | intro _

theorem core_issue (a b) (h : s.Core q) : (State.issue s a b).Core q := by
  unfold State.issue
  repeat' with_reducible first
    | assumption | apply core_modPort | apply core_answer | apply core_logSync | apply core_launch | apply core_ite | split
    | extract_lets | intro _

theorem core_ttStore (a b) (h : s.Core q) : (State.ttStore s a b).Core q := by
  unfold State.ttStore
  repeat' with_reducible first | assumption | apply core_wake | apply core_issue | apply core_ite | split | extract_lets | intro _

theorem core_orphanWord (a) (h : s.Core q) : (State.orphanWord a s).Core q := by
  unfold State.orphanWord
  repeat' with_reducible first
    | assumption | apply core_setWord | apply core_forEach | apply core_answerWait | split | extract_lets | intro _

theorem core_withdrawWaits (a) (h : s.Core q) : (State.withdrawWaits s a).Core q := by
  unfold State.withdrawWaits
  extract_lets words tt s0
  have h : s0.Core q := h
  clear_value s0
  repeat' with_reducible first
    | assumption | apply core_forEach | apply core_setWord | apply core_modChan | split | extract_lets | intro _

theorem core_withdrawFlights (a) (h : s.Core q) : (State.withdrawFlights s a).Core q := h

theorem core_resetTellTale (a) (h : s.Core q) : (State.resetTellTale s a).Core q := by
  unfold State.resetTellTale
  repeat' with_reducible first
    | assumption | apply core_withdrawFlights | apply core_withdrawWaits | apply core_forEach | apply core_orphanWord
    | apply core_breakChannel | apply core_ite | split | extract_lets | intro _

theorem core_flushWords (a b) (h : s.Core q) : (State.flushWords s a b).Core q := by
  unfold State.flushWords
  repeat' with_reducible first
    | assumption | apply core_forEach | apply core_setWord | apply core_answerWait | split | extract_lets | intro _

theorem core_flyTellTale (h : s.Core q) : (State.flyTellTale s).Core q := by
  unfold State.flyTellTale
  repeat' with_reducible first
    | assumption | apply core_flushWords | apply core_forEach | apply core_flyChannel | apply core_pulse | apply core_ite | split
    | extract_lets | intro _

theorem core_execSig (a b) (h : s.Core q) : CoreOut q (execSig a b s) := by
  unfold execSig
  repeat' with_reducible first | assumption | apply core_ok | apply core_ttStore

theorem core_execWait (a b) (h : s.Core q) : CoreOut q (execWait a b s) := by
  unfold execWait
  repeat' with_reducible first | assumption | apply core_ok | apply core_ttStore

theorem core_execDec (a b) (h : s.Core q) : CoreOut q (execDec a b s) := by
  unfold execDec
  repeat' with_reducible first | assumption | apply core_ok | apply core_ttStore

theorem core_execTest (a b) (h : s.Core q) : CoreOut q (execTest a b s) := by
  unfold execTest
  repeat' with_reducible first | assumption | apply core_ok | apply core_ttStore

theorem core_execInit (a b) (h : s.Core q) : CoreOut q (execInit a b s) := by
  unfold execInit
  repeat' with_reducible first | assumption | apply core_ok | apply core_ttStore

theorem core_execClaim (a b) (h : s.Core q) : CoreOut q (execClaim a b s) := by
  unfold execClaim
  repeat' with_reducible first | assumption | apply core_ok | apply core_ttStore

theorem core_execRelease (a b) (h : s.Core q) : CoreOut q (execRelease a b s) := by
  unfold execRelease
  repeat' with_reducible first | assumption | apply core_ok | apply core_ttStore

theorem core_execArrive (a b) (h : s.Core q) : CoreOut q (execArrive a b s) := by
  unfold execArrive
  repeat' with_reducible first | assumption | apply core_ok | apply core_ttStore

theorem core_execBwait (a b) (h : s.Core q) : CoreOut q (execBwait a b s) := by
  unfold execBwait
  repeat' with_reducible first | assumption | apply core_ok | apply core_ttStore

theorem core_execSyncWordCycle (a b) (h : s.Core q) : CoreOut q (execSyncWordCycle a b s) := by
  unfold execSyncWordCycle
  repeat' with_reducible first
    | assumption | apply core_ok | apply core_flush | apply core_forEach | apply core_claimAny | apply core_ttCycle | apply core_ite
    | apply core_oite | split | extract_lets | intro _

theorem core_execWaitTimeout (a b) (h : s.Core q) : CoreOut q (execWaitTimeout a b s) := by
  unfold execWaitTimeout
  repeat' with_reducible first | assumption | apply core_ok | apply core_answerWait | apply core_setWord | split | extract_lets

theorem core_execSigMessage (a) (h : s.Core q) : CoreOut q (execSigMessage a s) := by
  unfold execSigMessage
  repeat' with_reducible first
    | assumption | apply core_ok | apply core_onMsg | apply core_consumeOrForward | apply core_logSync | apply core_ite
    | apply core_oite | split | extract_lets | intro _

theorem core_execSigAck (a) (h : s.Core q) : CoreOut q (execSigAck a s) := by
  unfold execSigAck
  repeat' with_reducible first
    | assumption | apply core_ok | apply core_onMsg | apply core_consumeOrForward | apply core_flush | apply core_answer
    | apply core_ite | apply core_oite | split | extract_lets | intro _

theorem core_startMember (a b c) (h : s.Core q) : (State.startMember s a b c).Core q := by
  unfold State.startMember
  repeat' with_reducible first | assumption | apply core_modColl | apply core_ite | split | extract_lets | intro _

theorem core_admitFrom (n) (h : s.Core q) : (State.admitFrom n s).Core q := by
  induction n generalizing s with
  | zero => exact h
  | succ n ih =>
    unfold State.admitFrom
    extract_lets _ next
    clear_value next
    split
    · exact h
    · exact ih (core_startMember _ _ _ h)

theorem core_admitNext (h : s.Core q) : (State.admitNext s).Core q := by
  unfold State.admitNext
  repeat' with_reducible first | assumption | apply core_admitFrom

theorem core_admit (h : s.Core q) : (State.admitNext s).Core q := by
  unfold State.admitNext
  repeat' with_reducible first | assumption | apply core_admitFrom

theorem core_openTag (a) (h : s.Core q) : (State.openTag s a).Core q := by
  unfold State.openTag
  repeat' with_reducible first | assumption | apply core_setTag

theorem core_acceptColl (a b) (h : s.Core q) : (State.acceptColl s a b).Core q := by
  unfold State.acceptColl
  repeat' with_reducible first
    | assumption | apply core_openTag | apply core_setColl | apply core_startMember | apply core_ite | split | extract_lets | intro _

theorem core_releaseSlot (a) (h : s.Core q) : (State.releaseSlot s a).Core q := by
  unfold State.releaseSlot
  repeat' with_reducible first | assumption | apply core_admitNext | apply core_ite | split | extract_lets | intro _

theorem core_leaveColl (a b c d) (h : s.Core q) : (State.leaveColl s a b c d).Core q := by
  unfold State.leaveColl
  repeat' with_reducible first | assumption | apply core_releaseSlot | apply core_tidyColls | apply core_modColl

theorem core_completeMember (a b c d e f) (h : s.Core q) : (State.completeMember s a b c d e f).Core q := by
  unfold State.completeMember
  repeat' with_reducible first
    | assumption | apply core_modColl | apply core_pushDone | apply core_leaveColl | apply core_ite | split | extract_lets | intro _

theorem core_endBlocks (a b c) (h : s.Core q) : (State.endBlocks s a b c).Core q := by
  unfold State.endBlocks
  repeat' with_reducible first | assumption | apply core_forEach | apply core_store | apply core_ite | split | extract_lets | intro _

theorem core_voidDest (a b c) (h : s.Core q) : (State.voidDest s a b c).Core q := by
  unfold State.voidDest
  repeat' with_reducible first
    | assumption | apply core_endBlocks | apply core_forEach | apply core_storeFree | apply core_ite | split | extract_lets | intro _

theorem core_endMember (a b c d) (h : s.Core q) : (State.endMember s a b c d).Core q := by
  unfold State.endMember
  repeat' with_reducible first
    | assumption | apply core_voidDest | apply core_abandonRoute | apply core_completeMember | apply core_ite | split | extract_lets
    | intro _

theorem core_relayDown (a b) (h : s.Core q) : (State.relayDown s a b).Core q := by
  unfold State.relayDown
  repeat' with_reducible first | assumption | apply core_forEach | apply core_sendFlits | split | extract_lets | intro _

theorem core_deliverDown (a b c d e) (h : s.Core q) : (State.deliverDown s a b c d e).Core q := by
  unfold State.deliverDown
  repeat' with_reducible first
    | assumption | apply core_modColl | apply core_recordEpoch | apply core_tidyColls | apply core_relayDown | split

theorem core_concludePass (a b c d) (h : s.Core q) : (State.concludePass s a b c d).Core q := by
  unfold State.concludePass
  repeat' with_reducible first
    | assumption | apply core_deliverDown | apply core_setColl | apply core_ite | split | extract_lets | intro _

theorem core_endAtRoot (a b c d) (h : s.Core q) : (State.endAtRoot s a b c d).Core q := by
  unfold State.endAtRoot
  repeat' with_reducible first | assumption | apply core_deliverDown | apply core_ite | split | extract_lets | intro _

theorem core_passUp (a b c d) (h : s.Core q) : (State.passUp s a b c d).Core q := by
  unfold State.passUp
  repeat' with_reducible first
    | assumption | apply core_modColl | apply core_forEach | apply core_sendFlits | apply core_ite | split | extract_lets | intro _

theorem core_sendChipValue (a b c) (h : s.Core q) : (State.sendChipValue s a b c).Core q := by
  unfold State.sendChipValue
  repeat' with_reducible first
    | assumption | apply core_modColl | apply core_concludePass | apply core_passUp | apply core_ite | split | extract_lets | intro _

theorem core_sendNodeValue (a b c d) (h : s.Core q) : (State.sendNodeValue s a b c d).Core q := by
  unfold State.sendNodeValue
  repeat' with_reducible first
    | assumption | apply core_modColl | apply core_concludePass | apply core_passUp | apply core_ite | split | extract_lets | intro _

theorem core_shadowRoot (a b c d) (h : s.Core q) : (State.shadowRoot s a b c d).Core q := by
  unfold State.shadowRoot
  repeat' with_reducible first | assumption | apply core_setColl | apply core_ite | split | extract_lets | intro _

theorem core_advance (a b c) (h : s.Core q) : (State.advance s a b c).Core q := by
  unfold State.advance
  repeat' with_reducible first
    | assumption | apply core_forEach | apply core_sendNodeValue | apply core_sendChipValue | apply core_shadowRoot | apply core_ite
    | split | extract_lets | intro _

theorem core_forwardMark (n a b g c u) (h : s.Core q) : (State.forwardMark n a b g c u s).Core q := by
  induction n generalizing s c with
  | zero => exact h
  | succ n ih =>
    unfold State.forwardMark
    repeat' with_reducible first | assumption | apply ih | apply core_endAtRoot | apply core_passUp | apply core_ite | split | extract_lets | intro _

theorem core_treeArrival (a b c d e) (h : s.Core q) : (State.treeArrival s a b c d e).Core q := by
  unfold State.treeArrival
  repeat' with_reducible first
    | assumption | apply core_forwardMark | apply core_advance | apply core_ite | split | extract_lets | intro _

theorem core_treeFlitHere (a b c) (h : s.Core q) : (State.treeFlitHere s a b c).Core q := by
  unfold State.treeFlitHere
  repeat' with_reducible first | assumption | apply core_treeArrival | apply core_setColl | apply core_ite | split

theorem core_takeFlits (a b c d) (h : s.Core q) : (State.takeFlits s a b c d).Core q := by
  unfold State.takeFlits
  repeat' with_reducible first | assumption | apply core_modLnk

theorem core_inputFlits (a b c d e f) (h : s.Core q) : (State.inputFlits s a b c d e f).Core q := by
  unfold State.inputFlits
  repeat' with_reducible first
    | assumption | apply core_takeFlits | apply core_setColl | apply core_treeArrival | apply core_ite | split | extract_lets
    | intro _

theorem core_treeFlitFrom (a b c d e f g) (h : s.Core q) : (State.treeFlitFrom s a b c d e f g).Core q := by
  unfold State.treeFlitFrom
  repeat' with_reducible first
    | assumption | apply core_takeFlits | apply core_inputFlits | apply core_ite | split | extract_lets | intro _

theorem core_execTreeFlit (a b c) (h : s.Core q) : CoreOut q (execTreeFlit a b c s) := by
  unfold execTreeFlit
  repeat' with_reducible first
    | assumption | apply core_ok | apply core_treeFlitHere | apply core_treeFlitFrom | apply core_ite | apply core_oite | split
    | extract_lets | intro _

theorem core_writeResult (a b c) (h : s.Core q) : (State.writeResult s a b c).Core q := by
  unfold State.writeResult
  repeat' with_reducible first | assumption | apply core_store | apply core_ite | split | extract_lets | intro _

theorem core_portTakes (a b c) (h : s.Core q) : (State.portTakes s a b c).Core q := by
  unfold State.portTakes
  repeat' with_reducible first
    | assumption | apply core_completeMember | apply core_writeResult | apply core_endMember | apply core_modColl | apply core_ite
    | split

theorem core_resultHere (a b c) (h : s.Core q) : (State.resultHere s a b c).Core q := by
  unfold State.resultHere
  repeat' with_reducible first | assumption | apply core_portTakes | split

theorem core_downFlitsAt (a b c d) (h : s.Core q) : (State.downFlitsAt s a b c d).Core q := by
  unfold State.downFlitsAt
  repeat' with_reducible first
    | assumption | apply core_takeFlits | apply core_setColl | apply core_deliverDown | apply core_shadowRoot | apply core_ite | split
    | extract_lets | intro _

theorem core_downFrom (a b c d) (h : s.Core q) : (State.downFrom s a b c d).Core q := by
  unfold State.downFrom
  repeat' with_reducible first
    | assumption | apply core_takeFlits | apply core_downFlitsAt | apply core_deliverDown | apply core_ite | split | extract_lets
    | intro _

theorem core_execResultAtPort (a b c d) (h : s.Core q) : CoreOut q (execResultAtPort a b c d s) := by
  unfold execResultAtPort
  repeat' with_reducible first
    | assumption | apply core_ok | apply core_resultHere | apply core_downFrom | apply core_ite | apply core_oite | split
    | extract_lets | intro _

theorem core_execCollectiveTimeout (a b c) (h : s.Core q) : CoreOut q (execCollectiveTimeout a b c s) := by
  unfold execCollectiveTimeout
  repeat' with_reducible first
    | assumption | apply core_ok | apply core_modColl | apply core_ite | apply core_oite | split | extract_lets | intro _

theorem core_markUp (a b c d) (h : s.Core q) : (State.markUp s a b c d).Core q := by
  unfold State.markUp
  repeat' with_reducible first | assumption | apply core_sendFlits | split

theorem core_mark (a b c d) (h : s.Core q) : (State.mark s a b c d).Core q := by
  unfold State.mark
  repeat' with_reducible first
    | assumption | apply core_deliverDown | apply core_markUp | apply core_ite | split | extract_lets | intro _

theorem core_execTimeoutMark (a b) (h : s.Core q) : CoreOut q (execTimeoutMark a b s) := by
  unfold execTimeoutMark
  repeat' with_reducible first
    | assumption | apply core_ok | apply core_modColl | apply core_mark | apply core_takeFlits | apply core_ite | apply core_oite
    | split | extract_lets | intro _

theorem core_completionSignal (a b) (h : s.Core q) : (State.completionSignal s a b).Core q := h

theorem core_writeCompletion (a b c) (h : s.Core q) : (State.writeCompletion s a b c).Core q := by
  unfold State.writeCompletion
  repeat' with_reducible first
    | assumption | apply core_store | apply core_setPort | apply core_completionSignal | apply core_leaveColl | apply core_ite | split

theorem core_execCompletionWrite (a) (h : s.Core q) : CoreOut q (execCompletionWrite a s) := by
  unfold execCompletionWrite
  repeat' with_reducible first
    | assumption | apply core_ok | apply core_writeCompletion | apply core_fault | apply core_ite | apply core_oite | split
    | extract_lets | intro _

theorem core_writeEntries (a b c) (h : s.Core q) : (State.writeEntries s a b c).Core q := by
  unfold State.writeEntries
  repeat' with_reducible first | assumption | apply core_forEach | apply core_writeRow | apply core_ite | split | extract_lets | intro _

theorem core_routeFinish (a b c d e) (h : s.Core q) : (State.routeFinish s a b c d e).Core q := by
  unfold State.routeFinish
  repeat' with_reducible first
    | assumption | apply core_writeEntries | apply core_store | apply core_freeSlot | apply core_readyFound | apply core_setTag
    | apply core_completeMember | apply core_ite | split | extract_lets | intro _

theorem core_routeHere (a b c) (h : s.Core q) : (State.routeHere s a b c).Core q := by
  unfold State.routeHere
  repeat' with_reducible first | assumption | apply core_routeFinish | split

theorem core_execRouteCountsResult (a b c d) (h : s.Core q) : CoreOut q (execRouteCountsResult a b c d s) := by
  unfold execRouteCountsResult
  repeat' with_reducible first
    | assumption | apply core_ok | apply core_routeHere | apply core_downFrom | apply core_ite | apply core_oite | split
    | extract_lets | intro _

theorem core_abortMembers (a b n) (h : s.Core q) : (State.abortMembers a b n s).Core q := by
  induction n generalizing s with
  | zero => exact h
  | succ n ih =>
    unfold State.abortMembers
    split
    · exact h
    · exact ih (core_endMember _ _ _ _ h)

theorem core_flyColl (a b) (h : s.Core q) : (State.flyColl s a b).Core q := by
  unfold State.flyColl
  repeat' with_reducible first
    | assumption | apply core_recordEpoch | apply core_modColl | apply core_tidyColls | apply core_abortMembers | apply core_ite
    | split | extract_lets | intro _

theorem core_flyColls (a) (h : s.Core q) : (State.flyColls s a).Core q := by
  unfold State.flyColls
  repeat' with_reducible first | assumption | apply core_forEach | apply core_flyColl | split | extract_lets | intro _

theorem core_flyFlits (a) (h : s.Core q) : (State.flyFlits s a).Core q := by
  unfold State.flyFlits
  repeat' with_reducible first | assumption | apply core_forEach | apply core_takeFlits | split | extract_lets | intro _

theorem core_writeDmap (a) (h : s.Core q) : (State.writeDmap s a).Core q := by
  unfold State.writeDmap
  repeat' with_reducible first | assumption | apply core_store

theorem core_endSend (a b) (h : s.Core q) : (State.endSend s a b).Core q := by
  unfold State.endSend
  repeat' with_reducible first | assumption | apply core_pushDone | apply core_ite | split | extract_lets | intro _

theorem core_settleSend (a) (h : s.Core q) : (State.settleSend s a).Core q := by
  unfold State.settleSend
  repeat' with_reducible first
    | assumption | apply core_endSend | apply core_writeDmap | apply core_ite | split | extract_lets | intro _

theorem core_modSend (a b) (h : s.Core q) : (State.modSend s a b).Core q := h

theorem core_spreadGroup (a b c d) (h : s.Core q) : (State.spreadGroup s a b c d).Core q := by
  unfold State.spreadGroup
  repeat' with_reducible first | assumption | apply core_forEach | apply core_sendFlits | split | extract_lets | intro _

theorem core_spreadList (a b c d) (h : s.Core q) : (State.spreadList s a b c d).Core q := by
  unfold State.spreadList
  repeat' with_reducible first | assumption | apply core_forEach | apply core_sendFlits | split | extract_lets | intro _

theorem core_waitAt (a b) (h : s.Core q) : (State.waitAt s a b).Core q := by
  unfold State.waitAt
  repeat' with_reducible first | assumption | apply core_ite | split | extract_lets | intro _

theorem core_freeCopy (a b) (h : s.Core q) : (State.freeCopy s a b).Core q := by
  unfold State.freeCopy
  repeat' with_reducible first | assumption | apply core_ite | split | extract_lets | intro _

theorem core_spreadSend (a) (h : s.Core q) : (State.spreadSend s a).Core q := by
  unfold State.spreadSend
  repeat' with_reducible first
    | assumption | apply core_spreadGroup | apply core_spreadList | apply core_ite | split | extract_lets | intro _

theorem core_putCopy {t : State} {a b m} (h : s.Core q) (e : s.putCopy a b m = some t) : t.Core q := by
  unfold State.putCopy at e
  split at e
  · cases e; exact h
  · obtain ⟨w, -, rfl⟩ := Option.map_eq_some_iff.mp e
    exact h

theorem core_turnSend (a) (h : s.Core q) : (State.turnSend a s).Core q := by
  unfold State.turnSend
  split
  · exact h
  · split
    · exact core_waitAt _ _ h
    · next e => exact core_freeCopy _ _ (core_spreadSend _ (core_modSend _ _ (core_putCopy h e)))

theorem core_turnSends (h : s.Core q) : (State.turnSends s).Core q := by
  unfold State.turnSends
  repeat' with_reducible first | assumption | apply core_forEach | apply core_turnSend | split | extract_lets | intro _

theorem core_startSend (a b) (h : s.Core q) : (State.startSend s a b).Core q := by
  unfold State.startSend
  repeat' with_reducible first
    | assumption | apply core_pushDone | apply core_writeDmap | apply core_turnSend | apply core_ite | split | extract_lets | intro _

theorem core_postRecv (a b) (h : s.Core q) : (State.postRecv s a b).Core q := h

theorem core_endWithdraw (a) (h : s.Core q) : (State.endWithdraw a s).Core q := by
  unfold State.endWithdraw
  repeat' with_reducible first | assumption | apply core_pushDone | apply core_forEach | split | extract_lets | intro _

theorem core_withdrawRecvs (a b) (h : s.Core q) : (State.withdrawRecvs s a b).Core q := by
  unfold State.withdrawRecvs
  repeat' with_reducible first | assumption | apply core_endWithdraw | apply core_ite | split | extract_lets | intro _

theorem core_afterDelivery (a) (h : s.Core q) : (State.afterDelivery s a).Core q := by
  unfold State.afterDelivery
  repeat' with_reducible first | assumption | apply core_forEach | apply core_endWithdraw | split | extract_lets | intro _

theorem core_sendReportFlit (a b c d) (h : s.Core q) : (State.sendReportFlit s a b c d).Core q := by
  unfold State.sendReportFlit
  repeat' with_reducible first | assumption | apply core_sendFlits | split

theorem core_report (a b c d) (h : s.Core q) : (State.report s a b c d).Core q := by
  unfold State.report
  repeat' with_reducible first | assumption | apply core_modSend | apply core_sendReportFlit | split

theorem core_dropDup (a b c) (h : s.Core q) : (State.dropDup s a b c).Core q := by
  unfold State.dropDup
  repeat' with_reducible first | assumption | apply core_report | apply core_bump

theorem core_oversize (a b c) (h : s.Core q) : (State.oversize s a b c).Core q := by
  unfold State.oversize
  repeat' with_reducible first | assumption | apply core_report | apply core_bump

theorem core_commit (a b c d) (h : s.Core q) : (State.commit s a b c d).Core q := h

theorem core_hold (a b c) (h : s.Core q) : (State.hold s a b c).Core q := h

theorem core_takesCopy (a b) (h : s.Core q) : (State.takesCopy s a b).Core q := by
  unfold State.takesCopy
  repeat' with_reducible first | assumption | apply core_modSend | split

theorem core_atNode (p m f) (h : s.Core q) : (s.atNode p m f).Core q := by
  unfold State.atNode
  extract_lets behind r long s0
  have h0 : s0.Core q := by
    unfold s0
    split
    · exact core_dropDup _ _ _ (core_takesCopy _ _ h)
    · split
      · exact core_oversize _ _ _ (core_takesCopy _ _ h)
      · split
        · exact core_waitAt _ _ h
        · next e _ => exact core_commit _ _ _ _ (core_takesCopy _ _ (core_putCopy h e))
        · next e _ => exact core_hold _ _ _ (core_takesCopy _ _ (core_putCopy h e))
  exact core_freeCopy _ _ (core_freeCopy _ _ h0)

theorem core_endHold (a) (h : s.Core q) : (State.endHold s a).Core q := by
  unfold State.endHold
  repeat' with_reducible first | assumption | apply core_freeCopy

theorem core_serveHolds (l) (h : s.Core q) : (State.serveHolds l s).Core q := by
  induction l generalizing s with
  | nil => exact h
  | cons x r ih =>
    unfold State.serveHolds
    repeat' with_reducible first
      | assumption | apply ih | apply core_endHold | apply core_dropDup | apply core_oversize | apply core_commit | apply core_ite | split
      | extract_lets | intro _

theorem core_missHold (a) (h : s.Core q) : (State.missHold a s).Core q := by
  unfold State.missHold
  repeat' with_reducible first | assumption | apply core_report | apply core_endHold

theorem core_spreadOn (a b c d) (h : s.Core q) : (State.spreadOn s a b c d).Core q := by
  unfold State.spreadOn
  repeat' with_reducible first | assumption | apply core_spreadList | apply core_spreadGroup | split

theorem core_throughRoot {t : State} {a b c m l} (h : s.Core q) (e : s.throughRoot a b c m l = some t) : t.Core q := by
  unfold State.throughRoot at e
  extract_lets n id pend at e
  obtain ⟨u, hu, rfl⟩ := Option.map_eq_some_iff.mp e
  have h0 : u.Core q := by
    split at hu
    · cases hu; exact h
    · exact core_putCopy h hu
  exact core_spreadOn _ _ _ _ h0

theorem core_takeInbound (a b c) (h : s.Core q) : (State.takeInbound s a b c).Core q := by
  unfold State.takeInbound
  split
  · exact h
  · extract_lets n take
    have ht : ∀ t : State, t.Core q → (take t).Core q := fun t => core_modLnk _ _
    clear_value take
    split
    · exact h
    · split
      · exact ht _ h
      · split
        · exact ht _ h
        · split
          · exact h
          · split
            · next e => exact ht _ (core_throughRoot h e)
            · exact core_waitAt _ _ h

theorem core_resendCopied (a) (h : s.Core q) : (State.resendCopied s a).Core q := by
  unfold State.resendCopied
  refine core_forEach (fun x t ht => ?_) h
  cases e : t.throughRoot x.port 2 x.head x.msg none with
  | none => exact ht
  | some u => exact core_throughRoot ht e

theorem core_execHoistCreditApply (a b) (h : s.Core q) : CoreOut q (execHoistCreditApply a b s) := by
  unfold execHoistCreditApply
  repeat' with_reducible first | assumption | apply core_ok | apply core_serveHolds

theorem core_execHoistAtHoldingNode (a b) (h : s.Core q) : CoreOut q (execHoistAtHoldingNode a b s) := by
  unfold execHoistAtHoldingNode
  repeat' with_reducible first
    | assumption | apply core_ok | apply core_atNode | apply core_takeInbound | apply core_ite | apply core_oite | split
    | extract_lets | intro _

theorem core_execHoldLimitExpiry (a) (h : s.Core q) : CoreOut q (execHoldLimitExpiry a s) := by
  unfold execHoldLimitExpiry
  repeat' with_reducible first | assumption | apply core_ok | apply core_missHold | apply core_bump | apply core_serveHolds | split

theorem core_takeReport {t : State × BitVec 50} (l) (h : s.Core q) (e : s.takeReport l = some t) : t.1.Core q := by
  unfold State.takeReport at e
  extract_lets k at e
  split at e
  · cases e; exact core_setLnk _ _ h
  · cases e; exact core_setLnk _ _ h
  · cases e

theorem core_execDeliveryReport (a b c) (h : s.Core q) : CoreOut q (execDeliveryReport a b c s) := by
  unfold execDeliveryReport
  split
  · exact core_ok (core_settleSend _ (core_modSend _ _ h))
  split
  · exact h
  next t v e =>
  have ht : t.Core q := by
    split at e
    · cases e
    · exact core_takeReport _ h e
  repeat' with_reducible first
    | assumption | apply core_ok | apply core_settleSend | apply core_modSend | apply core_bump | apply core_sendReportFlit
    | apply core_oite | split | intro _

theorem core_execHoistReportLimitExpiry (a) (h : s.Core q) : CoreOut q (execHoistReportLimitExpiry a s) := by
  unfold execHoistReportLimitExpiry
  repeat' with_reducible first | assumption | apply core_ok | apply core_settleSend | apply core_modSend

theorem core_execHoistSegmentFreed (a b) (h : s.Core q) : CoreOut q (execHoistSegmentFreed a b s) := by
  unfold execHoistSegmentFreed
  repeat' with_reducible first
    | assumption | apply core_ok | apply core_turnSends | apply core_ite | apply core_oite | split | extract_lets | intro _

theorem core_execHoistDeliveryVisible (a) (h : s.Core q) : CoreOut q (execHoistDeliveryVisible a s) := by
  unfold execHoistDeliveryVisible
  repeat' with_reducible first
    | assumption | apply core_ok | apply core_store | apply core_pushDone | apply core_afterDelivery | apply core_freeCopy
    | apply core_report | apply core_ite | apply core_oite | split | extract_lets | intro _

theorem core_resetHoist (a) (h : s.Core q) : (State.resetHoist s a).Core q := by
  unfold State.resetHoist
  repeat' with_reducible first | assumption | apply core_forEach | apply core_missHold | split | extract_lets | intro _

theorem core_flyHoist (h : s.Core q) : (State.flyHoist s).Core q := by
  unfold State.flyHoist
  repeat' with_reducible first
    | assumption | apply core_forEach | apply core_report | apply core_endSend | apply core_writeDmap | apply core_freeCopy | split
    | extract_lets | intro _

theorem core_poisonSend (a) (h : s.Core q) : (State.poisonSend s a).Core q := by
  unfold State.poisonSend
  repeat' with_reducible first | assumption | apply core_endSend | apply core_storeFree

theorem core_setKeySlot (a b c d) (h : s.Core q) : (State.setKeySlot s a b c d).Core q := h

theorem core_setKeyUse (a b c) (h : s.Core q) : (State.setKeyUse s a b c).Core q := h

theorem core_dropBlock (a) (h : s.Core q) : (State.dropBlock s a).Core q := by
  unfold State.dropBlock
  repeat' with_reducible first | assumption | apply core_setKeySlot | apply core_ite | split | extract_lets | intro _

theorem core_tryUp (a) (h : s.Core q) : (State.tryUp s a).Core q := by
  unfold State.tryUp
  repeat' with_reducible first
    | assumption | apply core_dropBlock | apply core_bump | apply core_setLnk | apply core_ite | split | extract_lets | intro _

theorem core_flood (a b) (h : s.Core q) : (State.flood s a b).Core q := by
  unfold State.flood
  repeat' with_reducible first | assumption | apply core_forEach | apply core_modLnk | split | extract_lets | intro _

theorem core_sendReport (a b) (h : s.Core q) : (State.sendReport s a b).Core q := by
  unfold State.sendReport
  repeat' with_reducible first | assumption | apply core_flood | apply core_ite | split | extract_lets | intro _

theorem core_faultColl (a) (h : s.Core q) : (State.faultColl a s).Core q := by
  unfold State.faultColl
  repeat' with_reducible first
    | assumption | apply core_endAtRoot | apply core_deliverDown | apply core_forwardMark | apply core_ite | split | extract_lets
    | intro _

theorem core_faultColls (a) (h : s.Core q) : (State.faultColls s a).Core q := by
  unfold State.faultColls
  repeat' with_reducible first | assumption | apply core_forEach | apply core_faultColl | split | extract_lets | intro _

theorem core_restoreFor (a b) (h : s.Core q) : (State.restoreFor s a b).Core q := by
  unfold State.restoreFor
  repeat' with_reducible first | assumption | apply core_postRestore | apply core_ite | split | extract_lets | intro _

theorem core_cutStream (a b) (h : s.Core q) : (State.cutStream a b s).Core q := by
  unfold State.cutStream
  extract_lets send
  have hs : ∀ p v m n (t : State), t.Core q → (send p v m n t).Core q := by
    intro p v m n t ht
    dsimp only [send]
    split
    · exact core_sendFlits _ _ _ ht
    · exact ht
  clear_value send
  repeat' with_reducible first | assumption | apply hs | apply core_forEach | apply core_ite | split | intro _

theorem core_loseLink (a) (h : s.Core q) : (State.loseLink s a).Core q := by
  unfold State.loseLink
  repeat' with_reducible first
    | assumption | apply core_faultColls | apply core_forEach | apply core_cutStream | apply core_cutReason | apply core_ite | split
    | extract_lets | intro _

theorem core_moveKeys (a b) (h : s.Core q) : (State.moveKeys s a b).Core q := by
  unfold State.moveKeys
  repeat' with_reducible first
    | assumption | apply core_forEach | apply core_setKeySlot | apply core_setKeyUse | split | extract_lets | intro _

theorem core_portFault (a b c d e) (h : s.Core q) : (State.portFault s a b c d e).Core q := by
  unfold State.portFault
  repeat' with_reducible first | assumption | apply core_postFault | apply core_restoreFor | apply core_ite | split

theorem core_putFrame (a b) (h : s.Core q) : (State.putFrame s a b).Core q := by
  unfold State.putFrame
  repeat' with_reducible first | assumption | apply core_modLnk

theorem core_sendPlain (a b c) (h : s.Core q) : (State.sendPlain s a b c).Core q := by
  unfold State.sendPlain
  repeat' with_reducible first | assumption | apply core_putFrame | apply core_setLnk

theorem core_sendKept (a b c d e) (h : s.Core q) : (State.sendKept s a b c d e).1.Core q := by
  unfold State.sendKept
  repeat' with_reducible first | assumption | apply core_putFrame | apply core_setLnk

theorem core_sendSequenced (a b c d e) (h : s.Core q) : (State.sendSequenced s a b c d e).Core q := by
  unfold State.sendSequenced
  repeat' with_reducible first
    | assumption | apply core_setKeyUse | apply core_sendKept | apply core_modLnk | apply core_ite | split | extract_lets | intro _

theorem core_closeBlock (a b) (h : s.Core q) : (State.closeBlock s a b).Core q := by
  unfold State.closeBlock
  repeat' with_reducible first | assumption | apply core_setLnk | apply core_ite | split | extract_lets | intro _

theorem core_sendData (a b c d) (h : s.Core q) : (State.sendData s a b c d).Core q := by
  unfold State.sendData
  repeat' with_reducible first | assumption | apply core_sendSequenced | apply core_closeBlock | apply core_modLnk

theorem core_sendMsgs (a b) (h : s.Core q) : (State.sendMsgs s a b).Core q := by
  unfold State.sendMsgs
  repeat' with_reducible first | assumption | apply core_sendData | apply core_setLnk

theorem core_sendFlitFrame (a b c) (h : s.Core q) : (State.sendFlitFrame s a b c).Core q := by
  unfold State.sendFlitFrame
  repeat' with_reducible first | assumption | apply core_sendData | apply core_setLnk | apply core_ite | split | extract_lets

theorem core_sendControl (a b) (h : s.Core q) : (State.sendControl s a b).Core q := by
  unfold State.sendControl
  repeat' with_reducible first | assumption | apply core_sendPlain | apply core_modLnk | apply core_ite | split | extract_lets | intro _

theorem core_exchangeSlot (a) (h : s.Core q) : (State.exchangeSlot s a).Core q := by
  unfold State.exchangeSlot
  repeat' with_reducible first
    | assumption | apply core_sendPlain | apply core_setLnk | apply core_tryUp | apply core_modLnk | apply core_ite | split
    | extract_lets | intro _

theorem core_receive (a b c d e) (he : ∀ t, State.Core t q → (e t).Core q) (h : s.Core q) : (State.receive s a b c d e).Core q := by
  unfold State.receive
  repeat' with_reducible first
    | assumption | apply core_bump | apply core_setLnk | apply he | apply core_ite | split | extract_lets | intro _

theorem core_sequence (a b c) (hc : ∀ t, State.Core t q → (c t).Core q) (h : s.Core q) : (State.sequence s a b c).Core q := by
  unfold State.sequence
  repeat' with_reducible first
    | assumption | apply core_setLnk | apply core_bump | apply hc | apply core_ite | split | extract_lets | intro _

theorem core_forwardFlit (a b c d e) (h : s.Core q) : (State.forwardFlit s a b c d e).Core q := by
  unfold State.forwardFlit
  repeat' with_reducible first | assumption | apply core_sendFlit | apply core_ite | split | extract_lets | intro _

theorem core_forwardHoist (a b c d e) (h : s.Core q) : (State.forwardHoist s a b c d e).Core q := by
  unfold State.forwardHoist
  repeat' with_reducible first
    | assumption | apply core_sendFlit | apply core_modLnk | apply core_sendFlits | apply core_ite | split | extract_lets | intro _

theorem core_steer (a b c d) (h : s.Core q) : (State.steer s a b c d).Core q := by
  unfold State.steer
  repeat' with_reducible first
    | assumption | apply core_wake | apply core_modLnk | apply core_forwardHoist | apply core_forwardFlit | apply core_sortMsgs
    | apply core_ite | split | extract_lets | intro _

theorem core_takeFrame (a b) (h : s.Core q) : (State.takeFrame s a b).Core q := by
  unfold State.takeFrame
  repeat' with_reducible first | assumption | apply core_modLnk | apply core_steer | apply core_ite | split | extract_lets | intro _

theorem core_execIdle (a b c) (h : s.Core q) : CoreOut q (execIdle a b c s) := by
  unfold execIdle
  repeat' with_reducible first
    | assumption | apply core_ok | apply core_receive | apply core_sequence | apply core_takeFrame | apply core_modLnk
    | apply core_ite | apply core_oite | split | extract_lets | intro _

theorem core_execData (a b c) (h : s.Core q) : CoreOut q (execData a b c s) := by
  unfold execData
  repeat' with_reducible first
    | assumption | apply core_ok | apply core_receive | apply core_sequence | apply core_takeFrame | split | extract_lets | intro _

theorem core_openBlock (a b c d) (h : s.Core q) : (State.openBlock s a b c d).Core q := by
  unfold State.openBlock
  repeat' with_reducible first
    | assumption | apply core_forEach | apply core_modLnk | apply core_steer | apply core_ite | split | extract_lets | intro _

theorem core_settleKey (a b) (h : s.Core q) : (State.settleKey s a b).Core q := by
  unfold State.settleKey
  repeat' with_reducible first
    | assumption | apply core_setKeySlot | apply core_setKeyUse | apply core_ite | split | extract_lets | intro _

theorem core_execLcInitAck (a b c) (h : s.Core q) : CoreOut q (execLcInitAck a b c s) := by
  unfold execLcInitAck
  repeat' with_reducible first
    | assumption | apply core_ok | apply core_receive | apply core_tryUp | apply core_modLnk | apply core_ite | apply core_oite
    | split | extract_lets | intro _

theorem core_controlFields (a b) (h : s.Core q) : (State.controlFields s a b).Core q := by
  unfold State.controlFields
  repeat' with_reducible first | assumption | apply core_modLnk | apply core_ite | split | extract_lets | intro _

theorem core_execLcReef (a b c) (h : s.Core q) : CoreOut q (execLcReef a b c s) := by
  unfold execLcReef
  repeat' with_reducible first
    | assumption | apply core_ok | apply core_receive | apply core_controlFields | apply core_modLnk | apply core_ite
    | apply core_oite | split | extract_lets | intro _

theorem core_execLcReefAck (a b c) (h : s.Core q) : CoreOut q (execLcReefAck a b c s) := by
  unfold execLcReefAck
  repeat' with_reducible first
    | assumption | apply core_ok | apply core_receive | apply core_controlFields | apply core_setLnk | apply core_ite
    | apply core_oite | split | extract_lets | intro _

theorem core_execSuperBlockLock (a) (h : s.Core q) : CoreOut q (execSuperBlockLock a s) := by
  unfold execSuperBlockLock
  repeat' with_reducible first
    | assumption | apply core_ok | apply core_setLnk | apply core_ite | apply core_oite | split | extract_lets | intro _

theorem core_execAlignmentLockLoss (a) (h : s.Core q) : CoreOut q (execAlignmentLockLoss a s) := by
  unfold execAlignmentLockLoss
  repeat' with_reducible first | assumption | apply core_ok | apply core_modLnk

theorem core_execNakRepeatTimer (a) (h : s.Core q) : CoreOut q (execNakRepeatTimer a s) := by
  unfold execNakRepeatTimer
  repeat' with_reducible first
    | assumption | apply core_ok | apply core_setLnk | apply core_ite | apply core_oite | split | extract_lets | intro _

theorem core_execKeyLoad (a b c d e) (h : s.Core q) : CoreOut q (execKeyLoad a b c d e s) := by
  unfold execKeyLoad
  repeat' with_reducible first
    | assumption | apply core_setKeySlot | apply core_ok | apply core_setKeyUse | apply core_ite | apply core_oite | split
    | extract_lets | intro _

theorem core_applyFly (a) (h : s.Core q) : (State.applyFly s a).Core q := by
  unfold State.applyFly
  repeat' with_reducible first
    | assumption | apply core_flyColls | apply core_flyFlits | apply core_flyTellTale | apply core_flyHoist | apply core_stopCombs
    | apply core_cutReason | apply core_ite | split | extract_lets | intro _

theorem core_issueFly (a) (h : s.Core q) : (State.issueFly s a).Core q := by
  unfold State.issueFly
  repeat' with_reducible first | assumption | apply core_flood | apply core_applyFly

theorem core_wakeFor (a) (h : s.Core q) : (State.wakeFor s a).Core q := by
  unfold State.wakeFor
  repeat' with_reducible first | assumption | apply core_wake | apply core_ite | split | extract_lets | intro _

theorem core_execLetFlyMessage (a) (h : s.Core q) : CoreOut q (execLetFlyMessage a s) := by
  unfold execLetFlyMessage
  repeat' with_reducible first
    | assumption | apply core_ok | apply core_modLnk | apply core_flood | apply core_applyFly | apply core_wakeFor | apply core_ite
    | apply core_oite | split | extract_lets | intro _

theorem core_resumeChannel (a b) (h : s.Core q) : (State.resumeChannel a b s).Core q := by
  unfold State.resumeChannel
  repeat' with_reducible first
    | assumption | apply core_checkPrewarn | apply core_releaseAtRoot | apply core_countUp | apply core_ite | split | extract_lets

theorem core_resumeNode (a) (h : s.Core q) : (State.resumeNode a s).Core q := by
  unfold State.resumeNode
  repeat' with_reducible first
    | assumption | apply core_forEach | apply core_relayDown | apply core_advance | apply core_resendCopied | apply core_resumeChannel
    | apply core_ite | split | extract_lets | intro _

theorem core_execHeartbeatSend (h : s.Core q) : CoreOut q (execHeartbeatSend s) := by
  unfold execHeartbeatSend
  repeat' with_reducible first
    | assumption | apply core_ok | apply core_forEach | apply core_sendMsg | apply core_ite | apply core_oite | split | extract_lets
    | intro _

theorem core_execHeartbeat (a) (h : s.Core q) : CoreOut q (execHeartbeat a s) := by
  unfold execHeartbeat
  repeat' with_reducible first
    | assumption | apply core_ok | apply core_onMsg | apply core_consumeOrForward | split | extract_lets | intro _

theorem core_failSignals (a) (h : s.Core q) : (State.failSignals s a).Core q := by
  unfold State.failSignals
  repeat' with_reducible first | assumption | apply core_flush | apply core_forEach | apply core_answer | split | extract_lets | intro _

theorem core_relayTo (a b c) (h : s.Core q) : (State.relayTo s a b c).Core q := by
  unfold State.relayTo
  repeat' with_reducible first | assumption | apply core_sendMsg

theorem core_onRelay (a b c) (hc : ∀ x0 t, State.Core t q → (c x0 t).Core q) (h : s.Core q) : (State.onRelay s a b c).Core q := by
  unfold State.onRelay
  repeat' with_reducible first | assumption | apply core_onMsg | apply core_consumeOrForward | apply hc | split | extract_lets | intro _

theorem core_execFeedQuery (a) (h : s.Core q) : CoreOut q (execFeedQuery a s) := by
  unfold execFeedQuery
  repeat' with_reducible first | assumption | apply core_ok | apply core_onRelay | apply core_relayTo | split | extract_lets | intro _

theorem core_execWordReadRelay (a) (h : s.Core q) : CoreOut q (execWordReadRelay a s) := by
  unfold execWordReadRelay
  repeat' with_reducible first
    | assumption | apply core_ok | apply core_onRelay | apply core_relayTo | apply core_ite | apply core_oite | split | extract_lets
    | intro _

theorem core_take (a) (h : s.Core q) : (State.take s a).Core q := h

theorem core_reply (a b c) (h : s.Core q) : (State.reply s a b c).Core q := by
  unfold State.reply
  repeat' with_reducible first | assumption | apply core_respond

theorem core_deny (a b) (h : s.Core q) : (State.deny s a b).Core q := by
  unfold State.deny
  repeat' with_reducible first | assumption | apply core_respond

theorem core_command (a b c d e f) (hf : ∀ x0 t, State.Core t q → (f x0 t).Core q) (h : s.Core q) : (State.command s a b c d e f).Core q := by
  unfold State.command
  repeat' with_reducible first
    | assumption | apply core_deny | apply core_take | apply hf | apply core_ite | split | extract_lets | intro _

theorem core_startLong (a b) (h : s.Core q) : (State.startLong s a b).Core q := by
  unfold State.startLong
  repeat' with_reducible first | assumption | apply core_reply

theorem core_execTopoRead (a) (h : s.Core q) : CoreOut q (execTopoRead a s) := by
  unfold execTopoRead
  repeat' with_reducible first | assumption | apply core_ok | apply core_command | apply core_reply | split | extract_lets | intro _

theorem core_exchangeAs (a b c) (h : s.Core q) : (State.exchangeAs a b c s).Core q := by
  unfold State.exchangeAs
  repeat' with_reducible first | assumption | apply core_modLnk

theorem core_putPortBack (a) (h : s.Core q) : (State.putPortBack a s).Core q := by
  unfold State.putPortBack
  repeat' with_reducible first | assumption | apply core_exchangeAs | split

theorem core_reExchange (a) (h : s.Core q) : (State.reExchange s a).Core q := by
  unfold State.reExchange
  repeat' with_reducible first | assumption | apply core_forEach | apply core_exchangeAs | split | extract_lets | intro _

theorem core_execTopoSet (a) (h : s.Core q) : CoreOut q (execTopoSet a s) := by
  unfold execTopoSet
  repeat' with_reducible first
    | assumption | apply core_ok | apply core_command | apply core_reExchange | apply core_startLong | split | extract_lets | intro _

theorem core_execContextBind (a) (h : s.Core q) : CoreOut q (execContextBind a s) := by
  unfold execContextBind
  repeat' with_reducible first
    | assumption | apply core_ok | apply core_command | apply core_setChan | apply core_reply | split | extract_lets | intro _

theorem core_execContextRearm (a) (h : s.Core q) : CoreOut q (execContextRearm a s) := by
  unfold execContextRearm
  repeat' with_reducible first
    | assumption | apply core_ok | apply core_command | apply core_reply | apply core_setChan | split | extract_lets | intro _

theorem core_execContextUnbind (a) (h : s.Core q) : CoreOut q (execContextUnbind a s) := by
  unfold execContextUnbind
  repeat' with_reducible first
    | assumption | apply core_ok | apply core_command | apply core_setChan | apply core_reply | split | extract_lets | intro _

theorem core_command_checked {n code mine len checks} {run : Cmd → State → State} (h : s.Core q)
    (hr : ∀ c, firstDeny (s.commonChecks c (len c) ++ checks s c) = none → (run c (s.take n)).Core q) :
    (s.command n code mine len checks run).Core q := by
  have ht := core_take (s := s) n h
  unfold State.command
  extract_lets c
  clear_value c
  split
  · split
    · exact core_deny _ _ ht
    split
    · exact h
    split
    · exact core_deny _ _ ht
    · next e => exact hr c e
  · exact h

theorem core_execLetFly (a) (h : s.Core q) : CoreOut q (execLetFly a s) := by
  unfold execLetFly
  repeat' with_reducible first
    | assumption | apply core_ok | apply core_command | apply core_reply | apply core_issueFly | split | extract_lets | intro _

theorem core_execLedgerInspect (a) (h : s.Core q) : CoreOut q (execLedgerInspect a s) := by
  unfold execLedgerInspect
  repeat' with_reducible first
    | assumption | apply core_ok | apply core_command | apply core_reply | apply core_ite | apply core_oite | split | extract_lets
    | intro _

theorem core_execSpareMapRead (a) (h : s.Core q) : CoreOut q (execSpareMapRead a s) := by
  unfold execSpareMapRead
  repeat' with_reducible first | assumption | apply core_ok | apply core_command | apply core_reply | split | extract_lets | intro _

theorem core_winErr (a) (h : s.Core q) : (State.winErr s a).Core q := by
  unfold State.winErr
  repeat' with_reducible first | assumption | apply core_ite | split | extract_lets | intro _

theorem core_writeWerr (a) (h : s.Core q) : (State.writeWerr s a).Core q := by
  unfold State.writeWerr
  repeat' with_reducible first | assumption | apply core_winErr | apply core_ite | split | extract_lets | intro _

theorem core_ring (a) (h : s.Core q) : (State.ring s a).Core q := by
  unfold State.ring
  repeat' with_reducible first | assumption | apply core_winErr | apply core_wake | apply core_ite | split | extract_lets | intro _

theorem core_clearIrq (a) (h : s.Core q) : (State.clearIrq s a).Core q := by
  unfold State.clearIrq
  repeat' with_reducible first | assumption | apply core_winErr | apply core_ite | split | extract_lets | intro _

theorem core_writeIrqMask (a) (h : s.Core q) : (State.writeIrqMask s a).Core q := by
  unfold State.writeIrqMask
  repeat' with_reducible first | assumption | apply core_winErr | apply core_ite | split | extract_lets | intro _

theorem core_writeIrqVec (a) (h : s.Core q) : (State.writeIrqVec s a).Core q := by
  unfold State.writeIrqVec
  repeat' with_reducible first | assumption | apply core_winErr | apply core_ite | split | extract_lets | intro _

theorem core_capture (a) (h : s.Core q) : (State.capture s a).Core q := by
  unfold State.capture
  repeat' with_reducible first | assumption | apply core_winErr | apply core_ite | split | extract_lets | intro _

end Sys2Proof.Machine
end

