-- ==== Sys2Proof/Laws/Images.lean ====
section
/-! SUPPORT. What the bytes of a container say to `RESTORE`: the sections that `Sect.bytes` lays out are found at their offsets, pass the checks of
their form, and give their records back. -/

namespace Sys2Proof.Machine

open Sys2Proof

/-! ## Numbers in bytes -/

@[simp] theorem leBytes_length (n v : Nat) : (leBytes n v).length = n := by
  induction n generalizing v with
  | zero => rfl
  | succ n ih => simp [leBytes, ih]

@[simp] theorem wordBytes_length {w : Nat} (n : Nat) (x : BitVec w) : (wordBytes n x).length = n := by simp [wordBytes]

theorem leNat_leBytes {n v : Nat} (h : v < 256 ^ n) : leNat (leBytes n v) = v := by
  induction n generalizing v with
  | zero => simp [leBytes, leNat] at *; omega
  | succ n ih =>
    have : v / 256 < 256 ^ n := Nat.div_lt_of_lt_mul (by rwa [Nat.pow_succ, Nat.mul_comm] at h)
    simp only [leBytes, leNat, BitVec.toNat_ofNat, ih this]
    omega

/-- A number that stands behind `p`. -/
theorem nat_behind (p q : List Byte) {n v : Nat} (h : v < 256 ^ n) : Block.nat (p ++ (leBytes n v ++ q)) p.length n = v := by
  simp [Block.nat, leNat_leBytes h]

/-- A number of what stands behind `p`. -/
theorem nat_append (p b : List Byte) (o n : Nat) : Block.nat (p ++ b) (p.length + o) n = Block.nat b o n := by
  simp only [Block.nat]
  rw [← List.drop_drop, List.drop_left]

/-- A number of what stands in front. -/
theorem nat_front (b q : List Byte) {o n : Nat} (h : o + n ≤ b.length) : Block.nat (b ++ q) o n = Block.nat b o n := by
  simp only [Block.nat, List.drop_append]
  rw [List.take_append_of_le_length (by simp; omega)]

/-! ## Sections -/

/-- A section whose header can say what it holds. -/
structure Sect.Ok (x : Sect) : Prop where
  type_lt : x.type < 256
  rsize_lt : x.rsize < 65536
  size_lt : x.rsize * x.recs.length < 2 ^ 32
  count_lt : x.recs.length < 2 ^ 32
  recs_len : ∀ r ∈ x.recs, r.length = x.rsize

/-- A section with all its records. -/
def Sect.whole (x : Sect) : List Byte := x.bytes x.recs.length false

theorem flatten_length {l : List (List Byte)} {k : Nat} (h : ∀ r ∈ l, r.length = k) : l.flatten.length = k * l.length := by
  induction l with
  | nil => simp
  | cons a l ih => simp [h a (by simp), ih (fun r hr => h r (by simp [hr])), Nat.mul_add]; omega

theorem sectLen_le (r n : Nat) : 16 + r * n ≤ sectLen r n := by unfold sectLen; omega

theorem Sect.whole_eq (x : Sect) : x.whole = leBytes 1 x.type ++ (leBytes 1 0 ++ (leBytes 2 x.rsize ++ (leBytes 4 x.recs.length ++
    (leBytes 4 (x.rsize * x.recs.length) ++ (leBytes 4 (crc32c x.recs.flatten).toNat ++ (x.recs.flatten ++
      List.replicate (sectLen x.rsize x.recs.length - 16 - x.rsize * x.recs.length) 0)))))) := by
  simp [Sect.whole, Sect.bytes, flag, wordBytes, List.append_assoc]

theorem Sect.whole_length {x : Sect} (h : x.Ok) : x.whole.length = x.len := by
  have := sectLen_le x.rsize x.recs.length
  simp [x.whole_eq, flatten_length h.recs_len, Sect.len]; omega

theorem cutRecords_flatten {k : Nat} {l : List (List Byte)} (q : List Byte) (h : ∀ r ∈ l, r.length = k) :
    cutRecords k l.length (l.flatten ++ q) = l := by
  induction l with
  | nil => rfl
  | cons a l ih =>
    have ha := h a (by simp)
    simp only [List.length_cons, cutRecords, List.flatten_cons, List.append_assoc]
    rw [← ha, List.take_left, List.drop_left, ha, ih (fun r hr => h r (by simp [hr]))]

/-- What a section says, wherever it stands. -/
theorem section_says {x : Sect} (h : x.Ok) (p q : List Byte) :
    let b : Block := p ++ (x.whole ++ q)
    let o := p.length
    b.nat o 1 = x.type ∧ b.nat (o + 1) 1 = 0 ∧ b.secSize o = x.rsize ∧ b.secCount o = x.recs.length ∧ b.nat (o + 8) 4 = x.rsize * x.recs.length ∧
      b.nat (o + 12) 4 = (crc32c x.recs.flatten).toNat ∧ (b.drop (o + 16)).take (x.rsize * x.recs.length) = x.recs.flatten ∧
      cutRecords x.rsize x.recs.length (b.drop (o + 16)) = x.recs ∧ o + 16 + x.rsize * x.recs.length ≤ b.length ∧ b.secEnd o = o + x.len ∧
      b.zero (o + 16 + x.rsize * x.recs.length) (b.secEnd o - (o + 16 + x.rsize * x.recs.length)) = true := by
  intro b o
  have e : b = p ++ (x.whole ++ q) := rfl
  have hf := flatten_length h.recs_len
  have hw := x.whole_length h
  have hl := sectLen_le x.rsize x.recs.length
  have at_ : ∀ i n, b.nat (o + i) n = Block.nat (x.whole ++ q) i n := fun i n => nat_append p _ i n
  have ns : b.secSize o = x.rsize := by
    rw [Block.secSize, at_, x.whole_eq]
    simpa [List.append_assoc] using nat_behind (leBytes 1 x.type ++ leBytes 1 0) _ (n := 2) (by simpa using h.rsize_lt)
  have nc : b.secCount o = x.recs.length := by
    rw [Block.secCount, at_, x.whole_eq]
    simpa [List.append_assoc] using nat_behind (leBytes 1 x.type ++ leBytes 1 0 ++ leBytes 2 x.rsize) _ (n := 4) (by simpa using h.count_lt)
  have tail : b.drop (o + 16) = x.recs.flatten ++ (List.replicate (sectLen x.rsize x.recs.length - 16 - x.rsize * x.recs.length) 0 ++ q) := by
    rw [e, ← List.drop_drop, List.drop_left, x.whole_eq]
    generalize List.replicate _ (0 : Byte) = z
    simpa [List.append_assoc] using List.drop_left (l₁ := leBytes 1 x.type ++ leBytes 1 0 ++ leBytes 2 x.rsize ++ leBytes 4 x.recs.length ++
      leBytes 4 (x.rsize * x.recs.length) ++ leBytes 4 (crc32c x.recs.flatten).toNat) (l₂ := x.recs.flatten ++ (z ++ q))
  have se : b.secEnd o = o + x.len := by rw [Block.secEnd, ns, nc, Sect.len]
  refine ⟨?_, ?_, ns, nc, ?_, ?_, ?_, ?_, ?_, se, ?_⟩
  · have := at_ 0 1
    rw [Nat.add_zero] at this
    rw [this, x.whole_eq]
    simpa [List.append_assoc] using nat_behind [] _ (n := 1) (by simpa using h.type_lt)
  · rw [at_, x.whole_eq]
    simpa [List.append_assoc] using nat_behind (leBytes 1 x.type) _ (n := 1) (v := 0) (by decide)
  · rw [at_, x.whole_eq]
    simpa [List.append_assoc] using nat_behind (leBytes 1 x.type ++ leBytes 1 0 ++ leBytes 2 x.rsize ++ leBytes 4 x.recs.length) _ (n := 4) (by simpa using h.size_lt)
  · rw [at_, x.whole_eq]
    simpa [List.append_assoc] using nat_behind (leBytes 1 x.type ++ leBytes 1 0 ++ leBytes 2 x.rsize ++ leBytes 4 x.recs.length ++
      leBytes 4 (x.rsize * x.recs.length)) _ (n := 4) (BitVec.isLt (crc32c x.recs.flatten))
  · rw [tail, ← hf, List.take_left]
  · rw [tail, cutRecords_flatten _ h.recs_len]
  · rw [e, List.length_append, List.length_append, hw, Sect.len]; omega
  · rw [Block.zero, ← List.drop_drop, tail, ← hf, List.drop_left, se, Sect.len,
      show o + sectLen x.rsize x.recs.length - (o + 16 + x.recs.flatten.length) = sectLen x.rsize x.recs.length - 16 - x.recs.flatten.length by omega]
    rw [List.take_left' (by simp)]
    simp

/-! ## Images -/

/-- The bytes in front of section `i`. -/
def before (head : List Byte) (l : List Sect) (i : Nat) : List Byte := head ++ (l.take i).flatMap Sect.whole

theorem image_split (head : List Byte) (l : List Sect) {i : Nat} {x : Sect} (hi : l[i]? = some x) :
    head ++ wholeSects l = before head l i ++ (x.whole ++ (l.drop (i + 1)).flatMap Sect.whole) := by
  have hlt : i < l.length := by
    rw [List.getElem?_eq_some_iff] at hi
    exact hi.1
  have hx : l[i] = x := by simpa [hlt] using hi
  have : l = l.take i ++ x :: l.drop (i + 1) := by rw [← hx, ← List.drop_eq_getElem_cons hlt, List.take_append_drop]
  simp only [before, List.append_assoc, List.append_cancel_left_eq]
  show l.flatMap Sect.whole = _
  conv_lhs => rw [this]
  simp

theorem before_succ (head : List Byte) (l : List Sect) {i : Nat} {x : Sect} (hi : l[i]? = some x) :
    before head l (i + 1) = before head l i ++ x.whole := by
  simp [before, List.take_add_one, hi, List.append_assoc]

/-- Section `i` of an image stands behind the header and the sections before it. -/
theorem secOfs_image {head : List Byte} {l : List Sect} (hh : head.length = 64) (hok : ∀ x ∈ l, x.Ok) (i : Nat) (hi : i ≤ l.length) :
    Block.secOfs (head ++ wholeSects l) i = (before head l i).length := by
  induction i with
  | zero => simp [Block.secOfs, before, hh]
  | succ i ih =>
    have hlt : i < l.length := hi
    have hx : l[i]? = some l[i] := by simp [hlt]
    have ok := hok l[i] (List.getElem_mem hlt)
    have e := (section_says ok (before head l i) ((l.drop (i + 1)).flatMap Sect.whole)).2.2.2.2.2.2.2.2.2.1
    rw [← image_split head l hx] at e
    rw [Block.secOfs, ih (by omega), e, before_succ head l hx, List.length_append, Sect.whole_length ok]

/-- A section of an image, its checks and its records. -/
theorem section_of_image {head : List Byte} {l : List Sect} (hh : head.length = 64) (hok : ∀ x ∈ l, x.Ok) {i : Nat} {x : Sect} (hi : l[i]? = some x)
    (t : Nat × Nat × Option Nat) (h1 : x.type = t.1) (h2 : x.rsize = t.2.1) (h3 : t.2.2.any (fun k => x.recs.length != k) = false) :
    (∀ c ∈ Block.secChecks (head ++ wholeSects l) i t, c.1 = false) ∧ Block.secRecs (head ++ wholeSects l) i = x.recs := by
  have hlt : i < l.length := by rw [List.getElem?_eq_some_iff] at hi; exact hi.1
  have hx : l[i] = x := by simpa [hlt] using hi
  have ok : x.Ok := hx ▸ hok l[i] (List.getElem_mem hlt)
  obtain ⟨a1, a2, a3, a4, a5, a6, a7, a8, a9, -, a10⟩ := section_says ok (before head l i) ((l.drop (i + 1)).flatMap Sect.whole)
  have e := secOfs_image hh hok i (by omega)
  rw [← image_split head l hi] at a1 a2 a3 a4 a5 a6 a7 a8 a9 a10
  generalize head ++ wholeSects l = b at *
  constructor
  · intro c hc
    simp only [Block.secChecks, e, a1, a2, a3, a4, a5, a6, ← h1, ← h2, a7, h3, a10, invalidAt] at hc
    simp only [List.mem_cons, List.not_mem_nil, or_false] at hc
    rcases hc with rfl | rfl | rfl | rfl | rfl | rfl | rfl <;> simp <;> omega
  · rw [Block.secRecs, e]
    simp only [a3, a4, a8]

end Sys2Proof.Machine
end

