-- ==== Sys2Proof/Laws/KeptMasthead.lean ====
section
/-! SUPPORT. `State.Kept` over the operations on Masthead, endpoint ports, resets and power. -/

namespace Sys2Proof.Machine

open Sys2Proof

variable {q : List Instr} {s : State}

theorem kept_beginDump (a) (h : s.Kept q) : (State.beginDump s a).Kept q := by
  unfold State.beginDump
  repeat' with_reducible first | assumption | apply kept_ite | split | extract_lets | intro _

theorem kept_writeDump (h : s.Kept q) : (State.writeDump s).Kept q := by
  unfold State.writeDump
  repeat' with_reducible first | assumption | apply kept_store | apply kept_event | split | extract_lets

theorem kept_modUnits (a) (h : s.Kept q) : (State.modUnits s a).Kept q := h

theorem kept_fatal (a b c) (h : s.Kept q) : (State.fatal s a b c).Kept q := by
  unfold State.fatal
  repeat' with_reducible first
    | assumption | apply kept_issueFly | apply kept_sendReport | apply kept_wake | apply kept_raiseIrq | apply kept_beginDump
    | apply kept_postFault | apply kept_ite | split | extract_lets | intro _

theorem kept_withAddress (f : Nat → State → State) (hf : ∀ d t, State.Kept q t → (f d t).Kept q) (h : s.Kept q) :
    (s.withAddress f).Kept q := hf _ _ h

theorem kept_loseWord (a) (h : s.Kept q) : (State.loseWord a s).Kept q := by
  unfold State.loseWord
  repeat' with_reducible first
    | assumption | apply kept_setShadow | apply kept_setWord | apply kept_forEach | apply kept_answerWait | apply kept_ite | split
    | extract_lets | intro _

theorem kept_loseChannel (a) (h : s.Kept q) : (State.loseChannel a s).Kept q := by
  unfold State.loseChannel
  repeat' with_reducible first | assumption | apply kept_breakChannel | apply kept_endBarrierWaits

theorem kept_loseState (a b c d e) (h : s.Kept q) : (State.loseState s a b c d e).Kept q := by
  unfold State.loseState
  repeat' with_reducible first
    | assumption | apply kept_postFault | apply kept_forEach | apply kept_loseWord | apply kept_loseChannel | apply kept_faultColls
    | apply kept_postRestore | split | extract_lets | intro _

theorem kept_resumeCluster (a) (h : s.Kept q) : (State.resumeCluster a s).Kept q := by
  unfold State.resumeCluster
  repeat' with_reducible first
    | assumption | apply kept_modUnits | apply kept_forEach | apply kept_flyMembers | apply kept_flushWords | apply kept_turnSends
    | apply kept_flush | apply kept_ite | split | extract_lets | intro _

theorem kept_loseCluster (a b c d e) (h : s.Kept q) : (State.loseCluster s a b c d e).Kept q := by
  unfold State.loseCluster
  repeat' with_reducible first
    | assumption | apply kept_postFault | apply kept_modUnits | apply kept_withAddress | apply kept_loseState
    | apply kept_resumeCluster | apply kept_ite | split | extract_lets | intro _

theorem kept_coverCluster (a b c d e f) (h : s.Kept q) : (State.coverCluster a b c d e f s).Kept q := by
  unfold State.coverCluster
  repeat' with_reducible first
    | assumption | apply kept_modUnits | apply kept_postFault | apply kept_resumeCluster | apply kept_loseCluster | apply kept_ite
    | split | extract_lets

theorem kept_nodeFail (a b c) (h : s.Kept q) : (State.nodeFail s a b c).Kept q := by
  unfold State.nodeFail
  repeat' with_reducible first
    | assumption | apply kept_modUnits | apply kept_coverCluster | apply kept_postFault | apply kept_forEach | apply kept_ite | split
    | extract_lets | intro _

theorem kept_endFolds (h : s.Kept q) : (State.endFolds s).Kept q := by
  unfold State.endFolds
  repeat' with_reducible first | assumption | apply kept_forEach | apply kept_modUnits | apply kept_ite | split | extract_lets | intro _

theorem kept_execFillComplete (a) (h : s.Kept q) : KeptOut q (execFillComplete a s) := by
  unfold execFillComplete
  repeat' with_reducible first
    | assumption | apply kept_ok | apply kept_resumeCluster | apply kept_modUnits | apply kept_ite | apply kept_oite | split
    | extract_lets | intro _

theorem kept_rootFail (a b c) (h : s.Kept q) : (State.rootFail s a b c).Kept q := by
  unfold State.rootFail
  repeat' with_reducible first
    | assumption | apply kept_modUnits | apply kept_postFault | apply kept_fatal | apply kept_ite | split | extract_lets | intro _

theorem kept_spliceFail (a) (h : s.Kept q) : (State.spliceFail s a).Kept q := by
  unfold State.spliceFail
  repeat' with_reducible first
    | assumption | apply kept_postFault | apply kept_modUnits | apply kept_ite | split | extract_lets | intro _

theorem kept_dropEntry (e) (h : s.Kept q) : (s.dropEntry e).Kept q := by
  have ht := kept_writeEntry (s := s) (e / 1024) (e % 1024) 0 h
  unfold State.dropEntry
  extract_lets a t
  clear_value a
  split
  · exact kept_cancelTag _ ht
  · exact ht

theorem kept_moveBank (a b) (h : s.Kept q) : (State.moveBank a b s).Kept q := by
  unfold State.moveBank
  repeat' with_reducible first
    | assumption | apply kept_forEach | apply kept_writeEntry | apply kept_modUnits | split | extract_lets | intro _

theorem kept_loseBank (a) (h : s.Kept q) : (State.loseBank s a).Kept q := by
  unfold State.loseBank
  repeat' with_reducible first
    | assumption | apply kept_forEach | apply kept_dropEntry | apply kept_moveBank | split | extract_lets | intro _

theorem kept_bankFail (a b) (h : s.Kept q) : (State.bankFail s a b).Kept q := by
  unfold State.bankFail
  repeat' with_reducible first
    | assumption | apply kept_modUnits | apply kept_postFault | apply kept_loseBank | apply kept_ite | split | extract_lets | intro _

theorem kept_bankFault (a b) (h : s.Kept q) : (State.bankFault s a b).Kept q := by
  unfold State.bankFault
  repeat' with_reducible first
    | assumption | apply kept_bankFail | apply kept_modUnits | apply kept_postFault | apply kept_ite | split | extract_lets | intro _

theorem kept_laneFault (a b) (h : s.Kept q) : (State.laneFault s a b).Kept q := by
  unfold State.laneFault
  repeat' with_reducible first
    | assumption | apply kept_postFault | apply kept_modUnits | apply kept_ite | split | extract_lets | intro _

theorem kept_execBankCopyDone (a b) (h : s.Kept q) : KeptOut q (execBankCopyDone a b s) := by
  unfold execBankCopyDone
  repeat' with_reducible first
    | assumption | apply kept_modUnits | apply kept_ok | apply kept_forEach | apply kept_dropEntry | apply kept_ite | apply kept_oite
    | split | extract_lets | intro _

theorem kept_postReset (a b c d) (h : s.Kept q) : (State.postReset s a b c d).Kept q := by
  unfold State.postReset
  repeat' with_reducible first | assumption | apply kept_event

theorem kept_orphanOps (a) (h : s.Kept q) : (State.orphanOps s a).Kept q := h

theorem kept_resetPort (a) (h : s.Kept q) : (State.resetPort s a).Kept q := by
  unfold State.resetPort
  repeat' with_reducible first
    | assumption | apply kept_forEach | apply kept_leaveColl | apply kept_orphanOps | apply kept_setPort | apply kept_resetHoist
    | split | extract_lets | intro _

theorem kept_keepImage (a) (h : s.Kept q) : (State.keepImage s a).Kept q := by
  unfold State.keepImage
  repeat' with_reducible first | assumption | apply kept_ite | split | extract_lets | intro _

theorem kept_resetEndpoint (a b) (h : s.Kept q) : (State.resetEndpoint s a b).Kept q := by
  unfold State.resetEndpoint
  repeat' with_reducible first
    | assumption | apply kept_keepImage | apply kept_postReset | apply kept_resetPort | apply kept_resetTellTale | apply kept_ite
    | split | extract_lets | intro _

theorem kept_releaseStop (h : s.Kept q) : (State.releaseStop s).Kept q := by
  unfold State.releaseStop
  repeat' with_reducible first | assumption | apply kept_forEach | apply kept_resetTellTale | split | extract_lets | intro _

theorem kept_endCut (h : s.Kept q) : (State.endCut s).Kept q := by
  unfold State.endCut
  repeat' with_reducible first
    | assumption | apply kept_releaseStop | apply kept_forEach | apply kept_modPort | split | extract_lets | intro _

theorem kept_execEndpointReset (a) (h : s.Kept q) : KeptOut q (execEndpointReset a s) := by
  unfold execEndpointReset
  repeat' with_reducible first
    | assumption | apply kept_ok | apply kept_resetEndpoint | apply kept_wake | apply kept_ite | apply kept_oite | split
    | extract_lets | intro _

theorem kept_execRebindDone (a) (h : s.Kept q) : KeptOut q (execRebindDone a s) := by
  unfold execRebindDone
  repeat' with_reducible first
    | assumption | apply kept_ok | apply kept_modPort | apply kept_ite | apply kept_oite | split | extract_lets | intro _

theorem kept_execEndpointCoreFailed (a b) (h : s.Kept q) : KeptOut q (execEndpointCoreFailed a b s) := by
  unfold execEndpointCoreFailed
  repeat' with_reducible first
    | assumption | apply kept_ok | apply kept_modPort | apply kept_postFault | apply kept_resetEndpoint | apply kept_ite
    | apply kept_oite | split | extract_lets | intro _

theorem kept_acceptTag (a b) (h : s.Kept q) : (State.acceptTag s a b).Kept q := by
  unfold State.acceptTag
  repeat' with_reducible first
    | assumption | apply kept_pushDone | apply kept_releaseTag | apply kept_cancelTag | apply kept_ite | split | extract_lets
    | intro _

theorem kept_acceptHoist (a b) (h : s.Kept q) : (State.acceptHoist s a b).Kept q := by
  unfold State.acceptHoist
  repeat' with_reducible first
    | assumption | apply kept_startSend | apply kept_withdrawRecvs | apply kept_postRecv | apply kept_ite | split | extract_lets
    | intro _

theorem kept_accept (a b) (h : s.Kept q) : (State.accept s a b).Kept q := by
  unfold State.accept
  repeat' with_reducible first
    | assumption | apply kept_acceptColl | apply kept_acceptTag | apply kept_startComb | apply kept_acceptHoist | split

theorem kept_process (a b) (h : s.Kept q) : KeptOut q (State.process s a b) := by
  unfold State.process
  repeat' with_reducible first
    | assumption | apply kept_fault | apply kept_next | apply kept_pushDone | apply kept_accept | apply kept_ite | apply kept_oite
    | split | extract_lets | intro _

theorem kept_submit (p m) (h : s.Kept q) : KeptOut q (s.submit p m) := by
  unfold State.submit
  split
  · exact h
  split
  · exact kept_fault
  extract_lets d
  clear_value d
  split
  · exact h
  split
  · exact kept_next (kept_modPort _ _ h)
  · exact kept_process _ _ (kept_modPort _ _ h)

theorem kept_execSum (a) (h : s.Kept q) : KeptOut q (execSum a s) := by
  unfold execSum
  repeat' with_reducible first | assumption | apply kept_submit

theorem kept_execSpsum (a) (h : s.Kept q) : KeptOut q (execSpsum a s) := by
  unfold execSpsum
  repeat' with_reducible first | assumption | apply kept_submit

theorem kept_execNsum (a) (h : s.Kept q) : KeptOut q (execNsum a s) := by
  unfold execNsum
  repeat' with_reducible first | assumption | apply kept_submit

theorem kept_execMax (a) (h : s.Kept q) : KeptOut q (execMax a s) := by
  unfold execMax
  repeat' with_reducible first | assumption | apply kept_submit

theorem kept_execMin (a) (h : s.Kept q) : KeptOut q (execMin a s) := by
  unfold execMin
  repeat' with_reducible first | assumption | apply kept_submit

theorem kept_execMaxnum (a) (h : s.Kept q) : KeptOut q (execMaxnum a s) := by
  unfold execMaxnum
  repeat' with_reducible first | assumption | apply kept_submit

theorem kept_execMinnum (a) (h : s.Kept q) : KeptOut q (execMinnum a s) := by
  unfold execMinnum
  repeat' with_reducible first | assumption | apply kept_submit

theorem kept_execAmax (a) (h : s.Kept q) : KeptOut q (execAmax a s) := by
  unfold execAmax
  repeat' with_reducible first | assumption | apply kept_submit

theorem kept_execAmin (a) (h : s.Kept q) : KeptOut q (execAmin a s) := by
  unfold execAmin
  repeat' with_reducible first | assumption | apply kept_submit

theorem kept_execBand (a) (h : s.Kept q) : KeptOut q (execBand a s) := by
  unfold execBand
  repeat' with_reducible first | assumption | apply kept_submit

theorem kept_execBor (a) (h : s.Kept q) : KeptOut q (execBor a s) := by
  unfold execBor
  repeat' with_reducible first | assumption | apply kept_submit

theorem kept_execBxor (a) (h : s.Kept q) : KeptOut q (execBxor a s) := by
  unfold execBxor
  repeat' with_reducible first | assumption | apply kept_submit

theorem kept_execCount (a) (h : s.Kept q) : KeptOut q (execCount a s) := by
  unfold execCount
  repeat' with_reducible first | assumption | apply kept_submit

theorem kept_execScanx (a) (h : s.Kept q) : KeptOut q (execScanx a s) := by
  unfold execScanx
  repeat' with_reducible first | assumption | apply kept_submit

theorem kept_execScani (a) (h : s.Kept q) : KeptOut q (execScani a s) := by
  unfold execScani
  repeat' with_reducible first | assumption | apply kept_submit

theorem kept_execLsem (a) (h : s.Kept q) : KeptOut q (execLsem a s) := by
  unfold execLsem
  repeat' with_reducible first | assumption | apply kept_submit

theorem kept_execRoute (a) (h : s.Kept q) : KeptOut q (execRoute a s) := by
  unfold execRoute
  repeat' with_reducible first | assumption | apply kept_submit

theorem kept_execTagRelease (a) (h : s.Kept q) : KeptOut q (execTagRelease a s) := by
  unfold execTagRelease
  repeat' with_reducible first | assumption | apply kept_submit

theorem kept_execTagCancel (a) (h : s.Kept q) : KeptOut q (execTagCancel a s) := by
  unfold execTagCancel
  repeat' with_reducible first | assumption | apply kept_submit

theorem kept_execCombine (a) (h : s.Kept q) : KeptOut q (execCombine a s) := by
  unfold execCombine
  repeat' with_reducible first | assumption | apply kept_submit

theorem kept_execUncombine (a) (h : s.Kept q) : KeptOut q (execUncombine a s) := by
  unfold execUncombine
  repeat' with_reducible first | assumption | apply kept_submit

theorem kept_execGategrad (a) (h : s.Kept q) : KeptOut q (execGategrad a s) := by
  unfold execGategrad
  repeat' with_reducible first | assumption | apply kept_submit

theorem kept_execBcast (a) (h : s.Kept q) : KeptOut q (execBcast a s) := by
  unfold execBcast
  repeat' with_reducible first | assumption | apply kept_submit

theorem kept_execMcast (a) (h : s.Kept q) : KeptOut q (execMcast a s) := by
  unfold execMcast
  repeat' with_reducible first | assumption | apply kept_submit

theorem kept_execHrecv (a) (h : s.Kept q) : KeptOut q (execHrecv a s) := by
  unfold execHrecv
  repeat' with_reducible first | assumption | apply kept_submit

theorem kept_execHrecvWithdraw (a) (h : s.Kept q) : KeptOut q (execHrecvWithdraw a s) := by
  unfold execHrecvWithdraw
  repeat' with_reducible first | assumption | apply kept_submit

theorem kept_execDescriptorReadPoisoned (a) (h : s.Kept q) : KeptOut q (execDescriptorReadPoisoned a s) := by
  unfold execDescriptorReadPoisoned
  repeat' with_reducible first
    | assumption | apply kept_ok | apply kept_modPort | apply kept_postPoison | apply kept_pushDone | apply kept_ite | apply kept_oite
    | split | extract_lets | intro _

theorem kept_response (a) (ha : ∀ t, State.Kept q t → (a t).Kept q) (h : s.Kept q) : KeptOut q (State.response s a) := by
  unfold State.response
  repeat' with_reducible first
    | assumption | apply kept_ok | apply ha | apply kept_ite | apply kept_oite | split | extract_lets | intro _

theorem kept_residue (a b) (h : s.Kept q) : (State.residue s a b).Kept q := by
  unfold State.residue
  repeat' with_reducible first
    | assumption | apply kept_nodeFail | apply kept_rootFail | apply kept_laneFault | apply kept_bankFault | split

theorem kept_execResidueError (a b c) (h : s.Kept q) : KeptOut q (execResidueError a b c s) := by
  unfold execResidueError
  repeat' with_reducible first | assumption | apply kept_response | apply kept_residue | split | extract_lets | intro _

theorem kept_edgeFail (a) (h : s.Kept q) : (State.edgeFail s a).Kept q := by
  unfold State.edgeFail
  repeat' with_reducible first | assumption | apply kept_nodeFail | apply kept_spliceFail | apply kept_rootFail | split

theorem kept_execFlitCrcError (a b) (h : s.Kept q) : KeptOut q (execFlitCrcError a b s) := by
  unfold execFlitCrcError
  repeat' with_reducible first
    | assumption | apply kept_ok | apply kept_response | apply kept_edgeFail | apply kept_ite | apply kept_oite | split | extract_lets
    | intro _

theorem kept_dropInbound (a) (h : s.Kept q) : (State.dropInbound a s).Kept q := by
  unfold State.dropInbound
  repeat' with_reducible first
    | assumption | apply kept_freeCopy | apply kept_forEach | apply kept_report | split | extract_lets | intro _

theorem kept_retireSegment (a b c) (h : s.Kept q) : (State.retireSegment s a b c).Kept q := by
  unfold State.retireSegment
  repeat' with_reducible first
    | assumption | apply kept_forEach | apply kept_missHold | apply kept_dropInbound | apply kept_postFault | split | extract_lets
    | intro _

theorem kept_faultLanes (a b) (h : s.Kept q) : (State.faultLanes s a b).Kept q := by
  unfold State.faultLanes
  repeat' with_reducible first | assumption | apply kept_stopCombs

theorem kept_entryLost (a) (h : s.Kept q) : (State.entryLost s a).Kept q := by
  unfold State.entryLost
  repeat' with_reducible first
    | assumption | apply kept_loseEntry | apply kept_faultLanes | apply kept_ite | split | extract_lets | intro _

theorem kept_uncorrectable (a) (h : s.Kept q) : (State.uncorrectable s a).Kept q := by
  unfold State.uncorrectable
  repeat' with_reducible first
    | assumption | apply kept_loseState | apply kept_withAddress | apply kept_entryLost | apply kept_retireSegment
    | apply kept_rootFail | apply kept_ite | split | extract_lets | intro _

theorem kept_worn (a) (h : s.Kept q) : (State.worn s a).Kept q := by
  unfold State.worn
  repeat' with_reducible first
    | assumption | apply kept_withAddress | apply kept_nodeFail | apply kept_bankFail | apply kept_retireSegment | split
    | extract_lets | intro _

theorem kept_execSecdedError (a b c) (h : s.Kept q) : KeptOut q (execSecdedError a b c s) := by
  unfold execSecdedError
  repeat' with_reducible first
    | assumption | apply kept_response | apply kept_uncorrectable | apply kept_ok | apply kept_worn | apply kept_ite | apply kept_oite
    | split | extract_lets | intro _

theorem kept_execWireParityError (a) (h : s.Kept q) : KeptOut q (execWireParityError a s) := by
  unfold execWireParityError
  repeat' with_reducible first
    | assumption | apply kept_ok | apply kept_fatal | apply kept_ite | apply kept_oite | split | extract_lets | intro _

theorem kept_execLockstepMismatch (h : s.Kept q) : KeptOut q (execLockstepMismatch s) := by
  unfold execLockstepMismatch
  repeat' with_reducible first
    | assumption | apply kept_endCut | apply kept_fatal | apply kept_ok | apply kept_ite | apply kept_oite | split | extract_lets
    | intro _

theorem kept_execRootPllUnlock (h : s.Kept q) : KeptOut q (execRootPllUnlock s) := by
  unfold execRootPllUnlock
  repeat' with_reducible first | assumption | apply kept_fatal | apply kept_ok

theorem kept_addTest (a) (h : s.Kept q) : (State.addTest s a).Kept q := h

theorem kept_execRootPairMismatch (a b) (h : s.Kept q) : KeptOut q (execRootPairMismatch a b s) := by
  unfold execRootPairMismatch
  repeat' with_reducible first
    | assumption | apply kept_postFault | apply kept_restoreFor | apply kept_faultColls | apply kept_modUnits | apply kept_addTest
    | apply kept_response | apply kept_ok | apply kept_ite | apply kept_oite | split | extract_lets | intro _

theorem kept_execShadowMismatch (a) (h : s.Kept q) : KeptOut q (execShadowMismatch a s) := by
  unfold execShadowMismatch
  repeat' with_reducible first
    | assumption | apply kept_response | apply kept_postFault | apply kept_modUnits | apply kept_addTest | apply kept_ite
    | apply kept_oite | split | extract_lets | intro _

theorem kept_execShadowRotation (a) (h : s.Kept q) : KeptOut q (execShadowRotation a s) := by
  unfold execShadowRotation
  repeat' with_reducible first
    | assumption | apply kept_ok | apply kept_modUnits | apply kept_ite | apply kept_oite | split | extract_lets | intro _

theorem kept_poisonTargets (a) (h : s.Kept q) : (State.poisonTargets s a).Kept q := by
  unfold State.poisonTargets
  repeat' with_reducible first
    | assumption | apply kept_postPoison | apply kept_pushDone | apply kept_modPort | apply kept_ite | split | extract_lets | intro _

theorem kept_poisonEntry (a b) (h : s.Kept q) : (State.poisonEntry s a b).Kept q := by
  unfold State.poisonEntry
  repeat' with_reducible first
    | assumption | apply kept_postPoison | apply kept_stopCombs | apply kept_ite | split | extract_lets | intro _

theorem kept_poisonData (a) (h : s.Kept q) : (State.poisonData s a).Kept q := by
  unfold State.poisonData
  repeat' with_reducible first
    | assumption | apply kept_deny | apply kept_postPoison | apply kept_take | apply kept_ite | split | extract_lets | intro _

theorem kept_execPoisonedRead (a) (h : s.Kept q) : KeptOut q (execPoisonedRead a s) := by
  unfold execPoisonedRead
  repeat' with_reducible first
    | assumption | apply kept_ok | apply kept_postPoison | apply kept_modColl | apply kept_modComb | apply kept_stopCombs
    | apply kept_poisonSend | apply kept_poisonTargets | apply kept_poisonEntry | apply kept_poisonData | apply kept_ite
    | apply kept_oite | split | extract_lets | intro _

theorem kept_startTest (a b c) (h : s.Kept q) : (State.startTest s a b c).Kept q := by
  unfold State.startTest
  repeat' with_reducible first | assumption | apply kept_addTest | apply kept_modUnits | apply kept_ite | split | extract_lets | intro _

theorem kept_execTestNode (a) (h : s.Kept q) : KeptOut q (execTestNode a s) := by
  unfold execTestNode
  repeat' with_reducible first
    | assumption | apply kept_ok | apply kept_command | apply kept_startTest | apply kept_startLong | split | extract_lets | intro _

theorem kept_execBackgroundUnitTest (a) (h : s.Kept q) : KeptOut q (execBackgroundUnitTest a s) := by
  unfold execBackgroundUnitTest
  repeat' with_reducible first
    | assumption | apply kept_ok | apply kept_startTest | apply kept_ite | apply kept_oite | split | extract_lets | intro _

theorem kept_passTest (a) (h : s.Kept q) : (State.passTest s a).Kept q := by
  unfold State.passTest
  repeat' with_reducible first
    | assumption | apply kept_modUnits | apply kept_endFolds | apply kept_moveBank | apply kept_ite | split | extract_lets | intro _

theorem kept_failTest (a) (h : s.Kept q) : (State.failTest s a).Kept q := by
  unfold State.failTest
  repeat' with_reducible first
    | assumption | apply kept_nodeFail | apply kept_rootFail | apply kept_modUnits | apply kept_bankFail | apply kept_postFault
    | apply kept_ite | split | extract_lets | intro _

theorem kept_endPause (a) (h : s.Kept q) : (State.endPause s a).Kept q := by
  unfold State.endPause
  repeat' with_reducible first
    | assumption | apply kept_forEach | apply kept_resumeCluster | apply kept_turnSends | apply kept_flush | split | extract_lets
    | intro _

theorem kept_nextOfPair (a) (h : s.Kept q) : (State.nextOfPair s a).Kept q := by
  unfold State.nextOfPair
  repeat' with_reducible first | assumption | apply kept_modUnits | apply kept_ite | split | extract_lets | intro _

theorem kept_execTestComplete (a b c) (h : s.Kept q) : KeptOut q (execTestComplete a b c s) := by
  unfold execTestComplete
  repeat' with_reducible first
    | assumption | apply kept_ok | apply kept_endPause | apply kept_nextOfPair | apply kept_passTest | apply kept_failTest
    | apply kept_endLong | apply kept_ite | apply kept_oite | split | extract_lets | intro _

theorem kept_execNodeReset (a) (h : s.Kept q) : KeptOut q (execNodeReset a s) := by
  unfold execNodeReset
  repeat' with_reducible first
    | assumption | apply kept_ok | apply kept_postReset | apply kept_ite | apply kept_oite | split | extract_lets | intro _

theorem kept_startCal (a) (h : s.Kept q) : (State.startCal s a).Kept q := h

theorem kept_execCalPortAdapt (a) (h : s.Kept q) : KeptOut q (execCalPortAdapt a s) := by
  unfold execCalPortAdapt
  repeat' with_reducible first
    | assumption | apply kept_ok | apply kept_command | apply kept_startCal | apply kept_startLong | split | extract_lets | intro _

theorem kept_recalibrate (a) (h : s.Kept q) : (State.recalibrate s a).Kept q := by
  unfold State.recalibrate
  repeat' with_reducible first
    | assumption | apply kept_movePort | apply kept_modLnk | apply kept_startCal | apply kept_ite | split | extract_lets | intro _

theorem kept_execCalPortRecalibrate (a) (h : s.Kept q) : KeptOut q (execCalPortRecalibrate a s) := by
  unfold execCalPortRecalibrate
  repeat' with_reducible first
    | assumption | apply kept_ok | apply kept_command | apply kept_recalibrate | apply kept_startLong | split | extract_lets | intro _

theorem kept_execCalPortSetPhy (a) (h : s.Kept q) : KeptOut q (execCalPortSetPhy a s) := by
  unfold execCalPortSetPhy
  repeat' with_reducible first
    | assumption | apply kept_ok | apply kept_command | apply kept_startLong | apply kept_endLong | split | extract_lets | intro _

theorem kept_execCalPortSetTaps (a) (h : s.Kept q) : KeptOut q (execCalPortSetTaps a s) := by
  unfold execCalPortSetTaps
  repeat' with_reducible first
    | assumption | apply kept_ok | apply kept_command | apply kept_startLong | apply kept_endLong | split | extract_lets | intro _

theorem kept_execCalibrationDone (a) (h : s.Kept q) : KeptOut q (execCalibrationDone a s) := by
  unfold execCalibrationDone
  repeat' with_reducible first
    | assumption | apply kept_setLnk | apply kept_ok | apply kept_endLong | apply kept_ite | apply kept_oite | split | extract_lets
    | intro _

theorem kept_execPortRecalibration (a) (h : s.Kept q) : KeptOut q (execPortRecalibration a s) := by
  unfold execPortRecalibration
  repeat' with_reducible first
    | assumption | apply kept_ok | apply kept_recalibrate | apply kept_ite | apply kept_oite | split | extract_lets | intro _

theorem kept_scanOut (a) (h : s.Kept q) : (State.scanOut s a).Kept q := h

theorem kept_scanFree (a) (h : s.Kept q) : (State.scanFree s a).Kept q := by
  unfold State.scanFree
  repeat' with_reducible first | assumption | apply kept_scanOut

theorem kept_newRegisters (h : s.Kept q) : (State.newRegisters s).Kept q := h

theorem kept_instrument (a) (h : s.Kept q) : (State.instrument s a).Kept q := by
  unfold State.instrument
  repeat' with_reducible first
    | assumption | apply kept_scanOut | apply kept_scanFree | apply kept_residue | apply kept_uncorrectable | apply kept_newRegisters
    | apply kept_ite | split | extract_lets | intro _

theorem kept_execTapInstrumentAccess (a) (h : s.Kept q) : KeptOut q (execTapInstrumentAccess a s) := by
  unfold execTapInstrumentAccess
  repeat' with_reducible first
    | assumption | apply kept_ok | apply kept_instrument | apply kept_ite | apply kept_oite | split | extract_lets | intro _

theorem kept_choose (a) (h : s.Kept q) : (State.choose s a).Kept q := h

theorem kept_execCinch (a) (h : s.Kept q) : KeptOut q (execCinch a s) := by
  unfold execCinch
  repeat' with_reducible first
    | assumption | apply kept_ok | apply kept_command | apply kept_choose | apply kept_startLong | split | extract_lets | intro _

theorem kept_abandon (a b) (h : s.Kept q) : (State.abandon s a b).Kept q := by
  unfold State.abandon
  repeat' with_reducible first | assumption | apply kept_endLong | apply kept_endCut

theorem kept_setCut (a) (h : s.Kept q) : (State.setCut s a).Kept q := h

theorem kept_inPhase (a b) (hb : ∀ x0 t, State.Kept q t → (b x0 t).Kept q) (h : s.Kept q) : KeptOut q (State.inPhase s a b) := by
  unfold State.inPhase
  repeat' with_reducible first
    | assumption | apply kept_ok | apply hb | apply kept_ite | apply kept_oite | split | extract_lets | intro _

theorem kept_contribute (a) (h : s.Kept q) : (State.contribute s a).Kept q := h

theorem kept_execCinchAgreeResult (a) (h : s.Kept q) : KeptOut q (execCinchAgreeResult a s) := by
  unfold execCinchAgreeResult
  repeat' with_reducible first
    | assumption | apply kept_inPhase | apply kept_contribute | apply kept_abandon | apply kept_ite | apply kept_oite | split
    | extract_lets | intro _

theorem kept_execCinchDrained (h : s.Kept q) : KeptOut q (execCinchDrained s) := by
  unfold execCinchDrained
  repeat' with_reducible first
    | assumption | apply kept_inPhase | apply kept_setCut | apply kept_ite | apply kept_oite | split | extract_lets | intro _

theorem kept_storeRemote (a b c) (h : s.Kept q) : (s.storeRemote a b c).Kept q :=
  ⟨h.queue, { h.sound with remote_wf := Memory.writeN_wf _ _ h.sound.remote_wf }⟩

theorem kept_beginCapture (a) (h : s.Kept q) : (State.beginCapture s a).Kept q := by
  unfold State.beginCapture
  repeat' with_reducible first
    | assumption | apply kept_setCut | apply kept_storeRemote | apply kept_ite | split | extract_lets | intro _

theorem kept_quietRound (a b c d e f) (h : s.Kept q) : (State.quietRound s a b c d e f).Kept q := by
  unfold State.quietRound
  repeat' with_reducible first
    | assumption | apply kept_contribute | apply kept_abandon | apply kept_beginCapture | apply kept_ite | split | extract_lets
    | intro _

theorem kept_execCinchQuietRound (a b c d e) (h : s.Kept q) : KeptOut q (execCinchQuietRound a b c d e s) := by
  unfold execCinchQuietRound
  repeat' with_reducible first
    | assumption | apply kept_ok | apply kept_quietRound | apply kept_ite | apply kept_oite | split | extract_lets | intro _

theorem kept_beginCopy (h : s.Kept q) : (State.beginCopy s).Kept q := by
  unfold State.beginCopy
  repeat' with_reducible first | assumption | apply kept_store | apply kept_ite | split | extract_lets | intro _

theorem kept_queueCopy (a) (h : s.Kept q) : (State.queueCopy s a).Kept q := by
  unfold State.queueCopy
  repeat' with_reducible first | assumption | apply kept_beginCopy | apply kept_ite | split | extract_lets | intro _

theorem kept_captured (a b c) (h : s.Kept q) : (State.captured s a b c).Kept q := by
  unfold State.captured
  repeat' with_reducible first
    | assumption | apply kept_releaseStop | apply kept_setCut | apply kept_storeRemote | apply kept_queueCopy | apply kept_ite | split
    | extract_lets | intro _

theorem kept_execCinchCaptureDone (a) (h : s.Kept q) : KeptOut q (execCinchCaptureDone a s) := by
  unfold execCinchCaptureDone
  repeat' with_reducible first
    | assumption | apply kept_inPhase | apply kept_captured | apply kept_ite | apply kept_oite | split | extract_lets | intro _

theorem kept_commitCut (a b) (h : s.Kept q) : (State.commitCut s a b).Kept q := by
  unfold State.commitCut
  repeat' with_reducible first
    | assumption | apply kept_storeRemote | apply kept_store | apply kept_queueCopy | apply kept_endLong | apply kept_endCut
    | apply kept_ite | split | extract_lets | intro _

theorem kept_execCinchCommitResult (a) (h : s.Kept q) : KeptOut q (execCinchCommitResult a s) := by
  unfold execCinchCommitResult
  repeat' with_reducible first
    | assumption | apply kept_inPhase | apply kept_contribute | apply kept_abandon | apply kept_commitCut | apply kept_ite
    | apply kept_oite | split | extract_lets | intro _

theorem kept_copyEnd (a b) (h : s.Kept q) : (State.copyEnd s a b).Kept q := by
  unfold State.copyEnd
  repeat' with_reducible first | assumption | apply kept_store | apply kept_cutReason | apply kept_ite | split | extract_lets | intro _

theorem kept_flashDone (a b) (h : s.Kept q) : (State.flashDone s a b).Kept q := by
  unfold State.flashDone
  repeat' with_reducible first | assumption | apply kept_copyEnd | apply kept_beginCopy

theorem kept_execCinchFlashCopyDone (a) (h : s.Kept q) : KeptOut q (execCinchFlashCopyDone a s) := by
  unfold execCinchFlashCopyDone
  repeat' with_reducible first | assumption | apply kept_ok | apply kept_flashDone | split

theorem kept_execCinchPhaseTimeout (h : s.Kept q) : KeptOut q (execCinchPhaseTimeout s) := by
  unfold execCinchPhaseTimeout
  repeat' with_reducible first
    | assumption | apply kept_ok | apply kept_abandon | apply kept_cutReason | apply kept_ite | apply kept_oite | split | extract_lets
    | intro _

theorem kept_regErr (a) (h : s.Kept q) : (State.regErr s a).Kept q := by
  unfold State.regErr
  repeat' with_reducible first | assumption | apply kept_modPort

theorem kept_writeIf (a b c d) (hd : ∀ t, State.Kept q t → (d t).Kept q) (h : s.Kept q) : (State.writeIf s a b c d).Kept q := by
  unfold State.writeIf
  repeat' with_reducible first | assumption | apply kept_regErr | apply hd | apply kept_ite | split | extract_lets | intro _

theorem kept_writeSqCfg (a b) (h : s.Kept q) : (State.writeSqCfg s a b).Kept q := by
  unfold State.writeSqCfg
  repeat' with_reducible first
    | assumption | apply kept_writeIf | apply kept_regErr | apply kept_modPort | apply kept_ite | split | extract_lets | intro _

theorem kept_writeCqCfg (a b) (h : s.Kept q) : (State.writeCqCfg s a b).Kept q := by
  unfold State.writeCqCfg
  repeat' with_reducible first
    | assumption | apply kept_writeIf | apply kept_regErr | apply kept_modPort | apply kept_ite | split | extract_lets | intro _

theorem kept_writeSqTail (a b) (h : s.Kept q) : (State.writeSqTail s a b).Kept q := by
  unfold State.writeSqTail
  repeat' with_reducible first | assumption | apply kept_writeIf | apply kept_modPort | apply kept_ite | split | extract_lets | intro _

theorem kept_writeCqHead (a b) (h : s.Kept q) : (State.writeCqHead s a b).Kept q := by
  unfold State.writeCqHead
  repeat' with_reducible first | assumption | apply kept_writeIf | apply kept_modPort | apply kept_ite | split | extract_lets | intro _

theorem kept_writeTtPop (a b) (h : s.Kept q) : (State.writeTtPop s a b).Kept q := by
  unfold State.writeTtPop
  repeat' with_reducible first | assumption | apply kept_writeIf | apply kept_modPort | apply kept_ite | split | extract_lets | intro _

theorem kept_postNotice (a b) (h : s.Kept q) : (State.postNotice s a b).Kept q := by
  unfold State.postNotice
  repeat' with_reducible first | assumption | apply kept_modPort | apply kept_ite | split | extract_lets | intro _

theorem kept_writeNqStat (a b) (h : s.Kept q) : (State.writeNqStat s a b).Kept q := by
  unfold State.writeNqStat
  repeat' with_reducible first | assumption | apply kept_writeIf | apply kept_modPort | apply kept_ite | split | extract_lets | intro _

theorem kept_portWrite (a b c) (h : s.Kept q) : (State.portWrite s a b c).Kept q := by
  unfold State.portWrite
  repeat' with_reducible first
    | assumption | apply kept_writeIf | apply kept_modPort | apply kept_writeSqCfg | apply kept_writeSqTail | apply kept_writeCqCfg
    | apply kept_writeCqHead | apply kept_ttStore | apply kept_writeTtPop | apply kept_postNotice | apply kept_writeNqStat
    | apply kept_regErr | apply kept_ite | split | extract_lets | intro _

theorem kept_portStore (a b c) (h : s.Kept q) : (State.portStore s a b c).Kept q := by
  unfold State.portStore
  repeat' with_reducible first | assumption | apply kept_wake | apply kept_portWrite | apply kept_ite | split | extract_lets | intro _

theorem kept_execRegisterWrite (a b c) (h : s.Kept q) : KeptOut q (execRegisterWrite a b c s) := by
  unfold execRegisterWrite
  repeat' with_reducible first | assumption | apply kept_ok | apply kept_portStore

theorem kept_execEpSqCfg (a b) (h : s.Kept q) : KeptOut q (execEpSqCfg a b s) := by
  unfold execEpSqCfg
  repeat' with_reducible first | assumption | apply kept_ok | apply kept_portStore

theorem kept_execEpCqCfg (a b) (h : s.Kept q) : KeptOut q (execEpCqCfg a b s) := by
  unfold execEpCqCfg
  repeat' with_reducible first | assumption | apply kept_ok | apply kept_portStore

theorem kept_execSubmissionDoorbell (a b) (h : s.Kept q) : KeptOut q (execSubmissionDoorbell a b s) := by
  unfold execSubmissionDoorbell
  repeat' with_reducible first | assumption | apply kept_ok | apply kept_portStore

theorem kept_execCompletionDoorbell (a b) (h : s.Kept q) : KeptOut q (execCompletionDoorbell a b s) := by
  unfold execCompletionDoorbell
  repeat' with_reducible first | assumption | apply kept_ok | apply kept_portStore

theorem kept_execEpTtPop (a b) (h : s.Kept q) : KeptOut q (execEpTtPop a b s) := by
  unfold execEpTtPop
  repeat' with_reducible first | assumption | apply kept_ok | apply kept_portStore

theorem kept_execEpNqStat (a b) (h : s.Kept q) : KeptOut q (execEpNqStat a b s) := by
  unfold execEpNqStat
  repeat' with_reducible first | assumption | apply kept_ok | apply kept_portStore

theorem kept_execNoticePost (a b) (h : s.Kept q) : KeptOut q (execNoticePost a b s) := by
  unfold execNoticePost
  repeat' with_reducible first | assumption | apply kept_ok | apply kept_portStore

theorem kept_execNoticeSend (a) (h : s.Kept q) : KeptOut q (execNoticeSend a s) := by
  unfold execNoticeSend
  repeat' with_reducible first
    | assumption | apply kept_modPort | apply kept_ok | apply kept_originate | apply kept_ite | apply kept_oite | split | extract_lets
    | intro _

theorem kept_execArrival (a) (h : s.Kept q) : KeptOut q (execArrival a s) := by
  unfold execArrival
  repeat' with_reducible first
    | assumption | apply kept_ok | apply kept_applyNotice | apply kept_onMsg | apply kept_consumeOrForward | split | extract_lets
    | intro _

theorem kept_restoreContext (a) (h : s.Kept q) : (State.restoreContext a s).Kept q := by
  unfold State.restoreContext
  repeat' with_reducible first | assumption | split

theorem kept_restoreWords (a) (h : s.Kept q) : (State.restoreWords s a).Kept q := by
  have h0 : State.Kept q { s with tt := { s.tt with words := [] } } := ⟨h.queue, { h.sound with words_up := List.Pairwise.nil }⟩
  unfold State.restoreWords
  repeat' with_reducible first | assumption | apply kept_forEach | apply kept_setWord | split | extract_lets | intro _

theorem kept_beginWait (a b c) (h : s.Kept q) : (State.beginWait s a b c).Kept q := by
  unfold State.beginWait
  repeat' with_reducible first | assumption | apply kept_modPort

theorem kept_restoreWordWaiter (a) (h : s.Kept q) : (State.restoreWordWaiter s a).Kept q := by
  unfold State.restoreWordWaiter
  repeat' with_reducible first
    | assumption | apply kept_beginWait | apply kept_setWord | apply kept_ite | split | extract_lets | intro _

theorem kept_restoreBarrierWaiter (a) (h : s.Kept q) : (State.restoreBarrierWaiter s a).Kept q := by
  unfold State.restoreBarrierWaiter
  repeat' with_reducible first | assumption | apply kept_beginWait | apply kept_setChan

theorem kept_restoreWaiters (a) (h : s.Kept q) : (State.restoreWaiters s a).Kept q := by
  unfold State.restoreWaiters
  repeat' with_reducible first
    | assumption | apply kept_forEach | apply kept_restoreWordWaiter | apply kept_restoreBarrierWaiter | apply kept_ite | split
    | extract_lets | intro _

theorem kept_restoreChannel (a b) (h : s.Kept q) : (State.restoreChannel a b s).Kept q := by
  unfold State.restoreChannel
  repeat' with_reducible first | assumption | apply kept_setChan | apply kept_modChan | apply kept_ite | split | extract_lets

theorem kept_restoreTag (a b) (h : s.Kept q) : (State.restoreTag a b s).Kept q := by
  unfold State.restoreTag
  repeat' with_reducible first
    | assumption | apply kept_forEach | apply kept_writeRow | apply kept_setTag | apply kept_ite | split | extract_lets | intro _

theorem kept_writeUnreadable (a b) (h : s.Kept q) : (State.writeUnreadable s a b).Kept q := by
  unfold State.writeUnreadable
  repeat' with_reducible first | assumption | apply kept_store | split | extract_lets

theorem kept_restoreEntry (a) (h : s.Kept q) : (State.restoreEntry a s).Kept q := by
  unfold State.restoreEntry
  repeat' with_reducible first
    | assumption | apply kept_writeUnreadable | apply kept_writeRow | apply kept_ite | split | extract_lets | intro _

theorem kept_restorePort (a b) (h : s.Kept q) : (State.restorePort a b s).Kept q := by
  unfold State.restorePort
  repeat' with_reducible first | assumption | apply kept_modPort

theorem kept_restoreHeld (a) (h : s.Kept q) : (State.restoreHeld a s).Kept q := by
  unfold State.restoreHeld
  repeat' with_reducible first
    | assumption | apply kept_modPort | apply kept_startComb | apply kept_ite | split | extract_lets | intro _

theorem kept_restoreDups (a) (h : s.Kept q) : (State.restoreDups a s).Kept q := h

theorem kept_noShadows (h : s.Kept q) : State.Kept q { s with shadow := { s.shadow with shadows := [] } } :=
  ⟨h.queue, { h.sound with shadows_up := List.Pairwise.nil }⟩

theorem kept_applyImage (a) (h : s.Kept q) : (State.applyImage s a).Kept q := by
  unfold State.applyImage
  repeat' with_reducible first
    | assumption | apply kept_forEach | apply kept_restoreContext | apply kept_restoreWords | apply kept_restoreChannel
    | apply kept_restoreTag | apply kept_restoreEntry | apply kept_restorePort | apply kept_restoreWaiters | apply kept_restoreHeld
    | apply kept_restoreDups | apply kept_noShadows | split | extract_lets | intro _

theorem kept_execRestore (a) (h : s.Kept q) : KeptOut q (execRestore a s) := by
  unfold execRestore
  repeat' with_reducible first
    | assumption | apply kept_ok | apply kept_command | apply kept_reply | apply kept_applyImage | split | extract_lets | intro _

theorem kept_execPowerStateActive (a) (h : s.Kept q) : KeptOut q (execPowerStateActive a s) := by
  unfold execPowerStateActive
  repeat' with_reducible first
    | assumption | apply kept_ok | apply kept_command | apply kept_startLong | apply kept_endLong | apply kept_wake | apply kept_ite
    | apply kept_oite | split | extract_lets | intro _

theorem kept_execPowerStateDoze (a) (h : s.Kept q) : KeptOut q (execPowerStateDoze a s) := by
  unfold execPowerStateDoze
  repeat' with_reducible first
    | assumption | apply kept_ok | apply kept_command | apply kept_startLong | apply kept_endLong | apply kept_ite | apply kept_oite
    | split | extract_lets | intro _

theorem kept_gateClocks (h : s.Kept q) : (State.gateClocks s).Kept q := by
  unfold State.gateClocks
  repeat' with_reducible first | assumption | apply kept_endLong | apply kept_ite | split | extract_lets | intro _

theorem kept_idle (h : s.Kept q) : (State.idle s).Kept q := by
  unfold State.idle
  repeat' with_reducible first | assumption | apply kept_gateClocks | apply kept_writeDump

/-- Links that have been lost are in canonical form. -/
theorem LinkState.lost_wf (x : LinkState) : Tbl.wf Link.reset x.lost.links = true := by
  have h : ∀ (l : List (Nat × Link)) (m : Tbl Link), Tbl.wf Link.reset m = true →
      Tbl.wf Link.reset (l.foldl (fun t e => Tbl.set Link.reset t e.1
        { Link.reset e.1 with lanes := e.2.lanes, badLanes := e.2.badLanes }) m) = true := by
    intro l
    induction l with
    | nil => exact fun m h => h
    | cons e r ih => exact fun m h => ih _ (Tbl.set_wf _ _ h)
  exact h x.links [] rfl

theorem kept_execPowerStateRetain (a) (h : s.Kept q) : KeptOut q (execPowerStateRetain a s) := by
  unfold execPowerStateRetain
  refine kept_ok (kept_command _ _ _ _ _ _ (fun c t ht => ?_) h)
  have hs := kept_startLong (s := t) c (.power .retain) ht
  extract_lets u
  split
  · exact kept_endLong _ _ _ hs
  · exact ⟨hs.queue, { hs.sound with links_wf := LinkState.lost_wf _ }⟩

theorem kept_execPowerStateOff (a) (h : s.Kept q) : KeptOut q (execPowerStateOff a s) := by
  unfold execPowerStateOff
  repeat' with_reducible first
    | assumption | apply kept_ok | apply kept_command | apply kept_endLong | apply kept_startLong | split | extract_lets | intro _

theorem kept_execWakeEvent (a) (h : s.Kept q) : KeptOut q (execWakeEvent a s) := by
  unfold execWakeEvent
  repeat' with_reducible first | assumption | apply kept_ok | apply kept_wake

theorem kept_trainAll (h : s.Kept q) : (State.trainAll s).Kept q := by
  unfold State.trainAll
  repeat' with_reducible first | assumption | apply kept_forEach | apply kept_setLnk | split | extract_lets | intro _

/-- The state after reset is sound. -/
theorem State.reset_sound : State.reset.Sound where
  mem_wf := rfl
  remote_wf := rfl
  ports_wf := rfl
  chans_wf := rfl
  tags_wf := rfl
  links_wf := rfl
  words_up := List.Pairwise.nil
  shadows_up := List.Pairwise.nil
  die_up := List.Pairwise.nil
  ring_up := List.Pairwise.nil
  head_lt := by decide
  tail_lt := by decide
  errs_le := Nat.zero_le _
  drifts_le := Nat.zero_le _
  policy_wf := rfl
  policy_ok := by decide
  policy_le := by decide
  counters_wf := rfl
  counters_le := fun _ => Nat.zero_le _

theorem kept_afterReset (a b) (h : s.Kept q) : (s.afterReset a b).Kept q := by
  have hl : Tbl.wf Link.reset (if decide (a = .cold) then LinkState.reset else s.link.lost).links = true := by
    split
    · rfl
    · exact LinkState.lost_wf _
  exact ⟨h.queue, { State.reset_sound with mem_wf := h.sound.mem_wf, remote_wf := h.sound.remote_wf, links_wf := hl }⟩

theorem kept_execColdReset (a) (h : s.Kept q) : KeptOut q (execColdReset a s) := by
  unfold execColdReset
  repeat' with_reducible first | assumption | apply kept_ok | apply kept_afterReset

theorem kept_execWarmReset (h : s.Kept q) : KeptOut q (execWarmReset s) := by
  unfold execWarmReset
  repeat' with_reducible first
    | assumption | apply kept_ok | apply kept_afterReset | apply kept_ite | apply kept_oite | split | extract_lets | intro _

theorem kept_execBlockReset (h : s.Kept q) : KeptOut q (execBlockReset s) := by
  unfold execBlockReset
  repeat' with_reducible first
    | assumption | apply kept_ok | apply kept_afterReset | apply kept_ite | apply kept_oite | split | extract_lets | intro _

theorem kept_exitRetain (h : s.Kept q) : (State.exitRetain s).Kept q := by
  unfold State.exitRetain
  repeat' with_reducible first | assumption | apply kept_postReset | apply kept_endLong | apply kept_trainAll

theorem kept_powerOff (h : s.Kept q) : (State.powerOff s).Kept q := by
  unfold State.powerOff
  repeat' with_reducible first | assumption | apply kept_afterReset

theorem kept_execRailAck (h : s.Kept q) : KeptOut q (execRailAck s) := by
  unfold execRailAck
  repeat' with_reducible first | assumption | apply kept_ok | apply kept_exitRetain | apply kept_endLong | apply kept_powerOff | split

theorem kept_execMbistDone (a) (h : s.Kept q) : KeptOut q (execMbistDone a s) := by
  unfold execMbistDone
  repeat' with_reducible first
    | assumption | apply kept_modUnits | apply kept_forEach | apply kept_ok | apply kept_ite | apply kept_oite | split | extract_lets
    | intro _

theorem kept_rollBack (h : s.Kept q) : (State.rollBack s).Kept q := h

theorem kept_execImageVerified (a) (h : s.Kept q) : KeptOut q (execImageVerified a s) := by
  unfold execImageVerified
  repeat' with_reducible first
    | assumption | apply kept_ok | apply kept_rollBack | apply kept_ite | apply kept_oite | split | extract_lets | intro _

theorem kept_execTrialBootTimeout (h : s.Kept q) : KeptOut q (execTrialBootTimeout s) := by
  unfold execTrialBootTimeout
  repeat' with_reducible first
    | assumption | apply kept_ok | apply kept_rollBack | apply kept_ite | apply kept_oite | split | extract_lets | intro _

theorem kept_startRecords (h : s.Kept q) : (State.startRecords s).Kept q := by
  unfold State.startRecords
  repeat' with_reducible first
    | assumption | apply kept_postReset | apply kept_event | apply kept_forEach | apply kept_postFault | apply kept_ite | split
    | extract_lets | intro _

theorem kept_execMhReady (a) (h : s.Kept q) : KeptOut q (execMhReady a s) := by
  unfold execMhReady
  repeat' with_reducible first
    | assumption | apply kept_within | apply kept_startRecords | apply kept_trainAll | apply kept_ok | apply kept_ite
    | apply kept_oite | split | extract_lets | intro _

end Sys2Proof.Machine
end

