-- ==== Sys2Proof/Laws/State.lean ====
section
/-! SUPPORT. What each named update of State leaves alone, field by field, and what a table reads after an entry of it is set. -/

namespace Sys2Proof.Machine

open Sys2Proof

variable (s : State)

/-! `setPort` -/

@[simp] theorem setPort_pending (p : Nat) (x : Port) : (s.setPort p x).pending = s.pending := rfl
@[simp] theorem setPort_mem (p : Nat) (x : Port) : (s.setPort p x).mem = s.mem := rfl
@[simp] theorem setPort_remote (p : Nat) (x : Port) : (s.setPort p x).remote = s.remote := rfl
@[simp] theorem setPort_topo (p : Nat) (x : Port) : (s.setPort p x).topo = s.topo := rfl
@[simp] theorem setPort_ctxs (p : Nat) (x : Port) : (s.setPort p x).ctxs = s.ctxs := rfl
@[simp] theorem setPort_pol (p : Nat) (x : Port) : (s.setPort p x).pol = s.pol := rfl
@[simp] theorem setPort_tt (p : Nat) (x : Port) : (s.setPort p x).tt = s.tt := rfl
@[simp] theorem setPort_shadow (p : Nat) (x : Port) : (s.setPort p x).shadow = s.shadow := rfl
@[simp] theorem setPort_counters (p : Nat) (x : Port) : (s.setPort p x).counters = s.counters := rfl
@[simp] theorem setPort_led (p : Nat) (x : Port) : (s.setPort p x).led = s.led := rfl
@[simp] theorem setPort_ops (p : Nat) (x : Port) : (s.setPort p x).ops = s.ops := rfl
@[simp] theorem setPort_link (p : Nat) (x : Port) : (s.setPort p x).link = s.link := rfl
@[simp] theorem setPort_keys (p : Nat) (x : Port) : (s.setPort p x).keys = s.keys := rfl
@[simp] theorem setPort_units (p : Nat) (x : Port) : (s.setPort p x).units = s.units := rfl
@[simp] theorem setPort_dump (p : Nat) (x : Port) : (s.setPort p x).dump = s.dump := rfl
@[simp] theorem setPort_cut (p : Nat) (x : Port) : (s.setPort p x).cut = s.cut := rfl
@[simp] theorem setPort_win (p : Nat) (x : Port) : (s.setPort p x).win = s.win := rfl
@[simp] theorem setPort_debug (p : Nat) (x : Port) : (s.setPort p x).debug = s.debug := rfl
@[simp] theorem setPort_mh (p : Nat) (x : Port) : (s.setPort p x).mh = s.mh := rfl
@[simp] theorem setPort_sec (p : Nat) (x : Port) : (s.setPort p x).sec = s.sec := rfl
@[simp] theorem setPort_power (p : Nat) (x : Port) : (s.setPort p x).power = s.power := rfl
@[simp] theorem setPort_inp (p : Nat) (x : Port) : (s.setPort p x).inp = s.inp := rfl
@[simp] theorem setPort_out (p : Nat) (x : Port) : (s.setPort p x).out = s.out := rfl
@[simp] theorem setPort_tap (p : Nat) (x : Port) : (s.setPort p x).tap = s.tap := rfl
@[simp] theorem setPort_free (p : Nat) (x : Port) : (s.setPort p x).free = s.free := rfl
theorem setPort_eq (p : Nat) (x : Port) : s.setPort p x =
    { s with ports := (s.setPort p x).ports } := rfl

/-! `modPort` -/

@[simp] theorem modPort_pending (p : Nat) (f : Port → Port) : (s.modPort p f).pending = s.pending := rfl
@[simp] theorem modPort_mem (p : Nat) (f : Port → Port) : (s.modPort p f).mem = s.mem := rfl
@[simp] theorem modPort_remote (p : Nat) (f : Port → Port) : (s.modPort p f).remote = s.remote := rfl
@[simp] theorem modPort_topo (p : Nat) (f : Port → Port) : (s.modPort p f).topo = s.topo := rfl
@[simp] theorem modPort_ctxs (p : Nat) (f : Port → Port) : (s.modPort p f).ctxs = s.ctxs := rfl
@[simp] theorem modPort_pol (p : Nat) (f : Port → Port) : (s.modPort p f).pol = s.pol := rfl
@[simp] theorem modPort_tt (p : Nat) (f : Port → Port) : (s.modPort p f).tt = s.tt := rfl
@[simp] theorem modPort_shadow (p : Nat) (f : Port → Port) : (s.modPort p f).shadow = s.shadow := rfl
@[simp] theorem modPort_counters (p : Nat) (f : Port → Port) : (s.modPort p f).counters = s.counters := rfl
@[simp] theorem modPort_led (p : Nat) (f : Port → Port) : (s.modPort p f).led = s.led := rfl
@[simp] theorem modPort_ops (p : Nat) (f : Port → Port) : (s.modPort p f).ops = s.ops := rfl
@[simp] theorem modPort_link (p : Nat) (f : Port → Port) : (s.modPort p f).link = s.link := rfl
@[simp] theorem modPort_keys (p : Nat) (f : Port → Port) : (s.modPort p f).keys = s.keys := rfl
@[simp] theorem modPort_units (p : Nat) (f : Port → Port) : (s.modPort p f).units = s.units := rfl
@[simp] theorem modPort_dump (p : Nat) (f : Port → Port) : (s.modPort p f).dump = s.dump := rfl
@[simp] theorem modPort_cut (p : Nat) (f : Port → Port) : (s.modPort p f).cut = s.cut := rfl
@[simp] theorem modPort_win (p : Nat) (f : Port → Port) : (s.modPort p f).win = s.win := rfl
@[simp] theorem modPort_debug (p : Nat) (f : Port → Port) : (s.modPort p f).debug = s.debug := rfl
@[simp] theorem modPort_mh (p : Nat) (f : Port → Port) : (s.modPort p f).mh = s.mh := rfl
@[simp] theorem modPort_sec (p : Nat) (f : Port → Port) : (s.modPort p f).sec = s.sec := rfl
@[simp] theorem modPort_power (p : Nat) (f : Port → Port) : (s.modPort p f).power = s.power := rfl
@[simp] theorem modPort_inp (p : Nat) (f : Port → Port) : (s.modPort p f).inp = s.inp := rfl
@[simp] theorem modPort_out (p : Nat) (f : Port → Port) : (s.modPort p f).out = s.out := rfl
@[simp] theorem modPort_tap (p : Nat) (f : Port → Port) : (s.modPort p f).tap = s.tap := rfl
@[simp] theorem modPort_free (p : Nat) (f : Port → Port) : (s.modPort p f).free = s.free := rfl
theorem modPort_eq (p : Nat) (f : Port → Port) : s.modPort p f =
    { s with ports := (s.modPort p f).ports } := rfl

/-! `setChan` -/

@[simp] theorem setChan_pending (c : Nat) (x : Channel) : (s.setChan c x).pending = s.pending := rfl
@[simp] theorem setChan_mem (c : Nat) (x : Channel) : (s.setChan c x).mem = s.mem := rfl
@[simp] theorem setChan_remote (c : Nat) (x : Channel) : (s.setChan c x).remote = s.remote := rfl
@[simp] theorem setChan_topo (c : Nat) (x : Channel) : (s.setChan c x).topo = s.topo := rfl
@[simp] theorem setChan_ctxs (c : Nat) (x : Channel) : (s.setChan c x).ctxs = s.ctxs := rfl
@[simp] theorem setChan_pol (c : Nat) (x : Channel) : (s.setChan c x).pol = s.pol := rfl
@[simp] theorem setChan_shadow (c : Nat) (x : Channel) : (s.setChan c x).shadow = s.shadow := rfl
@[simp] theorem setChan_counters (c : Nat) (x : Channel) : (s.setChan c x).counters = s.counters := rfl
@[simp] theorem setChan_led (c : Nat) (x : Channel) : (s.setChan c x).led = s.led := rfl
@[simp] theorem setChan_ports (c : Nat) (x : Channel) : (s.setChan c x).ports = s.ports := rfl
@[simp] theorem setChan_ops (c : Nat) (x : Channel) : (s.setChan c x).ops = s.ops := rfl
@[simp] theorem setChan_link (c : Nat) (x : Channel) : (s.setChan c x).link = s.link := rfl
@[simp] theorem setChan_keys (c : Nat) (x : Channel) : (s.setChan c x).keys = s.keys := rfl
@[simp] theorem setChan_units (c : Nat) (x : Channel) : (s.setChan c x).units = s.units := rfl
@[simp] theorem setChan_dump (c : Nat) (x : Channel) : (s.setChan c x).dump = s.dump := rfl
@[simp] theorem setChan_cut (c : Nat) (x : Channel) : (s.setChan c x).cut = s.cut := rfl
@[simp] theorem setChan_win (c : Nat) (x : Channel) : (s.setChan c x).win = s.win := rfl
@[simp] theorem setChan_debug (c : Nat) (x : Channel) : (s.setChan c x).debug = s.debug := rfl
@[simp] theorem setChan_mh (c : Nat) (x : Channel) : (s.setChan c x).mh = s.mh := rfl
@[simp] theorem setChan_sec (c : Nat) (x : Channel) : (s.setChan c x).sec = s.sec := rfl
@[simp] theorem setChan_power (c : Nat) (x : Channel) : (s.setChan c x).power = s.power := rfl
@[simp] theorem setChan_inp (c : Nat) (x : Channel) : (s.setChan c x).inp = s.inp := rfl
@[simp] theorem setChan_out (c : Nat) (x : Channel) : (s.setChan c x).out = s.out := rfl
@[simp] theorem setChan_tap (c : Nat) (x : Channel) : (s.setChan c x).tap = s.tap := rfl
@[simp] theorem setChan_free (c : Nat) (x : Channel) : (s.setChan c x).free = s.free := rfl
theorem setChan_eq (c : Nat) (x : Channel) : s.setChan c x =
    { s with tt := (s.setChan c x).tt } := rfl

/-! `setWord` -/

@[simp] theorem setWord_pending (w : Nat) (x : SyncWord) : (s.setWord w x).pending = s.pending := rfl
@[simp] theorem setWord_mem (w : Nat) (x : SyncWord) : (s.setWord w x).mem = s.mem := rfl
@[simp] theorem setWord_remote (w : Nat) (x : SyncWord) : (s.setWord w x).remote = s.remote := rfl
@[simp] theorem setWord_topo (w : Nat) (x : SyncWord) : (s.setWord w x).topo = s.topo := rfl
@[simp] theorem setWord_ctxs (w : Nat) (x : SyncWord) : (s.setWord w x).ctxs = s.ctxs := rfl
@[simp] theorem setWord_pol (w : Nat) (x : SyncWord) : (s.setWord w x).pol = s.pol := rfl
@[simp] theorem setWord_shadow (w : Nat) (x : SyncWord) : (s.setWord w x).shadow = s.shadow := rfl
@[simp] theorem setWord_counters (w : Nat) (x : SyncWord) : (s.setWord w x).counters = s.counters := rfl
@[simp] theorem setWord_led (w : Nat) (x : SyncWord) : (s.setWord w x).led = s.led := rfl
@[simp] theorem setWord_ports (w : Nat) (x : SyncWord) : (s.setWord w x).ports = s.ports := rfl
@[simp] theorem setWord_ops (w : Nat) (x : SyncWord) : (s.setWord w x).ops = s.ops := rfl
@[simp] theorem setWord_link (w : Nat) (x : SyncWord) : (s.setWord w x).link = s.link := rfl
@[simp] theorem setWord_keys (w : Nat) (x : SyncWord) : (s.setWord w x).keys = s.keys := rfl
@[simp] theorem setWord_units (w : Nat) (x : SyncWord) : (s.setWord w x).units = s.units := rfl
@[simp] theorem setWord_dump (w : Nat) (x : SyncWord) : (s.setWord w x).dump = s.dump := rfl
@[simp] theorem setWord_cut (w : Nat) (x : SyncWord) : (s.setWord w x).cut = s.cut := rfl
@[simp] theorem setWord_win (w : Nat) (x : SyncWord) : (s.setWord w x).win = s.win := rfl
@[simp] theorem setWord_debug (w : Nat) (x : SyncWord) : (s.setWord w x).debug = s.debug := rfl
@[simp] theorem setWord_mh (w : Nat) (x : SyncWord) : (s.setWord w x).mh = s.mh := rfl
@[simp] theorem setWord_sec (w : Nat) (x : SyncWord) : (s.setWord w x).sec = s.sec := rfl
@[simp] theorem setWord_power (w : Nat) (x : SyncWord) : (s.setWord w x).power = s.power := rfl
@[simp] theorem setWord_inp (w : Nat) (x : SyncWord) : (s.setWord w x).inp = s.inp := rfl
@[simp] theorem setWord_out (w : Nat) (x : SyncWord) : (s.setWord w x).out = s.out := rfl
@[simp] theorem setWord_tap (w : Nat) (x : SyncWord) : (s.setWord w x).tap = s.tap := rfl
@[simp] theorem setWord_free (w : Nat) (x : SyncWord) : (s.setWord w x).free = s.free := rfl
theorem setWord_eq (w : Nat) (x : SyncWord) : s.setWord w x =
    { s with tt := (s.setWord w x).tt } := rfl

/-! `setShadow` -/

@[simp] theorem setShadow_pending (w : Nat) (x : Shadow) : (s.setShadow w x).pending = s.pending := rfl
@[simp] theorem setShadow_mem (w : Nat) (x : Shadow) : (s.setShadow w x).mem = s.mem := rfl
@[simp] theorem setShadow_remote (w : Nat) (x : Shadow) : (s.setShadow w x).remote = s.remote := rfl
@[simp] theorem setShadow_topo (w : Nat) (x : Shadow) : (s.setShadow w x).topo = s.topo := rfl
@[simp] theorem setShadow_ctxs (w : Nat) (x : Shadow) : (s.setShadow w x).ctxs = s.ctxs := rfl
@[simp] theorem setShadow_pol (w : Nat) (x : Shadow) : (s.setShadow w x).pol = s.pol := rfl
@[simp] theorem setShadow_tt (w : Nat) (x : Shadow) : (s.setShadow w x).tt = s.tt := rfl
@[simp] theorem setShadow_counters (w : Nat) (x : Shadow) : (s.setShadow w x).counters = s.counters := rfl
@[simp] theorem setShadow_led (w : Nat) (x : Shadow) : (s.setShadow w x).led = s.led := rfl
@[simp] theorem setShadow_ports (w : Nat) (x : Shadow) : (s.setShadow w x).ports = s.ports := rfl
@[simp] theorem setShadow_ops (w : Nat) (x : Shadow) : (s.setShadow w x).ops = s.ops := rfl
@[simp] theorem setShadow_link (w : Nat) (x : Shadow) : (s.setShadow w x).link = s.link := rfl
@[simp] theorem setShadow_keys (w : Nat) (x : Shadow) : (s.setShadow w x).keys = s.keys := rfl
@[simp] theorem setShadow_units (w : Nat) (x : Shadow) : (s.setShadow w x).units = s.units := rfl
@[simp] theorem setShadow_dump (w : Nat) (x : Shadow) : (s.setShadow w x).dump = s.dump := rfl
@[simp] theorem setShadow_cut (w : Nat) (x : Shadow) : (s.setShadow w x).cut = s.cut := rfl
@[simp] theorem setShadow_win (w : Nat) (x : Shadow) : (s.setShadow w x).win = s.win := rfl
@[simp] theorem setShadow_debug (w : Nat) (x : Shadow) : (s.setShadow w x).debug = s.debug := rfl
@[simp] theorem setShadow_mh (w : Nat) (x : Shadow) : (s.setShadow w x).mh = s.mh := rfl
@[simp] theorem setShadow_sec (w : Nat) (x : Shadow) : (s.setShadow w x).sec = s.sec := rfl
@[simp] theorem setShadow_power (w : Nat) (x : Shadow) : (s.setShadow w x).power = s.power := rfl
@[simp] theorem setShadow_inp (w : Nat) (x : Shadow) : (s.setShadow w x).inp = s.inp := rfl
@[simp] theorem setShadow_out (w : Nat) (x : Shadow) : (s.setShadow w x).out = s.out := rfl
@[simp] theorem setShadow_tap (w : Nat) (x : Shadow) : (s.setShadow w x).tap = s.tap := rfl
@[simp] theorem setShadow_free (w : Nat) (x : Shadow) : (s.setShadow w x).free = s.free := rfl
theorem setShadow_eq (w : Nat) (x : Shadow) : s.setShadow w x =
    { s with shadow := (s.setShadow w x).shadow } := rfl

/-! `setTag` -/

@[simp] theorem setTag_pending (k : Nat) (x : TagSlot) : (s.setTag k x).pending = s.pending := rfl
@[simp] theorem setTag_mem (k : Nat) (x : TagSlot) : (s.setTag k x).mem = s.mem := rfl
@[simp] theorem setTag_remote (k : Nat) (x : TagSlot) : (s.setTag k x).remote = s.remote := rfl
@[simp] theorem setTag_topo (k : Nat) (x : TagSlot) : (s.setTag k x).topo = s.topo := rfl
@[simp] theorem setTag_ctxs (k : Nat) (x : TagSlot) : (s.setTag k x).ctxs = s.ctxs := rfl
@[simp] theorem setTag_pol (k : Nat) (x : TagSlot) : (s.setTag k x).pol = s.pol := rfl
@[simp] theorem setTag_tt (k : Nat) (x : TagSlot) : (s.setTag k x).tt = s.tt := rfl
@[simp] theorem setTag_shadow (k : Nat) (x : TagSlot) : (s.setTag k x).shadow = s.shadow := rfl
@[simp] theorem setTag_counters (k : Nat) (x : TagSlot) : (s.setTag k x).counters = s.counters := rfl
@[simp] theorem setTag_ports (k : Nat) (x : TagSlot) : (s.setTag k x).ports = s.ports := rfl
@[simp] theorem setTag_ops (k : Nat) (x : TagSlot) : (s.setTag k x).ops = s.ops := rfl
@[simp] theorem setTag_link (k : Nat) (x : TagSlot) : (s.setTag k x).link = s.link := rfl
@[simp] theorem setTag_keys (k : Nat) (x : TagSlot) : (s.setTag k x).keys = s.keys := rfl
@[simp] theorem setTag_units (k : Nat) (x : TagSlot) : (s.setTag k x).units = s.units := rfl
@[simp] theorem setTag_dump (k : Nat) (x : TagSlot) : (s.setTag k x).dump = s.dump := rfl
@[simp] theorem setTag_cut (k : Nat) (x : TagSlot) : (s.setTag k x).cut = s.cut := rfl
@[simp] theorem setTag_win (k : Nat) (x : TagSlot) : (s.setTag k x).win = s.win := rfl
@[simp] theorem setTag_debug (k : Nat) (x : TagSlot) : (s.setTag k x).debug = s.debug := rfl
@[simp] theorem setTag_mh (k : Nat) (x : TagSlot) : (s.setTag k x).mh = s.mh := rfl
@[simp] theorem setTag_sec (k : Nat) (x : TagSlot) : (s.setTag k x).sec = s.sec := rfl
@[simp] theorem setTag_power (k : Nat) (x : TagSlot) : (s.setTag k x).power = s.power := rfl
@[simp] theorem setTag_inp (k : Nat) (x : TagSlot) : (s.setTag k x).inp = s.inp := rfl
@[simp] theorem setTag_out (k : Nat) (x : TagSlot) : (s.setTag k x).out = s.out := rfl
@[simp] theorem setTag_tap (k : Nat) (x : TagSlot) : (s.setTag k x).tap = s.tap := rfl
@[simp] theorem setTag_free (k : Nat) (x : TagSlot) : (s.setTag k x).free = s.free := rfl
theorem setTag_eq (k : Nat) (x : TagSlot) : s.setTag k x =
    { s with led := (s.setTag k x).led } := rfl

/-! `setLnk` -/

@[simp] theorem setLnk_pending (p : Nat) (x : Link) : (s.setLnk p x).pending = s.pending := rfl
@[simp] theorem setLnk_mem (p : Nat) (x : Link) : (s.setLnk p x).mem = s.mem := rfl
@[simp] theorem setLnk_remote (p : Nat) (x : Link) : (s.setLnk p x).remote = s.remote := rfl
@[simp] theorem setLnk_topo (p : Nat) (x : Link) : (s.setLnk p x).topo = s.topo := rfl
@[simp] theorem setLnk_ctxs (p : Nat) (x : Link) : (s.setLnk p x).ctxs = s.ctxs := rfl
@[simp] theorem setLnk_pol (p : Nat) (x : Link) : (s.setLnk p x).pol = s.pol := rfl
@[simp] theorem setLnk_tt (p : Nat) (x : Link) : (s.setLnk p x).tt = s.tt := rfl
@[simp] theorem setLnk_shadow (p : Nat) (x : Link) : (s.setLnk p x).shadow = s.shadow := rfl
@[simp] theorem setLnk_counters (p : Nat) (x : Link) : (s.setLnk p x).counters = s.counters := rfl
@[simp] theorem setLnk_led (p : Nat) (x : Link) : (s.setLnk p x).led = s.led := rfl
@[simp] theorem setLnk_ports (p : Nat) (x : Link) : (s.setLnk p x).ports = s.ports := rfl
@[simp] theorem setLnk_ops (p : Nat) (x : Link) : (s.setLnk p x).ops = s.ops := rfl
@[simp] theorem setLnk_keys (p : Nat) (x : Link) : (s.setLnk p x).keys = s.keys := rfl
@[simp] theorem setLnk_units (p : Nat) (x : Link) : (s.setLnk p x).units = s.units := rfl
@[simp] theorem setLnk_dump (p : Nat) (x : Link) : (s.setLnk p x).dump = s.dump := rfl
@[simp] theorem setLnk_cut (p : Nat) (x : Link) : (s.setLnk p x).cut = s.cut := rfl
@[simp] theorem setLnk_win (p : Nat) (x : Link) : (s.setLnk p x).win = s.win := rfl
@[simp] theorem setLnk_debug (p : Nat) (x : Link) : (s.setLnk p x).debug = s.debug := rfl
@[simp] theorem setLnk_mh (p : Nat) (x : Link) : (s.setLnk p x).mh = s.mh := rfl
@[simp] theorem setLnk_sec (p : Nat) (x : Link) : (s.setLnk p x).sec = s.sec := rfl
@[simp] theorem setLnk_power (p : Nat) (x : Link) : (s.setLnk p x).power = s.power := rfl
@[simp] theorem setLnk_inp (p : Nat) (x : Link) : (s.setLnk p x).inp = s.inp := rfl
@[simp] theorem setLnk_out (p : Nat) (x : Link) : (s.setLnk p x).out = s.out := rfl
@[simp] theorem setLnk_tap (p : Nat) (x : Link) : (s.setLnk p x).tap = s.tap := rfl
@[simp] theorem setLnk_free (p : Nat) (x : Link) : (s.setLnk p x).free = s.free := rfl
theorem setLnk_eq (p : Nat) (x : Link) : s.setLnk p x =
    { s with link := (s.setLnk p x).link } := rfl

/-! `modLnk` -/

@[simp] theorem modLnk_pending (p : Nat) (f : Link → Link) : (s.modLnk p f).pending = s.pending := rfl
@[simp] theorem modLnk_mem (p : Nat) (f : Link → Link) : (s.modLnk p f).mem = s.mem := rfl
@[simp] theorem modLnk_remote (p : Nat) (f : Link → Link) : (s.modLnk p f).remote = s.remote := rfl
@[simp] theorem modLnk_topo (p : Nat) (f : Link → Link) : (s.modLnk p f).topo = s.topo := rfl
@[simp] theorem modLnk_ctxs (p : Nat) (f : Link → Link) : (s.modLnk p f).ctxs = s.ctxs := rfl
@[simp] theorem modLnk_pol (p : Nat) (f : Link → Link) : (s.modLnk p f).pol = s.pol := rfl
@[simp] theorem modLnk_tt (p : Nat) (f : Link → Link) : (s.modLnk p f).tt = s.tt := rfl
@[simp] theorem modLnk_shadow (p : Nat) (f : Link → Link) : (s.modLnk p f).shadow = s.shadow := rfl
@[simp] theorem modLnk_counters (p : Nat) (f : Link → Link) : (s.modLnk p f).counters = s.counters := rfl
@[simp] theorem modLnk_led (p : Nat) (f : Link → Link) : (s.modLnk p f).led = s.led := rfl
@[simp] theorem modLnk_ports (p : Nat) (f : Link → Link) : (s.modLnk p f).ports = s.ports := rfl
@[simp] theorem modLnk_ops (p : Nat) (f : Link → Link) : (s.modLnk p f).ops = s.ops := rfl
@[simp] theorem modLnk_keys (p : Nat) (f : Link → Link) : (s.modLnk p f).keys = s.keys := rfl
@[simp] theorem modLnk_units (p : Nat) (f : Link → Link) : (s.modLnk p f).units = s.units := rfl
@[simp] theorem modLnk_dump (p : Nat) (f : Link → Link) : (s.modLnk p f).dump = s.dump := rfl
@[simp] theorem modLnk_cut (p : Nat) (f : Link → Link) : (s.modLnk p f).cut = s.cut := rfl
@[simp] theorem modLnk_win (p : Nat) (f : Link → Link) : (s.modLnk p f).win = s.win := rfl
@[simp] theorem modLnk_debug (p : Nat) (f : Link → Link) : (s.modLnk p f).debug = s.debug := rfl
@[simp] theorem modLnk_mh (p : Nat) (f : Link → Link) : (s.modLnk p f).mh = s.mh := rfl
@[simp] theorem modLnk_sec (p : Nat) (f : Link → Link) : (s.modLnk p f).sec = s.sec := rfl
@[simp] theorem modLnk_power (p : Nat) (f : Link → Link) : (s.modLnk p f).power = s.power := rfl
@[simp] theorem modLnk_inp (p : Nat) (f : Link → Link) : (s.modLnk p f).inp = s.inp := rfl
@[simp] theorem modLnk_out (p : Nat) (f : Link → Link) : (s.modLnk p f).out = s.out := rfl
@[simp] theorem modLnk_tap (p : Nat) (f : Link → Link) : (s.modLnk p f).tap = s.tap := rfl
@[simp] theorem modLnk_free (p : Nat) (f : Link → Link) : (s.modLnk p f).free = s.free := rfl
theorem modLnk_eq (p : Nat) (f : Link → Link) : s.modLnk p f =
    { s with link := (s.modLnk p f).link } := rfl

/-! `store` -/

@[simp] theorem store_pending (a : Nat) (l : List Byte) : (store s a l).pending = s.pending := rfl
@[simp] theorem store_remote (a : Nat) (l : List Byte) : (store s a l).remote = s.remote := rfl
@[simp] theorem store_topo (a : Nat) (l : List Byte) : (store s a l).topo = s.topo := rfl
@[simp] theorem store_ctxs (a : Nat) (l : List Byte) : (store s a l).ctxs = s.ctxs := rfl
@[simp] theorem store_pol (a : Nat) (l : List Byte) : (store s a l).pol = s.pol := rfl
@[simp] theorem store_tt (a : Nat) (l : List Byte) : (store s a l).tt = s.tt := rfl
@[simp] theorem store_shadow (a : Nat) (l : List Byte) : (store s a l).shadow = s.shadow := rfl
@[simp] theorem store_counters (a : Nat) (l : List Byte) : (store s a l).counters = s.counters := rfl
@[simp] theorem store_led (a : Nat) (l : List Byte) : (store s a l).led = s.led := rfl
@[simp] theorem store_ports (a : Nat) (l : List Byte) : (store s a l).ports = s.ports := rfl
@[simp] theorem store_ops (a : Nat) (l : List Byte) : (store s a l).ops = s.ops := rfl
@[simp] theorem store_link (a : Nat) (l : List Byte) : (store s a l).link = s.link := rfl
@[simp] theorem store_keys (a : Nat) (l : List Byte) : (store s a l).keys = s.keys := rfl
@[simp] theorem store_units (a : Nat) (l : List Byte) : (store s a l).units = s.units := rfl
@[simp] theorem store_dump (a : Nat) (l : List Byte) : (store s a l).dump = s.dump := rfl
@[simp] theorem store_cut (a : Nat) (l : List Byte) : (store s a l).cut = s.cut := rfl
@[simp] theorem store_win (a : Nat) (l : List Byte) : (store s a l).win = s.win := rfl
@[simp] theorem store_debug (a : Nat) (l : List Byte) : (store s a l).debug = s.debug := rfl
@[simp] theorem store_mh (a : Nat) (l : List Byte) : (store s a l).mh = s.mh := rfl
@[simp] theorem store_sec (a : Nat) (l : List Byte) : (store s a l).sec = s.sec := rfl
@[simp] theorem store_power (a : Nat) (l : List Byte) : (store s a l).power = s.power := rfl
@[simp] theorem store_inp (a : Nat) (l : List Byte) : (store s a l).inp = s.inp := rfl
@[simp] theorem store_out (a : Nat) (l : List Byte) : (store s a l).out = s.out := rfl
@[simp] theorem store_tap (a : Nat) (l : List Byte) : (store s a l).tap = s.tap := rfl
@[simp] theorem store_free (a : Nat) (l : List Byte) : (store s a l).free = s.free := rfl
theorem store_eq (a : Nat) (l : List Byte) : store s a l =
    { s with mem := (store s a l).mem } := rfl

/-! `storeFree` -/

@[simp] theorem storeFree_pending (a n : Nat) : (storeFree s a n).pending = s.pending := rfl
@[simp] theorem storeFree_remote (a n : Nat) : (storeFree s a n).remote = s.remote := rfl
@[simp] theorem storeFree_topo (a n : Nat) : (storeFree s a n).topo = s.topo := rfl
@[simp] theorem storeFree_ctxs (a n : Nat) : (storeFree s a n).ctxs = s.ctxs := rfl
@[simp] theorem storeFree_pol (a n : Nat) : (storeFree s a n).pol = s.pol := rfl
@[simp] theorem storeFree_tt (a n : Nat) : (storeFree s a n).tt = s.tt := rfl
@[simp] theorem storeFree_shadow (a n : Nat) : (storeFree s a n).shadow = s.shadow := rfl
@[simp] theorem storeFree_counters (a n : Nat) : (storeFree s a n).counters = s.counters := rfl
@[simp] theorem storeFree_led (a n : Nat) : (storeFree s a n).led = s.led := rfl
@[simp] theorem storeFree_ports (a n : Nat) : (storeFree s a n).ports = s.ports := rfl
@[simp] theorem storeFree_ops (a n : Nat) : (storeFree s a n).ops = s.ops := rfl
@[simp] theorem storeFree_link (a n : Nat) : (storeFree s a n).link = s.link := rfl
@[simp] theorem storeFree_keys (a n : Nat) : (storeFree s a n).keys = s.keys := rfl
@[simp] theorem storeFree_units (a n : Nat) : (storeFree s a n).units = s.units := rfl
@[simp] theorem storeFree_dump (a n : Nat) : (storeFree s a n).dump = s.dump := rfl
@[simp] theorem storeFree_cut (a n : Nat) : (storeFree s a n).cut = s.cut := rfl
@[simp] theorem storeFree_win (a n : Nat) : (storeFree s a n).win = s.win := rfl
@[simp] theorem storeFree_debug (a n : Nat) : (storeFree s a n).debug = s.debug := rfl
@[simp] theorem storeFree_mh (a n : Nat) : (storeFree s a n).mh = s.mh := rfl
@[simp] theorem storeFree_sec (a n : Nat) : (storeFree s a n).sec = s.sec := rfl
@[simp] theorem storeFree_power (a n : Nat) : (storeFree s a n).power = s.power := rfl
@[simp] theorem storeFree_inp (a n : Nat) : (storeFree s a n).inp = s.inp := rfl
@[simp] theorem storeFree_out (a n : Nat) : (storeFree s a n).out = s.out := rfl
@[simp] theorem storeFree_tap (a n : Nat) : (storeFree s a n).tap = s.tap := rfl
theorem storeFree_eq (a n : Nat) : storeFree s a n =
    { s with mem := (storeFree s a n).mem, free := (storeFree s a n).free } := rfl

/-! `bump` -/

@[simp] theorem bump_pending (i n : Nat) : (s.bump i n).pending = s.pending := rfl
@[simp] theorem bump_mem (i n : Nat) : (s.bump i n).mem = s.mem := rfl
@[simp] theorem bump_remote (i n : Nat) : (s.bump i n).remote = s.remote := rfl
@[simp] theorem bump_topo (i n : Nat) : (s.bump i n).topo = s.topo := rfl
@[simp] theorem bump_ctxs (i n : Nat) : (s.bump i n).ctxs = s.ctxs := rfl
@[simp] theorem bump_pol (i n : Nat) : (s.bump i n).pol = s.pol := rfl
@[simp] theorem bump_tt (i n : Nat) : (s.bump i n).tt = s.tt := rfl
@[simp] theorem bump_shadow (i n : Nat) : (s.bump i n).shadow = s.shadow := rfl
@[simp] theorem bump_led (i n : Nat) : (s.bump i n).led = s.led := rfl
@[simp] theorem bump_ports (i n : Nat) : (s.bump i n).ports = s.ports := rfl
@[simp] theorem bump_ops (i n : Nat) : (s.bump i n).ops = s.ops := rfl
@[simp] theorem bump_link (i n : Nat) : (s.bump i n).link = s.link := rfl
@[simp] theorem bump_keys (i n : Nat) : (s.bump i n).keys = s.keys := rfl
@[simp] theorem bump_units (i n : Nat) : (s.bump i n).units = s.units := rfl
@[simp] theorem bump_dump (i n : Nat) : (s.bump i n).dump = s.dump := rfl
@[simp] theorem bump_cut (i n : Nat) : (s.bump i n).cut = s.cut := rfl
@[simp] theorem bump_win (i n : Nat) : (s.bump i n).win = s.win := rfl
@[simp] theorem bump_debug (i n : Nat) : (s.bump i n).debug = s.debug := rfl
@[simp] theorem bump_mh (i n : Nat) : (s.bump i n).mh = s.mh := rfl
@[simp] theorem bump_sec (i n : Nat) : (s.bump i n).sec = s.sec := rfl
@[simp] theorem bump_power (i n : Nat) : (s.bump i n).power = s.power := rfl
@[simp] theorem bump_inp (i n : Nat) : (s.bump i n).inp = s.inp := rfl
@[simp] theorem bump_out (i n : Nat) : (s.bump i n).out = s.out := rfl
@[simp] theorem bump_tap (i n : Nat) : (s.bump i n).tap = s.tap := rfl
@[simp] theorem bump_free (i n : Nat) : (s.bump i n).free = s.free := rfl
theorem bump_eq (i n : Nat) : s.bump i n =
    { s with counters := (s.bump i n).counters } := rfl

/-! `raiseIrq` -/

@[simp] theorem raiseIrq_pending (i : Nat) : (s.raiseIrq i).pending = s.pending := rfl
@[simp] theorem raiseIrq_mem (i : Nat) : (s.raiseIrq i).mem = s.mem := rfl
@[simp] theorem raiseIrq_remote (i : Nat) : (s.raiseIrq i).remote = s.remote := rfl
@[simp] theorem raiseIrq_topo (i : Nat) : (s.raiseIrq i).topo = s.topo := rfl
@[simp] theorem raiseIrq_ctxs (i : Nat) : (s.raiseIrq i).ctxs = s.ctxs := rfl
@[simp] theorem raiseIrq_pol (i : Nat) : (s.raiseIrq i).pol = s.pol := rfl
@[simp] theorem raiseIrq_tt (i : Nat) : (s.raiseIrq i).tt = s.tt := rfl
@[simp] theorem raiseIrq_shadow (i : Nat) : (s.raiseIrq i).shadow = s.shadow := rfl
@[simp] theorem raiseIrq_counters (i : Nat) : (s.raiseIrq i).counters = s.counters := rfl
@[simp] theorem raiseIrq_led (i : Nat) : (s.raiseIrq i).led = s.led := rfl
@[simp] theorem raiseIrq_ports (i : Nat) : (s.raiseIrq i).ports = s.ports := rfl
@[simp] theorem raiseIrq_ops (i : Nat) : (s.raiseIrq i).ops = s.ops := rfl
@[simp] theorem raiseIrq_link (i : Nat) : (s.raiseIrq i).link = s.link := rfl
@[simp] theorem raiseIrq_keys (i : Nat) : (s.raiseIrq i).keys = s.keys := rfl
@[simp] theorem raiseIrq_units (i : Nat) : (s.raiseIrq i).units = s.units := rfl
@[simp] theorem raiseIrq_dump (i : Nat) : (s.raiseIrq i).dump = s.dump := rfl
@[simp] theorem raiseIrq_cut (i : Nat) : (s.raiseIrq i).cut = s.cut := rfl
@[simp] theorem raiseIrq_debug (i : Nat) : (s.raiseIrq i).debug = s.debug := rfl
@[simp] theorem raiseIrq_mh (i : Nat) : (s.raiseIrq i).mh = s.mh := rfl
@[simp] theorem raiseIrq_sec (i : Nat) : (s.raiseIrq i).sec = s.sec := rfl
@[simp] theorem raiseIrq_power (i : Nat) : (s.raiseIrq i).power = s.power := rfl
@[simp] theorem raiseIrq_inp (i : Nat) : (s.raiseIrq i).inp = s.inp := rfl
@[simp] theorem raiseIrq_tap (i : Nat) : (s.raiseIrq i).tap = s.tap := rfl
@[simp] theorem raiseIrq_free (i : Nat) : (s.raiseIrq i).free = s.free := rfl
theorem raiseIrq_eq (i : Nat) : s.raiseIrq i =
    { s with win := (s.raiseIrq i).win, out := (s.raiseIrq i).out } := rfl

/-! `writeRecord` -/

@[simp] theorem writeRecord_pending (a b c d e : Nat) (l : List Byte) : (s.writeRecord a b c d e l).pending = s.pending := rfl
@[simp] theorem writeRecord_mem (a b c d e : Nat) (l : List Byte) : (s.writeRecord a b c d e l).mem = s.mem := rfl
@[simp] theorem writeRecord_remote (a b c d e : Nat) (l : List Byte) : (s.writeRecord a b c d e l).remote = s.remote := rfl
@[simp] theorem writeRecord_topo (a b c d e : Nat) (l : List Byte) : (s.writeRecord a b c d e l).topo = s.topo := rfl
@[simp] theorem writeRecord_ctxs (a b c d e : Nat) (l : List Byte) : (s.writeRecord a b c d e l).ctxs = s.ctxs := rfl
@[simp] theorem writeRecord_pol (a b c d e : Nat) (l : List Byte) : (s.writeRecord a b c d e l).pol = s.pol := rfl
@[simp] theorem writeRecord_tt (a b c d e : Nat) (l : List Byte) : (s.writeRecord a b c d e l).tt = s.tt := rfl
@[simp] theorem writeRecord_shadow (a b c d e : Nat) (l : List Byte) : (s.writeRecord a b c d e l).shadow = s.shadow := rfl
@[simp] theorem writeRecord_counters (a b c d e : Nat) (l : List Byte) : (s.writeRecord a b c d e l).counters = s.counters := rfl
@[simp] theorem writeRecord_led (a b c d e : Nat) (l : List Byte) : (s.writeRecord a b c d e l).led = s.led := rfl
@[simp] theorem writeRecord_ports (a b c d e : Nat) (l : List Byte) : (s.writeRecord a b c d e l).ports = s.ports := rfl
@[simp] theorem writeRecord_ops (a b c d e : Nat) (l : List Byte) : (s.writeRecord a b c d e l).ops = s.ops := rfl
@[simp] theorem writeRecord_link (a b c d e : Nat) (l : List Byte) : (s.writeRecord a b c d e l).link = s.link := rfl
@[simp] theorem writeRecord_keys (a b c d e : Nat) (l : List Byte) : (s.writeRecord a b c d e l).keys = s.keys := rfl
@[simp] theorem writeRecord_units (a b c d e : Nat) (l : List Byte) : (s.writeRecord a b c d e l).units = s.units := rfl
@[simp] theorem writeRecord_dump (a b c d e : Nat) (l : List Byte) : (s.writeRecord a b c d e l).dump = s.dump := rfl
@[simp] theorem writeRecord_cut (a b c d e : Nat) (l : List Byte) : (s.writeRecord a b c d e l).cut = s.cut := rfl
@[simp] theorem writeRecord_debug (a b c d e : Nat) (l : List Byte) : (s.writeRecord a b c d e l).debug = s.debug := rfl
@[simp] theorem writeRecord_mh (a b c d e : Nat) (l : List Byte) : (s.writeRecord a b c d e l).mh = s.mh := rfl
@[simp] theorem writeRecord_sec (a b c d e : Nat) (l : List Byte) : (s.writeRecord a b c d e l).sec = s.sec := rfl
@[simp] theorem writeRecord_power (a b c d e : Nat) (l : List Byte) : (s.writeRecord a b c d e l).power = s.power := rfl
@[simp] theorem writeRecord_inp (a b c d e : Nat) (l : List Byte) : (s.writeRecord a b c d e l).inp = s.inp := rfl
@[simp] theorem writeRecord_out (a b c d e : Nat) (l : List Byte) : (s.writeRecord a b c d e l).out = s.out := rfl
@[simp] theorem writeRecord_tap (a b c d e : Nat) (l : List Byte) : (s.writeRecord a b c d e l).tap = s.tap := rfl
@[simp] theorem writeRecord_free (a b c d e : Nat) (l : List Byte) : (s.writeRecord a b c d e l).free = s.free := rfl
theorem writeRecord_eq (a b c d e : Nat) (l : List Byte) : s.writeRecord a b c d e l =
    { s with win := (s.writeRecord a b c d e l).win } := rfl

/-! `respond` -/

@[simp] theorem respond_pending (a b c d e : Nat) (l : List Byte) : (s.respond a b c d e l).pending = s.pending := rfl
@[simp] theorem respond_mem (a b c d e : Nat) (l : List Byte) : (s.respond a b c d e l).mem = s.mem := rfl
@[simp] theorem respond_remote (a b c d e : Nat) (l : List Byte) : (s.respond a b c d e l).remote = s.remote := rfl
@[simp] theorem respond_topo (a b c d e : Nat) (l : List Byte) : (s.respond a b c d e l).topo = s.topo := rfl
@[simp] theorem respond_ctxs (a b c d e : Nat) (l : List Byte) : (s.respond a b c d e l).ctxs = s.ctxs := rfl
@[simp] theorem respond_pol (a b c d e : Nat) (l : List Byte) : (s.respond a b c d e l).pol = s.pol := rfl
@[simp] theorem respond_tt (a b c d e : Nat) (l : List Byte) : (s.respond a b c d e l).tt = s.tt := rfl
@[simp] theorem respond_shadow (a b c d e : Nat) (l : List Byte) : (s.respond a b c d e l).shadow = s.shadow := rfl
@[simp] theorem respond_counters (a b c d e : Nat) (l : List Byte) : (s.respond a b c d e l).counters = s.counters := rfl
@[simp] theorem respond_led (a b c d e : Nat) (l : List Byte) : (s.respond a b c d e l).led = s.led := rfl
@[simp] theorem respond_ports (a b c d e : Nat) (l : List Byte) : (s.respond a b c d e l).ports = s.ports := rfl
@[simp] theorem respond_ops (a b c d e : Nat) (l : List Byte) : (s.respond a b c d e l).ops = s.ops := rfl
@[simp] theorem respond_link (a b c d e : Nat) (l : List Byte) : (s.respond a b c d e l).link = s.link := rfl
@[simp] theorem respond_keys (a b c d e : Nat) (l : List Byte) : (s.respond a b c d e l).keys = s.keys := rfl
@[simp] theorem respond_units (a b c d e : Nat) (l : List Byte) : (s.respond a b c d e l).units = s.units := rfl
@[simp] theorem respond_dump (a b c d e : Nat) (l : List Byte) : (s.respond a b c d e l).dump = s.dump := rfl
@[simp] theorem respond_cut (a b c d e : Nat) (l : List Byte) : (s.respond a b c d e l).cut = s.cut := rfl
@[simp] theorem respond_debug (a b c d e : Nat) (l : List Byte) : (s.respond a b c d e l).debug = s.debug := rfl
@[simp] theorem respond_mh (a b c d e : Nat) (l : List Byte) : (s.respond a b c d e l).mh = s.mh := rfl
@[simp] theorem respond_sec (a b c d e : Nat) (l : List Byte) : (s.respond a b c d e l).sec = s.sec := rfl
@[simp] theorem respond_power (a b c d e : Nat) (l : List Byte) : (s.respond a b c d e l).power = s.power := rfl
@[simp] theorem respond_inp (a b c d e : Nat) (l : List Byte) : (s.respond a b c d e l).inp = s.inp := rfl
@[simp] theorem respond_tap (a b c d e : Nat) (l : List Byte) : (s.respond a b c d e l).tap = s.tap := rfl
@[simp] theorem respond_free (a b c d e : Nat) (l : List Byte) : (s.respond a b c d e l).free = s.free := rfl
theorem respond_eq (a b c d e : Nat) (l : List Byte) : s.respond a b c d e l =
    { s with win := (s.respond a b c d e l).win, out := (s.respond a b c d e l).out } := rfl

/-! `pulse` -/

@[simp] theorem pulse_pending (x : PmPulse) : (s.pulse x).pending = s.pending := rfl
@[simp] theorem pulse_mem (x : PmPulse) : (s.pulse x).mem = s.mem := rfl
@[simp] theorem pulse_remote (x : PmPulse) : (s.pulse x).remote = s.remote := rfl
@[simp] theorem pulse_topo (x : PmPulse) : (s.pulse x).topo = s.topo := rfl
@[simp] theorem pulse_ctxs (x : PmPulse) : (s.pulse x).ctxs = s.ctxs := rfl
@[simp] theorem pulse_pol (x : PmPulse) : (s.pulse x).pol = s.pol := rfl
@[simp] theorem pulse_tt (x : PmPulse) : (s.pulse x).tt = s.tt := rfl
@[simp] theorem pulse_shadow (x : PmPulse) : (s.pulse x).shadow = s.shadow := rfl
@[simp] theorem pulse_counters (x : PmPulse) : (s.pulse x).counters = s.counters := rfl
@[simp] theorem pulse_led (x : PmPulse) : (s.pulse x).led = s.led := rfl
@[simp] theorem pulse_ports (x : PmPulse) : (s.pulse x).ports = s.ports := rfl
@[simp] theorem pulse_ops (x : PmPulse) : (s.pulse x).ops = s.ops := rfl
@[simp] theorem pulse_link (x : PmPulse) : (s.pulse x).link = s.link := rfl
@[simp] theorem pulse_keys (x : PmPulse) : (s.pulse x).keys = s.keys := rfl
@[simp] theorem pulse_units (x : PmPulse) : (s.pulse x).units = s.units := rfl
@[simp] theorem pulse_dump (x : PmPulse) : (s.pulse x).dump = s.dump := rfl
@[simp] theorem pulse_cut (x : PmPulse) : (s.pulse x).cut = s.cut := rfl
@[simp] theorem pulse_win (x : PmPulse) : (s.pulse x).win = s.win := rfl
@[simp] theorem pulse_debug (x : PmPulse) : (s.pulse x).debug = s.debug := rfl
@[simp] theorem pulse_mh (x : PmPulse) : (s.pulse x).mh = s.mh := rfl
@[simp] theorem pulse_sec (x : PmPulse) : (s.pulse x).sec = s.sec := rfl
@[simp] theorem pulse_power (x : PmPulse) : (s.pulse x).power = s.power := rfl
@[simp] theorem pulse_inp (x : PmPulse) : (s.pulse x).inp = s.inp := rfl
@[simp] theorem pulse_tap (x : PmPulse) : (s.pulse x).tap = s.tap := rfl
@[simp] theorem pulse_free (x : PmPulse) : (s.pulse x).free = s.free := rfl
theorem pulse_eq (x : PmPulse) : s.pulse x =
    { s with out := (s.pulse x).out } := rfl

/-! `setColl` -/

@[simp] theorem setColl_pending (c : Coll) : (s.setColl c).pending = s.pending := rfl
@[simp] theorem setColl_mem (c : Coll) : (s.setColl c).mem = s.mem := rfl
@[simp] theorem setColl_remote (c : Coll) : (s.setColl c).remote = s.remote := rfl
@[simp] theorem setColl_topo (c : Coll) : (s.setColl c).topo = s.topo := rfl
@[simp] theorem setColl_ctxs (c : Coll) : (s.setColl c).ctxs = s.ctxs := rfl
@[simp] theorem setColl_pol (c : Coll) : (s.setColl c).pol = s.pol := rfl
@[simp] theorem setColl_tt (c : Coll) : (s.setColl c).tt = s.tt := rfl
@[simp] theorem setColl_shadow (c : Coll) : (s.setColl c).shadow = s.shadow := rfl
@[simp] theorem setColl_counters (c : Coll) : (s.setColl c).counters = s.counters := rfl
@[simp] theorem setColl_led (c : Coll) : (s.setColl c).led = s.led := rfl
@[simp] theorem setColl_ports (c : Coll) : (s.setColl c).ports = s.ports := rfl
@[simp] theorem setColl_link (c : Coll) : (s.setColl c).link = s.link := rfl
@[simp] theorem setColl_keys (c : Coll) : (s.setColl c).keys = s.keys := rfl
@[simp] theorem setColl_units (c : Coll) : (s.setColl c).units = s.units := rfl
@[simp] theorem setColl_dump (c : Coll) : (s.setColl c).dump = s.dump := rfl
@[simp] theorem setColl_cut (c : Coll) : (s.setColl c).cut = s.cut := rfl
@[simp] theorem setColl_win (c : Coll) : (s.setColl c).win = s.win := rfl
@[simp] theorem setColl_debug (c : Coll) : (s.setColl c).debug = s.debug := rfl
@[simp] theorem setColl_mh (c : Coll) : (s.setColl c).mh = s.mh := rfl
@[simp] theorem setColl_sec (c : Coll) : (s.setColl c).sec = s.sec := rfl
@[simp] theorem setColl_power (c : Coll) : (s.setColl c).power = s.power := rfl
@[simp] theorem setColl_inp (c : Coll) : (s.setColl c).inp = s.inp := rfl
@[simp] theorem setColl_out (c : Coll) : (s.setColl c).out = s.out := rfl
@[simp] theorem setColl_tap (c : Coll) : (s.setColl c).tap = s.tap := rfl
@[simp] theorem setColl_free (c : Coll) : (s.setColl c).free = s.free := rfl
theorem setColl_eq (c : Coll) : s.setColl c =
    { s with ops := (s.setColl c).ops } := rfl

/-! `modColl` -/

@[simp] theorem modColl_pending (a b : Nat) (f : Coll → Coll) : (s.modColl a b f).pending = s.pending := rfl
@[simp] theorem modColl_mem (a b : Nat) (f : Coll → Coll) : (s.modColl a b f).mem = s.mem := rfl
@[simp] theorem modColl_remote (a b : Nat) (f : Coll → Coll) : (s.modColl a b f).remote = s.remote := rfl
@[simp] theorem modColl_topo (a b : Nat) (f : Coll → Coll) : (s.modColl a b f).topo = s.topo := rfl
@[simp] theorem modColl_ctxs (a b : Nat) (f : Coll → Coll) : (s.modColl a b f).ctxs = s.ctxs := rfl
@[simp] theorem modColl_pol (a b : Nat) (f : Coll → Coll) : (s.modColl a b f).pol = s.pol := rfl
@[simp] theorem modColl_tt (a b : Nat) (f : Coll → Coll) : (s.modColl a b f).tt = s.tt := rfl
@[simp] theorem modColl_shadow (a b : Nat) (f : Coll → Coll) : (s.modColl a b f).shadow = s.shadow := rfl
@[simp] theorem modColl_counters (a b : Nat) (f : Coll → Coll) : (s.modColl a b f).counters = s.counters := rfl
@[simp] theorem modColl_led (a b : Nat) (f : Coll → Coll) : (s.modColl a b f).led = s.led := rfl
@[simp] theorem modColl_ports (a b : Nat) (f : Coll → Coll) : (s.modColl a b f).ports = s.ports := rfl
@[simp] theorem modColl_link (a b : Nat) (f : Coll → Coll) : (s.modColl a b f).link = s.link := rfl
@[simp] theorem modColl_keys (a b : Nat) (f : Coll → Coll) : (s.modColl a b f).keys = s.keys := rfl
@[simp] theorem modColl_units (a b : Nat) (f : Coll → Coll) : (s.modColl a b f).units = s.units := rfl
@[simp] theorem modColl_dump (a b : Nat) (f : Coll → Coll) : (s.modColl a b f).dump = s.dump := rfl
@[simp] theorem modColl_cut (a b : Nat) (f : Coll → Coll) : (s.modColl a b f).cut = s.cut := rfl
@[simp] theorem modColl_win (a b : Nat) (f : Coll → Coll) : (s.modColl a b f).win = s.win := rfl
@[simp] theorem modColl_debug (a b : Nat) (f : Coll → Coll) : (s.modColl a b f).debug = s.debug := rfl
@[simp] theorem modColl_mh (a b : Nat) (f : Coll → Coll) : (s.modColl a b f).mh = s.mh := rfl
@[simp] theorem modColl_sec (a b : Nat) (f : Coll → Coll) : (s.modColl a b f).sec = s.sec := rfl
@[simp] theorem modColl_power (a b : Nat) (f : Coll → Coll) : (s.modColl a b f).power = s.power := rfl
@[simp] theorem modColl_inp (a b : Nat) (f : Coll → Coll) : (s.modColl a b f).inp = s.inp := rfl
@[simp] theorem modColl_out (a b : Nat) (f : Coll → Coll) : (s.modColl a b f).out = s.out := rfl
@[simp] theorem modColl_tap (a b : Nat) (f : Coll → Coll) : (s.modColl a b f).tap = s.tap := rfl
@[simp] theorem modColl_free (a b : Nat) (f : Coll → Coll) : (s.modColl a b f).free = s.free := rfl
theorem modColl_eq (a b : Nat) (f : Coll → Coll) : s.modColl a b f =
    { s with ops := (s.modColl a b f).ops } := rfl

/-! `pushDone` -/

@[simp] theorem pushDone_pending (p : Nat) (x : Done) : (s.pushDone p x).pending = s.pending := rfl
@[simp] theorem pushDone_mem (p : Nat) (x : Done) : (s.pushDone p x).mem = s.mem := rfl
@[simp] theorem pushDone_remote (p : Nat) (x : Done) : (s.pushDone p x).remote = s.remote := rfl
@[simp] theorem pushDone_topo (p : Nat) (x : Done) : (s.pushDone p x).topo = s.topo := rfl
@[simp] theorem pushDone_ctxs (p : Nat) (x : Done) : (s.pushDone p x).ctxs = s.ctxs := rfl
@[simp] theorem pushDone_pol (p : Nat) (x : Done) : (s.pushDone p x).pol = s.pol := rfl
@[simp] theorem pushDone_tt (p : Nat) (x : Done) : (s.pushDone p x).tt = s.tt := rfl
@[simp] theorem pushDone_shadow (p : Nat) (x : Done) : (s.pushDone p x).shadow = s.shadow := rfl
@[simp] theorem pushDone_counters (p : Nat) (x : Done) : (s.pushDone p x).counters = s.counters := rfl
@[simp] theorem pushDone_led (p : Nat) (x : Done) : (s.pushDone p x).led = s.led := rfl
@[simp] theorem pushDone_ops (p : Nat) (x : Done) : (s.pushDone p x).ops = s.ops := rfl
@[simp] theorem pushDone_link (p : Nat) (x : Done) : (s.pushDone p x).link = s.link := rfl
@[simp] theorem pushDone_keys (p : Nat) (x : Done) : (s.pushDone p x).keys = s.keys := rfl
@[simp] theorem pushDone_units (p : Nat) (x : Done) : (s.pushDone p x).units = s.units := rfl
@[simp] theorem pushDone_dump (p : Nat) (x : Done) : (s.pushDone p x).dump = s.dump := rfl
@[simp] theorem pushDone_cut (p : Nat) (x : Done) : (s.pushDone p x).cut = s.cut := rfl
@[simp] theorem pushDone_win (p : Nat) (x : Done) : (s.pushDone p x).win = s.win := rfl
@[simp] theorem pushDone_debug (p : Nat) (x : Done) : (s.pushDone p x).debug = s.debug := rfl
@[simp] theorem pushDone_mh (p : Nat) (x : Done) : (s.pushDone p x).mh = s.mh := rfl
@[simp] theorem pushDone_sec (p : Nat) (x : Done) : (s.pushDone p x).sec = s.sec := rfl
@[simp] theorem pushDone_power (p : Nat) (x : Done) : (s.pushDone p x).power = s.power := rfl
@[simp] theorem pushDone_inp (p : Nat) (x : Done) : (s.pushDone p x).inp = s.inp := rfl
@[simp] theorem pushDone_out (p : Nat) (x : Done) : (s.pushDone p x).out = s.out := rfl
@[simp] theorem pushDone_tap (p : Nat) (x : Done) : (s.pushDone p x).tap = s.tap := rfl
@[simp] theorem pushDone_free (p : Nat) (x : Done) : (s.pushDone p x).free = s.free := rfl
theorem pushDone_eq (p : Nat) (x : Done) : s.pushDone p x =
    { s with ports := (s.pushDone p x).ports } := rfl

/-! `answer` -/

@[simp] theorem answer_pending (p : Nat) (st : CStatus) (a b c : Nat) : (s.answer p st a b c).pending = s.pending := rfl
@[simp] theorem answer_mem (p : Nat) (st : CStatus) (a b c : Nat) : (s.answer p st a b c).mem = s.mem := rfl
@[simp] theorem answer_remote (p : Nat) (st : CStatus) (a b c : Nat) : (s.answer p st a b c).remote = s.remote := rfl
@[simp] theorem answer_topo (p : Nat) (st : CStatus) (a b c : Nat) : (s.answer p st a b c).topo = s.topo := rfl
@[simp] theorem answer_ctxs (p : Nat) (st : CStatus) (a b c : Nat) : (s.answer p st a b c).ctxs = s.ctxs := rfl
@[simp] theorem answer_pol (p : Nat) (st : CStatus) (a b c : Nat) : (s.answer p st a b c).pol = s.pol := rfl
@[simp] theorem answer_tt (p : Nat) (st : CStatus) (a b c : Nat) : (s.answer p st a b c).tt = s.tt := rfl
@[simp] theorem answer_shadow (p : Nat) (st : CStatus) (a b c : Nat) : (s.answer p st a b c).shadow = s.shadow := rfl
@[simp] theorem answer_counters (p : Nat) (st : CStatus) (a b c : Nat) : (s.answer p st a b c).counters = s.counters := rfl
@[simp] theorem answer_led (p : Nat) (st : CStatus) (a b c : Nat) : (s.answer p st a b c).led = s.led := rfl
@[simp] theorem answer_ops (p : Nat) (st : CStatus) (a b c : Nat) : (s.answer p st a b c).ops = s.ops := rfl
@[simp] theorem answer_link (p : Nat) (st : CStatus) (a b c : Nat) : (s.answer p st a b c).link = s.link := rfl
@[simp] theorem answer_keys (p : Nat) (st : CStatus) (a b c : Nat) : (s.answer p st a b c).keys = s.keys := rfl
@[simp] theorem answer_units (p : Nat) (st : CStatus) (a b c : Nat) : (s.answer p st a b c).units = s.units := rfl
@[simp] theorem answer_dump (p : Nat) (st : CStatus) (a b c : Nat) : (s.answer p st a b c).dump = s.dump := rfl
@[simp] theorem answer_cut (p : Nat) (st : CStatus) (a b c : Nat) : (s.answer p st a b c).cut = s.cut := rfl
@[simp] theorem answer_win (p : Nat) (st : CStatus) (a b c : Nat) : (s.answer p st a b c).win = s.win := rfl
@[simp] theorem answer_debug (p : Nat) (st : CStatus) (a b c : Nat) : (s.answer p st a b c).debug = s.debug := rfl
@[simp] theorem answer_mh (p : Nat) (st : CStatus) (a b c : Nat) : (s.answer p st a b c).mh = s.mh := rfl
@[simp] theorem answer_sec (p : Nat) (st : CStatus) (a b c : Nat) : (s.answer p st a b c).sec = s.sec := rfl
@[simp] theorem answer_power (p : Nat) (st : CStatus) (a b c : Nat) : (s.answer p st a b c).power = s.power := rfl
@[simp] theorem answer_inp (p : Nat) (st : CStatus) (a b c : Nat) : (s.answer p st a b c).inp = s.inp := rfl
@[simp] theorem answer_out (p : Nat) (st : CStatus) (a b c : Nat) : (s.answer p st a b c).out = s.out := rfl
@[simp] theorem answer_tap (p : Nat) (st : CStatus) (a b c : Nat) : (s.answer p st a b c).tap = s.tap := rfl
@[simp] theorem answer_free (p : Nat) (st : CStatus) (a b c : Nat) : (s.answer p st a b c).free = s.free := rfl
theorem answer_eq (p : Nat) (st : CStatus) (a b c : Nat) : s.answer p st a b c =
    { s with ports := (s.answer p st a b c).ports } := rfl

/-! `endWait` -/

@[simp] theorem endWait_pending (p : Nat) (b : Bool) (i : Nat) : (s.endWait p b i).pending = s.pending := rfl
@[simp] theorem endWait_mem (p : Nat) (b : Bool) (i : Nat) : (s.endWait p b i).mem = s.mem := rfl
@[simp] theorem endWait_remote (p : Nat) (b : Bool) (i : Nat) : (s.endWait p b i).remote = s.remote := rfl
@[simp] theorem endWait_topo (p : Nat) (b : Bool) (i : Nat) : (s.endWait p b i).topo = s.topo := rfl
@[simp] theorem endWait_ctxs (p : Nat) (b : Bool) (i : Nat) : (s.endWait p b i).ctxs = s.ctxs := rfl
@[simp] theorem endWait_pol (p : Nat) (b : Bool) (i : Nat) : (s.endWait p b i).pol = s.pol := rfl
@[simp] theorem endWait_tt (p : Nat) (b : Bool) (i : Nat) : (s.endWait p b i).tt = s.tt := rfl
@[simp] theorem endWait_shadow (p : Nat) (b : Bool) (i : Nat) : (s.endWait p b i).shadow = s.shadow := rfl
@[simp] theorem endWait_counters (p : Nat) (b : Bool) (i : Nat) : (s.endWait p b i).counters = s.counters := rfl
@[simp] theorem endWait_led (p : Nat) (b : Bool) (i : Nat) : (s.endWait p b i).led = s.led := rfl
@[simp] theorem endWait_ops (p : Nat) (b : Bool) (i : Nat) : (s.endWait p b i).ops = s.ops := rfl
@[simp] theorem endWait_link (p : Nat) (b : Bool) (i : Nat) : (s.endWait p b i).link = s.link := rfl
@[simp] theorem endWait_keys (p : Nat) (b : Bool) (i : Nat) : (s.endWait p b i).keys = s.keys := rfl
@[simp] theorem endWait_units (p : Nat) (b : Bool) (i : Nat) : (s.endWait p b i).units = s.units := rfl
@[simp] theorem endWait_dump (p : Nat) (b : Bool) (i : Nat) : (s.endWait p b i).dump = s.dump := rfl
@[simp] theorem endWait_cut (p : Nat) (b : Bool) (i : Nat) : (s.endWait p b i).cut = s.cut := rfl
@[simp] theorem endWait_win (p : Nat) (b : Bool) (i : Nat) : (s.endWait p b i).win = s.win := rfl
@[simp] theorem endWait_debug (p : Nat) (b : Bool) (i : Nat) : (s.endWait p b i).debug = s.debug := rfl
@[simp] theorem endWait_mh (p : Nat) (b : Bool) (i : Nat) : (s.endWait p b i).mh = s.mh := rfl
@[simp] theorem endWait_sec (p : Nat) (b : Bool) (i : Nat) : (s.endWait p b i).sec = s.sec := rfl
@[simp] theorem endWait_power (p : Nat) (b : Bool) (i : Nat) : (s.endWait p b i).power = s.power := rfl
@[simp] theorem endWait_inp (p : Nat) (b : Bool) (i : Nat) : (s.endWait p b i).inp = s.inp := rfl
@[simp] theorem endWait_out (p : Nat) (b : Bool) (i : Nat) : (s.endWait p b i).out = s.out := rfl
@[simp] theorem endWait_tap (p : Nat) (b : Bool) (i : Nat) : (s.endWait p b i).tap = s.tap := rfl
@[simp] theorem endWait_free (p : Nat) (b : Bool) (i : Nat) : (s.endWait p b i).free = s.free := rfl
theorem endWait_eq (p : Nat) (b : Bool) (i : Nat) : s.endWait p b i =
    { s with ports := (s.endWait p b i).ports } := rfl

/-! `event` -/

@[simp] theorem event_pending (code : Nat) (l : List Byte) : (s.event code l).pending = s.pending := by
  dsimp only [State.event]; split <;> rfl
@[simp] theorem event_mem (code : Nat) (l : List Byte) : (s.event code l).mem = s.mem := by
  dsimp only [State.event]; split <;> rfl
@[simp] theorem event_remote (code : Nat) (l : List Byte) : (s.event code l).remote = s.remote := by
  dsimp only [State.event]; split <;> rfl
@[simp] theorem event_topo (code : Nat) (l : List Byte) : (s.event code l).topo = s.topo := by
  dsimp only [State.event]; split <;> rfl
@[simp] theorem event_ctxs (code : Nat) (l : List Byte) : (s.event code l).ctxs = s.ctxs := by
  dsimp only [State.event]; split <;> rfl
@[simp] theorem event_pol (code : Nat) (l : List Byte) : (s.event code l).pol = s.pol := by
  dsimp only [State.event]; split <;> rfl
@[simp] theorem event_tt (code : Nat) (l : List Byte) : (s.event code l).tt = s.tt := by
  dsimp only [State.event]; split <;> rfl
@[simp] theorem event_shadow (code : Nat) (l : List Byte) : (s.event code l).shadow = s.shadow := by
  dsimp only [State.event]; split <;> rfl
@[simp] theorem event_counters (code : Nat) (l : List Byte) : (s.event code l).counters = s.counters := by
  dsimp only [State.event]; split <;> rfl
@[simp] theorem event_led (code : Nat) (l : List Byte) : (s.event code l).led = s.led := by
  dsimp only [State.event]; split <;> rfl
@[simp] theorem event_ports (code : Nat) (l : List Byte) : (s.event code l).ports = s.ports := by
  dsimp only [State.event]; split <;> rfl
@[simp] theorem event_ops (code : Nat) (l : List Byte) : (s.event code l).ops = s.ops := by
  dsimp only [State.event]; split <;> rfl
@[simp] theorem event_link (code : Nat) (l : List Byte) : (s.event code l).link = s.link := by
  dsimp only [State.event]; split <;> rfl
@[simp] theorem event_keys (code : Nat) (l : List Byte) : (s.event code l).keys = s.keys := by
  dsimp only [State.event]; split <;> rfl
@[simp] theorem event_units (code : Nat) (l : List Byte) : (s.event code l).units = s.units := by
  dsimp only [State.event]; split <;> rfl
@[simp] theorem event_dump (code : Nat) (l : List Byte) : (s.event code l).dump = s.dump := by
  dsimp only [State.event]; split <;> rfl
@[simp] theorem event_cut (code : Nat) (l : List Byte) : (s.event code l).cut = s.cut := by
  dsimp only [State.event]; split <;> rfl
@[simp] theorem event_debug (code : Nat) (l : List Byte) : (s.event code l).debug = s.debug := by
  dsimp only [State.event]; split <;> rfl
@[simp] theorem event_mh (code : Nat) (l : List Byte) : (s.event code l).mh = s.mh := by
  dsimp only [State.event]; split <;> rfl
@[simp] theorem event_sec (code : Nat) (l : List Byte) : (s.event code l).sec = s.sec := by
  dsimp only [State.event]; split <;> rfl
@[simp] theorem event_power (code : Nat) (l : List Byte) : (s.event code l).power = s.power := by
  dsimp only [State.event]; split <;> rfl
@[simp] theorem event_inp (code : Nat) (l : List Byte) : (s.event code l).inp = s.inp := by
  dsimp only [State.event]; split <;> rfl
@[simp] theorem event_tap (code : Nat) (l : List Byte) : (s.event code l).tap = s.tap := by
  dsimp only [State.event]; split <;> rfl
@[simp] theorem event_free (code : Nat) (l : List Byte) : (s.event code l).free = s.free := by
  dsimp only [State.event]; split <;> rfl

/-! `logSync` -/

@[simp] theorem logSync_pending (st : CStatus) (a b c : Nat) : (s.logSync st a b c).pending = s.pending := by
  dsimp only [State.logSync]; split <;> rfl
@[simp] theorem logSync_mem (st : CStatus) (a b c : Nat) : (s.logSync st a b c).mem = s.mem := by
  dsimp only [State.logSync]; split <;> rfl
@[simp] theorem logSync_remote (st : CStatus) (a b c : Nat) : (s.logSync st a b c).remote = s.remote := by
  dsimp only [State.logSync]; split <;> rfl
@[simp] theorem logSync_topo (st : CStatus) (a b c : Nat) : (s.logSync st a b c).topo = s.topo := by
  dsimp only [State.logSync]; split <;> rfl
@[simp] theorem logSync_ctxs (st : CStatus) (a b c : Nat) : (s.logSync st a b c).ctxs = s.ctxs := by
  dsimp only [State.logSync]; split <;> rfl
@[simp] theorem logSync_pol (st : CStatus) (a b c : Nat) : (s.logSync st a b c).pol = s.pol := by
  dsimp only [State.logSync]; split <;> rfl
@[simp] theorem logSync_tt (st : CStatus) (a b c : Nat) : (s.logSync st a b c).tt = s.tt := by
  dsimp only [State.logSync]; split <;> rfl
@[simp] theorem logSync_led (st : CStatus) (a b c : Nat) : (s.logSync st a b c).led = s.led := by
  dsimp only [State.logSync]; split <;> rfl
@[simp] theorem logSync_ports (st : CStatus) (a b c : Nat) : (s.logSync st a b c).ports = s.ports := by
  dsimp only [State.logSync]; split <;> rfl
@[simp] theorem logSync_ops (st : CStatus) (a b c : Nat) : (s.logSync st a b c).ops = s.ops := by
  dsimp only [State.logSync]; split <;> rfl
@[simp] theorem logSync_link (st : CStatus) (a b c : Nat) : (s.logSync st a b c).link = s.link := by
  dsimp only [State.logSync]; split <;> rfl
@[simp] theorem logSync_keys (st : CStatus) (a b c : Nat) : (s.logSync st a b c).keys = s.keys := by
  dsimp only [State.logSync]; split <;> rfl
@[simp] theorem logSync_units (st : CStatus) (a b c : Nat) : (s.logSync st a b c).units = s.units := by
  dsimp only [State.logSync]; split <;> rfl
@[simp] theorem logSync_dump (st : CStatus) (a b c : Nat) : (s.logSync st a b c).dump = s.dump := by
  dsimp only [State.logSync]; split <;> rfl
@[simp] theorem logSync_cut (st : CStatus) (a b c : Nat) : (s.logSync st a b c).cut = s.cut := by
  dsimp only [State.logSync]; split <;> rfl
@[simp] theorem logSync_win (st : CStatus) (a b c : Nat) : (s.logSync st a b c).win = s.win := by
  dsimp only [State.logSync]; split <;> rfl
@[simp] theorem logSync_debug (st : CStatus) (a b c : Nat) : (s.logSync st a b c).debug = s.debug := by
  dsimp only [State.logSync]; split <;> rfl
@[simp] theorem logSync_mh (st : CStatus) (a b c : Nat) : (s.logSync st a b c).mh = s.mh := by
  dsimp only [State.logSync]; split <;> rfl
@[simp] theorem logSync_sec (st : CStatus) (a b c : Nat) : (s.logSync st a b c).sec = s.sec := by
  dsimp only [State.logSync]; split <;> rfl
@[simp] theorem logSync_power (st : CStatus) (a b c : Nat) : (s.logSync st a b c).power = s.power := by
  dsimp only [State.logSync]; split <;> rfl
@[simp] theorem logSync_inp (st : CStatus) (a b c : Nat) : (s.logSync st a b c).inp = s.inp := by
  dsimp only [State.logSync]; split <;> rfl
@[simp] theorem logSync_out (st : CStatus) (a b c : Nat) : (s.logSync st a b c).out = s.out := by
  dsimp only [State.logSync]; split <;> rfl
@[simp] theorem logSync_tap (st : CStatus) (a b c : Nat) : (s.logSync st a b c).tap = s.tap := by
  dsimp only [State.logSync]; split <;> rfl
@[simp] theorem logSync_free (st : CStatus) (a b c : Nat) : (s.logSync st a b c).free = s.free := by
  dsimp only [State.logSync]; split <;> rfl

/-! `logDrift` -/

@[simp] theorem logDrift_pending (e : DriftEntry) : (s.logDrift e).pending = s.pending := by
  dsimp only [State.logDrift]; split <;> rfl
@[simp] theorem logDrift_mem (e : DriftEntry) : (s.logDrift e).mem = s.mem := by
  dsimp only [State.logDrift]; split <;> rfl
@[simp] theorem logDrift_remote (e : DriftEntry) : (s.logDrift e).remote = s.remote := by
  dsimp only [State.logDrift]; split <;> rfl
@[simp] theorem logDrift_topo (e : DriftEntry) : (s.logDrift e).topo = s.topo := by
  dsimp only [State.logDrift]; split <;> rfl
@[simp] theorem logDrift_ctxs (e : DriftEntry) : (s.logDrift e).ctxs = s.ctxs := by
  dsimp only [State.logDrift]; split <;> rfl
@[simp] theorem logDrift_pol (e : DriftEntry) : (s.logDrift e).pol = s.pol := by
  dsimp only [State.logDrift]; split <;> rfl
@[simp] theorem logDrift_tt (e : DriftEntry) : (s.logDrift e).tt = s.tt := by
  dsimp only [State.logDrift]; split <;> rfl
@[simp] theorem logDrift_led (e : DriftEntry) : (s.logDrift e).led = s.led := by
  dsimp only [State.logDrift]; split <;> rfl
@[simp] theorem logDrift_ports (e : DriftEntry) : (s.logDrift e).ports = s.ports := by
  dsimp only [State.logDrift]; split <;> rfl
@[simp] theorem logDrift_ops (e : DriftEntry) : (s.logDrift e).ops = s.ops := by
  dsimp only [State.logDrift]; split <;> rfl
@[simp] theorem logDrift_link (e : DriftEntry) : (s.logDrift e).link = s.link := by
  dsimp only [State.logDrift]; split <;> rfl
@[simp] theorem logDrift_keys (e : DriftEntry) : (s.logDrift e).keys = s.keys := by
  dsimp only [State.logDrift]; split <;> rfl
@[simp] theorem logDrift_units (e : DriftEntry) : (s.logDrift e).units = s.units := by
  dsimp only [State.logDrift]; split <;> rfl
@[simp] theorem logDrift_dump (e : DriftEntry) : (s.logDrift e).dump = s.dump := by
  dsimp only [State.logDrift]; split <;> rfl
@[simp] theorem logDrift_cut (e : DriftEntry) : (s.logDrift e).cut = s.cut := by
  dsimp only [State.logDrift]; split <;> rfl
@[simp] theorem logDrift_win (e : DriftEntry) : (s.logDrift e).win = s.win := by
  dsimp only [State.logDrift]; split <;> rfl
@[simp] theorem logDrift_debug (e : DriftEntry) : (s.logDrift e).debug = s.debug := by
  dsimp only [State.logDrift]; split <;> rfl
@[simp] theorem logDrift_mh (e : DriftEntry) : (s.logDrift e).mh = s.mh := by
  dsimp only [State.logDrift]; split <;> rfl
@[simp] theorem logDrift_sec (e : DriftEntry) : (s.logDrift e).sec = s.sec := by
  dsimp only [State.logDrift]; split <;> rfl
@[simp] theorem logDrift_power (e : DriftEntry) : (s.logDrift e).power = s.power := by
  dsimp only [State.logDrift]; split <;> rfl
@[simp] theorem logDrift_inp (e : DriftEntry) : (s.logDrift e).inp = s.inp := by
  dsimp only [State.logDrift]; split <;> rfl
@[simp] theorem logDrift_out (e : DriftEntry) : (s.logDrift e).out = s.out := by
  dsimp only [State.logDrift]; split <;> rfl
@[simp] theorem logDrift_tap (e : DriftEntry) : (s.logDrift e).tap = s.tap := by
  dsimp only [State.logDrift]; split <;> rfl
@[simp] theorem logDrift_free (e : DriftEntry) : (s.logDrift e).free = s.free := by
  dsimp only [State.logDrift]; split <;> rfl

/-! `endLong` -/

@[simp] theorem endLong_pending (a b : Nat) (l : List Byte) : (s.endLong a b l).pending = s.pending := by
  dsimp only [State.endLong]; split <;> rfl
@[simp] theorem endLong_mem (a b : Nat) (l : List Byte) : (s.endLong a b l).mem = s.mem := by
  dsimp only [State.endLong]; split <;> rfl
@[simp] theorem endLong_remote (a b : Nat) (l : List Byte) : (s.endLong a b l).remote = s.remote := by
  dsimp only [State.endLong]; split <;> rfl
@[simp] theorem endLong_topo (a b : Nat) (l : List Byte) : (s.endLong a b l).topo = s.topo := by
  dsimp only [State.endLong]; split <;> rfl
@[simp] theorem endLong_ctxs (a b : Nat) (l : List Byte) : (s.endLong a b l).ctxs = s.ctxs := by
  dsimp only [State.endLong]; split <;> rfl
@[simp] theorem endLong_pol (a b : Nat) (l : List Byte) : (s.endLong a b l).pol = s.pol := by
  dsimp only [State.endLong]; split <;> rfl
@[simp] theorem endLong_tt (a b : Nat) (l : List Byte) : (s.endLong a b l).tt = s.tt := by
  dsimp only [State.endLong]; split <;> rfl
@[simp] theorem endLong_shadow (a b : Nat) (l : List Byte) : (s.endLong a b l).shadow = s.shadow := by
  dsimp only [State.endLong]; split <;> rfl
@[simp] theorem endLong_counters (a b : Nat) (l : List Byte) : (s.endLong a b l).counters = s.counters := by
  dsimp only [State.endLong]; split <;> rfl
@[simp] theorem endLong_led (a b : Nat) (l : List Byte) : (s.endLong a b l).led = s.led := by
  dsimp only [State.endLong]; split <;> rfl
@[simp] theorem endLong_ports (a b : Nat) (l : List Byte) : (s.endLong a b l).ports = s.ports := by
  dsimp only [State.endLong]; split <;> rfl
@[simp] theorem endLong_ops (a b : Nat) (l : List Byte) : (s.endLong a b l).ops = s.ops := by
  dsimp only [State.endLong]; split <;> rfl
@[simp] theorem endLong_link (a b : Nat) (l : List Byte) : (s.endLong a b l).link = s.link := by
  dsimp only [State.endLong]; split <;> rfl
@[simp] theorem endLong_keys (a b : Nat) (l : List Byte) : (s.endLong a b l).keys = s.keys := by
  dsimp only [State.endLong]; split <;> rfl
@[simp] theorem endLong_units (a b : Nat) (l : List Byte) : (s.endLong a b l).units = s.units := by
  dsimp only [State.endLong]; split <;> rfl
@[simp] theorem endLong_dump (a b : Nat) (l : List Byte) : (s.endLong a b l).dump = s.dump := by
  dsimp only [State.endLong]; split <;> rfl
@[simp] theorem endLong_cut (a b : Nat) (l : List Byte) : (s.endLong a b l).cut = s.cut := by
  dsimp only [State.endLong]; split <;> rfl
@[simp] theorem endLong_debug (a b : Nat) (l : List Byte) : (s.endLong a b l).debug = s.debug := by
  dsimp only [State.endLong]; split <;> rfl
@[simp] theorem endLong_sec (a b : Nat) (l : List Byte) : (s.endLong a b l).sec = s.sec := by
  dsimp only [State.endLong]; split <;> rfl
@[simp] theorem endLong_power (a b : Nat) (l : List Byte) : (s.endLong a b l).power = s.power := by
  dsimp only [State.endLong]; split <;> rfl
@[simp] theorem endLong_inp (a b : Nat) (l : List Byte) : (s.endLong a b l).inp = s.inp := by
  dsimp only [State.endLong]; split <;> rfl
@[simp] theorem endLong_tap (a b : Nat) (l : List Byte) : (s.endLong a b l).tap = s.tap := by
  dsimp only [State.endLong]; split <;> rfl
@[simp] theorem endLong_free (a b : Nat) (l : List Byte) : (s.endLong a b l).free = s.free := by
  dsimp only [State.endLong]; split <;> rfl

/-! `sendMsg` -/

@[simp] theorem sendMsg_pending (a b : Nat) (m : Msg) : (s.sendMsg a b m).pending = s.pending := by
  dsimp only [State.sendMsg]; split <;> rfl
@[simp] theorem sendMsg_mem (a b : Nat) (m : Msg) : (s.sendMsg a b m).mem = s.mem := by
  dsimp only [State.sendMsg]; split <;> rfl
@[simp] theorem sendMsg_remote (a b : Nat) (m : Msg) : (s.sendMsg a b m).remote = s.remote := by
  dsimp only [State.sendMsg]; split <;> rfl
@[simp] theorem sendMsg_topo (a b : Nat) (m : Msg) : (s.sendMsg a b m).topo = s.topo := by
  dsimp only [State.sendMsg]; split <;> rfl
@[simp] theorem sendMsg_ctxs (a b : Nat) (m : Msg) : (s.sendMsg a b m).ctxs = s.ctxs := by
  dsimp only [State.sendMsg]; split <;> rfl
@[simp] theorem sendMsg_pol (a b : Nat) (m : Msg) : (s.sendMsg a b m).pol = s.pol := by
  dsimp only [State.sendMsg]; split <;> rfl
@[simp] theorem sendMsg_tt (a b : Nat) (m : Msg) : (s.sendMsg a b m).tt = s.tt := by
  dsimp only [State.sendMsg]; split <;> rfl
@[simp] theorem sendMsg_shadow (a b : Nat) (m : Msg) : (s.sendMsg a b m).shadow = s.shadow := by
  dsimp only [State.sendMsg]; split <;> rfl
@[simp] theorem sendMsg_counters (a b : Nat) (m : Msg) : (s.sendMsg a b m).counters = s.counters := by
  dsimp only [State.sendMsg]; split <;> rfl
@[simp] theorem sendMsg_led (a b : Nat) (m : Msg) : (s.sendMsg a b m).led = s.led := by
  dsimp only [State.sendMsg]; split <;> rfl
@[simp] theorem sendMsg_ports (a b : Nat) (m : Msg) : (s.sendMsg a b m).ports = s.ports := by
  dsimp only [State.sendMsg]; split <;> rfl
@[simp] theorem sendMsg_ops (a b : Nat) (m : Msg) : (s.sendMsg a b m).ops = s.ops := by
  dsimp only [State.sendMsg]; split <;> rfl
@[simp] theorem sendMsg_keys (a b : Nat) (m : Msg) : (s.sendMsg a b m).keys = s.keys := by
  dsimp only [State.sendMsg]; split <;> rfl
@[simp] theorem sendMsg_units (a b : Nat) (m : Msg) : (s.sendMsg a b m).units = s.units := by
  dsimp only [State.sendMsg]; split <;> rfl
@[simp] theorem sendMsg_dump (a b : Nat) (m : Msg) : (s.sendMsg a b m).dump = s.dump := by
  dsimp only [State.sendMsg]; split <;> rfl
@[simp] theorem sendMsg_cut (a b : Nat) (m : Msg) : (s.sendMsg a b m).cut = s.cut := by
  dsimp only [State.sendMsg]; split <;> rfl
@[simp] theorem sendMsg_win (a b : Nat) (m : Msg) : (s.sendMsg a b m).win = s.win := by
  dsimp only [State.sendMsg]; split <;> rfl
@[simp] theorem sendMsg_debug (a b : Nat) (m : Msg) : (s.sendMsg a b m).debug = s.debug := by
  dsimp only [State.sendMsg]; split <;> rfl
@[simp] theorem sendMsg_mh (a b : Nat) (m : Msg) : (s.sendMsg a b m).mh = s.mh := by
  dsimp only [State.sendMsg]; split <;> rfl
@[simp] theorem sendMsg_sec (a b : Nat) (m : Msg) : (s.sendMsg a b m).sec = s.sec := by
  dsimp only [State.sendMsg]; split <;> rfl
@[simp] theorem sendMsg_power (a b : Nat) (m : Msg) : (s.sendMsg a b m).power = s.power := by
  dsimp only [State.sendMsg]; split <;> rfl
@[simp] theorem sendMsg_inp (a b : Nat) (m : Msg) : (s.sendMsg a b m).inp = s.inp := by
  dsimp only [State.sendMsg]; split <;> rfl
@[simp] theorem sendMsg_out (a b : Nat) (m : Msg) : (s.sendMsg a b m).out = s.out := by
  dsimp only [State.sendMsg]; split <;> rfl
@[simp] theorem sendMsg_tap (a b : Nat) (m : Msg) : (s.sendMsg a b m).tap = s.tap := by
  dsimp only [State.sendMsg]; split <;> rfl
@[simp] theorem sendMsg_free (a b : Nat) (m : Msg) : (s.sendMsg a b m).free = s.free := by
  dsimp only [State.sendMsg]; split <;> rfl

/-! `wake` -/

@[simp] theorem wake_pending : s.wake.pending = s.pending := by
  unfold State.wake; split <;> split <;> simp
@[simp] theorem wake_mem : s.wake.mem = s.mem := by
  unfold State.wake; split <;> split <;> simp
@[simp] theorem wake_remote : s.wake.remote = s.remote := by
  unfold State.wake; split <;> split <;> simp
@[simp] theorem wake_topo : s.wake.topo = s.topo := by
  unfold State.wake; split <;> split <;> simp
@[simp] theorem wake_ctxs : s.wake.ctxs = s.ctxs := by
  unfold State.wake; split <;> split <;> simp
@[simp] theorem wake_pol : s.wake.pol = s.pol := by
  unfold State.wake; split <;> split <;> simp
@[simp] theorem wake_tt : s.wake.tt = s.tt := by
  unfold State.wake; split <;> split <;> simp
@[simp] theorem wake_shadow : s.wake.shadow = s.shadow := by
  unfold State.wake; split <;> split <;> simp
@[simp] theorem wake_counters : s.wake.counters = s.counters := by
  unfold State.wake; split <;> split <;> simp
@[simp] theorem wake_led : s.wake.led = s.led := by
  unfold State.wake; split <;> split <;> simp
@[simp] theorem wake_ports : s.wake.ports = s.ports := by
  unfold State.wake; split <;> split <;> simp
@[simp] theorem wake_ops : s.wake.ops = s.ops := by
  unfold State.wake; split <;> split <;> simp
@[simp] theorem wake_link : s.wake.link = s.link := by
  unfold State.wake; split <;> split <;> simp
@[simp] theorem wake_keys : s.wake.keys = s.keys := by
  unfold State.wake; split <;> split <;> simp
@[simp] theorem wake_units : s.wake.units = s.units := by
  unfold State.wake; split <;> split <;> simp
@[simp] theorem wake_dump : s.wake.dump = s.dump := by
  unfold State.wake; split <;> split <;> simp
@[simp] theorem wake_cut : s.wake.cut = s.cut := by
  unfold State.wake; split <;> split <;> simp
@[simp] theorem wake_debug : s.wake.debug = s.debug := by
  unfold State.wake; split <;> split <;> simp
@[simp] theorem wake_sec : s.wake.sec = s.sec := by
  unfold State.wake; split <;> split <;> simp
@[simp] theorem wake_inp : s.wake.inp = s.inp := by
  unfold State.wake; split <;> split <;> simp
@[simp] theorem wake_tap : s.wake.tap = s.tap := by
  unfold State.wake; split <;> split <;> simp
@[simp] theorem wake_free : s.wake.free = s.free := by
  unfold State.wake; split <;> split <;> simp

/-! `originate` -/

@[simp] theorem originate_pending (a b : Nat) (m : Msg) : (s.originate a b m).pending = s.pending := by
  unfold State.originate State.countSent; split <;> (try split) <;> simp
@[simp] theorem originate_mem (a b : Nat) (m : Msg) : (s.originate a b m).mem = s.mem := by
  unfold State.originate State.countSent; split <;> (try split) <;> simp
@[simp] theorem originate_remote (a b : Nat) (m : Msg) : (s.originate a b m).remote = s.remote := by
  unfold State.originate State.countSent; split <;> (try split) <;> simp
@[simp] theorem originate_topo (a b : Nat) (m : Msg) : (s.originate a b m).topo = s.topo := by
  unfold State.originate State.countSent; split <;> (try split) <;> simp
@[simp] theorem originate_ctxs (a b : Nat) (m : Msg) : (s.originate a b m).ctxs = s.ctxs := by
  unfold State.originate State.countSent; split <;> (try split) <;> simp
@[simp] theorem originate_pol (a b : Nat) (m : Msg) : (s.originate a b m).pol = s.pol := by
  unfold State.originate State.countSent; split <;> (try split) <;> simp
@[simp] theorem originate_tt (a b : Nat) (m : Msg) : (s.originate a b m).tt = s.tt := by
  unfold State.originate State.countSent; split <;> (try split) <;> simp
@[simp] theorem originate_shadow (a b : Nat) (m : Msg) : (s.originate a b m).shadow = s.shadow := by
  unfold State.originate State.countSent; split <;> (try split) <;> simp
@[simp] theorem originate_counters (a b : Nat) (m : Msg) : (s.originate a b m).counters = s.counters := by
  unfold State.originate State.countSent; split <;> (try split) <;> simp
@[simp] theorem originate_led (a b : Nat) (m : Msg) : (s.originate a b m).led = s.led := by
  unfold State.originate State.countSent; split <;> (try split) <;> simp
@[simp] theorem originate_ports (a b : Nat) (m : Msg) : (s.originate a b m).ports = s.ports := by
  unfold State.originate State.countSent; split <;> (try split) <;> simp
@[simp] theorem originate_ops (a b : Nat) (m : Msg) : (s.originate a b m).ops = s.ops := by
  unfold State.originate State.countSent; split <;> (try split) <;> simp
@[simp] theorem originate_keys (a b : Nat) (m : Msg) : (s.originate a b m).keys = s.keys := by
  unfold State.originate State.countSent; split <;> (try split) <;> simp
@[simp] theorem originate_units (a b : Nat) (m : Msg) : (s.originate a b m).units = s.units := by
  unfold State.originate State.countSent; split <;> (try split) <;> simp
@[simp] theorem originate_dump (a b : Nat) (m : Msg) : (s.originate a b m).dump = s.dump := by
  unfold State.originate State.countSent; split <;> (try split) <;> simp
@[simp] theorem originate_cut (a b : Nat) (m : Msg) : (s.originate a b m).cut = s.cut := by
  unfold State.originate State.countSent; split <;> (try split) <;> simp
@[simp] theorem originate_win (a b : Nat) (m : Msg) : (s.originate a b m).win = s.win := by
  unfold State.originate State.countSent; split <;> (try split) <;> simp
@[simp] theorem originate_debug (a b : Nat) (m : Msg) : (s.originate a b m).debug = s.debug := by
  unfold State.originate State.countSent; split <;> (try split) <;> simp
@[simp] theorem originate_mh (a b : Nat) (m : Msg) : (s.originate a b m).mh = s.mh := by
  unfold State.originate State.countSent; split <;> (try split) <;> simp
@[simp] theorem originate_sec (a b : Nat) (m : Msg) : (s.originate a b m).sec = s.sec := by
  unfold State.originate State.countSent; split <;> (try split) <;> simp
@[simp] theorem originate_power (a b : Nat) (m : Msg) : (s.originate a b m).power = s.power := by
  unfold State.originate State.countSent; split <;> (try split) <;> simp
@[simp] theorem originate_inp (a b : Nat) (m : Msg) : (s.originate a b m).inp = s.inp := by
  unfold State.originate State.countSent; split <;> (try split) <;> simp
@[simp] theorem originate_out (a b : Nat) (m : Msg) : (s.originate a b m).out = s.out := by
  unfold State.originate State.countSent; split <;> (try split) <;> simp
@[simp] theorem originate_tap (a b : Nat) (m : Msg) : (s.originate a b m).tap = s.tap := by
  unfold State.originate State.countSent; split <;> (try split) <;> simp
@[simp] theorem originate_free (a b : Nat) (m : Msg) : (s.originate a b m).free = s.free := by
  unfold State.originate State.countSent; split <;> (try split) <;> simp

/-! `postFault` -/

@[simp] theorem postFault_pending (a b c d e g : Nat) : (s.postFault a b c d e g).pending = s.pending := by
  unfold State.postFault; simp
@[simp] theorem postFault_mem (a b c d e g : Nat) : (s.postFault a b c d e g).mem = s.mem := by
  unfold State.postFault; simp
@[simp] theorem postFault_remote (a b c d e g : Nat) : (s.postFault a b c d e g).remote = s.remote := by
  unfold State.postFault; simp
@[simp] theorem postFault_topo (a b c d e g : Nat) : (s.postFault a b c d e g).topo = s.topo := by
  unfold State.postFault; simp
@[simp] theorem postFault_ctxs (a b c d e g : Nat) : (s.postFault a b c d e g).ctxs = s.ctxs := by
  unfold State.postFault; simp
@[simp] theorem postFault_pol (a b c d e g : Nat) : (s.postFault a b c d e g).pol = s.pol := by
  unfold State.postFault; simp
@[simp] theorem postFault_tt (a b c d e g : Nat) : (s.postFault a b c d e g).tt = s.tt := by
  unfold State.postFault; simp
@[simp] theorem postFault_shadow (a b c d e g : Nat) : (s.postFault a b c d e g).shadow = s.shadow := by
  unfold State.postFault; simp
@[simp] theorem postFault_counters (a b c d e g : Nat) : (s.postFault a b c d e g).counters = s.counters := by
  unfold State.postFault; simp
@[simp] theorem postFault_led (a b c d e g : Nat) : (s.postFault a b c d e g).led = s.led := by
  unfold State.postFault; simp
@[simp] theorem postFault_ports (a b c d e g : Nat) : (s.postFault a b c d e g).ports = s.ports := by
  unfold State.postFault; simp
@[simp] theorem postFault_ops (a b c d e g : Nat) : (s.postFault a b c d e g).ops = s.ops := by
  unfold State.postFault; simp
@[simp] theorem postFault_link (a b c d e g : Nat) : (s.postFault a b c d e g).link = s.link := by
  unfold State.postFault; simp
@[simp] theorem postFault_keys (a b c d e g : Nat) : (s.postFault a b c d e g).keys = s.keys := by
  unfold State.postFault; simp
@[simp] theorem postFault_units (a b c d e g : Nat) : (s.postFault a b c d e g).units = s.units := by
  unfold State.postFault; simp
@[simp] theorem postFault_dump (a b c d e g : Nat) : (s.postFault a b c d e g).dump = s.dump := by
  unfold State.postFault; simp
@[simp] theorem postFault_cut (a b c d e g : Nat) : (s.postFault a b c d e g).cut = s.cut := by
  unfold State.postFault; simp
@[simp] theorem postFault_debug (a b c d e g : Nat) : (s.postFault a b c d e g).debug = s.debug := by
  unfold State.postFault; simp
@[simp] theorem postFault_sec (a b c d e g : Nat) : (s.postFault a b c d e g).sec = s.sec := by
  unfold State.postFault; simp
@[simp] theorem postFault_inp (a b c d e g : Nat) : (s.postFault a b c d e g).inp = s.inp := by
  unfold State.postFault; simp
@[simp] theorem postFault_tap (a b c d e g : Nat) : (s.postFault a b c d e g).tap = s.tap := by
  unfold State.postFault; simp
@[simp] theorem postFault_free (a b c d e g : Nat) : (s.postFault a b c d e g).free = s.free := by
  unfold State.postFault; simp

/-! ## Tables after a set -/

variable {s}

/-- The port of a position after it is set. -/
theorem port_setPort_same {p : Nat} {x : Port} (h : s.Sound) : (s.setPort p x).port p = x := Tbl.get_set_same _ _ h.ports_wf

@[simp] theorem port_setPort_other {p q : Nat} {x : Port} (h : q ≠ p) : (s.setPort p x).port q = s.port q := Tbl.get_set_other _ h

theorem port_modPort_same {p : Nat} {f : Port → Port} (h : s.Sound) : (s.modPort p f).port p = f (s.port p) := port_setPort_same h

@[simp] theorem port_modPort_other {p q : Nat} {f : Port → Port} (h : q ≠ p) : (s.modPort p f).port q = s.port q :=
  port_setPort_other h

theorem chan_setChan_same {c : Nat} {x : Channel} (h : s.Sound) : (s.setChan c x).chan c = x := Tbl.get_set_same _ _ h.chans_wf

@[simp] theorem chan_setChan_other {c d : Nat} {x : Channel} (h : d ≠ c) : (s.setChan c x).chan d = s.chan d := Tbl.get_set_other _ h

theorem word_setWord_same {w : Nat} {x : SyncWord} (h : s.Sound) : (s.setWord w x).word w = x := Tbl.get_set_rising _ _ h.words_up

@[simp] theorem word_setWord_other {w v : Nat} {x : SyncWord} (h : v ≠ w) : (s.setWord w x).word v = s.word v := Tbl.get_set_other _ h

theorem shadowOf_setShadow_same {w : Nat} {x : Shadow} (h : s.Sound) : (s.setShadow w x).shadowOf w = x :=
  Tbl.get_set_rising _ _ h.shadows_up

@[simp] theorem shadowOf_setShadow_other {w v : Nat} {x : Shadow} (h : v ≠ w) : (s.setShadow w x).shadowOf v = s.shadowOf v :=
  Tbl.get_set_other _ h

theorem tagSlot_setTag_same {k : Nat} {x : TagSlot} (h : s.Sound) : (s.setTag k x).tagSlot k = x := Tbl.get_set_same _ _ h.tags_wf

@[simp] theorem tagSlot_setTag_other {k j : Nat} {x : TagSlot} (h : j ≠ k) : (s.setTag k x).tagSlot j = s.tagSlot j :=
  Tbl.get_set_other _ h

theorem lnk_setLnk_same {p : Nat} {x : Link} (h : s.Sound) : (s.setLnk p x).lnk p = x := Tbl.get_set_same _ _ h.links_wf

@[simp] theorem lnk_setLnk_other {p q : Nat} {x : Link} (h : q ≠ p) : (s.setLnk p x).lnk q = s.lnk q := Tbl.get_set_other _ h

theorem counter_bump_same {i n : Nat} (h : s.Sound) : (s.bump i n).counter i = sat32 (s.counter i + n) :=
  Tbl.get_set_same _ _ h.counters_wf

@[simp] theorem counter_bump_other {i j n : Nat} (h : j ≠ i) : (s.bump i n).counter j = s.counter j := Tbl.get_set_other _ h

/-- A sound state is kept with its own queue. -/
theorem sound_kept (h : s.Sound) : s.Kept s.pending := ⟨rfl, h⟩

theorem setPort_sound {p : Nat} {x : Port} (h : s.Sound) : (s.setPort p x).Sound :=
  (kept_setPort p x (q := s.pending) ⟨rfl, h⟩).sound

theorem modPort_sound {p : Nat} {f : Port → Port} (h : s.Sound) : (s.modPort p f).Sound := setPort_sound h

theorem pushDone_sound {p : Nat} {x : Done} (h : s.Sound) : (s.pushDone p x).Sound := setPort_sound h

theorem port_pushDone_same {p : Nat} {x : Done} (h : s.Sound) :
    (s.pushDone p x).port p = { s.port p with done := (s.port p).done ++ [x] } := port_setPort_same h

@[simp] theorem port_pushDone_other {p q : Nat} {x : Done} (h : q ≠ p) : (s.pushDone p x).port q = s.port q := port_setPort_other h

/-- What every step of a loop leaves alone, the loop leaves alone. -/
theorem forEach_inv {α β : Type} (l : List α) (f : α → State → State) (g : State → β) (h : ∀ x s, g (f x s) = g s) (s : State) :
    g (forEach l f s) = g s := by
  unfold forEach
  induction l generalizing s with
  | nil => rfl
  | cons x r ih => rw [List.foldl_cons, ih, h]

/-- Equal tables of ports read alike. -/
theorem port_congr {t : State} (h : s.ports = t.ports) (p : Nat) : s.port p = t.port p := by
  unfold State.port
  rw [h]

/-- In the active state, with no `DOZE` request under way, nothing is left to wake. -/
theorem wake_active (h : s.power.st = .active) (hd : s.dozing = false) : s.wake = s := by
  unfold State.wake
  rw [h, hd]
  rfl

end Sys2Proof.Machine
end

