-- ==== Sys2Proof/Laws/Mailbox.lean ====
section
/-! SUPPORT. What a mailbox row does: nothing, a refusal, or the effect of its command. -/

namespace Sys2Proof.Machine

open Sys2Proof

variable {s : State} {n code : Nat} {mine : Cmd → Bool} {len : Cmd → Nat} {checks : State → Cmd → List Check} {run : Cmd → State → State}

/-- A row whose slot is not taken, or holds another command, changes nothing. -/
theorem command_waits (h : s.takes n = false ∨ (knownCodes.contains (s.slotCmd n).code = true ∧
    ((s.slotCmd n).code ≠ code ∨ mine (s.slotCmd n) = false))) : s.command n code mine len checks run = s := by
  unfold State.command
  rcases h with h | ⟨hk, h⟩
  · simp [h]
  · simp only [hk]
    simp [h]

/-- A command that passes every check has its effect. -/
theorem command_passes (hk : knownCodes.contains code = true) (h : s.Passes n code mine len checks) :
    s.command n code mine len checks run = run (s.slotCmd n) (s.take n) := by
  obtain ⟨ht, rfl, hm, hc⟩ := h
  have hk' : (s.slotCmd n).code ∈ knownCodes := by simpa using hk
  unfold State.command
  simp [ht, hk', hm, hc]

/-- The first check that fails refuses the command. -/
theorem command_denied {d : Deny} (hk : knownCodes.contains code = true) (ht : s.takes n = true) (he : (s.slotCmd n).code = code)
    (hm : mine (s.slotCmd n) = true)
    (hd : firstDeny (s.commonChecks (s.slotCmd n) (len (s.slotCmd n)) ++ checks s (s.slotCmd n)) = some d) :
    s.command n code mine len checks run = (s.take n).deny (s.slotCmd n) d := by
  subst he
  have hk' : (s.slotCmd n).code ∈ knownCodes := by simpa using hk
  unfold State.command
  simp [ht, hk', hm, hd]

/-- A command code that is not in Table 11-7 is refused. -/
theorem command_unknown (ht : s.takes n = true) (hk : knownCodes.contains (s.slotCmd n).code = false) :
    s.command n code mine len checks run = (s.take n).deny (s.slotCmd n) { status := rsEinval, field := 0, data := [] } := by
  unfold State.command
  simp only [ht, hk]
  simp

end Sys2Proof.Machine
end

