-- ==== Sys2Proof/Laws/Rest.lean ====
section
/-! SUPPORT. What the tell-tale network leaves alone: `s.Rest q` says that `s` agrees with `q` on everything but the tell-tale
network with its shadows, the ports, the counters, the links, the pins and the free values. One lemma per operation carries it over. -/

namespace Sys2Proof.Machine

open Sys2Proof

/-- The parts that no operation of the tell-tale network touches. -/
structure RestParts (q : State) (pending : List Instr) (mem remote : List Host.Cell) (topo : Topo) (ctxs : Tbl Binding) (pol : PolicyState)
    (led : LedgerState) (ops : OpsState) (keys : KeyState) (units : UnitState) (dump : DumpState) (cut : CutState) (win : Window)
    (debug : Bool) (mh : Masthead) (sec : SecState) (power : PowerState) (inp : Inputs) (tap : TapState) : Prop where
  pending : pending = q.pending
  mem : mem = q.mem
  remote : remote = q.remote
  topo : topo = q.topo
  ctxs : ctxs = q.ctxs
  pol : pol = q.pol
  led : led = q.led
  ops : ops = q.ops
  keys : keys = q.keys
  units : units = q.units
  dump : dump = q.dump
  cut : cut = q.cut
  win : win = q.win
  debug : debug = q.debug
  mh : mh = q.mh
  sec : sec = q.sec
  power : power = q.power
  inp : inp = q.inp
  tap : tap = q.tap

/-- `s` differs from `q` at most in the tell-tale network, the shadows, the ports, the counters, the links, the pins and the free values. -/
abbrev State.Rest (s q : State) : Prop :=
  RestParts q s.pending s.mem s.remote s.topo s.ctxs s.pol s.led s.ops s.keys s.units s.dump s.cut s.win s.debug s.mh s.sec s.power s.inp s.tap

theorem State.rest_refl (s : State) : s.Rest s := ⟨rfl, rfl, rfl, rfl, rfl, rfl, rfl, rfl, rfl, rfl, rfl, rfl, rfl, rfl, rfl, rfl, rfl, rfl, rfl⟩

/-- Then `s` is `q` but for those. -/
theorem State.rest_eq {q s : State} (h : s.Rest q) : s = { q with
    tt := s.tt, shadow := s.shadow, ports := s.ports, counters := s.counters, link := s.link, out := s.out, free := s.free } := by
  obtain ⟨h1, h2, h3, h4, h5, h6, h7, h8, h9, h10, h11, h12, h13, h14, h15, h16, h17, h18, h19⟩ := h
  cases s
  simp only at *
  subst_vars
  rfl

variable {q s : State}

/-- A next state agrees with `q`. -/
def RestOut (q : State) : Host.Outcome State Fault Refusal → Prop
  | .next t => State.Rest t q
  | _ => True

theorem rest_ite {c : Prop} [Decidable c] {a b : State} (ha : c → a.Rest q) (hb : ¬c → b.Rest q) :
    (if c then a else b).Rest q := by
  split
  · exact ha ‹_›
  · exact hb ‹_›

theorem rest_forEach {α : Type} {l : List α} {f : α → State → State} (hf : ∀ x t, State.Rest t q → (f x t).Rest q)
    (h : s.Rest q) : (forEach l f s).Rest q := by
  unfold forEach
  induction l generalizing s with
  | nil => exact h
  | cons x r ih => exact ih (hf x s h)

theorem rest_ok (h : s.Rest q) : RestOut q (ok s) := h

theorem rest_next (h : s.Rest q) : RestOut q (.next s) := h

theorem rest_oite {c : Prop} [Decidable c] {a b : Host.Outcome State Fault Refusal} (ha : c → RestOut q a)
    (hb : ¬c → RestOut q b) : RestOut q (if c then a else b) := by
  split
  · exact ha ‹_›
  · exact hb ‹_›

theorem rest_setPort (a b) (h : s.Rest q) : (s.setPort a b).Rest q := h

theorem rest_modPort (a b) (h : s.Rest q) : (State.modPort s a b).Rest q := by
  unfold State.modPort
  repeat' with_reducible first | assumption | apply rest_setPort

theorem rest_bump (a b) (h : s.Rest q) : (s.bump a b).Rest q := h

theorem rest_setLnk (a b) (h : s.Rest q) : (s.setLnk a b).Rest q := h

theorem rest_modLnk (a b) (h : s.Rest q) : (State.modLnk s a b).Rest q := by
  unfold State.modLnk
  repeat' with_reducible first | assumption | apply rest_setLnk

theorem rest_sendMsg (a b c) (h : s.Rest q) : (State.sendMsg s a b c).Rest q := by
  unfold State.sendMsg
  repeat' with_reducible first | assumption | apply rest_modLnk | split

theorem rest_countSent (a) (h : s.Rest q) : (State.countSent s a).Rest q := by
  unfold State.countSent
  repeat' with_reducible first | assumption | apply rest_ite | split | extract_lets | intro _

theorem rest_countRecv (a) (h : s.Rest q) : (State.countRecv s a).Rest q := by
  unfold State.countRecv
  repeat' with_reducible first | assumption | apply rest_ite | split | extract_lets | intro _

theorem rest_originate (a b c) (h : s.Rest q) : (State.originate s a b c).Rest q := by
  unfold State.originate
  repeat' with_reducible first | assumption | apply rest_sendMsg | apply rest_countSent

theorem rest_setWord (a b) (h : s.Rest q) : (State.setWord s a b).Rest q := h

theorem rest_setShadow (a b) (h : s.Rest q) : (State.setShadow s a b).Rest q := h

theorem rest_answer (a b c d e) (h : s.Rest q) : (State.answer s a b c d e).Rest q := by
  unfold State.answer
  repeat' with_reducible first | assumption | apply rest_modPort

theorem rest_endWait (a b c) (h : s.Rest q) : (State.endWait s a b c).Rest q := by
  unfold State.endWait
  repeat' with_reducible first | assumption | apply rest_modPort

theorem rest_answerWait (a b c d) (h : s.Rest q) : (State.answerWait s a b c d).Rest q := by
  unfold State.answerWait
  repeat' with_reducible first | assumption | apply rest_answer | apply rest_endWait

theorem rest_logSync (a b c d) (h : s.Rest q) : (s.logSync a b c d).Rest q := by
  unfold State.logSync
  extract_lets e t
  split
  · exact h
  · exact h

theorem rest_logDrift (e) (h : s.Rest q) : (s.logDrift e).Rest q := by
  unfold State.logDrift
  split
  · exact h
  · exact h

theorem rest_onMsg (a b c d) (hd : ∀ x0 t, State.Rest t q → (d x0 t).Rest q) (h : s.Rest q) : (State.onMsg s a b c d).Rest q := by
  unfold State.onMsg
  repeat' with_reducible first | assumption | apply rest_modLnk | apply hd | apply rest_ite | split | extract_lets | intro _

theorem rest_consumeOrForward (a b c d) (hd : ∀ t, State.Rest t q → (d t).Rest q)
    (h : s.Rest q) : (State.consumeOrForward s a b c d).Rest q := by
  unfold State.consumeOrForward
  repeat' with_reducible first
    | assumption | apply rest_countRecv | apply rest_sendMsg | apply hd | apply rest_ite | split | extract_lets | intro _

theorem rest_setChan (a b) (h : s.Rest q) : (s.setChan a b).Rest q := h

theorem rest_modChan (a b) (h : s.Rest q) : (State.modChan s a b).Rest q := by
  unfold State.modChan
  repeat' with_reducible first | assumption | apply rest_setChan

theorem rest_pulse (a) (h : s.Rest q) : (State.pulse s a).Rest q := h

theorem rest_answerBarrier (a b c d) (h : s.Rest q) : (State.answerBarrier s a b c d).Rest q := by
  unfold State.answerBarrier
  repeat' with_reducible first | assumption | apply rest_answer | apply rest_endWait

theorem rest_endBarrierWaits (a b c d) (h : s.Rest q) : (State.endBarrierWaits s a b c d).Rest q := by
  unfold State.endBarrierWaits
  repeat' with_reducible first
    | assumption | apply rest_setChan | apply rest_forEach | apply rest_answerBarrier | split | extract_lets | intro _

theorem rest_releaseStepAt (a b) (h : s.Rest q) : (State.releaseStepAt s a b).Rest q := by
  unfold State.releaseStepAt
  repeat' with_reducible first | assumption | apply rest_setChan | apply rest_endBarrierWaits

theorem rest_decideRelease (a b c) (h : s.Rest q) : (State.decideRelease s a b c).Rest q := by
  unfold State.decideRelease
  repeat' with_reducible first | assumption | apply rest_pulse | apply rest_releaseStepAt

theorem rest_prewarn (a) (h : s.Rest q) : (State.prewarn s a).Rest q := by
  unfold State.prewarn
  repeat' with_reducible first | assumption | apply rest_pulse | apply rest_modChan | apply rest_ite | split | extract_lets | intro _

theorem rest_endPhase (a b) (h : s.Rest q) : (State.endPhase s a b).Rest q := by
  unfold State.endPhase
  repeat' with_reducible first
    | assumption | apply rest_prewarn | apply rest_modChan | apply rest_decideRelease | apply rest_ite | split | extract_lets
    | intro _

theorem rest_trimWord (a) (h : s.Rest q) : (State.trimWord a s).Rest q := by
  unfold State.trimWord
  repeat' with_reducible first | assumption | apply rest_setWord | apply rest_logDrift

theorem rest_trimCheck (a) (h : s.Rest q) : (State.trimCheck s a).1.Rest q := by
  unfold State.trimCheck
  repeat' with_reducible first | assumption | apply rest_forEach | apply rest_trimWord | split | extract_lets | intro _

theorem rest_foreignDrift (a) (h : s.Rest q) : (State.foreignDrift s a).1.Rest q := h

theorem rest_chipDrift (a) (h : s.Rest q) : (State.chipDrift s a).1.Rest q := by
  unfold State.chipDrift
  repeat' with_reducible first | assumption | apply rest_trimCheck | apply rest_foreignDrift

theorem rest_barrierTo (a b c d e f) (h : s.Rest q) : (State.barrierTo s a b c d e f).Rest q := by
  unfold State.barrierTo
  repeat' with_reducible first | assumption | apply rest_forEach | apply rest_originate | split | extract_lets | intro _

theorem rest_checkPrewarn (a b) (h : s.Rest q) : (State.checkPrewarn s a b).Rest q := by
  unfold State.checkPrewarn
  repeat' with_reducible first
    | assumption | apply rest_barrierTo | apply rest_prewarn | apply rest_ite | split | extract_lets | intro _

theorem rest_releaseAtRoot (ch g) (h : s.Rest q) : (s.releaseAtRoot ch g).Rest q := by
  have hd := rest_chipDrift g h
  unfold State.releaseAtRoot
  extract_lets x c drift s0
  have h0 : s0.Rest q := rest_ite (fun _ => hd) (fun _ => h)
  clear_value s0
  repeat' with_reducible first | assumption | apply rest_endPhase | apply rest_barrierTo | apply rest_ite | extract_lets | intro _

theorem rest_countUp (ch g n a c) (h : s.Rest q) : (State.countUp ch g n a c s).Rest q := by
  induction n generalizing s a c with
  | zero => exact h
  | succ n ih =>
    unfold State.countUp
    repeat' with_reducible first
      | assumption | apply ih | apply rest_releaseAtRoot | apply rest_checkPrewarn | apply rest_setChan | apply rest_barrierTo | apply rest_ite
      | split | extract_lets | intro _

theorem rest_afterArrival (a b) (h : s.Rest q) : (State.afterArrival s a b).Rest q := by
  unfold State.afterArrival
  repeat' with_reducible first
    | assumption | apply rest_checkPrewarn | apply rest_countUp | apply rest_setChan | apply rest_ite | split | extract_lets | intro _

theorem rest_answerChannel (a b c d e f) (h : s.Rest q) : (State.answerChannel s a b c d e f).Rest q := by
  unfold State.answerChannel
  repeat' with_reducible first | assumption | apply rest_answer | apply rest_endWait | apply rest_ite | split | extract_lets | intro _

theorem rest_applyArrive (a b) (h : s.Rest q) : (State.applyArrive s a b).Rest q := by
  unfold State.applyArrive
  repeat' with_reducible first
    | assumption | apply rest_answerChannel | apply rest_setChan | apply rest_answer | apply rest_afterArrival | apply rest_ite
    | split | extract_lets | intro _

theorem rest_applyBwait (a b) (h : s.Rest q) : (State.applyBwait s a b).Rest q := by
  unfold State.applyBwait
  repeat' with_reducible first
    | assumption | apply rest_answerChannel | apply rest_setChan | apply rest_ite | split | extract_lets | intro _

theorem rest_breakHere (a) (h : s.Rest q) : (State.breakHere s a).Rest q := by
  unfold State.breakHere
  repeat' with_reducible first | assumption | apply rest_modChan | apply rest_endBarrierWaits

theorem rest_breakChannel (a b) (h : s.Rest q) : (State.breakChannel s a b).Rest q := by
  unfold State.breakChannel
  repeat' with_reducible first | assumption | apply rest_breakHere | apply rest_barrierTo | split

theorem rest_execBarrierWaitTimeout (a b) (h : s.Rest q) : RestOut q (execBarrierWaitTimeout a b s) := by
  unfold execBarrierWaitTimeout
  repeat' with_reducible first | assumption | apply rest_ok | apply rest_answerBarrier | apply rest_setChan | split | extract_lets

theorem rest_execReleaseStep (a) (h : s.Rest q) : RestOut q (execReleaseStep a s) := by
  unfold execReleaseStep
  repeat' with_reducible first
    | assumption | apply rest_ok | apply rest_releaseStepAt | apply rest_ite | apply rest_oite | split | extract_lets | intro _

theorem rest_execFleetWaitExpiry (a) (h : s.Rest q) : RestOut q (execFleetWaitExpiry a s) := by
  unfold execFleetWaitExpiry
  repeat' with_reducible first | assumption | apply rest_ok | apply rest_decideRelease | split

theorem rest_onChannel (a b) (hb : ∀ x0 x1 t, State.Rest t q → (b x0 x1 t).Rest q) (h : s.Rest q) : (State.onChannel s a b).Rest q := by
  unfold State.onChannel
  repeat' with_reducible first | assumption | apply rest_logSync | apply hb | split | extract_lets

theorem rest_followPhase (a b c) (h : s.Rest q) : (State.followPhase s a b c).Rest q := by
  unfold State.followPhase
  repeat' with_reducible first | assumption | apply rest_modChan | apply rest_ite | split | extract_lets | intro _

theorem rest_execBarArrive (a) (h : s.Rest q) : RestOut q (execBarArrive a s) := by
  unfold execBarArrive
  repeat' with_reducible first
    | assumption | apply rest_ok | apply rest_onMsg | apply rest_consumeOrForward | apply rest_onChannel | apply rest_followPhase
    | apply rest_modChan | apply rest_checkPrewarn | apply rest_releaseAtRoot | apply rest_countUp | apply rest_ite | apply rest_oite
    | split | extract_lets | intro _

theorem rest_execBarRelease (a) (h : s.Rest q) : RestOut q (execBarRelease a s) := by
  unfold execBarRelease
  repeat' with_reducible first
    | assumption | apply rest_ok | apply rest_onMsg | apply rest_consumeOrForward | apply rest_onChannel | apply rest_barrierTo
    | apply rest_chipDrift | apply rest_modChan | apply rest_endPhase | apply rest_ite | apply rest_oite | split | extract_lets
    | intro _

theorem rest_execBarOrphan (a) (h : s.Rest q) : RestOut q (execBarOrphan a s) := by
  unfold execBarOrphan
  repeat' with_reducible first
    | assumption | apply rest_ok | apply rest_onMsg | apply rest_consumeOrForward | apply rest_onChannel | apply rest_endBarrierWaits
    | apply rest_breakChannel | apply rest_ite | apply rest_oite | split | extract_lets | intro _

theorem rest_execBarPrewarn (a) (h : s.Rest q) : RestOut q (execBarPrewarn a s) := by
  unfold execBarPrewarn
  repeat' with_reducible first
    | assumption | apply rest_ok | apply rest_onMsg | apply rest_consumeOrForward | apply rest_onChannel | apply rest_barrierTo
    | apply rest_prewarn | apply rest_ite | apply rest_oite | split | extract_lets | intro _

theorem rest_answerFlight (a b c d) (h : s.Rest q) : (State.answerFlight s a b c d).Rest q := by
  unfold State.answerFlight
  repeat' with_reducible first
    | assumption | apply rest_answer | apply rest_endWait | apply rest_logSync | apply rest_originate | apply rest_ite | split
    | extract_lets | intro _

theorem rest_releaseDrain (a) (h : s.Rest q) : (State.releaseDrain s a).Rest q := by
  unfold State.releaseDrain
  repeat' with_reducible first
    | assumption | apply rest_forEach | apply rest_answerWait | apply rest_setWord | apply rest_ite | split | extract_lets | intro _

theorem rest_serveQueue (w l) (h : s.Rest q) : (State.serveQueue w l s).Rest q := by
  induction l generalizing s with
  | nil => exact h
  | cons x r ih =>
    unfold State.serveQueue
    repeat' with_reducible first | assumption | apply ih | apply rest_answerWait | apply rest_setWord | apply rest_ite | extract_lets | intro _

theorem rest_manage (a b) (h : s.Rest q) : (State.manage s a b).Rest q := by
  unfold State.manage
  repeat' with_reducible first
    | assumption | apply rest_answerFlight | apply rest_setShadow | apply rest_setWord | apply rest_ite | split | extract_lets
    | intro _

theorem rest_join (a b) (h : s.Rest q) : (State.join s a b).Rest q := by
  unfold State.join
  repeat' with_reducible first
    | assumption | apply rest_answerFlight | apply rest_setWord | apply rest_releaseDrain | apply rest_ite | split | extract_lets
    | intro _

theorem rest_signal (a b) (h : s.Rest q) : (State.signal s a b).Rest q := by
  unfold State.signal
  repeat' with_reducible first
    | assumption | apply rest_answerFlight | apply rest_answerWait | apply rest_setWord | apply rest_releaseDrain
    | apply rest_serveQueue | apply rest_ite | split | extract_lets | intro _

theorem rest_decrement (a b) (h : s.Rest q) : (State.decrement s a b).Rest q := by
  unfold State.decrement
  repeat' with_reducible first
    | assumption | apply rest_answerFlight | apply rest_setWord | apply rest_releaseDrain | apply rest_ite | split | extract_lets
    | intro _

theorem rest_atWord (w f) (h : s.Rest q) : (s.atWord w f).Rest q := by
  unfold State.atWord
  extract_lets top t
  have ht : t.Rest q := by
    repeat' with_reducible first | assumption | apply rest_setShadow | apply rest_ite | intro _
  clear_value t top
  repeat' with_reducible first
    | assumption | apply rest_answerFlight | apply rest_signal | apply rest_join | apply rest_decrement | apply rest_manage | split

theorem rest_ttCycle (a b) (h : s.Rest q) : (State.ttCycle s a b).Rest q := by
  unfold State.ttCycle
  repeat' with_reducible first | assumption | apply rest_forEach | apply rest_atWord | split | extract_lets | intro _

theorem rest_claimAny (a b) (h : s.Rest q) : (State.claimAny a b s).Rest q := by
  unfold State.claimAny
  repeat' with_reducible first
    | assumption | apply rest_answerFlight | apply rest_setShadow | apply rest_setWord | apply rest_ite | split | extract_lets
    | intro _

theorem rest_flushFences (n) (h : s.Rest q) : (State.flushFences n s).Rest q := by
  induction n generalizing s with
  | zero => exact h
  | succ n ih =>
    unfold State.flushFences
    repeat' with_reducible first | assumption | apply ih | apply rest_applyArrive | apply rest_applyBwait | apply rest_ite | split | extract_lets | intro _

theorem rest_flush (h : s.Rest q) : (State.flush s).Rest q := by
  unfold State.flush
  repeat' with_reducible first | assumption | apply rest_flushFences

theorem rest_launch (a b) (h : s.Rest q) : (State.launch s a b).Rest q := by
  unfold State.launch
  repeat' with_reducible first | assumption | apply rest_originate | apply rest_flush | apply rest_ite | split | extract_lets | intro _

theorem rest_issue (a b) (h : s.Rest q) : (State.issue s a b).Rest q := by
  unfold State.issue
  repeat' with_reducible first
    | assumption | apply rest_modPort | apply rest_answer | apply rest_logSync | apply rest_launch | apply rest_ite | split
    | extract_lets | intro _

theorem rest_orphanWord (a) (h : s.Rest q) : (State.orphanWord a s).Rest q := by
  unfold State.orphanWord
  repeat' with_reducible first
    | assumption | apply rest_setWord | apply rest_forEach | apply rest_answerWait | split | extract_lets | intro _

theorem rest_withdrawWaits (a) (h : s.Rest q) : (State.withdrawWaits s a).Rest q := by
  unfold State.withdrawWaits
  extract_lets words tt s0
  have h : s0.Rest q := h
  clear_value s0
  repeat' with_reducible first
    | assumption | apply rest_forEach | apply rest_setWord | apply rest_modChan | split | extract_lets | intro _

theorem rest_withdrawFlights (a) (h : s.Rest q) : (State.withdrawFlights s a).Rest q := h

theorem rest_resetTellTale (a) (h : s.Rest q) : (State.resetTellTale s a).Rest q := by
  unfold State.resetTellTale
  repeat' with_reducible first
    | assumption | apply rest_withdrawFlights | apply rest_withdrawWaits | apply rest_forEach | apply rest_orphanWord
    | apply rest_breakChannel | apply rest_ite | split | extract_lets | intro _

theorem rest_flushWords (a b) (h : s.Rest q) : (State.flushWords s a b).Rest q := by
  unfold State.flushWords
  repeat' with_reducible first
    | assumption | apply rest_forEach | apply rest_setWord | apply rest_answerWait | split | extract_lets | intro _

theorem rest_execSyncWordCycle (a b) (h : s.Rest q) : RestOut q (execSyncWordCycle a b s) := by
  unfold execSyncWordCycle
  repeat' with_reducible first
    | assumption | apply rest_ok | apply rest_flush | apply rest_forEach | apply rest_claimAny | apply rest_ttCycle | apply rest_ite
    | apply rest_oite | split | extract_lets | intro _

theorem rest_execWaitTimeout (a b) (h : s.Rest q) : RestOut q (execWaitTimeout a b s) := by
  unfold execWaitTimeout
  repeat' with_reducible first | assumption | apply rest_ok | apply rest_answerWait | apply rest_setWord | split | extract_lets

theorem rest_execSigMessage (a) (h : s.Rest q) : RestOut q (execSigMessage a s) := by
  unfold execSigMessage
  repeat' with_reducible first
    | assumption | apply rest_ok | apply rest_onMsg | apply rest_consumeOrForward | apply rest_logSync | apply rest_ite
    | apply rest_oite | split | extract_lets | intro _

theorem rest_execSigAck (a) (h : s.Rest q) : RestOut q (execSigAck a s) := by
  unfold execSigAck
  repeat' with_reducible first
    | assumption | apply rest_ok | apply rest_onMsg | apply rest_consumeOrForward | apply rest_flush | apply rest_answer
    | apply rest_ite | apply rest_oite | split | extract_lets | intro _

end Sys2Proof.Machine
end

