-- ==== Sys2Proof/Laws/Seal.lean ====
section
/-! SUPPORT. What sealing a frame leaves as it was: its CRC is right, and every other field is that of the header. -/

namespace Sys2Proof.Machine

theorem setBits_low (h : BitVec 128) (v : Nat) : (setBits h 0 32 v).toNat = 2 ^ 32 * (h.toNat / 2 ^ 32) + v % 2 ^ 32 := by
  apply Nat.eq_of_testBit_eq
  intro i
  rw [Nat.testBit_two_pow_mul_add _ (Nat.mod_lt v (by decide)), BitVec.testBit_toNat]
  simp only [setBits, BitVec.getLsbD_or, BitVec.getLsbD_and, BitVec.getLsbD_not, BitVec.getLsbD_ofNat, Nat.shiftLeft_zero, Nat.testBit_two_pow_sub_one,
    Nat.testBit_mod_two_pow, Nat.testBit_div_two_pow]
  by_cases c : i < 32
  · simp [c, show i < 128 by omega]
  · by_cases d : i < 128
    · simp [c, d, show i - 32 + 32 = i by omega, BitVec.testBit_toNat]
    · simp [c, d, show i - 32 + 32 = i by omega, BitVec.testBit_toNat, BitVec.getLsbD_of_ge h i (by omega)]

theorem bits_setBits_high (h : BitVec 128) (v lo len : Nat) (hl : 32 ≤ lo) : bits (setBits h 0 32 v) lo len = bits h lo len := by
  obtain ⟨d, rfl⟩ := Nat.exists_eq_add_of_le hl
  have e : (setBits h 0 32 v).toNat / 2 ^ 32 = h.toNat / 2 ^ 32 := by rw [setBits_low]; omega
  simp only [bits, Nat.shiftRight_eq_div_pow, Nat.pow_add, ← Nat.div_div_eq_div_mul, e]

theorem leBytes_drop (n v : Nat) : (leBytes (n + 4) v).drop 4 = leBytes n (v / 2 ^ 32) := by
  simp [leBytes, Nat.div_div_eq_div_mul]

theorem frameCrc_setBits (h : BitVec 128) (v : Nat) (p : BitVec 512) : frameCrc (setBits h 0 32 v) p = frameCrc h p := by
  have e : (setBits h 0 32 v).toNat / 2 ^ 32 = h.toNat / 2 ^ 32 := by rw [setBits_low]; omega
  simp only [frameCrc, coveredBytes, wordBytes, leBytes_drop 12, e]

theorem fCrc_setBits (h : BitVec 128) (v : Nat) (p : BitVec 512) : fCrc { hdr := setBits h 0 32 v, pay := p } = v % 2 ^ 32 := by
  simp only [fCrc, bits, setBits_low]; omega

/-- A sealed frame has the right CRC. -/
theorem sealFrame_crc (h : BitVec 128) (p : BitVec 512) : fCrc (sealFrame h p) = (frameCrc (sealFrame h p).hdr (sealFrame h p).pay).toNat := by
  simp only [sealFrame, frameCrc_setBits, fCrc_setBits, Nat.mod_eq_of_lt (BitVec.isLt _)]

/-- Its other fields are as they were. -/
theorem sealFrame_bits (h : BitVec 128) (p : BitVec 512) (lo len : Nat) (hl : 32 ≤ lo) : bits (sealFrame h p).hdr lo len = bits h lo len :=
  bits_setBits_high h _ lo len hl

@[simp] theorem sealFrame_pay (h : BitVec 128) (p : BitVec 512) : (sealFrame h p).pay = p := rfl
@[simp] theorem fType_seal (h : BitVec 128) (p : BitVec 512) : fType (sealFrame h p) = bits h 124 4 := sealFrame_bits h p _ _ (by decide)
@[simp] theorem fVc_seal (h : BitVec 128) (p : BitVec 512) : fVc (sealFrame h p) = bits h 121 3 := sealFrame_bits h p _ _ (by decide)
@[simp] theorem fSeq_seal (h : BitVec 128) (p : BitVec 512) : fSeq (sealFrame h p) = bits h 109 12 := sealFrame_bits h p _ _ (by decide)
@[simp] theorem fAck_seal (h : BitVec 128) (p : BitVec 512) : fAck (sealFrame h p) = bits h 97 12 := sealFrame_bits h p _ _ (by decide)
@[simp] theorem fCrvc_seal (h : BitVec 128) (p : BitVec 512) : fCrvc (sealFrame h p) = bits h 94 3 := sealFrame_bits h p _ _ (by decide)
@[simp] theorem fCrcum_seal (h : BitVec 128) (p : BitVec 512) : fCrcum (sealFrame h p) = bits h 82 12 := sealFrame_bits h p _ _ (by decide)
@[simp] theorem fVcf_seal (h : BitVec 128) (p : BitVec 512) : fVcf (sealFrame h p) = BitVec.ofNat 50 (bits h 32 50) := by
  simp only [fVcf, sealFrame_bits h p _ _ (Nat.le_refl 32)]

/-- The CRC has no part in the form of a frame, nor in what a receiver takes from its header. -/
theorem malformed_seal (k : Link) (h : BitVec 128) (p : BitVec 512) : k.malformed (sealFrame h p) = k.malformed { hdr := h, pay := p } := by
  simp only [Link.malformed, countsCredit, Link.creditAhead, fType, fVc, fAck, fCrvc, fCrcum, fVcf,
    sealFrame_bits h p 124 4 (by decide), sealFrame_bits h p 121 3 (by decide), sealFrame_bits h p 97 12 (by decide), sealFrame_bits h p 94 3 (by decide), sealFrame_bits h p 82 12 (by decide), sealFrame_bits h p 32 50 (by decide)]
  congr!

theorem takeFields_seal (k : Link) (h : BitVec 128) (p : BitVec 512) : Link.takeFields (sealFrame h p) k = Link.takeFields { hdr := h, pay := p } k := by
  simp only [Link.takeFields, Link.creditAhead, fAck, fCrvc, fCrcum, sealFrame_bits h p 97 12 (by decide), sealFrame_bits h p 94 3 (by decide),
    sealFrame_bits h p 82 12 (by decide)]
  congr!

end Sys2Proof.Machine
end

