-- ==== Sys2Proof/Laws/Submit.lean ====
section
/-! SUPPORT. What the read of a descriptor can do, said once (R252 to R256, R260, R262, R268, R364). -/

namespace Sys2Proof.Machine

open Sys2Proof

variable {s : State} {p : Nat} {mine : Desc → Bool}

/-! The checks do not ask the ports. -/

theorem checkFields_setPort {q : Nat} {x : Port} {d : Desc} {c : OpClass} :
    (s.setPort p x).checkFields q d c = s.checkFields q d c := rfl

theorem checkContext_setPort {q : Nat} {x : Port} {d : Desc} {c : OpClass} :
    (s.setPort p x).checkContext q d c = s.checkContext q d c := rfl

theorem checkState_setPort {q : Nat} {x : Port} {d : Desc} {c : OpClass} :
    (s.setPort p x).checkState q d c = s.checkState q d c := rfl

theorem validate_modPort {q : Nat} {f : Port → Port} {d : Desc} : (s.modPort p f).validate q d = s.validate q d := by
  simp only [State.validate, State.modPort, checkFields_setPort, checkContext_setPort, checkState_setPort]

theorem descRanges_modPort {f : Port → Port} {d : Desc} : (s.modPort p f).descRanges d = s.descRanges d := rfl

/-- A port that may not read changes nothing. -/
theorem submit_idle (h : s.mayRead p = false) : s.submit p mine = .next s := by
  unfold State.submit
  rw [if_pos h]

/-- A descriptor of the row that passes every check is taken on. -/
theorem submit_accepts {op : Nat} (h : s.Accepts p op) (hm : mine (s.slotDesc p) = true) :
    s.submit p mine = .next ((s.modPort p Port.readSlot).accept p (s.slotDesc p)) := by
  obtain ⟨⟨h1, h2, h3⟩, -, h4, h5, h6⟩ := h
  unfold State.submit
  simp only [h1, h2, h3, hm, Bool.true_eq_false, Bool.false_eq_true, if_false, and_false]
  unfold State.process
  simp only [h4, validate_modPort, h5, descRanges_modPort, h6, Bool.true_eq_false, if_false, if_true]

/-- A descriptor that fails a check of Table 9-10 completes with the status of the first failure, and nothing else happens. -/
theorem submit_rejects {st : CStatus} {signal : Bool} (h : s.Reads p) (ht : inSpace (tmapRange (s.slotDesc p)) = true)
    (hv : s.validate p (s.slotDesc p) = some (st, signal)) (hm : opClass (dOpcode (s.slotDesc p)) = none ∨ mine (s.slotDesc p) = true) :
    s.submit p mine =
      .next ((s.modPort p Port.readSlot).pushDone p (doneOf (s.slotDesc p) st Tally.zero 0 0 signal none)) := by
  obtain ⟨h1, h2, h3⟩ := h
  have h7 : ¬((opClass (dOpcode (s.slotDesc p))).isSome = true ∧ mine (s.slotDesc p) = false) := by
    rcases hm with h | h <;> simp [h]
  unfold State.submit
  simp only [h1, h2, h3, h7, Bool.true_eq_false, Bool.false_eq_true, if_false]
  unfold State.process
  simp only [ht, validate_modPort, hv, Bool.true_eq_false, if_false]

end Sys2Proof.Machine
end

