-- ==== Sys2Proof/WellFormed.lean ====
section
/-! DEFINITION. Which commands are well formed: the bounds that an operand's type does not carry. A command that is not is still given a
meaning; no sender that keeps to the manual presents one. -/

namespace Sys2Proof

/-- An index names a sync word (Table 5-1). A cycle may also resolve the claims of any word of a cluster, whose index is 0x3FF (R156). -/
def wordNumberOk (w : BitVec 16) : Bool := decide (w.toNat % 1024 < 768)

/-- The statuses of a combined decision travel with positions and counts in their ranges: a message of a child (R86, R109). -/
def UpMsg.wellFormed (m : UpMsg) : Bool := decide (1 ≤ m.pass) && decide (m.pass ≤ 4) && decide (m.ncontrib ≤ 33554432)

def FlitSource.wellFormed : FlitSource → Bool
  | .onDie _ => true
  | .offDie _ fnid _ m _ => m.wellFormed && fnid.toNat % 512 / 64 != 0

/-- A hoist message has 1 to 65,536 bytes (R231). -/
def HoistMsg.wellFormed (m : HoistMsg) : Bool := decide (1 ≤ m.data.length) && decide (m.data.length ≤ 65536)

def HoistSource.wellFormed : HoistSource → Bool
  | .onDie _ => true
  | .offDie _ m none => m.wellFormed
  | .offDie _ m (some l) => m.wellFormed && decide (l.1 < 1024) && l.2.all (fun c => decide (c < 32768))

/-- Units that have a test (R349). -/
def UnitId.testable : UnitId → Bool
  | .node _ => true
  | .half _ => true
  | .root _ => true
  | .bank _ => true
  | _ => false

/-- Units whose adders a residue check covers (Table 13-1). -/
def UnitId.residueChecked : UnitId → Bool
  | .bank _ => false
  | .pool _ => false
  | _ => true

/-- A reason of Table 12-3. -/
def reasonOk (r : Nat) : Bool := decide (r ≤ 8)

/-- A largest value is not below the smallest, and fits its field. -/
def CutOthers.wellFormed (o : CutOthers) : Bool :=
  decide (o.minNumber ≤ o.maxNumber) && decide (o.maxNumber < 2 ^ 48) && decide (o.minCrc ≤ o.maxCrc) && decide (o.maxCrc < 2 ^ 32)

/-- The agreement names contexts once each, ascending. -/
def CutAgreement.wellFormed (a : CutAgreement) : Bool :=
  reasonOk a.reason && a.xs.all (fun e => decide (e.1 < 4096)) && decide ((a.xs.map (·.1)).Pairwise (· < ·)) &&
    a.others.all CutOthers.wellFormed

/-- The regions of R370 lie in chip memory, and the distance table's is aligned. -/
def Regions.wellFormed (r : Regions) : Bool :=
  decide (r.flash + r.flashLen ≤ 2 ^ 52) && decide (r.dump + r.dumpLen ≤ 2 ^ 52) && decide (r.dist + 32832 ≤ 2 ^ 52) &&
    r.dist % 64 == 0

/-- The well-formed commands. -/
def Instr.wellFormed : Instr → Bool
  | .syncWordCycle word _ => wordNumberOk word || decide (word.toNat % 1024 = 0x3FF)
  | .waitTimeout word _ => wordNumberOk word
  | .treeFlit _ _ src => src.wellFormed
  | .combineLaneBegin _ token => decide (token < 16777216)
  | .rowReadReturn _ token => decide (token < 16777216)
  | .rowWriteVisible _ token => decide (token < 16777216)
  | .hoistAtHoldingNode _ src => src.wellFormed
  | .registerWrite _ ofs _ => ofs.toNat % 8 == 0
  | .hostWindowWrite _ n v => (n == 1 || n == 2 || n == 4 || n == 8) && decide (v.toNat < 2 ^ (8 * n.val))
  | .cinchAgreeResult a => a.wellFormed
  | .cinchQuietRound reason _ _ _ _ => reasonOk reason
  | .cinchCommitResult reason => reasonOk reason
  | .residueError u _ _ => u.residueChecked
  | .flitCrcError _ n => decide (1 ≤ n)
  | .secdedError w _ n => (match w with | .word x => wordNumberOk x | _ => true) && decide (1 ≤ n)
  | .wireParityError n => decide (1 ≤ n)
  | .rootPairMismatch u _ => (match u with | .half _ => true | .root _ => true | _ => false)
  | .backgroundUnitTest u => u.testable
  | .testComplete u _ _ => u.testable
  | .nodeReset u => u.testable
  | .mhReady r => r.wellFormed
  | _ => true

end Sys2Proof
end

