-- ==== Sys2Proof/Tests/Slice0.lean ====
section
/-! SUPPORT. A witness for the hypotheses of each statement that has any (its theorem begins with the statement's name; the last part of the name says which clause),
the manual's worked examples, and commands that are not well formed. -/

open Sys2Proof Sys2Proof.Machine

namespace Sys2Proof.Tests

set_option Elab.async false

/-! ## States for the witnesses -/

/-- The parts of soundness that a computation decides, for a state that has counted nothing. -/
abbrev plain (s : State) : Prop :=
  (Memory.wf s.mem = true ∧ Memory.wf s.remote = true ∧ Tbl.wf portDefault s.ports = true ∧ Tbl.wf chanDefault s.tt.chans = true ∧
    Tbl.wf tagDefault s.led.tags = true ∧ Tbl.wf Link.reset s.link.links = true ∧ Tbl.Rising s.tt.words ∧ Tbl.Rising s.shadow.shadows ∧
    Tbl.Rising s.led.die ∧ Tbl.Rising s.win.ring) ∧ s.win.rspHead < 32 ∧ s.win.rspTail < 32 ∧ s.shadow.errLog.length ≤ 64 ∧
    s.shadow.driftLog.length ≤ 64 ∧ Tbl.wf policyDefault s.pol.vals = true ∧ (∀ id ∈ policyIds, policyOk id (s.policy id) = true) ∧
    s.policy 0x04 ≤ s.policy 0x06 ∧ s.policy 0x06 ≤ s.policy 0x05

theorem sound_of_plain {s : State} (h : plain s) (hc : s.counters = []) : s.Sound := by
  obtain ⟨⟨h1, h2, h3, h4, h5, h6, h7, h8, h9, h10⟩, h11, h12, h13, h14, h15, h16, h17⟩ := h
  have r := State.reset_sound
  refine ⟨h1, h2, h3, h4, h5, h6, h7, h8, h9, h10, h11, h12, h13, h14, h15, h16, h17, ?_, ?_⟩
  · rw [hc]; exact r.counters_wf
  · rw [hc]; exact r.counters_le

/-- Start-up is over, and a topology is in force on chip 3: group 1 of endpoints 0 and 1, and group 2 of endpoint 0. -/
def base : State :=
  { State.reset with
    power := { PowerState.reset with boot := .done }
    mh := { Masthead.reset with ready := true, st := .configured, hello := true }
    topo := { Topo.reset with
      rigValid := true, chip := 3, present := [3, 5]
      groups := [(1, { members := 3, nmemb := 2, nchip := 1, hops := 0, folds := [], transits := [] }),
        (2, { members := 1, nmemb := 1, nchip := 1, hops := 0, folds := [], transits := [] })] }
    ctxs := [(7, { group := 1, chan := some 2, block := List.replicate 128 0, started := 0, cut := 0, chosen := false, epochs := [] }),
      (8, { group := 2, chan := none, block := List.replicate 128 0, started := 0, cut := 0, chosen := false, epochs := [] })] }

theorem base_sound : base.Sound := sound_of_plain (by decide +kernel) rfl

def withMem (s : State) (m : List Host.Cell) : State := { s with mem := m }
def withPorts (s : State) (x : Tbl Port) : State := { s with ports := x }

theorem withMem_sound {s : State} (h : s.Sound) {m : List Host.Cell} (hm : Memory.wf m = true) : (withMem s m).Sound := { h with mem_wf := hm }
theorem withPorts_sound {s : State} (h : s.Sound) {x : Tbl Port} (hx : Tbl.wf portDefault x = true) : (withPorts s x).Sound :=
  { h with ports_wf := hx }

/-- Port 0 with rings of 16 slots: the submission ring at address 0, with one descriptor of these words, the completion ring at 0x1000. -/
def desc (q0 q1 q2 q3 q4 q5 q6 q7 : Nat) : State :=
  withMem (withPorts base [(0, { Port.reset with sqCfg := 4, sqTail := 1, cqCfg := 0x1004 })])
    (Memory.writeN [] 0 ([q0, q1, q2, q3, q4, q5, q6, q7].flatMap (leBytes 8)))

theorem desc_sound (q0 q1 q2 q3 q4 q5 q6 q7 : Nat) : (desc q0 q1 q2 q3 q4 q5 q6 q7).Sound := by
  unfold desc
  exact withMem_sound (withPorts_sound base_sound (by decide)) (Memory.writeN_wf _ _ rfl)

/-- A reduction of 5 elements with an opcode and formats, on context 7 in epoch 9. -/
def reduction (op ifmt ofmt : Nat) : State :=
  desc (op ||| ifmt <<< 8 ||| ofmt <<< 13 ||| 7 <<< 32 ||| 1 <<< 44) 5 0 0 0x2000 0x3000 0 (9 <<< 32)

/-- An `NSUM` with the short format KF8E4 on context 7. -/
def nsumDesc : State := desc (0x03 ||| 1 <<< 8 ||| 1 <<< 13 ||| 3 <<< 18 ||| 7 <<< 32 ||| 1 <<< 44) 5 0 0 0x2000 0x3000 0 (9 <<< 32)

/-- A `ROUTE` of two tokens over four experts, tag 0x1234, on context 8. -/
def routeDesc : State :=
  desc (0x20 ||| 1 <<< 8 ||| 8 <<< 32 ||| 2 <<< 44) (2 ||| 4 <<< 48) (0x1234 <<< 48) 64 0x2000 0x3000 0x4000 (9 <<< 32)

/-- A ledger entry of tag 0x1234 with a state and its sides valid and arrived (Table 6-3). -/
def entry (st token sv arr : Nat) : BitVec 160 := BitVec.ofNat 160 (st <<< 157 ||| arr <<< 155 ||| sv <<< 153 ||| 0x1234 <<< 136 ||| token <<< 112)

/-- Tag 0x1234 in slot 0 with two tokens in block 0, whose `ROUTE` has completed, with these two entries. -/
def tagged (s : State) (e0 e1 : BitVec 160) : State :=
  { s with led := { s.led with
    tags := [(0, { st := .live, tag := 0x1234, gen := 9, tokBase := 0, ntok := 2, blocks := [0], routeDone := true, routeCancelled := false
                   nopen := ([e0, e1].filter leOpen).length })]
    die := [(0, e0), (1, e1)] } }

theorem tagged_sound {s : State} (h : s.Sound) (e0 e1 : BitVec 160) : (tagged s e0 e1).Sound :=
  { h with tags_wf := rfl, die_up := by simp [tagged, Tbl.Rising] }

/-- An operation of the combine class of two tokens with 8 elements a row, on tag 0x1234. -/
def combDesc (op flags ofmt xfmt : Nat) : State :=
  desc (op ||| 1 <<< 8 ||| ofmt <<< 13 ||| xfmt <<< 18 ||| 7 <<< 32) (8 ||| flags <<< 32) (2 ||| 0x1234 <<< 48) 0 0x2000 0x3000 (if op = 0x29 then 0 else 0x4000) 0

/-- A `TAG_RELEASE` or `TAG_CANCEL` of tag 0x1234. -/
def tagDesc (op : Nat) : State := desc (op ||| 7 <<< 32) 0 (0x1234 <<< 48) 0 0 0 0 0

/-- A `BCAST` of 4 bytes to group 1. -/
def bcastDesc : State := desc (0x30 ||| 7 <<< 32 ||| 1 <<< 44) 4 0 0 0x2000 0x3000 0 0

/-- An `MCAST` of 4 bytes to endpoint 1 of chip 5, which the list at 0x4000 names. -/
def mcastDesc : State :=
  let s := desc (0x31 ||| 7 <<< 32) (4 ||| 1 <<< 36) (1 <<< 32 ||| 1 <<< 48) 0 0x2000 0x3000 0x4000 0
  { s with mem := Memory.writeN s.mem 0x4000 [5, 0] }

/-- An `HRECV` of a length on channel 2. -/
def hrecvDesc (n : Nat) : State := desc (0x32 ||| 7 <<< 32) (n ||| 2 <<< 32) 0 0 0 0x2000 0 0

/-! ## Witnesses: steps and descriptors -/

theorem witness_StepRunsTheFrontCommand_emptyQueueIdles : State.reset.pending = [] := rfl

theorem witness_EveryStepKeepsSoundness : ∃ s t : State, s.Sound ∧ step s = .next t ∧ s.pending ≠ [] :=
  ⟨{ State.reset with pending := [.mbistDone []] }, _, State.reset_sound, rfl, by decide⟩

/-- The one fault: the distance table would lie past the address space. -/
theorem witness_OnlyMemoryAccessStops :
    exec (.mhReady { Regions.none with dist := 2 ^ 52 }) { State.reset with power := { PowerState.reset with boot := .firmware } } =
      .fault .beyondAddressSpace := rfl

theorem witness_CollectiveDescriptorsStart_integers :
    ∀ op ∈ [0x01, 0x04, 0x05, 0x06, 0x07, 0x08, 0x09, 0x0A, 0x0B, 0x0C, 0x0D, 0x0E, 0x0F],
      (reduction op 9 9).Sound ∧ (reduction op 9 9).Accepts 0 op :=
  fun op h => ⟨desc_sound .., (by decide +kernel : ∀ op ∈ [0x01, 0x04, 0x05, 0x06, 0x07, 0x08, 0x09, 0x0A, 0x0B, 0x0C, 0x0D, 0x0E, 0x0F], (reduction op 9 9).Accepts 0 op) op h⟩

theorem witness_CollectiveDescriptorsStart_others :
    (reduction 0x02 1 1).Accepts 0 0x02 ∧ nsumDesc.Accepts 0 0x03 ∧ (reduction 0x10 1 1).Accepts 0 0x10 ∧ routeDesc.Accepts 0 0x20 := by
  decide +kernel

/-- With 256 contexts active, a collective of another one is admitted behind them. -/
theorem witness_CollectiveDescriptorsStart_queued :
    let s := { reduction 0x01 9 9 with ops := { OpsState.reset with slots := (List.range 256).map (· + 100) } }
    s.Accepts 0 0x01 ∧ s.slotFor 7 = false := by decide +kernel

theorem witness_TagAndCombineDescriptorsAreAccepted_tagDescriptorsComplete :
    (tagged (tagDesc 0x21) (entry 3 0 1 1) 0).Sound ∧ (tagged (tagDesc 0x21) (entry 3 0 1 1) 0).Accepts 0 0x21 ∧
      (tagged (tagDesc 0x22) (entry 2 0 1 1) 0).Accepts 0 0x22 :=
  ⟨tagged_sound (desc_sound ..) _ _, by decide +kernel, by decide +kernel⟩

/-- A release that leaves no entry, and a cancel of entries that wait, the first with all its sides arrived. -/
theorem witness_TagAndCombineDescriptorsAreAccepted_tagEntriesEnd :
    ∀ r ∈ [(0x21, entry 3 0 1 1, 0), (0x22, entry 2 0 1 1, entry 2 1 1 0)],
      let s := tagged (tagDesc r.1) r.2.1 r.2.2
      s.Accepts 0 r.1 ∧ s.units.lostBanks = [] ∧ (s.findTag (dTag (s.slotDesc 0))).getD 0 = 0 ∧ (s.tagSlot 0).routeDone = true ∧
        (s.tagSlot 0).blocks.Nodup ∧ (s.tagSlot 0).ntok ≤ 1024 * (s.tagSlot 0).blocks.length := by decide +kernel

/-- What it answers there: the first entry is freed, the second is cancelled, and the slot waits in quarantine with none open. -/
theorem test_cancel_leaves_what_must_arrive :
    (match exec (.tagCancel 0) (tagged (tagDesc 0x22) (entry 2 0 1 1) (entry 2 1 1 0)) with
     | .next t => [0, 1].map (fun n => match t.readRow (t.tagSlot 0) n with | .entry e => leState e | _ => 9) ++ [(t.tagSlot 0).nopen]
     | _ => []) = [0, 4, 0] := by decide +kernel

/-- The clause of a `ROUTE` that still runs. -/
theorem witness_TagAndCombineDescriptorsAreAccepted_tagDescriptorsComplete_running :
    let s := tagDesc 0x22
    let t := { s with led := { s.led with tags := [(0, { st := .live, tag := 0x1234, gen := 9, tokBase := 0, ntok := 2, blocks := [0], routeDone := false, routeCancelled := false, nopen := 0 })] } }
    t.Accepts 0 0x22 ∧ (t.tagSlot 0).routeDone = false := by decide +kernel

theorem witness_TagAndCombineDescriptorsAreAccepted_combineDescriptorsAccepted :
    let s := fun op x => tagged (combDesc op (if op = 0x28 then 2 else 0) 1 x) (entry 3 0 1 1) (entry 3 1 1 1)
    (∀ op x, (s op x).Sound) ∧ (s 0x28 1).Accepts 0 0x28 ∧ (s 0x29 0).Accepts 0 0x29 ∧ (s 0x2A 1).Accepts 0 0x2A ∧
      standing ((s 0x28 1).slotDesc 0) = false :=
  ⟨fun _ _ => tagged_sound (desc_sound ..) _ _, by decide +kernel, by decide +kernel, by decide +kernel, by decide +kernel⟩

/-- A standing `COMBINE` of tokens that are all served, and of one that waits. -/
theorem witness_TagAndCombineDescriptorsAreAccepted_combineDescriptorsAccepted_standing :
    let s := fun e => tagged (combDesc 0x28 0 1 1) (entry 3 0 1 1) e
    let served := fun e => (combTokens ((s e).slotDesc 0)).filter (fun n => (s e).rowIs ((s e).tagSlot 0) n (fun x => leState x == lsCombined))
    (s (entry 3 1 1 1)).Accepts 0 0x28 ∧ served (entry 3 1 1 1) = [0, 1] ∧ (s (entry 2 1 1 0)).Accepts 0 0x28 ∧ served (entry 2 1 1 0) = [0] := by
  decide +kernel

theorem witness_HoistDescriptorsAreAccepted_sendDescriptorsAccepted :
    bcastDesc.Sound ∧ bcastDesc.Accepts 0 0x30 ∧ bcastDesc.sendTargets 0 (bcastDesc.slotDesc 0) ≠ [] ∧ mcastDesc.Accepts 0 0x31 :=
  ⟨desc_sound .., by decide +kernel, by decide +kernel, by decide +kernel⟩

/-- The message of an `MCAST` to another chip turns at the chip root: there at once, behind a channel that waits, and with its cluster stopped. -/
theorem witness_HoistDescriptorsAreAccepted_sendDescriptorsAccepted_turns :
    let waits := { mcastDesc with ops := { OpsState.reset with waiting := [(rootPool, 0)] } }
    let stopped := { mcastDesc with units := { mcastDesc.units with paused := [0] } }
    mcastDesc.portHeld 0 = false ∧ mcastDesc.ops.waiting.contains (rootPool, dHchan (mcastDesc.slotDesc 0)) = false ∧
      (mcastDesc.poolSplit rootPool 0 1).isSome = true ∧ waits.Accepts 0 0x31 ∧ waits.ops.waiting.contains (rootPool, dHchan (waits.slotDesc 0)) = true ∧
      stopped.Accepts 0 0x31 ∧ stopped.portHeld 0 = true ∧
      (match exec (.mcast 0) mcastDesc with | .next t => t.ops.sends.map (fun x => (x.turns, x.turned)) | _ => []) = [(true, true)] := by decide +kernel

/-- A `BCAST` to a group without another member has no target. -/
theorem witness_HoistDescriptorsAreAccepted_sendDescriptorsAccepted_none :
    let s := desc (0x30 ||| 8 <<< 32 ||| 2 <<< 44) 4 0 0 0x2000 0x3000 0 0
    s.Accepts 0 0x30 ∧ s.sendTargets 0 (s.slotDesc 0) = [] := by decide +kernel

theorem witness_HoistDescriptorsAreAccepted_receiveDescriptorsAccepted :
    (hrecvDesc 4).Sound ∧ (hrecvDesc 4).Accepts 0 0x32 ∧ dHlen ((hrecvDesc 4).slotDesc 0) = 4 ∧ (hrecvDesc 0).Accepts 0 0x32 ∧
      dHlen ((hrecvDesc 0).slotDesc 0) = 0 ∧ (hrecvDesc 0).ops.delivs = [] :=
  ⟨desc_sound .., by decide +kernel, by decide +kernel, by decide +kernel, by decide +kernel, rfl⟩

/-- A withdrawal on channel 2 while a message is committed to a receive of it. -/
theorem witness_HoistDescriptorsAreAccepted_receiveDescriptorsAccepted_committed :
    let x : Recv := { pos := 0, chan := 2, dst := 0x2000, rlen := 4, desc := (hrecvDesc 4).slotDesc 0, ring := 0, applied := true, live := true }
    let m : HoistMsg := { hseq := 0, origin := 1, chan := 2, data := [1], only := none }
    let s := hrecvDesc 0
    let s := { s with ops := { s.ops with delivs := [{ id := 3, msg := m, recv := x, sender := .here 1 }] } }
    s.Accepts 0 0x32 ∧ dHlen (s.slotDesc 0) = 0 ∧ s.ops.delivs.filter (fun y => y.recv.pos == 0 && y.recv.chan == dHchan (s.slotDesc 0)) ≠ [] := by
  decide +kernel

theorem witness_PoisonEndsItsOperation_poisonedDescriptorFaults : (tagDesc 0x21).Sound ∧ (tagDesc 0x21).mayRead (0 : Pos) = true := ⟨desc_sound .., by decide +kernel⟩

/-- Rejected: an output format that no reduction has, and a reserved opcode. -/
theorem witness_DescriptorsThatDoNotStart_rejectedDescriptorChangesNothing :
    (reduction 0x01 9 0x0D).Reads 0 ∧ (reduction 0x01 9 0x0D).validate 0 ((reduction 0x01 9 0x0D).slotDesc 0) = some (.badFormat, true) ∧
      (tagDesc 0x33).Reads 0 ∧ (tagDesc 0x33).validate 0 ((tagDesc 0x33).slotDesc 0) = some (.badDescriptor, false) ∧
      opClass (dOpcode ((tagDesc 0x33).slotDesc 0)) = none ∧
      (∀ s ∈ [reduction 0x01 9 0x0D, tagDesc 0x33], inSpace (tmapRange (s.slotDesc 0)) = true) := by decide +kernel

/-- A ring that is not enabled; a slot that holds another operation than the row's; and a draining cinch that holds back a new epoch of context 7. -/
theorem witness_DescriptorsThatDoNotStart_descriptorRowsWait :
    let s := reduction 0x01 9 9
    let cut : CutRun := { number := 1, chosen := 0, phase := .drain, reason := 0, imageLen := 0, before := [] }
    let held : State := { s with
      mh := { s.mh with cut := some cut }
      ctxs := s.ctxs.map (fun c => (c.1, { c.2 with chosen := true })) }
    State.reset.mayRead (0 : Pos) = false ∧ s.mayRead (0 : Pos) = true ∧ inSpace [((s.port 0).slotAddr, 64)] = true ∧
      hasOp 0x02 (s.slotDesc 0) = false ∧ (opClass (dOpcode (s.slotDesc 0))).isSome = true ∧
      held.mayRead (0 : Pos) = true ∧ hasOp 0x01 (held.slotDesc 0) = true ∧ held.heldByCut (held.slotDesc 0) = true := by decide +kernel

/-! ## Witnesses: the tell-tale network -/

def withTt (s : State) (x : TtState) : State := { s with tt := x }

theorem withTt_sound {s : State} (h : s.Sound) {x : TtState} (hc : Tbl.wf chanDefault x.chans = true) (hw : Tbl.Rising x.words) : (withTt s x).Sound :=
  { h with chans_wf := hc, words_up := hw }

/-- `base` with cluster 0 in pool mode. -/
def pool : State := { base with pol := { base.pol with vals := [(0x02, 1)] } }

theorem pool_sound : pool.Sound := sound_of_plain (by decide +kernel) rfl

/-- Word 5, which position 0 owns: a `SIG` that responds, a `WAIT`, a `DEC`, a `TEST`, an `INIT`; with cluster 0 in pool mode a `CLAIM` and a `RELEASE`. -/
theorem witness_WordCommandsAndRemoteSignalsLeave_wordCommandsLeaveTheirPort :
    base.Sound ∧ base.Live ∧ base.NoFence ∧ pool.Sound ∧ pool.Live ∧ pool.NoFence ∧
      (∀ r ∈ [(1, 0x800000000000005#60), (1, 5#60), (2, 5#60), (3, 0x100000005#60), (4, 5#60), (5, 5#60)],
        base.portCheck 0 (ttCommand r.1 r.2) = none ∧ (base.port 0).credits = 32 ∧ (cRemote (ttCommand r.1 r.2) && cChip (ttCommand r.1 r.2) != 3) = false) ∧
      (∀ r ∈ [(6, 5#60), (7, 5#60)], pool.portCheck 0 (ttCommand r.1 r.2) = none) :=
  ⟨base_sound, by decide +kernel, by decide +kernel, pool_sound, by decide +kernel, by decide +kernel, by decide +kernel, by decide +kernel⟩

/-- A `SIG` to word 5 of chip 5, posted and acknowledged. -/
theorem witness_WordCommandsAndRemoteSignalsLeave_remoteSignalsLeaveTheChip :
    ∀ w ∈ [0x80050005, 0x800000080050005],
      let c := ttCommand 1 (BitVec.ofNat 60 w)
      base.portCheck 0 c = none ∧ cRemote c = true ∧ cChip c ≠ base.topo.chip := by decide +kernel

/-- A posted `SIG` to an index past the words, and a `WAIT` for a word of another cluster. -/
theorem witness_PortChecksAndCredits_portChecksReject :
    base.portCheck 0 (ttCommand 1 0x300#60) = some .badDescriptor ∧ cResponds (ttCommand 1 0x300#60) = false ∧
      base.portCheck 0 (ttCommand 2 0x400#60) = some .notOwner ∧ cResponds (ttCommand 2 0x400#60) = true := by decide +kernel

theorem witness_PortChecksAndCredits_noCreditNoCommand :
    let s := withPorts base [(0, { Port.reset with credits := 0 })]
    s.Live ∧ (s.port 0).credits = 0 ∧ cResponds (ttCommand 2 5) = true := by decide +kernel

/-- Channel 2, armed for group 1, in this phase and with these last arrivals. -/
def armed (phase : Nat) (last : Tbl LastArr) : State :=
  withTt base { TtState.reset with chans := [(2, { chanDefault 2 with st := .armed, ctx := 7, group := 1, phase := phase, last := last })] }

theorem witness_ArrivalsAndBarrierWaits_arrivalsAreCounted :
    let s := armed 1 [(0, .inPhase 0)]
    let x := s.chan 2
    s.Sound ∧ s.Live ∧ s.NoFence ∧ (∀ w ∈ [2, 0x200000000000002], s.portCheck 0 (ttCommand 8 (BitVec.ofNat 60 w)) = none ∧
        bits (ttCommand 8 (BitVec.ofNat 60 w)) 0 6 = 2) ∧
      s.channelRefusal 2 0 = none ∧ (s.group x.group).map (fun g => g.locals.length) = some 2 ∧ x.arrived = [] ∧ x.lastOf 0 = .inPhase 0 ∧
      x.releasedTo 0 0 = true ∧ s.portHeld 0 = false ∧ s.tt.flights = [] ∧ (s.port 0).rebinding = false :=
  ⟨withTt_sound base_sound (by decide) (by decide), by decide +kernel⟩

theorem witness_ArrivalsAndBarrierWaits_barrierWaitsAnswerOrWait :
    (∀ r ∈ [(0, ([] : Tbl LastArr)), (1, [(0, .cleared)]), (1, [(0, .inPhase 0)]), (0, [(0, .inPhase 0)])],
      (armed r.1 r.2).portCheck 0 (ttCommand 9 2) = none ∧ (armed r.1 r.2).channelRefusal 2 0 = none ∧ (armed r.1 r.2).Live) ∧
    ((armed 0 []).chan 2).lastOf 0 = .never ∧ ((armed 1 [(0, .cleared)]).chan 2).lastOf 0 = .cleared ∧
    ((armed 1 [(0, .inPhase 0)]).chan 2).releasedTo 0 0 = true ∧ ((armed 0 [(0, .inPhase 0)]).chan 2).releasedTo 0 0 = false := by decide +kernel

/-- A channel that is not bound, one that is broken, a position that the group does not have, a second arrival, and a phase that is not released. -/
theorem witness_ArrivalsAndBarrierWaits_barriersRefuse :
    let chan := fun (x : Channel) => withTt base { TtState.reset with chans := [(2, x)] }
    let y : Channel := { chanDefault 2 with st := .armed, ctx := 7, group := 1, phase := 1 }
    (∀ s ∈ [base, chan { y with st := .broken }, chan { y with group := 2 }, chan { y with arrived := [0], last := [(0, .inPhase 1)] },
        chan { y with last := [(0, .inPhase 1)] }],
      s.Live ∧ s.NoFence ∧ s.portCheck 0 (ttCommand 8 2) = none ∧ s.portCheck 0 (ttCommand 9 2) = none ∧ (s.port 0).credits = 32 ∧
        (s.port 0).rebinding = false ∧ s.tt.flights = [] ∧ s.portHeld 0 = false) ∧
      (base.chan 2).st = .unbound ∧ ((chan { y with st := .broken }).chan 2).st = .broken ∧
      ((chan { y with group := 2 }).group 2).map (fun g => g.has 1) = some false ∧
      (chan { y with arrived := [0] }).channelRefusal 2 0 = none ∧ ((chan { y with arrived := [0] }).chan 2).arrived.contains 0 = true ∧
      ((chan { y with last := [(0, .inPhase 1)] }).chan 2).lastOf 0 = .inPhase 1 ∧
      ((chan { y with last := [(0, .inPhase 1)] }).chan 2).releasedTo 0 1 = false := by decide +kernel

/-- The arrival of endpoint 1 after that of endpoint 0, which waits, in group 1; with a drifted word and `TRIM`. -/
def lastOne (w : Nat) : State :=
  withTt base { TtState.reset with
    chans := [(2, { chanDefault 2 with
      st := .armed, ctx := 7, group := 1, phase := 4, arrived := [0], last := [(0, .inPhase 4)]
      waits := [{ pos := 0, top := 8, tmo := 0, phase := 4 }] })]
    words := [(5, { wordDefault 0 5 with mode := .count, trimEn := true, base := w, value := 3 })] }

theorem witness_ArrivalsAndBarrierWaits_lastArrivalReleases :
    ∀ w ∈ [2, 0x600000000000002],
      let s := lastOne 7
      let c := ttCommand 8 (BitVec.ofNat 60 w)
      s.Live ∧ s.NoFence ∧ s.portCheck 1 c = none ∧ (s.port 1).credits = 32 ∧ s.tt.flights = [] ∧ s.portHeld 1 = false ∧
        s.channelRefusal 2 1 = none ∧ (s.group 1).map (fun g => (g.locals.length, g.folds)) = some (2, []) ∧
        (s.chan 2).arrived = [0] ∧ (s.chan 2).lastOf 1 = .never ∧ (s.chan 2).sentUp = false ∧ s.stands 0 = true ∧ s.stands 1 = true ∧ s.fleetSkew 2 = 0 ∧
        (s.group 1).map (fun g => s.driftedWords g) = some [5] := by decide +kernel

/-- What it answers there with `TRIM`: the word is back at its baseline, and the waiter gets 1. -/
theorem test_last_arrival_trims :
    (match exec (.arrive 1 0x400000000000002) (lastOne 7) with
     | .next t => some ((t.word 5).value, (t.word 5).drift, (t.chan 2).phase, (t.port 0).resp == [responseWord .ok 8 2 1], t.shadow.driftLog.length)
     | _ => none) = some (7, true, 5, true, 1) := by decide +kernel

/-- Word 5 as given, with a command of position 0 in flight to it. -/
def flying (x : SyncWord) (c : Nat) : State :=
  withTt base { TtState.reset with words := [(5, x)], flights := [{ cmd := BitVec.ofNat 64 c, issuer := 3072, via := .port }] }

theorem flying_sound (x : SyncWord) (c : Nat) : (flying x c).Sound := by
  unfold flying
  exact withTt_sound base_sound rfl (by simp [Tbl.Rising])

/-- A count of position 0, and a waiter. -/
def count (v : Nat) (queue drain : List Waiter) : SyncWord := { wordDefault 0 5 with mode := .count, value := v, queue := queue, drain := drain }
def waiting (n : Nat) : Waiter := { pos := 1, operand := n, tmo := 0 }

/-- The premises of a command at word 5. -/
abbrev atWord (x : SyncWord) (c : Nat) : Prop :=
  let s := flying x c
  s.NoFence ∧ s.heldClusters.contains (wordCluster 5) = false ∧
    (s.tt.flights.find? (fun f => f.goesTo 5 && f.issuer == 3072#25 && f.isCompletion == false)).any (fun f => decide (wordCheck 5 (s.word 5) f = none)) = true

/-- One word and command for each clause; counts at their limits. -/
theorem witness_SyncCommandsTakeEffect :
    let flag := wordDefault 0 5
    ∀ e ∈ [(flag, 1 <<< 60 ||| 1 <<< 32 ||| 5), ({ flag with value := 1 }, 1 <<< 60 ||| 1 <<< 32 ||| 5),
      (count 1048574 [] [], 1 <<< 60 ||| 1 <<< 32 ||| 5), (count 1048575 [] [], 1 <<< 60 ||| 1 <<< 32 ||| 5),
      ({ flag with value := 1 }, 2 <<< 60 ||| 1 <<< 32 ||| 5), (flag, 2 <<< 60 ||| 1 <<< 32 ||| 5), (count 0 [] [], 2 <<< 60 ||| 5), (count 1 [] [], 2 <<< 60 ||| 5),
      (count 3 [] [], 2 <<< 60 ||| 3 <<< 32 ||| 5), (count 2 [] [], 2 <<< 60 ||| 3 <<< 32 ||| 5), (count 9 [waiting 10] [], 2 <<< 60 ||| 3 <<< 32 ||| 5),
      (count 2 [] [], 3 <<< 60 ||| 3 <<< 32 ||| 5), (count 3 [] [], 3 <<< 60 ||| 3 <<< 32 ||| 5), (count 3 [] [], 4 <<< 60 ||| 5),
      (count 3 [waiting 9] [], 5 <<< 60 ||| 5), (count 3 [] [], 5 <<< 60 ||| 1 <<< 57 ||| 7 <<< 32 ||| 5), ({ flag with own := .unclaimed }, 6 <<< 60 ||| 5),
      (flag, 6 <<< 60 ||| 5), (count 3 [waiting 9] [], 7 <<< 60 ||| 5), (count 3 [] [], 7 <<< 60 ||| 5)],
      atWord e.1 e.2 := by decide +kernel

theorem witness_SignalsServeWaiters :
    let flag := wordDefault 0 5
    atWord { flag with queue := [waiting 1] } (1 <<< 60 ||| 1 <<< 32 ||| 5) ∧ atWord (count 0 [waiting 2, waiting 3] [waiting 0]) (1 <<< 60 ||| 4 <<< 32 ||| 5) ∧
      wordCheck 5 { flag with own := .orphaned } { cmd := 0x1000000100000005#64, issuer := 3072, via := .port } = some .orphan ∧
      ({ base with units := { base.units with paused := [0] } } : State).heldClusters.contains (wordCluster 5) = true := by decide +kernel

/-- What the model answers there: a `SIG` of 4 serves 2 of the two that wait for 2 and 3, and leaves 2 (R153). -/
theorem test_signal_serves_the_head :
    (match exec (.syncWordCycle 5 ⟨[(3072, false)], []⟩) (flying (count 0 [waiting 2, waiting 3] [waiting 0]) (1 <<< 60 ||| 4 <<< 32 ||| 5)) with
     | .next t => some ((t.word 5).value, (t.word 5).queue, (t.word 5).drain)
     | _ => none) = some (2, [waiting 3], [waiting 0]) := by decide +kernel

/-- A `SIG` of position 0 and a `WAIT` of position 1 reach word 5 in one cycle, and a completion signal of position 0 with its own `TEST`. -/
def meeting (a b : Flight) : State := withTt base { TtState.reset with words := [(5, count 0 [] [])], flights := [a, b] }
def sent (c issuer : Nat) (v : Via) : Flight := { cmd := BitVec.ofNat 64 c, issuer := BitVec.ofNat 25 issuer, via := v }

theorem witness_SyncCommandsTakeEffect_cyclesKeepTheOrderOfTheirClasses :
    let find := fun (s : State) (i : BitVec 25) (d : Bool) => s.tt.flights.find? (fun x => x.goesTo 5 && x.issuer == i && x.isCompletion == d)
    let sig := sent (1 <<< 60 ||| 3 <<< 32 ||| 5) 3072 .port
    let wait := sent (2 <<< 60 ||| 1 <<< 32 ||| 5) 3073 .port
    let done := sent (1 <<< 60 ||| 3 <<< 32 ||| 5) 3072 .completion
    let test := sent (4 <<< 60 ||| 5) 3072 .port
    find (meeting sig wait) 3072 false = some sig ∧ find (meeting sig wait) 3073 false = some wait ∧
      find (meeting done test) 3072 true = some done ∧ find (meeting done test) 3072 false = some test ∧
      (meeting sig wait).NoFence ∧ (meeting done test).NoFence ∧ (meeting sig wait).heldClusters.contains 0 = false := by decide +kernel

/-- What the model answers there: the `WAIT` is queued first, and the `SIG` of 3 serves it. -/
theorem test_wait_comes_before_signal :
    (match exec (.syncWordCycle 5 ⟨[(3072, false), (3073, false)], []⟩) (meeting (sent (1 <<< 60 ||| 3 <<< 32 ||| 5) 3072 .port) (sent (2 <<< 60 ||| 1 <<< 32 ||| 5) 3073 .port)) with
     | .next t => some ((t.word 5).value, (t.word 5).queue, (t.port 1).resp == [responseWord .ok 2 5 2])
     | _ => none) = some (2, [], true) := by decide +kernel

/-- A `CLAIM` of any word of cluster 0 in pool mode, with words unclaimed and with a nonzero operand, and where none is unclaimed. -/
theorem witness_SyncCommandsTakeEffect_claimsOfAnyWord :
    let s := fun (b : State) c => withTt b { TtState.reset with flights := [sent c 3072 .port] }
    (∀ c ∈ [6 <<< 60 ||| 0x3FF, 6 <<< 60 ||| 1 <<< 32 ||| 0x3FF],
      (s pool c).NoFence ∧ wordIndex 0x3FF = 0x3FF ∧ (s pool c).heldClusters.contains (wordCluster 0x3FF) = false ∧
        (s pool c).tt.flights.find? (fun f => f.goesTo 0x3FF && f.issuer == 3072#25 && f.isCompletion == false) = some (sent c 3072 .port)) ∧
      ((s pool 0).word 0).own = .unclaimed ∧ ((s base 0).word 767).own = .owned := by decide +kernel

theorem witness_WaitsAndReleases :
    let w : Waiter := { pos := 1, operand := 1, tmo := 4 }
    let s := flying (count 0 [w] []) 0
    let rel : Option Nat → State := fun f => withTt base { TtState.reset with
      chans := [(2, { chanDefault 2 with st := .armed, ctx := 7, group := 1, phase := 1, rel := some { phase := 0, steps := 2, next := 0, fleet := f } })] }
    (s.word 5).waiters.find? (fun q => q.pos == 1 && q.tmo != 0) = some w ∧
      ((rel none).chan 2).rel.map (·.fleet) = some none ∧ ((rel (some 9)).chan 2).rel.map (·.fleet) = some (some 9) ∧
      ((({ (lastOne 7).chan 2 with waits := [{ pos := 0, top := 9, tmo := 3, phase := 4 }] } : Channel).waits.filter
        (fun q => decide (q.pos = 0) && decide (q.tmo ≠ 0)))[0]?).map (·.tmo) = some 3 ∧
      (rel none).Sound ∧ (rel (some 9)).Sound :=
  ⟨by decide +kernel, by decide +kernel, by decide +kernel, by decide +kernel, withTt_sound base_sound (by decide) (by decide), withTt_sound base_sound (by decide) (by decide)⟩

/-! ## Witnesses: other chips, the tree -/

/-- Fold node 64 of group 3, at level 1: hosted here, fed by this chip and by chip 5, whose values arrive over logical port 0; chip 9 is above. -/
def node64 : FoldRec :=
  { fnid := 64, host := 3, standby := 0xFFFF, parent := 9, out := 0, outSb := 0
    ins := [{ child := 3, clink := 0, hlink := 0, sblink := 0, memb := 1 }, { child := 5, clink := 0, hlink := 0, sblink := 0, memb := 2 }] }

/-- Fold node 65, which chip 5 hosts, with its root there; chip 3 feeds it over logical port 0. -/
def node65 : FoldRec :=
  { fnid := 65, host := 5, standby := 0xFFFF, parent := 0xFFFF, out := 0, outSb := 0
    ins := [{ child := 5, clink := 0, hlink := 0, sblink := 0, memb := 1 }, { child := 3, clink := 0, hlink := 0, sblink := 0, memb := 1 }] }

/-- `base` with a link to chip 5 on port 0, group 3 with `node64`, group 4 with `node65`, their contexts 9 and 10. -/
def fleet : State :=
  { base with
    topo := { base.topo with
      links := [(0, { phys := 0, spare := none, phy := 0, peer := 5, peerLlink := 0, prot := false, delay := 0, peerDie := 77 })]
      routes := [(5, 0)]
      groups := base.topo.groups ++ [(3, { members := 1, nmemb := 3, nchip := 2, hops := 1, folds := [node64], transits := [] }),
        (4, { members := 1, nmemb := 2, nchip := 2, hops := 1, folds := [node65], transits := [] })] }
    ctxs := base.ctxs ++ [(9, { group := 3, chan := some 3, block := List.replicate 128 0, started := 0, cut := 0, chosen := false, epochs := [(1, .ok)] }),
      (10, { group := 4, chan := none, block := List.replicate 128 0, started := 0, cut := 0, chosen := false, epochs := [(1, .ok)] })] }

/-- `fleet` with port 0 up and this in its receive buffers. -/
def heard (f : Link → Link) : State := fleet.setLnk 0 (f { Link.reset 0 with st := .up, locked := true })

/-- A sync message for chip 3 at the head of VC1. -/
def syncIn (kind target operand phase : Nat) : State :=
  heard (fun k => { k with rx1 := [[syncMsg kind 0 3 0 target (5 * 1024) operand phase 0 4]] })

/-- The arrival of endpoint 0, the one member of group 4 on this chip, goes up to chip 5. -/
theorem witness_ArrivalsAndBarrierWaits_lastArrivalGoesUp :
    let s := withTt fleet { TtState.reset with chans := [(4, { chanDefault 4 with st := .armed, ctx := 10, group := 4, phase := 2 })] }
    let c := ttCommand 8 4
    s.Live ∧ s.NoFence ∧ s.portCheck 0 c = none ∧ bits c 0 6 = 4 ∧ (s.port 0).credits = 32 ∧ s.tt.flights = [] ∧ s.portHeld 0 = false ∧
      s.channelRefusal 4 0 = none ∧ (s.group 4).any (fun g => g.locals.length == 1 && !g.folds.isEmpty && (s.hosted g).isEmpty &&
        (s.nextNode g none).any (fun e => e.1 == node65 && e.2.1 == 1)) = true ∧
      (s.chan 4).arrived = [] ∧ (s.chan 4).lastOf 0 = .never ∧ (s.chan 4).sentUp = false ∧ s.stands 0 = true := by decide +kernel

/-- The sends of a `BCAST` to group 4, whose member on chip 5 lies over port 0, and of an `MCAST` to an endpoint of chip 5. -/
theorem witness_HoistDescriptorsAreAccepted_sentFlitsLeave :
    let on := fun (s : State) => { s with topo := fleet.topo, ctxs := fleet.ctxs }
    let sends := fun c s => match exec c (on s) with | .next t => t.ops.sends | _ => []
    let toList := sends (.mcast 0) mcastDesc
    let toGroup := toList.map (fun x => { x with
      desc := (desc (0x30 ||| 10 <<< 32 ||| 4 <<< 44) 4 0 0 0x2000 0x3000 0 0).slotDesc 0, targets := [{ index := 0, place := .member, st := .flying }] })
    toGroup.map (fun x => (dOpcode x.desc, dGroup x.desc, x.targets.any (fun y => !y.isHere))) = [(0x30, 4, true)] ∧
      (fleet.group 4).any (fun g => (fleet.upPorts g).contains 0) = true ∧
      toList.map (fun x => (dOpcode x.desc, x.targets.any (fun y => !y.isHere), fleet.routeTo 5)) = [(0x31, true, some 0)] := by decide +kernel

theorem witness_MessagesForOtherChipsGoOn :
    (syncIn 1 5 1 0).rootStalled = false ∧ (syncIn 1 5 1 0).headMsg 0 1 ≠ none ∧ (syncIn 1 5 1 0).topo.chip = 3 ∧ base.headMsg 0 1 = none ∧
      (let s := heard (fun k => { k with rx1 := [[syncMsg 1 0 5 0 5 0 1 0 0 0]] })
       (s.headMsg 0 1).any (fun m => mKind m == 1 && mDst m == 5) = true) ∧
      (let s := heard (fun k => { k with rx0 := [[ctlMsg ctRelay 3 5 [(82, 8, 1)]]] })
       (s.headMsg 0 0).any (fun m => ctType m == ctRelay && ctDst m == 5) = true) := by decide +kernel

/-- Channel 3, bound to group 3 and armed in phase 0, and a sync message for it. -/
def barIn (kind operand phase : Nat) : State :=
  withTt (syncIn kind 3 operand phase) { TtState.reset with chans := [(3, { chanDefault 3 with st := .armed, ctx := 9, group := 3 })] }

theorem witness_SyncMessagesTakeEffect :
    (∀ e ∈ [(1, 0xFEFF), (1, 0x300), (2, 5)],
      ((syncIn e.1 e.2 1 0).headMsg 0 1).any (fun m => mKind m == e.1 && mTarget m == e.2 && mDst m == 3) = true) ∧
      wordIndex 0xFEFF = 767 ∧ wordIndex 0x300 = 768 ∧ (syncIn 3 3 1 0).topo.rigValid = true ∧ (syncIn 3 3 1 0).rootStalled = false ∧ ((syncIn 3 3 1 0).chan 3).st = .unbound := by
  decide +kernel

theorem witness_SyncMessagesTakeEffect_channel :
    (barIn 3 2 0).Sound ∧ (∀ e ∈ [(3, 0), (4, 0), (4, 1), (5, 0), (6, 0)],
      ((barIn e.1 2 e.2).headMsg 0 1).any (fun m => mKind m == e.1 && mPhase m == e.2 && !mTrim m) = true ∧ ((barIn e.1 2 e.2).chan 3).st = .armed) ∧
      ((barIn 3 2 0).group 3).any (fun g => !(barIn 3 2 0).hasRoot g && (barIn 3 2 0).arriveInput 3 g 0 5 == some (node64, 1)) = true ∧
      (((barIn 3 2 0).chan 3).addCount node64 1 2 false).nodeTotal node64 = none ∧ ((barIn 6 2 0).chan 3).prewarned = false :=
  ⟨sound_of_plain (by decide +kernel) rfl, by decide +kernel⟩

/-- Group 3 with these fold nodes, channel 3 armed with the count of this chip's own member noted at `node64`, and a sync message for it. -/
def barOn (folds : List FoldRec) (nodes : List NodeCount) (kind : Nat) : State :=
  let s := withTt (syncIn kind 3 2 0) { TtState.reset with chans := [(3, { chanDefault 3 with st := .armed, ctx := 9, group := 3, nodes := nodes })] }
  { s with topo := { s.topo with groups := [(3, { members := 1, nmemb := 3, nchip := 2, hops := 1, folds := folds, transits := [] })] } }

def ownCount : NodeCount := { fnid := 64, input := 0, count := 1, trim := false }

/-- A node above `node64`, on chip 5. -/
def node128 : FoldRec :=
  { fnid := 128, host := 5, standby := 0xFFFF, parent := 0xFFFF, out := 0, outSb := 0
    ins := [{ child := 5, clink := 0, hlink := 0, sblink := 0, memb := 1 }, { child := 3, clink := 0, hlink := 0, sblink := 0, memb := 3 }] }

/-- A count that waits at its node, one that completes it below a node of chip 5, and below one that no record names. -/
theorem witness_SyncMessagesTakeEffect_arrivalCountsGoUp :
    ∀ e ∈ [([node64], ([] : List NodeCount), (none : Option Nat)), ([node64], [ownCount], some 3), ([{ node64 with parent := 5 }, node128], [ownCount], some 3)],
      let s := barOn e.1 e.2.1 3
      let n := (e.1.head?).getD node64
      (s.headMsg 0 1).any (fun m => mKind m == 3 && mDst m == 3 && mPhase m == 0 && mOperand m == 2 && mTarget m == 3) = true ∧ s.topo.rigValid = true ∧
        s.rootStalled = false ∧ (s.chan 3).st = .armed ∧ s.hostOf n = 3 ∧
        (s.group 3).any (fun g => s.arriveInput 3 g 0 5 == some (n, 1) && !s.hasRoot g &&
          (s.nextNode g (some n)).map (fun q => s.hostOf q.1) == (if e.1.length == 2 then some 5 else none)) = true ∧
        (((s.chan 3).addCount n 1 2 false).nodeTotal n) = e.2.2 := by decide +kernel

/-- The last count at a root, and the release at a chip below the root. -/
theorem witness_SyncMessagesTakeEffect_phasesEnd :
    let root := { node64 with parent := 0xFFFF }
    let s := barOn [root] [ownCount] 3
    let t := barOn [node64] [ownCount] 4
    (s.headMsg 0 1).any (fun m => mKind m == 3 && mPhase m == 0) = true ∧ (t.headMsg 0 1).any (fun m => mKind m == 4 && mPhase m == 0) = true ∧
      (s.group 3).any (fun g => s.arriveInput 3 g 0 5 == some (root, 1) && s.hasRoot g) = true ∧ s.hostOf root = 3 ∧
      (((s.chan 3).addCount root 1 2 false).nodeTotal root).isSome = true ∧ (s.chan 3).st = .armed ∧ (t.chan 3).st = .armed ∧ s.rootStalled = false ∧
      s.fleetSkew 3 = 0 ∧ (match exec (.barArrive 0) s with | .next u => (u.chan 3).phase | _ => 9) = 1 := by decide +kernel

/-- With a fleet skew in the policy, the release of a group that spans fleets waits. -/
theorem witness_SyncMessagesTakeEffect_phasesEnd_fleet :
    let root := { node64 with fnid := 5 <<< 6, parent := 0xFFFF }
    let s := barOn [root] [{ ownCount with fnid := 5 <<< 6 }] 3
    let s := { s with pol := { s.pol with vals := [(0x43, 10)] }, topo := { s.topo with present := [3, 5 + 64 * 512] } }
    (s.group 3).map (fun g => 5 ≤ s.groupClass 3 g) = some true ∧ s.fleetSkew 3 ≠ 0 := by decide +kernel

/-- The acknowledgement of a remote `SIG` in flight. -/
theorem witness_SyncMessagesTakeEffect_ack :
    let s := withTt (heard (fun k => { k with rx1 := [[syncMsg 2 0 3 0 5 (3 * 1024) 1 0 0 4]] }))
      { TtState.reset with flights := [{ cmd := 0x1800000180050005, issuer := 3072, via := .remote 4 }] }
    s.NoFence ∧ (s.headMsg 0 1).any (fun m => mKind m == 2 && mOrigin m == 3072) = true ∧
      (s.tt.flights.find? (fun f => decide (f.via = .remote 4) && decide (f.issuer.toNat = 3072))).any (fun f => cResponds f.cmd) = true := by decide +kernel

theorem witness_EndpointResetsAndRebinds :
    base.power.st ≠ .off ∧ base.stopped = false ∧ ({ base with power := { base.power with st := .off } } : State).power.st = .off ∧ base.mhActs = true ∧
      State.reset.mhActs = false ∧ base.units.paused.contains 0 = false ∧
      ((withPorts base [(0, { Port.reset with rebinding := true, heldResp := [1] })]).port 0).rebinding = true ∧
      ({ base with mh := { base.mh with cut := some { number := 1, chosen := 0, phase := .quiet, reason := 0, imageLen := 0, before := [] } } } : State).stopped = true ∧
      (let s := lastOne 7
       (s.chan 2).st = .armed ∧ (s.group 1).map (fun g => g.has 1) = some true ∧ (s.chan 2).waits.any (fun q => q.pos != 1) = true ∧
        (s.port 0).rebinding = false) ∧
      (5 ∈ base.wordsOf 0 ∧ ((withTt base { TtState.reset with words := [(5, count 0 [waiting 2] [])] }).word 5).waiters.any (fun q => q.pos != 0) = true) := by
  decide +kernel

/-! ### The tree -/

/-- The state that a row leaves. -/
def after (c : Instr) (s : State) : State :=
  match exec c s with
  | .next t => t
  | _ => s

/-- `reduction` with the same descriptor at port 1. -/
def both : State :=
  withPorts (reduction 0x01 9 9) [(0, { Port.reset with sqCfg := 4, sqTail := 1, cqCfg := 0x1004 }), (1, { Port.reset with sqCfg := 4, sqTail := 1, cqCfg := 0x2004 })]

/-- The premises on a contribution of position `p` on the die, and whether it is the last one. -/
abbrev contributes (s : State) (p : Pos) (last : Bool) : Bool :=
  (s.coll 7 9).any (fun c => c.ended.isNone && !c.sentUp.contains 0 &&
    (c.members.find? (fun m => m.pos == p.val && m.stage == .sending)).any (fun m => m.up.any (fun u => !u.fault && !u.clash &&
      (c.arrived.isEmpty || decide (u.defn = c.defn)))) &&
    (s.group c.group).any (fun g => g.folds.isEmpty && (g.locals.all (fun q => c.arrived.any (fun a => a.1 == q) || q == p.val) == last)))

/-- A first and a last contribution of a group of two. -/
theorem witness_TreeFlitsAreFolded :
    contributes (after (.sum 0) both) 0 false = true ∧
      contributes (after (.sum 1) (after (.treeFlit 7 9 (.onDie 0)) (after (.sum 0) both))) 1 true = true ∧ base.coll 7 9 = none ∧
      ({ base with units := { base.units with paused := [0] } } : State).portHeld 0 = true ∧ (after (.sum 0) both).portHeld 0 = false := by decide +kernel

/-- A contribution with a fault mark, and one whose fields differ from the first one's. -/
theorem witness_TreeFlitsAreFolded_ended :
    let s := after (.sum 0) both
    let t := s.modColl 7 9 (fun c => { c with members := c.members.map (fun m => { m with up := m.up.map (fun u => { u with fault := true }) }) })
    let u := after (.sum 1) (after (.treeFlit 7 9 (.onDie 0)) s)
    let v := u.modColl 7 9 (fun c => { c with defn := { c.defn with q2 := 1 } })
    (t.coll 7 9).any (fun c => c.members.any (fun m => m.stage == .sending && m.up.any (·.fault)) && c.ended.isNone) = true ∧
      (v.coll 7 9).any (fun c => !c.arrived.isEmpty && c.ended.isNone && c.members.any (fun m => m.stage == .sending && m.up.any (fun x => x.defn != c.defn))) = true := by
  decide +kernel

/-- A child's flit of context 9 in an epoch, on VC2 of port 0. -/
def flitIn (epoch : Nat) : State := heard (fun k => { k with rx2 := [fields 50 [(38, 12, 3), (26, 12, 9), (18, 8, epoch)]] })

/-- The contribution of `both`'s port 0, of one flit, and one of 1,000 elements, of two. -/
def partialOf (n : Nat) : UpMsg :=
  ((((after (.sum 0) (desc (0x01 ||| 9 <<< 8 ||| 9 <<< 13 ||| 7 <<< 32 ||| 1 <<< 44) n 0 0 0x2000 0x3000 0 (9 <<< 32))).coll 7 9).bind
    (fun c => c.members.head?)).bind (·.up)).getD
      { vals := none, tally := Tally.zero, ncontrib := 0, reef := false, fault := false, clash := false, pass := 1, flushes := [], defn := definingOf (base.slotDesc 0) }

/-- A flit of a partial that is whole with it, one of a longer partial, one of an epoch that has ended, and one where the other port of the node's input would be. -/
theorem witness_PartialsAndDownMessagesCountOnce_treeFlitsFromChildren :
    let s := flitIn 2
    (s.binding 9).any (fun b => b.group == 3 && !b.endedEpoch 2 && b.endedEpoch 1) = true ∧
      (s.group 3).any (fun g => g.folds.find? (fun r => r.fnid == 64) == some node64) = true ∧ s.inputPort node64 1 = some 0 ∧ s.formerPort node64 1 = none ∧
      s.rootStalled = false ∧ s.hostOf node64 = s.topo.chip ∧ s.coll 9 2 = none ∧
      (let c := Coll.fresh 9 2 3 (partialOf 5).defn
       let d := Coll.fresh 9 2 3 (partialOf 1000).defn
       c.flits * c.phases.length = 1 ∧ s.flitsOn 0 2 (flitOf 3 9 2 c.phases) = 1 ∧ 1 < d.flits * d.phases.length ∧
        s.flitsOn 0 2 (flitOf 3 9 2 d.phases) = 1 ∧ (partialOf 5).pass = 1) ∧
      (flitIn 1).flitsOn 0 2 (flitOf 3 9 1 valuePhases) = 1 ∧ s.inputPort node64 0 ≠ some 1 := by
  decide +kernel

/-- Node 64 once input 1 comes from a standby: the port of the record is the former one. -/
theorem witness_PartialsAndDownMessagesCountOnce_treeFlitsFromChildren_former :
    let s := flitIn 2
    let s := { s with topo := { s.topo with rehomed := [{ fnid := 64, input := 1, chip := 9, port := 3 }] } }
    s.formerPort node64 1 = some 0 := by decide +kernel

/-- What has come down for member 0 of a group of one: a result, an outcome without one, and a pass result. -/
def comesDown (d : DownMsg) : State :=
  let s := after (.sum 0) (reduction 0x01 9 9)
  s.modColl 7 9 (fun c => { c with down := some d, members := c.members.map (fun m => { m with stage := .waiting, up := none }) })

theorem witness_ResultsAndCompletionsAreWritten_resultsReachTheirPorts :
    let r : Result := { status := .ok, tally := Tally.zero, opval := 0, codes := [0, 0, 0, 0, 0], poss := [], scan := [] }
    (comesDown (.final r)).Sound ∧
    (∀ d ∈ [DownMsg.final r, .ended .fault, .ended .timeout, .pass1 [] false, .widen [] false []],
      ((comesDown d).coll 7 9).any (fun c => (c.taker 0).any (fun x => x.1.live && x.1.tagSlot.isNone && decide (x.2 = d))) = true) ∧
      ((after (.sum 0) (reduction 0x01 9 9)).coll 7 9).any (fun c => (c.taker 0).isNone) = true ∧ base.coll 7 9 = none ∧
      (comesDown (.final r)).portStalled 0 = false :=
  ⟨sound_of_plain (by decide +kernel) (by decide +kernel), by decide +kernel⟩

/-- A `ROUTE` that ends without a result has a tag slot to give back. -/
theorem witness_ResultsAndCompletionsAreWritten_resultsReachTheirPorts_route :
    let s := (after (.route 0) routeDesc).modColl 8 9 (fun c => { c with
      down := some (.ended .aborted), members := c.members.map (fun m => { m with stage := .waiting, up := none }) })
    (s.coll 8 9).any (fun c => (c.taker 0).any (fun x => x.1.live && x.1.tagSlot == some 0 && decide (x.2 = .ended .aborted))) = true := by decide +kernel

/-- A `ROUTE` of position 0 whose counts have come down. -/
def counted : State :=
  (after (.route 0) routeDesc).modColl 8 9 (fun c => { c with
    down := some (.counts [2, 0, 0, 0] [(3072, [0, 0, 0, 0])]), members := c.members.map (fun m => { m with stage := .waiting, up := none }) })

theorem witness_RouteResultsAreWritten :
    counted.Sound ∧ counted.stopped = false ∧ counted.bankStalled = false ∧ counted.portStalled 0 = false ∧ (counted.coll 8 9).any (fun c => (c.members.find? (fun m => m.pos == 0 && m.stage == .waiting)).any (fun m =>
      m.live && m.tagSlot == some 0) && decide (c.down = some (.counts [2, 0, 0, 0] [(3072, [0, 0, 0, 0])]))) = true ∧ counted.rig 0 = 3072 ∧
      (counted.tagSlot 0).st = .live ∧ (counted.tagSlot 0).blocks = [0] :=
  ⟨sound_of_plain (by decide +kernel) (by decide +kernel), by decide +kernel⟩

/-- A down message for context 10 has been heard on VC3 of port 0, in this epoch. -/
def downIn (epoch phase : Nat) : State := heard (fun k => { k with rx3 := [fields 50 [(38, 12, 4), (26, 12, 10), (18, 8, epoch), (12, 3, phase)]] })

/-- The collective of context 10 that waits for its result: one flit of values and the status, or the status of an outcome. -/
def waitsDown (epoch phase : Nat) : State :=
  (downIn epoch phase).setColl (Coll.fresh 10 epoch 4 (partialOf 5).defn)

theorem witness_PartialsAndDownMessagesCountOnce_downMessagesAreTakenOnce :
    let r : Result := { status := .ok, tally := Tally.zero, opval := 0, codes := [], poss := [], scan := [] }
    (∀ e ∈ [1, 2], ((downIn e 0).group 4).any (fun g => !(downIn e 0).hasRoot g && ((downIn e 0).upPorts g).contains 0 && !((downIn e 0).upPorts g).contains 1) = true ∧
        (downIn e 0).flitsOn 0 3 (flitOf 4 10 e (5 :: valuePhases)) = 1) ∧
      ((downIn 1 0).binding 10).any (fun b => b.group == 4 && b.endedEpoch 1 && !b.endedEpoch 2) = true ∧
      (downIn 2 0).coll 10 2 = none ∧ (base.group 1).any base.hasRoot = true ∧ (downIn 2 0).portStalled 0 = false ∧
      (∀ e ∈ [(0, DownMsg.final r, 2), (5, .ended .fault, 1), (5, .pass1 [] true, 1)],
        let s := waitsDown 2 e.1
        (s.coll 10 2).any (fun c => (if hasValues e.2.1 then c.flits * c.phases.length else 0) + (if hasStatus e.2.1 then 1 else 0) == e.2.2 &&
          s.flitsOn 0 3 (flitOf 4 10 2 ((if hasValues e.2.1 then c.phases else []) ++ (if hasStatus e.2.1 then [5] else []))) == 1 &&
          c.staleDown e.2.1 == (e.2.1 == .pass1 [] true)) = true) := by decide +kernel

theorem witness_TimeoutsEndCollectives :
    let s := after (.sum 0) (reduction 0x01 9 9)
    let t := after (.collectiveTimeout 7 9 0) s
    (s.coll 7 9).any (fun c => c.members.any (fun m => m.pos == 0 && m.stage != .done) && !c.marks.any (fun k => k.1 == 0)) = true ∧
      (t.coll 7 9).any (fun c => c.marks.any (fun k => k.1 == 0) && c.marks.any (·.2) && c.ended.isNone && c.members != []) = true ∧
      (t.binding 7).any (fun b => (t.group b.group).any t.hasRoot) = true ∧ base.coll 7 9 = none ∧ State.reset.binding 7 = none ∧
      ((fleet.binding 9).any (fun b => (fleet.group b.group).any (fun g => !fleet.hasRoot g))) = true ∧
      ((after (.timeoutMark 7 9) t).coll 7 9).any (fun c => c.ended == some .timeout) = true := by decide +kernel

/-- A mark received on VC2 of port 0: at a chip without the root, and at the root, with a collective that stands. -/
theorem witness_TimeoutsEndCollectives_received :
    let mark := fun (e : Nat) => heard (fun k => { k with rx2 := [fields 50 [(38, 12, 3), (26, 12, 9), (18, 8, e), (12, 3, 5)]] })
    let root := { mark 2 with topo := { fleet.topo with groups :=
      [(3, { members := 1, nmemb := 3, nchip := 2, hops := 1, folds := [{ node64 with parent := 0xFFFF }], transits := [] })] } }
    let c := ((after (.sum 0) (reduction 0x01 9 9)).coll 7 9).map (fun c => { c with ctx := 9, epoch := 2, group := 3 })
    (mark 2).flitsOn 0 2 (flitOf 3 9 2 [5]) = 1 ∧ (mark 1).flitsOn 0 2 (flitOf 3 9 1 [5]) = 1 ∧
      ((mark 2).group 3).any (fun g => !(mark 2).hasRoot g) = true ∧ (root.group 3).any root.hasRoot = true ∧
      root.flitsOn 0 2 (flitOf 3 9 2 [5]) = 1 ∧ c.any (fun c => c.ended.isNone && !c.members.isEmpty && !c.marks.any (·.2) &&
        ((root.setColl c).coll 9 2).any (fun d => d == c)) = true := by decide +kernel

/-- A rejected descriptor's completion waits at port 0. -/
theorem witness_ResultsAndCompletionsAreWritten_completionsAreWritten :
    let s := after (.sum 0) (reduction 0x01 9 0x0D)
    let q := s.port 0
    s.Sound ∧ q.done.length = 1 ∧ q.rebinding = false ∧ q.cqRoom = true ∧ inSpace [(q.recordAddr, 32)] = true ∧ (base.port 0).done = [] :=
  ⟨sound_of_plain (by decide +kernel) (by decide +kernel), by decide +kernel⟩

/-- The completion of the one member of context 7 waits at port 0; all slots are taken, and an operation of context 8 waits for one. -/
def admits (queue : List (Nat × Nat × Nat)) (more : List Coll) : State :=
  let s := after (.sum 0) (reduction 0x01 9 9)
  let c := (s.ops.colls.map (fun c => { c with members := c.members.map (fun m => { m with stage := .done, up := none }) }))
  let x := doneOf (s.slotDesc 0) .ok Tally.zero 0 0 true (some (7, 9))
  { s with
    ports := [(0, { s.port 0 with done := [x] })]
    ops := { s.ops with colls := c ++ more, slots := 7 :: (List.range 255).map (· + 100), queue := queue } }

def waitsForSlot : Coll :=
  match (after (.sum 0) { reduction 0x01 9 9 with ops := { OpsState.reset with slots := (List.range 256).map (· + 100) } }).ops.colls with
  | c :: _ => { c with ctx := 8, epoch := 3 }
  | [] => Coll.fresh 8 3 1 (partialOf 5).defn

theorem witness_ResultsAndCompletionsAreWritten_completionsAdmitTheNext :
    let s := admits [(8, 3, 0)] [waitsForSlot]
    let t := admits [] [{ waitsForSlot with ctx := 7 }]
    (∀ u ∈ [s, t], (u.port 0).done.map (·.coll) = [some (7, 9)] ∧ (u.port 0).rebinding = false ∧ (u.port 0).cqRoom = true ∧
        inSpace [((u.port 0).recordAddr, 32)] = true ∧ (u.ops.colls.map (fun c => (c.ctx, c.epoch))).Nodup ∧
        (u.coll 7 9).map (fun c => c.members.map (fun m => (m.pos, m.stage == .done, m.live))) = some [(0, true, true)]) ∧
      t.ops.colls.any (fun d => d.ctx == 7 && d.epoch != 9 && !d.members.isEmpty) = true ∧
      s.ops.colls.all (fun d => d.ctx != 7 || d.epoch == 9) = true ∧ 7 ∈ s.ops.slots ∧ s.ops.slots.length = 256 ∧ s.ops.slots.Nodup ∧ 8 ∉ s.ops.slots ∧
      (s.coll 8 3).any (fun k => k.members.any (fun y => y.pos == 0 && y.stage == .queued && y.live)) = true := by decide +kernel

/-- What it answers there: context 8 takes the slot and starts. -/
theorem test_completion_admits :
    (match exec (.completionWrite 0) (admits [(8, 3, 0)] [waitsForSlot]) with
     | .next t => some (t.ops.slots.getLast?, t.ops.queue, (t.coll 8 3).map (fun c => c.members.map (·.stage)))
     | _ => none) = some (some 8, [], some [.sending]) := by decide +kernel
/-! ## Witnesses: the ledger, combine lanes, hoists -/

/-- A notice for tag 0x1234 (Table 6-6). -/
def notice (gen token side dst : Nat) : Msg := fields 128 [(124, 4, 1), (116, 8, gen), (100, 16, 0x1234), (76, 24, token), (75, 1, side), (60, 15, dst)]

/-- Port 0 with the low half of a notice and a queue. -/
def noticed (lo : Word64) (q : List Msg) : State := withPorts base [(0, { Port.reset with nqLo := lo, nq := q })]

theorem witness_NoticesReachTheLedger_noticesAreChecked :
    let hi : Nat → Word64 := fun d => ((notice 9 0 0 d) >>> 64).truncate 64
    let lo : Nat → Word64 := fun d => (notice 9 0 0 d).truncate 64
    base.Live ∧ nWellFormed (0#64 ++ lo 3) = false ∧ nWellFormed (hi 4 ++ lo 4) = true ∧ base.isPresent (nDst (hi 4 ++ lo 4)) = false ∧
      nWellFormed (hi 5 ++ lo 5) = true ∧ base.isPresent (nDst (hi 5 ++ lo 5)) = true ∧
      ((noticed (lo 5) (List.replicate 16 0)).port 0).nq.length = 16 ∧ ((noticed (lo 5) (List.replicate 15 0)).port 0).nq.length = 15 ∧
      nDst (notice 9 0 0 3) = base.topo.chip ∧ nDst (notice 9 0 0 5) ≠ base.topo.chip ∧
      (let s := { base with mh := { base.mh with cut := some { number := 1, chosen := 0, phase := .quiet, reason := 0, imageLen := 0, before := [] } } }
       s.running = true ∧ s.stopped = true ∧ s.dozing = false) := by decide +kernel

/-- A notice on the die, or on VC4, for tokens 0 and 1 of tag 0x1234 with these entries. -/
def noticeOn (e0 e1 : BitVec 160) : State := tagged (heard (fun k => { k with rx4 := [[notice 9 0 0 3]] })) e0 e1

theorem witness_NoticesReachTheLedger :
    let s := noticeOn (entry 1 0 1 0) 0
    let x := s.tagSlot 0
    (s.headMsg 0 4 = some (notice 9 0 0 3)) ∧ s.rootStalled = false ∧ nDst (notice 9 0 0 3) = 3 ∧ s.topo.rigValid = true ∧ nWellFormed 0 = false ∧
      nWellFormed (notice 9 0 0 3) = true ∧ s.findTag (nTag (notice 9 0 0 3)) = some 0 ∧ base.findTag 0x1234 = none ∧
      x.routeDone = true ∧ x.tokBase ≤ 0 ∧ ¬ nToken (notice 9 2 0 3) < x.tokBase + x.ntok ∧ x.gen.toNat = 9 ∧ nGen (notice 8 0 0 3) = 8 ∧
      s.readRow x 0 = .entry (entry 1 0 1 0) ∧ s.readRow x 1 = .entry 0 ∧ leState (0 : BitVec 160) = lsFree := by decide +kernel

/-- Entries whose side 0 waits, whose last side comes, that are cancelled, and that cannot take a notice; an entry that cannot be read. -/
theorem witness_NoticesReachTheLedger_entries :
    (∀ k ∈ [(1, 1, 0), (1, 3, 0), (2, 3, 2), (4, 1, 0), (4, 3, 0)], let e := entry k.1 0 k.2.1 k.2.2
      leState e ≠ lsFree ∧ leState e ≠ lsCombined ∧ leSv e 0 = true ∧ leArr e 0 = false) ∧
      leReady (leSetState (leSetArr (entry 1 0 1 0) 0) lsWaiting) = true ∧ leReady (leSetState (leSetArr (entry 1 0 3 0) 0) lsWaiting) = false ∧
      leAllArrived (leSetArr (entry 4 0 1 0) 0) = true ∧ leAllArrived (leSetArr (entry 4 0 3 0) 0) = false ∧
      leSv (entry 1 0 2 0) 0 = false ∧ leArr (entry 2 0 1 1) 0 = true ∧ leState (entry 3 0 1 1) = lsCombined ∧
      (let s := { noticeOn (entry 1 0 1 0) 0 with led := { (noticeOn (entry 1 0 1 0) 0).led with bad := [0] } }
       s.readRow (s.tagSlot 0) 0 = .uncorrectable) := by decide +kernel

theorem witness_LanesLimitsAndQuarantine_quarantineExpires :
    let s := tagged base (entry 4 0 1 0) 0
    let t : State := { s with led := { s.led with tags := s.led.tags.map (fun e => (e.1, { e.2 with st := .quarantine })) } }
    t.Sound ∧ (t.tagSlot 0).st = .quarantine ∧ (t.tagSlot 0).routeDone = true ∧ (s.tagSlot 0).st = .live ∧ t.rowIs (t.tagSlot 0) 0 (fun e => leState e != lsFree) = true :=
  ⟨sound_of_plain (by decide +kernel) rfl, by decide +kernel⟩

/-- A standing `COMBINE` of tokens 0 and 1, of which token 0 is ready. -/
def lanes : State := after (.combine 0) (tagged (combDesc 0x28 0 1 1) (entry 2 0 1 1) (entry 1 1 1 0))

theorem witness_LanesLimitsAndQuarantine_lanesServeTokens :
    let s := lanes.tokenReady 0 0
    let t := after (.combineLaneBegin 0 0) s
    let u := after (.rowReadReturn 0 0) t
    (s.comb 0).any (fun o => o.ready.head? == some 0 && standing o.desc && o.slot == 0) = true ∧ s.stopped = false ∧ s.readRow (s.tagSlot 0) 0 = .entry (entry 2 0 1 1) ∧
      (t.comb 0).any (fun o => o.lanes.find? (fun l => l.1 == 0) == some (0, .reading (entry 2 0 1 1))) = true ∧
      (u.comb 0).any (fun o => (o.lanes.find? (fun l => l.1 == 0)).any (fun l => match l.2 with | .writing _ => true | _ => false)) = true ∧
      (u.tagSlot 0).st = .live ∧ u.rowEntry (u.tagSlot 0) 0 = some (entry 2 0 1 1) ∧ base.comb 0 = none := by decide +kernel

/-- A lane of an operation that does not stand, and an entry that cannot be read. -/
theorem witness_LanesLimitsAndQuarantine_lanesServeTokens_others :
    let s := after (.uncombine 0) (tagged (combDesc 0x29 0 1 0) (entry 3 0 1 1) (entry 3 1 1 1))
    let t := after (.rowReadReturn 0 0) (after (.combineLaneBegin 0 0) s)
    (t.comb 0).any (fun o => !standing o.desc && (o.lanes.find? (fun l => l.1 == 0)).any (fun l => match l.2 with | .writing _ => true | _ => false)) = true ∧
      (let u := { s with led := { s.led with bad := [0] } }
       (u.comb 0).any (fun o => o.ready.head? == some 0) = true ∧ u.readRow (u.tagSlot 0) 0 = .uncorrectable) := by decide +kernel

/-- A lane whose rows are visible while its tag is in quarantine, has given its slot up, or holds an entry that cannot be read. -/
theorem witness_LanesLimitsAndQuarantine_lanesServeTokens_writes :
    let u := after (.rowReadReturn 0 0) (after (.combineLaneBegin 0 0) (lanes.tokenReady 0 0))
    let writes := fun (s : State) => (s.comb 0).any (fun o => standing o.desc && (o.lanes.find? (fun l => l.1 == 0)).any (fun l => match l.2 with | .writing _ => true | _ => false))
    let quarantined : State := { u with led := { u.led with tags := u.led.tags.map (fun e => (e.1, { e.2 with st := .quarantine })) } }
    let gone : State := { u with led := { u.led with tags := [] } }
    let lost : State := { u with led := { u.led with bad := [0] } }
    writes quarantined = true ∧ (quarantined.tagSlot 0).st = .quarantine ∧ writes gone = true ∧ (gone.tagSlot 0).st = .free ∧
      writes lost = true ∧ (lost.tagSlot 0).st = .live ∧ lost.rowEntry (lost.tagSlot 0) 0 = none ∧ u.stopped = false := by decide +kernel

theorem witness_LanesLimitsAndQuarantine_limitedCombinesTimeOut :
    lanes.Sound ∧ lanes.ops.combs.map (fun o => (o.id, o.limit, o.cause, o.lanes.length, o.live)) = [(0, true, none, 0, true)] ∧
      (let t := after (.combineLaneBegin 0 0) (lanes.tokenReady 0 0)
       t.ops.combs.map (fun o => (o.id, o.limit, o.cause, o.lanes.length)) = [(0, true, none, 1)]) :=
  ⟨sound_of_plain (by decide +kernel) (by decide +kernel), by decide +kernel⟩

/-- A receive of position 1 on channel 0. -/
def receive (n : Nat) (applied : Bool) : Recv :=
  { pos := 1, chan := 0, dst := 0x5000, rlen := n, desc := descOf [], ring := 0, applied := applied, live := true }

/-- A message of 4 bytes from position 0 on channel 0. -/
def hoist : HoistMsg := { origin := 3072, hseq := 0, chan := 0, data := [0, 0, 0, 0], only := none }

/-- The `BCAST` of `bcastDesc` on its way to position 1, with these receives. -/
def cast (f : OpsState → OpsState) : State :=
  let s := after (.bcast 0) bcastDesc
  { s with ops := f s.ops }

theorem witness_HoldsAndDeliveries_creditsServeHolds :
    let h : Hold := { id := 5, pos := 1, msg := hoist, sender := .here 0 }
    let s := cast (fun o => { o with recvs := [receive 4 false], holds := [h] })
    let u : State := { s with ops := { s.ops with recvs := [receive 4 true] } }
    s.Sound ∧ s.holdsOf 1 0 = [h] ∧ u.credited 1 0 = some (receive 4 true) ∧ s.isDup 1 hoist = false ∧ s.credited 1 0 = none ∧
      s.ops.holds.find? (fun h => h.id == 5) = some h ∧ base.holdsOf 1 0 = [] :=
  ⟨sound_of_plain (by decide +kernel) (by decide +kernel), by decide +kernel⟩

theorem witness_CopiesReachTheirTargets :
    let ok := fun (s : State) => (s.nextCopy 0 1).any (fun x => x.id == 0 && x.msg == hoist && x.turned && !s.portStopped x.pos) && !s.portStalled 1 && !s.ops.waiting.contains (poolOf 1, 0)
    let full : List PoolCopy := [{ pool := 0, sender := .here 7, chan := 0, own := 128, shared := 2048 }]
    ok (cast (fun o => { o with dups := [(dupKey 1 0, [(3072, 0)])] })) = true ∧ (cast (fun o => { o with dups := [(dupKey 1 0, [(3072, 0)])] })).isDup 1 hoist = true ∧
      (cast (fun o => { o with recvs := [receive 4 true] })).credited 1 0 = some (receive 4 true) ∧ (cast (fun o => { o with recvs := [receive 3 true] })).credited 1 0 = some (receive 3 true) ∧
      ok (cast id) = true ∧ (cast id).credited 1 0 = none ∧ (cast id).poolSplit (poolOf 1) 0 (segments hoist) = some (1, 0) ∧ (cast id).stored (poolOf 1) (.here 0) = false ∧
      (cast (fun o => { o with pools := full })).poolSplit (poolOf 1) 0 (segments hoist) = none ∧ base.nextCopy 0 1 = none ∧
      (cast (fun o => { o with waiting := [(0, 0)] })).ops.waiting.contains (poolOf 1, 0) = true := by decide +kernel

/-- The header of a message for a group on VC2 of port 0. -/
def headOf (group : Nat) : BitVec 50 := hoistFvcf group 0 false 1 0

/-- The flits of a message for group 1 on VC2 of port 0, which has its header in order. -/
def hoistIn : State :=
  let s := heard (fun k => { k with rx2 := [headOf 1, hoistFvcf 1 0 false 0 0], heads := [(2, headOf 1)] })
  { s with ops := { s.ops with recvs := [receive 4 true] } }

/-- A message of chip 5. -/
def fromChip5 : HoistMsg := { hoist with origin := 5 * 1024 }

theorem witness_CopiesReachTheirTargets_messagesFromOtherChips :
    let m := fromChip5
    let u := hoistIn.takeInbound 0 m none
    let full : State := { hoistIn with ops := { hoistIn.ops with pools := [{ pool := rootPool, sender := .here 7, chan := 0, own := 128, shared := 2048 }] } }
    hoistIn.nextInbound 0 0 1 = none ∧ hoistIn.rootStalled = false ∧ hoistIn.hoistWaiting 0 0 = some (2, headOf 1) ∧ bit (headOf 1) 33 = false ∧
      hoistIn.targetsHere m none 1 = [0, 1] ∧ (hoistIn.group 1).map (fun g => (hoistIn.standsByOn g 0, (hoistIn.formerPorts g).contains 0)) = some (none, false) ∧
      hoistIn.ops.waiting = [] ∧ hoistIn.stored rootPool (.there hoistIn.ops.nextId) = false ∧ hoistIn.poolSplit rootPool 0 (segments m) = some (1, 0) ∧
      full.poolSplit rootPool 0 (segments m) = none ∧
      (u.nextInbound 0 0 1).any (fun x => x.msg == m) = true ∧ u.portStalled 1 = false ∧ u.isDup 1 m = false ∧ u.credited 1 0 = some (receive 4 true) ∧
      u.ops.holds = [] ∧ (u.poolSplit (poolOf 1) 0 (segments m)).isSome = true ∧ base.hoistWaiting 0 0 = none := by
  decide +kernel

/-- This chip stands by for the node of group 3; and group 3 after its node's input has moved. -/
theorem witness_CopiesReachTheirTargets_standbysKeepMessages :
    let s := heard (fun k => { k with rx2 := [headOf 3, hoistFvcf 3 0 false 0 0], heads := [(2, headOf 3)] })
    let node : FoldRec := { node64 with host := 9, standby := 3 }
    let by_ : State := { s with topo := { s.topo with groups := [(3, { members := 1, nmemb := 3, nchip := 2, hops := 1, folds := [node], transits := [] })] } }
    let was : State := { s with topo := { s.topo with rehomed := [{ fnid := 64, input := 1, chip := 9, port := 3 }] } }
    s.rootStalled = false ∧ s.nextInbound 0 0 0 = none ∧ s.hoistWaiting 0 0 = some (2, headOf 3) ∧ bits (headOf 3) 38 12 = 3 ∧
      (by_.group 3).any (fun g => by_.standsByOn g 0 == some node) = true ∧
      (was.group 3).any (fun g => (was.standsByOn g 0).isNone && (was.formerPorts g).contains 0) = true := by decide +kernel

theorem witness_ReportsSettleTargets :
    let s := after (.mcast 0) mcastDesc
    let sent := s.ops.sends.map (fun x => (x.id, x.limit, x.targets.map (fun t => (t.index, t.isHere)), x.msg.origin.toNat, x.live))
    s.Sound ∧ sent = [(0, true, [(0, false)], 3072, true)] ∧
      (s.ops.sends.any (fun x => x.targets.any (x.reported 0 (BitVec.ofNat 25 (5 * 1024 + 1)))) = true) ∧
      (let t := after (.hoistAtHoldingNode 1 (.onDie 0)) (cast (fun o => { o with recvs := [receive 3 true] }))
       t.ops.sends.any (fun x => x.targets.any (fun k => k.st == .report false)) = true) ∧
      ((heard (fun k => { k with rx3 := [hoistFvcf 0 0 false 3 0] })).takeReport 0).isSome = true ∧ (heard id).rootStalled = false ∧
      (let u : State := { base with ops := { base.ops with trails := [{ origin := 5120, hseq := 0, chan := 0, vc := 3, port := 0, head := headOf 3 }] } }
       (u.trailOf 5120 0 0).isSome = true ∧ base.trailOf 5120 0 0 = none) ∧ base.takeReport 0 = none ∧ fleet.routeTo 5 = some 0 :=
  ⟨sound_of_plain (by decide +kernel) (by decide +kernel), by decide +kernel⟩

theorem witness_HoldsAndDeliveries_deliveriesBecomeVisible :
    let s := after (.hoistAtHoldingNode 1 (.onDie 0)) (cast (fun o => { o with recvs := [receive 4 true] }))
    s.Sound ∧ s.ops.delivs.map (fun x => (x.id, x.recv.pos, x.sender == .here 0)) = [(1, 1, true)] ∧ (base.poolSplit 0 0 1).isSome = true ∧ (base.poolSplit rootPool 0 1).isSome = true ∧
      (let w : Withdraw := { pos := 1, desc := descOf [], gone := [], first := [1] }
       w.first = [1] ∧ w.pos = (receive 4 true).pos ∧ w.first.filter (fun i => i ≠ 2) ≠ []) ∧
      (cast (fun o => { o with pools := [{ pool := 0, sender := .here 7, chan := 0, own := 128, shared := 2048 }] })).poolSplit 0 0 1 = none :=
  ⟨sound_of_plain (by decide +kernel) (by decide +kernel), by decide +kernel⟩
/-! ## Witnesses: mailbox commands -/

/-- Slot 0 is rung and holds a command of this code with sequence number 5, and this body (Table 11-4). -/
def mail (s : State) (code : Nat) (body : List Byte) : State :=
  { s with win := { s.win with rung := [0], slots := putBytes [] 0 (leBytes 2 code ++ leBytes 2 body.length ++ leBytes 4 5 ++ leBytes 8 0 ++ body) } }

/-- `fleet` without a context, a tag or a channel in use. -/
def calm : State := { fleet with ctxs := [] }

theorem witness_MailboxRowsAreChecked_rowsWaitForTheirSlot :
    base.takes 0 = false ∧ (let s := mail base 0x11 []
      s.takes 0 = true ∧ knownCodes.contains (s.slotCmd 0).code = true ∧ (s.slotCmd 0).code ≠ 0x10) ∧
      (let s := mail base 0x31 [0, 1, 0, 0, 0, 0, 0, 0]
       (s.slotCmd 0).code = 0x31 ∧ calMine 0 (s.slotCmd 0) = false) := by decide +kernel

/-- A code of no row; a command refused for its state; one refused for a reserved field. -/
theorem witness_MailboxRowsAreChecked_commandsAreRefusedByTheFirstCheck :
    (let s := mail base 0x77 []
     s.takes 0 = true ∧ knownCodes.contains (s.slotCmd 0).code = false) ∧
      (let s := mail { base with mh := { base.mh with st := .idle } } 0x12 (List.replicate 16 0)
       s.takes 0 = true ∧ firstDeny (s.commonChecks (s.slotCmd 0) 16 ++ s.groupChecks (s.slotCmd 0)) = some { status := rsEstate, field := 0xFFFF, data := [] }) ∧
      (let s := mail base 0x44 [0, 1, 0, 0]
       s.takes 0 = true ∧ firstDeny (s.commonChecks (s.slotCmd 0) 4 ++ dumpChecks s (s.slotCmd 0)) = some { status := rsEinval, field := 17, data := [] }) := by
  decide +kernel

/-- The example of Table 11-18: slot 2 with two entries while a tag is live, `RSP_TAIL` at 5. -/
def table1118 (body : List Byte) : State :=
  let s := tagged base (entry 3 0 1 1) 0
  { s with
    pol := { s.pol with sbSet := true }
    win := { s.win with
      rung := [2], rspTail := 5, rspHead := 5
      slots := putBytes [] 512 ([0x16, 0] ++ leBytes 2 body.length ++ [0x41, 0, 0, 0] ++ leBytes 8 0 ++ body) } }

/-- The 16 header bytes of the response at 0x2500. -/
def record5 (s : State) : Nat := (after (.policySet 2) s).hostLoad 0x2500 16

theorem test_policy_set_of_table_11_18 :
    record5 (table1118 ([2, 0, 0, 0] ++ [0x20, 0, 0, 0, 0x64, 0, 0, 0, 0, 0, 0, 0] ++ [0x11, 0, 0, 0, 0, 0, 0x20, 0, 0, 0, 0, 0])) =
        leNat [0x12, 0x80, 0x16, 0, 0x41, 0, 0, 0, 2, 1, 0, 0, 0x20, 0, 0, 0] ∧
      record5 (table1118 ([1, 0, 0, 0] ++ [0x20, 0, 0, 0, 0x64, 0, 0, 0, 0, 0, 0, 0])) =
        leNat [0x01, 0x80, 0x16, 0, 0x41, 0, 0, 0, 2, 1, 0, 0, 0xFF, 0xFF, 0, 0] := by decide +kernel

theorem witness_RecordsAndSessions_sessionCommands :
    (mail base 0x01 [0, 0, 1, 0, 0, 0, 0, 0]).Passes 0 0x01 (helloMine 0) helloLen helloChecks ∧
      (mail base 0x01 [1, 0, 1, 0, 0, 0, 0, 0]).Passes 0 0x01 (helloMine 1) helloLen helloChecks ∧
      (mail base 0x01 ([2, 1, 1, 0, 0, 0, 0, 0] ++ List.replicate 96 0)).Passes 0 0x01 (helloMine 2) helloLen helloChecks ∧
      (mail base 0x01 [3, 0, 1, 0, 0, 0, 0, 0]).Passes 0 0x01 (helloMine 3) helloLen helloChecks ∧ base.sec.attempts < 3 ∧ base.sec.challenge = false := by
  decide +kernel

/-- A group block at 0x8000: member 0 only, on this chip only, without records. -/
def groupBlock : State := withMem calm (Memory.writeN [] 0x8000 ([1] ++ List.replicate 127 0 ++ leBytes 4 1 ++ leBytes 2 1 ++ [0, 0]))

theorem witness_GroupAndContextCommands_groupCommands :
    (mail groupBlock 0x12 (leBytes 2 6 ++ leBytes 2 0 ++ leBytes 8 0x8000 ++ leBytes 4 192)).Passes 0 0x12 anyCmd (fun _ => 16) State.groupChecks ∧
      (mail calm 0x13 (leBytes 2 1 ++ leBytes 2 0)).Passes 0 0x13 anyCmd (fun _ => 4) State.deleteChecks ∧ calm.topo.dtPub = false ∧
      (mail { groupBlock with topo := { groupBlock.topo with dtPub := true } } 0x12 (leBytes 2 6 ++ leBytes 2 0 ++ leBytes 8 0x8000 ++ leBytes 4 192)).Passes 0 0x12
        anyCmd (fun _ => 16) State.groupChecks ∧ (mail calm 0x13 (leBytes 2 1 ++ leBytes 2 0)).Sound :=
  ⟨by decide +kernel, by decide +kernel, by decide +kernel, by decide +kernel, sound_of_plain (by decide +kernel) rfl⟩

/-- A binding of context 12 to group 1 with channel 4, a re-arming and an unbinding of context 7 with channel 2. -/
theorem witness_GroupAndContextCommands_contextCommands :
    let body := fun (ctx group op chan : Nat) => leBytes 2 ctx ++ leBytes 2 group ++ leBytes 1 chan ++ leBytes 1 op ++ leBytes 2 0 ++ leBytes 8 0
    let broken := withTt base { TtState.reset with chans := [(2, { chanDefault 2 with st := .broken, ctx := 7, group := 1 })] }
    (mail base 0x14 (body 12 1 0 4)).Passes 0 0x14 (bindMine 0) (fun _ => 16) State.bindChecks ∧
      (mail broken 0x14 (body 7 0 1 0)).Passes 0 0x14 (bindMine 1) (fun _ => 16) State.rearmChecks ∧ broken.chanOf 7 = some 2 ∧
      (mail base 0x14 (body 7 0 2 0)).Passes 0 0x14 (bindMine 2) (fun _ => 16) State.unbindChecks ∧ base.chanOf 7 = some 2 ∧ base.chanOf 8 = none ∧
      bindChan ((mail base 0x14 (body 12 1 0 4)).slotCmd 0) = some 4 := by decide +kernel

theorem witness_PolicyCommands :
    (mail base 0x16 (leBytes 2 1 ++ leBytes 2 0 ++ leBytes 2 0x40 ++ leBytes 2 0 ++ leBytes 8 50)).Passes 0 0x16 anyCmd (fun c => 4 + 12 * policyCount c) State.policyChecks ∧
      (mail base 0x17 [1, 0, 7, 0]).Passes 0 0x17 anyCmd (fun _ => 4) reefChecks ∧
      (mail fleet 0x15 (leBytes 2 5 ++ List.replicate 6 0 ++ leBytes 8 0x10000 ++ leBytes 8 0x2000)).Passes 0 0x15 anyCmd (fun _ => 24) State.partnerChecks ∧
      (mail base 0x60 [15, 0, 7, 0]).Passes 0 0x60 anyCmd (fun _ => 4) flyChecks := by decide +kernel

/-- `base` with a partner. -/
def paired : State := { base with pol := { base.pol with partner := some { chip := 5, area := 0x10000, len := 0x2000, sameFeed := false } } }

theorem witness_CinchesRunTheirPhases_cinchBegins :
    (mail paired 0x20 (leBytes 6 1 ++ leBytes 2 0 ++ leBytes 8 0)).Passes 0 0x20 anyCmd (fun _ => 16) State.cinchChecks := by decide +kernel

/-- `paired` in a phase of a cinch, with a cause of its own to abandon it or none. -/
def cinching (phase : CutPhase) (reason : Nat) : State :=
  { paired with mh := { paired.mh with
      long := some { kind := .cinch, slot := 0, seq := 5, cmd := 0x20 }
      cut := some { number := 1, chosen := 0, phase := phase, reason := reason, imageLen := 64, before := [] } } }

/-- A collective of a chosen context keeps a chip from being drained. -/
def undrained : State :=
  let s := after (.sum 0) (reduction 0x01 9 9)
  { s with
    ctxs := s.ctxs.map (fun e => (e.1, { e.2 with chosen := true }))
    mh := { s.mh with cut := some { number := 1, chosen := BitVec.allOnes 4096, phase := .drain, reason := 0, imageLen := 0, before := [] } } }

theorem witness_CinchesRunTheirPhases_cinchPhases :
    (∀ ph ∈ [CutPhase.agree, .drain, .quiet], ∀ r ∈ [0, 8],
      (cinching ph r).mh.cut.map (fun c => (c.phase, c.reason)) = some (ph, r) ∧ (cinching ph r).mh.halted = false) ∧
      (cinching .drain 0).drained = true ∧ undrained.drained = false ∧
      (cinching .agree 0).topo.present.all (fun k => k == (cinching .agree 0).topo.chip) = false ∧
      (let o : CutOthers := { maxNumber := 1, minNumber := 1, maxCrc := 0, minCrc := 0 }
       max o.maxNumber 1 = min o.minNumber 1 ∧ max (o.maxNumber + 1) 1 ≠ min o.minNumber 1) ∧
      (cinching .quiet 0).link.sent1 = (cinching .quiet 0).link.recv1 ∧ (cinching .quiet 0).link.sent4 + 1 ≠ (cinching .quiet 0).link.recv4 ∧
      (cinching .quiet 0).pol.partner.any (fun p => decide (128 ≤ p.len)) = true := by decide +kernel

theorem witness_CinchesCommitOrLeaveNothing_cinchImages :
    (∀ r ∈ [0, 8], (cinching .capture r).mh.cut.map (fun c => (c.phase, c.reason)) = some (.capture, r) ∧
      (cinching .commit r).mh.cut.map (fun c => (c.phase, c.reason)) = some (.commit, r)) ∧
      (let s := cinching .commit 0
       let s : State := { s with mh := { s.mh with flashWait := [{ number := 1, chip := 5, src := 0, len := 64, early := true }] } }
       s.mh.flashWait.any (·.early) = true ∧ (cinching .commit 0).mh.flashWait.any (·.early) = false) ∧
      (cinching .capture 0).atRest = true ∧ (cinching .capture 0).pol.partner.any (fun p => !p.sameFeed) = true ∧ (cinching .capture 0).mh.halted = false ∧
      (let s := { cinching .capture 0 with led := { (cinching .capture 0).led with fly := [0] } }
       s.atRest = false) := by decide +kernel

theorem witness_CinchesCommitOrLeaveNothing_abandonedCinchesLeaveNothing :
    (∀ ph ∈ [CutPhase.agree, .capture, .commit], (cinching ph 7).mh.cut.isSome = true ∧ (cinching ph 7).mh.long.isSome = true) := by decide +kernel

theorem witness_CinchesCommitOrLeaveNothing_flashCopies :
    ∀ early ∈ [false, true], let k : FlashCopy := { number := 1, chip := 5, src := 0x10000, len := 64, early := early }
      let s := fun (l : List FlashCopy) => ({ cinching .commit 0 with mh := { (cinching .commit 0).mh with flashWait := l } } : State)
      (s [k]).mh.flashWait = k :: [] ∧ (s [k, k]).mh.flashWait = k :: [k] ∧ k.early = early := by decide +kernel

theorem witness_TestsRunAndEnd_testsBegin :
    (mail base 0x30 [1, 0, 0, 0]).Passes 0 0x30 anyCmd (fun _ => 4) State.testChecks ∧ base.mayTest = true ∧ base.testDeny (.node 0) false = none ∧
      base.rotates (.node 0) = true ∧ base.rotates (.pool 0) = false ∧ State.reset.mayTest = false ∧
      ((.node 1 : UnitId) ∈ ({ base with units := { base.units with failed := [.node 1] } } : State).units.failed) ∧
      ((after (.backgroundUnitTest (.bank 3)) base).mh.tests.any (fun x => x.background && x.unit == .bank 3)) = true := by decide +kernel

/-- A test of node 0 that the host has asked for. -/
theorem witness_TestsRunAndEnd_testsEnd :
    let s := after (.testNode 0) (mail base 0x30 [1, 0, 0, 0])
    (s.mh.tests.find? (fun t => t.unit == .node 0)).any (fun x => s.testRuns x && !x.forced && !x.background) = true ∧ s.testLong (.node 0) = true ∧
      base.mh.tests = [] := by decide +kernel

theorem witness_Calibration_calibrationCommands :
    (mail fleet 0x31 [0, 0, 0, 0, 0, 0, 0, 0]).Passes 0 0x31 (calMine 0) (fun _ => 8) calAdaptChecks ∧
      (mail fleet 0x31 [0, 1, 1, 0, 0, 0, 0, 0]).Passes 0 0x31 (calMine 1) (fun _ => 8) State.calRecalChecks ∧
      (mail fleet 0x31 [1, 2, 0, 2, 0, 0, 0, 0]).Passes 0 0x31 (calMine 2) (fun _ => 8) State.calPhyChecks ∧
      (mail { fleet with inp := { fleet.inp with phy := [(0, 2)] } } 0x31 [0, 3, 0, 0, 31, 0xE0, 0, 0]).Passes 0 0x31 (calMine 3) (fun _ => 8) State.calTapsChecks ∧
      fleet.spareFor 0 = none := by decide +kernel

/-- A port whose link has a spare that is up. -/
theorem witness_Calibration_calibrationCommands_spare :
    let s := { fleet with topo := { fleet.topo with links := fleet.topo.links.map (fun (e : Nat × LinkDecl) => (e.1, { e.2 with spare := some 1 })) } }
    (State.setLnk s 1 { Link.reset 1 with st := .up }).spareFor 0 = some 1 := by decide +kernel

theorem witness_Calibration_calibrationEnds :
    let s := after (.calPortAdapt 0) (mail fleet 0x31 [0, 0, 0, 0, 0, 0, 0, 0])
    (0 ∈ s.mh.cals) ∧ s.calLong 0 = true ∧ (s.lnk 0).st = .down ∧ fleet.mayTest = true ∧ base.needsSpare 0 = false ∧ fleet.needsSpare 0 = true ∧ base.mh.cals = [] ∧
      ((s.setLnk 0 { Link.reset 0 with st := .retraining }).lnk 0).st = .retraining := by decide +kernel

/-- The network is reached once it is released under an unlock, or while Masthead boots; the chip's segment open, and Masthead halted. -/
theorem witness_Calibration_tapInstruments :
    let t : State := { base with debug := true }
    let o : State := { t with tap := { t.tap with opened := [.chip] } }
    base.tapReaches true = false ∧ t.tapReaches false = false ∧ t.tapReaches true = true ∧ State.reset.tapReaches false = true ∧ State.reset.debug = false ∧
      base.power.st ≠ .off ∧ base.mh.st ≠ .boot ∧ base.mh.st ≠ .fatal ∧ t.tap.opened = [] ∧ Segment.chip ∈ o.tap.opened ∧ o.mh.halted = false ∧
      ({ o with mh := { o.mh with halted := true } } : State).mh.halted = true ∧ t.tapAllows (.logicBist (.node 0)) = false := by decide +kernel

theorem witness_InspectionCommands :
    (mail base 0x40 []).Passes 0 0x40 anyCmd (fun _ => 0) noChecks ∧ (mail base 0x41 [8, 1, 0, 0]).Passes 0 0x41 anyCmd (fun _ => 4) countersChecks ∧
      (mail base 0x42 [3, 14, 3, 0, 0, 0, 0, 0]).Passes 0 0x42 anyCmd (fun _ => 8) State.inspectChecks ∧
      (mail fleet 0x42 [0, 2, 5, 0, 0, 0, 0, 0]).Passes 0 0x42 anyCmd (fun _ => 8) State.inspectChecks ∧
      (mail (tagged base (entry 3 0 1 1) 0) 0x43 [0, 2, 0x34, 0x12, 0, 0, 0, 0]).Passes 0 0x43 anyCmd (fun _ => 8) State.ledgerChecks ∧
      (mail base 0x43 [1, 14, 0, 0, 50, 0, 0, 0]).Passes 0 0x43 anyCmd (fun _ => 8) State.ledgerChecks ∧
      (mail base 0x44 [1, 0, 0, 0]).Passes 0 0x44 anyCmd (fun _ => 4) dumpChecks := by decide +kernel

theorem witness_DumpFetches :
    (∀ b ∈ [[0, 0, 0, 0], [1, 0, 0, 0], [2, 0, 0, 0], [1, 1, 0, 0]],
      let s := mail { base with dump := { valid := true, addr := 0x9000, len := 4096, seq := 1, lost := 0, due := none } } 0x44 b
      s.takes 0 = true ∧ (s.slotCmd 0).code = 0x44 ∧ firstDeny (s.commonChecks (s.slotCmd 0) 4) = none) := by decide +kernel

theorem witness_FirmwareCommands :
    (mail base 0x50 ([0, 0, 0, 0] ++ leBytes 4 4096 ++ leBytes 8 0)).Passes 0 0x50 (fwMine 0) (fun _ => 16) fwChecks ∧
      (mail { base with sec := { base.sec with loaded := true } } 0x50 ([1, 0, 0, 0] ++ List.replicate 12 0)).Passes 0 0x50 (fwMine 1) (fun _ => 16) fwActivateChecks ∧
      (mail { base with sec := { base.sec with trial := true } } 0x50 ([2, 0, 0, 0] ++ List.replicate 12 0)).Passes 0 0x50 (fwMine 2) (fun _ => 16) fwCommitChecks ∧
      (after (.fwUpdateLoad 0) (mail base 0x50 ([0, 0, 0, 0] ++ leBytes 4 4096 ++ leBytes 8 0))).loading = true ∧ base.loading = false ∧
      (let s := { State.reset with sec := { SecState.reset with trial := true }, power := { PowerState.reset with boot := .firmware } }
       s.power.boot = .firmware ∧ s.sec.trial = true) := by decide +kernel

theorem witness_PowerStatesAndTheRail_powerCommands :
    (∀ b ∈ [0, 3], (mail base 0x70 [BitVec.ofNat 8 b, 0, 0, 0]).takes 0 = true) ∧
    (mail calm 0x70 [0, 0, 0, 0]).Passes 0 0x70 (powerMine 0) (fun _ => 4) activeChecks ∧ (mail calm 0x70 [1, 0, 0, 0]).Passes 0 0x70 (powerMine 1) (fun _ => 4) State.dozeChecks ∧
      (mail calm 0x70 [2, 0, 0, 0]).Passes 0 0x70 (powerMine 2) (fun _ => 4) State.retainChecks ∧ (mail calm 0x70 [3, 0, 0, 0]).Passes 0 0x70 (powerMine 3) (fun _ => 4) State.offChecks ∧
      (let s := { calm with power := { calm.power with st := .retain }, mh := { calm.mh with st := .lowPower, before := .configured } }
       (mail s 0x70 [0, 0, 0, 0]).Passes 0 0x70 (powerMine 0) (fun _ => 4) activeChecks ∧ (mail s 0x70 [2, 0, 0, 0]).Passes 0 0x70 (powerMine 2) (fun _ => 4) State.retainChecks) := by
  decide +kernel

/-- A `DOZE` request that has been accepted, and one that a hold has come to block. -/
theorem witness_PowerStatesAndTheRail_dozeGatesTheClocks :
    let s := after (.powerStateDoze 0) (mail calm 0x70 [1, 0, 0, 0])
    s.mh.long.any (fun l => decide (l.kind = .power .doze)) = true ∧ s.power.st = .active ∧ s.pending = [] ∧ s.mh.halted = false ∧ s.dump.due = none ∧
      s.dozeBlocked = false ∧ ({ s with units := { s.units with paused := [3] } } : State).dozeBlocked = true := by decide +kernel

theorem witness_PowerStatesAndTheRail_wakingAndTheRail :
    (∀ r ∈ [none, some RailReq.restore, some RailReq.retain, some RailReq.off], ({ calm with power := { calm.power with railReq := r } } : State).power.railReq = r) ∧
      calm.Sound ∧ calm.dozing = false ∧
      (after (.powerStateRetain 0) (mail calm 0x70 [2, 0, 0, 0])).power.railReq = some RailReq.retain ∧
      (after (.powerStateRetain 0) (mail calm 0x70 [2, 0, 0, 0])).mh.long.isSome = true ∧
      (let t := (after (.powerStateDoze 0) (mail calm 0x70 [1, 0, 0, 0])).idle
       t.power.st = .doze ∧ t.mh.st = .lowPower) :=
  ⟨by decide +kernel, sound_of_plain (by decide +kernel) rfl, by decide +kernel, by decide +kernel, by decide +kernel, by decide +kernel⟩
/-! ## Witnesses: reset, units, errors -/

def withUnits (s : State) (u : UnitState) : State := { s with units := u }

/-- Start-up at a point. -/
def booting (b : Boot) : State := { State.reset with power := { PowerState.reset with boot := b } }

/-- Off and on, a dump due and not, and the firmware images of the four cases. -/
theorem witness_ResetsAndStartUp_resetsKeepWhatTheyMust :
    base.power.st ≠ .off ∧ ({ base with power := { base.power with st := .off } } : State).power.st = .off ∧ base.Sound ∧
      (∀ e ∈ [(0, 0, false, 0), (0, 1, false, 0), (1, 1, true, 1), (1, 1, true, 2)],
        let x : SecState := { base.sec with run := e.1, boot := e.2.1, trial := e.2.2.1, trialResets := e.2.2.2 }
        decide (x.boot = x.run) = decide (e.1 = e.2.1) ∧ x.trial = e.2.2.1 ∧ decide (x.trialResets < 2) = decide (e.2.2.2 < 2)) ∧
      base.dump.due = none ∧
      (after .lockstepMismatch { base with inp := { base.inp with regions := { base.inp.regions with dumpLen := 4096 } } }).dump.due ≠ none :=
  ⟨by decide +kernel, by decide +kernel, base_sound, by decide +kernel⟩

theorem witness_ResetsAndStartUp_startUp :
    (booting .mbist).Sound ∧ (booting .verify).Sound ∧ (booting .firmware).Sound ∧ (booting .mbist).power.boot = .mbist ∧ (booting .verify).power.boot = .verify ∧
      (booting .firmware).power.boot = .firmware ∧ (booting .mbist).power.st ≠ .off ∧ (booting .mbist).power.kind = .cold ∧
      inSpace (regionRanges Regions.none) = true ∧ (booting .firmware).power.st ≠ .doze ∧ (∀ b, UnitId.bank b ∉ (booting .firmware).units.failed) ∧
      (booting .firmware).sec.rollback = none ∧ (after (.imageVerified false) (booting .verify)).sec.rollback.isSome = true ∧
      ({ booting .mbist with power := { PowerState.reset with kind := .warm } } : State).power.kind ≠ .cold :=
  ⟨sound_of_plain (by decide +kernel) rfl, sound_of_plain (by decide +kernel) rfl, sound_of_plain (by decide +kernel) rfl, by decide +kernel⟩

theorem witness_FaultsAndTheirThresholds_faultsBelowTheirThreshold : (15 < 16) ∧ (63 < 64) ∧ (7 < 8) ∧ State.reset.mhActs = false ∧ base.mhActs = true := by decide +kernel

/-- Cluster 5's node alone, its row's spare free, and that spare shadowing it. -/
theorem witness_SparesCoverFailedUnits_failedNodesAreCovered :
    base.mhActs = true ∧ base.units.clustersOf 5 = [5] ∧ base.units.foldHost.find 5 = none ∧ base.units.pickSpare 5 = some 0 ∧ (base.units.cs 0).st ≠ 1 ∧
      ((withUnits base (base.units.setCs 0 1 5)).units.cs 0).st = 1 ∧ (withUnits base (base.units.setCs 0 1 5)).mhActs = true := by decide +kernel

/-- Room in the ring, and none. -/
theorem witness_SparesCoverFailedUnits_faultRecords :
    base.power.st ≠ .doze ∧ base.dozing = false ∧ base.win.freeEntries ≠ 0 ∧ ({ base with win := { base.win with rspTail := 31 } } : State).win.freeEntries = 0 := by
  decide +kernel

theorem witness_SparesCoverFailedUnits_rootUnitsServeAlone : base.mhActs = true ∧ (∀ i : Fin 4, base.units.hr i < 2 ∧ base.units.hr (pairOf i) < 2) := by decide +kernel

/-- A collective that stands in a group that is defined, and a unit that serves and one that is of no pair. -/
theorem witness_SparesCoverFailedUnits_mismatchesEndTheirCollectives :
    let s := after (.sum 0) (reduction 0x01 9 9)
    s.mhActs = true ∧ (s.ops.colls.map (fun c => (c.ctx, c.epoch))).Nodup ∧ (s.units.hr (0 : Fin 4) < 2 ∧ s.units.hr (pairOf (0 : Fin 4)) < 2) ∧
      (s.units.cr (1 : Fin 2) < 2 ∧ s.units.cr (pairOf (1 : Fin 2)) < 2) ∧
      s.ops.colls.map (fun c => (decide (c.members ≠ []), c.ctx, c.epoch, (s.group c.group).isSome, c.ended.isNone)) = [(true, 7, 9, true, true)] := by decide +kernel

theorem witness_FaultsAndTheirThresholds_fatalErrorsStopTheChip :
    8 ≤ 8 ∧ base.coresRun = true ∧ base.mh.halted = false ∧ ({ base with mh := { base.mh with halted := true } } : State).coresRun = true ∧
      State.reset.coresRun = false ∧ base.sec.trial = false ∧ ({ base with sec := { base.sec with trial := true } } : State).coresRun = true := by decide +kernel

theorem witness_SparesCoverFailedUnits_sparesComeIntoService :
    let fill := withUnits base (base.units.setCs 0 2 5)
    let copy := withUnits base (base.units.setLs 1 2 9)
    let shadow := { withUnits base (base.units.setCs 0 1 5) with pol := { base.pol with vals := [(0x51, 0)] } }
    (fill.units.cs 0).st = 2 ∧ fill.ops.sends = [] ∧ (copy.units.ls 1).st = 2 ∧ (base.units.cs 0).st ≠ 2 ∧ (base.units.ls 1).st ≠ 2 ∧ State.reset.mhActs = false ∧
      1 < (fill.units.cs 0).st ∧ base.mayTest = true ∧ (base.units.cs 0).st ≤ 1 ∧ shadow.mhActs = true ∧ shadow.mayTest = false ∧ (shadow.units.cs 0).st = 1 ∧
      (({ base with pol := { base.pol with vals := [(0x51, 0)] } } : State).units.cs 0).st ≠ 1 := by decide +kernel

/-- A member whose contribution is under way, a `COMBINE` that reads a row, and a send with every target under way. -/
theorem witness_PoisonEndsItsOperation :
    let s := after (.sum 0) (reduction 0x01 9 9)
    let t := after (.combineLaneBegin 0 0) (after (.combine 0) (tagged (combDesc 0x28 2 1 1) (entry 3 0 1 1) (entry 3 1 1 1)))
    let u := after (.bcast 0) bcastDesc
    (s.coll 7 9).any (fun c => c.members.any (fun m => m.pos == 0 && m.stage == .sending)) = true ∧ base.coll 7 9 = none ∧
      (t.comb 0).any (fun o => o.lanes.any (fun l => l.1 == 0 && (match l.2 with | .reading _ => true | .writing _ => false))) = true ∧
      (u.ops.sends.find? (fun x => x.id == 0)).any (fun x => x.targets.all (fun t => t.st == .flying)) = true ∧
      base.comb 0 = none ∧ base.ops.sends = [] := by decide +kernel

/-- A read of the list at port 0, a lane whose next entry lies in the saddlebag, and a command with data of its own. -/
theorem witness_PoisonEndsItsOperation_others :
    mcastDesc.mayRead (0 : Pos) = true ∧ dOpcode (mcastDesc.slotDesc 0) = 0x31 ∧ tmapRange (mcastDesc.slotDesc 0) ≠ [] ∧
      mcastDesc.heldByCut (mcastDesc.slotDesc 0) = false ∧ base.mayRead (0 : Pos) = false ∧
      (let s := lanes.tokenReady 0 0
       let s : State := { s with led := { s.led with tags := s.led.tags.map (fun e => (e.1, { e.2 with blocks := [1024] })), sbHeld := [1048576, 0] } }
       (s.comb 0).any (fun o => o.ready.head? == some 0 && decide (o.slot = 0) && decide (o.tokBase = 0)) = true ∧ s.stopped = false ∧ (s.tagSlot 0).routeDone = true ∧
         (s.sbIndex ((s.tagSlot 0).place 0).1 ((s.tagSlot 0).place 0).2).any (fun k => s.led.sbHeld.contains k) = true) ∧
      (let s := mail groupBlock 0x12 (leBytes 2 6 ++ leBytes 2 0 ++ leBytes 8 0x8000 ++ leBytes 4 192)
       (s.slotCmd 0).dataField = some 20 ∧ s.takes 0 = true ∧ firstDeny (s.commonChecks (s.slotCmd 0) 16) = none) ∧ base.takes 0 = false := by decide +kernel

/-- An uncorrectable word, one of no word's number, a channel that a member of cluster 0 uses, and pairs that serve. -/
theorem witness_FaultsAndTheirThresholds_uncorrectableErrors :
    base.mhActs = true ∧ wordIndex 5 < 768 ∧ base.power.st ≠ .doze ∧ base.dozing = false ∧ ¬wordIndex 0x300 < 768 ∧
      (let s := withTt base { TtState.reset with chans := [(2, { chanDefault 2 with st := .armed, ctx := 7, group := 1 })] }
       s.Sound ∧ s.mhActs = true ∧ 2 ∈ s.chansIn 0) ∧ base.units.hr 0 < 2 ∧ base.units.hr (pairOf 0) < 2 ∧ base.units.cr 0 < 2 ∧ base.units.cr (pairOf 0) < 2 ∧
      base.rowAt 5 = none ∧ base.poolMode (wordCluster 5) = false ∧ pool.poolMode (wordCluster 5) = true :=
  ⟨by decide +kernel, by decide +kernel, by decide +kernel, by decide +kernel, by decide +kernel,
    ⟨withTt_sound base_sound (by decide +kernel) (by simp [TtState.reset, Tbl.Rising]), by decide +kernel, by decide +kernel⟩, by decide +kernel⟩

theorem witness_LostChipsAndFaultReports_lostChips :
    let ls := fleet.topo.links.filter (fun (e : Nat × LinkDecl) => e.2.peer == 5)
    let up := heard id
    fleet.isPresent 5 = true ∧ ls ≠ [] ∧ ls.all (fun (e : Nat × LinkDecl) => !(fleet.lnk e.2.phys).isUp) = true ∧
      (up.topo.links.filter (fun (e : Nat × LinkDecl) => e.2.peer == 5)).any (fun (e : Nat × LinkDecl) => (up.lnk e.2.phys).isUp) = true ∧
      fleet.isPresent 9 = false ∧ base.topo.links.filter (fun (e : Nat × LinkDecl) => e.2.peer == 5) = [] := by decide +kernel

/-- A collective through the node that chip 5 hosts without a standby. -/
theorem witness_LostChipsAndFaultReports_lostChips_faults :
    let s := match (after (.sum 0) (reduction 0x01 9 9)).coll 7 9 with
      | some c => fleet.setColl { c with ctx := 10, group := 4 }
      | none => fleet
    s.isPresent 5 = true ∧ s.standbyFor 5 = [] ∧ (s.ops.colls.map (fun c => (c.ctx, c.epoch))).Nodup ∧
      s.ops.colls.any (fun c => decide (c.members ≠ []) && c.ended.isNone && (s.group c.group).any (fun g =>
        g.folds.any (fun r => r.host == 5 && r.standby == 0xFFFF) && g.folds.all (fun r => !s.topo.takenOver.contains r.fnid))) = true := by decide +kernel

theorem witness_TestsRunAndEnd_nodeResetsChangeNothing :
    base.mhActs = true ∧ base.idleUnit (.node 64) = true ∧ base.win.freeEntries ≠ 0 ∧ base.idleUnit (.node 0) = false ∧ State.reset.mhActs = false := by decide +kernel

theorem witness_FaultsAndTheirThresholds_errorsAboveTheirThreshold :
    base.mhActs = true ∧ base.Sound ∧ 16 ≤ 16 ∧ 64 ≤ 64 ∧ base.rowAt 5 = none ∧ base.units.lostBanks.contains (bankOf 5) = false ∧ 768 ≤ wordIndex 0x300 :=
  ⟨by decide +kernel, base_sound, by decide +kernel⟩

/-! ## Witnesses: stores -/

/-- A ring configuration of 16 slots at 0x1000, one with a reserved encoding of its size, and one with a reserved field. -/
theorem witness_PortRegistersAreWritten_portStoresTakeEffect_rings :
    base.running = true ∧ base.dozing = false ∧ (onlyFields 0x1004 [(12, 40), (0, 4)] = true ∧ log2Ok 0x1004 = true) ∧
      ¬(onlyFields 0x100D [(12, 40), (0, 4)] = true ∧ log2Ok 0x100D = true) ∧ ¬(onlyFields 0x1014 [(12, 40), (0, 4)] = true ∧ log2Ok 0x1014 = true) ∧
      ((reduction 0x01 9 9).port 0).sqHead ≠ ((reduction 0x01 9 9).port 0).sqTail ∧ (base.port 0).sqHead = (base.port 0).sqTail ∧ (base.port 0).opened = 0 ∧
      ((after (.sum 0) (reduction 0x01 9 9)).port 0).opened ≠ 0 ∧ onlyFields 0x1000 [(0, 12)] = false := by decide +kernel

/-- Tails and heads at the bounds of a ring of 16 with one slot in use. -/
theorem witness_PortRegistersAreWritten_portStoresTakeEffect_bounds :
    let x := (reduction 0x01 9 9).port 0
    (∀ v ∈ [(16, false), (0, false), (1, true), (15, true)],
      onlyFields (BitVec.ofNat 64 v.1) [(0, 12)] = true ∧
        decide (ringOn x.sqCfg = false ∨ ringSize x.sqCfg ≤ v.1 ∨ ringDist (ringSize x.sqCfg) x.sqHead v.1 < ringDist (ringSize x.sqCfg) x.sqHead x.sqTail) = !v.2) ∧
      (∀ v ∈ [(16, false), (1, false), (0, true)],
        decide (ringSize x.cqCfg ≤ v.1 ∨ ringDist (ringSize x.cqCfg) x.cqHead x.cqTail < ringDist (ringSize x.cqCfg) x.cqHead v.1) = !v.2) := by decide +kernel

theorem witness_PortRegistersAreWritten_portStoresTakeEffect_queues :
    let s := withPorts base [(0, { Port.reset with resp := [1] })]
    s.running = true ∧ (s.port 0).resp = [1] ∧ (base.port 0).resp = [] ∧ onlyFields 3 [(0, 1)] = false ∧ onlyFields 1 [(0, 1)] = true ∧ bit (1 : Word64) 0 = true ∧
      onlyFields 0 [(0, 1)] = true ∧ bit (0 : Word64) 0 = false ∧ onlyFields 0x1000000 [(32, 8), (31, 1), (0, 24)] = false ∧
      onlyFields 0x80000000 [(32, 8), (31, 1), (0, 24)] = true ∧ bit (0x80000000 : Word64) 31 = true ∧ bit (0 : Word64) 31 = false := by decide +kernel

/-- Running, not running, in `RETAIN`, asleep, and on the way to sleep. -/
theorem witness_PortRegistersAreWritten_registerWrites :
    let dozes : State := { base with power := { base.power with st := .doze }, mh := { base.mh with st := .lowPower } }
    let request := after (.powerStateDoze 0) (mail calm 0x70 [1, 0, 0, 0])
    base.running = true ∧ base.dozing = false ∧ onlyFields 0x7F [(0, 7)] = true ∧ base.wake.running = true ∧ base.wake.dozing = false ∧ State.reset.wake.running = false ∧
      base.power.st ≠ .retain ∧ ({ base with power := { base.power with st := .retain } } : State).power.st = .retain ∧ dozes.power.st = .doze ∧
      dozes.mh.st = .lowPower ∧ request.power.st = .active ∧ request.dozing = true := by
  decide +kernel

/-- Doorbells of a free and of a rung slot, of a slot that is none, and before `MH_READY`; response heads at both bounds. -/
theorem witness_HostWindowIsWritten_hostWindowStores :
    let s := mail base 0x11 []
    base.power.st ≠ .off ∧ s.win.rung = [0] ∧ base.mh.ready = true ∧ State.reset.mh.ready = false ∧
      (bitList (BitVec.ofNat 16 1)).any (fun k => s.win.rung.contains k) = true ∧ (bitList (BitVec.ofNat 16 6)).any (fun k => s.win.rung.contains k) = false ∧
      (∀ v ∈ [(32, false), (1, false), (0, true)], decide (32 ≤ v.1 ∨ (base.win.rspTail + 32 - base.win.rspHead) % 32 < (v.1 + 32 - base.win.rspHead) % 32) = !v.2) := by
  decide +kernel

theorem witness_HostWindowIsWritten_wordsAreCaptured :
    base.power.st ≠ .off ∧ wordIndex 0xFEFF = 767 ∧ wordIndex 0x300 = 768 ∧ ({ base with power := { base.power with st := .off } } : State).power.st = .off := by
  decide +kernel
/-! ## Witnesses: links -/

/-- A frame with this type, channel, sequence number, acknowledgement and channel fields, and a right CRC. -/
def frame (type vc seq ack fvcf : Nat) (pay : BitVec 512) : Frame :=
  sealFrame (fields 128 [(124, 4, type), (121, 3, vc), (109, 12, seq), (97, 12, ack), (32, 50, fvcf)]) pay

def slow : State := heard (fun k => { k with st := .training, locked := false })

theorem witness_FramesAreChosenByPriority_idle :
    (heard id).Sound ∧ (fleet.lnk 0).st = .down ∧ (slow.lnk 0).st = .training ∧ ((heard fun k => { k with st := .retraining }).lnk 0).st = .retraining ∧
      (let k := (heard fun k => { k with st := .exchange }).lnk 0
       k.st = .exchange ∧ k.ctl = [] ∧ k.peer = none) ∧
      (let k := (heard id).lnk 0
       k.st = .up ∧ k.tagDue = false ∧ k.prot = false ∧ k.resend = [] ∧ k.ctl = [] ∧ k.nakDue = false) ∧
      (∀ vc ∈ [0, 1, 2, 3, 4], (heard id).ready 0 vc = false ∧ (heard id).mayCarry 0 vc = false) ∧
      ((heard fun k => { k with superBlock := List.replicate 7 { hdr := 0, pay := 0 } }).lnk 0).superBlock.length = 7 := ⟨sound_of_plain (by decide +kernel) rfl, by decide +kernel⟩

/-- What may wait at a port: a replay, link control of both sorts, a `NAK`, VC0 inside and outside its share, each other channel, VC2 and VC3 together. -/
theorem witness_FramesAreChosenByPriority_queues :
    (heard fun k => { k with resend := [{ hdr := 0, pay := 1 }] }).Sound ∧
      (let m := fun kind => fields 128 [(120, 8, kind)]
       lcKind (m 1) ≠ 4 ∧ lcKind (m 4) = 4) ∧
      (let s := fun (n : Nat) => heard fun k => { k with tx0 := [ctlMsg ctHeartbeat 3 5 []], slots := List.replicate n 0 }
       (s 7).ready 0 0 = true ∧ ((s 7).lnk 0).used 0 < 8 ∧ 8 ≤ ((s 8).lnk 0).used 0 ∧ ((s 8).lnk 0).tx0.any isFly = false) ∧
      ((heard fun k => { k with tx0 := [ctlMsg ctLetFly 3 5 []] }).lnk 0).tx0.any isFly = true ∧
      (heard fun k => { k with tx1 := [1] }).mayCarry 0 1 = true ∧
      (let s := heard fun k => { k with tx4 := [1] }
       s.mayCarry 0 4 = true ∧ (s.lnk 0).used 4 < s.policy 0x30) ∧
      (let s := heard fun k => { k with tx2 := [{ fvcf := 0, body := .transit 0 false }], tx3 := [{ fvcf := 0, body := .transit 0 false }] }
       s.mayCarry 0 2 = true ∧ s.mayCarry 0 3 = true ∧ s.vc2First (s.lnk 0) = true) ∧
      (let s := heard fun k => { k with tx2 := [{ fvcf := 0, body := .transit 0 false }], tx3 := [{ fvcf := 0, body := .transit 0 false }], wrr2 := 1 }
       s.mayCarry 0 3 = true ∧ s.vc2First (s.lnk 0) = false) := ⟨sound_of_plain (by decide +kernel) rfl, by decide +kernel⟩

/-- Under a forced test of a root unit VC0 alone goes out. -/
theorem test_a_root_test_limits_the_links :
    let s := heard fun k => { k with tx0 := [ctlMsg ctHeartbeat 3 5 []], tx1 := [1] }
    let t : State := { s with mh := { s.mh with tests := [{ unit := .root 0, spare := none, background := false, forced := true }] } }
    t.mayCarry 0 1 = false ∧ t.ready 0 1 = true ∧ t.ready 0 0 = true := by decide +kernel

/-- A frame that is well formed at a port has a right CRC, and the same frame with another CRC does not. -/
theorem frame_ok (k : Link) (type vc seq ack fvcf : Nat) (pay : BitVec 512)
    (h : k.malformed { hdr := fields 128 [(124, 4, type), (121, 3, vc), (109, 12, seq), (97, 12, ack), (32, 50, fvcf)], pay := pay } = false) :
    let f := frame type vc seq ack fvcf pay
    fCrc f = (frameCrc f.hdr f.pay).toNat ∧ k.malformed f = false := ⟨sealFrame_crc _ _, by unfold frame; rw [malformed_seal]; exact h⟩

theorem spoiled (f : Frame) : ∃ g : Frame, fCrc g ≠ (frameCrc g.hdr g.pay).toNat :=
  ⟨{ f with hdr := setBits f.hdr 0 32 ((frameCrc f.hdr f.pay).toNat ^^^ 1) }, by
    have h := (frameCrc f.hdr f.pay).isLt
    simp only [frameCrc_setBits, fCrc_setBits, Nat.mod_eq_of_lt (Nat.xor_lt_two_pow h (by decide : 1 < 2 ^ 32))]
    intro e
    have := congrArg (fun n => n.testBit 0) e
    simp at this
    omega⟩

theorem witness_FramesAreTakenOrDiscarded_badFramesAreDiscarded :
    (heard id).Sound ∧ (slow.lnk 0).locked = false ∧ ((heard id).lnk 0).locked = true ∧ ((heard id).lnk 0).isUp = true ∧
      (let f := frame ftIdle 0 0 0 0 0
       fCrc f = (frameCrc f.hdr f.pay).toNat ∧ ((heard id).lnk 0).malformed f = false) ∧
      (let f := frame ftIdle 0 0 0 0 0
       controlOk f = true ∧ (fType f == ftData) = false) ∧
      (∃ f : Frame, fCrc f ≠ (frameCrc f.hdr f.pay).toNat) ∧
      ((heard id).lnk 0).malformed (frame 5 0 0 0 0 0) = true ∧ controlOk (frame ftLinkctl 0 0 0 0 0) = false :=
  ⟨sound_of_plain (by decide +kernel) rfl, by decide +kernel, by decide +kernel, by decide +kernel, frame_ok _ _ _ _ _ _ _ (by decide +kernel),
    by unfold controlOk frame; simp only [fType_seal, sealFrame_pay]; decide +kernel, spoiled (frame 0 0 0 0 0 0),
    by unfold frame; rw [malformed_seal]; decide +kernel, by unfold controlOk frame; simp only [fType_seal, sealFrame_pay]; decide +kernel⟩

theorem witness_FramesAreTakenOrDiscarded_goodFramesAreTaken :
    let s := heard fun k => { k with rxSeq := 7 }
    let k := s.lnk 0
    s.Sound ∧ (∀ e ∈ [(ftIdle, 0), (ftData, 6), (ftData, 7), (ftData, 8)], let f := frame e.1 0 e.2 0 0 0
        fCrc f = (frameCrc f.hdr f.pay).toNat ∧ k.malformed f = false) ∧
      k.locked = true ∧ k.isUp = true ∧ k.prot = false ∧ s.power.st ≠ .doze ∧ s.dozing = false ∧ k.rest = [] ∧ 2048 ≤ seqDist 7 6 ∧ seqDist 7 8 = 1 ∧ seqDist 7 7 = 0 ∧ k.orderOk (BitVec.ofNat 50 0) = true ∧ k.orderOk (BitVec.ofNat 50 1) = false ∧
      s.transitPort 0 2 0 = none ∧ s.transitPort 0 3 0 = none ∧
      (s.sortMsgs 0 0 (payloadMsgs (msgsPayload [ctlMsg ctHeartbeat 5 3 []]))).2 ≠ [] :=
  ⟨sound_of_plain (by decide +kernel) rfl, fun e h => frame_ok _ _ _ _ _ _ _ ((by decide +kernel : ∀ e ∈ [(ftIdle, 0), (ftData, 6), (ftData, 7), (ftData, 8)],
    ((heard fun k => { k with rxSeq := 7 }).lnk 0).malformed
      { hdr := fields 128 [(124, 4, e.1), (121, 3, 0), (109, 12, e.2), (97, 12, 0), (32, 50, 0)], pay := 0 } = false) e h), by decide +kernel⟩

/-- A `NAK` for the frame that was sent last. -/
theorem witness_FramesAreTakenOrDiscarded_goodFramesAreTaken_nak :
    let s := heard fun k => { k with txSeq := 1, replay := [{ hdr := 0, pay := 1 }] }
    let f := frame ftNak 0 0 0 0 0
    s.Sound ∧ (fCrc f = (frameCrc f.hdr f.pay).toNat ∧ (s.lnk 0).malformed f = false) ∧ (Link.takeFields f (s.lnk 0)).fruitless < 8 :=
  ⟨sound_of_plain (by decide +kernel) rfl, frame_ok _ _ _ _ _ _ _ (by decide +kernel), by
    unfold frame
    simp only [takeFields_seal]
    decide +kernel⟩

/-- A flit of group 3 comes in at port 0 and goes on at port 1: the first one of a contribution, over a reefed link. -/
theorem witness_FramesAreTakenOrDiscarded_goodFramesAreTaken_transit :
    let s := heard fun k => { k with st := .reefed, lanes := 1 }
    let s : State := { s with topo := { s.topo with
      links := s.topo.links ++ [(1, { phys := 1, spare := none, phy := 0, peer := 9, peerLlink := 0, prot := false, delay := 0, peerDie := 78 })]
      groups := s.topo.groups.map (fun (e : Nat × Group) =>
        if e.1 = 3 then (e.1, { e.2 with transits := [{ fnid := 66, txFnid := 64, input := 0, inPort := 0, outPort := 1 }] }) else e) } }
    let v : BitVec 50 := fields 50 [(38, 12, 3), (26, 12, 9), (18, 8, 1)]
    let f := frame ftData 2 0 0 v.toNat 0
    s.Sound ∧ (fCrc f = (frameCrc f.hdr f.pay).toNat ∧ (s.lnk 0).malformed f = false) ∧ s.transitPort 0 2 v = some 1 ∧ bit v 11 = false ∧ (s.lnk 0).orderOk v = true ∧
      (s.lnk 0).isUp = true ∧ (s.lnk 0).locked = true :=
  ⟨sound_of_plain (by decide +kernel) rfl, frame_ok _ _ _ _ _ _ _ (by decide +kernel), by decide +kernel⟩

/-- Port 0 in protected mode, with receive key slot 1 loaded. -/
def guarded : State := (heard fun k => { k with prot := true }).setKeySlot 0 1 1 { key := 5, salt := 6, ctr := 0, loaded := true }

/-- The tag of a block without frames: a good one and a bad one. -/
def tagFrame (good : Bool) : Frame :=
  let t := leNat (gcmTag 5 6 3 (blockAad []) (blockText []))
  frame ftGcmtag 0 0 0 0 (fields 512 [(0, 128, if good then t else t + 1), (128, 64, 3), (192, 1, 1)])

theorem witness_ProtectedBlocks :
    guarded.Sound ∧ (guarded.lnk 0).locked = true ∧ (guarded.lnk 0).isUp = true ∧ (guarded.lnk 0).rxBlock = [] ∧ (guarded.keySlot 0 1 1).loaded = true ∧
      (∀ g ∈ [true, false], let f := tagFrame g
        (fCrc f = (frameCrc f.hdr f.pay).toNat ∧ (guarded.lnk 0).malformed f = false) ∧ fType f = ftGcmtag ∧ bits f.pay 193 7 = 0 ∧ bits f.pay 208 304 = 0 ∧
        seqDist (guarded.lnk 0).rxSeq (fSeq f) = 0 ∧ bits f.pay 192 1 = 1 ∧ bits f.pay 128 64 = 3 ∧ bits f.pay 200 8 = (guarded.lnk 0).rxBlock.length ∧
        decide (gcmTag 5 6 3 (blockAad []) (blockText []) = leBytes 16 (bits f.pay 0 128)) = g) ∧
      guarded.power.st ≠ .doze ∧ guarded.dozing = false ∧ guarded.keyUse 0 1 % 2 ≠ 1 ∧ base.power.rail = true ∧ ({ base with power := { base.power with rail := false } } : State).power.rail = false ∧ guarded.keyUse 0 0 % 2 = 0 :=
  ⟨sound_of_plain (by decide +kernel) rfl, by decide +kernel, by decide +kernel, by decide +kernel, by decide +kernel, fun g _ =>
    ⟨frame_ok _ _ _ _ _ _ _ (by revert g; decide +kernel), by
      unfold tagFrame frame
      simp only [fType_seal, fSeq_seal, sealFrame_pay]
      revert g
      decide +kernel⟩, by decide +kernel⟩

/-- A tag frame with a reserved bit, and a `NAK` in protected mode. -/
theorem witness_ProtectedBlocks_others :
    (let f := frame ftGcmtag 0 0 0 0 (fields 512 [(193, 7, 1)])
     (fCrc f = (frameCrc f.hdr f.pay).toNat ∧ (guarded.lnk 0).malformed f = false) ∧ fType f = ftGcmtag ∧ bits f.pay 193 7 ≠ 0) ∧
      (let f := frame ftNak 0 0 0 0 0
       let s := heard fun k => { k with prot := true, txSeq := 1, replay := [{ hdr := 0, pay := 1 }] }
       s.Sound ∧ (fCrc f = (frameCrc f.hdr f.pay).toNat ∧ (s.lnk 0).malformed f = false) ∧ fType f = ftNak ∧ (s.lnk 0).prot = true ∧ (s.lnk 0).fruitless < 8) :=
  ⟨⟨frame_ok _ _ _ _ _ _ _ (by decide +kernel), by
      unfold frame
      simp only [fType_seal, sealFrame_pay]
      decide +kernel⟩, ⟨sound_of_plain (by decide +kernel) rfl, frame_ok _ _ _ _ _ _ _ (by decide +kernel), by
      unfold frame
      simp only [fType_seal]
      decide +kernel⟩⟩

/-- 80 blocks with the marker at the head of each super-block. -/
def marked : List (BitVec 257) := (List.range 80).map (fun i => if i % 20 = 0 then 1 else 0)

/-- A frame of link control. -/
def lcFrame (kind lanes : Nat) : Frame := frame ftLinkctl 0 0 0 0 (msgsPayload [fields 128 [(120, 8, kind), (117, 3, 2), (111, 2, lanes), (0, 64, 77)]])

theorem witness_LinksComeUpAndGoDown_linksComeUp :
    slow.Sound ∧ markersOk marked = true ∧ markersOk [] = false ∧ (heard id).Sound ∧
      (∀ e ∈ [(1, 0), (2, 0), (3, 1), (4, 1)], let f := lcFrame e.1 e.2
        (fCrc f = (frameCrc f.hdr f.pay).toNat ∧ ((heard id).lnk 0).malformed f = false) ∧ fType f = ftLinkctl ∧ controlOk f = true ∧
        lcKind (controlMsg f) = e.1 ∧ lcResume (controlMsg f) = false ∧ lcLanes (controlMsg f) = e.2) ∧
      (slow.lnk 0).st = .training ∧ slow.mh.cals.contains 0 = false ∧ (fleet.lnk 0).st = .down ∧
      (let s := slow.setLnk 0 { slow.lnk 0 with st := .retraining }
       (s.lnk 0).st = .retraining ∧ ({ s with mh := { s.mh with cals := [0] } } : State).mh.cals.contains 0 = true) ∧
      (∀ a ∈ [true, false], ∀ r ∈ [true, false], let k := (heard fun k => { k with st := .exchange, ackSent := a, resume := r }).lnk 0
        k.st = .exchange ∧ k.locked = true ∧ k.ackSent = a ∧ k.ackSeen = false ∧ k.resume = r ∧ k.txBlock = []) ∧ ((heard fun k => { k with txBlock := [{ hdr := 0, pay := 0 }] }).lnk 0).txBlock ≠ [] ∧
      (let k := (heard fun k => { k with lanes := 1 }).lnk 0
       k.st = .up ∧ k.isUp = true ∧ k.lanes = 1) :=
  ⟨sound_of_plain (by decide +kernel) rfl, by decide +kernel, by decide +kernel, sound_of_plain (by decide +kernel) rfl, fun e h => ⟨frame_ok _ _ _ _ _ _ _ ((by decide +kernel : ∀ e ∈ [(1, 0), (2, 0), (3, 1), (4, 1)],
    ((heard id).lnk 0).malformed { hdr := fields 128 [(124, 4, ftLinkctl), (121, 3, 0), (109, 12, 0), (97, 12, 0), (32, 50, 0)]
                                   pay := (lcFrame e.1 e.2).pay } = false) e h), by
      unfold lcFrame controlOk frame controlMsg
      simp only [fType_seal, sealFrame_pay]
      revert e
      decide +kernel⟩, by decide +kernel⟩

/-- `fleet`'s link with port 1 as its spare, both up. -/
def spared : State :=
  let s := heard id
  { s with topo := { s.topo with links := s.topo.links.map (fun (e : Nat × LinkDecl) => (e.1, { e.2 with spare := some 1 })) } }.setLnk 1
    { Link.reset 1 with st := .up, locked := true }

theorem witness_LinksComeUpAndGoDown_linksGoDown :
    spared.Sound ∧ spared.spareFor 0 = some 1 ∧ (heard id).spareFor 0 = none ∧ (∀ n ∈ [true, false], ((heard fun k => { k with nakOut := n }).lnk 0).nakOut = n) ∧
      (slow.lnk 0).isUp = false ∧
      (∀ n ∈ [7, 8], let k := (heard fun k => { k with replay := [{ hdr := 0, pay := 1 }], fruitless := n }).lnk 0
        k.isUp = true ∧ k.replay ≠ [] ∧ k.fruitless = n) ∧
      ((heard fun k => { k with locked := false }).lnk 0).locked = false ∧
      (let k := (heard fun k => { k with badLanes := [3] }).lnk 0
       k.badLanes ≠ [] ∧ k.lanes = 0 ∧ k.healthyPair = some 1 ∧ k.badLanes.contains 3 = true) ∧
      ((heard fun k => { k with badLanes := [0, 3] }).lnk 0).healthyPair = none ∧ ((heard fun k => { k with lanes := 1 }).lnk 0).lanes ≠ 0 ∧
      ((heard fun k => { k with lanes := 1 }).lnk 0).uses 2 = false ∧ ((heard id).lnk 0).badLanes.contains 2 = false ∧ ((heard id).lnk 0).uses 2 = true ∧
      ({ ((heard id).lnk 0) with badLanes := [2] } : Link).healthyPair = some 1 ∧ base.declOn 0 = none ∧ base.mh.linksDue = false ∧
      (let s := { fleet with mh := { fleet.mh with linksDue := true } }
       s.mh.linksDue = true ∧ (s.lnk 0).isUp = false ∧ (s.declOn 0).isSome = true) := ⟨sound_of_plain (by decide +kernel) rfl, by decide +kernel⟩

/-! ## Witnesses: control messages -/

/-- A control message at the head of VC0 of port 0. -/
def controlIn (type dst : Nat) (body : List (Nat × Nat × Nat)) : State := heard fun k => { k with rx0 := [[ctlMsg type 5 dst body]] }

theorem witness_LetFliesAndTakeovers_letFliesSpread :
    let s := controlIn ctLetFly everyChip [(74, 16, 9), (70, 4, 15), (69, 1, 1)]
    s.Sound ∧ takeFly ((heard id).lnk 0).rx0 = none ∧ (takeFly (s.lnk 0).rx0).isSome = true ∧ s.link.flySeen.contains (5, 9) = false ∧
      ({ s with link := { s.link with flySeen := [(5, 9)] } } : State).link.flySeen.contains (5, 9) = true ∧
      ((takeFly (s.lnk 0).rx0).any fun x => (ctSrc x.1, bits x.1 74 16) == (5, 9)) = true ∧ Fly.every.scope.testBit 3 = true ∧
      (after (.sum 0) (reduction 0x01 9 9)).ops.colls.any (fun c => Fly.every.selects c.ctx) = true :=
  ⟨sound_of_plain (by decide +kernel) rfl, by decide +kernel⟩

/-- Waiters on a word and on a channel, and a let-fly with the tell-tale scope and one without it. -/
theorem witness_LetFliesAndTakeovers_letFliesReleaseTheWaiters :
    let s := withTt base { TtState.reset with
      words := [(5, count 0 [waiting 1] [])]
      chans := [(2, { chanDefault 2 with st := .armed, ctx := 7, group := 1, waits := [{ pos := 1, phase := 1, top := 1, tmo := 0 }] })] }
    s.Sound ∧ s.units.paused = [] ∧ (s.word 5).waiters.length = 1 ∧ (s.chan 2).waits.length = 1 ∧ (s.port 1).rebinding = false ∧
      Fly.every.scope.testBit 2 = true ∧ ({ Fly.every with scope := 1 } : Fly).scope.testBit 2 = false :=
  ⟨withTt_sound base_sound (by decide +kernel) (by simp [Tbl.Rising]), by decide +kernel⟩

/-- `fleet` with a standby for its fold node, the other chip's or this one. -/
def sheltered (host standby : Nat) : State :=
  let s := controlIn ctTakeover 3 [(69, 21, 64)]
  { s with topo := { s.topo with groups := s.topo.groups.map (fun (e : Nat × Group) =>
    if e.1 = 3 then (e.1, { e.2 with folds := [{ node64 with host := host, standby := standby }] }) else e) } }

theorem witness_LetFliesAndTakeovers_standbysTakeOver :
    base.standbyChips = [] ∧ State.reset.topo.rigValid = false ∧ (sheltered 3 5).Sound ∧ (sheltered 3 5).topo.rigValid = true ∧ (sheltered 3 5).standbyChips = [5] ∧
      (sheltered 3 5).routeTo 5 = some 0 ∧
      (let s := controlIn ctHeartbeat 3 []
       (s.headMsg 0 0).any (fun m => s.topo.chip == ctDst m && ctType m == ctHeartbeat) = true) ∧
      ((sheltered 5 3).headMsg 0 0).any (fun m => ctType m == ctTakeover && ctDst m == 3 && bits m 69 21 == 64) = true ∧
      (sheltered 5 3).power.st ≠ .doze ∧ (sheltered 5 3).dozing = false ∧ (sheltered 5 3).topo.groups.any (fun e => e.2.folds.any (fun r => r.fnid == 64)) = true ∧
      base.topo.groups.any (fun e => e.2.folds.any (fun r => r.fnid == 64)) = false ∧ base.standbyFor 5 = [] ∧
      (sheltered 5 3).standbyFor 5 = [{ node64 with host := 5, standby := 3 }] :=
  ⟨by decide +kernel, by decide +kernel, sound_of_plain (by decide +kernel) rfl, by decide +kernel⟩

/-- A takeover of a node whose record is not here: one that feeds no node of this chip, and one of round 0 that feeds round 1 of the same level here. -/
theorem witness_LetFliesAndTakeovers_standbysTakeOver_above :
    let at5 := BitVec.ofNat 21 (1 <<< 9 ||| 5 <<< 6)
    let here : FoldRec := { node64 with fnid := BitVec.ofNat 21 (1 <<< 9 ||| 5 <<< 6 ||| 1 <<< 4) }
    let s : State := { base with topo := { base.topo with groups := [(1, { members := 1, nmemb := 2, nchip := 2, hops := 0, folds := [here], transits := [] })] } }
    base.parentInput at5 5 = none ∧ s.parentInput at5 5 = some (here, 0) ∧ s.topo.groups.any (fun e => e.2.folds.any (fun r => r.fnid == at5)) = false := by decide +kernel

theorem witness_LostChipsAndFaultReports_faultReportsAreHeard :
    (∀ e ∈ [(everyChip, 4), (everyChip, 5), (3, 0x41)], let s := controlIn ctFaultReport e.1 [(82, 8, e.2), (63, 16, 9), (79, 3, 0)]
      (s.headMsg 0 0).any (fun m => ctType m == ctFaultReport && ctDst m == e.1 && bits m 82 8 == e.2 && bits m 63 16 == 9) = true ∧
        s.link.repSeen.contains (5, 9) = false ∧ s.topo.rigValid = true ∧ s.topo.chip = 3) ∧
      (let s := controlIn ctFaultReport everyChip [(82, 8, 5), (63, 16, 9)]
       ({ s with link := { s.link with repSeen := [(5, 9)] } } : State).link.repSeen.contains (5, 9) = true) ∧
      (let m := ctlMsg ctFaultReport 5 3 [(82, 8, 0x41), (79, 3, 1)]
       base.reportHits m = [] ∧
        (let s := sheltered 5 3
         let t : State := { s with topo := { s.topo with groups := s.topo.groups.map (fun (e : Nat × Group) => (e.1, { e.2 with folds := e.2.folds.map (fun r => { r with out := 1 }) })) } }
         (t.reportHits m).length = 1)) := by decide +kernel

/-- Relay messages of chip 5, with what waits for them. -/
theorem witness_RelaysAreAnswered :
    (∀ e ∈ [(1, 0), (2, 0), (3, 5), (4, 0)], let s := controlIn ctRelay 3 [(82, 8, e.1), (0, 64, e.2)]
      (s.headMsg 0 0).any (fun m => ctType m == ctRelay && s.topo.chip == ctDst m && mrKind m == e.1 && decide (wordIndex (bits m 0 16) < 768) && ctSrc m == 5) = true ∧
        s.topo.rigValid = true) ∧
      (Relay.feedFrom 5 (.feed 0 5 { chip := 5, area := 0, len := 128, sameFeed := false }) = true) ∧
      (∀ parts ∈ [[], [1]], Relay.wordsFrom 5 (.words 0 5 5 0 1 parts) = true) ∧ ([] : List Word64).length + 1 < 2 * 1 ∧ [(1 : Word64)].length + 1 = 2 * 1 ∧
      fleet.mh.relay = [] := by decide +kernel
/-! ## Witness: `RESTORE` -/

theorem firstDeny_none {l : List Check} (h : ∀ c ∈ l, c.1 = false) : firstDeny l = none := by
  unfold firstDeny
  rw [List.find?_eq_none.mpr (fun c hc => by simp [h c hc]), Option.map_none]

/-- A record of zeros; that of a channel begins with its number. -/
def blankRec (t : Nat × Nat × Option Nat) (i : Nat) : Block := (if t.1 = 5 then BitVec.ofNat 8 i else 0) :: List.replicate (t.2.1 - 1) 0

/-- An image of such records, without contexts, waiters, ledger entries, operations and duplicate tables. -/
def blankSect (t : Nat × Nat × Option Nat) : Sect :=
  { type := t.1, rsize := t.2.1, recs := (List.range (t.2.2.getD 0)).map (blankRec t) }

def blankSects : List Sect := imageTypes.map blankSect

/-- The 60 covered bytes of its header: chip 3, number 1. -/
def blankStart : List Byte :=
  leBytes 4 0x58524C52 ++ ([1, 1] ++ (leBytes 2 10 ++ (leBytes 8 0 ++ (leBytes 2 3 ++ (leBytes 6 1 ++ (leBytes 8 0 ++ (leBytes 8 996544 ++ leBytes 20 0)))))))

def blankHead : List Byte := blankStart ++ leBytes 4 (crc32c blankStart).toNat

def blankImage : Block := blankHead ++ wholeSects blankSects

theorem blankSects_ok : ∀ x ∈ blankSects, x.Ok := by
  intro x hx
  simp only [blankSects, List.mem_map] at hx
  obtain ⟨t, ht, rfl⟩ := hx
  have hr : ∀ r ∈ (blankSect t).recs, r.length = (blankSect t).rsize := by
    intro r h
    simp only [blankSect, List.mem_map] at h ⊢
    obtain ⟨i, -, rfl⟩ := h
    rw [blankRec, List.length_cons, List.length_replicate]
    exact (by decide : ∀ t ∈ imageTypes, t.2.1 - 1 + 1 = t.2.1) t ht
  have hn : (blankSect t).recs.length = t.2.2.getD 0 := by rw [blankSect, List.length_map, List.length_range]
  have := (by decide : ∀ t ∈ imageTypes, t.1 < 256 ∧ t.2.1 < 65536 ∧ t.2.1 * t.2.2.getD 0 < 2 ^ 32 ∧ t.2.2.getD 0 < 2 ^ 32) t ht
  exact ⟨this.1, this.2.1, hn ▸ this.2.2.1, hn ▸ this.2.2.2, hr⟩

theorem blankStart_length : blankStart.length = 60 := by decide
theorem blankHead_length : blankHead.length = 64 := by simp [blankHead, blankStart_length]

theorem wholeSects_length {l : List Sect} (h : ∀ x ∈ l, x.Ok) : (wholeSects l).length = (l.map Sect.len).sum := by
  induction l with
  | nil => rfl
  | cons x l ih =>
    show (x.whole ++ wholeSects l).length = _
    rw [List.length_append, Sect.whole_length (h x (by simp)), ih (fun y hy => h y (by simp [hy])), List.map_cons, List.sum_cons]

theorem blankImage_length : blankImage.length = 996544 := by
  have h : blankSects.map Sect.len = imageTypes.map (fun t => sectLen t.2.1 (t.2.2.getD 0)) := by
    simp only [blankSects, List.map_map]
    apply List.map_congr_left
    intro t _
    simp [Sect.len, blankSect]
  rw [blankImage, List.length_append, blankHead_length, wholeSects_length blankSects_ok, h]
  decide

/-- A number in the covered part of the header. -/
theorem blank_nat (o n : Nat) (h : o + n ≤ 60) : blankImage.nat o n = Block.nat blankStart o n := by
  rw [blankImage, blankHead, List.append_assoc]
  exact nat_front _ _ (by rw [blankStart_length]; exact h)

/-- Zeros in the covered part of the header. -/
theorem blank_zero (o n : Nat) (h : o + n ≤ 60) : blankImage.zero o n = Block.zero blankStart o n := by
  rw [Block.zero, Block.zero, blankImage, blankHead, List.append_assoc, List.drop_append_of_le_length (by rw [blankStart_length]; omega),
    List.take_append_of_le_length (by rw [List.length_drop, blankStart_length]; omega)]

theorem blank_crc : blankImage.nat 60 4 = (crc32c (blankImage.take 60)).toNat := by
  have h1 : blankImage.take 60 = blankStart := by
    rw [blankImage, blankHead, List.append_assoc, ← blankStart_length, List.take_left]
  have h2 := nat_behind blankStart (wholeSects blankSects) (n := 4) (BitVec.isLt (crc32c blankStart))
  rw [blankStart_length] at h2
  rw [h1, blankImage, blankHead, List.append_assoc, h2]

theorem blank_section (i : Nat) (t : Nat × Nat × Option Nat) (hi : imageTypes[i]? = some t) :
    (∀ c ∈ Block.secChecks blankImage i t, c.1 = false) ∧ blankImage.secRecs i = (blankSect t).recs :=
  section_of_image blankHead_length blankSects_ok (x := blankSect t) (by simp [blankSects, hi]) t rfl rfl (by
    have := (by decide : ∀ t ∈ imageTypes, t.2.2.any (fun k => t.2.2.getD 0 != k) = false) t (List.mem_of_getElem? hi)
    simpa [blankSect] using this)

theorem blank_end : blankImage.secOfs 10 = blankImage.length := by
  have h := secOfs_image blankHead_length blankSects_ok 10 (by decide)
  rw [blankImage, h, before]
  rfl

theorem blank_form : ∀ c ∈ blankImage.imageChecks 1, c.1 = false := by
  intro c hc
  simp only [Block.imageChecks, List.mem_append, List.mem_flatMap] at hc
  rcases hc with (hc | ⟨e, he, hc⟩) | hc
  · simp only [blank_crc, blank_nat 0 4 (by decide), blank_nat 4 1 (by decide), blank_nat 5 1 (by decide), blank_nat 32 8 (by decide),
      blank_nat 18 6 (by decide), blank_nat 6 2 (by decide), blankImage_length,
      blank_zero 24 8 (by decide), blank_zero 44 16 (by decide)] at hc
    simp only [List.mem_cons, List.not_mem_nil, or_false] at hc
    rcases hc with rfl | rfl | rfl | rfl | rfl | rfl | rfl | rfl | rfl
    all_goals first | (simp [invalidAt]; done) | decide +kernel
  · obtain ⟨t, i⟩ := e
    have := List.mk_mem_zipIdx_iff_getElem?.mp he
    exact (blank_section i t this).1 c hc
  · simp only [List.mem_singleton] at hc
    simp [hc, invalidAt, blank_end]

/-- The records of a section are those of its blank. -/
theorem blank_record {t : Nat × Nat × Option Nat} {e : Block × Nat} (h : e ∈ (blankSect t).recs.zipIdx) : e.1 = blankRec t e.2 ∧ e.2 < t.2.2.getD 0 := by
  obtain ⟨r, i⟩ := e
  have := List.mk_mem_zipIdx_iff_getElem?.mp h
  simp only [blankSect, List.getElem?_map, Option.map_eq_some_iff] at this
  obtain ⟨j, hj, rfl⟩ := this
  obtain ⟨hi, rfl⟩ := List.getElem?_eq_some_iff.mp hj
  simp only [List.getElem_range, List.length_range] at hi ⊢
  exact ⟨trivial, hi⟩

/-- Tests of the records of a section that its blank passes: all of its records are the first one, but for channels. -/
theorem blank_tests {check : Bool → Nat → Nat → Check} (hc : ∀ x y, (check false x y).1 = false) {i : Nat} {t : Nat × Nat × Option Nat}
    {f : Nat → Block → List (Bool × Nat)} (hi : imageTypes[i]? = some t) (h : ∀ j, j < t.2.2.getD 0 → ∀ x ∈ f j (blankRec t j), x.1 = false) :
    ∀ c ∈ blankImage.recordTests check i f, c.1 = false := by
  intro c hm
  simp only [Block.recordTests, (blank_section i t hi).2, List.mem_flatMap, List.mem_map] at hm
  obtain ⟨e, he, x, hx, rfl⟩ := hm
  obtain ⟨h1, h2⟩ := blank_record he
  rw [h1] at hx
  rw [h _ h2 x hx]
  exact hc _ _

theorem blankRec_zero {t : Nat × Nat × Option Nat} (h : t.1 ≠ 5) (j : Nat) : blankRec t j = blankRec t 0 := by simp [blankRec, h]

theorem blank_rsv : ∀ c ∈ blankImage.imageRsv, c.1 = false := by
  have v : ∀ x y, (invalidAt false x y).1 = false := fun _ _ => rfl
  intro c hc
  simp only [Block.imageRsv, List.mem_append, or_assoc] at hc
  rcases hc with h | h | h | h | h | h | h | h | h
  · exact blank_tests v (t := (0x02, 176, none)) rfl (fun j hj => absurd hj (by simp)) c h
  · refine blank_tests v (t := (0x03, 8, some 49152)) rfl (fun j _ => ?_) c h
    rw [blankRec_zero (by decide)]
    decide +kernel
  · exact blank_tests v (t := (0x04, 16, none)) rfl (fun j hj => absurd hj (by simp)) c h
  · exact blank_tests v (t := (0x05, 160, some 64)) rfl (by decide +kernel) c h
  · exact blank_tests v (t := (0x06, 32, some 64)) rfl (by decide +kernel) c h
  · exact blank_tests v (t := (0x07, 32, none)) rfl (fun j hj => absurd hj (by simp)) c h
  · refine blank_tests v (t := (0x08, 576, some 1024)) rfl (fun j _ => ?_) c h
    rw [blankRec_zero (by decide)]
    decide +kernel
  · exact blank_tests v (t := (0x09, 80, none)) rfl (fun j hj => absurd hj (by simp)) c h
  · exact blank_tests v (t := (0x0A, 264, none)) rfl (fun j hj => absurd hj (by simp)) c h

theorem blank_ranges : ∀ c ∈ blankImage.imageRanges, c.1 = false := by
  have v : ∀ x y, (rangeAt false x y).1 = false := fun _ _ => rfl
  intro c hc
  simp only [Block.imageRanges, List.mem_append, or_assoc] at hc
  rcases hc with h | h | h | h | h | h | h
  · exact blank_tests v (t := (0x02, 176, none)) rfl (fun j hj => absurd hj (by simp)) c h
  · exact blank_tests v (t := (0x04, 16, none)) rfl (fun j hj => absurd hj (by simp)) c h
  · exact blank_tests v (t := (0x06, 32, some 64)) rfl (by decide +kernel) c h
  · exact blank_tests v (t := (0x07, 32, none)) rfl (fun j hj => absurd hj (by simp)) c h
  · refine blank_tests v (t := (0x08, 576, some 1024)) rfl (fun j _ => ?_) c h
    rw [blankRec_zero (by decide)]
    decide +kernel
  · exact blank_tests v (t := (0x09, 80, none)) rfl (fun j hj => absurd hj (by simp)) c h
  · exact blank_tests v (t := (0x0A, 264, none)) rfl (fun j hj => absurd hj (by simp)) c h

/-- `calm` with the image at 0x10000, and a `RESTORE` of it. -/
def restoring : State :=
  mail (withMem calm (Memory.writeN [] 0x10000 blankImage)) 0x21 (leBytes 6 1 ++ leBytes 2 0 ++ leBytes 8 0x10000 ++ leBytes 4 996544 ++ leBytes 4 0)

theorem mail_mem (s : State) (code : Nat) (body : List Byte) : (mail s code body).mem = s.mem := rfl
theorem withMem_mem (s : State) (m : List Host.Cell) : (withMem s m).mem = m := rfl
theorem mail_sound {s : State} (h : s.Sound) (code : Nat) (body : List Byte) : (mail s code body).Sound := { h with ring_up := h.ring_up }

theorem restoring_image : load restoring 0x10000 996544 = blankImage := by
  have h := Memory.readN_writeN 0x10000 blankImage (m := []) rfl
  rw [blankImage_length] at h
  rw [load, restoring, mail_mem, withMem_mem]
  exact h

theorem blank_blocks : blankImage.blocksHeld = 0 := by
  rw [Block.blocksHeld, (blank_section 5 (0x06, 32, some 64) rfl).2]
  decide +kernel

theorem witness_RestoreBringsBack : restoring.Sound ∧ restoring.Passes 0 0x21 anyCmd (fun _ => 24) State.restoreChecks := by
  refine ⟨?_, by decide +kernel, by decide +kernel, by decide +kernel, firstDeny_none ?_⟩
  · exact mail_sound (withMem_sound (sound_of_plain (by decide +kernel) rfl) (Memory.writeN_wf _ _ rfl)) _ _
  · have a : rtAddr (restoring.slotCmd 0) = 0x10000 := by decide +kernel
    have n : rtLen (restoring.slotCmd 0) = 996544 := by decide +kernel
    have k : (restoring.slotCmd 0).nat 16 6 = 1 := by decide +kernel
    intro c hc
    rcases List.mem_append.mp hc with hc | hc
    · exact (by decide +kernel : ∀ c ∈ restoring.commonChecks (restoring.slotCmd 0) 24, c.1 = false) c hc
    · have form : ∀ c ∈ [invalid (!(restoring.slotCmd 0).zero 22 2) 22, invalid (0x10000 % 64 != 0) 24, invalid (!(restoring.slotCmd 0).zero 36 4) 36,
          outOfRange (decide (memEnd < 0x10000 + 996544)) 24], c.1 = false := by decide +kernel
      have whole : ∀ c ∈ [invalid (!(restoring.slotCmd 0).zero 22 2) 22, invalid (0x10000 % 64 != 0) 24, invalid (!(restoring.slotCmd 0).zero 36 4) 36,
          outOfRange (decide (memEnd < 0x10000 + 996544)) 24] ++ blankImage.imageChecks 1, c.1 = false :=
        fun c hc => (List.mem_append.mp hc).elim (form c) (blank_form c)
      have records : ∀ c ∈ [invalid (!(restoring.slotCmd 0).zero 22 2) 22, invalid (0x10000 % 64 != 0) 24, invalid (!(restoring.slotCmd 0).zero 36 4) 36,
          outOfRange (decide (memEnd < 0x10000 + 996544)) 24] ++ blankImage.imageChecks 1 ++ blankImage.imageRsv ++ blankImage.imageRanges, c.1 = false :=
        fun c hc => (List.mem_append.mp hc).elim (fun hc => (List.mem_append.mp hc).elim (whole c) (blank_rsv c)) (blank_ranges c)
      simp only [State.restoreChecks, a, n, k, restoring_image, firstDeny_none form, firstDeny_none whole, firstDeny_none records, Option.isSome_none, Bool.false_eq_true,
        if_false, blank_blocks, Nat.mul_zero, (blank_section 1 (0x02, 176, none) rfl).2, blank_nat 16 2 (by decide)] at hc
      rcases List.mem_append.mp hc with hc | hc
      · rcases List.mem_append.mp hc with hc | hc
        · rcases List.mem_append.mp hc with hc | hc
          · exact records c hc
          · simp only [List.mem_cons, List.not_mem_nil, or_false] at hc
            rcases hc with rfl | rfl
            · dsimp only
              decide +kernel
            · exact (by decide +kernel : (Block.nat blankStart 16 2 != restoring.topo.chip) = false)
        · simp [blankSect] at hc
      · simp only [List.mem_cons, List.not_mem_nil, or_false] at hc
        rw [hc]
        exact (by decide +kernel : (restoring.portsBusy || !restoring.untagged) = false)

/-- A recorded context, bound here, and a channel that is not unbound. -/
theorem witness_RestoreBringsBack_restoreFillsContextsAndChannels :
    ((blankImage.secRecs 1).map (fun r => Block.nat r 0 2)).Nodup ∧
      (let r : Block := leBytes 2 9 ++ List.replicate 174 0
       [Block.nat r 0 2].Nodup ∧ (fleet.binding (Block.nat r 0 2)).any (fun b => (fleet.group b.group).isSome) = true) ∧
      (let r : Block := [3, 1, 0, 0, 0, 0, 0, 0] ++ leBytes 2 9 ++ List.replicate 150 0
       Block.nat r 1 1 ≠ 0 ∧ (fleet.binding (Block.nat r 8 2)).any (fun b => (fleet.group b.group).isSome) = true) :=
  ⟨by rw [(blank_section 1 (0x02, 176, none) rfl).2]; decide, by decide +kernel⟩

/-- Held operations: none, and a receive of another port. -/
theorem witness_RestoreBringsBack_restoreFillsLedgerAndPorts :
    (∀ h ∈ blankImage.secRecs 8, dOpcode (descOf (h.drop 16)) = 0x32 ∧ Block.nat h 0 2 ≠ 0) ∧
      (let h : Block := leBytes 2 1 ++ List.replicate 14 0 ++ (0x32 :: List.replicate 63 0)
       dOpcode (descOf (h.drop 16)) = 0x32 ∧ Block.nat h 0 2 ≠ 0) := by
  refine ⟨fun h hm => ?_, by decide +kernel⟩
  rw [(blank_section 8 (0x09, 80, none) rfl).2] at hm
  exact absurd hm (by simp [blankSect])
/-! ## Witness: topology commands -/

/-- The block of group 0 on a chip that is alone: its 1,024 endpoints, and no records. -/
def aloneGroup : Block := List.replicate 128 0xFF ++ (leBytes 4 1024 ++ (leBytes 2 1 ++ List.replicate 58 0))

/-- A topology block of chip 0 alone, without links. -/
def topoBlock : Block := List.replicate 320 0 ++ ((1 :: List.replicate 4095 0) ++ (List.replicate 32768 0 ++ aloneGroup))

/-- An idle chip with the block at 0x10000, and a `TOPO_SET` of it. -/
def placing : State :=
  mail (withMem { calm with mh := { calm.mh with st := .idle } } (Memory.writeN [] 0x10000 topoBlock)) 0x10 (leBytes 8 0x10000 ++ leBytes 4 37376 ++ leBytes 4 0)

theorem topoBlock_length : topoBlock.length = 37376 := by
  simp only [topoBlock, aloneGroup, List.length_append, List.length_cons, List.length_replicate, leBytes_length]

theorem topoBlock_group : topoBlock.drop topoHead = aloneGroup := by
  have : topoBlock = (List.replicate 320 0 ++ ((1 :: List.replicate 4095 0) ++ List.replicate 32768 0)) ++ aloneGroup := by
    simp only [topoBlock, List.append_assoc]
  rw [this, List.drop_left' (by simp only [List.length_append, List.length_cons, List.length_replicate]; rfl)]

theorem topoBlock_presence : topoBlock.presence = (1, 0) :: (List.replicate 4095 0).zipIdx 1 := by
  rw [Block.presence, topoBlock, List.drop_left' List.length_replicate,
    List.take_left' (by simp only [List.length_cons, List.length_replicate]), List.zipIdx_cons]

theorem topoBlock_routeBytes : topoBlock.routeBytes = (List.replicate 32768 0).zipIdx := by
  have : topoBlock = (List.replicate 320 0 ++ (1 :: List.replicate 4095 0)) ++ (List.replicate 32768 0 ++ aloneGroup) := by
    simp only [topoBlock, List.append_assoc]
  rw [Block.routeBytes, this, List.drop_left' (by simp only [List.length_append, List.length_cons, List.length_replicate]),
    List.take_left' List.length_replicate]

theorem zero_of_mem {n k : Nat} {e : Byte × Nat} (h : e ∈ (List.replicate n (0 : Byte)).zipIdx k) : e.1 = 0 :=
  List.eq_of_mem_replicate (List.fst_mem_of_mem_zipIdx h)

theorem topoBlock_present : topoBlock.present = [0] := by
  rw [Block.present, topoBlock_presence, List.filter_cons_of_pos (by decide), List.filter_eq_nil_iff.mpr (fun e h => by simp [zero_of_mem h])]
  decide

theorem topoBlock_routes : topoBlock.routes = [] := by
  rw [Block.routes, topoBlock_routeBytes, List.filter_eq_nil_iff.mpr (fun e h => by rw [zero_of_mem h]; decide), List.map_nil]

theorem topoBlock_routeForms : ∀ c ∈ topoBlock.routeBytes.map (fun e => invalidAt (bits e.1 3 4 != 0 || (!bit e.1 7 && e.1 != 0#8)) 16 (4416 + e.2)), c.1 = false := by
  intro c h
  rw [topoBlock_routeBytes, List.mem_map] at h
  obtain ⟨e, he, rfl⟩ := h
  rw [zero_of_mem he]
  rfl

theorem placing_mem : placing.mem = Memory.writeN [] 0x10000 topoBlock := by rw [placing, mail_mem, withMem_mem]

theorem placing_block : load placing 0x10000 37376 = topoBlock := by
  have h := Memory.readN_writeN 0x10000 topoBlock (m := []) rfl
  rw [topoBlock_length] at h
  rw [load, placing_mem]
  exact h

theorem placing_records : loadNat placing (0x10000 + topoHead + 135) 1 = 0 := by
  have h := congrArg (fun l => Block.nat l (topoHead + 135) 1) placing_block
  have e : Block.nat topoBlock (topoHead + 135) 1 = 0 := by
    have := topoBlock_group
    rw [Block.nat, ← List.drop_drop, this]
    decide
  rw [← e, ← h]
  have r (s : State) (a n o : Nat) (ho : o < n) : loadNat s (a + o) 1 = Block.nat (load s a n) o 1 := by
    have : ((List.range n).drop o).take 1 = [o] := by
      rw [List.drop_eq_getElem_cons (by simpa using ho)]
      simp
    simp [loadNat, load, Memory.readN, Block.nat, ← List.map_drop, ← List.map_take, this]
  exact r placing 0x10000 37376 (topoHead + 135) (by decide)

theorem topo_ok : ∀ c ∈ placing.topoChecks topoBlock 16, c.1 = false := by
  have l : topoBlock.links = [] := by decide +kernel
  intro c hc
  simp only [State.topoChecks, topoBlock_group, topoBlock_present, l, topoBlock_routes, List.mem_append, or_assoc] at hc
  rcases hc with h | h | h | h
  · exact (by decide +kernel : ∀ c ∈ [invalidAt (!topoBlock.zero 2 62) 16 2], c.1 = false) c h
  · exact (by decide +kernel : ∀ c ∈ (List.range 8).flatMap (topoBlock.linkForm 16), c.1 = false) c h
  · exact topoBlock_routeForms c h
  · simp only [← List.mem_append] at h
    revert c
    decide +kernel

/-- The checks of a `TOPO_SET` whose block passes. -/
theorem topoSet_passes {s : State} {c : Cmd} {a n : Nat} {b : Block} (ha : c.nat 16 8 = a) (hn : c.nat 24 4 = n) (hz : c.zero 28 4 = true) (hm : a % 64 = 0)
    (hr : a + n ≤ memEnd ∧ a + topoHead + 192 ≤ memEnd) (hl : n = s.topoLength a) (hb : load s a n = b) (hk : ∀ x ∈ s.topoChecks b 16, x.1 = false)
    (hu : s.unbound = true ∧ s.untagged = true) : ∀ x ∈ s.topoSetChecks c, x.1 = false := by
  have form : ∀ x ∈ [invalid (a % 64 != 0) 16, invalid (!c.zero 28 4) 28, outOfRange (decide (memEnd < a + n) || decide (memEnd < a + topoHead + 192)) 16,
      invalid (n != s.topoLength a) 24], x.1 = false := by
    intro x hx
    simp only [List.mem_cons, List.not_mem_nil, or_false] at hx
    rcases hx with rfl | rfl | rfl | rfl
    · simp [invalid, hm]
    · simp [invalid, hz]
    · simp [outOfRange, hr]
    · simp [invalid, hl]
  intro x hx
  rw [State.topoSetChecks, ha, hn] at hx
  simp only [firstDeny_none form, Option.isSome_none, Bool.false_eq_true, if_false, hb] at hx
  rcases List.mem_append.mp hx with hx | hx
  · exact (List.mem_append.mp hx).elim (form x) (hk x)
  · rw [List.mem_singleton.mp hx]
    simp [wrongState, hu]

theorem witness_TopologyCommands :
    (mail base 0x11 []).Passes 0 0x11 anyCmd (fun _ => 0) noChecks ∧ placing.Passes 0 0x10 anyCmd (fun _ => 16) State.topoSetChecks :=
  ⟨by decide +kernel, by decide +kernel, by decide +kernel, by decide +kernel, firstDeny_none (fun c hc => (List.mem_append.mp hc).elim
    ((by decide +kernel : ∀ c ∈ placing.commonChecks (placing.slotCmd 0) 16, c.1 = false) c)
    (topoSet_passes (a := 0x10000) (n := 37376) (by decide +kernel) (by decide +kernel) (by decide +kernel) (by decide) (by decide)
      (by rw [State.topoLength, placing_records]; rfl) placing_block topo_ok (by decide +kernel) c))⟩

/-- A topology whose one link is down, and one without links. -/
theorem witness_TopologyCommands_complete :
    (fleet.badLink fleet.topo.links).isSome = true ∧ fleet.badLink base.topo.links = none ∧
      (∀ x ∈ [fleet.topo, base.topo], let s := { fleet with mh := { fleet.mh with long := some { kind := .topo x, slot := 0, seq := 5, cmd := 0x10 } } }
        s.mh.long = some { kind := .topo x, slot := 0, seq := 5, cmd := 0x10 }) := by decide +kernel

/-! ## Witnesses: arithmetic -/

theorem witness_ShortConversionsSaturate : ∀ f ∈ [Fmt.kf16, .kf8e4, .kf8e5, .kf4, .kf3], 0 < 1 ∧ f.maxval * 1 < f.maxval + 1 ∧ f.maxval = f.maxval * 1 := by decide

/-- A source that rounds to zero, one that does not, and one that is in range. -/
theorem witness_ShortConversionsFlush :
    ((∃ q, Fmt.kf4.value (toShort .kf4 .rne (.fin true 1 1024)).1 = .zero q) ∧ (∀ q, Fmt.kf4.value (toShort .kf4 .rne (.fin true 1 1)).1 ≠ .zero q)) ∧
      1 ≤ Fmt.kf4.maxval * 1 :=
  ⟨⟨⟨false, by decide +kernel⟩, by decide +kernel⟩, by decide⟩

theorem witness_IntegerSumsAreExact :
    (let l : List (Nat × List Elem) := [(0, [.int 5 0]), (3072, [.int (-7) 3072])]
     l ≠ [] ∧ ∀ e ∈ l, e.1 < 2 ^ 25 ∧ e.2.length = 1 ∧ ∀ x ∈ e.2, ∃ v q, x = .int v q) ∧
      Fmt.i8.isInt = true ∧ Fmt.i8.intMin ≤ 127 ∧ (127 : Int) ≤ Fmt.i8.intMax ∧ Fmt.i8.intMax < 128 ∧ -129 < Fmt.i8.intMin := by
  refine ⟨⟨by decide, ?_⟩, by decide⟩
  intro e he
  simp only [List.mem_cons, List.not_mem_nil, or_false] at he
  rcases he with rfl | rfl <;> refine ⟨by decide, rfl, ?_⟩ <;> intro x hx <;> simp only [List.mem_singleton] at hx <;> exact ⟨_, _, hx⟩

theorem witness_SlotsAreNotShared :
    let side := [some 0, none, some 0]
    side[0]? = some (some 0) ∧ side[2]? = some (some 0) ∧ (slotsOf (fun _ => 4) side)[0]? = some (some 4) ∧ 1 < (side.filter (fun x => x = some 0)).length ∧ 0 < 8 := by
  decide

/-- A list of candidates of which one is a NaN. -/
theorem witness_ExpertsAreSelectedByRank :
    let xs := [0x3F800000, 0x7FC00000, 0x40000000]
    (0 < xs.length ∧ Fmt.f32.isNan (nth 0 xs 0) = false) ∧ Fmt.f32.isNan (nth 0 xs 1) = true ∧ selectExperts xs 0 2 false = [some 2, some 0] := by decide +kernel

/-- A shape of `SUM` in F32 with an opcode and a `SCANOP`. -/
def shape (op scanop : Nat) : Shape :=
  { op := op, ifmt := .f32, ofmt := .f32, xfmt := .f32, prec := 1, rm := .rne, scanop := scanop, nelem := 1, flag := true, tile := false, widen := false, thr := 0
    nexp := 0, k2 := false }

theorem witness_TreeFlitsAreFolded_foldsTakeFourInOrder :
    [1, 2, 3].length ≤ 3 ∧ 4 < [1, 2, 3, 4, 5].length ∧ gathers (shape 1 0) = false ∧
      [{ partialOf 1 with vals := none }].all (fun m => m.vals.isNone) = true := by decide +kernel

theorem witness_TreeFlitsAreFolded_treesFollowTheRigIndex :
    let l : List (Nat × List Elem) := [(3, [.int 1 3]), (7, [.int 2 7])]
    (l.map (·.1)).Nodup ∧ l ≠ [] ∧ (∀ j ∈ [4, 9, 10, 14, 19, 25], ∀ e ∈ l, ∀ e' ∈ l, e.1 >>> j = e'.1 >>> j) ∧ l.Perm l.reverse ∧ [(3, [Elem.int 1 3])] = [(3, [Elem.int 1 3])] := by
  decide +kernel

theorem witness_IntegerSumsAreExact_orderedStepsFollowTheTable :
    ((∀ o ∈ [0x01, 0x02, 0x03, 0x0E, 0x0F, 0x04, 0x05, 0x06, 0x07, 0x08, 0x09, 0x0A, 0x0B, 0x0C, 0x0D, 0x10], (shape o 0).op = o) ∧
        (∀ k ∈ [0, 1, 2], (shape 0x0E k).scanop = k)) ∧
      (∀ f ∈ [Fmt.f32, .f64], f.isNan f.defaultNan = true ∧ f.isNan 0 = false ∧ (let i := (toIeee f .rne (.inf false)).1
        f.isInf i = true ∧ f.isNan i = false ∧ i ≠ ieeeNeg f i ∧ f.isInf (ieeeNeg f i) = true ∧ ieeeNeg f i < 2 ^ f.width) ∧
        (let one := (toIeee f .rne (.fin false 1 1)).1
         f.isInf one = false ∧ f.isNan one = false ∧ one % f.signBit ≠ 0 ∧ 0 % f.signBit = 0 ∧ ieeeNeg f (ieeeNeg f one) = one)) := by decide +kernel

theorem witness_IntegerSumsAreExact_extremaAreOrderFree :
    let l := [(3, 0x3F800000), (7, 0x80000000), (9, 0x7FC00000)]
    l ≠ [] ∧ (l.map (·.1)).Nodup ∧ (∀ e ∈ l, e.1 < 2 ^ 25 ∧ e.2 < 2 ^ Fmt.f32.width) ∧ (∀ e ∈ l.take 2, Fmt.f32.isNan e.2 = false) ∧
      (∃ e ∈ l, Fmt.f32.isNan e.2 = false) ∧ 2 ≤ l.length ∧ ((9, 0x7FC00000) ∈ l ∧ Fmt.f32.isNan 0x7FC00000 = true ∧ ∀ x ∈ l, Fmt.f32.isNan x.2 = true → 9 ≤ x.1) := by
  decide +kernel

/-- Finite contributions; with a NaN; with both infinities, with one of either, and zeros alone. -/
theorem witness_IntegerSumsAreExact_orderFreeSums :
    (let cs := [0x3F800000, 0x80000000]
     (∀ c ∈ cs, c < 2 ^ 32 ∧ Fmt.f32.isNan c = false ∧ Fmt.f32.isInf c = false) ∧ ∃ c ∈ cs, c % 2 ^ 31 ≠ 0) ∧
      (∀ l ∈ [[(3, 0x3F800000), (7, 0x7FC00000)], [(3, 0x7F800000), (7, 0xFF800000)], [(3, 0x7F800000)], [(3, 0xFF800000)], [(3, 0), (7, 0x80000000)]],
        l ≠ [] ∧ (l.map (·.1)).Nodup ∧ ∀ e ∈ l, e.1 < 2 ^ 25 ∧ e.2 < 2 ^ 32) := by decide +kernel

theorem witness_IntegerSumsAreExact_scansAreFoldsOfPrefixes :
    let l : List (Nat × List Elem) := [(3, [.flt 0x3F800000 3]), (7, [.flt 0x40000000 7])]
    (l.map (·.1)).Pairwise (· < ·) ∧ (∀ o ∈ [0x0E, 0x0F], ∀ k ∈ [0, 1, 2], 0 < (shape o k).nelem ∧ (∀ e ∈ l, e.2.length = (shape o k).nelem ∧ ∀ v ∈ e.2, elemPos v = e.1) ∧
      (shape o k).scanop = k ∧ (shape o k).ifmt.isInt = false ∧ (shape o k).ofmt = .f32) ∧ l.filter (fun e => decide (e.1 < 3)) = [] ∧
      (let y := { shape 0x0E 1 with ifmt := .i8, ofmt := .i8 }
       y.ifmt = y.ofmt ∧ y.ifmt.isInt = true) := by decide +kernel

theorem witness_IntegerSumsAreExact_sparseSumsCountTheirMembers :
    (shapeOf (definingOf ((desc (2 ||| 9 <<< 8 ||| 9 <<< 13 ||| 7 <<< 32 ||| 1 <<< 44) 5 0 0 0x2000 0x3000 0 0).slotDesc 0))).op = 0x02 ∧
      (∀ b ∈ [true, false], ∃ q1, dSpAbsent ((desc 2 q1 0 0 0 0 0 0).slotDesc 0) = b) ∧ (shape 2 0).op = 0x02 := by
  refine ⟨by decide +kernel, fun b hb => ?_, by decide +kernel⟩
  simp only [List.mem_cons, List.not_mem_nil, or_false] at hb
  rcases hb with rfl | rfl
  · exact ⟨1 <<< 34, by decide +kernel⟩
  · exact ⟨0, by decide +kernel⟩

theorem witness_ExpertsAreSelectedByRank_softmaxMerges :
    (0x42B20000 ≤ 0x42B20000 ∧ 0x42B20000 < 0x7F800000) ∧ (0xC2D00000 ≤ 0xC2D00000 ∧ 0xC2D00000 < 0xFF800000) ∧ Fmt.f32.isNan 0x7FC00000 = true ∧
      (Fmt.f32.isNan 0x3F800000 = false ∧ Fmt.f32.isInf 0x3F800000 = false ∧ 0x3F800000 ≠ 0xFF800000 ∧ 0x3F800000 % 2 ^ 31 ≠ 0) ∧
      Fmt.f32.isInf (Fmt.f32.greater 0x3F800000 0x40000000) = false := by decide +kernel

theorem witness_IntegerSumsAreExact_narrowSumsAreScaled :
    (∀ q ∈ [Fmt.kf8e4, .kf4], nsFormat q = true) ∧ 2 ≤ 2 ^ 25 ∧ 0x40000000 < 0x7F800000 ∧ 0xBF800000 % 2 ^ 31 ≤ 0x40000000 ∧ 0x80000000 % 2 ^ 31 = 0 ∧
      0x7F800000 ≤ 0xFF800000 % 2 ^ 31 ∧
      (∀ l ∈ [[(3, sentinel), (7, 5)], [(3, (-4 : Int)), (7, 5)]], l ≠ [] ∧ (l.map (·.1)).Nodup ∧ (∀ e ∈ l, e.1 < 2 ^ 25)) ∧
      sentinel ∉ [(-4 : Int), 5] ∧ ([(-4 : Int), 5].map Int.natAbs).sum < 2 ^ 31 ∧ (5 : Int) ≠ sentinel ∧ (0 : Int) ≠ sentinel := by decide +kernel

/-- A finite greatest score and an infinite one; sides kept, dropped and not valid. -/
theorem witness_SlotsAreNotShared_gatesAreWeighed :
    (∀ xs ∈ [[0x3F800000, 0x7FC00000, 0x40000000], [0x7F800000, 0, 0x7F800000]], (∀ x ∈ xs, x < 2 ^ 32) ∧
      (∀ e, some e ∈ [some 2, none, some 0] → e < xs.length ∧ Fmt.f32.isNan (nth 0 xs e) = false) ∧ [some 2, none, some 0].Nodup ∧
      (let m := nth 0 xs 2
       m ∈ [2, 0].map (nth 0 xs) ∧ ∀ e ∈ [2, 0], Fmt.f32.rank (nth 0 xs e) ≤ Fmt.f32.rank m)) ∧
      Fmt.f32.isInf 0x40000000 = false ∧ Fmt.f32.isInf 0x7F800000 = true ∧
      (let x := sideOf (some 2) (some 0) 2 0x3F2AAAAB
       let y := sideOf (some 5) (some 2) 2 0x3EAAAAAB
       x.valid = true ∧ x.drop = false ∧ y.drop = true ∧ y.valid = false ∧ x.w ≠ 0 ∧ x.w ≠ 0x80000000 ∧ y.w = 0) := by
  refine ⟨fun xs h => ?_, by decide +kernel⟩
  simp only [List.mem_cons, List.not_mem_nil, or_false] at h
  rcases h with rfl | rfl <;> refine ⟨by decide, fun e he => ?_, by decide +kernel⟩ <;>
    · simp only [List.mem_cons, List.not_mem_nil, or_false, Option.some.injEq, reduceCtorEq, false_or] at he
      rcases he with rfl | rfl <;> decide

/-! ## Witnesses: the queue and the records -/

theorem witness_CommandsKeepWhatIsNotTheirs_commandsKeepTheQueue : ∃ t : State, exec (.mbistDone []) State.reset = .next t := ⟨_, rfl⟩

theorem answers_next {o : Host.Outcome State Fault Refusal} (h : (match o with | .next _ => true | _ => false) = true) : ∃ t, o = .next t := by
  cases o with
  | next t => exact ⟨t, rfl⟩
  | fault f => cases h
  | refused r => cases h

/-- A `SUM` descriptor that is accepted, and a frame whose codeword is bad. -/
theorem witness_CommandsKeepWhatIsNotTheirs_enginesKeepToTheirState : (∃ t, exec (.sum 0) (reduction 0x01 9 9) = .next t) ∧ ∃ t, exec (.idle 0 { hdr := 0, pay := 0 } .failed) base = .next t :=
  ⟨answers_next (by decide +kernel), answers_next (by decide +kernel)⟩

/-- A record in the last entry of the ring. -/
theorem witness_RecordsAndSessions_responseRecords :
    let s := { base with win := { base.win with rspTail := 31 } }
    s.Sound ∧ (List.replicate 240 (0 : Byte)).length ≤ 240 ∧ rsDone < 2 ^ 16 ∧ 0x11 < 2 ^ 16 ∧ 5 < 2 ^ 32 ∧ 15 < 16 ∧ 0xFFFF < 2 ^ 16 :=
  ⟨sound_of_plain (by decide +kernel) rfl, by decide +kernel⟩

/-! ## The worked examples of the manual -/

/-- The rig index of 3.17.5.1.20.9 is the sum that 00_scope.md gives: chip 3·512 + 17·16 + 5, position 512 + 320 + 9. -/
theorem test_rig_of_the_notation_example :
    ({ base with topo := { base.topo with chip := 3 * 512 + 17 * 16 + 5 } } : State).rig (512 + 320 + 9) = 0x180000 + 0x44000 + 0x1400 + 0x200 + 0x140 + 9 := by decide +kernel

/-- F32 elements of a sum by rig index. -/
def flts (l : List (Nat × Nat)) : List (Nat × List Elem) := l.map (fun e => (e.1, [.flt (BitVec.ofNat 64 e.2) e.1]))

/-- Table 1-6. -/
theorem test_canonical_fold_of_table_1_6 :
    ((Comb.fsum .f32 .rne).tree (flts [(1, 0x4B800000), (2, 0x3F800000), (4, 0x3F800000), (7, 0xCB800000), (11, 0x3F800000), (12, 0x80000000)])).1 =
        some [.flt 0x3F800000 1] ∧
      ((Comb.fsum .f32 .rne).tree (flts [(12, 0x80000000)])).1 = some [.flt 0x80000000 12] := by decide +kernel

/-- Table 2-14, and the KF16 and I4 examples after it. -/
theorem test_conversions_of_table_2_14 :
    (let c := fun (x : Nat) (f : Fmt) (m : Rm) => (toShort f m (Fmt.f32.value x)).1
     [0x41700000, 0xC0200000, 0x3A800000, 0x7FC00000, 0xBF400000].map (fun x => [c x .kf8e4 .rne, c x .kf8e5 .rne, c x .kf4 .rne, c x .kf4 .rup, c x .kf3 .rne]) =
       [[0x5F, 0x50, 0x7, 0x7, 3], [0xCA, 0xC5, 0xC, 0xC, 6], [0x01, 0x18, 0x0, 0x1, 0], [0x80, 0x80, 0x8, 0x8, 4], [0xBC, 0xBE, 0xA, 0x9, 5]]) ∧
      (let t := (gather ([0x41700000, 0xC0200000, 0x3A800000, 0x7FC00000, 0xBF400000].map (fun x => toShort .kf4 .rne (Fmt.f32.value x)))).2
       t = { Tally.zero with sat := 1, flush := 1, nar := 1 }) ∧
      toShort .kf16 .rne (Fmt.f32.value 0x40490FDB) = (0x4092, Tally.zero) ∧
      (gather ([0xC0600000, 0x41100000].map (fun x => floatToInt .i4 .rne (Fmt.f32.value x)))) = ([0xC, 0x7], { Tally.zero with sat := 1, nx := true, nv := true }) := by
  decide +kernel

/-- Tables 3-11 and 3-12, and the three results. -/
theorem test_sums_of_table_3_11 :
    (let xs := [(0x72, 0x4B800001), (0x73, 0x3F800000), (0x75, 0xCB800000), (0x79, 0x33800000), (0x7E, 0x80000000)]
     (let r := (Comb.fsum .f32 .rne).tree (flts xs)
      r.1 = some [.flt 0x40800000 0x72] ∧ r.2.xflags = 0x10) ∧
      xs.map (fun e => classWord e.2) = [0x00AE, 0x0096, 0x00AE, 0x007E, 0x0800] ∧
      (xs.map (fun e => (windows true 24 e.2).1)).take 4 = [(0x2000004000, 0), (0x2000, 0), (-0x2000000000, 0), (0, 0x8000000)]) ∧
      convFloat .f32 .rne (windowValue false 24 .rne 0x6000 0) = (0x40400000, Tally.zero) ∧
      convFloat .f32 .rne (windowValue true 24 .rne 0x6000 0x8000000) = (0x40400000, Tally.inexact true) ∧
      convFloat .f64 .rne (windowValue true 24 .rne 0x6000 0x8000000) = (0x4008000008000000, Tally.zero) := by decide +kernel

/-- Table 3-13, and exp_k of the F32 value nearest ln 2. -/
theorem test_extrema_of_table_3_13 :
    ((Comb.ext .amax .f32).tree (flts [(0x31, 0xC0400000), (0x34, 0x40000000), (0x36, 0x40400000), (0x3C, 0xC0400000)])).1 = some [.flt 0x40400000 0x36] ∧
      ((Comb.ext .amin .f32).tree (flts [(0x31, 0x80000000), (0x34, 0), (0x36, 0x3F800000), (0x3C, 0x80000000)])).1 = some [.flt 0x80000000 0x31] ∧
      (expK 0x3F317218).1 = 0x40000000 ∧ (expK 0x3F317218).2 = Tally.inexact true ∧ (expK 0xBF317218).1 = 0x3F000000 := by decide +kernel

/-- Table 4-8: levels, the sums and the widening test; Table 4-9: levels and results of a tile with s = 0.5. -/
theorem test_narrow_sums_of_tables_4_8_and_4_9 :
    (let s := nsScale 0x46160000 .kf8e4 0
     [0x46160000, 0x3C800000, 0xBC800000, 0x42C80000, 0x40400000, 0x80000000, 0x3F000000].map (fun x => (nsLevel x s .kf8e4 0).1) = [245760, 0, 0, 2560, 80, 0, 13] ∧
       (nsLevel 0x7FC01234 s .kf8e4 0).1 = sentinel ∧ nsResult 248320 s .kf8e4 .f32 .rne = (0x46179000, Tally.zero) ∧
       (nsResult sentinel s .kf8e4 .f32 .rne).1 = 0x7FC00000) ∧
      widenTest 2 0x4000 8 = false ∧ widenTest 2 0x2000 8 = true ∧
      (let s := nsScale 0x40400000 .kf4 0
       [0x40400000, 0x3F99999A, 0xBF333333, 0x3E800000].map (fun x => (nsLevel x s .kf4 0).1) = [12, 4, -3, 1] ∧
         nsResult 16 s .kf4 .f32 .rne = (0x40800000, Tally.zero) ∧ nsResult (-2) s .kf4 .f32 .rne = (0xBF000000, Tally.zero)) := by decide +kernel

/-- Scores of eight experts, minus infinity where Table 6-8 lists none. -/
def scores (l : List (Nat × Nat)) : List Nat := (List.range 8).map (fun e => ((l.find? (fun x => x.1 == e)).map (·.2)).getD 0xFF800000)

/-- Table 6-8 and the gate weights. -/
theorem test_selection_of_table_6_8 :
    selectExperts (scores [(2, 0x3FD8B90C), (5, 0x3F800000)]) 0 2 false = [some 2, some 5] ∧
      selectExperts (scores [(2, 0x3F800000), (5, 0x3F800000), (6, 0x7FC00000)]) 1 2 false = [some 2, some 5] ∧
      selectExperts (scores [(2, 0x3FD8B90C), (3, 0x3F800000)]) 0 2 false = [some 2, some 3] ∧
      selectExperts (scores [(5, 0x3FD8B90C), (2, 0x3F800000)]) 1 2 false = [some 5, some 2] ∧
      (gateWeights (scores [(2, 0x3FD8B90C), (5, 0x3F800000)]) [some 2, some 5] .sel).1 = [0x3F2AAAAB, 0x3EAAAAAB] ∧
      (gateWeights (scores [(2, 0x3F800000), (5, 0x3F800000), (6, 0x7FC00000)]) [some 2, some 5] .sel).1 = [0x3F000000, 0x3F000000] ∧
      (toShort .kf16 .rne (Fmt.f32.value 0x3F2AAAAB)).1 = 0x3E55 ∧ (toShort .kf16 .rne (Fmt.f32.value 0x3EAAAAAB)).1 = 0x3D55 := by decide +kernel

/-- Table 6-9's slots of chip 1, the two ledger entries and the route record. -/
theorem test_slots_and_entries_of_table_6_9 :
    slotsOf (fun e => if e = 2 then 2 else 0) [some 2, some 5] = [some 2, some 0] ∧
      (let a := sideOf (some 2) (some 0) 2 0x3F2AAAAB
       let b := sideOf (some 5) (some 1) 2 0x3EAAAAAB
       ledgerEntry lsRouted 0x0A31 0 true a b 0x3E55 0x3D55 = 0x270A310000000020053E553D5500000000000100#160) ∧
      (let a := sideOf (some 5) (some 0) 2 0x3F2AAAAB
       let b := sideOf (some 2) (some 3) 2 0x3EAAAAAB
       (renorm true a b).w = 0x3F800000 ∧ ledgerEntry lsRouted 0x0A31 1 true (renorm true a b) b 0x3F00 0 = 0x230A310000010050023F000000000000FFFFFF80#160) ∧
      (let a := sideOf (some 2) (some 1) 2 0x3F000000
       let b := sideOf (some 5) (some 2) 2 0x3F000000
       routeRecord (renorm true a b) b 0x3F00 0 = 0x000000003F00FFFFFF00000190005002#128) := by decide +kernel

/-- Tables 7-4 and 7-5. -/
theorem test_dot_rule_of_tables_7_4_and_7_5 :
    (let w0 := (toIeee .f32 .rne (Fmt.kf16.value 0x3E55)).1
     let w1 := (toIeee .f32 .rne (Fmt.kf16.value 0x3D55)).1
     let row := fun (f : Fmt) (r e0 e1 : Nat) => cdot f .rne [(r, 0x3F800000), (w0, e0), (w1, e1)] [r, e0, e1, w0, w1]
     row .f32 0x3F800000 0x40400000 0xBF000000 = (some 0x40353800, Tally.zero) ∧ (row .kf16 0x3F800000 0x40400000 0xBF000000).1 = some 0x406A ∧
       row .f32 0x7F7FFFFF 0x7F000000 0xFF7FFFFF = (some 0x7F7FFFFF, Tally.inexact true) ∧ (row .kf16 0x7F7FFFFF 0x7F000000 0xFF7FFFFF).1 = some 0x7EFF ∧
       row .f32 0x3F800000 0x7FA00001 0xFFC00005 = (some 0x7FE00001, Tally.invalid) ∧ (row .kf16 0x3F800000 0x7FA00001 0xFFC00005).1 = some 0x7FC0) ∧
      (let dy := [0x5F800000, 0x5F800000, 0x3F800000] ++ List.replicate 13 0 ++ [0x3F000000] ++ List.replicate 15 0
       let e0 := [0x5F800000, 0xDF7FFFFF, 0x40400000] ++ List.replicate 13 0 ++ [0x40800000] ++ List.replicate 15 0
       (gateGrad .rne dy e0).1 = 0x73800000 ∧ (gateGrad .rne dy e0).2.xflags = 0x10 ∧ (gateGrad .rne dy (List.replicate 32 0)).1 = 0) := by decide +kernel

/-- Table 10-12: the header bits above the CRC. -/
theorem test_header_of_table_10_12 :
    let k : Link := { Link.reset 0 with txSeq := 0x9C4, rxSeq := 0x3F1, freed := [(2, 0x0B7)], crTurn := 3 }
    bits (k.header ftData 2 (fields 50 [(38, 12, 0x0A7), (26, 12, 0x02A), (18, 8, 0x13), (15, 3, 3), (12, 3, 1), (0, 11, 5)])) 32 96 = 0x153887E282DC29C0A84D9005 := by
  decide +kernel

/-- Tables 9-17 and 9-18: the example's fields, and its completion record. -/
theorem test_submission_of_table_9_17 :
    (let d : Desc := { q0 := 0x8010502A00802101, q1 := 1, q2 := 0, q3 := 0, q4 := 0x4000001000, q5 := 0x4000002000, q6 := 0, q7 := 0x1C96001300000733 }
     dOpcode d = 0x01 ∧ dIfmt d = 1 ∧ dOfmt d = 1 ∧ dCtx d = 0x02A ∧ dGroup d = 0x105 ∧ dEpoch d = 0x13 ∧ checkShape d = none ∧ formatsOk d = true ∧ modesOk d = true ∧
       checkShape { d with q0 := 0x8010502A01802701 } = none ∧ formatsOk { d with q0 := 0x8010502A01802701 } = false) ∧
      ttCommand 2 0x100001C96 = 0x2000000100001C96 := by decide +kernel

/-- Chip 0 with a word of slot 3 of cluster 5, and commands of this chip's ports on their way to it. -/
def cluster5 (w : Nat) (x : SyncWord) (cmds : List (Nat × Nat)) : State :=
  let s := withTt base { TtState.reset with
    words := [(w, x)], flights := cmds.map (fun c => { cmd := BitVec.ofNat 64 c.1, issuer := BitVec.ofNat 25 c.2, via := .port }) }
  { s with topo := { s.topo with chip := 0, present := [0, 5] } }

/-- Table 5-10, step 2: a signal to a full word. -/
theorem test_overfill_of_table_5_10 :
    let x : SyncWord := { wordDefault 0 0x1492 with own := .owned, owner := 3, value := 1 }
    let t := after (.syncWordCycle 0x1492 ⟨[(0x97, false)], []⟩) (cluster5 0x1492 x [(0x1800000100001492, 0x97)])
    x.arch = 0x1000000003000001 ∧ (t.word 0x1492).arch = 0x1800000003000001 ∧ (t.port 0x97).resp = [0x1510149200000001] := by decide +kernel

/-- Table 5-11: four commands in one cycle. -/
theorem test_count_word_of_table_5_11 :
    let x : SyncWord := { wordDefault 0 0x1493 with mode := .count, own := .owned, owner := 3, trimEn := true }
    let s := cluster5 0x1493 x [(0x2000000300001493, 0x53), (0x1000000200001493, 0x97), (0x1000000100001493, 0x2A6), (0x3000000100001493, 0x54)]
    let t := after (.syncWordCycle 0x1493 ⟨[(0x53, false), (0x97, false), (0x2A6, false), (0x54, false)], []⟩) s
    x.arch = 0x5200000003000000 ∧ (t.word 0x1493).arch = 0x5600000003000000 ∧ t.shadowWord 0x1493 = 0x00000302800002A6 ∧
      (t.port 0x53).resp = [0x0020149300000000] ∧ (t.port 0x54).resp = [0x1430149300000000] ∧ (t.port 0x97).resp = [] := by decide +kernel

/-- The start-up event after the `WARM` reset of the example in 14_clocks_power_reset.md. -/
theorem test_reset_cause_of_the_example :
    let s := { booting .firmware with
      power := { PowerState.reset with boot := .firmware, kind := .warm, source := 2, resets := 3, empty := 0xC7FF }
      units := { State.reset.units with failed := [.node 5] }, cut := { State.reset.cut with last := 0x120 } }
    let t := after (.mhReady Regions.none) s
    (t.hostLoad 0x2000 8, t.hostLoad 0x2008 8, t.hostLoad 0x2010 8, t.hostLoad 0x2018 8, t.hostLoad 0x2020 8) =
      (leNat [0x01, 0x80, 0x01, 0x01, 0, 0, 0, 0], leNat [0xFF, 0x01, 0x18, 0, 0xFF, 0xFF, 0, 0], leNat [2, 2, 0xFF, 0xFF, 0xFF, 0xC7, 0, 0],
        leNat [0x20, 1, 0, 0, 0, 0, 0, 0], leNat [1, 0, 0, 0, 3, 0, 0, 0]) := by decide +kernel

/-- Table 13-9, cycles 0 to 1,400: a residue error in cluster 0x13 starts the fill of row 2's spare, which leaves its shadow. -/
theorem test_fill_of_table_13_9 :
    let s := withUnits base (base.units.setCs 2 1 0x15)
    let t := after (.residueError (.node 0x13) 5 9) s
    (t.units.cs 2).st = 2 ∧ (t.units.cs 2).unit = 0x13 ∧ t.units.paused = [0x13] ∧
      leNat ((t.spareMap.drop 4).take 2) = 0x4013 := by decide +kernel

/-- The section sizes of Table 12-6 in an image: the sync words, the channels and the ports. -/
theorem test_section_sizes : sectLen 8 49152 = 393280 ∧ sectLen 160 64 = 10304 ∧ sectLen 576 1024 = 589888 := by decide

/-! ## Ill-formed commands -/

/-- One command for each check of `Instr.wellFormed`, which refuses it. -/
theorem test_ill_formed_commands_are_refused :
    ∀ c ∈ [Instr.syncWordCycle 0x300 ⟨[], []⟩, .waitTimeout 0x300 0,
      .treeFlit 0 0 (.offDie 0 0x40 0 { defn := { q0 := 0, q1 := 0, q2 := 0 }, pass := 0, reef := false, fault := false, clash := false, ncontrib := 1
                                        vals := none, flushes := [], tally := Tally.zero } false),
      .treeFlit 0 0 (.offDie 0 0 0 { defn := { q0 := 0, q1 := 0, q2 := 0 }, pass := 1, reef := false, fault := false, clash := false, ncontrib := 1
                                     vals := none, flushes := [], tally := Tally.zero } false),
      .combineLaneBegin 0 16777216, .rowReadReturn 0 16777216, .rowWriteVisible 0 16777216,
      .hoistAtHoldingNode 0 (.offDie 0 { origin := 0, hseq := 0, chan := 0, data := [], only := none } none),
      .hoistAtHoldingNode 0 (.offDie 0 { origin := 0, hseq := 0, chan := 0, data := [0], only := none } (some (1024, [0]))),
      .registerWrite 0 4 0, .hostWindowWrite 0 3 0, .hostWindowWrite 0 1 256, .cinchQuietRound 9 0 0 0 0, .cinchAgreeResult { reason := 9, xs := [], others := none },
      .cinchAgreeResult { reason := 0, xs := [(2, 0), (1, 0)], others := none },
      .cinchAgreeResult { reason := 0, xs := [], others := some { maxNumber := 1, minNumber := 2, maxCrc := 0, minCrc := 0 } }, .mhReady { Regions.none with flash := 2 ^ 52, flashLen := 64 }, .cinchCommitResult 9,
      .residueError (.bank 0) 0 0, .flitCrcError (.port 0) 0, .secdedError (.word 0x300) true 1, .secdedError (.word 0) true 0, .wireParityError 0,
      .rootPairMismatch (.node 0) [], .backgroundUnitTest (.pool 0), .testComplete (.pool 0) true 0, .nodeReset (.pool 0),
      .mhReady { Regions.none with dist := 1 }, .mhReady { Regions.none with dump := 2 ^ 52, dumpLen := 64 }], c.wellFormed = false := by
  decide +kernel

/-- A few that are well formed. -/
theorem test_well_formed_commands :
    ∀ c ∈ [Instr.syncWordCycle 0x2FF ⟨[(1, true), (1, false)], []⟩, .syncWordCycle 0x3FF ⟨[(1, false)], [3]⟩, .registerWrite 0 8 0, .hostWindowWrite 0 4 0xFFFFFFFF, .residueError (.node 71) 0 0, .mhReady Regions.none],
      c.wellFormed = true := by decide +kernel

end Sys2Proof.Tests
end

/-! SUPPORT. Where a step can stop: only at an access past the 52-bit address space (log 3). -/

namespace Sys2Proof.Machine

open Sys2Proof

variable (s : State) {bad : Prop} {a b : Host.Outcome State Fault Refusal}

/-- A step is answered by a next state, unless it stops at an access past the address space, and then `bad` holds. -/
inductive GoesOnUnless (bad : Prop) : Host.Outcome State Fault Refusal → Prop
  | next (t : State) : GoesOnUnless bad (.next t)
  | stop : bad → GoesOnUnless bad (.fault .beyondAddressSpace)

/-- Such a step is never refused, and its one fault tells that `bad` holds. -/
theorem GoesOnUnless.only_fault (h : GoesOnUnless bad a) :
    (∀ r, a ≠ .refused r) ∧ ∀ f, a = .fault f → f = .beyondAddressSpace ∧ bad := by
  cases h with
  | next t => exact ⟨nofun, nofun⟩
  | stop hb =>
    refine ⟨nofun, fun f hf => ?_⟩
    cases hf
    exact ⟨rfl, hb⟩

theorem GoesOnUnless.mono {good : Prop} (h : GoesOnUnless bad a) (hb : bad → good) : GoesOnUnless good a := by
  cases h with
  | next t => exact .next t
  | stop h => exact .stop (hb h)

theorem goesOn_ok (t : State) : GoesOnUnless bad (ok t) := .next t

theorem goesOn_ite {c : Prop} [Decidable c] (ha : c → GoesOnUnless bad a) (hb : ¬c → GoesOnUnless bad b) :
    GoesOnUnless bad (if c then a else b) := by
  split
  · exact ha ‹_›
  · exact hb ‹_›

/-- A guard before a row that goes on either way. -/
theorem goesOn_guard {c : Prop} [Decidable c] (t u : State) : GoesOnUnless bad (if c then ok t else ok u) :=
  goesOn_ite (fun _ => goesOn_ok t) (fun _ => goesOn_ok u)

theorem goesOn_response (f : State → State) : GoesOnUnless bad (s.response f) := goesOn_guard _ _

theorem goesOn_inPhase (ph : CutPhase) (f : CutRun → State → State) : GoesOnUnless bad (s.inPhase ph f) := by
  unfold State.inPhase
  repeat' with_reducible first | apply goesOn_ok | apply goesOn_guard | split

/-! ## The rows that touch chip memory -/

/-- The memory that port `p` touches as it takes its next descriptor on does not all lie in the address space: the slot, the target list, or
what an accepted descriptor names (R179, R233, R258). -/
abbrev State.DescriptorPast (s : State) (p : Nat) : Prop :=
  inSpace [((s.port p).slotAddr, 64)] = false ∨ inSpace (tmapRange (s.slotDesc p)) = false ∨
    s.validate p (s.slotDesc p) = none ∧ inSpace (s.descRanges (s.slotDesc p)) = false

theorem submit_goesOn (p : Nat) (mine : Desc → Bool) : GoesOnUnless (s.mayRead p = true ∧ s.DescriptorPast p) (s.submit p mine) := by
  unfold State.submit
  refine goesOn_ite (fun _ => .next _) fun hread => ?_
  have hread : s.mayRead p = true := by simpa using hread
  refine goesOn_ite (fun hslot => .stop ⟨hread, .inl hslot⟩) fun _ => ?_
  refine goesOn_ite (fun _ => .next _) fun _ => goesOn_ite (fun _ => .next _) fun _ => ?_
  unfold State.process
  refine goesOn_ite (fun hlist => .stop ⟨hread, .inr (.inl hlist)⟩) fun _ => ?_
  rw [validate_modPort, descRanges_modPort]
  split
  · exact .next _
  · next hv => exact goesOn_ite (fun _ => .next _) fun hr => .stop ⟨hread, .inr (.inr ⟨hv, by simpa using hr⟩)⟩

theorem completionWrite_goesOn (p : Pos) :
    GoesOnUnless ((s.port p).done ≠ [] ∧ inSpace [((s.port p).recordAddr, 32)] = false) (execCompletionWrite p s) := by
  unfold execCompletionWrite
  dsimp only
  split
  · exact goesOn_ok _
  · next x rest hdone =>
    refine goesOn_ite (fun _ => goesOn_ok _) fun _ => goesOn_ite (fun _ => goesOn_ok _) fun hrec => ?_
    exact .stop ⟨by simp [hdone], by simpa using hrec⟩

theorem mhReady_goesOn (g : Regions) :
    GoesOnUnless (s.power.boot = .firmware ∧ inSpace (regionRanges g) = false) (execMhReady g s) := by
  unfold execMhReady
  refine goesOn_ite (fun hboot => ?_) fun _ => goesOn_ok _
  exact goesOn_ite (fun _ => .next _) fun hr => .stop ⟨hboot, by simpa using hr⟩

/-! ## Every row -/

/-- The rows that take the next descriptor of port `p` on. -/
abbrev descriptorRows (p : Pos) : List Instr :=
  [.sum p, .spsum p, .nsum p, .max p, .min p, .maxnum p, .minnum p, .amax p, .amin p, .band p, .bor p, .bxor p, .count p, .scanx p,
    .scani p, .lsem p, .route p, .tagRelease p, .tagCancel p, .combine p, .uncombine p, .gategrad p, .bcast p, .mcast p, .hrecv p,
    .hrecvWithdraw p]

/-- The accesses of a command that can lie past the address space: those of a descriptor row, of `COMPLETION_WRITE` and of `MH_READY`. -/
inductive AccessPast (s : State) : Instr → Prop
  | descriptor {c : Instr} {p : Pos} (hc : c ∈ descriptorRows p) (hread : s.mayRead p = true) (h : s.DescriptorPast p) : AccessPast s c
  | record {p : Pos} (hdone : (s.port p).done ≠ []) (h : inSpace [((s.port p).recordAddr, 32)] = false) : AccessPast s (.completionWrite p)
  | regions {g : Regions} (hboot : s.power.boot = .firmware) (h : inSpace (regionRanges g) = false) : AccessPast s (.mhReady g)

/-- Every row goes on, unless one of its accesses lies past the address space. -/
theorem exec_goesOn (c : Instr) (s : State) : GoesOnUnless (AccessPast s c) (exec c s) := by
  cases c with
  | sum p | spsum p | nsum p | max p | min p | maxnum p | minnum p | amax p | amin p | band p | bor p | bxor p | count p | scanx p
  | scani p | lsem p | route p | tagRelease p | tagCancel p | combine p | uncombine p | gategrad p | bcast p | mcast p =>
    exact (submit_goesOn s p _).mono fun ⟨hread, h⟩ => .descriptor (by simp) hread h
  | hrecv p | hrecvWithdraw p =>
    simp only [exec_hrecv, execHrecv, exec_hrecvWithdraw, execHrecvWithdraw]
    exact (submit_goesOn s p _).mono fun ⟨hread, h⟩ => .descriptor (by simp) hread h
  | completionWrite p => exact (completionWrite_goesOn s p).mono fun ⟨hdone, h⟩ => .record hdone h
  | mhReady g => exact (mhReady_goesOn s g).mono fun ⟨hboot, h⟩ => .regions hboot h
  -- Rows that answer a next state outright, the mailbox rows among them.
  | sig | wait | dec | test | init | claim | release | arrive | bwait | sigMessage | sigAck | barArrive | barRelease | barOrphan
  | barPrewarn | noticePost | combineLimitExpiry | hoistCreditApply | hoistReportLimitExpiry | registerWrite | epSqCfg | epCqCfg
  | submissionDoorbell | completionDoorbell | epTtPop | epNqStat | hostWindowWrite | hwDoorbell | hwRspHead | hwIrqMask
  | ttInspectSel | hello | debugChallenge | debugResponse | debugLock | topoSet | topoRead | groupDefine | groupDelete
  | contextBind | contextRearm | contextUnbind | partnerSet | policySet | reefAllow | cinch | restore | testNode | calPortAdapt
  | calPortRecalibrate | calPortSetPhy | calPortSetTaps | spareMapRead | countersRead | syncInspect | ledgerInspect | dumpFetch
  | fwUpdateLoad | fwUpdateActivate | fwUpdateCommit | letFly | powerStateActive | powerStateDoze | powerStateRetain
  | powerStateOff | wakeEvent | idle | data | nak | gcmtag | lcInit | lcInitAck | lcReef | lcReefAck | heartbeat | takeover
  | faultReport | feedQuery | feedReply | wordReadRelay | wordReadReply | rootPllUnlock | coldReset | alignmentLockLoss =>
    exact goesOn_ok _
  -- Rows behind one guard.
  | descriptorReadPoisoned | syncWordCycle | endpointReset | rebindDone | tagQuarantineExpiry | hoistSegmentFreed | nakRepeatTimer
  | replayTimeout | lockLossTimeout | keyLoad | heartbeatSend | wireParityError | chipLost | fillComplete | backgroundUnitTest
  | portRecalibration | bankCopyDone | warmReset | blockReset | nodeReset | mbistDone | imageVerified | trialBootTimeout
  | calibrationDone | linkUpTimeout | tapInstrumentAccess => exact goesOn_guard _ _
  -- Masthead's responses to faults.
  | residueError | shadowMismatch =>
    simp only [exec_residueError, execResidueError, exec_shadowMismatch, execShadowMismatch]
    exact goesOn_response s _
  | flitCrcError => exact goesOn_ite (fun _ => goesOn_ok _) fun _ => goesOn_response s _
  | secdedError =>
    exact goesOn_ite (fun _ => goesOn_response s _) fun _ => goesOn_ite (fun _ => goesOn_ok _) fun _ => goesOn_response s _
  | rootPairMismatch u =>
    cases u with
    | half | root => exact goesOn_response s _
    | _ => exact goesOn_ok _
  -- The phases of a cinch.
  | cinchAgreeResult | cinchDrained | cinchCaptureDone | cinchCommitResult =>
    simp only [exec_cinchAgreeResult, execCinchAgreeResult, exec_cinchDrained, execCinchDrained, exec_cinchCaptureDone,
      execCinchCaptureDone, exec_cinchCommitResult, execCinchCommitResult]
    exact goesOn_inPhase s _ _
  -- Rows with nested guards.
  | lockstepMismatch | endpointCoreFailed | fwImageLoaded =>
    exact goesOn_ite (fun _ => goesOn_guard _ _) fun _ => goesOn_ok _
  -- Rows whose event is looked up first: without it nothing changes.
  | waitTimeout | barrierWaitTimeout | releaseStep | fleetWaitExpiry | treeFlit | collectiveTimeout | timeoutMark | resultAtPort
  | routeCountsResult | noticeSend | arrival | combineLaneBegin | rowReadReturn | rowWriteVisible | hoistAtHoldingNode
  | holdLimitExpiry | deliveryReport | hoistDeliveryVisible | topoSetComplete | cinchQuietRound | cinchFlashCopyDone
  | cinchPhaseTimeout | testComplete | railAck | frameSlot | superBlockLock | laneFailure | letFlyMessage | heartbeatMissing
  | relayTimeout | poisonedRead | shadowRotation =>
    simp only [exec, execWaitTimeout, execBarrierWaitTimeout, execReleaseStep, execFleetWaitExpiry, execTreeFlit, execCollectiveTimeout,
      execTimeoutMark, execResultAtPort, execRouteCountsResult, execNoticeSend, execArrival, execCombineLaneBegin, execRowReadReturn,
      execRowWriteVisible, execHoistAtHoldingNode, execHoldLimitExpiry, execDeliveryReport, execHoistDeliveryVisible,
      execTopoSetComplete, execCinchQuietRound, execCinchFlashCopyDone, execCinchPhaseTimeout, execTestComplete, execRailAck,
      execFrameSlot, execSuperBlockLock, execLaneFailure, execLetFlyMessage, execHeartbeatMissing, execRelayTimeout,
      execPoisonedRead, execShadowRotation]
    repeat' with_reducible first | apply goesOn_ok | split

/-- Settles O5: each row goes on, unless one of its accesses lies past the address space. -/
theorem onlyMemoryAccessStops : Obligations.OnlyMemoryAccessStops := by
  unfold Obligations.OnlyMemoryAccessStops
  intro c s
  obtain ⟨hrefused, hfault⟩ := (exec_goesOn c s).only_fault
  refine ⟨hrefused, fun f hf => ?_⟩
  obtain ⟨hf, hpast⟩ := hfault f hf
  refine ⟨hf, ?_⟩
  cases hpast with
  | descriptor hc hread h => exact .inl ⟨_, hc, hread, h⟩
  | record hdone h => exact .inr (.inl ⟨_, rfl, hdone, h⟩)
  | regions hboot h => exact .inr (.inr ⟨_, rfl, hboot, h⟩)

end Sys2Proof.Machine

/-! SUPPORT. What a good tag does on a protected link (R316 to R320), and where its key table can hold on to an old key. -/

namespace Sys2Proof.Machine

open Sys2Proof

section GoodTag

variable {s : State} {p : Nat} {f : Frame} {mine : Frame → Bool} {act : State → State}

/-- A good frame other than link control, at a port that is locked and up, is taken by the row of its type. -/
theorem receive_good (hlock : (s.lnk p).locked = true) (hup : (s.lnk p).isUp = true) (hcrc : fCrc f = (frameCrc f.hdr f.pay).toNat)
    (hform : (s.lnk p).malformed f = false) (htype : fType f ≠ ftLinkctl) (hmine : mine f = true) :
    s.receive p f .clean mine act = act s := by
  have hctl : controlOk f = true := by simp [controlOk, htype]
  simp [State.receive, hlock, hup, hcrc, hform, hctl, hmine]

/-- The frame that is expected next, other than `DATA`, is accepted. -/
theorem sequence_expected (hseq : seqDist (s.lnk p).rxSeq (fSeq f) = 0) (htype : fType f ≠ ftData) :
    s.sequence p f act = act (s.setLnk p { s.lnk p with rxSeq := ((s.lnk p).rxSeq + 1) % 4096, nakOut := false }) := by
  simp [State.sequence, hseq, htype]

/-- A tag without a reserved bit arrives in sequence at a link that is up. -/
structure TagArrives (k : Link) (f : Frame) : Prop where
  locked : k.locked = true
  up : k.isUp = true
  type : fType f = ftGcmtag
  crc : fCrc f = (frameCrc f.hdr f.pay).toNat
  form : k.malformed f = false
  low : bits f.pay 193 7 = 0
  high : bits f.pay 208 304 = 0
  next : seqDist k.rxSeq (fSeq f) = 0

/-- Such a tag is accepted, and its block is verified. -/
theorem exec_gcmtag_verifies {l : PortNo} (hst : s.power.st = .active) (hdoze : s.dozing = false) (h : TagArrives (s.lnk l) f) :
    exec (.gcmtag l f .clean) s =
      .next ((s.setLnk l { s.lnk l with rxSeq := ((s.lnk l).rxSeq + 1) % 4096, nakOut := false }).verifyBlock l f) := by
  have hctl : fType f ≠ ftLinkctl := by rw [h.type]; decide
  have hdata : fType f ≠ ftData := by rw [h.type]; decide
  rw [exec_gcmtag, execGcmtag, ok, receive_good h.locked h.up h.crc h.form hctl (by simp [h.type])]
  simp only [wake_active hst hdoze, h.low, h.high, ne_eq, not_true_eq_false, or_self, if_false]
  rw [sequence_expected h.next hdata]

/-- In a key table of canonical form, the slot in use is kept no longer once a block has verified under the other one (R319). -/
theorem settleKey_drops_old {i : Nat} (hkeys : Tbl.wf keySlotDefault s.keys.slots = true) (hi : s.keyUse p 1 % 2 ≠ i) :
    (s.settleKey p i).keySlot p 1 (s.keyUse p 1 % 2) = keySlotDefault 0 := by
  simp only [State.settleKey, if_neg hi]
  exact Tbl.get_set_same _ _ hkeys

end GoodTag

/-! ## A key table that is not in canonical form -/

/-- A key slot just loaded. -/
def freshKey (key : BitVec 256) (salt : Word32) : KeySlot := { key := key, salt := salt, ctr := 0, loaded := true }

/-- Port 0 is up in protected mode with both receive slots loaded and slot 0 in use; the table lists slot 1 before slot 0. -/
def crossedKeys : State :=
  { State.reset.setLnk 0 { Link.reset 0 with st := .up, locked := true, prot := true } with
    keys := { slots := [(3, freshKey 5 6), (2, freshKey 7 8)], active := [] } }

/-- The tag of a block without frames, under the key of receive slot 1 and counter 3. -/
def slotOneTag : Frame :=
  sealFrame (fields 128 [(124, 4, ftGcmtag)]) (fields 512 [(0, 128, leNat (gcmTag 5 6 3 [] [])), (128, 64, 3), (192, 1, 1)])

/-- `crossedKeys` once the tag has been accepted and the block verified. -/
def crossedKeysAfter : State :=
  (crossedKeys.setLnk 0 { crossedKeys.lnk 0 with rxSeq := ((crossedKeys.lnk 0).rxSeq + 1) % 4096, nakOut := false }).verifyBlock 0 slotOneTag

theorem crossedKeys_sound : crossedKeys.Sound := { State.reset_sound with links_wf := by decide +kernel }

/-- The CRC is right by `sealFrame_crc`, and no other field depends on it; what is left is a computation. -/
theorem slotOneTag_arrives : TagArrives (crossedKeys.lnk 0) slotOneTag where
  locked := by decide +kernel
  up := by decide +kernel
  type := by rw [slotOneTag, fType_seal]; decide +kernel
  crc := sealFrame_crc _ _
  form := by rw [slotOneTag, malformed_seal]; decide +kernel
  low := by decide +kernel
  high := by decide +kernel
  next := by rw [slotOneTag, fSeq_seal]; decide +kernel

/-- The tag is the one that key slot 1 gives for the block without frames. -/
theorem slotOneTag_good :
    (crossedKeys.keySlot 0 1 1).loaded = true ∧ (crossedKeys.lnk 0).rxBlock = [] ∧ bits slotOneTag.pay 192 1 = 1 ∧ bits slotOneTag.pay 200 8 = 0 ∧
      gcmTag (crossedKeys.keySlot 0 1 1).key (crossedKeys.keySlot 0 1 1).salt (bits slotOneTag.pay 128 64) (blockAad []) (blockText []) =
        leBytes 16 (bits slotOneTag.pay 0 128) := by decide +kernel

theorem exec_slotOneTag : exec (.gcmtag 0 slotOneTag .clean) crossedKeys = .next crossedKeysAfter :=
  exec_gcmtag_verifies rfl rfl slotOneTag_arrives

/-- The old key is still there: erasing slot 0 stops at the larger key in front of its entry. -/
theorem crossedKeysAfter_keeps_old : crossedKeysAfter.keySlot 0 1 0 = freshKey 7 8 := by decide +kernel

/-- Refutes O52: soundness says nothing of the key tables, and in one that lists slot 1 before slot 0 a good tag under slot 1 leaves the key of
slot 0 loaded, which the statement says is kept no longer. With a table in canonical form it is dropped (`settleKey_drops_old`). -/
theorem not_protectedBlocks : ¬ Obligations.ProtectedBlocks := by
  unfold Obligations.ProtectedBlocks
  intro h
  obtain ⟨htag, -⟩ := h crossedKeys 0 slotOneTag false 0 0 0 crossedKeys_sound
  have a := slotOneTag_arrives
  obtain ⟨hloaded, hblock, hslot, hcount, hgcm⟩ := slotOneTag_good
  obtain ⟨-, hgood⟩ := htag ⟨by decide, rfl⟩ a.locked a.up a.type a.crc a.form
  obtain ⟨-, hempty, -⟩ := hgood a.low a.high a.next
  obtain ⟨t, hexec, -, -, -, hold, -⟩ := hempty (by rw [Fin.val_zero, hblock, hslot]; exact ⟨hloaded, hcount, hgcm⟩) hblock
  have ht : t = crossedKeysAfter := Host.Outcome.next.inj (hexec.symm.trans exec_slotOneTag)
  have hdropped : crossedKeysAfter.keySlot 0 1 0 = keySlotDefault 0 := by
    rw [ht, hslot] at hold
    exact hold (by decide)
  rw [crossedKeysAfter_keeps_old] at hdropped
  exact absurd (congrArg KeySlot.loaded hdropped) (by decide)

end Sys2Proof.Machine

/-! SUPPORT. Flits of partials and of down messages, taken off their link (R36, R290, R304, R308 to R310). -/

namespace Sys2Proof.Machine

open Sys2Proof

variable {s : State} {b : Binding} {g : Group}

section Partials

variable {r : FoldRec} {ctx epoch l j : Nat} {fnid : BitVec 21} {u : UpMsg} {flown : Bool}

/-- What a flit of a child's partial does, once its fold node is known. -/
theorem treeFlitFrom_eq (hb : s.binding ctx = some b) (hg : s.group b.group = some g) (hr : g.folds.find? (fun r => r.fnid == fnid) = some r) :
    s.treeFlitFrom ctx epoch l fnid j u flown =
      let all := flitOf b.group ctx epoch valuePhases
      let drop := s.takeFlits l 2 all (s.flitsOn l 2 all)
      if s.formerPort r j = some l then drop
      else if s.inputPort r j ≠ some l then s
      else if flown ∨ b.endedEpoch epoch then drop
      else
        let c := s.collFor ctx epoch b g r u
        if u.pass ≠ c.pass ∨ c.nodes.any (fun n => n.1 == fnid && n.2.1 == j) then drop else s.inputFlits c g r l j u := by
  simp only [State.treeFlitFrom, hb, hg, hr]

/-- At the host of the fold node, a partial belongs to the collective's own pass. -/
theorem collFor_host (h : s.hostOf r = s.topo.chip) : s.collFor ctx epoch b g r u =
    let c := (s.coll ctx epoch).getD (Coll.fresh ctx epoch b.group u.defn)
    if c.arrived.isEmpty && c.nodes.isEmpty && c.got.isEmpty && c.pass == 1 then { c with defn := u.defn } else c := by
  simp [State.collFor, h]

end Partials

/-! ## Down messages -/

section DownMessages

variable {ctx epoch l : Nat} {m : DownMsg}

/-- A cause to abandon leaves the phase of the cinch as it is. -/
theorem stopped_cutReason (n : Nat) : (s.cutReason n).stopped = s.stopped := by
  unfold State.stopped State.cutReason
  cases s.mh.cut with
  | none => rfl
  | some c => simp only [Option.map_some]; split <;> rfl

theorem stopped_recordEpoch (st : CStatus) : (s.recordEpoch ctx epoch st).stopped = s.stopped := by
  unfold State.recordEpoch
  split
  · rfl
  · dsimp only
    split
    · exact stopped_cutReason 6
    · rfl

theorem stopped_relayDown (t : List TxFlit) : (s.relayDown g t).stopped = s.stopped :=
  forEach_inv (s.downPorts g) (fun port s => s.sendFlits 3 port t) State.stopped (fun _ _ => rfl) s

theorem stopped_deliverDown (group : Nat) : (s.deliverDown ctx epoch g group m).stopped = s.stopped := by
  unfold State.deliverDown
  dsimp only
  rw [show ∀ t : State, t.tidyColls.stopped = t.stopped from fun _ => rfl, stopped_relayDown]
  split
  · exact stopped_recordEpoch _
  · rfl

theorem stopped_shadowRoot (take : Bool) : (s.shadowRoot ctx epoch g take).stopped = s.stopped := by
  unfold State.shadowRoot
  repeat' with_reducible first | rfl | split | extract_lets
  all_goals rfl

theorem stopped_downFlitsAt (c : Coll) : (s.downFlitsAt c g l m).stopped = s.stopped := by
  unfold State.downFlitsAt
  extract_lets early s0 w mine here got n s1
  have hs1 : s1.stopped = s.stopped := rfl
  split
  · rfl
  · split
    · rfl
    · split
      · exact hs1
      · rw [stopped_deliverDown, stopped_shadowRoot, hs1]

/-- What a down message off a link does, once its group is known. -/
theorem downFrom_eq (hb : s.binding ctx = some b) (hg : s.group b.group = some g) : s.downFrom ctx epoch l m =
    let all := flitOf b.group ctx epoch (5 :: valuePhases)
    let drop := s.takeFlits l 3 all (s.flitsOn l 3 all)
    if s.hasRoot g then s
    else if (s.upPorts g).contains l = false then (if (s.formerUpPorts g).contains l then drop else s)
    else if b.endedEpoch epoch then drop
    else match s.coll ctx epoch with
      | some c => s.downFlitsAt c g l m
      | none => if s.flitsOn l 3 all = 0 then s else drop.deliverDown ctx epoch g b.group m := by
  simp only [State.downFrom, hb, hg] <;> rfl

theorem stopped_downFrom (hb : s.binding ctx = some b) (hg : s.group b.group = some g) :
    (s.downFrom ctx epoch l m).stopped = s.stopped := by
  rw [downFrom_eq hb hg]
  dsimp only
  repeat' split
  all_goals first | rfl | exact stopped_downFlitsAt _ | exact stopped_deliverDown _

/-- What stalls a port or a bank is Masthead's list of tests. -/
theorem portStalled_congr {t : State} (h : t.mh.tests = s.mh.tests) (p : Nat) : t.portStalled p = s.portStalled p := by
  simp only [State.portStalled, State.stalledClusters, h]

theorem bankStalled_congr {t : State} (h : t.mh.tests = s.mh.tests) : t.bankStalled = s.bankStalled := by
  simp only [State.bankStalled, h]

/-- The row by which a port takes a down message. -/
def downRow (ctx : Fin 4096) (epoch : Fin 65536) (p : Pos) (m : DownMsg) (src : DownSource) : Instr :=
  match m with
  | .counts _ _ => .routeCountsResult ctx epoch p src
  | _ => .resultAtPort ctx epoch p src

/-- A down message is taken off its link, and then the port takes what is there for it. -/
theorem exec_downRow {ctx : Fin 4096} {epoch : Fin 65536} (p : Pos) (l : PortNo) (hb : s.binding ctx = some b) (hg : s.group b.group = some g)
    (hp : s.portStalled p = false) (hm : (∃ x e, m = .counts x e) → s.stopped = false ∧ s.bankStalled = false) :
    exec (downRow ctx epoch p m (.offDie l m)) s = exec (downRow ctx epoch p m .onDie) (s.downFrom ctx epoch l m) := by
  have htests := (core_downFrom ctx.val epoch.val l.val m s.core_refl).tests
  have hport := (portStalled_congr htests p).trans hp
  cases m with
  | counts t e =>
    obtain ⟨hstop, hbank⟩ := hm ⟨t, e, rfl⟩
    simp [downRow, execRouteCountsResult, hport, bankStalled_congr htests, stopped_downFrom hb hg, hp, hstop, hbank]
  | pass1 | widen | final | ended => simp [downRow, execResultAtPort, hport, hp]

/-- The values of earlier passes, read off the channel fields. -/
theorem earlierFlit_eq (c : Coll) :
    (fun f => flitOf c.group c.ctx c.epoch valuePhases f && c.phases.all (fun ph => decide (bits f 12 3 < ph))) =
      (fun f => flitOf c.group c.ctx c.epoch valuePhases f && c.earlier (bits f 12 3)) := by
  funext f
  simp only [flitOf, Coll.earlier]
  cases valuePhases.contains (bits f 12 3) <;> simp

/-- What the flits of a down message do for a collective that waits for it. -/
theorem downFlitsAt_eq (c : Coll) : s.downFlitsAt c g l m =
    let early : BitVec 50 → Bool := fun f => flitOf c.group c.ctx c.epoch valuePhases f && c.phases.all (fun ph => decide (bits f 12 3 < ph))
    let s1 := s.takeFlits l 3 early (s.flitsOn l 3 early)
    let mine := flitOf c.group c.ctx c.epoch (c.downNeed m).1
    let got := if hasValues m then c.gotDown else 0
    let n := min (s1.flitsOn l 3 mine) ((c.downNeed m).2 - got)
    let s2 := s1.takeFlits l 3 mine n
    if n = 0 then s1
    else if c.staleDown m then s2
    else if got + n < (c.downNeed m).2 then s2.setColl { c with gotDown := got + n, early := match m with | .final r => some r | _ => c.early }
    else (s2.shadowRoot c.ctx c.epoch g false).deliverDown c.ctx c.epoch g c.group m := by
  rw [earlierFlit_eq]
  rfl

end DownMessages

/-- Settles O20: each row is its equation, case by case. -/
theorem partialsAndDownMessagesCountOnce : Obligations.PartialsAndDownMessagesCountOnce := by
  unfold Obligations.PartialsAndDownMessagesCountOnce
  refine ⟨?_, ?_⟩
  · intro s ctx epoch l fnid j u flown b g r hb hg hr i all drop c0 c mine part need n s1 mark v
    have hexec : exec i s = .next (if s.rootStalled then s else s.treeFlitFrom ctx epoch l fnid j u flown) := rfl
    rw [hexec, treeFlitFrom_eq hb hg hr]
    change (_ → Host.Outcome.next (if s.rootStalled then s else if s.formerPort r j = some l.val then drop else _) = _) ∧ _
    refine ⟨fun h => by simp [h], fun hf hi => by simp [hf, hi], fun hs hf => by simp [hs, hf, drop, all], fun hs hf hi => ⟨?_, ?_⟩⟩
    · intro h
      simp [hs, hf, hi, h, drop, all]
    · intro hfl he hh
      have hc : s.collFor ctx epoch b g r u = c := collFor_host hh
      simp only [hs, hf, hi, hfl, he, hc, ne_eq, not_true_eq_false, Bool.false_eq_true, or_self, if_false]
      clear_value c
      refine ⟨fun h => by rw [if_pos h], fun hp hn => ?_⟩
      rw [if_neg (by simp [hp, hn])]
      have hin : s.inputFlits c g r l j u = if n = 0 then s else if part.count + n < need ∧ mark = false then
          s1.setColl { c with got := { part with count := part.count + n } :: c.got.filter (fun x => !(x.fnid == r.fnid && x.input == j.val)) }
        else (s1.setColl { c with nodes := c.nodes ++ [(r.fnid, j.val, v)] }).treeArrival c.ctx c.epoch g (some r) v := rfl
      rw [hin]
      refine ⟨fun h => by rw [if_pos h], fun h hlt hm => by rw [if_neg h, if_pos ⟨hlt, hm⟩], fun h hor => ?_⟩
      rw [if_neg h, if_neg (fun hpart => hor.elim (Nat.not_le.mpr hpart.1) (ne_true_of_eq_false hpart.2))]
  · intro s ctx epoch p l m b g hb hg hp hm row becomes all drop
    have hdown : ∀ t, s.downFrom ctx epoch l m = t → becomes t := by
      rintro t rfl
      exact exec_downRow p l hb hg hp hm
    have heq := downFrom_eq (ctx := ctx) (epoch := epoch) (l := l) (m := m) hb hg
    refine ⟨fun h => hdown _ ?_, fun h hu => ⟨fun hf => hdown _ ?_, fun hf => hdown _ ?_⟩, fun h hu => ⟨fun he => hdown _ ?_, fun he hc => ⟨fun hn => hdown _ ?_, fun hn => hdown _ ?_⟩, ?_⟩⟩
    · rw [heq]; exact if_pos h
    · rw [heq, h, hu, hf]; rfl
    · rw [heq, h, hu, hf]; rfl
    · rw [heq, h, hu, he]; rfl
    · rw [heq, h, hu, he, hc]; exact if_pos hn
    · rw [heq, h, hu, he, hc]; exact if_neg hn
    · intro he c hc early s1 mine need got n s2
      have hflits : s.downFrom ctx epoch l m = s.downFlitsAt c g l m := by rw [heq, h, hu, he, hc]; rfl
      rw [downFlitsAt_eq] at hflits
      refine ⟨fun hn => hdown _ ?_, fun hn hs => hdown _ ?_, fun hn hs hlt => hdown _ ?_, fun hn hs hge => hdown _ ?_⟩
      · exact hflits.trans (if_pos hn)
      · exact hflits.trans ((if_neg hn).trans (if_pos hs))
      · exact hflits.trans ((if_neg hn).trans ((if_neg (ne_true_of_eq_false hs)).trans (if_pos hlt)))
      · exact hflits.trans ((if_neg hn).trans ((if_neg (ne_true_of_eq_false hs)).trans (if_neg (Nat.not_lt.mpr hge))))

end Sys2Proof.Machine

/-! SUPPORT. The list of collectives: what is found in it after one is put in, changed or taken out. -/

namespace Sys2Proof.Machine

open Sys2Proof

section Collectives

variable {s : State} {ctx epoch : Nat} {c : Coll}

/-- A collective that is found has the keys it was looked up by. -/
theorem coll_keys (h : s.coll ctx epoch = some c) : c.ctx = ctx ∧ c.epoch = epoch := by
  have := List.find?_some h
  simpa using this

theorem coll_mem (h : s.coll ctx epoch = some c) : c ∈ s.ops.colls := List.mem_of_find?_eq_some h

/-- Where a change of some entries keeps a test's answer, the first entry that passes it is the changed first one. -/
theorem find?_mapIf {α : Type} {p q : α → Bool} {f : α → α} (hp : ∀ x, q x = true → p (f x) = p x) (l : List α) :
    (mapIf q f l).find? p = (l.find? p).map (fun x => if q x then f x else x) := by
  have hcomp : (p ∘ fun x => if q x then f x else x) = p := by
    funext x
    by_cases hq : q x = true <;> simp [hq, hp]
  rw [mapIf, List.find?_map, hcomp]

/-- A change that keeps the keys is found in place of what was there. -/
theorem coll_modColl {f : Coll → Coll} (a b : Nat) (hf : ∀ c, (f c).ctx = c.ctx ∧ (f c).epoch = c.epoch) :
    (s.modColl ctx epoch f).coll a b = (s.coll a b).map (fun c => if c.ctx == ctx && c.epoch == epoch then f c else c) :=
  find?_mapIf (fun x _ => by simp [hf x]) _

theorem coll_modColl_same {f : Coll → Coll} (hf : ∀ c, (f c).ctx = c.ctx ∧ (f c).epoch = c.epoch) (h : s.coll ctx epoch = some c) :
    (s.modColl ctx epoch f).coll ctx epoch = some (f c) := by
  rw [coll_modColl _ _ hf, h]
  simp [coll_keys h]

/-- A change leaves collectives of other keys alone. -/
theorem coll_modColl_other {f : Coll → Coll} {a b : Nat} (hf : ∀ c, (f c).ctx = c.ctx ∧ (f c).epoch = c.epoch) (h : s.coll a b = some c)
    (hab : a ≠ ctx ∨ b ≠ epoch) : (s.modColl ctx epoch f).coll a b = some c := by
  obtain ⟨rfl, rfl⟩ := coll_keys h
  rw [coll_modColl _ _ hf, h]
  rcases hab with hab | hab <;> simp [hab]

/-- A collective put in over one of the same keys is found. -/
theorem coll_setColl {d : Coll} (h : s.coll ctx epoch = some c) (hc : d.ctx = ctx) (he : d.epoch = epoch) :
    (s.setColl d).coll ctx epoch = some d := by
  subst hc he
  have hany : s.ops.colls.any (fun x => x.ctx == d.ctx && x.epoch == d.epoch) = true :=
    List.any_eq_true.mpr ⟨c, coll_mem h, by simp [coll_keys h]⟩
  have hset : (s.setColl d).ops.colls = mapIf (fun x => x.ctx == d.ctx && x.epoch == d.epoch) (fun _ => d) s.ops.colls := by
    simp only [State.setColl, hany, if_true]
  rw [State.coll, hset, find?_mapIf (fun x hx => by simpa using hx), ← State.coll, h]
  simp [coll_keys h]

/-- A collective with a member outstanding, or not ended, is not tidied away. -/
theorem coll_tidyColls (h : s.coll ctx epoch = some c) (hc : c.members ≠ [] ∨ c.ended = none) : s.tidyColls.coll ctx epoch = some c := by
  have hkeep : (c.ended.isSome && c.members.isEmpty) = false := by
    rcases hc with h | h <;> simp [h]
  simp only [State.coll, State.tidyColls] at h ⊢
  obtain ⟨hp, as, bs, hl, has⟩ := List.find?_eq_some_iff_append.mp h
  have hno : (as.filter (fun c => !(c.ended.isSome && c.members.isEmpty))).find? (fun c => c.ctx == ctx && c.epoch == epoch) = none :=
    List.find?_eq_none.mpr fun x hx => by simpa only [Bool.not_eq_true', Bool.not_eq_true] using has x (List.mem_of_mem_filter hx)
  rw [hl, List.filter_append, List.filter_cons_of_pos (by simp [hkeep]), List.find?_append, hno, Option.none_or]
  exact List.find?_cons_of_pos hp

end Collectives

/-! ## The bookkeeping of collectives: what it does to their list, the slots and the queue, and that it leaves all else alone -/

section Bookkeeping

variable (s : State)

/-- An accepted member as it starts (R266). -/
def State.started (s : State) (p : Nat) (m : Member) : Member :=
  if dOpcode m.desc = 0x20 then { s.routeMember p m.desc m.tagSlot with live := m.live }
  else
    { m with
      stage := .sending
      up := some (s.contribution p m.desc 1 false [] (s.passCodes m.desc (shapeOf (definingOf m.desc)) 1 [] [])) }

/-- A start takes a slot for its context where it has none, and puts the started member in place of the queued one. -/
theorem startMember_eq (ctx epoch p : Nat) : s.startMember ctx epoch p = { s with ops := { s.ops with
    slots := if s.ops.slots.contains ctx then s.ops.slots else s.ops.slots ++ [ctx]
    colls := mapIf (fun c => c.ctx == ctx && c.epoch == epoch) (fun c => { c with members := startQueued p (s.started p) c.members }) s.ops.colls } } := by
  unfold State.startMember
  cases s.ops.slots.contains ctx <;> rfl

/-- `t` differs from `s` at most in the outstanding operations. -/
def OnlyOps (s t : State) : Prop := t = { s with ops := t.ops }

variable {s} {t u : State}

theorem OnlyOps.refl (s : State) : OnlyOps s s := rfl

theorem OnlyOps.trans (h : OnlyOps s t) (h' : OnlyOps t u) : OnlyOps s u := by
  unfold OnlyOps at *
  rw [h', h]

theorem onlyOps_startMember (ctx epoch p : Nat) : OnlyOps s (s.startMember ctx epoch p) := by
  rw [startMember_eq]
  rfl

theorem onlyOps_admitFrom (n : Nat) : OnlyOps s (s.admitFrom n) := by
  induction n generalizing s with
  | zero => rfl
  | succ n ih =>
    unfold State.admitFrom
    extract_lets q next
    clear_value next
    cases next with
    | none => rfl
    | some e => exact OnlyOps.trans (show OnlyOps s { s with ops := { s.ops with queue := q.erase e } } from rfl) ((onlyOps_startMember _ _ _).trans ih)

theorem onlyOps_leaveColl (ctx epoch p : Nat) (live : Bool) : OnlyOps s (s.leaveColl ctx epoch p live) := by
  unfold State.leaveColl State.releaseSlot State.admitNext
  split
  · rfl
  · exact OnlyOps.trans (by rfl) (onlyOps_admitFrom _)

/-- A live member's completion waits at its port; besides that only the outstanding operations change. -/
theorem completeMember_live {ctx epoch opval : Nat} {m : Member} {st : CStatus} {x : Tally} (h : m.live = true) :
    ∃ o, s.completeMember ctx epoch m st x opval = ({ s with ops := o } : State).pushDone m.pos (doneOf m.desc st x opval 0 true (some (ctx, epoch))) := by
  unfold State.completeMember
  simp only [h, if_true]
  exact ⟨_, rfl⟩

/-- A result goes into chip memory and nowhere else. -/
theorem writeResult_eq (p : Nat) (d : Desc) (r : Result) : s.writeResult p d r = { s with mem := (s.writeResult p d r).mem } := by
  unfold State.writeResult
  extract_lets x codes bytes t
  have ht : t = { s with mem := t.mem } := by
    simp only [t]
    split <;> rfl
  split
  · exact ht
  · rw [ht]; rfl

/-- A state without its chip memory and its count of free values. -/
def State.noMem (s : State) : State := { s with mem := [], free := 0 }

theorem noMem_endBlocks (x : Shape) (dst : Nat) (codes : List (Option Nat)) : (s.endBlocks x dst codes).noMem = s.noMem := by
  unfold State.endBlocks
  refine forEach_inv _ _ State.noMem (fun b s => ?_) s
  extract_lets part written s1
  split <;> rfl

/-- A destination that becomes undefined changes chip memory and the free values alone. -/
theorem voidDest_eq (ctx epoch : Nat) (d : Desc) :
    s.voidDest ctx epoch d = { s with mem := (s.voidDest ctx epoch d).mem, free := (s.voidDest ctx epoch d).free } := by
  have h : (s.voidDest ctx epoch d).noMem = s.noMem := by
    unfold State.voidDest
    extract_lets x
    split
    · exact noMem_endBlocks _ _ _
    · exact forEach_inv (destRanges d) (fun r s => storeFree s r.1 r.2) State.noMem (fun _ _ => rfl) s
  exact congrArg (fun t : State => { t with mem := (s.voidDest ctx epoch d).mem, free := (s.voidDest ctx epoch d).free }) h

end Bookkeeping

section Ports

variable {s : State} {ctx : Fin 4096} {epoch : Fin 65536} {p : Pos} {c : Coll} {m : Member}

/-- The row at a member's port: what has come down is taken, unless the half stalls. -/
theorem exec_resultAtPort_onDie (ctx : Fin 4096) (epoch : Fin 65536) (p : Pos) (s : State) :
    exec (.resultAtPort ctx epoch p .onDie) s = .next (if s.portStalled p then s else s.resultHere ctx epoch p) := by
  simp only [exec_resultAtPort, execResultAtPort]
  split <;> rfl

/-- The member that has something to take takes it. -/
theorem exec_resultAtPort_takes {dn : DownMsg} (hc : s.coll ctx epoch = some c) (hs : s.portStalled p = false) (ht : c.taker p = some (m, dn)) :
    exec (.resultAtPort ctx epoch p .onDie) s = .next (s.portTakes c m dn) := by
  simp only [exec_resultAtPort_onDie, hs, State.resultHere, hc, ht]
  rfl

/-- A result is written, and its completion waits at the port. -/
theorem portTakes_final {r : Result} (hw : s.Sound) (hm : m.live = true) : ∃ t, s.portTakes c m (.final r) = t ∧
    t.mem = (s.writeResult m.pos m.desc r).mem ∧
    t.port m.pos = { s.port m.pos with done := (s.port m.pos).done ++ [doneOf m.desc r.status r.tally r.opval 0 true (some (c.ctx, c.epoch))] } ∧
    (∀ q, q ≠ m.pos → t.port q = s.port q) ∧ t = { s with mem := t.mem, ports := t.ports, ops := t.ops } := by
  obtain ⟨o, ho⟩ := completeMember_live (s := s.writeResult m.pos m.desc r) (ctx := c.ctx) (epoch := c.epoch) (opval := r.opval) (st := r.status) (x := r.tally) hm
  have he : s.portTakes c m (.final r) = _ := ho
  rw [writeResult_eq] at he
  rw [he]
  exact ⟨_, rfl, rfl, Tbl.get_set_same _ _ hw.ports_wf, fun q hq => Tbl.get_set_other _ hq, rfl⟩

/-- A completed `ROUTE`'s slot is free again, and no other slot changes. -/
theorem tagSlot_abandonRoute_same {k : Nat} (hw : s.Sound) : (s.abandonRoute k).tagSlot k = tagDefault 0 := Tbl.get_set_same _ _ hw.tags_wf

theorem tagSlot_abandonRoute_other {k q : Nat} (h : q ≠ k) : (s.abandonRoute k).tagSlot q = s.tagSlot q := Tbl.get_set_other _ h

/-- An outcome without a result: the destination is void where the manual says so, the tag slot goes back, and the completion waits. -/
theorem portTakes_ended {st : CStatus} (hw : s.Sound) (hm : m.live = true) : ∃ t, s.portTakes c m (.ended st) = t ∧
    t.port m.pos = { s.port m.pos with done := (s.port m.pos).done ++ [doneOf m.desc st Tally.zero 0 0 true (some (c.ctx, c.epoch))] } ∧
    (CStatusVoid st = false → t.mem = s.mem) ∧ (∀ q, q ≠ m.pos → t.port q = s.port q) ∧
    (m.tagSlot = none → t = { s with mem := t.mem, ports := t.ports, ops := t.ops, free := t.free }) ∧
    (∀ k, m.tagSlot = some k → t = { s with mem := t.mem, ports := t.ports, ops := t.ops, free := t.free, led := { s.led with tags := t.led.tags } } ∧
      (t.tagSlot k).st = .free ∧ (t.tagSlot k).blocks = [] ∧ (∀ q, q ≠ k → t.tagSlot q = s.tagSlot q)) := by
  -- the state in which the member completes: its destination is settled
  obtain ⟨u, hu, hmem⟩ : ∃ u : State, (if CStatusVoid st then s.voidDest c.ctx c.epoch m.desc else s) = { s with mem := u.mem, free := u.free } ∧
      (CStatusVoid st = false → u.mem = s.mem) := by
    cases CStatusVoid st with
    | true => exact ⟨_, voidDest_eq _ _ _, nofun⟩
    | false => exact ⟨s, rfl, fun _ => rfl⟩
  have hended : s.portTakes c m (.ended st) = (match m.tagSlot with
      | some k => ({ s with mem := u.mem, free := u.free } : State).abandonRoute k
      | none => { s with mem := u.mem, free := u.free }).completeMember c.ctx c.epoch m st Tally.zero 0 := by
    rw [← hu]; rfl
  cases hk : m.tagSlot with
  | none =>
    obtain ⟨o, ho⟩ := completeMember_live (s := { s with mem := u.mem, free := u.free }) (ctx := c.ctx) (epoch := c.epoch) (opval := 0) (st := st)
      (x := Tally.zero) hm
    rw [hended, hk]
    refine ⟨_, rfl, ?_⟩
    simp only [ho]
    exact ⟨Tbl.get_set_same _ _ hw.ports_wf, hmem, fun q hq => Tbl.get_set_other _ hq, fun _ => rfl, nofun⟩
  | some k =>
    obtain ⟨o, ho⟩ := completeMember_live (s := ({ s with mem := u.mem, free := u.free } : State).abandonRoute k) (ctx := c.ctx) (epoch := c.epoch)
      (opval := 0) (st := st) (x := Tally.zero) hm
    rw [hended, hk]
    refine ⟨_, rfl, ?_⟩
    simp only [ho]
    refine ⟨Tbl.get_set_same _ _ hw.ports_wf, hmem, fun q hq => Tbl.get_set_other _ hq, nofun, fun k' hk' => ?_⟩
    obtain rfl := Option.some.inj hk'
    refine ⟨rfl, ?_, ?_, fun q hq => tagSlot_abandonRoute_other (s := s) hq⟩
    · exact congrArg TagSlot.st (tagSlot_abandonRoute_same (k := k) hw)
    · exact congrArg TagSlot.blocks (tagSlot_abandonRoute_same (k := k) hw)

/-! ## Completion records -/

variable {x : Done} {rest : List Done}

/-- The oldest completion is written where the ring has room. -/
theorem exec_completionWrite_writes (hd : (s.port p).done = x :: rest) (hr : (s.port p).rebinding = false) (hroom : (s.port p).cqRoom = true)
    (hin : inSpace [((s.port p).recordAddr, 32)] = true) : exec (.completionWrite p) s = .next (s.writeCompletion p x rest) := by
  simp only [exec_completionWrite, execCompletionWrite, hd, hr, hroom, hin]
  rfl

/-- A port that is being rebound, or whose ring has no room, writes nothing. -/
theorem exec_completionWrite_waits (h : (s.port p).rebinding = true ∨ (s.port p).cqRoom = false) : exec (.completionWrite p) s = .next s := by
  simp only [exec_completionWrite, execCompletionWrite, if_pos h]
  split <;> rfl

/-- The port once the oldest completion is in its ring. -/
def Port.recorded (q : Port) (rest : List Done) : Port :=
  { q with
    done := rest, cqTail := (q.cqTail + 1) % ringSize q.cqCfg, opened := q.opened - 1
    cqPhase := if q.cqTail + 1 = ringSize q.cqCfg then !q.cqPhase else q.cqPhase }

/-- The record is in memory, the port's ring one further. -/
def State.recorded (s : State) (p : Nat) (x : Done) (rest : List Done) : State :=
  (store s (s.port p).recordAddr (wordBytes 32 (x.record (s.port p).cqPhase))).setPort p ((s.port p).recorded rest)

/-- The completion signal of a record leaves behind it. -/
def State.signalled (s : State) (p : Nat) (x : Done) : State :=
  match x.csig with
  | some w => s.completionSignal p w
  | none => s

/-- What is in flight once the completion signal of a record has left. -/
def State.signals (s : State) (p : Nat) (x : Done) : List Flight :=
  s.tt.flights ++ (match x.csig with
    | some w => [{ cmd := fields 64 [(60, 4, 1), (32, 20, 1), (0, 16, w.toNat)], issuer := BitVec.ofNat 25 (s.rig p), via := .completion }]
    | none => [])

theorem signalled_eq (s : State) (p : Nat) (x : Done) : s.signalled p x = { s with tt := { s.tt with flights := s.signals p x } } := by
  unfold State.signalled State.signals State.completionSignal
  cases x.csig with
  | none => simp only [List.append_nil]
  | some w => rfl

/-- What a record and its signal change: chip memory, the port and the commands in flight. -/
theorem recorded_signalled_eq (s : State) (p : Nat) (x : Done) (rest : List Done) : (s.recorded p x rest).signalled p x = { s with
    mem := Memory.writeN s.mem (s.port p).recordAddr (wordBytes 32 (x.record (s.port p).cqPhase))
    ports := Tbl.set portDefault s.ports p ((s.port p).recorded rest)
    tt := { s.tt with flights := s.signals p x } } := by
  unfold State.recorded
  generalize wordBytes 32 (x.record (s.port p).cqPhase) = bytes
  rw [signalled_eq]
  rfl

/-- A completion is recorded and signalled, and its member leaves its collective. -/
theorem writeCompletion_eq (s : State) (p : Nat) (x : Done) (rest : List Done) : s.writeCompletion p x rest = match x.coll with
    | some k => ((s.recorded p x rest).signalled p x).leaveColl k.1 k.2 p true
    | none => (s.recorded p x rest).signalled p x := rfl

end Ports

/-! ## The end of a context's last member (R266) -/

section Admission

variable {s : State} {ctx epoch p : Nat} {c : Coll} {m : Member}

/-- The one member of a collective, done and live, leaves it. -/
theorem dropMember_one (hp : m.pos = p) (hd : m.stage = .done) (hl : m.live = true) : dropMember p true [m] = [] := by
  simp [dropMember, hp, hd, hl]

/-- The collectives once the completed member of (`ctx`, `epoch`) has left. -/
def State.without (s : State) (ctx epoch p : Nat) : State :=
  (s.modColl ctx epoch (fun c => { c with members := dropMember p true c.members })).tidyColls

/-- A collective of other keys with a member outstanding stays. -/
theorem coll_without {a b : Nat} {k : Coll} (h : s.coll a b = some k) (hab : a ≠ ctx ∨ b ≠ epoch) (hk : k.members ≠ []) :
    (s.without ctx epoch p).coll a b = some k :=
  coll_tidyColls (coll_modColl_other (fun _ => ⟨rfl, rfl⟩) h hab) (.inl hk)

theorem mem_without {d : Coll} (h : d ∈ s.ops.colls) (hd : d.ctx ≠ ctx ∨ d.epoch ≠ epoch) (hk : d.members ≠ []) :
    d ∈ (s.without ctx epoch p).ops.colls := by
  refine List.mem_filter.mpr ⟨List.mem_map.mpr ⟨d, h, ?_⟩, by simp [hk]⟩
  rcases hd with hd | hd <;> simp [hd]

/-- While another member of the context is outstanding, its slot stays taken and the queue waits. -/
theorem leaveColl_waits (h : ∃ d ∈ s.ops.colls, d.ctx = ctx ∧ d.epoch ≠ epoch ∧ d.members ≠ []) :
    (s.leaveColl ctx epoch p true).ops.slots = s.ops.slots ∧ (s.leaveColl ctx epoch p true).ops.queue = s.ops.queue := by
  obtain ⟨d, hd, hc, he, hm⟩ := h
  have hany : (s.without ctx epoch p).ops.colls.any (fun c => c.ctx == ctx && !c.members.isEmpty) = true :=
    List.any_eq_true.mpr ⟨d, mem_without hd (.inr he) hm, by simp [hc, hm]⟩
  have hleave : s.leaveColl ctx epoch p true = s.without ctx epoch p := if_pos hany
  rw [hleave]
  exact ⟨rfl, rfl⟩

/-- The same, with the slot of the context free. -/
def State.slotFreed (s : State) (ctx epoch p : Nat) : State :=
  { s.without ctx epoch p with ops := { (s.without ctx epoch p).ops with slots := s.ops.slots.filter (fun x => decide (x ≠ ctx)) } }

/-- With the context's last member gone, its slot is free and the queue is served. -/
theorem leaveColl_admits (hk : (s.ops.colls.map (fun c => (c.ctx, c.epoch))).Nodup) (hc : s.coll ctx epoch = some c)
    (hm : dropMember p true c.members = []) (ho : ∀ d ∈ s.ops.colls, d.ctx = ctx → d.epoch ≠ epoch → d.members = []) :
    s.leaveColl ctx epoch p true = (s.slotFreed ctx epoch p).admitNext := by
  refine if_neg ?_
  simp only [List.any_eq_true, not_exists, not_and, Bool.and_eq_true, beq_iff_eq, Bool.not_eq_true', List.isEmpty_eq_false_iff]
  intro d hd hctx
  obtain ⟨x, hx, hxd⟩ := List.mem_map.mp (List.mem_of_mem_filter hd)
  by_cases hkey : x.ctx = ctx ∧ x.epoch = epoch
  · have hxc : x = c := List.inj_on_of_nodup_map hk hx (coll_mem hc) (by simp [coll_keys hc, hkey])
    subst hxc
    simp [← hxd, hkey, hm]
  · have hxd : x = d := by simpa [hkey] using hxd
    subst hxd
    simpa using ho x hx hctx fun he => hkey ⟨hctx, he⟩

/-- The one operation that waits for a slot takes the free one. -/
theorem admitNext_one {e : Nat × Nat × Nat} (hq : s.ops.queue = [e]) (he : e.1 ∉ s.ops.slots) (hfree : s.ops.slots.length < 256) :
    s.admitNext = ({ s with ops := { s.ops with queue := [] } } : State).startMember e.1 e.2.1 e.2.2 := by
  simp [State.admitNext, State.admitFrom, hq, he, hfree]

/-- The queued member that is found starts, and no other. -/
theorem startQueued_found {f : Member → Member} {q : Member} {l : List Member} (hf : ∀ m, (f m).pos = p ∧ (f m).stage = .sending ∨ m.pos ≠ p)
    (h : l.find? (fun y => decide (y.pos = p) && decide (y.stage = .queued) && y.live) = some q) :
    (startQueued p f l).any (fun y => decide (y.pos = p) && decide (y.stage = .sending)) = true ∧
      ((startQueued p f l).filter (fun y => decide (y.stage = .queued))).length + 1 = (l.filter (fun y => decide (y.stage = .queued))).length := by
  induction l with
  | nil => simp at h
  | cons m r ih =>
    by_cases hm : m.pos = p ∧ m.stage = .queued ∧ m.live = true
    · obtain ⟨hp, hs⟩ := (hf m).resolve_right (by simp [hm.1])
      simp [startQueued, hm, hp, hs]
    · have hr : r.find? (fun y => decide (y.pos = p) && decide (y.stage = .queued) && y.live) = some q := by
        rwa [List.find?_cons_of_neg (by simpa [and_assoc] using hm)] at h
      obtain ⟨hany, hlen⟩ := ih hr
      rw [startQueued, if_neg hm]
      refine ⟨by simp only [List.any_cons, hany, Bool.or_true], ?_⟩
      by_cases hq : m.stage = .queued
      · simp [hq, hlen]
      · simpa [hq] using hlen

/-- A member that starts is at its port, with a contribution in flight. -/
theorem started_sends (m : Member) : (s.started p m).pos = p ∧ (s.started p m).stage = .sending ∨ m.pos ≠ p := by
  unfold State.started
  split
  · exact .inl ⟨rfl, rfl⟩
  · by_cases h : m.pos = p
    · exact .inl ⟨h, rfl⟩
    · exact .inr h

/-- A start at a context without a slot takes one. -/
theorem startMember_newSlot {k : Coll} (hslot : ctx ∉ s.ops.slots) (h : s.coll ctx epoch = some k) :
    (s.startMember ctx epoch p).ops.slots = s.ops.slots ++ [ctx] ∧ (s.startMember ctx epoch p).ops.queue = s.ops.queue ∧
      (s.startMember ctx epoch p).coll ctx epoch = some { k with members := startQueued p (s.started p) k.members } := by
  rw [startMember_eq]
  refine ⟨by simp [hslot], rfl, ?_⟩
  exact coll_modColl_same (f := fun c => { c with members := startQueued p (s.started p) c.members }) (fun _ => ⟨rfl, rfl⟩) h

/-- With all slots taken, the last member of a context makes room for the one operation that waits. -/
theorem leaveColl_admits_one {e : Nat × Nat × Nat} {k : Coll} {q : Member} (hk : (s.ops.colls.map (fun c => (c.ctx, c.epoch))).Nodup)
    (hc : s.coll ctx epoch = some c) (hm : dropMember p true c.members = [])
    (ho : ∀ d ∈ s.ops.colls, d.ctx = ctx → d.epoch ≠ epoch → d.members = []) (hin : ctx ∈ s.ops.slots) (hfull : s.ops.slots.length = 256)
    (hq : s.ops.queue = [e]) (he : e.1 ∉ s.ops.slots) (hek : s.coll e.1 e.2.1 = some k)
    (hfind : k.members.find? (fun y => decide (y.pos = e.2.2) && decide (y.stage = .queued) && y.live) = some q) :
    ∃ k', (s.leaveColl ctx epoch p true).ops.slots = s.ops.slots.filter (fun y => decide (y ≠ ctx)) ++ [e.1] ∧
      (s.leaveColl ctx epoch p true).ops.queue = [] ∧ (s.leaveColl ctx epoch p true).coll e.1 e.2.1 = some k' ∧
      k'.members.any (fun y => decide (y.pos = e.2.2) && decide (y.stage = .sending)) = true ∧
      (k'.members.filter (fun y => decide (y.stage = .queued))).length + 1 = (k.members.filter (fun y => decide (y.stage = .queued))).length := by
  have hne : e.1 ≠ ctx := fun h => he (h ▸ hin)
  have hmem : k.members ≠ [] := by rintro h; simp [h] at hfind
  have hfree : (s.slotFreed ctx epoch p).ops.slots.length < 256 :=
    hfull ▸ List.length_filter_lt_length_iff_exists.mpr ⟨ctx, hin, by simp⟩
  have he' : e.1 ∉ (s.slotFreed ctx epoch p).ops.slots := fun h => he (List.mem_filter.mp h).1
  have hek' : (s.slotFreed ctx epoch p).coll e.1 e.2.1 = some k := coll_without hek (.inl hne) hmem
  rw [leaveColl_admits hk hc hm ho, admitNext_one (s := s.slotFreed ctx epoch p) hq he' hfree]
  obtain ⟨hslots, hqueue, hcoll⟩ := startMember_newSlot (p := e.2.2) (s := { s.slotFreed ctx epoch p with
    ops := { (s.slotFreed ctx epoch p).ops with queue := [] } }) he' hek'
  exact ⟨_, hslots, hqueue, hcoll, startQueued_found started_sends hfind⟩

end Admission

/-! ## The obligation -/

/-- What the row leaves besides the recorded state are the outstanding operations, and those only change with a collective. -/
theorem writeCompletion_frame (s : State) (p : Nat) (x : Done) (rest : List Done) :
    OnlyOps ((s.recorded p x rest).signalled p x) (s.writeCompletion p x rest) ∧ (x.coll = none → (s.writeCompletion p x rest).ops = s.ops) := by
  rw [writeCompletion_eq]
  cases x.coll with
  | none => exact ⟨OnlyOps.refl _, fun _ => by rw [recorded_signalled_eq]⟩
  | some k => exact ⟨onlyOps_leaveColl _ _ _ _, nofun⟩

/-- Settles O21: the member's part by what has come down, the record of the oldest completion, and the admission of the next operation. -/
theorem resultsAndCompletionsAreWritten : Obligations.ResultsAndCompletionsAreWritten := by
  unfold Obligations.ResultsAndCompletionsAreWritten
  refine ⟨?_, ?_, ?_⟩
  · intro s ctx epoch p hw i
    have hexec : exec i s = _ := exec_resultAtPort_onDie ctx epoch p s
    refine ⟨?_, fun c hc ht => ?_, fun c m hc hs => ?_⟩
    · rintro (hc | hs)
      · simp [hexec, State.resultHere, hc]
      · simp [hexec, hs]
    · simp [hexec, State.resultHere, hc, ht]
    · obtain ⟨hctx, hepoch⟩ := coll_keys hc
      rw [← hctx, ← hepoch]
      refine ⟨fun r ht hl => ?_, fun st ht hl => ?_, fun dn ht hdn => ?_⟩
      · obtain ⟨t, he, h⟩ := portTakes_final (c := c) (r := r) hw hl
        exact ⟨t, (exec_resultAtPort_takes hc hs ht).trans (congrArg _ he), h⟩
      · obtain ⟨t, he, h⟩ := portTakes_ended (c := c) (st := st) hw hl
        exact ⟨t, (exec_resultAtPort_takes hc hs ht).trans (congrArg _ he), h⟩
      · rw [show exec i s = _ from exec_resultAtPort_takes hc hs ht]
        rcases hdn with ⟨w, b, rfl⟩ | ⟨w, b, k, rfl⟩ <;> rfl
  · intro s p x rest hw
    dsimp only
    refine ⟨fun h => ?_, fun hd hr hroom hin => ?_⟩
    · rcases h with h | h | h
      · simp only [exec_completionWrite, execCompletionWrite, show (s.port p).done = [] from h] <;> rfl
      · exact exec_completionWrite_waits (.inl h)
      · exact exec_completionWrite_waits (.inr h)
    · obtain ⟨hframe, hops⟩ := writeCompletion_frame s p x rest
      refine ⟨_, exec_completionWrite_writes hd hr hroom hin, ?_⟩
      generalize s.writeCompletion p x rest = t at hframe hops
      unfold OnlyOps at hframe
      rw [recorded_signalled_eq] at hframe
      generalize Memory.writeN s.mem (s.port p).recordAddr (wordBytes 32 (x.record (s.port p).cqPhase)) = mem at hframe ⊢
      generalize hports : Tbl.set portDefault s.ports p ((s.port p).recorded rest) = ports at hframe
      have hport : ∀ k, t.port k = Tbl.get portDefault ports k := fun k => by rw [hframe]; rfl
      refine ⟨by rw [hframe], ?_, fun k hk => ?_, by rw [hframe]; rfl, hops, by rw [hframe]⟩
      · rw [hport, ← hports]
        exact Tbl.get_set_same _ _ hw.ports_wf
      · rw [hport, ← hports]
        exact Tbl.get_set_other _ hk
  · intro s p x rest ctx epoch c m hw hd hr hroom hin hx hk hc hcm hp hdone hl
    have hexec := exec_completionWrite_writes hd hr hroom hin
    rw [writeCompletion_eq, hx] at hexec
    obtain ⟨u, hu⟩ : ∃ u, u = (s.recorded p x rest).signalled p x := ⟨_, rfl⟩
    have hops : u.ops = s.ops := by rw [hu, recorded_signalled_eq]
    have hcoll : ∀ a b, u.coll a b = s.coll a b := fun a b => by rw [State.coll, hops]; rfl
    rw [← hops] at hk
    rw [← hcoll] at hc
    rw [← hu] at hexec
    rw [← hops]
    refine ⟨fun ho => ⟨_, hexec, leaveColl_waits ho⟩, fun e k q ho hslot hfull _ hqueue he hek hfind => ?_⟩
    rw [← hcoll] at hek
    obtain ⟨k', h⟩ := leaveColl_admits_one (p := p) hk hc (by rw [hcm, dropMember_one hp hdone hl]) ho hslot hfull hqueue he hek hfind
    exact ⟨_, k', hexec, h⟩

end Sys2Proof.Machine

/-! SUPPORT. A contribution at its cluster node, and what the root of a group of one chip says (R30 to R36, R86, R87, R429). -/

namespace Sys2Proof.Machine

open Sys2Proof

section RootDecision

variable (s : State) (n : Nat) (c : Coll) (u : UpMsg)

/-- `d` differs from `c` at most in what the root remembers of a pass. -/
def OnlyMemory (c d : Coll) : Prop := ∃ p1 thr t words codes widened,
  d = { c with asP1 := p1, thr := thr, tally := t, words := words, codes := codes, widened := widened }

/-- The root's decision keeps the collective but for what it remembers of the pass. -/
theorem rootSays_keeps : OnlyMemory c (s.rootSays n c u).1 := by
  unfold State.rootSays
  extract_lets x first p1 thr d vals nums sumKind reefed
  have hd : OnlyMemory c d := ⟨p1, thr, _, _, _, _, rfl⟩
  repeat' with_reducible first | exact hd | split
  all_goals exact ⟨p1, thr, _, _, _, _, rfl⟩

/-- A choice answers the same twice where both of its branches do. -/
theorem ite_snd_congr {α β : Type} {p : Prop} [Decidable p] {a b a' b' : α × β} (ha : a.2 = a'.2) (hb : b.2 = b'.2) :
    (if p then a else b).2 = (if p then a' else b').2 := by
  split
  · exact ha
  · exact hb

/-- What the root says does not depend on which values have left. -/
theorem rootSays_sentUp (l : List Nat) : (s.rootSays n { c with sentUp := l } u).2 = (s.rootSays n c u).2 := by
  unfold State.rootSays
  refine ite_snd_congr rfl (ite_snd_congr rfl (ite_snd_congr rfl (ite_snd_congr rfl (ite_snd_congr rfl ?_))))
  dsimp only
  generalize passKind (shapeOf c.defn) _ c.pass = k
  cases k with
  | word | level => exact ite_snd_congr rfl rfl
  | nsMax | window | plain | counts => rfl

end RootDecision

/-! ## A group of one chip -/

section OneChip

variable {s : State} {g : Group} {ctx epoch group n : Nat} {c : Coll} {u : UpMsg} {m : DownMsg}

/-- `t` differs from `s` at most in the collectives, the bound contexts and Masthead. -/
def OnlyColls (s t : State) : Prop := t = { s with ops := { s.ops with colls := t.ops.colls }, ctxs := t.ctxs, mh := t.mh }

theorem OnlyColls.trans {t u : State} (h : OnlyColls s t) (h' : OnlyColls t u) : OnlyColls s u := by
  unfold OnlyColls at *
  rw [h', h]

theorem recordEpoch_eq (st : CStatus) : s.recordEpoch ctx epoch st = { s with
    ctxs := (s.recordEpoch ctx epoch st).ctxs, mh := (s.recordEpoch ctx epoch st).mh } := by
  unfold State.recordEpoch
  split
  · rfl
  · extract_lets t
    have ht : t = { s with mh := t.mh } := by
      simp only [t]
      split <;> rfl
    rw [ht]

/-- A collective that takes what comes down: the pass is over, and its members are the same. -/
theorem takeDown_fields : (c.takeDown m).down = some m ∧ (c.takeDown m).ended = downStatus m ∧ (c.takeDown m).pass = c.pass + 1 ∧
    (c.takeDown m).arrived = [] ∧ (c.takeDown m).members = c.members ∧ (c.takeDown m).ctx = c.ctx ∧ (c.takeDown m).epoch = c.epoch := by
  cases m <;> exact ⟨rfl, rfl, rfl, rfl, rfl, rfl, rfl⟩

theorem downPorts_nil (h : g.folds = []) : s.downPorts g = [] := by
  simp [State.downPorts, State.foreignInputs, State.hosted, h]

/-- In a group of one chip a down message goes nowhere but into the collective and the record of the epoch. -/
theorem deliverDown_oneChip (hg : g.folds = []) (hc : s.coll ctx epoch = some c) (hm : c.members ≠ []) :
    (s.deliverDown ctx epoch g group m).coll ctx epoch = some (c.takeDown m) ∧ OnlyColls s (s.deliverDown ctx epoch g group m) := by
  obtain ⟨-, -, -, -, hmembers, -, -⟩ := takeDown_fields (c := c) (m := m)
  have hmod : (s.modColl ctx epoch (fun c => c.takeDown m)).coll ctx epoch = some (c.takeDown m) :=
    coll_modColl_same (fun c => takeDown_fields.2.2.2.2.2) hc
  unfold State.deliverDown
  extract_lets l s1 s2
  have hrelay : s2.relayDown g l = s2 := by rw [State.relayDown, downPorts_nil hg]; rfl
  have h2 : s2 = { s1 with ctxs := s2.ctxs, mh := s2.mh } := by
    simp only [s2]
    split
    · exact recordEpoch_eq _
    · rfl
  rw [hrelay]
  refine ⟨coll_tidyColls ?_ (.inl (hmembers ▸ hm)), ?_⟩
  · rw [h2]; exact hmod
  · exact OnlyColls.trans (t := s2) (by rw [h2]; rfl) rfl

/-- A pass that the root concludes in a group of one chip. -/
theorem concludePass_oneChip (hg : g.folds = []) (hc : s.coll ctx epoch = some c) (hm : c.members ≠ []) (he : c.ended = none) :
    ∃ e, (s.concludePass ctx epoch g u).coll ctx epoch = some e ∧ e.down = some (s.rootSays g.nmemb c u).2 ∧ e.ended = e.down.bind downStatus ∧
      e.pass = c.pass + 1 ∧ e.arrived = [] ∧ e.members = c.members ∧ OnlyColls s (s.concludePass ctx epoch g u) := by
  obtain ⟨hctx, hepoch⟩ := coll_keys hc
  obtain ⟨p1, thr, t, words, codes, widened, hd⟩ := rootSays_keeps s g.nmemb c u
  have hconclude : s.concludePass ctx epoch g u =
      (s.setColl (s.rootSays g.nmemb c u).1).deliverDown ctx epoch g c.group (s.rootSays g.nmemb c u).2 := by
    simp only [State.concludePass, hc, he]
    rfl
  have hset : (s.setColl (s.rootSays g.nmemb c u).1).coll ctx epoch = some (s.rootSays g.nmemb c u).1 :=
    coll_setColl hc (by rw [hd]; exact hctx) (by rw [hd]; exact hepoch)
  obtain ⟨hcoll, honly⟩ := deliverDown_oneChip (group := c.group) (m := (s.rootSays g.nmemb c u).2) hg hset (by rw [hd]; exact hm)
  obtain ⟨hdown, hended, hpass, harr, hmem, -, -⟩ := takeDown_fields (c := (s.rootSays g.nmemb c u).1) (m := (s.rootSays g.nmemb c u).2)
  rw [hconclude]
  refine ⟨_, hcoll, hdown, by rw [hdown, hended]; rfl, ?_, harr, ?_, OnlyColls.trans (by rfl) honly⟩
  · rw [hpass, hd]
  · rw [hmem, hd]

/-- An outcome without a result that the root decides in a group of one chip. -/
theorem endAtRoot_oneChip {st : CStatus} (hg : g.folds = []) (hc : s.coll ctx epoch = some c) (hm : c.members ≠ []) (he : c.ended = none) :
    ∃ e, (s.endAtRoot ctx epoch g st).coll ctx epoch = some e ∧ e.ended = some st ∧ e.down = some (.ended st) ∧ e.members = c.members ∧
      OnlyColls s (s.endAtRoot ctx epoch g st) := by
  have hend : s.endAtRoot ctx epoch g st = s.deliverDown ctx epoch g c.group (.ended st) := by
    simp only [State.endAtRoot, hc, he]
    rfl
  obtain ⟨hcoll, honly⟩ := deliverDown_oneChip (group := c.group) (m := .ended st) hg hc hm
  rw [hend]
  exact ⟨_, hcoll, rfl, rfl, rfl, honly⟩

/-- What a contribution does that has reached its node in a group of one chip: a disagreement or a fault mark ends the collective, and
otherwise the chip's value leaves when it is whole. -/
theorem treeArrival_oneChip (hg : g.folds = []) (hc : s.coll ctx epoch = some c) : s.treeArrival ctx epoch g none u =
    let odd := u.clash || decide (u.defn ≠ c.defn)
    if odd || u.fault then s.endAtRoot ctx epoch g (if odd then .badContext else .fault) else s.sendChipValue ctx epoch g := by
  have hroot : s.hasRoot g = true := by simp [State.hasRoot, hg]
  have hadvance : s.advance ctx epoch g = s.sendChipValue ctx epoch g := by
    simp [State.advance, State.hosted, State.fedBelow, State.shadowRoot, State.standbyRoot, hg, sortBy, forEach]
  simp only [State.treeArrival, hc, State.forwardMark, hroot, hadvance]
  rfl

/-- A chip's value of a group of one chip waits until every member has come. -/
theorem sendChipValue_waits (hc : s.coll ctx epoch = some c) (hall : g.locals.all (fun p => c.arrived.any (fun a => a.1 == p)) = false) :
    s.sendChipValue ctx epoch g = s := by
  simp [State.sendChipValue, hc, hall]

/-- What has arrived is not empty where a member was awaited and every one has come. -/
theorem exists_head_of_all (hall : g.locals.all (fun p => c.arrived.any (fun a => a.1 == p)) = true) (hl : g.locals ≠ []) :
    ∃ a, c.arrived.head? = some a := by
  cases harr : c.arrived with
  | cons a r => exact ⟨a, rfl⟩
  | nil =>
    obtain ⟨q, r, hq⟩ := List.exists_cons_of_ne_nil hl
    simp [hq, harr] at hall

/-- The root's input in a group of one chip: the folded contributions, with the reef bit of a lost splice bundle. -/
def State.chipValue (s : State) (g : Group) (c : Coll) (a : Nat × UpMsg) : UpMsg :=
  let x := shapeOf c.defn
  let f := foldUps x (passKind x c.asP1 c.pass) (sortBy (·.1) c.arrived)
  let y := joinUps (c.arrived.map (·.2)) f.1 f.2 a.2
  { y with reef := y.reef || (!s.units.spliceLost.isEmpty && s.crossesSplice g) }

/-- The last member's contribution in a group of one chip: the root decides on the folded contributions at once (log 72). -/
theorem sendChipValue_oneChip {a : Nat × UpMsg} (hg : g.folds = []) (hc : s.coll ctx epoch = some c) (ha : c.arrived.head? = some a)
    (hall : g.locals.all (fun p => c.arrived.any (fun a => a.1 == p)) = true) (hl : g.locals ≠ []) (he : c.ended = none)
    (hup : c.sentUp.contains 0 = false) : s.sendChipValue ctx epoch g =
      (s.modColl ctx epoch (fun c => { c with sentUp := 0 :: c.sentUp })).concludePass ctx epoch g (s.chipValue g c a) := by
  have hgo : ¬ (c.ended.isSome ∨ c.sentUp.contains 0 ∨ g.locals.isEmpty ∨ g.locals.all (fun p => c.arrived.any (fun a => a.1 == p)) = false) := by
    rw [he, hup, hall]
    simp [hl]
  simp only [State.sendChipValue, hc]
  rw [if_neg hgo]
  simp only [ha, hg, List.isEmpty_nil, if_true]
  rfl

/-- What the root says to the folded contributions of a group of one chip is on its way down. -/
theorem sendChipValue_decides {a : Nat × UpMsg} (hg : g.folds = []) (hc : s.coll ctx epoch = some c) (ha : c.arrived.head? = some a)
    (hall : g.locals.all (fun p => c.arrived.any (fun a => a.1 == p)) = true) (hl : g.locals ≠ []) (he : c.ended = none)
    (hup : c.sentUp.contains 0 = false) (hm : c.members ≠ []) :
    ∃ e, (s.sendChipValue ctx epoch g).coll ctx epoch = some e ∧ e.down = some (s.rootSays g.nmemb c (s.chipValue g c a)).2 ∧
      e.ended = e.down.bind downStatus ∧ e.pass = c.pass + 1 ∧ e.arrived = [] ∧ e.members = c.members ∧
      OnlyColls s (s.sendChipValue ctx epoch g) := by
  rw [sendChipValue_oneChip hg hc ha hall hl he hup]
  have hmod : (s.modColl ctx epoch (fun c => { c with sentUp := 0 :: c.sentUp })).coll ctx epoch = some { c with sentUp := 0 :: c.sentUp } :=
    coll_modColl_same (fun _ => ⟨rfl, rfl⟩) hc
  obtain ⟨e, hcoll, hdown, hended, hpass, harr, hmem, honly⟩ := concludePass_oneChip (u := s.chipValue g c a) hg hmod hm he
  rw [rootSays_sentUp] at hdown
  exact ⟨e, hcoll, hdown, hended, hpass, harr, hmem, OnlyColls.trans (by rfl) honly⟩

end OneChip

/-! ## A contribution at its cluster node -/

section Contribution

variable {s : State} {c : Coll} {p : Nat} {u : UpMsg} {g : Group} {m : Member} {ctx epoch : Nat}

/-- A collective with the contribution of a position noted, once. -/
def Coll.noted (c : Coll) (p : Nat) (u v : UpMsg) : Coll := { c with
  members := sentMember p c.members
  defn := if c.arrived.isEmpty && c.nodes.isEmpty && c.got.isEmpty && c.pass == 1 then u.defn else c.defn
  arrived := if c.arrived.any (fun a => a.1 == p) then c.arrived else c.arrived ++ [(p, v)] }

theorem sentMember_ne_nil (h : m ∈ c.members) : sentMember p c.members ≠ [] := by
  obtain ⟨y, r, hr⟩ := List.exists_cons_of_ne_nil (List.ne_nil_of_mem h)
  rw [hr, sentMember]
  split <;> simp

theorem treeFlitHere_eq (hc : s.coll ctx epoch = some c) (hm : c.members.find? (fun m => m.pos == p && m.stage == .sending) = some m)
    (hu : m.up = some u) (hg : s.group c.group = some g) :
    let v := { u with reef := u.reef || s.clusterReefed p }
    s.treeFlitHere ctx epoch p = (s.setColl (c.noted p u v)).treeArrival ctx epoch g none v := by
  simp only [State.treeFlitHere, hc, hm, hg, hu]
  rfl

end Contribution

/-- A member's contribution reaches the tree once: `TreeFlitsAreFolded`'s first part. -/
theorem treeFlit_member (s : State) (ctx : Fin 4096) (epoch : Fin 65536) (p : Pos) :
    (s.portHeld p = true ∨ s.coll ctx epoch = none → exec (.treeFlit ctx epoch (.onDie p)) s = .next s) ∧
    (∀ c m u g, s.portHeld p = false → s.coll ctx epoch = some c →
      c.members.find? (fun m => m.pos == p.val && m.stage == .sending) = some m → m.up = some u → s.group c.group = some g →
      let v := { u with reef := u.reef || s.clusterReefed p }
      let d := c.noted p u v
      let odd := u.clash || decide (u.defn ≠ d.defn)
      exec (.treeFlit ctx epoch (.onDie p)) s = .next ((s.setColl d).treeArrival ctx epoch g none v) ∧
      (g.folds = [] → odd = false → u.fault = false → g.locals.all (fun q => d.arrived.any (fun a => a.1 == q)) = false →
        exec (.treeFlit ctx epoch (.onDie p)) s = .next (s.setColl d)) ∧
      (g.folds = [] → odd = false → u.fault = false → g.locals.all (fun q => d.arrived.any (fun a => a.1 == q)) = true → g.locals ≠ [] →
        c.ended = none → c.sentUp.contains 0 = false →
        ∃ t e a, exec (.treeFlit ctx epoch (.onDie p)) s = .next t ∧ d.arrived.head? = some a ∧ t.coll ctx epoch = some e ∧
          e.down = some (s.rootSays g.nmemb d (s.chipValue g d a)).2 ∧ e.ended = e.down.bind downStatus ∧
          e.pass = d.pass + 1 ∧ e.arrived = [] ∧ e.members = d.members ∧ OnlyColls s t) ∧
      (g.folds = [] → odd = true ∨ u.fault = true → c.ended = none →
        ∃ t e, exec (.treeFlit ctx epoch (.onDie p)) s = .next t ∧ t.coll ctx epoch = some e ∧
          e.ended = some (if odd then .badContext else .fault) ∧ e.down = some (.ended (if odd then .badContext else .fault)) ∧ e.members = d.members ∧
          OnlyColls s t)) := by
  have hexec : exec (.treeFlit ctx epoch (.onDie p)) s = .next (if s.portHeld p then s else s.treeFlitHere ctx epoch p) := rfl
  refine ⟨?_, ?_⟩
  · rintro (h | h)
    · rw [hexec, if_pos h]
    · rw [hexec, State.treeFlitHere, h]
      simp only [ite_self]
  intro c m u g hheld hc hm hu hgr v d odd
  obtain ⟨hctx, hepoch⟩ := coll_keys hc
  have hgo : exec (.treeFlit ctx epoch (.onDie p)) s = .next ((s.setColl d).treeArrival ctx epoch g none v) := by
    rw [hexec, if_neg (by simp [hheld]), treeFlitHere_eq hc hm hu hgr]
  have hd : (s.setColl d).coll ctx epoch = some d := coll_setColl hc hctx hepoch
  have hmem : d.members ≠ [] := sentMember_ne_nil (List.mem_of_find?_eq_some hm)
  have harrival (hg : g.folds = []) : (s.setColl d).treeArrival ctx epoch g none v = if odd || u.fault then
      (s.setColl d).endAtRoot ctx epoch g (if odd then .badContext else .fault) else (s.setColl d).sendChipValue ctx epoch g :=
    treeArrival_oneChip hg hd
  have hsend (hg : g.folds = []) (hodd : odd = false) (hfault : u.fault = false) :
      (s.setColl d).treeArrival ctx epoch g none v = (s.setColl d).sendChipValue ctx epoch g := by
    simp [harrival hg, hodd, hfault]
  refine ⟨hgo, ?_, ?_, ?_⟩
  · intro hg hodd hfault hall
    rw [hgo, hsend hg hodd hfault, sendChipValue_waits hd hall]
  · intro hg hodd hfault hall hl hended hup
    obtain ⟨a, ha⟩ := exists_head_of_all hall hl
    obtain ⟨e, hcoll, hdown, hend, hpass, harr, hmem', honly⟩ := sendChipValue_decides hg hd ha hall hl hended hup hmem
    rw [← hsend hg hodd hfault] at hcoll honly
    exact ⟨_, e, a, hgo, ha, hcoll, hdown, hend, hpass, harr, hmem', OnlyColls.trans (by rfl) honly⟩
  · intro hg hmark hended
    have hend : (s.setColl d).treeArrival ctx epoch g none v = (s.setColl d).endAtRoot ctx epoch g (if odd then .badContext else .fault) := by
      rw [harrival hg, if_pos (by simpa using hmark)]
    obtain ⟨e, hcoll, hend', hdown, hmem', honly⟩ := endAtRoot_oneChip (st := if odd then .badContext else .fault) hg hd hmem hended
    rw [← hend] at hcoll honly
    exact ⟨_, e, hgo, hcoll, hend', hdown, hmem', OnlyColls.trans (by rfl) honly⟩

end Sys2Proof.Machine

/-! SUPPORT. Lists without duplicates and lists sorted by a key. -/

namespace Sys2Proof.Machine

open Sys2Proof

section Lists

variable {α : Type} {key : α → Nat}

/-- `uniq` adds some of the entries, in their order. -/
theorem uniq_go (l acc : List Nat) : ∃ t, l.foldl (fun acc x => if acc.contains x then acc else acc ++ [x]) acc = acc ++ t ∧ t.Sublist l := by
  induction l generalizing acc with
  | nil => exact ⟨[], by simp⟩
  | cons x r ih =>
    rw [List.foldl_cons]
    split
    · obtain ⟨t, ht, hs⟩ := ih acc
      exact ⟨t, ht, hs.cons x⟩
    · obtain ⟨t, ht, hs⟩ := ih (acc ++ [x])
      exact ⟨x :: t, by rw [ht, List.append_assoc]; rfl, hs.cons_cons x⟩

theorem uniq_sublist (l : List Nat) : (uniq l).Sublist l := by
  obtain ⟨t, ht, hs⟩ := uniq_go l []
  exact (show uniq l = t from ht) ▸ hs

theorem mem_uniq {l : List Nat} {x : Nat} : x ∈ uniq l ↔ x ∈ l := by
  suffices h : ∀ acc : List Nat, x ∈ l.foldl (fun acc x => if acc.contains x then acc else acc ++ [x]) acc ↔ x ∈ acc ∨ x ∈ l by
    exact (h []).trans (by simp)
  induction l with
  | nil => simp
  | cons y r ih =>
    intro acc
    rw [List.foldl_cons, ih]
    by_cases hy : acc.contains y = true
    · rw [if_pos hy]
      have : y ∈ acc := by simpa using hy
      grind
    · rw [if_neg hy]
      simp [or_assoc]

theorem uniq_nodup (l : List Nat) : (uniq l).Nodup := by
  suffices h : ∀ acc : List Nat, acc.Nodup → (l.foldl (fun acc x => if acc.contains x then acc else acc ++ [x]) acc).Nodup from h [] List.nodup_nil
  induction l with
  | nil => exact fun _ h => h
  | cons y r ih =>
    intro acc hacc
    rw [List.foldl_cons]
    by_cases hy : acc.contains y = true
    · rw [if_pos hy]
      exact ih acc hacc
    · rw [if_neg hy]
      refine ih _ (List.nodup_append.mpr ⟨hacc, by simp, ?_⟩)
      have : y ∉ acc := by simpa using hy
      grind

theorem uniq_filter (p : Nat → Bool) (l : List Nat) : uniq (l.filter p) = (uniq l).filter p := by
  suffices h : ∀ acc : List Nat, (l.filter p).foldl (fun acc x => if acc.contains x then acc else acc ++ [x]) (acc.filter p) =
      (l.foldl (fun acc x => if acc.contains x then acc else acc ++ [x]) acc).filter p from h []
  induction l with
  | nil => exact fun _ => rfl
  | cons y r ih =>
    intro acc
    rw [List.foldl_cons, ← ih]
    cases hp : p y
    · rw [List.filter_cons_of_neg (by simp [hp])]
      congr 1
      split <;> simp [hp]
    · rw [List.filter_cons_of_pos hp, List.foldl_cons]
      congr 1
      simp only [List.contains_iff_mem, List.mem_filter, hp, and_true]
      split <;> simp [hp]

/-- A list that ascends, without its duplicates, ascends strictly. -/
theorem uniq_ascends {l : List Nat} (h : l.Pairwise (· ≤ ·)) : (uniq l).Pairwise (· < ·) :=
  ((h.sublist (uniq_sublist l)).and (uniq_nodup l)).imp (fun h => Nat.lt_of_le_of_ne h.1 h.2)

theorem insertBy_perm (x : α) (l : List α) : (insertBy key x l).Perm (x :: l) := by
  induction l with
  | nil => exact List.Perm.refl _
  | cons y r ih =>
    rw [insertBy]
    split
    · exact List.Perm.refl _
    · exact (ih.cons y).trans (List.Perm.swap x y r)

theorem insertBy_sorted (x : α) {l : List α} (h : l.Pairwise (fun a b => key a ≤ key b)) :
    (insertBy key x l).Pairwise (fun a b => key a ≤ key b) := by
  induction l with
  | nil => simp [insertBy]
  | cons y r ih =>
    obtain ⟨hy, hr⟩ := List.pairwise_cons.mp h
    rw [insertBy]
    split
    case isTrue hlt => exact List.pairwise_cons.mpr ⟨fun b hb => by
      rcases List.mem_cons.mp hb with rfl | hb
      · exact hlt.le
      · exact hlt.le.trans (hy b hb), h⟩
    case isFalse hle => exact List.pairwise_cons.mpr ⟨fun b hb => by
      rcases List.mem_cons.mp ((insertBy_perm x r).subset hb) with rfl | hb
      · exact Nat.le_of_not_lt hle
      · exact hy b hb, ih hr⟩

/-- An entry whose key no entry exceeds goes to the end. -/
theorem insertBy_last (x : α) {l : List α} (h : ∀ y ∈ l, key y ≤ key x) : insertBy key x l = l ++ [x] := by
  induction l with
  | nil => rfl
  | cons y r ih =>
    obtain ⟨hy, hr⟩ := List.forall_mem_cons.mp h
    rw [insertBy, if_neg (Nat.not_lt.mpr hy), ih hr]
    rfl

theorem insertBy_filter (p : α → Bool) (x : α) {l : List α} (h : l.Pairwise (fun a b => key a ≤ key b)) :
    (insertBy key x l).filter p = if p x then insertBy key x (l.filter p) else l.filter p := by
  induction l with
  | nil => simp [insertBy, List.filter_cons]
  | cons y r ih =>
    obtain ⟨hy, hr⟩ := List.pairwise_cons.mp h
    rw [insertBy]
    split
    case isTrue hlt =>
      have hfirst : ∀ m : List α, (∀ b ∈ m, key x < key b) → insertBy key x m = x :: m := by
        intro m hm
        cases m with
        | nil => rfl
        | cons b m => rw [insertBy, if_pos (hm b (List.mem_cons_self ..))]
      rw [List.filter_cons, hfirst]
      intro b hb
      rcases List.mem_cons.mp (List.mem_of_mem_filter hb) with rfl | hb
      · exact hlt
      · exact hlt.trans_le (hy b hb)
    case isFalse hle =>
      rw [List.filter_cons, List.filter_cons, ih hr]
      cases p x <;> cases p y <;> simp [insertBy, hle]

theorem sortBy_append (l : List α) (x : α) : sortBy key (l ++ [x]) = insertBy key x (sortBy key l) := by
  simp [sortBy]

theorem sortBy_perm (l : List α) : (sortBy key l).Perm l := by
  induction l using List.reverseRecOn with
  | nil => exact List.Perm.refl _
  | append_singleton l x ih =>
    rw [sortBy_append]
    exact (insertBy_perm x _).trans ((ih.cons x).trans (List.perm_append_singleton x l).symm)

theorem sortBy_sorted (l : List α) : (sortBy key l).Pairwise (fun a b => key a ≤ key b) := by
  induction l using List.reverseRecOn with
  | nil => exact List.Pairwise.nil
  | append_singleton l x ih => exact sortBy_append l x ▸ insertBy_sorted x ih

/-- A list in order stays as it is. -/
theorem sortBy_of_sorted {l : List α} (h : l.Pairwise (fun a b => key a ≤ key b)) : sortBy key l = l := by
  induction l using List.reverseRecOn with
  | nil => rfl
  | append_singleton l x ih =>
    obtain ⟨hl, -, hx⟩ := List.pairwise_append.mp h
    rw [sortBy_append, ih hl, insertBy_last]
    exact fun y hy => hx y hy x (List.mem_singleton_self x)

theorem sortBy_sortBy (l : List α) : sortBy key (sortBy key l) = sortBy key l := sortBy_of_sorted (sortBy_sorted l)

theorem sortBy_filter (p : α → Bool) (l : List α) : sortBy key (l.filter p) = (sortBy key l).filter p := by
  induction l using List.reverseRecOn with
  | nil => rfl
  | append_singleton l x ih =>
    rw [sortBy_append, insertBy_filter p x (sortBy_sorted l), List.filter_append, List.filter_singleton, ← ih]
    cases p x
    · simp
    · simp [sortBy_append]

/-- Keys that differ ascend strictly in order. -/
theorem sortBy_ascends {l : List α} (h : (l.map key).Nodup) : (sortBy key l).Pairwise (fun a b => key a < key b) := by
  have hne : (sortBy key l).Pairwise (fun a b => key a ≠ key b) :=
    List.pairwise_map.mp (((sortBy_perm l).map key).nodup_iff.mpr h)
  exact ((sortBy_sorted l).and hne).imp (fun h => Nat.lt_of_le_of_ne h.1 h.2)

/-- Where keys differ, the order of a list does not matter. -/
theorem sortBy_eq_of_perm {l m : List α} (h : (l.map key).Nodup) (hp : l.Perm m) : sortBy key l = sortBy key m := by
  have hm : (m.map key).Nodup := (hp.map key).nodup_iff.mp h
  refine List.Perm.eq_of_pairwise (fun a b _ _ hab hba => absurd hab (Nat.lt_asymm hba)) (sortBy_ascends h) (sortBy_ascends hm) ?_
  exact (sortBy_perm l).trans (hp.trans (sortBy_perm m).symm)

/-- Lists that ascend strictly and have the same entries are one list. -/
theorem eq_of_ascends {l m : List Nat} (hl : l.Pairwise (· < ·)) (hm : m.Pairwise (· < ·)) (h : ∀ x, x ∈ l ↔ x ∈ m) : l = m := by
  have hp : l.Perm m := (List.perm_ext_iff_of_nodup (hl.imp Nat.ne_of_lt) (hm.imp Nat.ne_of_lt)).mpr h
  exact hp.eq_of_pairwise (fun a b _ _ hab hba => absurd hab (Nat.lt_asymm hba)) hl hm

/-- A sorted list begins with the entries of its least key. -/
theorem sorted_eq_least_append {l : List α} {c : Nat} (h : l.Pairwise (fun a b => key a ≤ key b)) (hc : ∀ x ∈ l, c ≤ key x) :
    l = l.filter (fun x => decide (key x = c)) ++ l.filter (fun x => decide (key x ≠ c)) := by
  induction l with
  | nil => rfl
  | cons y r ih =>
    obtain ⟨hy, hr⟩ := List.pairwise_cons.mp h
    obtain ⟨hcy, hcr⟩ := List.forall_mem_cons.mp hc
    by_cases heq : key y = c
    · simpa [List.filter_cons, heq] using ih hr hcr
    · have hlt : ∀ x ∈ r, key x ≠ c := fun x hx => by have := hy x hx; omega
      have hall : r.filter (fun x => decide (key x ≠ c)) = r := List.filter_eq_self.mpr (by simpa using hlt)
      have hnone : r.filter (fun x => decide (key x = c)) = [] := List.filter_eq_nil_iff.mpr (by simpa using hlt)
      rw [List.filter_cons_of_neg (by simpa using heq), List.filter_cons_of_pos (by simpa using heq), hall, hnone]
      rfl

/-- A sorted list is its runs of equal keys, one after another. -/
theorem sorted_eq_runs {l : List α} {ks : List Nat} (h : l.Pairwise (fun a b => key a ≤ key b)) (hk : ks.Pairwise (· < ·))
    (hmem : ∀ x ∈ l, key x ∈ ks) : l = ks.flatMap (fun c => l.filter (fun x => decide (key x = c))) := by
  induction ks generalizing l with
  | nil => exact List.eq_nil_iff_forall_not_mem.mpr (fun x hx => by simpa using hmem x hx)
  | cons c ks ih =>
    obtain ⟨hc, hks⟩ := List.pairwise_cons.mp hk
    have hle : ∀ x ∈ l, c ≤ key x := by
      intro x hx
      rcases List.mem_cons.mp (hmem x hx) with h | h
      · omega
      · exact (hc _ h).le
    have hrest := ih (l := l.filter (fun x => decide (key x ≠ c))) (h.filter _) hks (by
      intro x hx
      obtain ⟨hx, hne⟩ := List.mem_filter.mp hx
      exact (List.mem_cons.mp (hmem x hx)).resolve_left (by simpa using hne))
    have hruns : ks.flatMap (fun c' => (l.filter (fun x => decide (key x ≠ c))).filter (fun x => decide (key x = c'))) =
        ks.flatMap (fun c' => l.filter (fun x => decide (key x = c'))) := by
      refine List.flatMap_congr (fun c' hc' => ?_)
      rw [List.filter_filter]
      refine List.filter_congr (fun x _ => ?_)
      have := hc c' hc'
      by_cases hx : key x = c'
      · simp [hx]; omega
      · simp [hx]
    rw [hruns] at hrest
    rw [List.flatMap_cons, ← hrest]
    exact sorted_eq_least_append h hle

end Lists

end Sys2Proof.Machine

/-! SUPPORT. The canonical fold, what it keeps, and the levels of the tree (R30 to R33). -/

namespace Sys2Proof.Machine

open Sys2Proof

/-! ## The canonical fold -/

section Fold

variable {α : Type} {op : α → α → α × Tally}

/-- The left fold of some values, if there is one. -/
def leftFold (op : α → α → α × Tally) : List α → Option α
  | [] => none
  | x :: r => some (r.foldl (fun y z => (op y z).1) x)

theorem foldGroup_fst (a : α) (l : List α) : (foldGroup op a l).1 = l.foldl (fun y z => (op y z).1) a := by
  induction l generalizing a with
  | nil => rfl
  | cons x r ih => exact ih _

/-- The groups of four values and the rest, each as its left fold. -/
def groupFolds (op : α → α → α × Tally) (l : List α) : List α :=
  (List.range ((l.length + 3) / 4)).filterMap (fun b => leftFold op ((l.drop (4 * b)).take 4))

theorem groupFolds_four (a b c d : α) (r : List α) :
    groupFolds op (a :: b :: c :: d :: r) = (foldGroup op a [b, c, d]).1 :: groupFolds op r := by
  have hlen : ((a :: b :: c :: d :: r).length + 3) / 4 = (r.length + 3) / 4 + 1 := by simp only [List.length_cons]; omega
  rw [groupFolds, hlen, List.range_succ_eq_map, List.filterMap_cons, List.filterMap_map]
  rfl

/-- A round of the fold leaves one value for each group. -/
theorem foldRound_fst (l : List α) : (foldRound op l).1 = groupFolds op l := by
  induction l using foldRound.induct (op := op) with
  | case1 => simp [foldRound, groupFolds]
  | case2 a => simp [foldRound, groupFolds, leftFold]
  | case3 a b => simp [foldRound, groupFolds, leftFold, foldGroup_fst]
  | case4 a b c => simp [foldRound, groupFolds, leftFold, foldGroup_fst]
  | case5 a b c d r ih => rw [groupFolds_four, ← ih, foldRound]

theorem foldRound_length (l : List α) : (foldRound op l).1.length = (l.length + 3) / 4 := by
  induction l using foldRound.induct (op := op) with
  | case5 a b c d r ih =>
    rw [foldRound, List.length_cons, ih]
    simp only [List.length_cons]
    omega
  | _ => simp [foldRound]

/-- Rounds enough are enough. -/
theorem foldRounds_fuel {n m : Nat} {l : List α} (hn : l.length ≤ n) (hm : l.length ≤ m) : foldRounds op n l = foldRounds op m l := by
  induction n generalizing m l with
  | zero =>
    cases List.eq_nil_of_length_eq_zero (Nat.le_zero.mp hn)
    cases m <;> rfl
  | succ n ih =>
    cases m with
    | zero => cases List.eq_nil_of_length_eq_zero (Nat.le_zero.mp hm); rfl
    | succ m =>
      rw [foldRounds, foldRounds]
      split
      · rfl
      · have hlen := foldRound_length (op := op) l
        have hrest := ih (m := m) (l := (foldRound op l).1) (by omega) (by omega)
        simp only [hrest]

@[simp] theorem cfold_nil : cfold op [] = (none, Tally.zero) := rfl

@[simp] theorem cfold_singleton (a : α) : cfold op [a] = (some a, Tally.zero) := rfl

/-- Several values fold to what the results of their groups fold to. -/
theorem cfold_fst_of_two_le {l : List α} (h : 2 ≤ l.length) : (cfold op l).1 = (cfold op (groupFolds op l)).1 := by
  obtain ⟨n, hn⟩ : ∃ n, l.length = n + 1 := ⟨l.length - 1, by omega⟩
  have hlen := foldRound_length (op := op) l
  have hrounds : (foldRounds op l.length l).1 = (foldRounds op (foldRound op l).1.length (foldRound op l).1).1 := by
    rw [hn, foldRounds, if_neg (by omega), foldRounds_fuel (m := n) le_rfl (by omega)]
  rw [cfold, cfold, ← foldRound_fst, hrounds]

/-- Up to four values fold from the left. -/
theorem cfold_fst_of_le_four (a : α) {l : List α} (h : l.length ≤ 3) : (cfold op (a :: l)).1 = leftFold op (a :: l) :=
  match l, h with
  | [], _ => rfl
  | [_], _ => rfl
  | [_, _], _ => rfl
  | [_, _, _], _ => rfl

end Fold

/-! ## What folding keeps -/

section Cover

variable {α β : Type} {op : β → β → β × Tally} {R : α → α → Prop} {P : List α → β → Prop} {T : Tally → Prop} {S : List α} {vs : List β}

/-- Some values stand for the consecutive parts of a list, one for each. -/
inductive Cover (P : List α → β → Prop) : List α → List β → Prop
  | nil : Cover P [] []
  | cons {p S : List α} {v : β} {vs : List β} : P p v → Cover P S vs → Cover P (p ++ S) (v :: vs)

/-- A step of two values that stand for neighbouring parts stands for both; `T` is what is known of the tallies. -/
structure Joins (op : β → β → β × Tally) (R : α → α → Prop) (P : List α → β → Prop) (T : Tally → Prop) : Prop where
  zero : T Tally.zero
  join : ∀ {a b}, T a → T b → T (a.join b)
  step : ∀ {l r a b}, (l ++ r).Pairwise R → P l a → P r b → P (l ++ r) (op a b).1 ∧ T (op a b).2

theorem Cover.append_inv {A B : List β} (h : Cover P S (A ++ B)) : ∃ S1 S2, S = S1 ++ S2 ∧ Cover P S1 A ∧ Cover P S2 B := by
  induction A generalizing S with
  | nil => exact ⟨[], S, rfl, .nil, h⟩
  | cons v A ih =>
    cases h with
    | cons hv h =>
      obtain ⟨S1, S2, rfl, h1, h2⟩ := ih h
      exact ⟨_ ++ S1, S2, by simp, .cons hv h1, h2⟩

theorem Cover.singleton_inv {v : β} (h : Cover P S [v]) : P S v := by
  cases h with
  | cons hv h =>
    cases h
    simpa using hv

theorem cover_of_singles {f : α → β} (h : ∀ e ∈ S, P [e] (f e)) : Cover P S (S.map f) := by
  induction S with
  | nil => exact .nil
  | cons e S ih =>
    obtain ⟨he, hS⟩ := List.forall_mem_cons.mp h
    exact .cons (p := [e]) he (ih hS)

theorem joinAll_closed (hJ : Joins op R P T) {ts : List Tally} (h : ∀ t ∈ ts, T t) : T (Tally.joinAll ts) := by
  suffices hgo : ∀ a, T a → T (ts.foldl Tally.join a) from hgo _ hJ.zero
  induction ts with
  | nil => exact fun a ha => ha
  | cons t ts ih =>
    obtain ⟨ht, hts⟩ := List.forall_mem_cons.mp h
    exact fun a ha => ih hts _ (hJ.join ha ht)

theorem foldGroup_covers (hJ : Joins op R P T) {p : List α} {a : β} (ha : P p a) (h : Cover P S vs) (hR : (p ++ S).Pairwise R) :
    P (p ++ S) (foldGroup op a vs).1 ∧ T (foldGroup op a vs).2 := by
  induction h generalizing p a with
  | nil => exact ⟨by simpa [foldGroup] using ha, hJ.zero⟩
  | @cons q S v vs hv _ ih =>
    rw [← List.append_assoc] at hR ⊢
    obtain ⟨hP, hT⟩ := hJ.step (List.pairwise_append.mp hR).1 ha hv
    obtain ⟨hP', hT'⟩ := ih hP hR
    exact ⟨hP', hJ.join hT hT'⟩

theorem foldRound_covers (hJ : Joins op R P T) (h : Cover P S vs) (hR : S.Pairwise R) :
    Cover P S (foldRound op vs).1 ∧ T (foldRound op vs).2 := by
  induction vs using foldRound.induct (op := op) generalizing S with
  | case1 => exact ⟨h, hJ.zero⟩
  | case2 a => exact ⟨h, hJ.zero⟩
  | case3 a b =>
    cases h with
    | cons ha h =>
      obtain ⟨hP, hT⟩ := foldGroup_covers hJ ha h hR
      exact ⟨by simpa [foldRound] using Cover.cons hP .nil, hT⟩
  | case4 a b c =>
    cases h with
    | cons ha h =>
      obtain ⟨hP, hT⟩ := foldGroup_covers hJ ha h hR
      exact ⟨by simpa [foldRound] using Cover.cons hP .nil, hT⟩
  | case5 a b c d r ih =>
    obtain ⟨S1, S2, rfl, h1, h2⟩ := Cover.append_inv (A := [a, b, c, d]) h
    obtain ⟨hR1, hR2, -⟩ := List.pairwise_append.mp hR
    cases h1 with
    | cons ha h1 =>
      obtain ⟨hP, hT⟩ := foldGroup_covers hJ ha h1 hR1
      obtain ⟨hC, hT'⟩ := ih h2 hR2
      exact ⟨.cons hP hC, hJ.join hT hT'⟩

theorem foldRounds_covers (hJ : Joins op R P T) (n : Nat) (h : Cover P S vs) (hR : S.Pairwise R) :
    Cover P S (foldRounds op n vs).1 ∧ T (foldRounds op n vs).2 := by
  induction n generalizing vs with
  | zero => exact ⟨h, hJ.zero⟩
  | succ n ih =>
    rw [foldRounds]
    split
    · exact ⟨h, hJ.zero⟩
    · obtain ⟨hC, hT⟩ := foldRound_covers hJ h hR
      obtain ⟨hC', hT'⟩ := ih hC
      exact ⟨hC', hJ.join hT hT'⟩

theorem foldRounds_length {n : Nat} (hn : vs.length ≤ n) (hv : vs ≠ []) : (foldRounds op n vs).1.length = 1 := by
  have hpos : 0 < vs.length := List.length_pos_iff.mpr hv
  induction n generalizing vs with
  | zero => omega
  | succ n ih =>
    have hlen := foldRound_length (op := op) vs
    rw [foldRounds]
    split
    · simp only
      omega
    · exact ih (by omega) (List.ne_nil_of_length_pos (by omega)) (by omega)

/-- The fold of values that stand for the parts of a list stands for the list. -/
theorem cfold_covers (hJ : Joins op R P T) (h : Cover P S vs) (hR : S.Pairwise R) (hv : vs ≠ []) :
    ∃ v, (cfold op vs).1 = some v ∧ P S v ∧ T (cfold op vs).2 := by
  obtain ⟨hC, hT⟩ := foldRounds_covers hJ vs.length h hR
  obtain ⟨v, hone⟩ := List.length_eq_one_iff.mp (foldRounds_length (op := op) (le_refl vs.length) hv)
  rw [hone] at hC
  exact ⟨v, by rw [cfold, hone]; rfl, hC.singleton_inv, hT⟩

/-- The folds of consecutive groups. -/
theorem groups_cover {γ : Type} {g : γ → List β} {d : β} (hJ : Joins op R P T) {ks : List γ} (hne : ∀ c ∈ ks, g c ≠ [])
    (h : Cover P S (ks.flatMap g)) (hR : S.Pairwise R) :
    Cover P S (ks.map (fun c => (cfold op (g c)).1.getD d)) ∧ ∀ c ∈ ks, T (cfold op (g c)).2 := by
  induction ks generalizing S with
  | nil => exact ⟨h, by simp⟩
  | cons c ks ih =>
    obtain ⟨hc, hks⟩ := List.forall_mem_cons.mp hne
    obtain ⟨S1, S2, rfl, h1, h2⟩ := Cover.append_inv (List.flatMap_cons ▸ h)
    obtain ⟨hR1, hR2, -⟩ := List.pairwise_append.mp hR
    obtain ⟨v, hv, hP, hT⟩ := cfold_covers hJ h1 hR1 hc
    obtain ⟨hC, hTs⟩ := ih hks h2 hR2
    exact ⟨.cons (by simpa [hv] using hP) hC, List.forall_mem_cons.mpr ⟨hT, hTs⟩⟩

theorem cfold_isSome (hv : vs ≠ []) : ∃ v, (cfold op vs).1 = some v := by
  have hJ : Joins (α := β) op (fun _ _ => True) (fun _ _ => True) (fun _ => True) := ⟨trivial, fun _ _ => trivial, fun _ _ _ => ⟨trivial, trivial⟩⟩
  obtain ⟨v, h, -⟩ := cfold_covers hJ (cover_of_singles (S := vs) (f := id) (by simp)) (List.pairwise_of_forall (by simp)) (by simpa using hv)
  exact ⟨v, by simpa using h⟩

end Cover

/-! ## Contributions without values -/

section Present

theorem presentUps_filter (l : List (Nat × UpMsg)) : presentUps (l.filter (fun m => m.2.vals.isSome)) = presentUps l := by
  rw [presentUps, List.filterMap_filter, presentUps]
  refine List.filterMap_congr (fun m _ => ?_)
  cases m.2.vals <;> rfl

theorem presentUps_of_none {l : List (Nat × UpMsg)} (h : l.all (fun m => m.2.vals.isNone) = true) : presentUps l = [] := by
  refine List.filterMap_eq_nil_iff.mpr (fun m hm => ?_)
  rw [Option.isNone_iff_eq_none.mp (List.all_eq_true.mp h m hm)]
  rfl

end Present

/-! ## The folds of the tree's levels -/

section Tree

variable {k : Comb} {a : Nat} {l : List (Nat × List Elem)}

theorem sortBy_shift_sorted : (sortBy (·.1) l).Pairwise (fun x y => x.1 >>> a ≤ y.1 >>> a) := by
  refine (sortBy_sorted l).imp (fun h => ?_)
  simp only [Nat.shiftRight_eq_div_pow]
  exact Nat.div_le_div_right h

/-- The child indices at a node, ascending. -/
theorem kids_ascend : (uniq ((sortBy (·.1) l).map (fun x => x.1 >>> a))).Pairwise (· < ·) :=
  uniq_ascends (List.pairwise_map.mpr sortBy_shift_sorted)

/-- The value of one node of a level from the values below it. -/
def Comb.nodeOf (k : Comb) (a : Nat) (l : List (Nat × List Elem)) (c : Nat) : List Elem :=
  (k.fold ((l.filter (fun x => decide (x.1 >>> a = c))).map (·.2))).1.getD []

theorem foldBy_fst : (k.foldBy (· >>> a) l).1 =
    (uniq ((sortBy (·.1) l).map (fun x => x.1 >>> a))).map (fun c => (c, k.nodeOf a (sortBy (·.1) l) c)) := by
  simp [Comb.foldBy, gather, Comb.nodeOf]

theorem foldBy_snd : (k.foldBy (· >>> a) l).2 = Tally.joinAll ((uniq ((sortBy (·.1) l).map (fun x => x.1 >>> a))).map (fun c =>
    (k.fold (((sortBy (·.1) l).filter (fun x => decide (x.1 >>> a = c))).map (·.2))).2)) := by
  simp [Comb.foldBy, gather, Function.comp_def]

theorem foldBy_keys : (k.foldBy (· >>> a) l).1.map (·.1) = uniq ((sortBy (·.1) l).map (fun x => x.1 >>> a)) := by
  rw [foldBy_fst, List.map_map]
  exact List.map_id _

theorem foldBy_ascends : (k.foldBy (· >>> a) l).1.Pairwise (fun x y => x.1 < y.1) := by
  exact List.pairwise_map.mp (foldBy_keys (k := k) (a := a) (l := l) ▸ kids_ascend)

/-- A level's folds of the contributions of some nodes are those nodes' folds. -/
theorem foldBy_filter (p : Nat → Bool) :
    (k.foldBy (· >>> a) (l.filter (fun x => p (x.1 >>> a)))).1 = (k.foldBy (· >>> a) l).1.filter (fun x => p x.1) := by
  rw [foldBy_fst, foldBy_fst, sortBy_filter, List.filter_map]
  have hkeys : ((sortBy (·.1) l).filter (fun x => p (x.1 >>> a))).map (fun x => x.1 >>> a) =
      ((sortBy (·.1) l).map (fun x => x.1 >>> a)).filter p := by rw [List.filter_map]; rfl
  rw [hkeys, uniq_filter]
  refine List.map_congr_left (fun c hc => ?_)
  have hpc : p c = true := (List.mem_filter.mp hc).2
  simp only [Comb.nodeOf, List.filter_filter]
  congr 5
  refine List.filter_congr (fun x _ => ?_)
  by_cases hx : x.1 >>> a = c <;> simp [hx, hpc]

theorem foldBy_sortBy : k.foldBy (· >>> a) (sortBy (·.1) l) = k.foldBy (· >>> a) l := by
  simp only [Comb.foldBy, sortBy_sortBy]

/-- Contributions of one node: its value. -/
theorem foldBy_one_node {c : Nat} (hl : l ≠ []) (hc : ∀ x ∈ l, x.1 >>> a = c) :
    (k.foldBy (· >>> a) l).1 = [(c, (k.fold ((sortBy (·.1) l).map (·.2))).1.getD [])] := by
  have hall : ∀ x ∈ sortBy (·.1) l, x.1 >>> a = c := fun x hx => hc x ((sortBy_perm l).subset hx)
  have hkeys : uniq ((sortBy (·.1) l).map (fun x => x.1 >>> a)) = [c] := by
    refine eq_of_ascends kids_ascend (List.pairwise_singleton _ c) (fun x => ?_)
    obtain ⟨e, he⟩ := List.exists_mem_of_ne_nil l hl
    rw [mem_uniq, List.mem_map, List.mem_singleton]
    exact ⟨fun ⟨y, hy, hx⟩ => hx ▸ hall y hy, fun hx => ⟨e, (sortBy_perm l).symm.subset he, hx ▸ hc e he⟩⟩
  have hself : (sortBy (·.1) l).filter (fun x => decide (x.1 >>> a = c)) = sortBy (·.1) l :=
    List.filter_eq_self.mpr (by simpa using hall)
  rw [foldBy_fst, hkeys, List.map_singleton, Comb.nodeOf, hself]

/-- The values of the nodes of a level, from contributions by rig index, through levels of given widths. -/
def Comb.climb (k : Comb) : List Nat → List (Nat × List Elem) → List (Nat × List Elem)
  | [], l => sortBy (·.1) l
  | a :: as, l => k.climb as (k.foldBy (· >>> a) l).1

/-- The root's level in the tree's terms. -/
theorem climb_root : k.climb [4, 5, 1, 4, 5, 6] l = (k.foldBy (· >>> 6) (k.foldBy (· >>> 5) (k.foldBy (· >>> 4) (k.foldBy (· >>> 1)
    (k.foldBy (· >>> 5) (k.foldBy (· >>> 4) l).1).1).1).1).1).1 := by
  simp only [Comb.climb]
  rw [sortBy_of_sorted (foldBy_ascends.imp Nat.le_of_lt)]

theorem tree_fst_eq_climb : (k.tree l).1 = ((k.climb [4, 5, 1, 4, 5, 6] l).head?).map (·.2) := by
  rw [climb_root, Comb.tree]

theorem climb_append (as bs : List Nat) : k.climb (as ++ bs) l = k.climb bs (k.climb as l) := by
  induction as generalizing l with
  | nil =>
    cases bs with
    | nil => exact (sortBy_sortBy l).symm
    | cons b bs => simp only [List.nil_append, Comb.climb, foldBy_sortBy]
  | cons a as ih => exact ih

theorem climb_filter (as : List Nat) (p : Nat → Bool) :
    k.climb as (l.filter (fun x => p (x.1 >>> as.sum))) = (k.climb as l).filter (fun x => p x.1) := by
  induction as generalizing l with
  | nil => exact sortBy_filter _ l
  | cons a as ih =>
    have hshift : l.filter (fun x => p (x.1 >>> (a :: as).sum)) = l.filter (fun x => (fun y => p (y >>> as.sum)) (x.1 >>> a)) := by
      simp only [List.sum_cons, Nat.shiftRight_add]
    rw [Comb.climb, Comb.climb, hshift, foldBy_filter (fun y => p (y >>> as.sum)), ih]

theorem climb_ascends (as : List Nat) (h : (l.map (·.1)).Nodup) : (k.climb as l).Pairwise (fun x y => x.1 < y.1) := by
  induction as generalizing l with
  | nil => exact sortBy_ascends h
  | cons a as ih =>
    rw [Comb.climb]
    exact ih (List.pairwise_map.mpr (foldBy_ascends.imp Nat.ne_of_lt))

theorem climb_cons_ascends (as : List Nat) : (k.climb (a :: as) l).Pairwise (fun x y => x.1 < y.1) :=
  climb_ascends as (List.pairwise_map.mpr (foldBy_ascends.imp Nat.ne_of_lt))

/-- The nodes of a level are those that have a contribution below them. -/
theorem mem_climb_keys {as : List Nat} {c : Nat} : c ∈ (k.climb as l).map (·.1) ↔ ∃ e ∈ l, e.1 >>> as.sum = c := by
  induction as generalizing l with
  | nil =>
    rw [Comb.climb, ((sortBy_perm l).map (·.1)).mem_iff]
    simp
  | cons a as ih =>
    rw [Comb.climb, ih, List.sum_cons]
    have hmem : ∀ y, y ∈ (k.foldBy (· >>> a) l).1.map (·.1) ↔ ∃ e ∈ l, e.1 >>> a = y := by
      intro y
      rw [foldBy_keys, mem_uniq, ((sortBy_perm l).map _).mem_iff, List.mem_map]
    have hfst : (∃ e ∈ (k.foldBy (· >>> a) l).1, e.1 >>> as.sum = c) ↔ ∃ y ∈ (k.foldBy (· >>> a) l).1.map (·.1), y >>> as.sum = c := by
      simp only [List.mem_map]
      exact ⟨fun ⟨e, he, h⟩ => ⟨e.1, ⟨e, he, rfl⟩, h⟩, fun ⟨_, ⟨e, he, rfl⟩, h⟩ => ⟨e, he, h⟩⟩
    simp only [hfst, hmem, Nat.shiftRight_add]
    exact ⟨fun ⟨_, ⟨e, he, rfl⟩, h⟩ => ⟨e, he, h⟩, fun ⟨e, he, h⟩ => ⟨_, ⟨e, he, rfl⟩, h⟩⟩

/-- One value passes through every level unchanged. -/
theorem climb_singleton (as : List Nat) (c : Nat) (v : List Elem) : k.climb as [(c, v)] = [(c >>> as.sum, v)] := by
  induction as generalizing c with
  | nil => rfl
  | cons a as ih =>
    rw [Comb.climb, foldBy_one_node (c := c >>> a) (List.cons_ne_nil _ _) (by simp), List.sum_cons, Nat.shiftRight_add, ← ih]
    rfl

theorem foldBy_nil : (k.foldBy (· >>> a) []).1 = [] := rfl

theorem climb_nil (as : List Nat) : k.climb as [] = [] := by
  induction as with
  | nil => rfl
  | cons a as ih => rw [Comb.climb, foldBy_nil, ih]

theorem tree_nil : (k.tree []).1 = none := by
  rw [tree_fst_eq_climb, climb_nil]
  rfl

theorem tree_singleton (e : Nat × List Elem) : (k.tree [e]).1 = some e.2 := by
  rw [tree_fst_eq_climb, climb_singleton]
  rfl

theorem tree_perm {l' : List (Nat × List Elem)} (hn : (l.map (·.1)).Nodup) (hp : l.Perm l') : k.tree l' = k.tree l := by
  have hsame : k.foldBy (· >>> 4) l' = k.foldBy (· >>> 4) l := by simp only [Comb.foldBy, sortBy_eq_of_perm hn hp]
  simp only [Comb.tree, hsame]

/-- The tree's value of the contributions of one node of a level is the value that climbs to that node. -/
theorem tree_of_node {as bs : List Nat} {c : Nat} {v : List Elem} (hs : as ++ bs = [4, 5, 1, 4, 5, 6]) (hn : (l.map (·.1)).Nodup)
    (h : (c, v) ∈ k.climb as l) : (k.tree (l.filter (fun e => e.1 >>> as.sum == c))).1 = some v := by
  have hone : k.climb as (l.filter (fun e => e.1 >>> as.sum == c)) = [(c, v)] := by
    rw [climb_filter as (fun x => x == c)]
    obtain ⟨s, t, hst⟩ := List.append_of_mem h
    have hasc := climb_ascends (k := k) as hn
    rw [hst] at hasc ⊢
    obtain ⟨-, hct, hsc⟩ := List.pairwise_append.mp hasc
    obtain ⟨hct, -⟩ := List.pairwise_cons.mp hct
    have hs0 : s.filter (fun x => x.1 == c) = [] :=
      List.filter_eq_nil_iff.mpr (fun x hx => by simpa using (hsc x hx _ (List.mem_cons_self ..)).ne)
    have ht0 : t.filter (fun x => x.1 == c) = [] := List.filter_eq_nil_iff.mpr (fun x hx => by simpa using (hct x hx).ne')
    simp [hs0, ht0]
  rw [tree_fst_eq_climb, ← hs, climb_append, hone, climb_singleton]
  rfl

/-- At each level the tree's value is the fold, by ascending child index, of the values of the subtrees below. -/
theorem tree_level {as bs : List Nat} {a : Nat} (hs : as ++ a :: bs = [4, 5, 1, 4, 5, 6]) (hn : (l.map (·.1)).Nodup) (hl : l ≠ [])
    (hone : ∀ e ∈ l, ∀ e' ∈ l, e.1 >>> (as.sum + a) = e'.1 >>> (as.sum + a)) :
    (k.tree l).1 = (k.fold ((sortBy id (uniq (l.map (fun e => e.1 >>> as.sum)))).map (fun c =>
      ((k.tree (l.filter (fun e => e.1 >>> as.sum == c))).1).getD []))).1 := by
  have hasc := climb_ascends (k := k) as hn
  have hkeys : sortBy id (uniq (l.map (fun e => e.1 >>> as.sum))) = (k.climb as l).map (·.1) := by
    have huniq := uniq_nodup (l.map (fun e => e.1 >>> as.sum))
    refine eq_of_ascends (sortBy_ascends (key := id) (by simpa using huniq)) (List.pairwise_map.mpr hasc) (fun x => ?_)
    rw [(sortBy_perm _).mem_iff, mem_uniq, mem_climb_keys, List.mem_map]
  have hvals : ((k.climb as l).map (·.1)).map (fun c => ((k.tree (l.filter (fun e => e.1 >>> as.sum == c))).1).getD []) =
      (k.climb as l).map (·.2) := by
    rw [List.map_map]
    refine List.map_congr_left (fun x hx => ?_)
    simp [tree_of_node (c := x.1) (v := x.2) hs hn hx]
  obtain ⟨e, he⟩ := List.exists_mem_of_ne_nil l hl
  have hnode : ∀ x ∈ k.climb as l, x.1 >>> a = e.1 >>> (as.sum + a) := by
    intro x hx
    obtain ⟨e', he', hx⟩ := mem_climb_keys.mp (List.mem_map_of_mem hx)
    rw [← hx, ← Nat.shiftRight_add]
    exact hone e' he' e he
  have hne : k.climb as l ≠ [] := fun h => by
    have := (mem_climb_keys (k := k) (as := as)).mpr ⟨e, he, rfl⟩
    simp [h] at this
  obtain ⟨v, hv⟩ := cfold_isSome (op := k.stepAll) (vs := (k.climb as l).map (·.2)) (by simpa using hne)
  rw [← Comb.fold] at hv
  rw [hkeys, hvals, tree_fst_eq_climb, ← hs, climb_append, Comb.climb, foldBy_one_node hne hnode,
    sortBy_of_sorted (hasc.imp Nat.le_of_lt), climb_singleton, hv]
  rfl

/-- A level keeps what its values stand for. -/
theorem foldBy_covers {α : Type} {R : α → α → Prop} {P : List α → List Elem → Prop} {T : Tally → Prop} {S : List α} (hJ : Joins k.stepAll R P T)
    (h : Cover P S ((sortBy (·.1) l).map (·.2))) (hR : S.Pairwise R) :
    Cover P S ((k.foldBy (· >>> a) l).1.map (·.2)) ∧ T (k.foldBy (· >>> a) l).2 := by
  have hkids := kids_ascend (a := a) (l := l)
  have hmem : ∀ c ∈ uniq ((sortBy (·.1) l).map (fun x => x.1 >>> a)), ∃ x ∈ sortBy (·.1) l, x.1 >>> a = c :=
    fun c hc => by simpa using mem_uniq.mp hc
  have hruns := sorted_eq_runs (key := fun x : Nat × List Elem => x.1 >>> a) (sortBy_shift_sorted (l := l)) hkids
    (fun x hx => mem_uniq.mpr (List.mem_map_of_mem hx))
  rw [hruns, List.map_flatMap] at h
  obtain ⟨hC, hT⟩ := groups_cover (d := []) hJ (fun c hc => by
    obtain ⟨x, hx, hxc⟩ := hmem c hc
    exact List.ne_nil_of_mem (List.mem_map_of_mem (List.mem_filter.mpr ⟨hx, decide_eq_true hxc⟩))) h hR
  refine ⟨?_, ?_⟩
  · rw [foldBy_fst, List.map_map]
    exact hC
  · rw [foldBy_snd]
    exact joinAll_closed hJ (List.forall_mem_map.mpr hT)

/-- The value of a level's folds, where their inputs come in order. -/
theorem foldBy_foldBy_covers {α : Type} {R : α → α → Prop} {P : List α → List Elem → Prop} {T : Tally → Prop} {S : List α} {b : Nat}
    (hJ : Joins k.stepAll R P T) (h : Cover P S ((k.foldBy (· >>> b) l).1.map (·.2))) (hR : S.Pairwise R) :
    Cover P S ((k.foldBy (· >>> a) (k.foldBy (· >>> b) l).1).1.map (·.2)) ∧ T (k.foldBy (· >>> a) (k.foldBy (· >>> b) l).1).2 := by
  refine foldBy_covers hJ ?_ hR
  rwa [sortBy_of_sorted (foldBy_ascends.imp Nat.le_of_lt)]

/-- Contributions of rig indices have one root. -/
theorem climb_root_one (hl : l ≠ []) (hrig : ∀ e ∈ l, e.1 < 2 ^ 25) : ∃ v, k.climb [4, 5, 1, 4, 5, 6] l = [(0, v)] := by
  obtain ⟨e, he⟩ := List.exists_mem_of_ne_nil l hl
  have hzero : ∀ x ∈ l, x.1 >>> [4, 5, 1, 4, 5, 6].sum = 0 := by
    intro x hx
    rw [Nat.shiftRight_eq_div_pow]
    exact Nat.div_eq_of_lt (hrig x hx)
  have hkeys : (k.climb [4, 5, 1, 4, 5, 6] l).map (·.1) = [0] := by
    refine eq_of_ascends (List.pairwise_map.mpr (climb_cons_ascends _)) (List.pairwise_singleton _ 0) (fun x => ?_)
    rw [mem_climb_keys, List.mem_singleton]
    exact ⟨fun ⟨y, hy, hx⟩ => hx ▸ hzero y hy, fun hx => ⟨e, he, hx ▸ hzero e he⟩⟩
  obtain ⟨x, hx, hx0⟩ := List.map_eq_singleton_iff.mp hkeys
  exact ⟨x.2, by rw [hx, ← hx0]⟩

/-- Whatever the tree folds: where each value stands for a part of some data, in the order of the rig indices, and a step of two values that
stand for neighbouring parts stands for both, the root's value stands for all. -/
theorem tree_covers {α : Type} {R : α → α → Prop} {P : List α → List Elem → Prop} {T : Tally → Prop} {S : List α}
    (hJ : Joins k.stepAll R P T) (hl : l ≠ []) (hrig : ∀ e ∈ l, e.1 < 2 ^ 25) (h1 : Cover P S ((sortBy (·.1) l).map (·.2))) (hR : S.Pairwise R) :
    ∃ v, (k.tree l).1 = some v ∧ P S v ∧ T (k.tree l).2 := by
  obtain ⟨h2, t2⟩ := foldBy_covers (a := 4) hJ h1 hR
  obtain ⟨h3, t3⟩ := foldBy_foldBy_covers (a := 5) hJ h2 hR
  obtain ⟨h4, t4⟩ := foldBy_foldBy_covers (a := 1) hJ h3 hR
  obtain ⟨h5, t5⟩ := foldBy_foldBy_covers (a := 4) hJ h4 hR
  obtain ⟨h6, t6⟩ := foldBy_foldBy_covers (a := 5) hJ h5 hR
  obtain ⟨h7, t7⟩ := foldBy_foldBy_covers (a := 6) hJ h6 hR
  obtain ⟨v, hv⟩ := climb_root_one (k := k) hl hrig
  rw [← climb_root, hv] at h7
  refine ⟨v, by rw [tree_fst_eq_climb, hv]; rfl, h7.singleton_inv, ?_⟩
  rw [Comb.tree]
  exact joinAll_closed hJ (by simp only [List.forall_mem_cons]; exact ⟨t2, t3, t4, t5, t6, t7, by simp⟩)

/-- Some data in order, with a rig index and values for each. -/
theorem sortBy_map {α : Type} {key : α → Nat} {val : α → List Elem} (l : List α) :
    sortBy (·.1) (l.map (fun e => (key e, val e))) = (sortBy key l).map (fun e => (key e, val e)) := by
  have hinsert : ∀ (x : α) (m : List α), insertBy (·.1) (key x, val x) (m.map (fun e => (key e, val e))) =
      (insertBy key x m).map (fun e => (key e, val e)) := by
    intro x m
    induction m with
    | nil => rfl
    | cons y r ih =>
      rw [List.map_cons, insertBy, insertBy, ih]
      split <;> rfl
  induction l using List.reverseRecOn with
  | nil => rfl
  | append_singleton l x ih => rw [List.map_append, List.map_singleton, sortBy_append, sortBy_append, ih, hinsert]

/-- The tree over data of its members: where each member's values stand for it, and steps of neighbours stand for both, the root's value
stands for all members in order. -/
theorem tree_map_covers {α : Type} {key : α → Nat} {val : α → List Elem} {R : α → α → Prop} {P : List α → List Elem → Prop} {T : Tally → Prop}
    {l : List α} (hJ : Joins k.stepAll R P T) (hl : l ≠ []) (hrig : ∀ e ∈ l, key e < 2 ^ 25) (hP : ∀ e ∈ l, P [e] (val e))
    (hR : (sortBy key l).Pairwise R) :
    ∃ v, (k.tree (l.map (fun e => (key e, val e)))).1 = some v ∧ P (sortBy key l) v ∧ T (k.tree (l.map (fun e => (key e, val e)))).2 := by
  refine tree_covers hJ (by simpa using hl) (by simpa using hrig) ?_ hR
  rw [sortBy_map, List.map_map]
  exact cover_of_singles (fun e he => hP e ((sortBy_perm l).subset he))

end Tree

end Sys2Proof.Machine

/-! SUPPORT. Contributions once, the canonical fold and the tree, put together. -/

namespace Sys2Proof.Machine

open Sys2Proof

/-- What the canonical fold and the folds of inputs do: `TreeFlitsAreFolded`'s second part, for the fold. -/
theorem cfold_groups {α : Type} (op : α → α → α × Tally) (l : List α) (h : 4 < l.length) :
    (cfold op l).1 = (cfold op ((List.range ((l.length + 3) / 4)).filterMap (fun b => leftFold op ((l.drop (4 * b)).take 4)))).1 :=
  cfold_fst_of_two_le (by omega)

/-- Contributions without values are as if they were not there. -/
theorem foldUps_filter (x : Shape) (k : PassKind) (l : List (Nat × UpMsg)) :
    foldUps x k l = foldUps x k (l.filter (fun m => m.2.vals.isSome)) := by
  rw [foldUps, foldUps, presentUps_filter]

theorem foldInputs_filter (x : Shape) (k : PassKind) (l : List (Nat × UpMsg)) :
    foldInputs x k l = foldInputs x k (l.filter (fun m => m.2.vals.isSome)) := by
  rw [foldInputs, foldInputs, presentUps_filter]

theorem folds_of_none {x : Shape} (k : PassKind) {l : List (Nat × UpMsg)} (hx : gathers x = false)
    (hl : l.all (fun m => m.2.vals.isNone) = true) : (foldUps x k l).1 = none ∧ (foldInputs x k l).1 = none := by
  simp only [foldUps, foldInputs, presentUps_of_none hl, hx]
  exact ⟨tree_nil, rfl⟩

/-- The levels of the tree: the bits of a rig index below each and below the one above it. -/
theorem levels_split (j : Nat × Nat) (hj : j ∈ [(0, 4), (4, 9), (9, 10), (10, 14), (14, 19), (19, 25)]) :
    ∃ (as bs : List Nat) (a : Nat), as ++ a :: bs = [4, 5, 1, 4, 5, 6] ∧ as.sum = j.1 ∧ as.sum + a = j.2 := by
  simp only [List.mem_cons, List.not_mem_nil, or_false] at hj
  rcases hj with rfl | rfl | rfl | rfl | rfl | rfl
  · exact ⟨[], [5, 1, 4, 5, 6], 4, rfl, rfl, rfl⟩
  · exact ⟨[4], [1, 4, 5, 6], 5, rfl, rfl, rfl⟩
  · exact ⟨[4, 5], [4, 5, 6], 1, rfl, rfl, rfl⟩
  · exact ⟨[4, 5, 1], [5, 6], 4, rfl, rfl, rfl⟩
  · exact ⟨[4, 5, 1, 4], [6], 5, rfl, rfl, rfl⟩
  · exact ⟨[4, 5, 1, 4, 5], [], 6, rfl, rfl, rfl⟩

/-- Settles O19: a contribution at its node by the cases of its arrival, the fold by its rounds of four, and the tree by climbing its
levels. -/
theorem treeFlitsAreFolded : Obligations.TreeFlitsAreFolded := by
  refine ⟨treeFlit_member, ⟨?_, ?_⟩, ?_⟩
  · intro α op a l left
    refine ⟨cfold_nil, cfold_singleton a, cfold_fst_of_le_four a, fun hl => (cfold_groups op l hl).trans ?_⟩
    refine congrArg (fun f => (cfold op ((List.range ((l.length + 3) / 4)).filterMap f)).1) (funext fun b => ?_)
    cases (l.drop (4 * b)).take 4 <;> rfl
  · exact fun x k l => ⟨foldUps_filter x k l, foldInputs_filter x k l, folds_of_none k⟩
  · intro k l hn
    refine ⟨tree_nil, ?_, fun l' => tree_perm hn, ?_⟩
    · rintro e rfl
      exact tree_singleton e
    · intro j hj hl hone
      obtain ⟨as, bs, a, hs, h1, h2⟩ := levels_split j hj
      rw [← h2] at hone
      rw [← h1]
      exact tree_level hs hn hl hone

end Sys2Proof.Machine

/-! SUPPORT. The codes of F32 and F64: zeros, finite numbers, infinities and NaNs by magnitude, and exact roundings (R55 to R58). -/

namespace Sys2Proof.Machine

open Sys2Proof

/-! ## Exact numbers -/

section Exact

variable {m : Rm} {neg : Bool} {n d M B : Nat} {q : Int}

theorem pow2_fst (k : Int) : (pow2 k).1 = 2 ^ k.toNat := by
  rw [pow2]
  split
  next h => rfl
  next h => rw [Int.toNat_of_nonpos (show k ≤ 0 by omega), pow_zero]

theorem pow2_snd (k : Int) : (pow2 k).2 = 2 ^ (-k).toNat := by
  rw [pow2]
  split
  next h => rw [Int.toNat_of_nonpos (show -k ≤ 0 by omega), pow_zero]
  next h => rfl

theorem pow2_fst_pos (k : Int) : 0 < (pow2 k).1 := pow2_fst k ▸ Nat.two_pow_pos _

theorem pow2_snd_pos (k : Int) : 0 < (pow2 k).2 := pow2_snd k ▸ Nat.two_pow_pos _

/-- `pow2` is a power of two as a fraction. -/
theorem pow2_rat (k : Int) : ((pow2 k).1 : ℚ) / (pow2 k).2 = 2 ^ k := by
  rw [pow2_fst, pow2_snd, Nat.cast_pow, Nat.cast_pow, Nat.cast_two, ← zpow_natCast, ← zpow_natCast, ← zpow_sub₀ two_ne_zero]
  congr 1
  omega

theorem two_zpow_pos (k : Int) : (0 : ℚ) < 2 ^ k := zpow_pos two_pos k

/-- The scaled numerator and denominator that a rounding divides. -/
theorem scaled_rat (n d : Nat) (q : Int) : ((n * (pow2 (-q)).1 : Nat) : ℚ) / ((d * (pow2 (-q)).2 : Nat) : ℚ) = (n : ℚ) / d / 2 ^ q := by
  rw [Nat.cast_mul, Nat.cast_mul, mul_div_mul_comm, pow2_rat, zpow_neg, ← div_eq_mul_inv]

theorem scaled_den_pos (hd : 0 < d) (q : Int) : 0 < d * (pow2 (-q)).2 := Nat.mul_pos hd (pow2_snd_pos _)

/-- A multiple of the unit is exact. -/
theorem roundAt_exact (hd : 0 < d) (h : (n : ℚ) / d = M * 2 ^ q) : roundAt m neg n d q = (M, false) := by
  have hden := scaled_den_pos hd q
  have hnum : n * (pow2 (-q)).1 = M * (d * (pow2 (-q)).2) := by
    have hrat := scaled_rat n d q
    rw [h, mul_div_assoc, div_self (two_zpow_pos q).ne', mul_one, div_eq_iff (by exact_mod_cast hden.ne')] at hrat
    exact_mod_cast hrat
  simp only [roundAt, hnum, Nat.mul_mod_left, Nat.mul_div_cancel _ hden, if_true]

/-- A rounded number is the one below or the one above. -/
theorem roundAt_fst (m : Rm) (neg : Bool) (n d : Nat) (q : Int) :
    (roundAt m neg n d q).1 = n * (pow2 (-q)).1 / (d * (pow2 (-q)).2) ∨
      (n * (pow2 (-q)).1 % (d * (pow2 (-q)).2) ≠ 0 ∧ (roundAt m neg n d q).1 = n * (pow2 (-q)).1 / (d * (pow2 (-q)).2) + 1) := by
  simp only [roundAt]
  split
  · exact .inl rfl
  next hrem =>
    split
    · exact .inr ⟨hrem, rfl⟩
    · exact .inl rfl

/-- Rounding does not pass a multiple of the unit. -/
theorem roundAt_le (hd : 0 < d) (h : (n : ℚ) / d ≤ B * 2 ^ q) : (roundAt m neg n d q).1 ≤ B := by
  have hden := scaled_den_pos hd q
  have hnum : n * (pow2 (-q)).1 ≤ B * (d * (pow2 (-q)).2) := by
    have hle : (n : ℚ) / d / 2 ^ q ≤ B := (div_le_iff₀ (two_zpow_pos q)).mpr h
    rw [← scaled_rat, div_le_iff₀ (by exact_mod_cast hden)] at hle
    exact_mod_cast hle
  rcases roundAt_fst m neg n d q with hlo | ⟨hrem, hhi⟩
  · rw [hlo]
    exact Nat.div_le_of_le_mul (Nat.mul_comm B _ ▸ hnum)
  · rw [hhi]
    refine (Nat.div_lt_iff_lt_mul hden).mpr (lt_of_le_of_ne hnum fun heq => hrem ?_)
    rw [heq, Nat.mul_mod_left]

/-- Rounding up does not go below. -/
theorem le_roundAt_rup (hd : 0 < d) (q : Int) : (n : ℚ) / d ≤ (roundAt .rup false n d q).1 * 2 ^ q := by
  have hden := scaled_den_pos hd q
  have hnum : n * (pow2 (-q)).1 ≤ (roundAt .rup false n d q).1 * (d * (pow2 (-q)).2) := by
    rcases roundAt_fst .rup false n d q with hlo | ⟨-, hhi⟩
    · have hrem : n * (pow2 (-q)).1 % (d * (pow2 (-q)).2) = 0 := by
        by_contra hne
        have hup : (roundAt .rup false n d q).1 = n * (pow2 (-q)).1 / (d * (pow2 (-q)).2) + 1 := by
          simp [roundAt, hne, pickUp, Rm.up]
        omega
      rw [hlo, Nat.div_mul_cancel (Nat.dvd_of_mod_eq_zero hrem)]
    · rw [hhi]
      exact (Nat.lt_mul_of_div_lt (Nat.lt_succ_self _) hden).le
  rw [← div_le_iff₀ (two_zpow_pos q), ← scaled_rat, div_le_iff₀ (by exact_mod_cast hden)]
  exact_mod_cast hnum

theorem floorLog2_test (hd : 0 < d) (k : Int) : d * (pow2 k).1 ≤ n * (pow2 k).2 ↔ (2 : ℚ) ^ k ≤ (n : ℚ) / d := by
  rw [← pow2_rat, div_le_div_iff₀ (by exact_mod_cast pow2_snd_pos k) (by exact_mod_cast hd), Nat.mul_comm]
  exact_mod_cast Iff.rfl

/-- `floorLog2` is the exponent of a positive fraction. -/
theorem floorLog2_spec (hn : 0 < n) (hd : 0 < d) : (2 : ℚ) ^ floorLog2 n d ≤ (n : ℚ) / d ∧ (n : ℚ) / d < 2 ^ (floorLog2 n d + 1) := by
  have hd' : (0 : ℚ) < d := by exact_mod_cast hd
  have hnlo : (2 : ℚ) ^ (Nat.log2 n : Int) ≤ n := by exact_mod_cast Nat.log2_self_le hn.ne'
  have hnhi : (n : ℚ) < 2 ^ ((Nat.log2 n : Int) + 1) := by exact_mod_cast Nat.lt_log2_self
  have hdlo : (2 : ℚ) ^ (Nat.log2 d : Int) ≤ d := by exact_mod_cast Nat.log2_self_le hd.ne'
  have hdhi : (d : ℚ) < 2 ^ ((Nat.log2 d : Int) + 1) := by exact_mod_cast Nat.lt_log2_self
  have htest := floorLog2_test (n := n) hd ((Nat.log2 n : Int) - Nat.log2 d)
  rw [floorLog2]
  split
  next h =>
    refine ⟨htest.mp h, (div_lt_iff₀ hd').mpr (hnhi.trans_le ?_)⟩
    calc (2 : ℚ) ^ ((Nat.log2 n : Int) + 1) = 2 ^ ((Nat.log2 n : Int) - Nat.log2 d + 1) * 2 ^ (Nat.log2 d : Int) := by
          rw [← zpow_add₀ two_ne_zero]; congr 1; omega
      _ ≤ _ := mul_le_mul_of_nonneg_left hdlo (two_zpow_pos _).le
  next h =>
    refine ⟨(le_div_iff₀ hd').mpr (le_trans ?_ hnlo), ?_⟩
    · calc (2 : ℚ) ^ ((Nat.log2 n : Int) - Nat.log2 d - 1) * d
          ≤ 2 ^ ((Nat.log2 n : Int) - Nat.log2 d - 1) * 2 ^ ((Nat.log2 d : Int) + 1) := mul_le_mul_of_nonneg_left hdhi.le (two_zpow_pos _).le
        _ = 2 ^ (Nat.log2 n : Int) := by rw [← zpow_add₀ two_ne_zero]; congr 1; omega
    · rw [Int.sub_add_cancel]
      exact lt_of_not_ge fun hge => h (htest.mpr hge)

theorem zpow_lt_of_lt {a b : Int} (h : (2 : ℚ) ^ a < 2 ^ b) : a < b := (zpow_lt_zpow_iff_right₀ one_lt_two).mp h

end Exact

/-! ## Codes -/

/-- The two IEEE formats of the tree's steps. -/
def Fmt.wide (f : Fmt) : Prop := f = .f32 ∨ f = .f64

/-- The magnitude of an infinity. -/
def Fmt.top (f : Fmt) : Nat := (2 ^ f.bin.ebits - 1) * 2 ^ f.bin.fbits

/-- The integer significand of a magnitude below that of an infinity, and the exponent of its unit. -/
def Fmt.mant (f : Fmt) (mag : Nat) : Nat := if mag < 2 ^ f.bin.fbits then mag else 2 ^ f.bin.fbits + mag % 2 ^ f.bin.fbits
def Fmt.unit (f : Fmt) (mag : Nat) : Int := max ((mag / 2 ^ f.bin.fbits : Nat) : Int) 1 - f.bin.bias - f.bin.fbits

section Codes

variable {f : Fmt} (hf : f.wide) (c : Nat)

include hf

/-- A code's value by its magnitude. -/
theorem Fmt.value_eq : f.value c = if f.mag c = 0 then .zero (f.isNeg c)
    else if f.mag c < f.top then .fin (f.isNeg c) (f.mant (f.mag c) * (pow2 (f.unit (f.mag c))).1) (pow2 (f.unit (f.mag c))).2
    else if f.mag c = f.top then .inf (f.isNeg c)
    else .nan (f.isNeg c) (decide (f.mag c % 2 ^ f.bin.fbits < 2 ^ (f.bin.fbits - 1))) ((f.mag c % 2 ^ f.bin.fbits) <<< (52 - f.bin.fbits)) := by
  have hmag : f.mag c < 2 ^ f.bin.ebits * 2 ^ f.bin.fbits := by
    rcases hf with rfl | rfl <;> exact Nat.mod_lt _ (by decide)
  have hval : f.value c =
      if f.mag c / 2 ^ f.bin.fbits = 2 ^ f.bin.ebits - 1 then
        if f.mag c % 2 ^ f.bin.fbits = 0 then .inf (f.isNeg c)
        else .nan (f.isNeg c) (decide (f.mag c % 2 ^ f.bin.fbits < 2 ^ (f.bin.fbits - 1))) ((f.mag c % 2 ^ f.bin.fbits) <<< (52 - f.bin.fbits))
      else if f.mag c / 2 ^ f.bin.fbits = 0 then Val.scaled (f.isNeg c) (f.mag c % 2 ^ f.bin.fbits) (1 - (f.bin.bias : Int) - f.bin.fbits)
      else .fin (f.isNeg c) ((2 ^ f.bin.fbits + f.mag c % 2 ^ f.bin.fbits) * (pow2 ((f.mag c / 2 ^ f.bin.fbits : Nat) - f.bin.bias - f.bin.fbits)).1)
        (pow2 ((f.mag c / 2 ^ f.bin.fbits : Nat) - f.bin.bias - f.bin.fbits)).2 := by
    rcases hf with rfl | rfl <;> simp [Fmt.value, Fmt.isInt, Fmt.ieee, Fmt.mag, Fmt.isNeg] <;> rfl
  rw [hval]
  generalize f.mag c = mag at hmag
  have hF : 0 < 2 ^ f.bin.fbits := Nat.two_pow_pos _
  have hE : 2 ≤ 2 ^ f.bin.ebits := by rcases hf with rfl | rfl <;> decide
  have hq : mag / 2 ^ f.bin.fbits < 2 ^ f.bin.ebits := (Nat.div_lt_iff_lt_mul hF).mpr hmag
  have hlt : mag < f.top ↔ mag / 2 ^ f.bin.fbits < 2 ^ f.bin.ebits - 1 := (Nat.div_lt_iff_lt_mul hF).symm
  have hdiv := Nat.div_add_mod' mag (2 ^ f.bin.fbits)
  by_cases htop : mag / 2 ^ f.bin.fbits = 2 ^ f.bin.ebits - 1
  · have hval : mag = f.top + mag % 2 ^ f.bin.fbits := by rw [Fmt.top, ← htop, hdiv]
    have htop0 : 0 < f.top := Nat.mul_pos (by omega) hF
    have hnz : mag ≠ 0 := by omega
    have hnlt : ¬ mag < f.top := by omega
    have hrem : mag = f.top ↔ mag % 2 ^ f.bin.fbits = 0 := by omega
    simp only [if_pos htop, if_neg hnz, if_neg hnlt, hrem]
  rw [if_neg htop]
  have hfin : mag < f.top := hlt.mpr (by omega)
  by_cases hzero : mag / 2 ^ f.bin.fbits = 0
  · have hsmall : mag < 2 ^ f.bin.fbits := (Nat.div_eq_zero_iff_lt hF).mp hzero
    rw [if_pos hzero, Nat.mod_eq_of_lt hsmall, Val.scaled, Fmt.mant, if_pos hsmall, if_pos hfin, Fmt.unit, hzero]
    rfl
  · have hbig : ¬ mag < 2 ^ f.bin.fbits := fun h => hzero ((Nat.div_eq_zero_iff_lt hF).mpr h)
    have hmax : max ((mag / 2 ^ f.bin.fbits : Nat) : Int) 1 = (mag / 2 ^ f.bin.fbits : Nat) :=
      max_eq_left (by exact_mod_cast Nat.pos_of_ne_zero hzero)
    have hnz : mag ≠ 0 := by omega
    rw [if_neg hzero, if_neg hnz, if_pos hfin, Fmt.mant, if_neg hbig, Fmt.unit, hmax]

theorem Fmt.top_pos : 0 < f.top := by rcases hf with rfl | rfl <;> decide

theorem Fmt.two_signBit : 2 ^ f.width = f.signBit + f.signBit := by rcases hf with rfl | rfl <;> rfl

theorem Fmt.width_le : f.width ≤ 64 := by rcases hf with rfl | rfl <;> decide

omit hf in
theorem Fmt.bin_pos : 0 < 2 ^ f.bin.fbits := Nat.two_pow_pos _

theorem Fmt.value_zero (h : f.mag c = 0) : f.value c = .zero (f.isNeg c) := by rw [f.value_eq hf, if_pos h]

theorem Fmt.value_fin (h0 : f.mag c ≠ 0) (h : f.mag c < f.top) :
    f.value c = .fin (f.isNeg c) (f.mant (f.mag c) * (pow2 (f.unit (f.mag c))).1) (pow2 (f.unit (f.mag c))).2 := by
  rw [f.value_eq hf, if_neg h0, if_pos h]

theorem Fmt.value_inf (h : f.mag c = f.top) : f.value c = .inf (f.isNeg c) := by
  have := f.top_pos hf
  rw [f.value_eq hf, if_neg (by omega), if_neg (by omega), if_pos h]

theorem Fmt.value_nan (h : f.top < f.mag c) : ∃ sig frac, f.value c = .nan (f.isNeg c) sig frac := by
  rw [f.value_eq hf, if_neg (by omega), if_neg (by omega), if_neg (by omega)]
  exact ⟨_, _, rfl⟩

/-- A NaN is above the infinities. -/
theorem Fmt.isNan_iff : f.isNan c = true ↔ f.top < f.mag c := by
  rw [Fmt.isNan]
  rcases Nat.lt_trichotomy (f.mag c) f.top with h | h | h
  · by_cases h0 : f.mag c = 0
    · simp [f.value_zero hf c h0]; omega
    · simp [f.value_fin hf c h0 h]; omega
  · simp [f.value_inf hf c h]; omega
  · obtain ⟨sig, frac, hv⟩ := f.value_nan hf c h
    simp [hv, h]

theorem Fmt.isNan_eq_false : f.isNan c = false ↔ f.mag c ≤ f.top := by
  rw [← Bool.not_eq_true, f.isNan_iff hf, Nat.not_lt]

theorem Fmt.isInf_iff : f.isInf c = true ↔ f.mag c = f.top := by
  rw [Fmt.isInf]
  rcases Nat.lt_trichotomy (f.mag c) f.top with h | h | h
  · by_cases h0 : f.mag c = 0
    · simp [f.value_zero hf c h0]; omega
    · simp [f.value_fin hf c h0 h]; omega
  · simp [f.value_inf hf c h, h]
  · obtain ⟨sig, frac, hv⟩ := f.value_nan hf c h
    simp [hv]; omega

/-- A finite code lies below the infinities. -/
theorem Fmt.mag_lt_top (hn : f.isNan c = false) (hi : f.isInf c = false) : f.mag c < f.top := by
  have h1 := (f.isNan_eq_false hf c).mp hn
  have h2 : f.mag c ≠ f.top := fun h => by simp [(f.isInf_iff hf c).mpr h] at hi
  omega

/-- A code is its sign and its magnitude. -/
theorem Fmt.code_eq (hc : c < 2 ^ f.width) : c = f.zeroOf (f.isNeg c) + f.mag c := by
  rw [f.two_signBit hf] at hc
  simp only [Fmt.zeroOf, Fmt.isNeg, Fmt.mag]
  by_cases h : f.signBit ≤ c
  · have hmod : c % f.signBit = c - f.signBit := by rw [Nat.mod_eq_sub_mod h, Nat.mod_eq_of_lt (by omega)]
    simp only [h, decide_true, if_true, hmod]
    omega
  · simp [h, Nat.mod_eq_of_lt (Nat.lt_of_not_le h)]

/-- Codes with one sign and one magnitude are one code. -/
theorem Fmt.code_ext {a b : Nat} (ha : a < 2 ^ f.width) (hb : b < 2 ^ f.width) (hs : f.isNeg a = f.isNeg b) (hm : f.mag a = f.mag b) :
    a = b := by
  rw [f.code_eq hf a ha, f.code_eq hf b hb, hs, hm]

omit hf in
/-- The significand of a magnitude, with its unit, in the two ranges of Table 2-2. -/
theorem Fmt.mant_small {mag : Nat} (h : mag < 2 ^ f.bin.fbits) : f.mant mag = mag ∧ f.unit mag = 1 - f.bin.bias - f.bin.fbits := by
  rw [Fmt.mant, if_pos h, Fmt.unit, Nat.div_eq_of_lt h]
  exact ⟨rfl, rfl⟩

omit hf in
theorem Fmt.mant_large {mag : Nat} (h : 2 ^ f.bin.fbits ≤ mag) : f.mant mag = 2 ^ f.bin.fbits + mag % 2 ^ f.bin.fbits ∧
    f.unit mag = (mag / 2 ^ f.bin.fbits : Nat) - f.bin.bias - f.bin.fbits ∧ 1 ≤ mag / 2 ^ f.bin.fbits := by
  have hq : 1 ≤ mag / 2 ^ f.bin.fbits := (Nat.one_le_div_iff Fmt.bin_pos).mpr h
  have hmax : max ((mag / 2 ^ f.bin.fbits : Nat) : Int) 1 = (mag / 2 ^ f.bin.fbits : Nat) := max_eq_left (by exact_mod_cast hq)
  rw [Fmt.mant, if_neg (Nat.not_lt.mpr h), Fmt.unit, hmax]
  exact ⟨rfl, rfl, hq⟩

omit hf in
theorem Fmt.mant_lt (mag : Nat) : f.mant mag < 2 ^ (f.bin.fbits + 1) := by
  rw [pow_succ]
  rcases Nat.lt_or_ge mag (2 ^ f.bin.fbits) with h | h
  · rw [(f.mant_small h).1]; omega
  · rw [(f.mant_large h).1]
    have := Nat.mod_lt mag (f.bin_pos)
    omega

omit hf in
theorem Fmt.mant_pos {mag : Nat} (h : mag ≠ 0) : 0 < f.mant mag := by
  rcases Nat.lt_or_ge mag (2 ^ f.bin.fbits) with hs | hs
  · rw [(f.mant_small hs).1]; omega
  · rw [(f.mant_large hs).1]
    have := f.bin_pos
    omega

/-- The number of a magnitude. -/
def Fmt.num (f : Fmt) (mag : Nat) : ℚ := f.mant mag * 2 ^ f.unit mag

omit hf in
theorem Fmt.num_eq (mag : Nat) : ((f.mant mag * (pow2 (f.unit mag)).1 : Nat) : ℚ) / ((pow2 (f.unit mag)).2 : Nat) = f.num mag := by
  rw [Nat.cast_mul, mul_div_assoc, pow2_rat, Fmt.num]

omit hf in
/-- The exponent of a number in the terms of its magnitude. -/
theorem Fmt.num_small {mag : Nat} (h : mag < 2 ^ f.bin.fbits) : f.num mag < 2 ^ (1 - (f.bin.bias : Int)) := by
  obtain ⟨hm, hu⟩ := f.mant_small h
  rw [Fmt.num, hm, hu]
  calc (mag : ℚ) * 2 ^ (1 - (f.bin.bias : Int) - f.bin.fbits) < 2 ^ (f.bin.fbits : Int) * 2 ^ (1 - (f.bin.bias : Int) - f.bin.fbits) :=
        mul_lt_mul_of_pos_right (by exact_mod_cast h) (two_zpow_pos _)
    _ = 2 ^ (1 - (f.bin.bias : Int)) := by rw [← zpow_add₀ two_ne_zero]; congr 1; omega

omit hf in
theorem Fmt.num_large {mag : Nat} (h : 2 ^ f.bin.fbits ≤ mag) :
    (2 : ℚ) ^ ((mag / 2 ^ f.bin.fbits : Nat) - f.bin.bias : Int) ≤ f.num mag ∧
      f.num mag < 2 ^ ((mag / 2 ^ f.bin.fbits : Nat) - f.bin.bias + 1 : Int) := by
  obtain ⟨hm, hu, -⟩ := f.mant_large h
  have hlt := f.mant_lt mag
  rw [Fmt.num, hu]
  constructor
  · calc (2 : ℚ) ^ ((mag / 2 ^ f.bin.fbits : Nat) - f.bin.bias : Int)
        = 2 ^ (f.bin.fbits : Int) * 2 ^ ((mag / 2 ^ f.bin.fbits : Nat) - f.bin.bias - f.bin.fbits : Int) := by
          rw [← zpow_add₀ two_ne_zero]; congr 1; omega
      _ ≤ _ := mul_le_mul_of_nonneg_right (by rw [hm]; exact_mod_cast Nat.le_add_right _ _) (two_zpow_pos _).le
  · calc (f.mant mag : ℚ) * 2 ^ ((mag / 2 ^ f.bin.fbits : Nat) - f.bin.bias - f.bin.fbits : Int)
        < 2 ^ (f.bin.fbits + 1 : Int) * 2 ^ ((mag / 2 ^ f.bin.fbits : Nat) - f.bin.bias - f.bin.fbits : Int) :=
          mul_lt_mul_of_pos_right (by exact_mod_cast hlt) (two_zpow_pos _)
      _ = _ := by rw [← zpow_add₀ two_ne_zero]; congr 1; omega

omit hf in
/-- Magnitudes order numbers. -/
theorem Fmt.num_mono {a b : Nat} (h : a ≤ b) : f.num a ≤ f.num b := by
  rcases Nat.lt_or_ge b (2 ^ f.bin.fbits) with hb | hb
  · obtain ⟨hma, hua⟩ := f.mant_small (h.trans_lt hb)
    obtain ⟨hmb, hub⟩ := f.mant_small hb
    rw [Fmt.num, Fmt.num, hma, hmb, hua, hub]
    exact mul_le_mul_of_nonneg_right (by exact_mod_cast h) (two_zpow_pos _).le
  obtain ⟨hmb, hub, hqb⟩ := f.mant_large hb
  obtain ⟨hlob, -⟩ := f.num_large hb
  rcases Nat.lt_or_ge a (2 ^ f.bin.fbits) with ha | ha
  · exact (f.num_small ha).le.trans ((zpow_le_zpow_right₀ one_le_two (by omega)).trans hlob)
  obtain ⟨hma, hua, hqa⟩ := f.mant_large ha
  obtain ⟨-, hhia⟩ := f.num_large ha
  rcases Nat.lt_or_ge (a / 2 ^ f.bin.fbits) (b / 2 ^ f.bin.fbits) with hq | hq
  · exact hhia.le.trans ((zpow_le_zpow_right₀ one_le_two (by omega)).trans hlob)
  · have heq : a / 2 ^ f.bin.fbits = b / 2 ^ f.bin.fbits := le_antisymm (Nat.div_le_div_right h) hq
    have hda := Nat.div_add_mod a (2 ^ f.bin.fbits)
    have hdb := Nat.div_add_mod b (2 ^ f.bin.fbits)
    have hrem : a % 2 ^ f.bin.fbits ≤ b % 2 ^ f.bin.fbits := by rw [heq] at hda; omega
    rw [Fmt.num, Fmt.num, hma, hmb, hua, hub, heq]
    exact mul_le_mul_of_nonneg_right (by exact_mod_cast Nat.add_le_add_left hrem _) (two_zpow_pos _).le

/-- The number of a finite code rounds to the code, under every rounding and without a flag. -/
theorem roundIeee_exact {m : Rm} {n d : Nat} (hc : c < 2 ^ f.width) (htop : f.mag c < f.top) (hn : 0 < n) (hd : 0 < d)
    (h : (n : ℚ) / d = f.num (f.mag c)) : roundIeee f m (f.isNeg c) n d = (c, Tally.zero) := by
  obtain ⟨hlo, hhi⟩ := floorLog2_spec hn hd
  rw [h] at hlo hhi
  have hround (hunit : max (floorLog2 n d) (1 - (f.bin.bias : Int)) - f.bin.fbits = f.unit (f.mag c))
      (hmag : (if f.mant (f.mag c) < 2 ^ f.bin.fbits then f.mant (f.mag c)
        else (max (floorLog2 n d) (1 - (f.bin.bias : Int)) - (1 - (f.bin.bias : Int)) + 1).toNat * 2 ^ f.bin.fbits +
          (f.mant (f.mag c) - 2 ^ f.bin.fbits)) = f.mag c) : roundIeee f m (f.isNeg c) n d = (c, Tally.zero) := by
    have hr : roundAt m (f.isNeg c) n d (max (floorLog2 n d) (1 - (f.bin.bias : Int)) - f.bin.fbits) = (f.mant (f.mag c), false) :=
      roundAt_exact hd (by rw [h, hunit, Fmt.num])
    simp only [roundIeee, hr, hmag]
    have hfits : ¬ (2 ^ f.bin.ebits - 1) * 2 ^ f.bin.fbits ≤ f.mag c := Nat.not_le.mpr htop
    rw [if_neg hfits, Bool.and_false]
    exact Prod.ext (f.code_eq hf c hc).symm rfl
  rcases Nat.lt_or_ge (f.mag c) (2 ^ f.bin.fbits) with hs | hs
  · obtain ⟨hm, hu⟩ := f.mant_small hs
    have := zpow_lt_of_lt (hlo.trans_lt (f.num_small hs))
    exact hround (by omega) (by rw [hm, if_pos hs])
  · obtain ⟨hm, hu, hq⟩ := f.mant_large hs
    obtain ⟨hlo', hhi'⟩ := f.num_large hs
    have := zpow_lt_of_lt (hlo.trans_lt hhi')
    have := zpow_lt_of_lt (hlo'.trans_lt hhi)
    refine hround (by omega) ?_
    have hexp : (max (floorLog2 n d) (1 - (f.bin.bias : Int)) - (1 - (f.bin.bias : Int)) + 1).toNat = f.mag c / 2 ^ f.bin.fbits := by omega
    rw [hm, if_neg (by omega), hexp, Nat.add_sub_cancel_left, Nat.div_add_mod']

end Codes

end Sys2Proof.Machine

/-! SUPPORT. Sums: integer sums through the tree, their conversion, the tree's step by opcode, and P1 steps (R81, R91, R92, R101). -/

namespace Sys2Proof.Machine

open Sys2Proof

/-! ## Steps on whole contributions -/

section Steps

variable {k : Comb} {d : Elem} {xs ys : List Elem}

theorem stepAll_length (h : xs.length = ys.length) : (k.stepAll xs ys).1.length = xs.length := by
  induction xs generalizing ys with
  | nil => cases ys <;> simp_all [Comb.stepAll]
  | cons x xs ih =>
    cases ys with
    | nil => simp at h
    | cons y ys => simp [Comb.stepAll, ih (Nat.succ.inj h)]

/-- Every element position steps by itself (R32). -/
theorem stepAll_nth (h : xs.length = ys.length) (i : Nat) (hi : i < xs.length) :
    nth d (k.stepAll xs ys).1 i = (k.step (nth d xs i) (nth d ys i)).1 := by
  induction xs generalizing ys i with
  | nil => simp at hi
  | cons x xs ih =>
    cases ys with
    | nil => simp at h
    | cons y ys =>
      cases i with
      | zero => rfl
      | succ i => exact ih (Nat.succ.inj h) i (Nat.lt_of_succ_lt_succ hi)

theorem stepAll_tally_zero (h : ∀ x ∈ xs, ∀ y ∈ ys, (k.step x y).2 = Tally.zero) : (k.stepAll xs ys).2 = Tally.zero := by
  induction xs generalizing ys with
  | nil => cases ys <;> rfl
  | cons x xs ih =>
    cases ys with
    | nil => rfl
    | cons y ys =>
      have hxy := h x (List.mem_cons_self ..) y (List.mem_cons_self ..)
      have hrest := ih (ys := ys) (fun x hx y hy => h x (List.mem_cons_of_mem _ hx) y (List.mem_cons_of_mem _ hy))
      rw [Comb.stepAll, hxy, hrest]
      rfl

/-- Where a list's elements have a property, so has every element that is read from it. -/
theorem nth_mem {α : Type} {d : α} {l : List α} {i : Nat} (h : i < l.length) : nth d l i ∈ l := by
  simp [nth, List.getElem?_eq_getElem h]

/-- What is known of single elements, of contributions of one element each. -/
theorem joins_single {α : Type} {R : α → α → Prop} {Q : List α → Elem → Prop} {T : Tally → Prop} (hzero : T Tally.zero)
    (hjoin : ∀ {a b}, T a → T b → T (a.join b))
    (h : ∀ {l r a b}, (l ++ r).Pairwise R → Q l a → Q r b → Q (l ++ r) (k.step a b).1 ∧ T (k.step a b).2) :
    Joins k.stepAll R (fun l v => ∃ a, v = [a] ∧ Q l a) T where
  zero := hzero
  join := hjoin
  step := by
    rintro l r _ _ hR ⟨a, rfl, ha⟩ ⟨b, rfl, hb⟩
    obtain ⟨hQ, hT⟩ := h hR ha hb
    exact ⟨⟨_, rfl, hQ⟩, hjoin hT hzero⟩

end Steps

/-- No flag and no count twice is none. -/
theorem zero_join_zero {a b : Tally} (ha : a = Tally.zero) (hb : b = Tally.zero) : a.join b = Tally.zero := by
  rw [ha, hb]
  rfl

/-! ## Integer sums -/

section IntegerSums

/-- An element that carries an integer. -/
def IsInt (x : Elem) : Prop := ∃ v q, x = .int v q

/-- Values that are the element sums of some contributions. -/
def SumsTo (n : Nat) (part : List (Nat × List Elem)) (v : List Elem) : Prop :=
  v.length = n ∧ (∀ x ∈ v, IsInt x) ∧ ∀ i, i < n → elemNum (nth (Elem.int 0 0) v i) = (part.map (fun e => elemNum (nth (Elem.int 0 0) e.2 i))).sum

theorem isum_step {x y : Elem} (hx : IsInt x) (hy : IsInt y) :
    IsInt (Comb.isum.step x y).1 ∧ elemNum (Comb.isum.step x y).1 = elemNum x + elemNum y ∧ (Comb.isum.step x y).2 = Tally.zero := by
  obtain ⟨v, q, rfl⟩ := hx
  obtain ⟨w, r, rfl⟩ := hy
  exact ⟨⟨v + w, q, rfl⟩, rfl, rfl⟩

theorem isum_joins (n : Nat) : Joins Comb.isum.stepAll (fun _ _ => True) (SumsTo n) (· = Tally.zero) where
  zero := rfl
  join := zero_join_zero
  step := by
    rintro l r a b - ⟨ha, hai, has⟩ ⟨hb, hbi, hbs⟩
    have hab : a.length = b.length := ha.trans hb.symm
    have hlen := stepAll_length (k := .isum) hab
    have hnth (i : Nat) (hi : i < n) := stepAll_nth (k := .isum) (d := .int 0 0) hab i (by omega)
    have hstep (i : Nat) (hi : i < n) :=
      isum_step (hai _ (nth_mem (d := Elem.int 0 0) (i := i) (by omega))) (hbi _ (nth_mem (d := Elem.int 0 0) (i := i) (by omega)))
    refine ⟨⟨by omega, ?_, ?_⟩, stepAll_tally_zero (fun x hx y hy => (isum_step (hai x hx) (hbi y hy)).2.2)⟩
    · intro x hx
      obtain ⟨i, hi, rfl⟩ := List.mem_iff_getElem.mp hx
      have hget : (Comb.isum.stepAll a b).1[i] = nth (Elem.int 0 0) (Comb.isum.stepAll a b).1 i := by
        simp [nth, List.getElem?_eq_getElem hi]
      rw [hget, hnth i (by omega)]
      exact (hstep i (by omega)).1
    · intro i hi
      rw [hnth i hi, (hstep i hi).2.1, has i hi, hbs i hi, List.map_append, List.sum_append]

/-- The root of an integer sum has the exact sums, whatever the tree's shape (R101). -/
theorem isum_tree {n : Nat} {l : List (Nat × List Elem)} (hl : l ≠ []) (h : ∀ e ∈ l, e.1 < 2 ^ 25 ∧ e.2.length = n ∧ ∀ x ∈ e.2, IsInt x) :
    ∃ r, (Comb.isum).tree l = (some r, Tally.zero) ∧ r.length = n ∧
      ∀ i, i < n → elemNum (nth (Elem.int 0 0) r i) = (l.map (fun e => elemNum (nth (Elem.int 0 0) e.2 i))).sum := by
  obtain ⟨v, hv, ⟨hlen, -, hsum⟩, ht⟩ := tree_covers (S := sortBy (·.1) l) (isum_joins n) hl (fun e he => (h e he).1)
    (cover_of_singles (fun e he => by
      obtain ⟨-, hn, hi⟩ := h e ((sortBy_perm l).subset he)
      exact ⟨hn, hi, fun i _ => by simp⟩)) (List.pairwise_of_forall (fun _ _ => trivial))
  refine ⟨v, Prod.ext hv ht, hlen, fun i hi => ?_⟩
  rw [hsum i hi]
  exact ((sortBy_perm l).map _).sum_eq

/-- A number in range comes back from its two's complement. -/
theorem signed_unsigned {w : Nat} {v : Int} (hw : 0 < w) (hlo : -(2 ^ (w - 1)) ≤ v) (hhi : v < 2 ^ (w - 1)) : signed w (unsigned w v) = v := by
  obtain ⟨n, rfl⟩ : ∃ n, w = n + 1 := ⟨w - 1, by omega⟩
  simp only [signed, unsigned, Nat.add_sub_cancel, pow_succ] at hlo hhi ⊢
  generalize hS : (2 : Int) ^ n = S at hlo hhi ⊢
  have hSn : ((2 ^ n : Nat) : Int) = S := by rw [← hS]; norm_cast
  generalize 2 ^ n = N at hSn ⊢
  have hmod : v % (S * 2) = if v < 0 then v + S * 2 else v := by
    split
    next h => rw [← Int.add_emod_right, Int.emod_eq_of_lt (by omega) (by omega)]
    next h => exact Int.emod_eq_of_lt (by omega) (by omega)
  rw [hmod]
  split
  · rw [Nat.mod_eq_of_lt (by omega)]
    split <;> omega
  · rw [Nat.mod_eq_of_lt (by omega)]
    split <;> omega

/-- The conversion of an integer into an integer format (R81). -/
theorem convInt_range {f : Fmt} (hf : f.isInt = true) (m : Rm) (v : Int) :
    (f.intMin ≤ v → v ≤ f.intMax → (convInt f m v).2 = Tally.zero ∧ signed f.width (convInt f m v).1 = v) ∧
    (f.intMax < v → (convInt f m v).2 = Tally.oneSat ∧ signed f.width (convInt f m v).1 = f.intMax) ∧
    (v < f.intMin → (convInt f m v).2 = Tally.oneSat ∧ signed f.width (convInt f m v).1 = f.intMin) := by
  have hw : 0 < f.width := by cases f <;> decide
  have hpos : (0 : Int) < 2 ^ (f.width - 1) := by positivity
  have hsigned (c : Int) (h1 : f.intMin ≤ c) (h2 : c ≤ f.intMax) : signed f.width (unsigned f.width c) = c :=
    signed_unsigned hw h1 (by simp only [Fmt.intMax] at h2; omega)
  have hconv : convInt f m v = intToInt f v := if_pos hf
  have hrange : f.intMin ≤ f.intMax := by simp only [Fmt.intMin, Fmt.intMax]; omega
  rw [hconv, intToInt, clampInt]
  refine ⟨fun h1 h2 => ?_, fun h => ?_, fun h => ?_⟩
  · rw [if_neg (by omega), if_neg (by omega)]
    exact ⟨rfl, hsigned v h1 h2⟩
  · rw [if_pos h]
    exact ⟨rfl, hsigned _ hrange le_rfl⟩
  · rw [if_neg (by omega), if_pos h]
    exact ⟨rfl, hsigned _ le_rfl hrange⟩

end IntegerSums

/-! ## The step by opcode, and P1 steps -/

section FloatSums

variable {f : Fmt} {m : Rm} {a b : Nat}

/-- An operand that is a NaN decides the step (R57, R91). -/
theorem ieeeAdd_nan (h : f.isNan a = true ∨ f.isNan b = true) : ieeeAdd f m a b =
    (f.quiet (if f.isNan a then a else b), if f.isSig a || f.isSig b then Tally.invalid else Tally.zero) := by
  cases ha : f.isNan a
  · have hb := h.resolve_left (by simp [ha])
    simp [ieeeAdd, nanOf, ha, hb]
  · simp [ieeeAdd, nanOf, ha]

/-- A step of operands that are not NaNs goes by their values. -/
theorem nanOf_none (ha : f.isNan a = false) (hb : f.isNan b = false) : nanOf f [a, b] = none := by
  simp [nanOf, ha, hb]

variable (hf : f.wide)

include hf

theorem ieeeAdd_inf_inf (ha : f.isInf a = true) (hb : f.isInf b = true) (hna : f.isNan a = false) (hnb : f.isNan b = false) :
    ieeeAdd f m a b = if f.isNeg a = f.isNeg b then (a, Tally.zero) else invalidNan f := by
  simp only [ieeeAdd, nanOf_none hna hnb, f.value_inf hf a ((f.isInf_iff hf a).mp ha), f.value_inf hf b ((f.isInf_iff hf b).mp hb)]

/-- The value of a code that is neither an infinity nor a NaN. -/
theorem value_finite {c : Nat} (hn : f.isNan c = false) (hi : f.isInf c = false) :
    (f.value c = .zero (f.isNeg c) ∧ f.mag c = 0) ∨ ∃ n d, f.value c = .fin (f.isNeg c) n d ∧ 0 < n ∧ 0 < d ∧ (n : ℚ) / d = f.num (f.mag c) ∧ f.mag c ≠ 0 := by
  have htop := f.mag_lt_top hf c hn hi
  by_cases h0 : f.mag c = 0
  · exact .inl ⟨f.value_zero hf c h0, h0⟩
  · exact .inr ⟨_, _, f.value_fin hf c h0 htop, Nat.mul_pos (f.mant_pos h0) (pow2_fst_pos _), pow2_snd_pos _, f.num_eq _, h0⟩

theorem ieeeAdd_inf_left (ha : f.isInf a = true) (hb : f.isInf b = false) (hna : f.isNan a = false) (hnb : f.isNan b = false) :
    ieeeAdd f m a b = (a, Tally.zero) := by
  simp only [ieeeAdd, nanOf_none hna hnb, f.value_inf hf a ((f.isInf_iff hf a).mp ha)]
  rcases value_finite hf hnb hb with ⟨h, -⟩ | ⟨n, d, h, -⟩ <;> simp [h]

theorem ieeeAdd_inf_right (ha : f.isInf a = false) (hb : f.isInf b = true) (hna : f.isNan a = false) (hnb : f.isNan b = false) :
    ieeeAdd f m a b = (b, Tally.zero) := by
  simp only [ieeeAdd, nanOf_none hna hnb, f.value_inf hf b ((f.isInf_iff hf b).mp hb)]
  rcases value_finite hf hna ha with ⟨h, -⟩ | ⟨n, d, h, -⟩ <;> simp [h]

/-- A number and its negative cancel to the zero of the rounding (R91). -/
theorem ieeeAdd_cancel (ha : f.isInf a = false) (hna : f.isNan a = false) (hnb : f.isNan b = false)
    (hlt : a < 2 ^ f.width) (h : ieeeNeg f a = b) : ieeeAdd f m a b = (f.zeroOf (m == .rdn), Tally.zero) := by
  have hS : 0 < f.signBit := Nat.two_pow_pos _
  have h2 := f.two_signBit hf
  have hneg : f.isNeg b = !f.isNeg a ∧ f.mag b = f.mag a := by
    rw [← h, ieeeNeg, hna]
    by_cases hs : f.signBit ≤ a
    · simp [Fmt.isNeg, Fmt.mag, hs, Nat.mod_eq_sub_mod hs]
      omega
    · simp [Fmt.isNeg, Fmt.mag, hs]
  obtain ⟨hs, hm⟩ := hneg
  have htop := f.mag_lt_top hf a hna ha
  by_cases h0 : f.mag a = 0
  · simp [ieeeAdd, nanOf_none hna hnb, f.value_zero hf a h0, f.value_zero hf b (hm ▸ h0), hs]
  · simp only [ieeeAdd, nanOf_none hna hnb, f.value_fin hf a h0 htop, f.value_fin hf b (hm ▸ h0) (hm ▸ htop), hs, hm, Val.frac]
    cases f.isNeg a <;> simp

/-- Adding a zero to a number is exact (R91). -/
theorem ieeeAdd_zero (ha : f.isInf a = false) (hna : f.isNan a = false) (hlt : a < 2 ^ f.width) (ha0 : f.mag a ≠ 0) (hb0 : f.mag b = 0) :
    ieeeAdd f m a b = (a, Tally.zero) := by
  have htop := f.mag_lt_top hf a hna ha
  have hnb : f.isNan b = false := (f.isNan_eq_false hf b).mpr (by omega)
  rcases value_finite hf hna ha with ⟨-, h⟩ | ⟨n, d, hv, hn, hd, hnum, -⟩
  · exact absurd h ha0
  have hround := fun neg' (hs : neg' = f.isNeg a) => hs ▸ roundIeee_exact hf a (m := m) hlt htop hn hd hnum
  simp only [ieeeAdd, nanOf_none hna hnb, hv, f.value_zero hf b hb0, Val.frac]
  cases hs : f.isNeg a
  · have hpos : ¬ (n : Int) < 0 := by omega
    simp [roundFrac, hn.ne', hround false hs.symm, hpos]
  · simp [roundFrac, hn.ne', hround true hs.symm, hn]

/-- A P1 step of the tree on codes. -/
theorem fsum_step {c p q : Nat} {t : Tally} (ha : a < 2 ^ f.width) (hb : b < 2 ^ f.width) (h : ieeeAdd f m a b = (c, t)) :
    (Comb.fsum f m).step (.flt (BitVec.ofNat 64 a) p) (.flt (BitVec.ofNat 64 b) q) = (.flt (BitVec.ofNat 64 c) p, t) := by
  have hw : 2 ^ f.width ≤ 2 ^ 64 := Nat.pow_le_pow_right two_pos (f.width_le hf)
  have ha' : (BitVec.ofNat 64 a).toNat = a := by rw [BitVec.toNat_ofNat, Nat.mod_eq_of_lt (ha.trans_le hw)]
  have hb' : (BitVec.ofNat 64 b).toNat = b := by rw [BitVec.toNat_ofNat, Nat.mod_eq_of_lt (hb.trans_le hw)]
  simp only [Comb.step, ha', hb', h]

omit hf in
/-- A P1 step adds under the rounding of the descriptor: its NaNs, infinities, cancellation and zeros (R91). -/
theorem p1_step (hf : f ∈ [Fmt.f32, .f64]) (m : Rm) (p q : Nat) (ha : a < 2 ^ f.width) (hb : b < 2 ^ f.width) :
    let sum (c : Nat) (t : Tally) : Prop := (Comb.fsum f m).step (.flt (BitVec.ofNat 64 a) p) (.flt (BitVec.ofNat 64 b) q) = (.flt (BitVec.ofNat 64 c) p, t)
    let sig : Tally := if f.isSig a || f.isSig b then Tally.invalid else Tally.zero
    (f.isNan a = true → sum (f.quiet a) sig) ∧ (f.isNan a = false → f.isNan b = true → sum (f.quiet b) sig) ∧
    (f.isNan a = false → f.isNan b = false →
      (f.isInf a = true → f.isInf b = true → a ≠ b → sum f.defaultNan Tally.invalid) ∧ (f.isInf a = true → (f.isInf b = true → a = b) → sum a Tally.zero) ∧
      (f.isInf a = false → f.isInf b = true → sum b Tally.zero) ∧
      (f.isInf a = false → f.isInf b = false → ieeeNeg f a = b → sum (if m = .rdn then f.signBit else 0) Tally.zero) ∧
      (f.isInf a = false → f.isInf b = false → a % f.signBit ≠ 0 → b % f.signBit = 0 → sum a Tally.zero)) := by
  intro sum sig
  have hw : f.wide := by simpa [Fmt.wide] using hf
  have hsum {c : Nat} {t : Tally} (h : ieeeAdd f m a b = (c, t)) : sum c t := fsum_step hw ha hb h
  refine ⟨fun h => hsum ((ieeeAdd_nan (.inl h)).trans (by rw [if_pos h])), fun hna h => hsum ((ieeeAdd_nan (.inr h)).trans (by simp [hna, sig])),
    fun hna hnb => ⟨fun hia hib hne => hsum ?_, fun hia hib => hsum ?_, fun hia hib => hsum (ieeeAdd_inf_right hw hia hib hna hnb),
      fun hia _ h => hsum ((ieeeAdd_cancel hw hia hna hnb ha h).trans (by simp [Fmt.zeroOf])), fun hia _ h0 hb0 => hsum (ieeeAdd_zero hw hia hna ha h0 hb0)⟩⟩
  · have hsign : f.isNeg a ≠ f.isNeg b := fun hs =>
      hne (f.code_ext hw ha hb hs (((f.isInf_iff hw a).mp hia).trans ((f.isInf_iff hw b).mp hib).symm))
    rw [ieeeAdd_inf_inf hw hia hib hna hnb, if_neg hsign]
    rfl
  · cases hb' : f.isInf b
    · exact ieeeAdd_inf_left hw hia hb' hna hnb
    · rw [ieeeAdd_inf_inf hw hia hb' hna hnb, if_pos (by rw [hib hb'])]

omit hf in
/-- The step of a plain pass, by opcode and format (Table 3-1). -/
theorem shape_comb (x : Shape) :
    let sum := if x.ifmt.isInt then Comb.isum else .fsum x.acc x.rm
    let ext (e : Ext) := if x.ifmt.isInt then Comb.iext e else .ext e x.acc
    (x.op ∈ [0x01, 0x02, 0x03] → x.comb = sum) ∧ (x.op ∈ [0x0E, 0x0F] → (x.scanop = 0 → x.comb = sum) ∧ (x.scanop = 1 → x.comb = ext .max) ∧ (x.scanop = 2 → x.comb = ext .min)) ∧
    (∀ r ∈ [(0x04, Ext.max), (0x05, .min), (0x06, .maxnum), (0x07, .minnum), (0x08, .amax), (0x09, .amin)], x.op = r.1 → x.comb = ext r.2) ∧
    (x.op = 0x0A → x.comb = .band) ∧ (x.op = 0x0B → x.comb = .bor) ∧ (x.op = 0x0C → x.comb = .bxor) ∧ (x.op = 0x0D → x.comb = .isum) ∧ (x.op = 0x10 → x.comb = .lsem) := by
  intro sum ext
  refine ⟨fun h => ?_, fun h => ?_, ?_, ?_, ?_, ?_, ?_, ?_⟩
  · simp only [List.mem_cons, List.not_mem_nil, or_false] at h
    rcases h with h | h | h <;> simp [Shape.comb, h, sum]
  · simp only [List.mem_cons, List.not_mem_nil, or_false] at h
    rcases h with h | h <;> refine ⟨fun hs => ?_, fun hs => ?_, fun hs => ?_⟩ <;> simp [Shape.comb, h, hs, sum, ext]
  · simp only [List.forall_mem_cons]
    refine ⟨?_, ?_, ?_, ?_, ?_, ?_, by simp⟩ <;> intro h <;> simp [Shape.comb, h, ext]
  all_goals
    intro h
    simp [Shape.comb, h]

end FloatSums

end Sys2Proof.Machine

/-! SUPPORT. Extrema of codes through the tree, and their positions (R104, R105, Table 3-6). -/

namespace Sys2Proof.Machine

open Sys2Proof

section Extrema

variable {f : Fmt} {k : Ext}

/-- The order of Table 3-6: the first code ranks before the second, or they are equal. -/
def Ext.before (k : Ext) (f : Fmt) (a b : Nat) : Prop :=
  match k with
  | .max | .maxnum => f.rank b ≤ f.rank a
  | .min | .minnum => f.rank a ≤ f.rank b
  | .amax => f.mag b < f.mag a ∨ f.mag b = f.mag a ∧ f.rank b ≤ f.rank a
  | .amin => f.mag a < f.mag b ∨ f.mag a = f.mag b ∧ f.rank a ≤ f.rank b

/-- The choice between two codes that are not NaNs. -/
def Ext.pick (k : Ext) (f : Fmt) (a b : Nat) : Nat :=
  match k with
  | .max | .maxnum => f.greater a b
  | .min | .minnum => f.lesser a b
  | .amax => if f.mag a < f.mag b then b else if f.mag b < f.mag a then a else f.greater a b
  | .amin => if f.mag a < f.mag b then a else if f.mag b < f.mag a then b else f.lesser a b

/-- The choice is the first code where it ranks before the second, and else the second, which then ranks before the first. -/
theorem Ext.pick_cases (k : Ext) (f : Fmt) (a b : Nat) : (k.pick f a b = a ∧ k.before f a b) ∨ (k.pick f a b = b ∧ k.before f b a) := by
  cases k <;> simp only [Ext.pick, Ext.before, Fmt.greater, Fmt.lesser] <;> grind

theorem Ext.before_refl (k : Ext) (f : Fmt) (a : Nat) : k.before f a a := by
  cases k <;> simp [Ext.before]

theorem Ext.before_trans {a b c : Nat} (h : k.before f a b) (h' : k.before f b c) : k.before f a c := by
  cases k <;> simp only [Ext.before] at * <;> omega

theorem Ext.rank_eq_of_before {a b : Nat} (h : k.before f a b) (h' : k.before f b a) : f.rank a = f.rank b := by
  cases k <;> simp only [Ext.before] at * <;> omega

/-- Codes of one rank are one code. -/
theorem Fmt.rank_injective (hf : f.wide) {a b : Nat} (ha : a < 2 ^ f.width) (hb : b < 2 ^ f.width) (h : f.rank a = f.rank b) : a = b := by
  have hS : 0 < f.signBit := Nat.two_pow_pos _
  have hma := Nat.mod_lt a hS
  have hmb := Nat.mod_lt b hS
  rw [Fmt.rank, Fmt.rank] at h
  by_cases hsa : f.isNeg a = true <;> by_cases hsb : f.isNeg b = true
  · rw [if_pos hsa, if_pos hsb] at h
    exact f.code_ext hf ha hb (hsa.trans hsb.symm) (by simp only [Fmt.mag]; omega)
  · rw [if_pos hsa, if_neg hsb] at h; omega
  · rw [if_neg hsa, if_pos hsb] at h; omega
  · rw [if_neg hsa, if_neg hsb] at h; omega

theorem Ext.before_antisymm (hf : f.wide) {a b : Nat} (ha : a < 2 ^ f.width) (hb : b < 2 ^ f.width) (h : k.before f a b)
    (h' : k.before f b a) : a = b := f.rank_injective hf ha hb (rank_eq_of_before h h')

/-- A code and its rig index are the extremum of some contributions, and its lowest position. -/
def Ext.best (k : Ext) (f : Fmt) (part : List (Nat × Nat)) (c p : Nat) : Prop :=
  (p, c) ∈ part ∧ (∀ x ∈ part, k.before f c x.2) ∧ ∀ x ∈ part, x.2 = c → p ≤ x.1

/-- The extremum of two neighbouring parts. -/
theorem Ext.best_append (hf : f.wide) {l r : List (Nat × Nat)} {c d p q : Nat} (hR : (l ++ r).Pairwise (fun x y => x.1 < y.1))
    (hlt : ∀ x ∈ l ++ r, x.2 < 2 ^ f.width) (hl : k.best f l c p) (hr : k.best f r d q) :
    k.best f (l ++ r) (k.pick f c d) (if k.pick f c d = c then p else q) := by
  obtain ⟨hpl, hbl, hml⟩ := hl
  obtain ⟨hqr, hbr, hmr⟩ := hr
  have hlr := (List.pairwise_append.mp hR).2.2
  have hlt' (x : Nat × Nat) (hx : x ∈ l) : x.2 < 2 ^ f.width := hlt x (List.mem_append_left _ hx)
  have hltd : d < 2 ^ f.width := hlt _ (List.mem_append_right _ hqr)
  rcases k.pick_cases f c d with ⟨hpick, hbef⟩ | ⟨hpick, hbef⟩
  · rw [hpick, if_pos rfl]
    refine ⟨List.mem_append_left _ hpl, fun x hx => ?_, fun x hx hxc => ?_⟩
    · rcases List.mem_append.mp hx with hx | hx
      · exact hbl x hx
      · exact before_trans hbef (hbr x hx)
    · rcases List.mem_append.mp hx with hx | hx
      · exact hml x hx hxc
      · exact (hlr _ hpl x hx).le
  · rw [hpick]
    split
    next heq =>
      rw [heq]
      refine ⟨List.mem_append_left _ hpl, fun x hx => ?_, fun x hx hxc => ?_⟩
      · rcases List.mem_append.mp hx with hx | hx
        · exact hbl x hx
        · exact heq ▸ hbr x hx
      · rcases List.mem_append.mp hx with hx | hx
        · exact hml x hx hxc
        · exact (hlr _ hpl x hx).le
    next hne =>
      refine ⟨List.mem_append_right _ hqr, fun x hx => ?_, fun x hx hxd => ?_⟩
      · rcases List.mem_append.mp hx with hx | hx
        · exact before_trans hbef (hbl x hx)
        · exact hbr x hx
      · rcases List.mem_append.mp hx with hx | hx
        · exact absurd (before_antisymm hf hltd (hlt' _ hpl) hbef (hxd ▸ hbl x hx)) hne
        · exact hmr x hx hxd

/-! ## Quiet NaNs -/

theorem Fmt.quiet_of_not_nan {c : Nat} (h : f.isNan c = false) : f.quiet c = c := by simp [Fmt.quiet, h]

/-- Quieting keeps a NaN a NaN. -/
theorem Fmt.quiet_nan (hf : f.wide) {c : Nat} (hc : c < 2 ^ f.width) (h : f.isNan c = true) :
    f.isNan (f.quiet c) = true ∧ f.quiet c < 2 ^ f.width ∧ f.quiet (f.quiet c) = f.quiet c := by
  have hq : f.quiet c = c ||| 2 ^ (f.bin.fbits - 1) := by rw [Fmt.quiet, if_pos h]
  have hfb : f.bin.fbits - 1 < f.width := by rcases hf with rfl | rfl <;> decide
  have hnan : f.isNan (f.quiet c) = true := by
    rw [f.isNan_iff hf] at h ⊢
    refine h.trans_le ?_
    rw [hq, Fmt.mag, Fmt.mag, Fmt.signBit, Nat.or_mod_two_pow]
    exact Nat.left_le_or
  refine ⟨hnan, hq ▸ Nat.or_lt_two_pow hc (Nat.pow_lt_pow_right one_lt_two hfb), ?_⟩
  rw [Fmt.quiet, if_pos hnan, hq, Nat.or_assoc, Nat.or_self]

/-! ## The step of an extremum -/

theorem extFloat_of_not_nan (k : Ext) {a b : Nat} (ha : f.isNan a = false) (hb : f.isNan b = false) : extFloat k f a b = (k.pick f a b, Tally.zero) := by
  cases k <;> simp [extFloat, Ext.pick, nanOf, ha, hb]

/-- Under `MAX`, `MIN`, `AMAX` and `AMIN` a NaN wins, the left one first. -/
theorem extFloat_nan {a b : Nat} (hk : k ≠ .maxnum ∧ k ≠ .minnum) (h : f.isNan a = true ∨ f.isNan b = true) :
    (extFloat k f a b).1 = f.quiet (if f.isNan a then a else b) := by
  obtain ⟨hk1, hk2⟩ := hk
  cases ha : f.isNan a
  · have hb := h.resolve_left (by simp [ha])
    cases k <;> simp_all [extFloat, nanOf]
  · cases k <;> simp_all [extFloat, nanOf]

/-- Under `MAXNUM` and `MINNUM` a NaN gives way. -/
theorem extFloat_num {a b : Nat} (hk : k = .maxnum ∨ k = .minnum) (h : f.isNan a = true ∨ f.isNan b = true) :
    (extFloat k f a b).1 = if f.isNan a then (if f.isNan b then f.quiet a else b) else a := by
  rcases hk with rfl | rfl <;> cases ha : f.isNan a <;> cases hb : f.isNan b <;> simp_all [extFloat]

theorem ext_step (hf : f.wide) (k : Ext) {a b : Nat} (p q : Nat) (ha : a < 2 ^ f.width) (hb : b < 2 ^ f.width) :
    (Comb.ext k f).step (.flt (BitVec.ofNat 64 a) p) (.flt (BitVec.ofNat 64 b) q) =
      (.flt (BitVec.ofNat 64 (extFloat k f a b).1) (if (extFloat k f a b).1 = f.quiet a then p else q), (extFloat k f a b).2) := by
  have hw : 2 ^ f.width ≤ 2 ^ 64 := Nat.pow_le_pow_right two_pos (f.width_le hf)
  have ha' : (BitVec.ofNat 64 a).toNat = a := by rw [BitVec.toNat_ofNat, Nat.mod_eq_of_lt (ha.trans_le hw)]
  have hb' : (BitVec.ofNat 64 b).toNat = b := by rw [BitVec.toNat_ofNat, Nat.mod_eq_of_lt (hb.trans_le hw)]
  simp only [Comb.step, ha', hb']

/-! ## Extrema through the tree -/

/-- Values that are the extremum of their part, where no code is a NaN. -/
def ExtOf (k : Ext) (f : Fmt) (part : List (Nat × Nat)) (v : Elem) : Prop :=
  (∀ x ∈ part, x.2 < 2 ^ f.width ∧ f.isNan x.2 = false) ∧ ∃ c p, v = .flt (BitVec.ofNat 64 c) p ∧ k.best f part c p

/-- Values under `MAXNUM` and `MINNUM`: the extremum of the numbers of their part, and a NaN where there is none. -/
def NumOf (k : Ext) (f : Fmt) (part : List (Nat × Nat)) (v : Elem) : Prop :=
  (∀ x ∈ part, x.2 < 2 ^ f.width) ∧ ∃ c p, v = .flt (BitVec.ofNat 64 c) p ∧ c < 2 ^ f.width ∧
    (f.isNan c = true → part.filter (fun e => !f.isNan e.2) = []) ∧ (f.isNan c = false → k.best f (part.filter (fun e => !f.isNan e.2)) c p)

/-- Values under the other extrema: the first NaN of their part, quieted by a step, and a number where there is none. -/
def NanOf (f : Fmt) (part : List (Nat × Nat)) (v : Elem) : Prop :=
  part ≠ [] ∧ ∃ c p, v = .flt (BitVec.ofNat 64 c) p ∧ c < 2 ^ f.width ∧
    (f.isNan c = false → part.find? (fun e => f.isNan e.2) = none) ∧
    (f.isNan c = true → ∃ e, part.find? (fun e => f.isNan e.2) = some e ∧ f.quiet c = f.quiet e.2 ∧ (2 ≤ part.length → c = f.quiet e.2))

theorem ext_joins (hf : f.wide) (k : Ext) : Joins (Comb.ext k f).stepAll (fun x y : Nat × Nat => x.1 < y.1)
    (fun l v => ∃ a, v = [a] ∧ ExtOf k f l a) (· = Tally.zero) := by
  refine joins_single rfl zero_join_zero ?_
  rintro l r _ _ hR ⟨hl, c, p, rfl, hcp⟩ ⟨hr, d, q, rfl, hdq⟩
  have hall : ∀ x ∈ l ++ r, x.2 < 2 ^ f.width ∧ f.isNan x.2 = false := List.forall_mem_append.mpr ⟨hl, hr⟩
  obtain ⟨hc, hcn⟩ := hl _ hcp.1
  obtain ⟨hd, hdn⟩ := hr _ hdq.1
  rw [ext_step hf k p q hc hd, extFloat_of_not_nan k hcn hdn, f.quiet_of_not_nan hcn]
  exact ⟨⟨hall, _, _, rfl, Ext.best_append hf hR (fun x hx => (hall x hx).1) hcp hdq⟩, rfl⟩

theorem num_joins (hf : f.wide) (hk : k = .maxnum ∨ k = .minnum) : Joins (Comb.ext k f).stepAll (fun x y : Nat × Nat => x.1 < y.1)
    (fun l v => ∃ a, v = [a] ∧ NumOf k f l a) (fun _ => True) := by
  refine joins_single trivial (fun _ _ => trivial) ?_
  rintro l r _ _ hR ⟨hl, c, p, rfl, hc, hcn, hcb⟩ ⟨hr, d, q, rfl, hd, hdn, hdb⟩
  have hall : ∀ x ∈ l ++ r, x.2 < 2 ^ f.width := List.forall_mem_append.mpr ⟨hl, hr⟩
  refine ⟨⟨hall, ?_⟩, trivial⟩
  rw [ext_step hf k p q hc hd, List.filter_append]
  cases hcnan : f.isNan c <;> cases hdnan : f.isNan d
  · have hR' : (l.filter (fun e => !f.isNan e.2) ++ r.filter (fun e => !f.isNan e.2)).Pairwise (fun x y => x.1 < y.1) :=
      List.filter_append _ _ ▸ hR.filter _
    have hbest := Ext.best_append hf hR' (fun x hx => hall x (List.mem_of_mem_filter (List.filter_append _ _ ▸ hx))) (hcb hcnan) (hdb hdnan)
    rw [extFloat_of_not_nan k hcnan hdnan, f.quiet_of_not_nan hcnan]
    refine ⟨_, _, rfl, ?_, fun hnan => ?_, fun _ => hbest⟩
    · rcases k.pick_cases f c d with ⟨h, -⟩ | ⟨h, -⟩ <;> rw [h] <;> assumption
    · rcases k.pick_cases f c d with ⟨h, -⟩ | ⟨h, -⟩ <;> simp_all
  · rw [extFloat_num hk (.inr hdnan), hcnan, hdn hdnan, List.append_nil, f.quiet_of_not_nan hcnan]
    exact ⟨c, p, by simp, hc, by simp [hcnan], fun _ => hcb hcnan⟩
  · rw [extFloat_num hk (.inl hcnan), hcnan, hdnan, hcn hcnan, List.nil_append]
    have hne : ¬ d = f.quiet c := fun h => by
      have := (f.quiet_nan hf hc hcnan).1
      simp [← h, hdnan] at this
    exact ⟨d, q, by simp [hne], hd, by simp [hdnan], fun _ => hdb hdnan⟩
  · rw [extFloat_num hk (.inl hcnan), hcnan, hdnan, hcn hcnan, hdn hdnan]
    obtain ⟨hnan, hlt, -⟩ := f.quiet_nan hf hc hcnan
    exact ⟨f.quiet c, p, by simp, hlt, fun _ => rfl, by simp [hnan]⟩

theorem nan_joins (hf : f.wide) (hk : k ≠ .maxnum ∧ k ≠ .minnum) : Joins (Comb.ext k f).stepAll (fun x y : Nat × Nat => x.1 < y.1)
    (fun l v => ∃ a, v = [a] ∧ NanOf f l a) (fun _ => True) := by
  refine joins_single trivial (fun _ _ => trivial) ?_
  rintro l r _ _ hR ⟨hl, c, p, rfl, hc, hcn, hcf⟩ ⟨hr, d, q, rfl, hd, hdn, hdf⟩
  refine ⟨⟨by simp [hl], ?_⟩, trivial⟩
  rw [ext_step hf k p q hc hd]
  cases hcnan : f.isNan c
  · cases hdnan : f.isNan d
    · rw [extFloat_of_not_nan k hcnan hdnan, List.find?_append, hcn hcnan, hdn hdnan]
      refine ⟨_, _, rfl, ?_, fun _ => rfl, fun hnan => ?_⟩
      · rcases k.pick_cases f c d with ⟨h, -⟩ | ⟨h, -⟩ <;> rw [h] <;> assumption
      · rcases k.pick_cases f c d with ⟨h, -⟩ | ⟨h, -⟩ <;> simp_all
    · obtain ⟨e, he, hq, -⟩ := hdf hdnan
      obtain ⟨hnan, hlt, hqq⟩ := f.quiet_nan hf hd hdnan
      rw [extFloat_nan hk (.inr hdnan), hcnan, if_neg Bool.false_ne_true, List.find?_append, hcn hcnan]
      exact ⟨f.quiet d, _, rfl, hlt, by simp [hnan], fun _ => ⟨e, he, hqq.trans hq, fun _ => hq⟩⟩
  · obtain ⟨e, he, hq, -⟩ := hcf hcnan
    obtain ⟨hnan, hlt, hqq⟩ := f.quiet_nan hf hc hcnan
    rw [extFloat_nan hk (.inl hcnan), if_pos hcnan, List.find?_append, he]
    exact ⟨f.quiet c, _, rfl, hlt, by simp [hnan], fun _ => ⟨e, rfl, hqq.trans hq, fun _ => hq⟩⟩

/-- The extrema of codes over the tree: an extremum of contributions without a NaN, with its lowest position; NaNs that give way; and NaNs
that win (R104, R105). -/
theorem extrema_tree (hf : f.wide) (k : Ext) {l : List (Nat × Nat)} (hl : l ≠ []) (hn : (l.map (·.1)).Nodup)
    (h : ∀ e ∈ l, e.1 < 2 ^ 25 ∧ e.2 < 2 ^ f.width) :
    let tree := (Comb.ext k f).tree (l.map (fun e => (e.1, [Elem.flt (BitVec.ofNat 64 e.2) e.1])))
    let best (l : List (Nat × Nat)) : Prop := ∃ e ∈ l, tree.1 = some [.flt (BitVec.ofNat 64 e.2) e.1] ∧ (∀ x ∈ l, k.before f e.2 x.2) ∧ (∀ x ∈ l, x.2 = e.2 → e.1 ≤ x.1)
    ((∀ e ∈ l, f.isNan e.2 = false) → best l ∧ tree.2 = Tally.zero) ∧
    (k = .maxnum ∨ k = .minnum → (∃ e ∈ l, f.isNan e.2 = false) → best (l.filter (fun e => !f.isNan e.2))) ∧
    (k ≠ .maxnum → k ≠ .minnum → 2 ≤ l.length → ∀ e ∈ l, f.isNan e.2 = true → (∀ x ∈ l, f.isNan x.2 = true → e.1 ≤ x.1) →
      ∃ p, tree.1 = some [.flt (BitVec.ofNat 64 (f.quiet e.2)) p]) := by
  intro tree best
  have hR : (sortBy (·.1) l).Pairwise (fun x y => x.1 < y.1) := sortBy_ascends hn
  have hperm : (sortBy (·.1) l).Perm l := sortBy_perm l
  have hself (e : Nat × Nat) : k.best f [e] e.2 e.1 := ⟨List.mem_singleton_self _, by simp [Ext.before_refl], by simp⟩
  have hbest {m m' : List (Nat × Nat)} (hmm : m.Perm m') {c p : Nat} (hv : tree.1 = some [.flt (BitVec.ofNat 64 c) p]) (hb : k.best f m c p) : best m' := by
    obtain ⟨hmem, hbef, hlow⟩ := hb
    exact ⟨(p, c), hmm.subset hmem, hv, fun x hx => hbef x (hmm.symm.subset hx), fun x hx => hlow x (hmm.symm.subset hx)⟩
  refine ⟨fun hnan => ?_, fun hk hnum => ?_, fun hk1 hk2 hlen e he hnan hlow => ?_⟩
  · obtain ⟨v, hv, ⟨_, rfl, -, c, p, rfl, hb⟩, ht⟩ := tree_map_covers (ext_joins hf k) hl (fun e he => (h e he).1)
      (fun e he => ⟨_, rfl, by simpa using ⟨(h e he).2, hnan e he⟩, e.2, e.1, rfl, hself e⟩) hR
    exact ⟨hbest hperm hv hb, ht⟩
  · obtain ⟨v, hv, ⟨_, rfl, -, c, p, rfl, -, hno, hb⟩, -⟩ := tree_map_covers (num_joins hf hk) hl (fun e he => (h e he).1)
      (fun e he => ⟨_, rfl, by simpa using (h e he).2, e.2, e.1, rfl, (h e he).2, fun hnan => by simp [hnan],
        fun hnan => by simpa [hnan] using hself e⟩) hR
    obtain ⟨e, he, hen⟩ := hnum
    have hc : f.isNan c = false := by
      by_contra hcn
      have hmem : e ∈ (sortBy (·.1) l).filter (fun e => !f.isNan e.2) := List.mem_filter.mpr ⟨hperm.symm.subset he, by simp [hen]⟩
      rw [hno (by simpa using hcn)] at hmem
      simp at hmem
    exact hbest (hperm.filter _) hv (hb hc)
  · obtain ⟨v, hv, ⟨_, rfl, -, c, p, rfl, -, hno, hyes⟩, -⟩ := tree_map_covers (nan_joins hf ⟨hk1, hk2⟩) hl (fun e he => (h e he).1)
      (fun e he => ⟨_, rfl, by simp, e.2, e.1, rfl, (h e he).2, fun hnan => by simp [hnan],
        fun hnan => ⟨e, by simp [hnan], rfl, by simp⟩⟩) hR
    have hmem : e ∈ sortBy (·.1) l := hperm.symm.subset he
    have hc : f.isNan c = true := by
      by_contra hcn
      have hfind := List.find?_eq_none.mp (hno (by simpa using hcn)) e hmem
      simp [hnan] at hfind
    obtain ⟨e', he', -, hq⟩ := hyes hc
    obtain ⟨hnan', as, bs, hsplit, hfirst⟩ := List.find?_eq_some_iff_append.mp he'
    have heq : e = e' := by
      rw [hsplit] at hmem hR
      rcases List.mem_append.mp hmem with hm | hm
      · exact absurd hnan (by simpa using hfirst e hm)
      · rcases List.mem_cons.mp hm with hm | hm
        · exact hm
        · have h1 := (List.pairwise_cons.mp (List.pairwise_append.mp hR).2.1).1 e hm
          have h2 := hlow e' (hperm.subset (hsplit ▸ by simp)) hnan'
          omega
    exact ⟨p, by rw [heq, ← hq (hperm.length_eq ▸ hlen)]; exact hv⟩

end Extrema

end Sys2Proof.Machine

/-! SUPPORT. P2 and P3: the combined word, the windows and the key of the lowest NaN, through the tree (R94 to R97, Table 3-4). -/

namespace Sys2Proof.Machine

open Sys2Proof

/-! ## Combined words -/

section Words

variable {a b c : Nat} {ws : List Nat}

theorem joinWord_testBit {i : Nat} (hi : 11 ≤ i) : (joinWord a b).testBit i = (a.testBit i || b.testBit i) := by
  have hmax : max (a % 512) (b % 512) < 2 ^ i :=
    (max_lt (Nat.mod_lt _ (by decide)) (Nat.mod_lt _ (by decide)) : max (a % 512) (b % 512) < 512).trans_le
      (le_trans (by decide) (Nat.pow_le_pow_right two_pos hi))
  simp only [joinWord, Nat.testBit_or, Nat.testBit_shiftLeft, Nat.testBit_shiftRight, Nat.testBit_lt_two_pow hmax]
  simp [hi, Nat.add_sub_cancel' hi]

theorem joinWord_low : joinWord a b % 512 = max (a % 512) (b % 512) := by
  have hmax : max (a % 512) (b % 512) < 512 := max_lt (Nat.mod_lt _ (by decide)) (Nat.mod_lt _ (by decide))
  have hhigh : (a ||| b) >>> 11 <<< 11 % 512 = 0 := by rw [Nat.shiftLeft_eq]; omega
  rw [joinWord, show 512 = 2 ^ 9 from rfl, Nat.or_mod_two_pow, show 2 ^ 9 = 512 from rfl, hhigh, Nat.zero_or, Nat.mod_eq_of_lt hmax]

/-- A combined word has nothing between its flags and its exponent. -/
theorem joinWord_gap : joinWord a b % 2048 = joinWord a b % 512 := by
  have hmax : max (a % 512) (b % 512) < 512 := max_lt (Nat.mod_lt _ (by decide)) (Nat.mod_lt _ (by decide))
  have hhigh : (a ||| b) >>> 11 <<< 11 % 2048 = 0 := by rw [Nat.shiftLeft_eq]; omega
  rw [joinWord_low, joinWord, show 2048 = 2 ^ 11 from rfl, Nat.or_mod_two_pow, show 2 ^ 11 = 2048 from rfl, hhigh, Nat.zero_or,
    Nat.mod_eq_of_lt (by omega)]

/-- Words with one set of flags, one exponent and nothing between are one word. -/
theorem word_ext (ha : a % 2048 = a % 512) (hb : b % 2048 = b % 512) (hlow : a % 512 = b % 512) (hflag : ∀ i, 11 ≤ i → a.testBit i = b.testBit i) :
    a = b := by
  have hhigh : a / 2048 = b / 2048 := by
    refine Nat.eq_of_testBit_eq (fun i => ?_)
    rw [show 2048 = 2 ^ 11 from rfl, Nat.testBit_div_two_pow, Nat.testBit_div_two_pow]
    exact hflag _ (by omega)
  omega

theorem joinWord_comm (a b : Nat) : joinWord a b = joinWord b a := by rw [joinWord, joinWord, Nat.or_comm a b, max_comm (a % 512)]

theorem joinWord_assoc (a b c : Nat) : joinWord (joinWord a b) c = joinWord a (joinWord b c) := by
  refine word_ext joinWord_gap joinWord_gap ?_ (fun i hi => ?_)
  · simp only [joinWord_low, max_assoc]
  · simp only [joinWord_testBit hi, Bool.or_assoc]

/-- The combined word of some words. -/
def foldWords (ws : List Nat) : Nat := ws.foldl joinWord 0

theorem foldWords_gap (ws : List Nat) : foldWords ws % 2048 = foldWords ws % 512 := by
  induction ws using List.reverseRecOn with
  | nil => rfl
  | append_singleton ws w _ => rw [foldWords, List.foldl_append]; exact joinWord_gap

theorem joinWord_zero_of_gap (h : a % 2048 = a % 512) : joinWord a 0 = a :=
  word_ext joinWord_gap h (by rw [joinWord_low]; simp) (fun i hi => by simp [joinWord_testBit hi])

theorem foldWords_append (vs ws : List Nat) : foldWords (vs ++ ws) = joinWord (foldWords vs) (foldWords ws) := by
  induction ws using List.reverseRecOn with
  | nil => rw [List.append_nil, show foldWords [] = 0 from rfl, joinWord_zero_of_gap (foldWords_gap vs)]
  | append_singleton ws w ih =>
    have hstep (l : List Nat) : foldWords (l ++ [w]) = joinWord (foldWords l) w := by simp [foldWords]
    rw [← List.append_assoc, hstep, hstep, ih, joinWord_assoc]

theorem foldWords_perm {vs ws : List Nat} (h : vs.Perm ws) : foldWords vs = foldWords ws :=
  h.foldl_eq' (fun x _ y _ z => by rw [joinWord_assoc, joinWord_comm x y, ← joinWord_assoc]) 0

theorem foldWords_singleton (h : a % 2048 = a % 512) : foldWords [a] = a := (joinWord_comm 0 a).trans (joinWord_zero_of_gap h)

/-- A flag of the combined word is set where a word has it. -/
theorem foldWords_testBit {i : Nat} (hi : 11 ≤ i) : (foldWords ws).testBit i = ws.any (·.testBit i) := by
  induction ws using List.reverseRecOn with
  | nil => simp [foldWords]
  | append_singleton ws w ih =>
    rw [foldWords, List.foldl_append, List.foldl_cons, List.foldl_nil, joinWord_testBit hi, List.any_append, List.any_cons, List.any_nil,
      Bool.or_false, ← ih, foldWords]

/-- The exponent of the combined word is the greatest. -/
theorem le_foldWords_low : ∀ w ∈ ws, w % 512 ≤ foldWords ws % 512 := by
  induction ws using List.reverseRecOn with
  | nil => simp
  | append_singleton ws w ih =>
    have hlow : foldWords (ws ++ [w]) % 512 = max (foldWords ws % 512) (w % 512) := by rw [foldWords, List.foldl_append]; exact joinWord_low
    intro v hv
    rw [hlow]
    rcases List.mem_append.mp hv with hv | hv
    · exact le_max_of_le_left (ih v hv)
    · rw [List.mem_singleton.mp hv]
      exact le_max_right _ _

theorem foldWords_low_mem (h : foldWords ws % 512 ≠ 0) : ∃ w ∈ ws, w % 512 = foldWords ws % 512 := by
  induction ws using List.reverseRecOn with
  | nil => exact absurd rfl h
  | append_singleton ws w ih =>
    have hlow : foldWords (ws ++ [w]) % 512 = max (foldWords ws % 512) (w % 512) := by rw [foldWords, List.foldl_append]; exact joinWord_low
    rcases le_total (w % 512) (foldWords ws % 512) with hle | hle
    · rw [hlow, max_eq_left hle] at h ⊢
      obtain ⟨v, hv, hvl⟩ := ih h
      exact ⟨v, List.mem_append_left _ hv, hvl⟩
    · exact ⟨w, by simp, by rw [hlow, max_eq_right hle]⟩

/-- Table 3-4 by the flags of the combined word. -/
theorem settle_eq (w : Nat) (rdn : Bool) : settle w rdn =
    if w.testBit 15 then .key else if w.testBit 14 && w.testBit 13 then .value .nar Tally.invalid
    else if w.testBit 14 then .value (.inf false) Tally.zero else if w.testBit 13 then .value (.inf true) Tally.zero
    else if w % 512 = 0 then .value (.zero (w.testBit 11 && (!w.testBit 12 || rdn))) Tally.zero else .window ((w % 512 : Nat) - 150) := by
  have h12 : decide (w / 4096 % 2 = 0) = !w.testBit 12 := by
    rw [Nat.testBit_eq_decide_div_mod_eq]
    rcases Nat.mod_two_eq_zero_or_one (w / 4096) with h | h <;> simp [h]
  simp only [settle, h12, Nat.testBit_eq_decide_div_mod_eq, Bool.and_eq_true, decide_eq_true_eq]

end Words

/-! ## The word of a code (Table 3-3) -/

section ClassWord

/-- The exponent of a finite code. -/
def expoOf (c : Nat) : Option Int := match Fmt.f32.value c with | .fin _ n d => some (floorLog2 n d) | _ => none

theorem f32_wide : Fmt.f32.wide := .inl rfl

theorem classWord_nan {c : Nat} (h : Fmt.f32.isNan c = true) : classWord c = 0x8000 := by
  obtain ⟨sig, frac, hv⟩ := Fmt.value_nan f32_wide c ((Fmt.isNan_iff f32_wide c).mp h)
  simp [classWord, hv]

theorem classWord_inf {c : Nat} (h : Fmt.f32.isInf c = true) : classWord c = if Fmt.f32.isNeg c then 0x2000 else 0x4000 := by
  simp [classWord, Fmt.value_inf f32_wide c ((Fmt.isInf_iff f32_wide c).mp h)]

theorem classWord_zero {c : Nat} (h : Fmt.f32.mag c = 0) : classWord c = (if Fmt.f32.isNeg c then 0x800 else 0x1000) ∧ expoOf c = none := by
  simp [classWord, expoOf, Fmt.value_zero f32_wide c h]

/-- A finite code has its exponent, from −149 to 127, above a bias of 150. -/
theorem classWord_fin {c : Nat} (h0 : Fmt.f32.mag c ≠ 0) (htop : Fmt.f32.mag c < Fmt.f32.top) :
    ∃ e : Int, expoOf c = some e ∧ classWord c = (e + 150).toNat ∧ -149 ≤ e ∧ e ≤ 127 := by
  have hv := Fmt.value_fin f32_wide c h0 htop
  obtain ⟨hlo, hhi⟩ := floorLog2_spec (Nat.mul_pos (Fmt.mant_pos h0) (pow2_fst_pos (Fmt.f32.unit (Fmt.f32.mag c)))) (pow2_snd_pos (Fmt.f32.unit (Fmt.f32.mag c)))
  rw [Fmt.num_eq] at hlo hhi
  generalize Fmt.f32.mant (Fmt.f32.mag c) * (pow2 (Fmt.f32.unit (Fmt.f32.mag c))).1 = n at hv hlo hhi
  generalize (pow2 (Fmt.f32.unit (Fmt.f32.mag c))).2 = d at hv hlo hhi
  refine ⟨floorLog2 n d, by simp only [expoOf, hv], by simp only [classWord, hv], ?_, ?_⟩
  · have hone : (2 : ℚ) ^ (-149 : Int) ≤ Fmt.f32.num (Fmt.f32.mag c) := by
      have h1 : Fmt.f32.num 1 = 2 ^ (-149 : Int) := by
        rw [Fmt.num, (Fmt.mant_small (f := .f32) (mag := 1) (by decide)).1, (Fmt.mant_small (f := .f32) (mag := 1) (by decide)).2]
        norm_num [Fmt.bin]
      exact h1 ▸ Fmt.num_mono (by omega)
    have := zpow_lt_of_lt (hone.trans_lt hhi)
    omega
  · have htop' : Fmt.f32.num (Fmt.f32.mag c) < 2 ^ (128 : Int) := by
      have hle : Fmt.f32.mag c ≤ 0x7F7FFFFF := by
        have : Fmt.f32.top = 0x7F800000 := by decide
        omega
      have h1 := (Fmt.num_large (f := .f32) (mag := 0x7F7FFFFF) (by decide)).2
      norm_num [Fmt.bin] at h1
      exact (Fmt.num_mono hle).trans_lt (by exact_mod_cast h1)
    have := zpow_lt_of_lt (hlo.trans_lt htop')
    omega

/-- The four kinds of codes. -/
theorem code_kinds (c : Nat) : Fmt.f32.isNan c = true ∨ Fmt.f32.isInf c = true ∨ Fmt.f32.mag c = 0 ∨
    (Fmt.f32.mag c ≠ 0 ∧ Fmt.f32.mag c < Fmt.f32.top) := by
  rw [Fmt.isNan_iff f32_wide, Fmt.isInf_iff f32_wide]
  omega

theorem classWord_gap (c : Nat) : classWord c % 2048 = classWord c % 512 := by
  rcases code_kinds c with h | h | h | ⟨h0, h⟩
  · rw [classWord_nan h]
  · rw [classWord_inf h]; split <;> rfl
  · rw [(classWord_zero h).1]; split <;> rfl
  · obtain ⟨e, -, hw, h1, h2⟩ := classWord_fin h0 h
    omega

/-- The flags of a code's word. -/
theorem classWord_flags {c : Nat} (hc : c < 2 ^ 32) : ((classWord c).testBit 15 = Fmt.f32.isNan c) ∧
    ((classWord c).testBit 14 = decide (c = 0x7F800000)) ∧ ((classWord c).testBit 13 = decide (c = 0xFF800000)) ∧
    ((classWord c).testBit 12 = decide (c = 0)) ∧ ((classWord c).testBit 11 = decide (c = 0x80000000)) := by
  have htop : Fmt.f32.top = 0x7F800000 := by decide
  have hmag : Fmt.f32.mag c = c % 0x80000000 := rfl
  rcases code_kinds c with h | h | h | ⟨h0, h⟩
  · rw [classWord_nan h, h]
    rw [Fmt.isNan_iff f32_wide] at h
    refine ⟨by decide, ?_, ?_, ?_, ?_⟩ <;> exact (decide_eq_false (by omega)).symm
  · rw [Fmt.isInf_iff f32_wide] at h
    rcases (show c = 0x7F800000 ∨ c = 0xFF800000 by omega) with rfl | rfl <;> decide
  · rcases (show c = 0 ∨ c = 0x80000000 by omega) with rfl | rfl <;> decide
  · obtain ⟨e, -, hw, h1, h2⟩ := classWord_fin h0 h
    have hbit (i : Nat) (hi : 9 ≤ i) : (classWord c).testBit i = false :=
      Nat.testBit_lt_two_pow ((show classWord c < 2 ^ 9 by omega).trans_le (Nat.pow_le_pow_right two_pos hi))
    have hn : Fmt.f32.isNan c = false := (Fmt.isNan_eq_false f32_wide c).mpr (by omega)
    rw [hbit 15 (by decide), hbit 14 (by decide), hbit 13 (by decide), hbit 12 (by decide), hbit 11 (by decide), hn]
    refine ⟨rfl, ?_, ?_, ?_, ?_⟩ <;> exact (decide_eq_false (by omega)).symm

end ClassWord

/-! ## Pass 1 and pass 2 through the tree -/

section Passes

variable {l : List (Nat × Nat)}

/-- The combined word of the codes of some members. -/
def WordOf (part : List (Nat × Nat)) (v : Elem) : Prop := ∃ p, v = .int ((foldWords (part.map (fun e => classWord e.2)) : Nat) : Int) p

theorem word_joins : Joins Comb.word.stepAll (fun _ _ => True) (fun l v => ∃ a, v = [a] ∧ WordOf l a) (· = Tally.zero) := by
  refine joins_single rfl zero_join_zero ?_
  rintro l r _ _ - ⟨p, rfl⟩ ⟨q, rfl⟩
  refine ⟨⟨p, ?_⟩, rfl⟩
  rw [List.map_append, foldWords_append]
  rfl

/-- Pass 1 gives the combined word, whatever the tree's shape (R94). -/
theorem word_tree (hl : l ≠ []) (hrig : ∀ e ∈ l, e.1 < 2 ^ 25) :
    ∃ p, Comb.word.tree (l.map (fun e => (e.1, [Elem.int (classWord e.2) e.1]))) =
      (some [.int ((foldWords (l.map (fun e => classWord e.2)) : Nat) : Int) p], Tally.zero) := by
  obtain ⟨v, hv, ⟨_, rfl, p, rfl⟩, ht⟩ := tree_map_covers word_joins hl hrig
    (fun e _ => ⟨_, rfl, e.1, by rw [List.map_singleton, foldWords_singleton (classWord_gap e.2)]⟩) (List.pairwise_of_forall (fun _ _ => trivial))
  rw [foldWords_perm ((sortBy_perm l).map _)] at hv
  exact ⟨p, Prod.ext hv ht⟩

/-- Windows that are the sums of their part's. -/
def WindowsOf (part : List (Nat × Int × Int)) (v : Elem) : Prop := v = .win (part.map (·.2.1)).sum (part.map (·.2.2)).sum

theorem window_joins : Joins Comb.window.stepAll (fun _ _ => True) (fun l v => ∃ a, v = [a] ∧ WindowsOf l a) (· = Tally.zero) := by
  refine joins_single rfl zero_join_zero ?_
  rintro l r _ _ - rfl rfl
  refine ⟨?_, rfl⟩
  rw [WindowsOf, List.map_append, List.map_append, List.sum_append, List.sum_append]
  rfl

/-- The tree adds windows exactly, whatever its shape (R97). -/
theorem window_tree {l : List (Nat × Int × Int)} (hl : l ≠ []) (hrig : ∀ e ∈ l, e.1 < 2 ^ 25) :
    Comb.window.tree (l.map (fun e => (e.1, [Elem.win e.2.1 e.2.2]))) = (some [.win (l.map (·.2.1)).sum (l.map (·.2.2)).sum], Tally.zero) := by
  obtain ⟨v, hv, ⟨_, rfl, rfl⟩, ht⟩ := tree_map_covers window_joins hl hrig
    (fun e _ => ⟨.win e.2.1 e.2.2, rfl, by simp [WindowsOf]⟩) (List.pairwise_of_forall (fun _ _ => trivial))
  rw [((sortBy_perm l).map _).sum_eq, ((sortBy_perm l).map _).sum_eq] at hv
  exact Prod.ext hv ht

/-- The least key of the codes of some members. -/
def KeyOf (part : List (Nat × Nat)) (v : Elem) : Prop :=
  ∃ e p, e ∈ part ∧ v = .int (nanKey e.1 e.2) p ∧ ∀ x ∈ part, nanKey e.1 e.2 ≤ nanKey x.1 x.2

theorem key_joins : Joins Comb.window.stepAll (fun _ _ => True) (fun l v => ∃ a, v = [a] ∧ KeyOf l a) (· = Tally.zero) := by
  refine joins_single rfl zero_join_zero ?_
  rintro l r _ _ - ⟨e, p, he, rfl, hle⟩ ⟨e', p', he', rfl, hle'⟩
  refine ⟨?_, rfl⟩
  rcases le_total (nanKey e.1 e.2) (nanKey e'.1 e'.2) with h | h
  · exact ⟨e, p, List.mem_append_left _ he, by rw [Comb.step, min_eq_left (by exact_mod_cast h)],
      List.forall_mem_append.mpr ⟨hle, fun x hx => h.trans (hle' x hx)⟩⟩
  · exact ⟨e', p, List.mem_append_right _ he', by rw [Comb.step, min_eq_right (by exact_mod_cast h)],
      List.forall_mem_append.mpr ⟨fun x hx => h.trans (hle x hx), hle'⟩⟩

/-- The key of the NaN of the lowest rig index is the least. -/
theorem nanKey_lowest (hn : (l.map (·.1)).Nodup) (h : ∀ e ∈ l, e.1 < 2 ^ 25 ∧ e.2 < 2 ^ 32) {e : Nat × Nat} (he : e ∈ l)
    (hnan : Fmt.f32.isNan e.2 = true) (hlow : ∀ x ∈ l, Fmt.f32.isNan x.2 = true → e.1 ≤ x.1) {x : Nat × Nat} (hx : x ∈ l)
    (hle : nanKey x.1 x.2 ≤ nanKey e.1 e.2) : nanKey x.1 x.2 = e.1 * 2 ^ 32 + e.2 := by
  obtain ⟨he1, he2⟩ := h e he
  obtain ⟨hx1, hx2⟩ := h x hx
  have hke : nanKey e.1 e.2 = e.1 * 2 ^ 32 + e.2 := by rw [nanKey, if_pos hnan]
  cases hxn : Fmt.f32.isNan x.2
  · have hkx : nanKey x.1 x.2 = 0xFFFFFFFFFFFFFFFF := by simp [nanKey, hxn]
    omega
  · have hkx : nanKey x.1 x.2 = x.1 * 2 ^ 32 + x.2 := by rw [nanKey, if_pos hxn]
    have hrig := hlow x hx hxn
    have heq : x = e := List.inj_on_of_nodup_map hn hx he (by omega)
    rw [heq, hke]

/-- A NaN makes the element the key pass, which finds the NaN of the lowest rig index (R96). -/
theorem key_tree (hn : (l.map (·.1)).Nodup) (h : ∀ e ∈ l, e.1 < 2 ^ 25 ∧ e.2 < 2 ^ 32) {e : Nat × Nat} (he : e ∈ l)
    (hnan : Fmt.f32.isNan e.2 = true) (hlow : ∀ x ∈ l, Fmt.f32.isNan x.2 = true → e.1 ≤ x.1) :
    (∀ r, settle (foldWords (l.map (fun e => classWord e.2))) r = .key) ∧
      ∃ p, Comb.window.tree (l.map (fun x => (x.1, [Elem.int (nanKey x.1 x.2) x.1]))) = (some [.int (e.1 * 2 ^ 32 + e.2 : Nat) p], Tally.zero) := by
  refine ⟨fun r => ?_, ?_⟩
  · have hflag : (foldWords (l.map (fun e => classWord e.2))).testBit 15 = true := by
      rw [foldWords_testBit (by decide), List.any_map]
      exact List.any_eq_true.mpr ⟨e, he, by rw [Function.comp_apply, classWord_nan hnan]; rfl⟩
    rw [settle_eq, if_pos hflag]
  · obtain ⟨v, hv, ⟨_, rfl, x, p, hx, rfl, hle⟩, ht⟩ := tree_map_covers key_joins (List.ne_nil_of_mem he) (fun e he => (h e he).1)
      (fun e _ => ⟨_, rfl, e, e.1, List.mem_singleton_self e, rfl, by simp⟩) (List.pairwise_of_forall (fun _ _ => trivial))
    have hx' := (sortBy_perm l).subset hx
    have hkey := nanKey_lowest hn h he hnan hlow hx' (hle e ((sortBy_perm l).symm.subset he))
    exact ⟨p, Prod.ext (hv.trans (by rw [hkey])) ht⟩

/-- Infinities and zeros settle in pass 1 (Table 3-4). -/
theorem settle_special (h : ∀ e ∈ l, e.2 < 2 ^ 32) (hnan : ∀ e ∈ l, Fmt.f32.isNan e.2 = false) (r : Bool) :
    let w := settle (foldWords (l.map (fun e => classWord e.2))) r
    (0x7F800000 ∈ l.map (·.2) → 0xFF800000 ∈ l.map (·.2) → w = .value .nar Tally.invalid) ∧
    (0x7F800000 ∈ l.map (·.2) → 0xFF800000 ∉ l.map (·.2) → w = .value (.inf false) Tally.zero) ∧
    (0x7F800000 ∉ l.map (·.2) → 0xFF800000 ∈ l.map (·.2) → w = .value (.inf true) Tally.zero) ∧
    ((∀ e ∈ l, e.2 % 2 ^ 31 = 0) → w = .value (.zero (decide (0x80000000 ∈ l.map (·.2)) && (decide (0 ∉ l.map (·.2)) || r))) Tally.zero) := by
  intro w
  have hflag {i k : Nat} (hi : 11 ≤ i) (hbit : ∀ e ∈ l, (classWord e.2).testBit i = decide (e.2 = k)) :
      (foldWords (l.map (fun e => classWord e.2))).testBit i = decide (k ∈ l.map (·.2)) := by
    rw [foldWords_testBit hi, List.any_map, Bool.eq_iff_iff, List.any_eq_true, decide_eq_true_iff, List.mem_map]
    exact exists_congr fun e => and_congr_right fun he => by simp [hbit e he]
  have h15 : (foldWords (l.map (fun e => classWord e.2))).testBit 15 = false := by
    rw [foldWords_testBit (by decide), List.any_map, List.any_eq_false]
    exact fun e he => by simp [(classWord_flags (h e he)).1, hnan e he]
  have h14 := hflag (i := 14) (by decide) (fun e he => (classWord_flags (h e he)).2.1)
  have h13 := hflag (i := 13) (by decide) (fun e he => (classWord_flags (h e he)).2.2.1)
  have h12 := hflag (i := 12) (by decide) (fun e he => (classWord_flags (h e he)).2.2.2.1)
  have h11 := hflag (i := 11) (by decide) (fun e he => (classWord_flags (h e he)).2.2.2.2)
  have hw : w = _ := settle_eq _ r
  rw [h15, h14, h13, h12, h11, if_neg Bool.false_ne_true] at hw
  refine ⟨fun hp hn => ?_, fun hp hn => ?_, fun hp hn => ?_, fun hz => ?_⟩
  · simpa [hp, hn] using hw
  · simpa [hp, hn] using hw
  · simpa [hp, hn] using hw
  · have hp : 0x7F800000 ∉ l.map (·.2) := fun hm => by
      obtain ⟨e, he, heq⟩ := List.mem_map.mp hm
      have := hz e he
      omega
    have hn : 0xFF800000 ∉ l.map (·.2) := fun hm => by
      obtain ⟨e, he, heq⟩ := List.mem_map.mp hm
      have := hz e he
      omega
    have hlow : foldWords (l.map (fun e => classWord e.2)) % 512 = 0 := by
      by_contra hne
      obtain ⟨w, hw, hwl⟩ := foldWords_low_mem hne
      obtain ⟨e, he, rfl⟩ := List.mem_map.mp hw
      have hword := (classWord_zero (c := e.2) (hz e he)).1
      rw [hword] at hwl
      cases hs : Fmt.f32.isNeg e.2 <;> rw [hs] at hwl <;> exact hne hwl.symm
    rw [hw, if_neg (by simp [hp]), if_neg (by simpa using hp), if_neg (by simpa using hn), if_pos hlow, decide_not]

end Passes

/-! ## The window of finite contributions -/

section Windows

variable {cs : List Nat}

/-- Pass 1 of numbers and zeros settles the window at the greatest exponent (R94, R95). -/
theorem settle_window (h : ∀ c ∈ cs, c < 2 ^ 32 ∧ Fmt.f32.isNan c = false ∧ Fmt.f32.isInf c = false) (hne : ∃ c ∈ cs, c % 2 ^ 31 ≠ 0) (r : Bool) :
    ∃ e, settle (foldWords (cs.map classWord)) r = .window e ∧ (∃ c ∈ cs, expoOf c = some e) ∧ ∀ c ∈ cs, ∀ q, expoOf c = some q → q ≤ e := by
  have hflag {i : Nat} (hi : 11 ≤ i) (hbit : ∀ c ∈ cs, (classWord c).testBit i = false) : (foldWords (cs.map classWord)).testBit i = false := by
    rw [foldWords_testBit hi, List.any_map, List.any_eq_false]
    exact fun c hc => by simp [hbit c hc]
  have h15 := hflag (i := 15) (by decide) (fun c hc => (classWord_flags (h c hc).1).1.trans (h c hc).2.1)
  have hinf (c : Nat) (hc : c ∈ cs) : c ≠ 0x7F800000 ∧ c ≠ 0xFF800000 := by
    have hi := (h c hc).2.2
    constructor <;> (rintro rfl; revert hi; decide)
  have h14 := hflag (i := 14) (by decide) (fun c hc => (classWord_flags (h c hc).1).2.1.trans (decide_eq_false (hinf c hc).1))
  have h13 := hflag (i := 13) (by decide) (fun c hc => (classWord_flags (h c hc).1).2.2.1.trans (decide_eq_false (hinf c hc).2))
  have hfin (c : Nat) (hc : c ∈ cs) (h0 : Fmt.f32.mag c ≠ 0) :=
    classWord_fin h0 (Fmt.mag_lt_top f32_wide c (h c hc).2.1 (h c hc).2.2)
  have hlow : foldWords (cs.map classWord) % 512 ≠ 0 := by
    obtain ⟨c, hc, h0⟩ := hne
    obtain ⟨e, -, hw, h1, h2⟩ := hfin c hc h0
    have := le_foldWords_low _ (List.mem_map_of_mem (f := classWord) hc)
    omega
  refine ⟨((foldWords (cs.map classWord) % 512 : Nat) : Int) - 150, ?_, ?_, ?_⟩
  · rw [settle_eq, h15, h14, h13]
    simp only [Bool.false_and, Bool.false_eq_true, if_false, if_neg hlow]
  · obtain ⟨w, hw, hwl⟩ := foldWords_low_mem hlow
    obtain ⟨c, hc, rfl⟩ := List.mem_map.mp hw
    have h0 : Fmt.f32.mag c ≠ 0 := fun h0 => by
      rw [(classWord_zero h0).1] at hwl
      cases hs : Fmt.f32.isNeg c <;> rw [hs] at hwl <;> exact hlow hwl.symm
    obtain ⟨e, he, hw, h1, h2⟩ := hfin c hc h0
    exact ⟨c, hc, he.trans (congrArg some (by omega))⟩
  · intro c hc q hq
    have h0 : Fmt.f32.mag c ≠ 0 := fun h0 => by simp [(classWord_zero h0).2] at hq
    obtain ⟨e, he, hw, h1, h2⟩ := hfin c hc h0
    have := le_foldWords_low _ (List.mem_map_of_mem (f := classWord) hc)
    have : q = e := Option.some.inj (hq.symm.trans he)
    omega

/-- The last unit of a window. -/
def lastUnit (p3 : Bool) (e : Int) : Int := if p3 then e - 75 else e - 37

/-- A contribution truncated at a unit. -/
def cutAt (unit : Int) (c : Nat) : Int := match Fmt.f32.value c with | .fin neg n d => truncScaled neg n d (-unit) | _ => 0

/-- The number that a contribution's windows hold is the contribution, truncated at the last unit. -/
theorem windows_cut (p3 : Bool) (e : Int) (c : Nat) :
    (if p3 then (windows p3 e c).1.1 * 2 ^ 38 + (windows p3 e c).1.2 else (windows p3 e c).1.1) = cutAt (lastUnit p3 e) c := by
  have h37 : -(e - 37) = 37 - e := by omega
  have h75 : -(e - 75) = 75 - e := by omega
  cases p3 <;> simp only [windows, cutAt, lastUnit, h37, h75, Bool.false_eq_true, if_false, if_true] <;>
    cases Fmt.f32.value c <;> simp

/-- The sums of windows hold the sum of the truncated contributions (R97). -/
theorem windows_sum (p3 : Bool) (e : Int) (cs : List Nat) :
    (if p3 then ((cs.map (windows p3 e)).map (·.1.1)).sum * 2 ^ 38 + ((cs.map (windows p3 e)).map (·.1.2)).sum
      else ((cs.map (windows p3 e)).map (·.1.1)).sum) = (cs.map (cutAt (lastUnit p3 e))).sum := by
  induction cs with
  | nil => cases p3 <;> rfl
  | cons c cs ih =>
    simp only [List.map_cons, List.sum_cons]
    rw [← windows_cut, ← ih]
    cases p3
    · rfl
    · simp only [if_true]
      ring

theorem windowValue_sum (p3 : Bool) (e : Int) (m : Rm) (cs : List Nat) :
    windowValue p3 e m ((cs.map (windows p3 e)).map (·.1.1)).sum ((cs.map (windows p3 e)).map (·.1.2)).sum =
      if (cs.map (cutAt (lastUnit p3 e))).sum = 0 then .zero (m == .rdn)
      else Val.scaled (decide ((cs.map (cutAt (lastUnit p3 e))).sum < 0)) (cs.map (cutAt (lastUnit p3 e))).sum.natAbs (lastUnit p3 e) := by
  rw [← windows_sum]
  rfl

end Windows

end Sys2Proof.Machine

/-! SUPPORT. Scans and sparse sums at the root (R106, R107, R109, R110). -/

namespace Sys2Proof.Machine

open Sys2Proof

/-! ## Scans -/

section Scans

variable {x : Shape} {l : List (Nat × List Elem)} {n : Nat}

/-- One member's values among gathered ones, with the rig index they carry. -/
def chunkAt (n : Nat) (l : List Elem) (i : Nat) : Nat × List Elem :=
  ((((l.drop (n * i)).take n).head?.map elemPos).getD 0, (l.drop (n * i)).take n)

/-- Gathered values are cut into the members' own again. -/
theorem chunks_flatMap (hn : 0 < n) (h : ∀ e ∈ l, e.2.length = n ∧ ∀ v ∈ e.2, elemPos v = e.1) :
    (List.range ((l.flatMap (·.2)).length / n)).map (chunkAt n (l.flatMap (·.2))) = l := by
  induction l with
  | nil => simp
  | cons e l ih =>
    obtain ⟨⟨hlen, hpos⟩, hl⟩ := List.forall_mem_cons.mp h
    have hcount : ((e :: l).flatMap (·.2)).length / n = (l.flatMap (·.2)).length / n + 1 := by
      rw [List.flatMap_cons, List.length_append, hlen, Nat.add_comm, Nat.add_div_right _ hn]
    have hfirst : (((e :: l).flatMap (·.2)).drop (n * 0)).take n = e.2 := by
      rw [Nat.mul_zero, List.drop_zero, List.flatMap_cons, ← hlen, List.take_left']
      rfl
    have hhead : (e.2.head?.map elemPos).getD 0 = e.1 := by
      obtain ⟨v, r, hv⟩ := List.exists_cons_of_length_pos (hlen ▸ hn)
      rw [hv]
      exact hpos v (hv ▸ List.mem_cons_self ..)
    rw [hcount, List.range_succ_eq_map, List.map_cons, List.map_map]
    refine congrArg₂ _ (by rw [chunkAt, hfirst, hhead]) ((List.map_congr_left fun i _ => ?_).trans (ih hl))
    have hdrop : ((e :: l).flatMap (·.2)).drop (n * (i + 1)) = (l.flatMap (·.2)).drop (n * i) := by
      rw [List.flatMap_cons, Nat.mul_add, Nat.mul_one, Nat.add_comm, ← hlen, List.drop_append]
      simp
    simp only [Function.comp_apply, Nat.succ_eq_add_one, chunkAt, hdrop]

theorem chunksOf_flatMap (hn : 0 < n) (hl : (l.map (·.1)).Pairwise (· < ·)) (h : ∀ e ∈ l, e.2.length = n ∧ ∀ v ∈ e.2, elemPos v = e.1) :
    chunksOf n (l.flatMap (·.2)) = l := by
  rw [show chunksOf n (l.flatMap (·.2)) = sortBy (·.1) ((List.range ((l.flatMap (·.2)).length / n)).map (chunkAt n (l.flatMap (·.2)))) from rfl,
    chunks_flatMap hn h]
  exact sortBy_of_sorted ((List.pairwise_map.mp hl).imp Nat.le_of_lt)

/-- The contributions that count for a member of a scan. -/
def upTo (x : Shape) (l : List (Nat × List Elem)) (p : Nat) : List (Nat × List Elem) :=
  l.filter (fun e => if x.op = 0x0F then decide (e.1 ≤ p) else decide (e.1 < p))

theorem prefixCodes_some {p : Nat} {v : List Elem} (h : (x.comb.tree (upTo x l p)).1 = some v) :
    (prefixCodes x l p).1 = v.map (fun y => (finalCode x y).1) := by
  rw [prefixCodes, ← upTo]
  cases ht : x.comb.tree (upTo x l p) with
  | mk o t =>
    obtain rfl : o = some v := by simpa [ht] using h
    simp [gather]

theorem prefixCodes_none {p : Nat} (h : upTo x l p = []) : (prefixCodes x l p).1 = List.replicate x.nelem (emptyPrefix x) := by
  have hnone : (x.comb.tree (upTo x l p)).1 = none := h ▸ tree_nil
  rw [prefixCodes, ← upTo]
  cases ht : x.comb.tree (upTo x l p) with
  | mk o t =>
    obtain rfl : o = none := by simpa [ht] using hnone
    rfl

theorem scanResult_scan (t : Tally) (hn : 0 < x.nelem) (hl : (l.map (·.1)).Pairwise (· < ·))
    (h : ∀ e ∈ l, e.2.length = x.nelem ∧ ∀ v ∈ e.2, elemPos v = e.1) :
    (scanResult x t (l.flatMap (·.2))).scan = l.map (fun e => (e.1, (prefixCodes x l e.1).1)) := by
  simp only [scanResult, chunksOf_flatMap hn hl h, List.map_map]
  rfl

/-- What a scan gives a member with nobody before it (R107). -/
theorem emptyPrefix_eq (x : Shape) : (x.scanop = 0 → emptyPrefix x = 0) ∧
    (x.scanop = 1 → x.ifmt.isInt = false → x.ofmt = .f32 → emptyPrefix x = 0xFF800000) ∧
    (x.scanop = 2 → x.ifmt.isInt = false → x.ofmt = .f32 → emptyPrefix x = 0x7F800000) ∧
    (x.ifmt = x.ofmt → x.ifmt.isInt = true → (x.scanop = 1 → signed x.ofmt.width (emptyPrefix x) = x.ifmt.intMin) ∧
      (x.scanop = 2 → signed x.ofmt.width (emptyPrefix x) = x.ifmt.intMax)) := by
  refine ⟨fun h => by simp [emptyPrefix, h], fun h hi ho => ?_, fun h hi ho => ?_, fun heq hi => ?_⟩
  · simp only [emptyPrefix, h, hi, ho]
    rfl
  · simp only [emptyPrefix, h, hi, ho]
    rfl
  · have hrange : x.ifmt.intMin ≤ x.ifmt.intMax := by
      have : (0 : Int) < 2 ^ (x.ifmt.width - 1) := by positivity
      simp only [Fmt.intMin, Fmt.intMax]
      omega
    refine ⟨fun h => ?_, fun h => ?_⟩
    · simp only [emptyPrefix, h, hi, ← heq, if_true]
      exact ((convInt_range hi x.rm _).1 le_rfl hrange).2
    · simp only [emptyPrefix, h, hi, ← heq, if_true]
      exact ((convInt_range hi x.rm _).1 hrange le_rfl).2

/-- Each member of a scan gets the converted tree value of the members up to it (R106, R107). -/
theorem scan_members (t : Tally) (hn : 0 < x.nelem) (hl : (l.map (·.1)).Pairwise (· < ·))
    (h : ∀ e ∈ l, e.2.length = x.nelem ∧ ∀ v ∈ e.2, elemPos v = e.1) :
    let r := scanResult x t (l.flatMap (·.2))
    r.status = .ok ∧ r.scan.map (·.1) = l.map (·.1) ∧
    (∀ e ∈ l, (∀ v, (x.comb.tree (upTo x l e.1)).1 = some v → (e.1, v.map (fun y => (finalCode x y).1)) ∈ r.scan) ∧
      (upTo x l e.1 = [] → (e.1, List.replicate x.nelem (emptyPrefix x)) ∈ r.scan)) := by
  intro r
  have hscan : r.scan = l.map (fun e => (e.1, (prefixCodes x l e.1).1)) := scanResult_scan t hn hl h
  refine ⟨rfl, ?_, fun e he => ⟨fun v hv => ?_, fun hnil => ?_⟩⟩
  · rw [hscan, List.map_map]
    rfl
  · rw [hscan, ← prefixCodes_some hv]
    exact List.mem_map_of_mem (f := fun e : Nat × List Elem => (e.1, (prefixCodes x l e.1).1)) he
  · rw [hscan, ← prefixCodes_none hnil]
    exact List.mem_map_of_mem (f := fun e : Nat × List Elem => (e.1, (prefixCodes x l e.1).1)) he

end Scans

/-! ## Sparse sums -/

section Sparse

/-- An absent member of an `SPSUM` contributes no value and no count (R109). -/
theorem contribution_spsum (s : State) (p pass : Nat) (d : Desc) (p1 : Bool) (words codes : List Nat) (h : (shapeOf (definingOf d)).op = 0x02) :
    let u := s.contribution p d pass p1 words codes
    (dSpAbsent d = true → u.vals = none ∧ u.ncontrib = 0 ∧ u.tally = Tally.zero) ∧ (dSpAbsent d = false → u.vals.isSome = true ∧ u.ncontrib = 1) := by
  refine ⟨fun ha => ?_, fun ha => ?_⟩ <;> simp [State.contribution, h, ha]

/-- Counts add up the tree. -/
theorem joinUps_ncontrib (l : List UpMsg) (v : Option (List Elem)) (t : Tally) (m : UpMsg) :
    (joinUps l v t m).ncontrib = (l.map (·.ncontrib)).sum := by
  rw [joinUps, List.sum_eq_foldl, List.foldl_map]

/-- The outcome of an `SPSUM` (R109, R110). -/
theorem finish_spsum (x : Shape) (p1 : Bool) (n : Nat) (t : Tally) (codes poss : List Nat) (h : x.op = 0x02) :
    (n = 0 → finish x p1 n t codes poss =
      { status := .unvisited, tally := Tally.zero, opval := 0, codes := if x.flag then List.replicate x.nelem 0 else [], poss := [], scan := [] }) ∧
    (n ≠ 0 → finish x p1 n t codes poss = { status := if p1 then .reefedPrec else .ok, tally := t, opval := n, codes := codes, poss := poss, scan := [] }) := by
  refine ⟨fun hn => ?_, fun hn => ?_⟩ <;> simp [finish, h, hn]

end Sparse

end Sys2Proof.Machine

/-! SUPPORT. Scaled narrow sums: the scale of a block, the levels of its elements, and their sum (R121 to R128, R131). -/

namespace Sys2Proof.Machine

open Sys2Proof

/-! ## Codes of a level set -/

section Levels

variable {q : Fmt} {m : Rm} {neg : Bool} {n d h : Nat}

/-- The greatest exponent of a level set. -/
def Fmt.topExp (q : Fmt) : Int := if q = .kf8e4 then 7 else 2

theorem nsFormat_cases (hq : nsFormat q = true) : q = .kf8e4 ∨ q = .kf4 := by simpa [nsFormat] using hq

/-- Rounding reaches a multiple of the unit that the number reaches. -/
theorem le_roundAt {B : Nat} {k : Int} (hd : 0 < d) (h : (B : ℚ) * 2 ^ k ≤ (n : ℚ) / d) : B ≤ (roundAt m neg n d k).1 := by
  have hden := scaled_den_pos hd k
  have hnum : B * (d * (pow2 (-k)).2) ≤ n * (pow2 (-k)).1 := by
    rw [← le_div_iff₀ (two_zpow_pos k), ← scaled_rat, le_div_iff₀ (by exact_mod_cast hden)] at h
    exact_mod_cast h
  have hlo : B ≤ n * (pow2 (-k)).1 / (d * (pow2 (-k)).2) := (Nat.le_div_iff_mul_le hden).mpr hnum
  rcases roundAt_fst m neg n d k with h | ⟨-, h⟩ <;> omega

/-- The exponent at which a number rounds. -/
def Fmt.roundExp (q : Fmt) (n d : Nat) : Int := max (floorLog2 n d) (1 - (q.bin.bias : Int))

/-- The code of a rounded significand. -/
def Fmt.codeAt (q : Fmt) (e : Int) (r : Nat) : Nat :=
  if r < 2 ^ q.bin.fbits then r else (e - (1 - (q.bin.bias : Int)) + 1).toNat * 2 ^ q.bin.fbits + (r - 2 ^ q.bin.fbits)

/-- A number's rounded significand reaches from the least of its exponent to the least of the next. -/
theorem roundAt_range (hn : 0 < n) (hd : 0 < d) :
    (roundAt m neg n d (q.roundExp n d - q.bin.fbits)).1 ≤ 2 ^ (q.bin.fbits + 1) ∧
      ((roundAt m neg n d (q.roundExp n d - q.bin.fbits)).1 < 2 ^ q.bin.fbits → q.roundExp n d = 1 - (q.bin.bias : Int)) := by
  obtain ⟨hlo, hhi⟩ := floorLog2_spec hn hd
  have hpow (a : Nat) (b : Int) : ((2 ^ a : Nat) : ℚ) * 2 ^ (b - q.bin.fbits) = 2 ^ ((a : Int) + b - q.bin.fbits) := by
    rw [Nat.cast_pow, Nat.cast_two, ← zpow_natCast, ← zpow_add₀ two_ne_zero]
    congr 1
    omega
  refine ⟨roundAt_le hd ?_, fun hlt => ?_⟩
  · rw [hpow]
    refine hhi.le.trans (zpow_le_zpow_right₀ one_le_two ?_)
    have : floorLog2 n d ≤ q.roundExp n d := le_max_left _ _
    push_cast
    omega
  · by_contra hne
    have he : q.roundExp n d = floorLog2 n d := by
      simp only [Fmt.roundExp] at hne ⊢
      omega
    refine absurd (le_roundAt (m := m) (neg := neg) (B := 2 ^ q.bin.fbits) hd ?_) (Nat.not_le.mpr hlt)
    rw [hpow, he]
    convert hlo using 2
    omega

/-- A code holds the number that its significand and exponent name. -/
theorem num_codeAt {e : Int} {r : Nat} (he : 1 - (q.bin.bias : Int) ≤ e) (hr : r ≤ 2 ^ (q.bin.fbits + 1))
    (hsmall : r < 2 ^ q.bin.fbits → e = 1 - (q.bin.bias : Int)) : q.num (q.codeAt e r) = r * 2 ^ (e - q.bin.fbits) := by
  have hF : 0 < 2 ^ q.bin.fbits := Fmt.bin_pos
  rw [pow_succ] at hr
  rw [Fmt.codeAt]
  split
  next hlt =>
    obtain ⟨hm, hu⟩ := q.mant_small hlt
    rw [Fmt.num, hm, hu, hsmall hlt]
  next hge =>
    generalize hk : (e - (1 - (q.bin.bias : Int)) + 1).toNat = k
    have hke : (k : Int) = e - (1 - (q.bin.bias : Int)) + 1 := by omega
    have hle : 2 ^ q.bin.fbits ≤ k * 2 ^ q.bin.fbits + (r - 2 ^ q.bin.fbits) := by
      have : 1 * 2 ^ q.bin.fbits ≤ k * 2 ^ q.bin.fbits := Nat.mul_le_mul_right _ (by omega)
      omega
    obtain ⟨hm, hu, -⟩ := q.mant_large hle
    rcases Nat.lt_or_ge (r - 2 ^ q.bin.fbits) (2 ^ q.bin.fbits) with hlt | hge'
    · have hdiv : (k * 2 ^ q.bin.fbits + (r - 2 ^ q.bin.fbits)) / 2 ^ q.bin.fbits = k := by
        rw [Nat.mul_comm, Nat.mul_add_div hF, Nat.div_eq_of_lt hlt, Nat.add_zero]
      have hmod : (k * 2 ^ q.bin.fbits + (r - 2 ^ q.bin.fbits)) % 2 ^ q.bin.fbits = r - 2 ^ q.bin.fbits := by
        rw [Nat.mul_comm, Nat.mul_add_mod, Nat.mod_eq_of_lt hlt]
      rw [Fmt.num, hm, hu, hdiv, hmod, Nat.add_sub_cancel' (Nat.le_of_not_lt hge), hke]
      congr 2
      omega
    · have hr2 : r = 2 ^ q.bin.fbits * 2 := by omega
      have hsum : k * 2 ^ q.bin.fbits + (r - 2 ^ q.bin.fbits) = (k + 1) * 2 ^ q.bin.fbits := by rw [Nat.add_mul]; omega
      rw [Fmt.num, hm, hu, hsum, Nat.mul_div_cancel _ hF, Nat.mul_mod_left, Nat.add_zero, hr2, Nat.cast_mul, mul_assoc]
      congr 1
      rw [Nat.cast_two, ← zpow_one_add₀ two_ne_zero]
      congr 1
      push_cast
      omega

/-- The value of a code of a level set. -/
theorem ns_value (hq : nsFormat q = true) {c : Nat} (h0 : q.mag c ≠ 0) :
    q.value c = .fin (q.isNeg c) (q.mant (q.mag c) * (pow2 (q.unit (q.mag c))).1) (pow2 (q.unit (q.mag c))).2 := by
  have hval : q.value c = if q.mag c / 2 ^ q.bin.fbits = 0 then
        Val.scaled (q.isNeg c) (q.mag c % 2 ^ q.bin.fbits) (1 - (q.bin.bias : Int) - q.bin.fbits)
      else .fin (q.isNeg c) ((2 ^ q.bin.fbits + q.mag c % 2 ^ q.bin.fbits) * (pow2 ((q.mag c / 2 ^ q.bin.fbits : Nat) - q.bin.bias - q.bin.fbits)).1)
        (pow2 ((q.mag c / 2 ^ q.bin.fbits : Nat) - q.bin.bias - q.bin.fbits)).2 := by
    simp only [Fmt.mag] at h0
    rcases nsFormat_cases hq with rfl | rfl <;> simp [Fmt.value, Fmt.isInt, Fmt.ieee, Fmt.mag, Fmt.isNeg, h0]
  have hF : 0 < 2 ^ q.bin.fbits := Fmt.bin_pos
  rw [hval]
  rcases Nat.lt_or_ge (q.mag c) (2 ^ q.bin.fbits) with hs | hs
  · obtain ⟨hm, hu⟩ := q.mant_small hs
    rw [if_pos (Nat.div_eq_of_lt hs), Val.scaled, Nat.mod_eq_of_lt hs, if_neg h0, hm, hu]
  · obtain ⟨hm, hu, hone⟩ := q.mant_large hs
    rw [if_neg (by omega), hm, hu]

/-- A code of a sign and a magnitude. -/
theorem signed_code {c : Nat} (hc : c < q.signBit) : q.mag (q.zeroOf neg + c) = c ∧ q.isNeg (q.zeroOf neg + c) = neg := by
  cases neg
  · simp [Fmt.zeroOf, Fmt.mag, Fmt.isNeg, Nat.mod_eq_of_lt hc, hc]
  · simp [Fmt.zeroOf, Fmt.mag, Fmt.isNeg, Nat.mod_eq_of_lt hc]

/-- The greatest number of a level set. -/
theorem maxval_eq (hq : nsFormat q = true) : (q.maxval : ℚ) = (2 ^ (q.bin.fbits + 1) - 1 : Nat) * 2 ^ (q.topExp - q.bin.fbits) := by
  rcases nsFormat_cases hq with rfl | rfl
  · norm_num [Fmt.maxval, Fmt.bin, Fmt.topExp]
  · have htop : Fmt.kf4.topExp = 2 := by decide
    norm_num [Fmt.maxval, Fmt.bin, htop]

/-- The parameters of Tables 2-6 and 2-8 that the bounds below need. -/
theorem ns_params (hq : nsFormat q = true) (hh : h ≤ if q = .kf8e4 then 12 else 0) : 1 - (q.bin.bias : Int) < q.topExp - h ∧
    (q.topExp + q.bin.bias).toNat * 2 ^ q.bin.fbits + 2 ^ q.bin.fbits = q.signBit ∧ 0 < q.topExp + q.bin.bias := by
  rcases nsFormat_cases hq with rfl | rfl
  · simp only [if_true] at hh
    refine ⟨?_, by decide, by decide⟩
    simp only [Fmt.bin, Fmt.topExp, if_true]
    omega
  · simp only [reduceCtorEq, if_false, Nat.le_zero] at hh
    subst hh
    decide

/-- A number within the bound of a headroom rounds to within it, and to a code below the sign bit. -/
theorem round_within (hq : nsFormat q = true) (hh : h ≤ if q = .kf8e4 then 12 else 0) (hn : 0 < n) (hd : 0 < d)
    (hle : (n : ℚ) / d * 2 ^ h ≤ q.maxval) :
    q.num (q.codeAt (q.roundExp n d) (roundAt m neg n d (q.roundExp n d - q.bin.fbits)).1) * 2 ^ h ≤ q.maxval ∧
      q.codeAt (q.roundExp n d) (roundAt m neg n d (q.roundExp n d - q.bin.fbits)).1 < q.signBit := by
  obtain ⟨hlo, hhi⟩ := floorLog2_spec hn hd
  obtain ⟨hrange, hsmall⟩ := roundAt_range (q := q) (m := m) (neg := neg) hn hd
  obtain ⟨hemin, hsign, hpos⟩ := ns_params hq hh
  have hge : 1 - (q.bin.bias : Int) ≤ q.roundExp n d := le_max_right _ _
  have hfl : floorLog2 n d ≤ q.roundExp n d := le_max_left _ _
  have hF : 0 < 2 ^ q.bin.fbits := Fmt.bin_pos
  have h2h : (0 : ℚ) < 2 ^ h := by positivity
  rw [num_codeAt hge hrange hsmall]
  -- The bound in the terms of the exponents: all ones at the exponent that the headroom leaves.
  have hbound : (q.maxval : ℚ) = ((2 ^ (q.bin.fbits + 1) - 1 : Nat) * 2 ^ (q.topExp - h - q.bin.fbits)) * 2 ^ h := by
    rw [maxval_eq hq, mul_assoc, ← zpow_natCast, ← zpow_add₀ two_ne_zero]
    congr 2
    omega
  have hones : (2 ^ q.bin.fbits : ℚ) ≤ ((2 ^ (q.bin.fbits + 1) - 1 : Nat) : ℚ) ∧ ((2 ^ (q.bin.fbits + 1) - 1 : Nat) : ℚ) < 2 ^ (q.bin.fbits + 1) := by
    have h1 : 2 ^ q.bin.fbits ≤ 2 ^ (q.bin.fbits + 1) - 1 := by rw [pow_succ]; omega
    have h2 : 2 ^ (q.bin.fbits + 1) - 1 < 2 ^ (q.bin.fbits + 1) := Nat.sub_lt (Nat.two_pow_pos _) one_pos
    exact ⟨by exact_mod_cast h1, by exact_mod_cast h2⟩
  rw [hbound] at hle
  have hle' : (n : ℚ) / d ≤ (2 ^ (q.bin.fbits + 1) - 1 : Nat) * 2 ^ (q.topExp - h - q.bin.fbits) := le_of_mul_le_mul_right hle h2h
  generalize hr : (roundAt m neg n d (q.roundExp n d - q.bin.fbits)).1 = r at hrange hsmall ⊢
  have htop : q.roundExp n d ≤ q.topExp - h := by
    have hlt : (2 : ℚ) ^ floorLog2 n d < 2 ^ (q.topExp - h + 1) := by
      refine (hlo.trans hle').trans_lt ?_
      calc _ < (2 : ℚ) ^ (q.bin.fbits + 1) * 2 ^ (q.topExp - h - q.bin.fbits) := mul_lt_mul_of_pos_right hones.2 (two_zpow_pos _)
        _ = _ := by rw [← zpow_natCast, ← zpow_add₀ two_ne_zero]; congr 1; push_cast; omega
    have := zpow_lt_of_lt hlt
    simp only [Fmt.roundExp]
    omega
  have hcode (hk : (q.roundExp n d - (1 - (q.bin.bias : Int)) + 1).toNat * 2 ^ q.bin.fbits + (r - 2 ^ q.bin.fbits) < q.signBit) :
      q.codeAt (q.roundExp n d) r < q.signBit := by
    rw [Fmt.codeAt]
    split <;> omega
  rcases lt_or_eq_of_le htop with hlt | heq
  · constructor
    · rw [hbound]
      refine mul_le_mul_of_nonneg_right ?_ h2h.le
      calc (r : ℚ) * 2 ^ (q.roundExp n d - q.bin.fbits) ≤ 2 ^ (q.bin.fbits + 1) * 2 ^ (q.roundExp n d - q.bin.fbits) :=
            mul_le_mul_of_nonneg_right (by exact_mod_cast hrange) (two_zpow_pos _).le
        _ = 2 ^ (q.roundExp n d + 1) := by rw [← zpow_natCast, ← zpow_add₀ two_ne_zero]; congr 1; push_cast; omega
        _ ≤ 2 ^ (q.topExp - h) := zpow_le_zpow_right₀ one_le_two (by omega)
        _ = 2 ^ q.bin.fbits * 2 ^ (q.topExp - h - q.bin.fbits) := by rw [← zpow_natCast, ← zpow_add₀ two_ne_zero]; congr 1; omega
        _ ≤ _ := mul_le_mul_of_nonneg_right hones.1 (two_zpow_pos _).le
    · have hk : (q.roundExp n d - (1 - (q.bin.bias : Int)) + 1).toNat + 1 ≤ (q.topExp + q.bin.bias).toNat := by omega
      have hmul := Nat.mul_le_mul_right (2 ^ q.bin.fbits) hk
      rw [Nat.add_mul] at hmul
      rw [pow_succ] at hrange
      exact hcode (by omega)
  · rw [heq]
    have hr1 : r ≤ 2 ^ (q.bin.fbits + 1) - 1 := hr ▸ roundAt_le hd (heq ▸ hle')
    constructor
    · rw [hbound]
      exact mul_le_mul_of_nonneg_right (mul_le_mul_of_nonneg_right (by exact_mod_cast hr1) (two_zpow_pos _).le) h2h.le
    · have hk : (q.roundExp n d - (1 - (q.bin.bias : Int)) + 1).toNat ≤ (q.topExp + q.bin.bias).toNat := by omega
      have hmul := Nat.mul_le_mul_right (2 ^ q.bin.fbits) hk
      rw [pow_succ] at hr1
      exact heq ▸ hcode (by omega)

/-- The level of a code: the integer that the tree adds. -/
def levelOf (q : Fmt) (c : Nat) : Int :=
  match q.value c with
  | .fin ng a b => let l : Int := (a * 2 ^ levelScale q / b : Nat); if ng then -l else l
  | _ => 0

theorem levelOf_natAbs (hq : nsFormat q = true) {c : Nat} (h0 : q.mag c ≠ 0) :
    (((levelOf q c).natAbs : Nat) : ℚ) ≤ q.num (q.mag c) * 2 ^ levelScale q := by
  rw [levelOf, ns_value hq h0]
  have habs (l : Nat) : (if q.isNeg c = true then -(l : Int) else (l : Int)).natAbs = l := by split <;> simp
  simp only [habs]
  refine Nat.cast_div_le.trans_eq ?_
  rw [← q.num_eq]
  push_cast
  ring

/-- An element within the bound of a headroom gets a level within it, and does not saturate (R121, R125). -/
theorem toShort_level (hq : nsFormat q = true) (hh : h ≤ if q = .kf8e4 then 12 else 0) (hn : 0 < n) (hd : 0 < d)
    (hle : (n : ℚ) / d * 2 ^ h ≤ q.maxval) :
    (toShort q m (.fin neg n d)).2.sat = 0 ∧ (levelOf q (toShort q m (.fin neg n d)).1).natAbs * 2 ^ h ≤ q.maxval * 2 ^ levelScale q := by
  obtain ⟨hnum, hcode⟩ := round_within (m := m) (neg := neg) hq hh hn hd hle
  have hfit : ¬ q.maxval * d < n := by
    have h1 : (n : ℚ) / d ≤ q.maxval :=
      (le_mul_of_one_le_right (by positivity) (one_le_pow₀ one_le_two)).trans hle
    rw [div_le_iff₀ (by exact_mod_cast hd)] at h1
    exact Nat.not_lt.mpr (by exact_mod_cast h1)
  have hshort : toShort q m (.fin neg n d) =
      if q.codeAt (q.roundExp n d) (roundAt m neg n d (q.roundExp n d - q.bin.fbits)).1 = 0 then (0, Tally.oneFlush)
      else (q.zeroOf neg + q.codeAt (q.roundExp n d) (roundAt m neg n d (q.roundExp n d - q.bin.fbits)).1, Tally.zero) := by
    simp only [toShort]
    rw [if_neg hfit]
    rcases nsFormat_cases hq with rfl | rfl <;> rfl
  rw [hshort]
  generalize q.codeAt (q.roundExp n d) (roundAt m neg n d (q.roundExp n d - q.bin.fbits)).1 = c at hnum hcode
  split
  next h0 =>
    refine ⟨rfl, ?_⟩
    have hlevel : levelOf q 0 = 0 := by rcases nsFormat_cases hq with rfl | rfl <;> rfl
    simp [hlevel]
  next h0 =>
    obtain ⟨hmag, -⟩ := signed_code (neg := neg) hcode
    have hlevel := levelOf_natAbs hq (c := q.zeroOf neg + c) (by omega)
    rw [hmag] at hlevel
    refine ⟨rfl, ?_⟩
    have h2 : (((levelOf q (q.zeroOf neg + c)).natAbs : Nat) : ℚ) * 2 ^ h ≤ q.maxval * 2 ^ levelScale q := by
      calc _ ≤ q.num c * 2 ^ levelScale q * 2 ^ h := mul_le_mul_of_nonneg_right hlevel (by positivity)
        _ = q.num c * 2 ^ h * 2 ^ levelScale q := by ring
        _ ≤ _ := mul_le_mul_of_nonneg_right hnum (by positivity)
    exact_mod_cast h2

end Levels

/-! ## The scale and the level of an element -/

section Scale

variable {q : Fmt} {h big x n : Nat}

theorem nsLevel_zero (h0 : Fmt.f32.mag x = 0) (s : Option (Nat × Nat)) : nsLevel x s q h = (0, Tally.zero) := by
  simp [nsLevel, Fmt.value_zero f32_wide x h0]

/-- The scale of a block covers its greatest element (R124). -/
theorem nsScale_covers (hq : nsFormat q = true) (h0 : Fmt.f32.mag big ≠ 0) (htop : Fmt.f32.mag big < Fmt.f32.top) :
    ∃ sn sd, nsScale big q h = some (sn, sd) ∧ 0 < sn ∧ 0 < sd ∧ Fmt.f32.num (Fmt.f32.mag big) * 2 ^ h ≤ q.maxval * ((sn : ℚ) / sd) := by
  have hmax : 0 < q.maxval := by rcases nsFormat_cases hq with rfl | rfl <;> decide
  have hmaxq : (0 : ℚ) < q.maxval := by exact_mod_cast hmax
  have hv := Fmt.value_fin f32_wide big h0 htop
  have hnum := Fmt.num_eq (f := .f32) (Fmt.f32.mag big)
  have hn : 0 < Fmt.f32.mant (Fmt.f32.mag big) * (pow2 (Fmt.f32.unit (Fmt.f32.mag big))).1 := Nat.mul_pos (Fmt.mant_pos h0) (pow2_fst_pos _)
  have hd := pow2_snd_pos (Fmt.f32.unit (Fmt.f32.mag big))
  generalize Fmt.f32.mant (Fmt.f32.mag big) * (pow2 (Fmt.f32.unit (Fmt.f32.mag big))).1 = a at hv hnum hn
  generalize (pow2 (Fmt.f32.unit (Fmt.f32.mag big))).2 = b at hv hnum hd
  have hd' : 0 < b * q.maxval := Nat.mul_pos hd hmax
  simp only [nsScale, hv]
  generalize max (floorLog2 (a * 2 ^ h) (b * q.maxval)) (-126) - 23 = e
  have hup := le_roundAt_rup (n := a * 2 ^ h) hd' e
  generalize (roundAt .rup false (a * 2 ^ h) (b * q.maxval) e).1 = r at hup
  have hratio : ((a * 2 ^ h : Nat) : ℚ) / ((b * q.maxval : Nat) : ℚ) = Fmt.f32.num (Fmt.f32.mag big) * 2 ^ h / q.maxval := by
    rw [← hnum]
    push_cast
    rw [div_mul_eq_mul_div, div_div]
  have hscale : ((r * (pow2 e).1 : Nat) : ℚ) / ((pow2 e).2 : Nat) = r * 2 ^ e := by rw [Nat.cast_mul, mul_div_assoc, pow2_rat]
  rw [hratio] at hup
  have hpos : (0 : ℚ) < r * 2 ^ e := lt_of_lt_of_le (by rw [← hnum]; positivity) hup
  refine ⟨_, _, rfl, Nat.mul_pos ?_ (pow2_fst_pos e), pow2_snd_pos e, ?_⟩
  · exact_mod_cast (pos_of_mul_pos_left hpos (two_zpow_pos e).le : (0 : ℚ) < r)
  · rw [hscale]
    rwa [div_le_iff₀ hmaxq, mul_comm _ (q.maxval : ℚ)] at hup

/-- The level of a finite element is the level of its code in the block's scale, unless the element passes the scale. -/
theorem nsLevel_fin {neg : Bool} {a b sn sd : Nat} (hv : Fmt.f32.value x = .fin neg a b) (hfit : ¬ q.maxval * (b * sn) < a * sd * 2 ^ h) :
    nsLevel x (some (sn, sd)) q h =
      (levelOf q (toShort q .rne (.fin neg (a * sd) (b * sn))).1, (toShort q .rne (.fin neg (a * sd) (b * sn))).2) := by
  simp only [nsLevel, hv, decide_eq_false hfit, Bool.false_eq_true, if_false, levelOf] <;> rfl

/-- No element of a block saturates, and its level stays within the bound of the headroom (R121, R125). -/
theorem nsLevel_within (hq : nsFormat q = true) (hh : h ≤ if q = .kf8e4 then 12 else 0) (hx : Fmt.f32.mag x ≤ Fmt.f32.mag big)
    (htop : Fmt.f32.mag big < Fmt.f32.top) : (nsLevel x (nsScale big q h) q h).2.sat = 0 ∧
      (nsLevel x (nsScale big q h) q h).1.natAbs * 2 ^ h ≤ q.maxval * 2 ^ levelScale q := by
  by_cases h0 : Fmt.f32.mag x = 0
  · rw [nsLevel_zero h0]
    exact ⟨rfl, by simp⟩
  obtain ⟨sn, sd, hscale, hsn, hsd, hcover⟩ := nsScale_covers (h := h) hq (big := big) (by omega) htop
  have hv := Fmt.value_fin f32_wide x h0 (hx.trans_lt htop)
  have hnum := Fmt.num_eq (f := .f32) (Fmt.f32.mag x)
  have ha : 0 < Fmt.f32.mant (Fmt.f32.mag x) * (pow2 (Fmt.f32.unit (Fmt.f32.mag x))).1 := Nat.mul_pos (Fmt.mant_pos h0) (pow2_fst_pos _)
  have hb := pow2_snd_pos (Fmt.f32.unit (Fmt.f32.mag x))
  generalize Fmt.f32.mant (Fmt.f32.mag x) * (pow2 (Fmt.f32.unit (Fmt.f32.mag x))).1 = a at hv hnum ha
  generalize (pow2 (Fmt.f32.unit (Fmt.f32.mag x))).2 = b at hv hnum hb
  have hb' : 0 < b * sn := Nat.mul_pos hb hsn
  have hsnq : (0 : ℚ) < sn := by exact_mod_cast hsn
  have hsdq : (0 : ℚ) < sd := by exact_mod_cast hsd
  have hle : ((a * sd : Nat) : ℚ) / ((b * sn : Nat) : ℚ) * 2 ^ h ≤ q.maxval := by
    have hx2 : Fmt.f32.num (Fmt.f32.mag x) * 2 ^ h ≤ q.maxval * ((sn : ℚ) / sd) :=
      (mul_le_mul_of_nonneg_right (Fmt.num_mono hx) (by positivity)).trans hcover
    rw [Nat.cast_mul, Nat.cast_mul, mul_div_mul_comm, hnum]
    calc Fmt.f32.num (Fmt.f32.mag x) * ((sd : ℚ) / sn) * 2 ^ h = Fmt.f32.num (Fmt.f32.mag x) * 2 ^ h * (sd / sn) := by ring
      _ ≤ q.maxval * ((sn : ℚ) / sd) * (sd / sn) := mul_le_mul_of_nonneg_right hx2 (by positivity)
      _ = q.maxval := by rw [mul_assoc, div_mul_div_cancel₀ hsdq.ne', div_self hsnq.ne', mul_one]
  have hfit : ¬ q.maxval * (b * sn) < a * sd * 2 ^ h := by
    rw [div_mul_eq_mul_div, div_le_iff₀ (by exact_mod_cast hb')] at hle
    exact Nat.not_lt.mpr (by exact_mod_cast hle)
  rw [hscale, nsLevel_fin hv hfit]
  exact toShort_level hq hh (Nat.mul_pos ha hsd) hb' hle

/-- The headroom covers the group (R121). -/
theorem headroom_covers (hn : n ≤ 2 ^ 25) : headroom .kf8e4 n ≤ 12 ∧ n ≤ 2 ^ headroom .kf8e4 n * 2 ^ 13 := by
  have hlog : n ≤ 2 ^ ceilLog2 n ∧ ceilLog2 n ≤ 25 := by
    rw [ceilLog2]
    split
    · exact ⟨by simpa, by decide⟩
    next h1 =>
      have hlt : n - 1 < 2 ^ (Nat.log2 (n - 1) + 1) := Nat.lt_log2_self
      refine ⟨by omega, ?_⟩
      have : Nat.log2 (n - 1) < 25 := (Nat.log2_lt (by omega)).mpr (by omega)
      omega
  have hhead : headroom .kf8e4 n = ceilLog2 n - 13 := rfl
  rw [hhead, ← pow_add]
  exact ⟨by omega, hlog.1.trans (Nat.pow_le_pow_right two_pos (by omega))⟩

/-- A level stays within the bound that keeps the group's sum below 2^31 (R121). -/
theorem nsLevel_bound (hq : nsFormat q = true) (hn : n ≤ 2 ^ 25) (hbig : big < 0x7F800000) (hx : x % 2 ^ 31 ≤ big) :
    let r := nsLevel x (nsScale big q (headroom q n)) q (headroom q n)
    r.2.sat = 0 ∧ r.1.natAbs * 2 ^ headroom q n ≤ q.maxval * 2 ^ levelScale q ∧ r.1.natAbs * n < 2 ^ 31 ∧ (x % 2 ^ 31 = 0 → r = (0, Tally.zero)) := by
  intro r
  have hmag : Fmt.f32.mag big = big := Nat.mod_eq_of_lt (hbig.trans (by decide))
  have hh : headroom q n ≤ if q = .kf8e4 then 12 else 0 := by
    rcases nsFormat_cases hq with rfl | rfl
    · exact (headroom_covers hn).1
    · exact Nat.le_refl 0
  obtain ⟨hsat, hle⟩ := nsLevel_within hq hh (x := x) (big := big) (hmag.symm ▸ hx) (hmag.symm ▸ hbig)
  refine ⟨hsat, hle, ?_, fun h0 => nsLevel_zero h0 _⟩
  change r.1.natAbs * _ ≤ _ at hle
  generalize r.1.natAbs = k at hle
  rcases nsFormat_cases hq with rfl | rfl
  · calc k * n ≤ k * (2 ^ headroom .kf8e4 n * 2 ^ 13) := Nat.mul_le_mul_left k (headroom_covers hn).2
      _ = k * 2 ^ headroom .kf8e4 n * 2 ^ 13 := (Nat.mul_assoc ..).symm
      _ ≤ Fmt.kf8e4.maxval * 2 ^ levelScale .kf8e4 * 2 ^ 13 := Nat.mul_le_mul_right _ hle
      _ < 2 ^ 31 := by decide
  · have hk : k ≤ 12 := by simpa [headroom, Fmt.maxval, levelScale] using hle
    calc k * n ≤ 12 * 2 ^ 25 := Nat.mul_le_mul hk hn
      _ < 2 ^ 31 := by decide

/-- An infinity or a NaN gives the sentinel (R125). -/
theorem nsLevel_sentinel (hq : nsFormat q = true) (hx : 0x7F800000 ≤ x % 2 ^ 31) (s : Option (Nat × Nat)) :
    nsLevel x s q h = (sentinel, Tally.oneNar) := by
  have hne : q ≠ .kf16 := by rcases nsFormat_cases hq with rfl | rfl <;> decide
  have hmag : Fmt.f32.top ≤ Fmt.f32.mag x := hx
  rcases Nat.eq_or_lt_of_le hmag with heq | hlt
  · simp [nsLevel, Fmt.value_inf f32_wide x heq.symm, toShort, hne]
  · obtain ⟨sig, frac, hv⟩ := Fmt.value_nan f32_wide x hlt
    simp [nsLevel, hv, toShort, hne]

end Scale

/-! ## Level sums -/

section LevelSums

variable {l : List (Nat × Int)}

/-- The sum of the levels of some members: the sentinel where one has it, and else the exact sum while it fits. -/
def LevelsOf (part : List (Nat × Int)) (v : Elem) : Prop :=
  ∃ z p, v = .int z p ∧ (sentinel ∈ part.map (·.2) → z = sentinel) ∧
    (sentinel ∉ part.map (·.2) → (part.map (fun e => e.2.natAbs)).sum < 2 ^ 31 → z = (part.map (·.2)).sum)

theorem natAbs_sum_le (l : List (Nat × Int)) : Int.natAbs (l.map (·.2)).sum ≤ (l.map (fun e => e.2.natAbs)).sum := by
  induction l with
  | nil => rfl
  | cons e l ih =>
    simp only [List.map_cons, List.sum_cons]
    omega

theorem sum_ne_sentinel (h : (l.map (fun e => e.2.natAbs)).sum < 2 ^ 31) : (l.map (·.2)).sum ≠ sentinel := by
  have := natAbs_sum_le l
  simp only [sentinel]
  omega

theorem level_joins : Joins Comb.level.stepAll (fun _ _ => True) (fun l v => ∃ a, v = [a] ∧ LevelsOf l a) (· = Tally.zero) := by
  refine joins_single rfl zero_join_zero ?_
  rintro l r _ _ - ⟨y, p, rfl, hys, hyz⟩ ⟨z, q, rfl, hzs, hzz⟩
  refine ⟨⟨_, p, rfl, fun hs => ?_, fun hs hlt => ?_⟩, rfl⟩
  · rw [List.map_append, List.mem_append] at hs
    exact if_pos (hs.imp hys hzs)
  · rw [List.map_append, List.mem_append, not_or] at hs
    rw [List.map_append, List.sum_append] at hlt
    have hy := hyz hs.1 (by omega)
    have hz := hzz hs.2 (by omega)
    have hyn := sum_ne_sentinel (l := l) (by omega)
    have hzn := sum_ne_sentinel (l := r) (by omega)
    rw [List.map_append, List.sum_append, ← hy, ← hz]
    exact if_neg (by rw [hy, hz]; exact not_or.mpr ⟨hyn, hzn⟩)

/-- The tree adds levels exactly and keeps a sentinel (R127). -/
theorem level_tree (hl : l ≠ []) (hrig : ∀ e ∈ l, e.1 < 2 ^ 25) :
    let tree := Comb.level.tree (l.map (fun e => (e.1, [Elem.int e.2 e.1])))
    (sentinel ∈ l.map (·.2) → ∃ p, tree = (some [.int sentinel p], Tally.zero)) ∧
    (sentinel ∉ l.map (·.2) → (l.map (fun e => e.2.natAbs)).sum < 2 ^ 31 → ∃ p, tree = (some [.int (l.map (·.2)).sum p], Tally.zero)) := by
  intro tree
  obtain ⟨v, hv, ⟨_, rfl, z, p, rfl, hs, hz⟩, ht⟩ := tree_map_covers level_joins hl hrig
    (fun e _ => ⟨.int e.2 e.1, rfl, e.2, e.1, rfl, fun h => (List.mem_singleton.mp h).symm, fun _ _ => by simp⟩)
    (List.pairwise_of_forall (fun _ _ => trivial))
  have hperm := sortBy_perm (key := (·.1)) l
  rw [(hperm.map (·.2)).mem_iff] at hs hz
  rw [(hperm.map (fun e => e.2.natAbs)).sum_eq, (hperm.map (·.2)).sum_eq] at hz
  exact ⟨fun h => ⟨p, Prod.ext (hv.trans (by rw [hs h])) ht⟩, fun h hlt => ⟨p, Prod.ext (hv.trans (by rw [hz h hlt])) ht⟩⟩

/-- The result of an element is its level sum times the scale (R128). -/
theorem nsResult_eq (sum : Int) (q f : Fmt) (m : Rm) (sn sd : Nat) (h : sum ≠ sentinel) :
    nsResult sum none q f m = convFloat f m (.zero false) ∧ (sum = 0 → nsResult sum (some (sn, sd)) q f m = convFloat f m (.zero (m == .rdn))) ∧
    (sum ≠ 0 → nsResult sum (some (sn, sd)) q f m = convFloat f m (.fin (decide (sum < 0)) (sum.natAbs * sn) (sd * 2 ^ levelScale q))) := by
  refine ⟨?_, fun h0 => ?_, fun h0 => ?_⟩
  · rw [nsResult, if_neg h]
  · simp only [nsResult, if_neg h, if_pos h0]
  · simp only [nsResult, if_neg h, if_neg h0]

end LevelSums

end Sys2Proof.Machine

/-! SUPPORT. The arithmetic of files 01 to 04, put together. -/

namespace Sys2Proof.Machine

open Sys2Proof

/-- P2 and P3: the window of numbers, the tree's sums, and what NaNs, infinities and zeros settle. -/
theorem windows_settle :
  (∀ (p3 : Bool) (m : Rm) (cs : List Nat), (∀ c ∈ cs, c < 2 ^ 32 ∧ Fmt.f32.isNan c = false ∧ Fmt.f32.isInf c = false) → (∃ c ∈ cs, c % 2 ^ 31 ≠ 0) →
    ∃ e, settle (foldWords (cs.map classWord)) (m == .rdn) = .window e ∧ (∃ c ∈ cs, expoOf c = some e) ∧ (∀ c ∈ cs, ∀ q, expoOf c = some q → q ≤ e) ∧
      windowValue p3 e m ((cs.map (windows p3 e)).map (·.1.1)).sum ((cs.map (windows p3 e)).map (·.1.2)).sum =
        (if (cs.map (cutAt (lastUnit p3 e))).sum = 0 then .zero (m == .rdn)
          else Val.scaled (decide ((cs.map (cutAt (lastUnit p3 e))).sum < 0)) (cs.map (cutAt (lastUnit p3 e))).sum.natAbs (lastUnit p3 e))) := by
  intro p3 m cs h hne
  obtain ⟨e, hset, hex, hmax⟩ := settle_window h hne (m == .rdn)
  exact ⟨e, hset, hex, hmax, windowValue_sum p3 e m cs⟩

/-- Settles O58: each clause by the lemma about its operation; what the tree folds by the parts of the contributions that its values stand
for. -/
theorem integerSumsAreExact : Obligations.IntegerSumsAreExact := by
  refine ⟨⟨?_, ?_⟩, ⟨shape_comb, ?_⟩, ?_, ⟨?_, ?_, ?_⟩, ?_, ⟨contribution_spsum, joinUps_ncontrib, finish_spsum⟩, ?_, ?_, ?_, ?_, ?_⟩
  · exact fun n l hl h => isum_tree hl h
  · exact fun f m v hf => convInt_range hf m v
  · exact fun f hf m a b p q ha hb => p1_step hf m p q ha hb
  · exact fun f hf k l hl hn h => extrema_tree (by simpa [Fmt.wide] using hf) k hl hn h
  · exact windows_settle
  · exact fun l hl h => window_tree hl h
  · exact fun l hl hn h => ⟨word_tree hl (fun e he => (h e he).1), fun e he hnan hlow => key_tree hn h he hnan hlow,
      fun hnan r => settle_special (fun e he => (h e he).2) hnan r⟩
  · intro x t l hn hl h
    obtain ⟨hstatus, hrigs, hmem⟩ := scan_members (x := x) t hn hl h
    obtain ⟨h0, h1, h2, h3⟩ := emptyPrefix_eq x
    exact ⟨hstatus, hrigs, hmem, h0, h1, h2, h3⟩
  · exact fun q n big x hq hn hbig _ hx => nsLevel_bound hq hn hbig hx
  · exact fun q x h s hq _ hx => nsLevel_sentinel hq hx s
  · exact fun l hl _ hrig => level_tree hl hrig
  · exact fun sum q f m sn sd h => nsResult_eq sum q f m sn sd h
  · exact fun flushes thr k => decide_eq_true_iff

end Sys2Proof.Machine

/-! SUPPORT. Conversions into the short formats: rounding among the codes of a format, saturation and flushes (R75 to R77). -/

namespace Sys2Proof.Machine

open Sys2Proof

/-! ## Rounding among the codes of a format with exponents -/

section CodeRounding

variable {f : Fmt} {m : Rm} {neg : Bool} {n d c : Nat}

/-- The magnitude that a positive number rounds to, exponents without end. -/
def Fmt.roundCode (f : Fmt) (m : Rm) (neg : Bool) (n d : Nat) : Nat :=
  f.codeAt (f.roundExp n d) (roundAt m neg n d (f.roundExp n d - f.bin.fbits)).1

/-- Codes follow one another as the significands at one exponent do, into the next exponent too. -/
theorem codeAt_mant_add (f : Fmt) (c i : Nat) : f.codeAt (f.unit c + f.bin.fbits) (f.mant c + i) = c + i := by
  rw [Fmt.codeAt]
  rcases Nat.lt_or_ge c (2 ^ f.bin.fbits) with hs | hs
  · obtain ⟨hm, hu⟩ := f.mant_small hs
    have hk : (f.unit c + f.bin.fbits - (1 - (f.bin.bias : Int)) + 1).toNat = 1 := by omega
    rw [hm, hk]
    split <;> omega
  · obtain ⟨hm, hu, hone⟩ := f.mant_large hs
    have hk : (f.unit c + f.bin.fbits - (1 - (f.bin.bias : Int)) + 1).toNat = c / 2 ^ f.bin.fbits := by omega
    have hdiv := Nat.div_add_mod' c (2 ^ f.bin.fbits)
    rw [hm, hk, if_neg (by omega)]
    omega

/-- A code's exponent is none below the least, and the least where the significand is small. -/
theorem unit_range (f : Fmt) (c : Nat) :
    1 - (f.bin.bias : Int) ≤ f.unit c + f.bin.fbits ∧ (f.mant c < 2 ^ f.bin.fbits → f.unit c + f.bin.fbits = 1 - (f.bin.bias : Int)) := by
  rcases Nat.lt_or_ge c (2 ^ f.bin.fbits) with hs | hs
  · obtain ⟨-, hu⟩ := f.mant_small hs
    omega
  · obtain ⟨hm, hu, hone⟩ := f.mant_large hs
    omega

/-- The next code's number is greater by the unit. -/
theorem num_succ (f : Fmt) (c : Nat) : f.num (c + 1) = f.num c + 2 ^ f.unit c := by
  obtain ⟨hge, hsmall⟩ := unit_range f c
  have h := num_codeAt (r := f.mant c + 1) hge (f.mant_lt c) (fun hlt => hsmall (by omega))
  rw [codeAt_mant_add, Int.add_sub_cancel] at h
  rw [h, Fmt.num]
  push_cast
  ring

/-- Numbers order magnitudes. -/
theorem le_of_num_le {a b : Nat} (h : f.num a ≤ f.num b) : a ≤ b := by
  by_contra hlt
  have hnext : f.num (b + 1) ≤ f.num a := f.num_mono (by omega)
  rw [num_succ] at hnext
  linarith [two_zpow_pos (f.unit b)]

/-- A number's exponent lies between the least exponent and that of a code which is not below it. -/
theorem roundExp_le (hn : 0 < n) (hd : 0 < d) (h : (n : ℚ) / d ≤ f.num c) : f.roundExp n d ≤ f.unit c + f.bin.fbits := by
  obtain ⟨hlo, -⟩ := floorLog2_spec hn hd
  have hlog : floorLog2 n d ≤ f.unit c + f.bin.fbits := by
    rcases Nat.lt_or_ge c (2 ^ f.bin.fbits) with hs | hs
    · obtain ⟨-, hu⟩ := f.mant_small hs
      have := zpow_lt_of_lt ((hlo.trans h).trans_lt (f.num_small hs))
      omega
    · obtain ⟨-, hu, -⟩ := f.mant_large hs
      have := zpow_lt_of_lt ((hlo.trans h).trans_lt (f.num_large hs).2)
      omega
  exact max_le hlog (unit_range f c).1

/-- A number's exponent reaches that of a code which is not above it. -/
theorem le_roundExp (hn : 0 < n) (hd : 0 < d) (h : f.num c ≤ (n : ℚ) / d) : f.unit c + f.bin.fbits ≤ f.roundExp n d := by
  obtain ⟨-, hhi⟩ := floorLog2_spec hn hd
  rw [Fmt.roundExp]
  rcases Nat.lt_or_ge c (2 ^ f.bin.fbits) with hs | hs
  · obtain ⟨-, hu⟩ := f.mant_small hs
    omega
  · obtain ⟨-, hu, -⟩ := f.mant_large hs
    have := zpow_lt_of_lt (((f.num_large hs).1.trans h).trans_lt hhi)
    omega

/-- The number that a rounded magnitude stands for. -/
theorem num_roundCode (hn : 0 < n) (hd : 0 < d) :
    f.num (f.roundCode m neg n d) = (roundAt m neg n d (f.roundExp n d - f.bin.fbits)).1 * 2 ^ (f.roundExp n d - f.bin.fbits) := by
  obtain ⟨hr, hsmall⟩ := roundAt_range (q := f) (m := m) (neg := neg) hn hd
  exact num_codeAt (le_max_right _ _) hr hsmall

/-- Rounding does not pass a code: a number not above a code's rounds to no greater code. -/
theorem roundCode_le (hn : 0 < n) (hd : 0 < d) (h : (n : ℚ) / d ≤ f.num c) : f.roundCode m neg n d ≤ c := by
  have hexp := roundExp_le hn hd h
  have hgrid : f.num c = (f.mant c * 2 ^ (f.unit c + f.bin.fbits - f.roundExp n d).toNat : Nat) * 2 ^ (f.roundExp n d - f.bin.fbits) := by
    rw [Fmt.num, Nat.cast_mul, mul_assoc, Nat.cast_pow, Nat.cast_two, ← zpow_natCast, ← zpow_add₀ two_ne_zero]
    congr 2
    omega
  refine le_of_num_le (f := f) ?_
  rw [num_roundCode hn hd, hgrid]
  exact mul_le_mul_of_nonneg_right (by exact_mod_cast roundAt_le hd (hgrid ▸ h)) (two_zpow_pos _).le

/-- A code's number rounds to the code. -/
theorem roundCode_num (hn : 0 < n) (hd : 0 < d) (h : (n : ℚ) / d = f.num c) : f.roundCode m neg n d = c := by
  have hexp : f.roundExp n d = f.unit c + f.bin.fbits := le_antisymm (roundExp_le hn hd h.le) (le_roundExp hn hd h.ge)
  rw [Fmt.roundCode, hexp, Int.add_sub_cancel, roundAt_exact hd h]
  exact codeAt_mant_add f c 0

end CodeRounding

/-! ## Codes of the short formats -/

section ShortCodes

variable {f : Fmt} {m : Rm} {neg : Bool} {n d c : Nat}

/-- The formats that `cvt_short` converts into (R75). -/
def Fmt.isShort (f : Fmt) : Prop := f ∈ [Fmt.kf16, .kf8e4, .kf8e5, .kf4, .kf3]

/-- The magnitude of the largest finite code (Tables 2-5, 2-6, 2-8, 2-9). -/
def Fmt.maxCode (f : Fmt) : Nat := if f = .kf16 then f.top - 1 else f.signBit - 1

/-- The code of a zero: only KF16 has one with a sign (R77). -/
def Fmt.shortZero (f : Fmt) (neg : Bool) : Nat := if f = .kf16 ∧ neg = true then 0x8000 else 0

/-- The magnitude that a number of a short format's range rounds to (R75). -/
def Fmt.shortCode (f : Fmt) (m : Rm) (neg : Bool) (n d : Nat) : Nat :=
  if f = .kf3 then roundLevel m neg n d else f.roundCode m neg n d

/-- The largest finite code has the largest finite value, which is a whole number. -/
theorem value_maxCode : ∀ f : Fmt, f.isShort → ∀ neg, f.value (f.zeroOf neg + f.maxCode) = .fin neg f.maxval 1 := by
  unfold Fmt.isShort
  decide

theorem value_shortZero : ∀ f : Fmt, f.isShort → ∀ neg, ∃ q, f.value (f.shortZero neg) = .zero q := by
  unfold Fmt.isShort
  decide

theorem maxCode_range : ∀ f : Fmt, f.isShort → 0 < f.maxCode ∧ f.maxCode < f.signBit ∧ 0 < f.maxval := by
  unfold Fmt.isShort
  decide

theorem isInt_of_isShort : ∀ {f : Fmt}, f.isShort → f.isInt = false := by
  unfold Fmt.isShort
  decide

theorem num_maxCode (hf : f.isShort) (h3 : f ≠ .kf3) : f.num f.maxCode = f.maxval := by
  have hmax : ∀ f ∈ [Fmt.kf16, .kf8e4, .kf8e5, .kf4],
      f.mant f.maxCode * (pow2 (f.unit f.maxCode)).1 = f.maxval ∧ (pow2 (f.unit f.maxCode)).2 = 1 := by decide
  obtain ⟨hnum, hden⟩ := hmax f (by simpa [Fmt.isShort, h3] using hf)
  rw [← Fmt.num_eq, hnum, hden, Nat.cast_one, div_one]

theorem scaled_ne_zero {k : Nat} (h : k ≠ 0) (e : Int) (q : Bool) : Val.scaled neg k e ≠ .zero q := by
  rw [Val.scaled, if_neg h]
  nofun

/-- A code whose magnitude is not 0 stands for no zero. -/
theorem value_ne_zero (hf : f.isInt = false) (h0 : f.mag c ≠ 0) (q : Bool) : f.value c ≠ .zero q := by
  rw [Fmt.mag] at h0
  simp only [Fmt.value, hf, Bool.false_eq_true, if_false]
  split
  · rw [if_neg h0]
    nofun
  · split_ifs with _ _ _ hexp
    · nofun
    · nofun
    · nofun
    · exact scaled_ne_zero (by rwa [Nat.mod_eq_of_lt ((Nat.div_eq_zero_iff_lt f.bin_pos).mp hexp)]) _ q
    · nofun

/-- No number up to 4 rounds above the code of 4, the last level of KF3 (R67). -/
theorem roundLevel_le (h : n ≤ 4 * d) : roundLevel m neg n d ≤ 3 := by
  rcases Nat.lt_or_eq_of_le h with hlt | heq
  · have hnot : ¬ 4 * d ≤ n := Nat.not_le.mpr hlt
    simp only [roundLevel, if_neg hnot]
    split_ifs <;> decide
  · simp [roundLevel, heq]

theorem roundLevel_four (h : n = 4 * d) : roundLevel m neg n d = 3 := by
  simp [roundLevel, h]

/-- A number in a short format's range rounds into the range (R75). -/
theorem shortCode_le (hf : f.isShort) (hn : 0 < n) (hd : 0 < d) (h : n ≤ f.maxval * d) : f.shortCode m neg n d ≤ f.maxCode := by
  rw [Fmt.shortCode]
  split
  next h3 =>
    subst h3
    exact roundLevel_le h
  next h3 =>
    refine roundCode_le hn hd ?_
    rw [num_maxCode hf h3, div_le_iff₀ (by exact_mod_cast hd)]
    exact_mod_cast h

/-- The largest finite value is exact (R76). -/
theorem shortCode_max (hf : f.isShort) (hd : 0 < d) (h : n = f.maxval * d) : f.shortCode m neg n d = f.maxCode := by
  rw [Fmt.shortCode]
  split
  next h3 =>
    subst h3
    exact roundLevel_four h
  next h3 =>
    have hn : 0 < n := h ▸ Nat.mul_pos (maxCode_range f hf).2.2 hd
    refine roundCode_num hn hd ?_
    rw [num_maxCode hf h3, div_eq_iff (by exact_mod_cast hd.ne')]
    exact_mod_cast h

end ShortCodes

/-! ## `cvt_short` by its outcome -/

section Outcomes

variable {f : Fmt} {m : Rm} {neg : Bool} {n d : Nat}

/-- A finite source by the code it rounds to (R75). -/
theorem toShort_fin (hf : f.isShort) : toShort f m (.fin neg n d) =
    if f.maxval * d < n then (f.zeroOf neg + f.shortCode m neg f.maxval 1, Tally.oneSat)
    else if f.shortCode m neg n d = 0 then (f.shortZero neg, Tally.oneFlush)
    else (f.zeroOf neg + f.shortCode m neg n d, Tally.zero) := by
  simp only [Fmt.isShort, List.mem_cons, List.not_mem_nil, or_false] at hf
  simp only [toShort, Fmt.shortCode, Fmt.shortZero]
  rcases hf with rfl | rfl | rfl | rfl | rfl <;> simp only [reduceCtorEq, if_true, if_false, true_and, false_and] <;> rfl

theorem toShort_zero (hf : f.isShort) : toShort f m (.zero neg) = (f.shortZero neg, Tally.zero) := by
  simp only [Fmt.isShort, List.mem_cons, List.not_mem_nil, or_false] at hf
  rcases hf with rfl | rfl | rfl | rfl | rfl <;> cases neg <;> rfl

/-- Above the range a source saturates under every rounding (R76). -/
theorem toShort_above (hf : f.isShort) (h : f.maxval * d < n) : toShort f m (.fin neg n d) = (f.zeroOf neg + f.maxCode, Tally.oneSat) := by
  rw [toShort_fin hf, if_pos h, shortCode_max hf one_pos (Nat.mul_one _).symm]

/-- The end of the range is exact (R76). -/
theorem toShort_max (hf : f.isShort) (hd : 0 < d) (h : n = f.maxval * d) : toShort f m (.fin neg n d) = (f.zeroOf neg + f.maxCode, Tally.zero) := by
  have hpos := (maxCode_range f hf).1
  rw [toShort_fin hf, if_neg h.not_gt, shortCode_max hf hd h, if_neg hpos.ne']

/-- In the range a source is flushed, or rounds to a finite code that is no zero (R75, R77). -/
theorem toShort_within (hf : f.isShort) (hn : 0 < n) (hd : 0 < d) (h : n ≤ f.maxval * d) :
    toShort f m (.fin neg n d) = (f.shortZero neg, Tally.oneFlush) ∨
      ∃ c, 0 < c ∧ c ≤ f.maxCode ∧ toShort f m (.fin neg n d) = (f.zeroOf neg + c, Tally.zero) := by
  rw [toShort_fin hf, if_neg h.not_gt]
  by_cases h0 : f.shortCode m neg n d = 0
  · exact .inl (if_pos h0)
  · exact .inr ⟨_, Nat.pos_of_ne_zero h0, shortCode_le hf hn hd h, if_neg h0⟩

/-- A finite code that is no zero stands for no zero under either sign. -/
theorem value_signed_ne_zero (hf : f.isShort) {c : Nat} (h0 : 0 < c) (h : c ≤ f.maxCode) (q : Bool) : f.value (f.zeroOf neg + c) ≠ .zero q := by
  have hmag := (signed_code (neg := neg) (h.trans_lt (maxCode_range f hf).2.1)).1
  refine value_ne_zero (isInt_of_isShort hf) ?_ q
  omega

end Outcomes

/-! ## The obligations -/

/-- Settles O56: above the range every source becomes the largest finite code, and a source at its end rounds to that code exactly. -/
theorem shortConversionsSaturate : Obligations.ShortConversionsSaturate := by
  intro f hf m neg n d hd
  have hval := value_maxCode f hf neg
  constructor
  · intro h
    rw [toShort_above hf h]
    exact ⟨rfl, f.maxval, 1, hval, (Nat.mul_one _).symm, one_pos⟩
  · intro h
    rw [toShort_max hf hd h]
    exact ⟨rfl, f.maxval, 1, hval, (Nat.mul_one _).symm, one_pos⟩

/-- Settles O57: a source saturates, is flushed, or keeps a code that is no zero, and only the middle one of these becomes a zero. -/
theorem shortConversionsFlush : Obligations.ShortConversionsFlush := by
  intro f hf m neg n d hd hn
  have hzero : (toShort f m (.zero neg)).2 = Tally.zero ∧ ∃ q, f.value (toShort f m (.zero neg)).1 = .zero q := by
    rw [toShort_zero hf]
    exact ⟨rfl, value_shortZero f hf neg⟩
  have hkept {c : Nat} (h0 : 0 < c) (hc : c ≤ f.maxCode) : ¬ ∃ q, f.value (f.zeroOf neg + c) = .zero q :=
    fun ⟨q, hq⟩ => value_signed_ne_zero hf h0 hc q hq
  rcases Nat.lt_or_ge (f.maxval * d) n with habove | hin
  · rw [toShort_above hf habove]
    exact ⟨fun h => absurd h (hkept (maxCode_range f hf).1 le_rfl), fun _ => ⟨rfl, fun hle => absurd habove hle.not_gt⟩, hzero⟩
  · rcases toShort_within (m := m) (neg := neg) hf hn hd hin with hflush | ⟨c, h0, hc, hcode⟩
    · rw [hflush]
      obtain ⟨q, hq⟩ := value_shortZero f hf neg
      exact ⟨fun _ => ⟨rfl, rfl⟩, fun h => absurd hq (h q), hzero⟩
    · rw [hcode]
      exact ⟨fun h => absurd h (hkept h0 hc), fun _ => ⟨rfl, fun _ => rfl⟩, hzero⟩

end Sys2Proof.Machine

/-! SUPPORT. What a down message leaves alone in any group, and the marks of expired timers (R88; log 79). -/

namespace Sys2Proof.Machine

open Sys2Proof

/-- A value that is put into a partial map is found under its key. -/
theorem Tbl.find_put_same {α : Type} (m : Tbl α) (k : Nat) (v : α) : (m.put k v).find k = some v := by
  induction m with
  | nil => simp [Tbl.put, Tbl.find]
  | cons e m ih =>
    obtain ⟨j, w⟩ := e
    unfold Tbl.put
    split
    · next h => rw [Tbl.find, if_neg (by omega), ih]
    · split
      · exact if_pos rfl
      · exact if_pos rfl

section DownAnyGroup

variable {s : State} {g : Group} {ctx epoch group : Nat} {c : Coll}

/-- The flits of a down message change the links alone. -/
theorem relayDown_eq (l : List TxFlit) : s.relayDown g l = { s with link := (s.relayDown g l).link } :=
  congrArg (fun t : State => { t with link := (s.relayDown g l).link })
    (forEach_inv (s.downPorts g) (fun port t => t.sendFlits 3 port l) (fun t => { t with link := s.link }) (fun _ _ => rfl) s)

/-- `t` differs from `s` at most in the collectives, the bound contexts, Masthead and the links. -/
def OnlyCollsAndLinks (s t : State) : Prop :=
  t = { s with ops := { s.ops with colls := t.ops.colls }, ctxs := t.ctxs, mh := t.mh, link := t.link }

theorem OnlyCollsAndLinks.same (h : OnlyCollsAndLinks s t) : t.mem = s.mem ∧ t.ports = s.ports ∧ t.tt = s.tt := by
  unfold OnlyCollsAndLinks at h
  rw [h]
  exact ⟨rfl, rfl, rfl⟩

/-- The state of an outcome that comes down, before its flits leave. -/
def State.downEnds (s : State) (ctx epoch : Nat) (st : CStatus) : State :=
  (s.modColl ctx epoch (fun c => c.takeDown (.ended st))).recordEpoch ctx epoch st

theorem deliverDown_ended (st : CStatus) : s.deliverDown ctx epoch g group (.ended st) =
    ((s.downEnds ctx epoch st).relayDown g (downFlits (s.coll ctx epoch) group ctx epoch (.ended st))).tidyColls := rfl

/-- An outcome without a result is taken by its collective, and else goes into the record of the epoch and onto the links. -/
theorem deliverDown_ends (st : CStatus) (hc : s.coll ctx epoch = some c) (hm : c.members ≠ []) :
    (s.deliverDown ctx epoch g group (.ended st)).coll ctx epoch = some (c.takeDown (.ended st)) ∧
      OnlyCollsAndLinks s (s.deliverDown ctx epoch g group (.ended st)) := by
  rw [deliverDown_ended, relayDown_eq, State.downEnds, recordEpoch_eq]
  refine ⟨coll_tidyColls ?_ (.inl hm), rfl⟩
  exact coll_modColl_same (s := s) (f := fun c => c.takeDown (.ended st)) (fun _ => ⟨rfl, rfl⟩) hc

theorem recordEpoch_newest {b : Binding} (st : CStatus) (hb : s.binding ctx = some b) :
    ∃ x, (s.recordEpoch ctx epoch st).binding ctx = some x ∧ x.epochs.head? = some (epoch, st) := by
  simp only [State.recordEpoch, hb]
  exact ⟨_, Tbl.find_put_same _ _ _, rfl⟩

/-- The epoch of an outcome that comes down is the newest that the binding records (R264). -/
theorem deliverDown_records {b : Binding} (st : CStatus) (hb : s.binding ctx = some b) :
    ∃ x, (s.deliverDown ctx epoch g group (.ended st)).binding ctx = some x ∧ x.epochs.head? = some (epoch, st) := by
  rw [deliverDown_ended, relayDown_eq]
  exact recordEpoch_newest (s := s.modColl ctx epoch (fun c => c.takeDown (.ended st))) st hb

end DownAnyGroup

/-! ## Marks (R88) -/

section Marks

variable {s : State} {g : Group} {b : Binding} {group : Nat} {c : Coll} {ctx : Fin 4096} {epoch : Fin 65536} {p : Pos}

theorem mark_elsewhere (hr : s.hasRoot g = false) : s.mark ctx epoch group g = s.markUp ctx epoch group g := by
  simp [State.mark, hr]

theorem mark_ended (hr : s.hasRoot g = true) (hc : s.coll ctx epoch = some c) (he : c.ended.isSome = true) :
    s.mark ctx epoch group g = s := by
  simp [State.mark, hr, hc, he]

/-- At the root a mark ends a collective that has not ended. -/
theorem mark_delivers (hr : s.hasRoot g = true) (hc : s.coll ctx epoch = some c) (he : c.ended = none) :
    s.mark ctx epoch group g = s.deliverDown ctx epoch g group (.ended .timeout) := by
  simp [State.mark, hr, hc, he]

theorem mark_ends (hr : s.hasRoot g = true) (hc : s.coll ctx epoch = some c) (he : c.ended = none) (hm : c.members ≠ []) :
    ∃ e, (s.mark ctx epoch group g).coll ctx epoch = some e ∧ e.ended = some .timeout ∧ e.down = some (.ended .timeout) ∧
      e.members = c.members ∧ OnlyCollsAndLinks s (s.mark ctx epoch group g) := by
  obtain ⟨hcoll, honly⟩ := deliverDown_ends (g := g) (group := group) .timeout hc hm
  rw [mark_delivers hr hc he]
  exact ⟨_, hcoll, rfl, rfl, rfl, honly⟩

/-- The row of a mark that stands on this chip. -/
theorem exec_timeoutMark_here (hb : s.binding ctx = some b) (hg : s.group b.group = some g) (hc : s.coll ctx epoch = some c)
    (hm : c.marks.any (·.2) = true) : exec (.timeoutMark ctx epoch) s =
      .next ((s.modColl ctx epoch (fun c => { c with marks := c.marks.map (fun k => (k.1, false)) })).mark ctx epoch b.group g) := by
  simp only [exec_timeoutMark, execTimeoutMark, hb, hg, hc, Option.any_some, hm, if_true]
  rfl

/-- The first of the numbers below `n` that passes a test. -/
theorem find?_range_first {f : Nat → Bool} {n l : Nat} (hl : l < n) (hf : f l = true) (hq : ∀ q, q < l → f q = false) :
    (List.range n).find? f = some l := by
  rw [List.find?_range_eq_some]
  simp_all

/-- The row where no mark stands on this chip and none has been received. -/
theorem exec_timeoutMark_none (hb : s.binding ctx = some b) (hg : s.group b.group = some g)
    (hm : (s.coll ctx epoch).any (fun c => c.marks.any (·.2)) = false) (h : ∀ l, l < 8 → s.flitsOn l 2 (flitOf b.group ctx epoch [5]) = 0) :
    exec (.timeoutMark ctx epoch) s = .next s := by
  have hnone : (List.range 8).find? (fun l => s.flitsOn l 2 (flitOf b.group ctx epoch [5]) != 0) = none :=
    List.find?_eq_none.mpr fun l hl => by simp [h l (List.mem_range.mp hl)]
  simp only [exec_timeoutMark, execTimeoutMark, hb, hg, hm, hnone, Bool.false_eq_true, if_false]
  rfl

/-- The row of a mark that has been received, on the first link that holds one: one flit of it is taken (log 79). -/
theorem exec_timeoutMark_received {l : Nat} (hb : s.binding ctx = some b) (hg : s.group b.group = some g)
    (hm : (s.coll ctx epoch).any (fun c => c.marks.any (·.2)) = false) (hl : l < 8)
    (hne : s.flitsOn l 2 (flitOf b.group ctx epoch [5]) ≠ 0) (hq : ∀ q, q < l → s.flitsOn q 2 (flitOf b.group ctx epoch [5]) = 0) :
    exec (.timeoutMark ctx epoch) s = .next (if b.endedEpoch epoch then s.takeFlits l 2 (flitOf b.group ctx epoch [5]) 1 else
      (s.takeFlits l 2 (flitOf b.group ctx epoch [5]) 1).mark ctx epoch b.group g) := by
  have hfirst : (List.range 8).find? (fun l => s.flitsOn l 2 (flitOf b.group ctx epoch [5]) != 0) = some l :=
    find?_range_first hl (by simpa using hne) (fun q h => by simpa using hq q h)
  simp only [exec_timeoutMark, execTimeoutMark, hb, hg, hm, hfirst, Bool.false_eq_true, if_false]
  rfl

/-- An expired timer of a member leaves its mark once, and none where the member is done. -/
theorem exec_collectiveTimeout_eq (hc : s.coll ctx epoch = some c) : exec (.collectiveTimeout ctx epoch p) s = .next
    (if c.members.any (fun m => m.pos == p.val && m.stage != .done) && !c.marks.any (fun k => k.1 == p.val) then
      s.modColl ctx epoch (fun c => { c with marks := c.marks ++ [(p.val, true)] }) else s) := by
  simp only [exec_collectiveTimeout, execCollectiveTimeout, hc, apply_ite Host.Outcome.next]
  rfl

end Marks

/-- Settles O23: the timer's row leaves its mark, and the mark's row by where the mark comes from and where the root is. -/
theorem timeoutsEndCollectives : Obligations.TimeoutsEndCollectives := by
  unfold Obligations.TimeoutsEndCollectives
  intro s ctx epoch p
  refine ⟨fun c hc => ?_, fun hc => ?_, fun hb => ?_, fun b g hb hg => ⟨fun c hc hm => ?_, fun hm => ?_⟩⟩
  · rw [exec_collectiveTimeout_eq hc]
    refine ⟨fun h h' => by simp [h, h'], ?_⟩
    rintro (h | h) <;> simp [h]
  · simp only [exec_collectiveTimeout, execCollectiveTimeout, hc]; rfl
  · simp only [exec_timeoutMark, execTimeoutMark, hb]; rfl
  · intro s1
    have hc1 : s1.coll ctx epoch = some { c with marks := c.marks.map (fun k => (k.1, false)) } := coll_modColl_same (fun _ => ⟨rfl, rfl⟩) hc
    rw [exec_timeoutMark_here hb hg hc hm]
    refine ⟨fun hr he => ?_, fun hr he hmem => ?_, fun hr => ?_⟩
    · rw [mark_ended (s := s1) hr hc1 he]
    · obtain ⟨e, hcoll, hend, hdown, hsame, honly⟩ := mark_ends (s := s1) (group := b.group) hr hc1 he hmem
      have hrecord : ∃ x, (s1.mark ctx epoch b.group g).binding ctx = some x ∧ x.epochs.head? = some (epoch.val, .timeout) := by
        rw [mark_delivers (s := s1) hr hc1 he]
        exact deliverDown_records .timeout hb
      exact ⟨_, e, rfl, hcoll, hend, hdown, hsame, hrecord, honly.same⟩
    · rw [mark_elsewhere (s := s1) hr]
  · intro mine
    refine ⟨exec_timeoutMark_none hb hg hm, fun l hl hne hq => ?_⟩
    intro s1
    have hexec : exec (.timeoutMark ctx epoch) s = .next (if b.endedEpoch epoch then s1 else s1.mark ctx epoch b.group g) :=
      exec_timeoutMark_received hb hg hm hl hne hq
    refine ⟨fun he => by rw [hexec, if_pos he], fun he hr => ?_, fun c he hr hc hend hmem => ?_⟩
    · rw [hexec, if_neg (ne_true_of_eq_false he), mark_elsewhere (s := s1) hr]
    · rw [hexec, if_neg (ne_true_of_eq_false he)]
      obtain ⟨e, hcoll, hend, hdown, hsame, honly⟩ := mark_ends (s := s1) (group := b.group) hr hc hend hmem
      exact ⟨_, e, rfl, hcoll, hend, hdown, hsame, honly.same⟩

end Sys2Proof.Machine

/-! SUPPORT. What a poisoned read ends, and its fault record (R256, R427, R429; logs 28, 85 and 130). -/

namespace Sys2Proof.Machine

open Sys2Proof

section PoisonRecord

variable (s : State) (ps : Tbl Port)

/-- A state with other ports. -/
def State.withPorts (s : State) (ps : Tbl Port) : State := { s with ports := ps }

theorem event_withPorts (code : Nat) (l : List Byte) : (s.withPorts ps).event code l = (s.event code l).withPorts ps := by
  unfold State.event
  rw [apply_ite (State.withPorts · ps)]
  rfl

theorem endLong_withPorts (a b : Nat) (l : List Byte) : (s.withPorts ps).endLong a b l = (s.endLong a b l).withPorts ps := by
  unfold State.endLong
  change (match s.mh.long with | none => _ | some l => _) = _
  cases s.mh.long <;> rfl

theorem wake_withPorts : (s.withPorts ps).wake = s.wake.withPorts ps := by
  unfold State.wake
  rw [endLong_withPorts, apply_ite (State.withPorts · ps), apply_ite (State.withPorts · ps), apply_ite (State.withPorts · ps)]
  rfl

/-- The fault record of a poisoned read says nothing of the ports (code 0x3A). -/
theorem postPoison_withPorts : (s.withPorts ps).postPoison = s.postPoison.withPorts ps := by
  let t : State := { s with free := s.free + 1 }
  have h := event_withPorts t.wake ps
  rw [← wake_withPorts] at h
  exact h _ _

/-- What a poisoned read's record leaves alone. -/
theorem postPoison_same : s.postPoison.ops = s.ops ∧ s.postPoison.ports = s.ports ∧ s.postPoison.mem = s.mem ∧ s.postPoison.tt = s.tt ∧
    s.postPoison.led = s.led ∧ s.postPoison.ctxs = s.ctxs := by
  simp [State.postPoison]

end PoisonRecord

/-! ## The reads of an operation, a descriptor or a command (R427) -/

section PoisonedReads

variable {s : State} {p : Pos}

theorem exec_poisonedRead_collective {ctx epoch : Nat} {c : Coll} (hc : s.coll ctx epoch = some c)
    (hm : c.members.any (fun m => m.pos == p.val && m.stage == .sending) = true) : exec (.poisonedRead (.collective ctx epoch p)) s =
      .next ((s.modColl ctx epoch (fun c => { c with members := c.members.map (markFault p) })).postPoison) := by
  simp only [exec_poisonedRead, execPoisonedRead, hc, hm, if_true]
  rfl

theorem exec_poisonedRead_combine {id token : Nat} {o : CombOp} (ho : s.comb id = some o)
    (hl : o.lanes.any (fun l => l.1 == token && (match l.2 with | .reading _ => true | .writing _ => false)) = true) :
    exec (.poisonedRead (.combine id token)) s =
      .next (((s.modComb id (fun o => { o with lanes := o.lanes.filter (fun l => l.1 ≠ token) })).stopCombs
        (fun o => o.id == id) (some .fault)).postPoison) := by
  simp only [exec_poisonedRead, execPoisonedRead, ho]
  exact if_pos hl

theorem exec_poisonedRead_hoist {id : Nat} {x : Send} (hx : s.ops.sends.find? (fun x => x.id == id) = some x)
    (hf : x.targets.all (fun t => t.st == .flying) = true) : exec (.poisonedRead (.hoist id)) s = .next (s.poisonSend x).postPoison := by
  simp only [exec_poisonedRead, execPoisonedRead, hx, hf, if_true]
  rfl

/-- A poisoned target list ends the `MCAST` that the port may read; any other slot has none. -/
theorem exec_poisonedRead_targetList (p : Pos) (s : State) : exec (.poisonedRead (.targetList p)) s = .next
    (if s.mayRead p ∧ dOpcode (s.slotDesc p) = 0x31 ∧ tmapRange (s.slotDesc p) ≠ [] ∧ s.heldByCut (s.slotDesc p) = false then
      ((s.modPort p Port.readSlot).pushDone p (doneOf (s.slotDesc p) .fault Tally.zero 0 0 true none)).postPoison else s) := by
  simp only [exec_poisonedRead, execPoisonedRead, State.poisonTargets, List.isEmpty_eq_false_iff]
  rfl

/-- A poisoned saddlebag entry ends the operation whose oldest ready token reads it. -/
theorem exec_poisonedRead_entry {id token k : Nat} {o : CombOp} (ho : s.comb id = some o) (hr : o.ready.head? = some token)
    (hs : s.stopped = false) (hd : (s.tagSlot o.slot).routeDone = true)
    (hk : s.sbIndex ((s.tagSlot o.slot).place (token - o.tokBase)).1 ((s.tagSlot o.slot).place (token - o.tokBase)).2 = some k)
    (hheld : k ∈ s.led.sbHeld) :
    exec (.poisonedRead (.entry id token)) s = .next ((s.stopCombs (fun y => y.id == id) (some .fault)).postPoison) := by
  simp only [exec_poisonedRead, execPoisonedRead, State.poisonEntry, ho]
  exact congrArg Host.Outcome.next (if_pos ⟨hr, hs, by simp [hd, hk, hheld]⟩)

theorem exec_poisonedRead_commandData {n : SlotNo} {f : Nat} (hf : (s.slotCmd n).dataField = some f) :
    exec (.poisonedRead (.commandData n)) s = .next
      (if s.takes n ∧ firstDeny (s.commonChecks (s.slotCmd n) (if (s.slotCmd n).code = 0x21 then 24 else 16)) = none then
        ((s.take n).postPoison).deny (s.slotCmd n) { status := rsEinval, field := f, data := [] } else s) := by
  simp only [exec_poisonedRead, execPoisonedRead, State.poisonData, hf]
  rfl

end PoisonedReads

/-- The completion of a descriptor that could not be read (R256). -/
def poisonedDone : Done :=
  { opcode := 0, ctx := 0, ctag := 0, status := .fault, tally := Tally.zero, opval := 0, hlen := 0, csig := none, coll := none }

theorem exec_descriptorReadPoisoned_reads {s : State} {p : Pos} (h : s.mayRead p = true) : exec (.descriptorReadPoisoned p) s =
    .next (((s.modPort p (fun x => { x.readSlot with err := x.err ||| 0x20#7 })).pushDone p poisonedDone).postPoison) := by
  simp only [exec_descriptorReadPoisoned, execDescriptorReadPoisoned, h, Bool.true_eq_false, if_false]
  rfl

/-- Settles O48: each read by what it ends, and a descriptor's read by its completion; the record of the fault changes none of that. -/
theorem poisonEndsItsOperation : Obligations.PoisonEndsItsOperation := by
  unfold Obligations.PoisonEndsItsOperation
  refine ⟨fun s ctx epoch id p token n => ⟨?_, ?_, ?_, ?_, ?_, ?_, ?_, ?_, ?_, ?_, ?_, ?_⟩, fun s p hs hr => ?_⟩
  · intro c hc hm
    exact ⟨_, exec_poisonedRead_collective hc hm, postPoison_same _⟩
  · intro hc
    simp only [exec_poisonedRead, execPoisonedRead, hc]; rfl
  · exact fun o ho hl => exec_poisonedRead_combine ho hl
  · exact fun x hx hf => exec_poisonedRead_hoist hx hf
  · intro ho
    simp only [exec_poisonedRead, execPoisonedRead, ho]; rfl
  · intro hx
    have hnone : s.ops.sends.find? (fun x => x.id == id) = none := List.find?_eq_none.mpr fun x hm => by simpa using hx x hm
    simp only [exec_poisonedRead, execPoisonedRead, hnone]; rfl
  · intro hr ho ht hh
    rw [exec_poisonedRead_targetList, if_pos ⟨hr, ho, ht, hh⟩]
  · intro h
    rw [exec_poisonedRead_targetList, if_neg]
    rintro ⟨hr, ho, ht, -⟩
    rcases h with h | h | h
    · exact absurd hr (by simp [h])
    · exact h ho
    · exact ht h
  · exact fun o k ho hr hs hd hk hheld => exec_poisonedRead_entry ho hr hs hd hk hheld
  · intro ho
    simp only [exec_poisonedRead, execPoisonedRead, State.poisonEntry, ho]; rfl
  · intro f hf ht hd
    rw [exec_poisonedRead_commandData hf, if_pos ⟨ht, hd⟩]
  · intro h
    cases hf : (s.slotCmd n).dataField with
    | none => simp only [exec_poisonedRead, execPoisonedRead, State.poisonData, hf]; rfl
    | some f =>
      rw [exec_poisonedRead_commandData hf, if_neg]
      rintro ⟨ht, -⟩
      rcases h with h | h
      · simp [hf] at h
      · simp [ht] at h
  · let t := (s.modPort p (fun x => { x.readSlot with err := x.err ||| 0x20#7 })).pushDone p poisonedDone
    have hpost : t.postPoison = s.postPoison.withPorts t.ports := postPoison_withPorts s t.ports
    obtain ⟨hops, hports, hmem, htt, hled, hctxs⟩ := postPoison_same t
    refine ⟨t.postPoison, poisonedDone, exec_descriptorReadPoisoned_reads hr, ?_, rfl, rfl, rfl, rfl, rfl, rfl, ?_, ?_, hmem, hops, htt, hled, hctxs, ?_⟩
    · rw [port_congr hports, port_pushDone_same (modPort_sound hs), port_modPort_same hs]; rfl
    · rw [hpost]; rfl
    · intro q hq
      rw [port_congr hports, port_pushDone_other hq, port_modPort_other hq]
    · simp [State.postPoison, t, State.pushDone]

end Sys2Proof.Machine

/-! SUPPORT. The selection of R183: a strict order of the experts, and the first of some candidates in it. -/

namespace Sys2Proof.Machine

open Sys2Proof

section Selection

variable {xs : List Nat} {t : Nat} {rot : Bool} {l : List Nat} {a b c : Nat}

/-- What `ranks_before` compares first: the score, with both zeros equal. -/
def scoreKey (xs : List Nat) (a : Nat) : Int :=
  match Fmt.f32.value (nth 0 xs a) with
  | .zero _ => 0
  | _ => Fmt.f32.rank (nth 0 xs a)

/-- What it compares among equal scores: the expert's number, or its distance above the token's own under `ROTATE`. -/
def tieKey (xs : List Nat) (t : Nat) (rot : Bool) (a : Nat) : Int := if rot then ((a : Int) - t) % xs.length else a

theorem scoreKey_eq (xs : List Nat) (a : Nat) :
    (if (match Fmt.f32.value (nth 0 xs a) with | .zero _ => true | _ => false) = true then 0 else Fmt.f32.rank (nth 0 xs a)) = scoreKey xs a := by
  unfold scoreKey
  cases Fmt.f32.value (nth 0 xs a) <;> rfl

theorem ranksBefore_eq : ranksBefore xs a b t xs.length rot = if scoreKey xs b < scoreKey xs a then true
    else if scoreKey xs a < scoreKey xs b then false else decide (tieKey xs t rot a < tieKey xs t rot b) := by
  rw [← scoreKey_eq, ← scoreKey_eq]
  cases rot
  · simp only [tieKey, Bool.false_eq_true, if_false, Nat.cast_lt]
    rfl
  · rfl

theorem ranksBefore_iff : ranksBefore xs a b t xs.length rot = true ↔
    scoreKey xs b < scoreKey xs a ∨ scoreKey xs b = scoreKey xs a ∧ tieKey xs t rot a < tieKey xs t rot b := by
  rw [ranksBefore_eq]
  split
  · simp [*]
  · split
    · simp; omega
    · simp; omega

/-- Experts of one token differ in what breaks a tie. -/
theorem tieKey_injective (ha : a < xs.length) (hb : b < xs.length) (h : tieKey xs t rot a = tieKey xs t rot b) : a = b := by
  cases rot
  · simpa [tieKey] using h
  · have hmod : (a : Int) - t ≡ b - t [ZMOD xs.length] := h
    have hab : (a : Int) ≡ b [ZMOD xs.length] := by simpa using hmod.add_right t
    rw [Int.natCast_modEq_iff] at hab
    exact hab.eq_of_lt_of_lt ha hb

theorem ranksBefore_trans (h : ranksBefore xs a b t xs.length rot = true) (h' : ranksBefore xs b c t xs.length rot = true) :
    ranksBefore xs a c t xs.length rot = true := by
  rw [ranksBefore_iff] at *
  omega

/-- Of two experts one ranks before the other. -/
theorem ranksBefore_total (ha : a < xs.length) (hb : b < xs.length) (hne : a ≠ b) (h : ranksBefore xs a b t xs.length rot = false) :
    ranksBefore xs b a t xs.length rot = true := by
  have htie : tieKey xs t rot a ≠ tieKey xs t rot b := fun h => hne (tieKey_injective ha hb h)
  rw [← Bool.not_eq_true, ranksBefore_iff] at h
  rw [ranksBefore_iff]
  omega

/-- An expert of a list that ranks before every other of it. -/
def FirstOf (xs : List Nat) (t : Nat) (rot : Bool) (l : List Nat) (e : Nat) : Prop :=
  e ∈ l ∧ ∀ b ∈ l, b ≠ e → ranksBefore xs e b t xs.length rot = true

/-- The better of the best so far and the next candidate. -/
def better (xs : List Nat) (t : Nat) (rot : Bool) (b c : Nat) : Nat := if ranksBefore xs c b t xs.length rot then c else b

theorem bestOf_cons (a : Nat) (l : List Nat) : bestOf xs t xs.length rot (a :: l) = some (l.foldl (better xs t rot) a) := by
  unfold bestOf
  rw [List.foldl_cons]
  induction l generalizing a with
  | nil => rfl
  | cons c l ih =>
    rw [List.foldl_cons, List.foldl_cons, ← ih]
    simp only [better, apply_ite some]

theorem better_first (ha : a < xs.length) (hc : c < xs.length) : FirstOf xs t rot [a, c] (better xs t rot a c) := by
  unfold FirstOf better
  split
  next h => simp [h]
  next h =>
    have := ranksBefore_total (t := t) (rot := rot) hc ha
    simp_all

/-- The first of one list, followed by a second list: what is first there is first of both. -/
theorem FirstOf.append {l' : List Nat} {d e : Nat} (h : FirstOf xs t rot l d) (h' : FirstOf xs t rot (d :: l') e) :
    FirstOf xs t rot (l ++ l') e := by
  obtain ⟨hd, hbefore⟩ := h
  obtain ⟨he, hbefore'⟩ := h'
  refine ⟨?_, fun b hb hne => ?_⟩
  · rcases List.mem_cons.mp he with rfl | he
    · exact List.mem_append_left _ hd
    · exact List.mem_append_right _ he
  · rcases List.mem_append.mp hb with hb | hb
    · by_cases hbd : b = d
      · exact hbefore' b (hbd ▸ List.mem_cons_self ..) hne
      · by_cases hed : e = d
        · exact hed ▸ hbefore b hb hbd
        · exact ranksBefore_trans (hbefore' d (List.mem_cons_self ..) (Ne.symm hed)) (hbefore b hb hbd)
    · exact hbefore' b (List.mem_cons_of_mem _ hb) hne

theorem foldl_better_first (hl : ∀ x ∈ l, x < xs.length) (ha : a < xs.length) : FirstOf xs t rot (a :: l) (l.foldl (better xs t rot) a) := by
  induction l generalizing a with
  | nil => exact ⟨List.mem_cons_self .., by simp⟩
  | cons c l ih =>
    obtain ⟨hc, hl⟩ := List.forall_mem_cons.mp hl
    have hd : better xs t rot a c < xs.length := by
      unfold better
      split
      · exact hc
      · exact ha
    exact (better_first ha hc).append (ih hl hd)

/-- A selection among some candidates: one that ranks before every other, and none only where there is no candidate. -/
def Selects (xs : List Nat) (t : Nat) (rot : Bool) (cand : Nat → Prop) : Option Nat → Prop
  | some e => cand e ∧ ∀ b, cand b → b ≠ e → ranksBefore xs e b t xs.length rot = true
  | none => ∀ b, ¬ cand b

theorem bestOf_selects (hl : ∀ x ∈ l, x < xs.length) : Selects xs t rot (· ∈ l) (bestOf xs t xs.length rot l) := by
  cases l with
  | nil => exact fun _ => List.not_mem_nil
  | cons a l =>
    rw [bestOf_cons]
    exact foldl_better_first (fun x hx => hl x (List.mem_cons_of_mem _ hx)) (hl a (List.mem_cons_self ..))

/-- The candidates of R183: the experts whose score is not a NaN. -/
def candidates (xs : List Nat) : List Nat := (List.range xs.length).filter (fun i => !Fmt.f32.isNan (nth 0 xs i))

theorem mem_candidates : a ∈ candidates xs ↔ a < xs.length ∧ Fmt.f32.isNan (nth 0 xs a) = false := by
  simp [candidates]

/-- Side 0 is selected among all candidates. -/
theorem selectExperts_one (xs : List Nat) (t : Nat) (rot : Bool) : ∃ o, selectExperts xs t 1 rot = [o] ∧
    Selects xs t rot (fun e => e < xs.length ∧ Fmt.f32.isNan (nth 0 xs e) = false) o := by
  refine ⟨bestOf xs t xs.length rot (candidates xs), rfl, ?_⟩
  simp only [← mem_candidates]
  exact bestOf_selects fun x hx => (mem_candidates.mp hx).1

theorem selectExperts_pair (xs : List Nat) (t : Nat) (rot : Bool) :
    let best := bestOf xs t xs.length rot
    selectExperts xs t 2 rot = [best (candidates xs), (best (candidates xs)).bind (fun f => best ((candidates xs).filter (fun i => i ≠ f)))] := by
  intro best
  have hpair : selectExperts xs t 2 rot = [best (candidates xs), match best (candidates xs) with
    | none => none
    | some f => best ((candidates xs).filter (fun i => i ≠ f))] := rfl
  rw [hpair]
  cases best (candidates xs) <;> rfl

/-- Side 0 is selected among all candidates, and side 1 among those but side 0. -/
theorem selectExperts_two (xs : List Nat) (t : Nat) (rot : Bool) : ∃ o p, selectExperts xs t 2 rot = [o, p] ∧
    Selects xs t rot (fun e => e < xs.length ∧ Fmt.f32.isNan (nth 0 xs e) = false) o ∧
    Selects xs t rot (fun e => (e < xs.length ∧ Fmt.f32.isNan (nth 0 xs e) = false) ∧ o ≠ some e ∧ o ≠ none) p := by
  simp only [← mem_candidates]
  refine ⟨_, _, selectExperts_pair xs t rot, bestOf_selects fun x hx => (mem_candidates.mp hx).1, ?_⟩
  cases bestOf xs t xs.length rot (candidates xs) with
  | none => exact fun b ⟨_, _, hne⟩ => hne rfl
  | some f =>
    have hmem (e : Nat) : e ∈ candidates xs ∧ some f ≠ some e ∧ some f ≠ none ↔ e ∈ (candidates xs).filter (fun i => i ≠ f) := by
      simp [@eq_comm _ e]
    simp only [hmem]
    exact bestOf_selects fun x hx => (mem_candidates.mp (List.mem_of_mem_filter hx)).1

end Selection

end Sys2Proof.Machine

/-! SUPPORT. `exp_k` at its thresholds, and the merge of softmax pairs (R111 to R113, R115). -/

namespace Sys2Proof.Machine

open Sys2Proof

/-! ## `exp_k` (R113) -/

section Exponential

variable {x : Nat}

/-- The order of `exp_k`'s tests, for an argument that is not a NaN. -/
theorem expK_eq (h : Fmt.f32.isNan x = false) : expK x =
    if x = 0x7F800000 then (x, Tally.zero)
    else if x = 0xFF800000 then (0, Tally.zero)
    else if 0x42B20000 ≤ x ∧ x < 0x80000000 then (0x7F800000, { Tally.zero with of := true, nx := true })
    else if 0xC2D00000 ≤ x then (0, { Tally.zero with uf := true, nx := true })
    else expCore x := by
  simp only [expK, nanOf, List.find?_cons, h, List.find?_nil]
  rfl

theorem f32_top : Fmt.f32.top = 0x7F800000 := rfl

theorem f32_mag (c : Nat) : Fmt.f32.mag c = c % 0x80000000 := rfl

/-- From its upper threshold on, `exp_k` of a number overflows. -/
theorem expK_overflows (hlo : 0x42B20000 ≤ x) (hhi : x < 0x7F800000) :
    expK x = (0x7F800000, { Tally.zero with of := true, nx := true }) := by
  have hn : Fmt.f32.isNan x = false := (Fmt.isNan_eq_false f32_wide x).mpr (by rw [f32_top, f32_mag]; omega)
  rw [expK_eq hn, if_neg (by omega), if_neg (by omega), if_pos (by omega)]

/-- From its lower threshold down, it underflows to zero. -/
theorem expK_underflows (hlo : 0xC2D00000 ≤ x) (hhi : x < 0xFF800000) :
    expK x = (0, { Tally.zero with uf := true, nx := true }) := by
  have hn : Fmt.f32.isNan x = false := (Fmt.isNan_eq_false f32_wide x).mpr (by rw [f32_top, f32_mag]; omega)
  rw [expK_eq hn, if_neg (by omega), if_neg (by omega), if_neg (by omega), if_pos (by omega)]

/-- `exp_k` of a zero is 1.0. -/
theorem expK_zero : expK 0 = (0x3F800000, Tally.zero) := by decide +kernel

theorem expK_negZero : expK 0x80000000 = (0x3F800000, Tally.zero) := by decide +kernel

theorem expK_inf : expK 0x7F800000 = (0x7F800000, Tally.zero) := by decide +kernel

theorem expK_negInf : expK 0xFF800000 = (0, Tally.zero) := by decide +kernel

end Exponential

/-! ## Steps with one operand of a kind -/

section Steps

variable {a b : Nat}

/-- The code of a sign's infinity. -/
theorem code_of_inf (ha : a < 2 ^ 32) (hi : Fmt.f32.isInf a = true) : Fmt.f32.infinity (Fmt.f32.isNeg a) = a :=
  calc Fmt.f32.infinity (Fmt.f32.isNeg a) = Fmt.f32.zeroOf (Fmt.f32.isNeg a) + Fmt.f32.top := rfl
    _ = Fmt.f32.zeroOf (Fmt.f32.isNeg a) + Fmt.f32.mag a := by rw [(Fmt.isInf_iff f32_wide a).mp hi]
    _ = a := (Fmt.code_eq f32_wide a ha).symm

/-- The code of a sign's zero. -/
theorem code_of_zero (ha : a < 2 ^ 32) (h0 : Fmt.f32.mag a = 0) : Fmt.f32.zeroOf (Fmt.f32.isNeg a) = a := by
  have h := Fmt.code_eq f32_wide a ha
  rw [h0] at h
  exact h.symm

/-- A code that is not a NaN is the conversion of its own value. -/
theorem toIeee_value (ha : a < 2 ^ 32) (hn : Fmt.f32.isNan a = false) : toIeee .f32 .rne (Fmt.f32.value a) = (a, Tally.zero) := by
  cases hi : Fmt.f32.isInf a with
  | true =>
    rw [Fmt.value_inf f32_wide a ((Fmt.isInf_iff f32_wide a).mp hi)]
    exact congrArg (·, Tally.zero) (code_of_inf ha hi)
  | false =>
    rcases value_finite f32_wide hn hi with ⟨hv, h0⟩ | ⟨n, d, hv, hpos, hd, hnum, -⟩
    · rw [hv]
      exact congrArg (·, Tally.zero) (code_of_zero ha h0)
    · rw [hv]
      exact roundIeee_exact f32_wide a ha (Fmt.mag_lt_top f32_wide a hn hi) hpos hd hnum

/-- A product with 1.0 is exact. -/
theorem mul32_one (ha : a < 2 ^ 32) (hn : Fmt.f32.isNan a = false) : mul32 a 0x3F800000 = (a, Tally.zero) := by
  have hone : Fmt.f32.value 0x3F800000 = .fin false (2 ^ 23) (2 ^ 23) := by decide +kernel
  have hnone : Fmt.f32.isNan 0x3F800000 = false := by decide +kernel
  have hpos : Fmt.f32.isNeg 0x3F800000 = false := by decide +kernel
  simp only [mul32, ieeeMul, nanOf_none hn hnone, hone, hpos, Bool.xor_false]
  cases hi : Fmt.f32.isInf a with
  | true =>
    rw [Fmt.value_inf f32_wide a ((Fmt.isInf_iff f32_wide a).mp hi)]
    exact congrArg (·, Tally.zero) (code_of_inf ha hi)
  | false =>
    rcases value_finite f32_wide hn hi with ⟨hv, h0⟩ | ⟨n, d, hv, hpos, hd, hnum, -⟩
    · rw [hv]
      exact congrArg (·, Tally.zero) (code_of_zero ha h0)
    · rw [hv]
      refine roundIeee_exact f32_wide a ha (Fmt.mag_lt_top f32_wide a hn hi) (by omega) (by omega) ?_
      rw [← hnum, Nat.cast_mul, Nat.cast_mul, mul_div_mul_right _ _ (by norm_num)]

/-- A product of a number with +0 is a zero. -/
theorem mul32_zero (hn : Fmt.f32.isNan a = false) (hi : Fmt.f32.isInf a = false) : Fmt.f32.mag (mul32 a 0).1 = 0 := by
  have hzero : Fmt.f32.value 0 = .zero false := by decide +kernel
  have hnzero : Fmt.f32.isNan 0 = false := by decide +kernel
  have hmag (s : Bool) : Fmt.f32.mag (Fmt.f32.zeroOf s) = 0 := by cases s <;> rfl
  simp only [mul32, ieeeMul, nanOf_none hn hnzero, hzero]
  rcases value_finite f32_wide hn hi with ⟨hv, -⟩ | ⟨n, d, hv, -⟩
  · rw [hv]; exact hmag _
  · rw [hv]; exact hmag _

/-- The negative of a number has its magnitude. -/
theorem mag_neg (ha : a < 2 ^ 32) (hn : Fmt.f32.isNan a = false) : Fmt.f32.mag (ieeeNeg .f32 a) = Fmt.f32.mag a := by
  have hsign : Fmt.f32.signBit = 0x80000000 := rfl
  rw [ieeeNeg, hn, f32_mag, f32_mag, Fmt.isNeg, hsign]
  simp only [Bool.false_eq_true, if_false, decide_eq_true_eq]
  split <;> omega

theorem isNan_neg (ha : a < 2 ^ 32) (hn : Fmt.f32.isNan a = false) : Fmt.f32.isNan (ieeeNeg .f32 a) = false := by
  rw [Fmt.isNan_eq_false f32_wide, mag_neg ha hn]
  exact (Fmt.isNan_eq_false f32_wide a).mp hn

theorem isInf_neg (ha : a < 2 ^ 32) (hn : Fmt.f32.isNan a = false) (hi : Fmt.f32.isInf a = false) :
    Fmt.f32.isInf (ieeeNeg .f32 a) = false := by
  rw [← Bool.not_eq_true, Fmt.isInf_iff f32_wide, mag_neg ha hn, ← Fmt.isInf_iff f32_wide, hi]
  exact Bool.false_ne_true

/-- Adding a zero to a code of another value is exact. -/
theorem add32_zero (ha : a < 2 ^ 32) (hn : Fmt.f32.isNan a = false) (h0 : a % 2 ^ 31 ≠ 0) (hb : Fmt.f32.mag b = 0) :
    add32 a b = (a, Tally.zero) := by
  have htop := Fmt.top_pos f32_wide
  cases hi : Fmt.f32.isInf a with
  | true =>
    have hnb : Fmt.f32.isNan b = false := (Fmt.isNan_eq_false f32_wide b).mpr (by omega)
    have hib : Fmt.f32.isInf b = false := by
      rw [← Bool.not_eq_true, Fmt.isInf_iff f32_wide]
      omega
    exact ieeeAdd_inf_left f32_wide hi hib hn hnb
  | false => exact ieeeAdd_zero f32_wide hi hn ha h0 hb

/-- A number and its negative add to +0. -/
theorem add32_cancel (ha : a < 2 ^ 32) (hn : Fmt.f32.isNan a = false) (hi : Fmt.f32.isInf a = false) :
    add32 a (ieeeNeg .f32 a) = (0, Tally.zero) :=
  ieeeAdd_cancel f32_wide hi hn (isNan_neg ha hn) ha rfl

/-- Joining nothing to a tally without counts keeps it. -/
theorem Tally.zero_join {t : Tally} (h : t.flagsOnly = t) : Tally.zero.join t = t := by
  rw [← h]
  simp [Tally.join, Tally.zero, Tally.flagsOnly, sat32]

theorem roundIeee_flagsOnly (f : Fmt) (m : Rm) (neg : Bool) (n d : Nat) : (roundIeee f m neg n d).2.flagsOnly = (roundIeee f m neg n d).2 := by
  unfold roundIeee
  extract_lets p emin l e r sign mag top
  split <;> rfl

/-- The sum of two finite values, by its fraction, counts no element. -/
theorem fracSum_flagsOnly (f : Fmt) (m : Rm) (c : Nat) (n : Int) (d : Nat) :
    (if n = 0 then (c, Tally.zero) else roundFrac f m n d).2.flagsOnly = (if n = 0 then (c, Tally.zero) else roundFrac f m n d).2 := by
  split
  next => rfl
  next h =>
    rw [roundFrac, if_neg h]
    exact roundIeee_flagsOnly ..

/-- A sum of two operands that are not NaNs counts no element. -/
theorem add32_flagsOnly (hna : Fmt.f32.isNan a = false) (hnb : Fmt.f32.isNan b = false) :
    (add32 a b).2.flagsOnly = (add32 a b).2 := by
  unfold add32
  cases hia : Fmt.f32.isInf a with
  | true =>
    cases hib : Fmt.f32.isInf b with
    | true =>
      rw [ieeeAdd_inf_inf f32_wide hia hib hna hnb]
      split <;> rfl
    | false =>
      rw [ieeeAdd_inf_left f32_wide hia hib hna hnb]
      rfl
  | false =>
    cases hib : Fmt.f32.isInf b with
    | true =>
      rw [ieeeAdd_inf_right f32_wide hia hib hna hnb]
      rfl
    | false =>
      rcases value_finite f32_wide hna hia with ⟨hva, -⟩ | ⟨n, d, hva, -⟩ <;>
        rcases value_finite f32_wide hnb hib with ⟨hvb, -⟩ | ⟨n', d', hvb, -⟩ <;>
        simp only [ieeeAdd, nanOf_none hna hnb, hva, hvb, fracSum_flagsOnly]
      rfl

end Steps

/-! ## The merge of softmax pairs (R112) -/

section Merge

variable {m m' s s' : Nat}

/-- A NaN takes both places of the pair, the left one first. -/
theorem lsemOp_nan (h : Fmt.f32.isNan m = true ∨ Fmt.f32.isNan m' = true) :
    let q := Fmt.f32.quiet (if Fmt.f32.isNan m then m else m')
    (lsemOp (m, s) (m', s')).1 = (q, q) := by
  cases hm : Fmt.f32.isNan m with
  | true => simp [lsemOp, nanOf, hm]
  | false =>
    have hm' := h.resolve_left (by simp [hm])
    simp [lsemOp, nanOf, hm, hm']

/-- The greater maximum is an infinity: the pair that has it stands, and two that have it add their sums. -/
theorem lsemOp_inf (hn : Fmt.f32.isNan m = false) (hn' : Fmt.f32.isNan m' = false) (hg : Fmt.f32.isInf (Fmt.f32.greater m m') = true) :
    (lsemOp (m, s) (m', s')).1 = if m = Fmt.f32.greater m m' ∧ m' = Fmt.f32.greater m m' then (Fmt.f32.greater m m', (add32 s s').1)
      else if m = Fmt.f32.greater m m' then (m, s) else (m', s') := by
  simp only [lsemOp, hn, hn', hg, Bool.or_self, Bool.false_eq_true, if_false, if_true]
  split
  · rfl
  · split <;> rfl

/-- The greater maximum is a number: both sums are scaled by `exp_k` of their distance to it. -/
theorem lsemOp_finite (hn : Fmt.f32.isNan m = false) (hn' : Fmt.f32.isNan m' = false) (hg : Fmt.f32.isInf (Fmt.f32.greater m m') = false) :
    lsemOp (m, s) (m', s') =
      let g := Fmt.f32.greater m m'
      let da := add32 m (ieeeNeg .f32 g)
      let db := add32 m' (ieeeNeg .f32 g)
      let ta := mul32 s (expK da.1).1
      let tb := mul32 s' (expK db.1).1
      ((g, (add32 ta.1 tb.1).1), Tally.joinAll [da.2, db.2, (expK da.1).2, (expK db.1).2, ta.2, tb.2, (add32 ta.1 tb.1).2]) := by
  simp only [lsemOp, hn, hn', hg, Bool.or_self, Bool.false_eq_true, if_false]

theorem greater_self (m : Nat) : Fmt.f32.greater m m = m := by simp [Fmt.greater]

/-- Pairs with one finite maximum add their sums. -/
theorem lsemOp_equal (hm : m < 2 ^ 32) (hs : s < 2 ^ 32) (hs' : s' < 2 ^ 32) (hn : Fmt.f32.isNan m = false) (hi : Fmt.f32.isInf m = false)
    (hns : Fmt.f32.isNan s = false) (hns' : Fmt.f32.isNan s' = false) :
    lsemOp (m, s) (m, s') = ((m, (add32 s s').1), (add32 s s').2) := by
  rw [lsemOp_finite hn hn (by rwa [greater_self])]
  simp only [greater_self, add32_cancel hm hn hi, expK_zero, mul32_one hs hns, mul32_one hs' hns']
  exact congrArg (Prod.mk _) (Tally.zero_join (add32_flagsOnly hns hns'))

/-- −Inf is the least code that is not a NaN. -/
theorem greater_negInf (hm : m < 2 ^ 32) (hn : Fmt.f32.isNan m = false) : Fmt.f32.greater m 0xFF800000 = m := by
  have hmag := (Fmt.isNan_eq_false f32_wide m).mp hn
  have hlow : Fmt.f32.rank 0xFF800000 = -0x7F800001 := by decide +kernel
  have hsign : Fmt.f32.signBit = 0x80000000 := rfl
  have hle : ¬ Fmt.f32.rank m < Fmt.f32.rank 0xFF800000 := by
    rw [f32_top, f32_mag] at hmag
    rw [hlow, Fmt.rank, hsign]
    split <;> omega
  rw [Fmt.greater, if_neg hle]

/-- A pair whose maximum is −Inf gives way. -/
theorem lsemOp_negInf (hm : m < 2 ^ 32) (hs : s < 2 ^ 32) (hn : Fmt.f32.isNan m = false) (hne : m ≠ 0xFF800000) (hs0 : s % 2 ^ 31 ≠ 0)
    (hns : Fmt.f32.isNan s = false) (hns' : Fmt.f32.isNan s' = false) (his' : Fmt.f32.isInf s' = false) :
    (lsemOp (m, s) (0xFF800000, s')).1 = (m, s) := by
  have hnlow : Fmt.f32.isNan 0xFF800000 = false := by decide +kernel
  have hg := greater_negInf hm hn
  cases hi : Fmt.f32.isInf m with
  | true =>
    rw [lsemOp_inf hn hnlow (by rwa [hg]), hg, if_neg (fun h => hne h.2.symm), if_pos rfl]
  | false =>
    have hfar : add32 0xFF800000 (ieeeNeg .f32 m) = (0xFF800000, Tally.zero) :=
      ieeeAdd_inf_left f32_wide (by decide +kernel) (isInf_neg hm hn hi) hnlow (isNan_neg hm hn)
    have hsum : add32 s (mul32 s' 0).1 = (s, Tally.zero) := add32_zero hs hns hs0 (mul32_zero hns' his')
    rw [lsemOp_finite hn hnlow (by rwa [hg])]
    simp only [hg, add32_cancel hm hn hi, expK_zero, mul32_one hs hns, hfar, expK_negInf, hsum]

end Merge

/-- A raw element is a pair of its own: its maximum, and the weight 1.0 unless it is −Inf (R111). -/
theorem lsemElem_raw {c : Nat} (hc : c < 2 ^ 32) (hn : Fmt.f32.isNan c = false) :
    (lsemElem true .f32 c).1 = .pair (BitVec.ofNat 32 c) (if c = 0xFF800000 then 0 else 0x3F800000) := by
  have hval : (intoA .f32 { table := none, scale := none } .f32 c).1 = c := by
    simp only [intoA, inputVal, Fmt.expanded, Bool.false_eq_true, if_false, toIeee_value hc hn]
  simp only [lsemElem, if_true, hval, hn, Bool.false_eq_true, if_false]
  have hinf : Fmt.f32.infinity true = 0xFF800000 := rfl
  rw [hinf]
  congr 1
  split <;> rfl

/-- Settles O59: the sides are the first of their candidates in a strict order; `exp_k` and the merge go by the kinds of their operands. -/
theorem expertsAreSelectedByRank : Obligations.ExpertsAreSelectedByRank := by
  unfold Obligations.ExpertsAreSelectedByRank
  refine ⟨fun xs t rot => ⟨?_, ?_⟩, ⟨expK_zero, expK_negZero, expK_inf, expK_negInf, fun x => expK_overflows, fun x => expK_underflows⟩,
    fun m m' s s' hm hm' hs hs' => ⟨fun hn => ?_, fun hn hn' => ?_, fun hn hi => lsemOp_equal hm hs hs' hn hi,
      fun hn hne hs0 hns hns' his' => lsemOp_negInf hm hs hn hne hs0 hns hns' his', fun hn hn' => ?_⟩, fun c => lsemElem_raw⟩
  · exact selectExperts_one xs t rot
  · exact selectExperts_two xs t rot
  · simpa only [hn, if_true] using lsemOp_nan (s := s) (s' := s') (.inl hn)
  · simpa only [hn, Bool.false_eq_true, if_false] using lsemOp_nan (m := m) (s := s) (s' := s') (.inr hn')
  · intro g hg
    rw [lsemOp_finite hn hn' hg]

end Sys2Proof.Machine

/-! SUPPORT. Every step keeps a state sound, and reset begins with a sound one (R420 to R424). -/

namespace Sys2Proof.Machine

open Sys2Proof

/-- No command changes the queue of those behind it, and each keeps a state sound: one lemma per row. -/
theorem kept_exec {q : List Instr} {s : State} (c : Instr) (h : s.Kept q) : KeptOut q (exec c s) := by
  cases c with
  | sum p => exact kept_execSum _ h
  | spsum p => exact kept_execSpsum _ h
  | nsum p => exact kept_execNsum _ h
  | max p => exact kept_execMax _ h
  | min p => exact kept_execMin _ h
  | maxnum p => exact kept_execMaxnum _ h
  | minnum p => exact kept_execMinnum _ h
  | amax p => exact kept_execAmax _ h
  | amin p => exact kept_execAmin _ h
  | band p => exact kept_execBand _ h
  | bor p => exact kept_execBor _ h
  | bxor p => exact kept_execBxor _ h
  | count p => exact kept_execCount _ h
  | scanx p => exact kept_execScanx _ h
  | scani p => exact kept_execScani _ h
  | lsem p => exact kept_execLsem _ h
  | route p => exact kept_execRoute _ h
  | tagRelease p => exact kept_execTagRelease _ h
  | tagCancel p => exact kept_execTagCancel _ h
  | combine p => exact kept_execCombine _ h
  | uncombine p => exact kept_execUncombine _ h
  | gategrad p => exact kept_execGategrad _ h
  | bcast p => exact kept_execBcast _ h
  | mcast p => exact kept_execMcast _ h
  | hrecv p => exact kept_execHrecv _ h
  | hrecvWithdraw p => exact kept_execHrecvWithdraw _ h
  | descriptorReadPoisoned p => exact kept_execDescriptorReadPoisoned _ h
  | sig p w => exact kept_execSig _ _ h
  | wait p w => exact kept_execWait _ _ h
  | dec p w => exact kept_execDec _ _ h
  | test p w => exact kept_execTest _ _ h
  | init p w => exact kept_execInit _ _ h
  | claim p w => exact kept_execClaim _ _ h
  | release p w => exact kept_execRelease _ _ h
  | arrive p w => exact kept_execArrive _ _ h
  | bwait p w => exact kept_execBwait _ _ h
  | syncWordCycle word from_ => exact kept_execSyncWordCycle _ _ h
  | waitTimeout word p => exact kept_execWaitTimeout _ _ h
  | barrierWaitTimeout ch p => exact kept_execBarrierWaitTimeout _ _ h
  | releaseStep ch => exact kept_execReleaseStep _ h
  | fleetWaitExpiry ch => exact kept_execFleetWaitExpiry _ h
  | sigMessage l => exact kept_execSigMessage _ h
  | sigAck l => exact kept_execSigAck _ h
  | barArrive l => exact kept_execBarArrive _ h
  | barRelease l => exact kept_execBarRelease _ h
  | barOrphan l => exact kept_execBarOrphan _ h
  | barPrewarn l => exact kept_execBarPrewarn _ h
  | endpointReset p => exact kept_execEndpointReset _ h
  | rebindDone p => exact kept_execRebindDone _ h
  | treeFlit ctx epoch src => exact kept_execTreeFlit _ _ _ h
  | collectiveTimeout ctx epoch p => exact kept_execCollectiveTimeout _ _ _ h
  | timeoutMark ctx epoch => exact kept_execTimeoutMark _ _ h
  | resultAtPort ctx epoch p src => exact kept_execResultAtPort _ _ _ _ h
  | completionWrite p => exact kept_execCompletionWrite _ h
  | routeCountsResult ctx epoch p src => exact kept_execRouteCountsResult _ _ _ _ h
  | tagQuarantineExpiry slot => exact kept_execTagQuarantineExpiry _ h
  | noticePost p hi => exact kept_execNoticePost _ _ h
  | noticeSend p => exact kept_execNoticeSend _ h
  | arrival src => exact kept_execArrival _ h
  | combineLaneBegin id token => exact kept_execCombineLaneBegin _ _ h
  | rowWriteVisible id token => exact kept_execRowWriteVisible _ _ h
  | combineLimitExpiry id => exact kept_execCombineLimitExpiry _ h
  | hoistCreditApply p ch => exact kept_execHoistCreditApply _ _ h
  | hoistAtHoldingNode p src => exact kept_execHoistAtHoldingNode _ _ h
  | holdLimitExpiry hold => exact kept_execHoldLimitExpiry _ h
  | deliveryReport id target src => exact kept_execDeliveryReport _ _ _ h
  | hoistReportLimitExpiry id => exact kept_execHoistReportLimitExpiry _ h
  | hoistSegmentFreed pool ch => exact kept_execHoistSegmentFreed _ _ h
  | registerWrite p ofs v => exact kept_execRegisterWrite _ _ _ h
  | epSqCfg p v => exact kept_execEpSqCfg _ _ h
  | epCqCfg p v => exact kept_execEpCqCfg _ _ h
  | submissionDoorbell p v => exact kept_execSubmissionDoorbell _ _ h
  | completionDoorbell p v => exact kept_execCompletionDoorbell _ _ h
  | epTtPop p v => exact kept_execEpTtPop _ _ h
  | epNqStat p v => exact kept_execEpNqStat _ _ h
  | hostWindowWrite ofs n v => exact kept_execHostWindowWrite _ _ _ h
  | hwDoorbell v => exact kept_execHwDoorbell _ h
  | hwRspHead v => exact kept_execHwRspHead _ h
  | hwIrqMask v => exact kept_execHwIrqMask _ h
  | ttInspectSel v => exact kept_execTtInspectSel _ h
  | hello n => exact kept_execHello _ h
  | debugChallenge n nonce => exact kept_execDebugChallenge _ _ h
  | debugResponse n verified => exact kept_execDebugResponse _ _ h
  | debugLock n => exact kept_execDebugLock _ h
  | topoSet n => exact kept_execTopoSet _ h
  | topoSetComplete => exact kept_execTopoSetComplete h
  | topoRead n => exact kept_execTopoRead _ h
  | groupDefine n => exact kept_execGroupDefine _ h
  | groupDelete n => exact kept_execGroupDelete _ h
  | contextBind n => exact kept_execContextBind _ h
  | contextRearm n => exact kept_execContextRearm _ h
  | contextUnbind n => exact kept_execContextUnbind _ h
  | partnerSet n => exact kept_execPartnerSet _ h
  | policySet n => exact kept_execPolicySet _ h
  | reefAllow n => exact kept_execReefAllow _ h
  | cinch n => exact kept_execCinch _ h
  | cinchAgreeResult a => exact kept_execCinchAgreeResult _ h
  | cinchDrained => exact kept_execCinchDrained h
  | cinchQuietRound reason sent1 recv1 sent4 recv4 => exact kept_execCinchQuietRound _ _ _ _ _ h
  | cinchCaptureDone ok => exact kept_execCinchCaptureDone _ h
  | cinchCommitResult reason => exact kept_execCinchCommitResult _ h
  | cinchFlashCopyDone ok => exact kept_execCinchFlashCopyDone _ h
  | cinchPhaseTimeout => exact kept_execCinchPhaseTimeout h
  | restore n => exact kept_execRestore _ h
  | testNode n => exact kept_execTestNode _ h
  | testComplete u pass signature => exact kept_execTestComplete _ _ _ h
  | calPortAdapt n => exact kept_execCalPortAdapt _ h
  | calPortRecalibrate n => exact kept_execCalPortRecalibrate _ h
  | calPortSetPhy n => exact kept_execCalPortSetPhy _ h
  | calPortSetTaps n => exact kept_execCalPortSetTaps _ h
  | spareMapRead n => exact kept_execSpareMapRead _ h
  | countersRead n => exact kept_execCountersRead _ h
  | syncInspect n => exact kept_execSyncInspect _ h
  | ledgerInspect n => exact kept_execLedgerInspect _ h
  | dumpFetch n => exact kept_execDumpFetch _ h
  | fwUpdateLoad n => exact kept_execFwUpdateLoad _ h
  | fwUpdateActivate n => exact kept_execFwUpdateActivate _ h
  | fwUpdateCommit n => exact kept_execFwUpdateCommit _ h
  | letFly n => exact kept_execLetFly _ h
  | powerStateActive n => exact kept_execPowerStateActive _ h
  | powerStateDoze n => exact kept_execPowerStateDoze _ h
  | powerStateRetain n => exact kept_execPowerStateRetain _ h
  | powerStateOff n => exact kept_execPowerStateOff _ h
  | wakeEvent w => exact kept_execWakeEvent w h
  | railAck => exact kept_execRailAck h
  | frameSlot l => exact kept_execFrameSlot _ h
  | idle l f fec => exact kept_execIdle _ _ _ h
  | data l f fec => exact kept_execData _ _ _ h
  | nak l f fec => exact kept_execNak _ _ _ h
  | gcmtag l f fec => exact kept_execGcmtag _ _ _ h
  | lcInit l f fec => exact kept_execLcInit _ _ _ h
  | lcInitAck l f fec => exact kept_execLcInitAck _ _ _ h
  | lcReef l f fec => exact kept_execLcReef _ _ _ h
  | lcReefAck l f fec => exact kept_execLcReefAck _ _ _ h
  | superBlockLock l => exact kept_execSuperBlockLock _ h
  | nakRepeatTimer l => exact kept_execNakRepeatTimer _ h
  | replayTimeout l => exact kept_execReplayTimeout _ h
  | lockLossTimeout l => exact kept_execLockLossTimeout _ h
  | laneFailure l lane => exact kept_execLaneFailure _ _ h
  | keyLoad l rx slot key salt => exact kept_execKeyLoad _ _ _ _ _ h
  | letFlyMessage l => exact kept_execLetFlyMessage _ h
  | heartbeat l => exact kept_execHeartbeat _ h
  | heartbeatSend => exact kept_execHeartbeatSend h
  | heartbeatMissing primary => exact kept_execHeartbeatMissing _ h
  | takeover l => exact kept_execTakeover _ h
  | faultReport l => exact kept_execFaultReport _ h
  | feedQuery l => exact kept_execFeedQuery _ h
  | feedReply l => exact kept_execFeedReply _ h
  | wordReadRelay l => exact kept_execWordReadRelay _ h
  | wordReadReply l => exact kept_execWordReadReply _ h
  | relayTimeout => exact kept_execRelayTimeout h
  | residueError u plane aluLane => exact kept_execResidueError _ _ _ h
  | flitCrcError e n => exact kept_execFlitCrcError _ _ h
  | secdedError w uncorrectable n => exact kept_execSecdedError _ _ _ h
  | wireParityError n => exact kept_execWireParityError _ h
  | lockstepMismatch => exact kept_execLockstepMismatch h
  | rootPairMismatch u colls => exact kept_execRootPairMismatch _ _ h
  | shadowMismatch spare => exact kept_execShadowMismatch _ h
  | poisonedRead r => exact kept_execPoisonedRead _ h
  | endpointCoreFailed p spareCore => exact kept_execEndpointCoreFailed _ _ h
  | rootPllUnlock => exact kept_execRootPllUnlock h
  | chipLost chip => exact kept_execChipLost _ h
  | fillComplete spare => exact kept_execFillComplete _ h
  | shadowRotation spare => exact kept_execShadowRotation _ h
  | backgroundUnitTest u => exact kept_execBackgroundUnitTest _ h
  | portRecalibration l => exact kept_execPortRecalibration _ h
  | bankCopyDone spare bad => exact kept_execBankCopyDone _ _ h
  | coldReset powerOn => exact kept_execColdReset _ h
  | warmReset => exact kept_execWarmReset h
  | blockReset => exact kept_execBlockReset h
  | nodeReset u => exact kept_execNodeReset _ h
  | mbistDone failed => exact kept_execMbistDone _ h
  | imageVerified ok => exact kept_execImageVerified _ h
  | mhReady r => exact kept_execMhReady _ h
  | trialBootTimeout => exact kept_execTrialBootTimeout h
  | rowReadReturn id token => exact kept_execRowReadReturn _ _ h
  | hoistDeliveryVisible delivery => exact kept_execHoistDeliveryVisible _ h
  | calibrationDone l => exact kept_execCalibrationDone _ h
  | fwImageLoaded v => exact kept_execFwImageLoaded _ h
  | alignmentLockLoss l => exact kept_execAlignmentLockLoss _ h
  | linkUpTimeout l => exact kept_execLinkUpTimeout _ h
  | tapInstrumentAccess x => exact kept_execTapInstrumentAccess _ h

/-- Settles O3: with a command at the front the row keeps the state sound, and with none the block's idle work does. -/
theorem everyStepKeepsSoundness : Obligations.EveryStepKeepsSoundness := by
  unfold Obligations.EveryStepKeepsSoundness
  intro s t hs hstep
  have hkept : ∃ q, KeptOut q (step s) := by
    unfold step
    split
    · exact ⟨_, kept_idle (sound_kept hs)⟩
    · next c r hpending => exact ⟨r, kept_exec c ⟨rfl, hs⟩⟩
  obtain ⟨q, hq⟩ := hkept
  rw [hstep] at hq
  exact hq.sound

/-- Settles O4: soundness part by part, and each value is what the state after reset holds. -/
theorem resetIsSoundAndGivesTheResetValues : Obligations.ResetIsSoundAndGivesTheResetValues := by
  unfold Obligations.ResetIsSoundAndGivesTheResetValues
  refine ⟨State.reset_sound, rfl, rfl, rfl, rfl, rfl, rfl, rfl, rfl, rfl, rfl, rfl, rfl, fun w => ⟨rfl, rfl, rfl, rfl⟩, fun c => rfl,
    fun p => ⟨rfl, rfl, rfl, rfl, rfl, rfl, rfl, rfl, rfl, rfl, rfl, rfl, rfl, rfl, rfl, rfl, rfl, rfl, rfl, rfl, rfl⟩,
    rfl, rfl, rfl, rfl, rfl, rfl, rfl, rfl, rfl, rfl, rfl, fun i => rfl, fun k => rfl, rfl, rfl, rfl, by decide⟩

end Sys2Proof.Machine

/-! SUPPORT. A store to `EP_TT_CMD`: the checks of the port, the credit and the wait that it notes, and the command's way out (R149, R150, R152,
R166, R171, R270). -/

namespace Sys2Proof.Machine

open Sys2Proof

variable {s : State} {p : Nat} {c : Word64} {fs : List Flight}

/-! ## The row and its command word -/

/-- The rows of tell-tale commands, each with its opcode (Table 5-5). -/
abbrev ttRows (p : Pos) (w : BitVec 60) : List (Instr × Nat) :=
  [(.sig p w, 1), (.wait p w, 2), (.dec p w, 3), (.test p w, 4), (.init p w, 5), (.claim p w, 6), (.release p w, 7), (.arrive p w, 8),
    (.bwait p w, 9)]

/-- Each stores the command word with its opcode. -/
theorem exec_ttRows {p : Pos} {w : BitVec 60} {r : Instr × Nat} (h : r ∈ ttRows p w) :
    exec r.1 s = .next (s.ttStore p (ttCommand r.2 w)) := by
  simp only [ttRows, List.mem_cons, List.not_mem_nil, or_false] at h
  rcases h with rfl | rfl | rfl | rfl | rfl | rfl | rfl | rfl | rfl <;> rfl

/-- The opcode that a command word names is the one it was formed with. -/
theorem cTop_ttCommand {k : Nat} (hk : k < 16) (w : BitVec 60) : cTop (ttCommand k w) = k := by
  have hor : k <<< 60 ||| w.toNat = 2 ^ 60 * k + w.toNat := by
    rw [Nat.shiftLeft_eq, Nat.mul_comm, Nat.two_pow_add_eq_or_of_lt w.isLt]
  have hw := w.isLt
  simp only [cTop, bits, ttCommand, BitVec.toNat_ofNat, hor, Nat.shiftRight_eq_div_pow]
  omega

theorem cTop_of_ttRows {p : Pos} {w : BitVec 60} {r : Instr × Nat} (h : r ∈ ttRows p w) : cTop (ttCommand r.2 w) = r.2 := by
  simp only [ttRows, List.mem_cons, List.not_mem_nil, or_false] at h
  rcases h with rfl | rfl | rfl | rfl | rfl | rfl | rfl | rfl | rfl <;> exact cTop_ttCommand (by simp) w

/-- At a port that runs the store is taken at once. -/
theorem ttStore_live (h : s.Live) : s.ttStore p c = s.issue p c := by
  obtain ⟨hrun, hstop, hdoze⟩ := h
  have hact : s.power.st = .active := by
    simp only [State.running, Bool.and_eq_true, beq_iff_eq] at hrun
    exact hrun.2
  simp [State.ttStore, wake_active hact hdoze, hrun, hstop]

/-! ## The port's part of a command -/

/-- The credit of a command that responds is taken. -/
def State.charged (s : State) (p : Nat) (c : Word64) : State :=
  if cResponds c then s.modPort p (fun x => { x with credits := x.credits - 1 }) else s

/-- A command that passes the checks has its credit taken, and is an outstanding wait if it waits. -/
def State.admitted (s : State) (p : Nat) (c : Word64) : State :=
  if cWaits c then (s.charged p c).modPort p (fun x => { x with waits := x.waits ++ [(decide (8 ≤ cTop c), cTarget c)] })
  else s.charged p c

theorem charged_eq : s.charged p c = { s with ports := (s.charged p c).ports } := by
  unfold State.charged
  split <;> rfl

theorem charged_sound (h : s.Sound) : (s.charged p c).Sound := by
  unfold State.charged
  split
  · exact modPort_sound h
  · exact h

theorem charged_port (h : s.Sound) :
    (s.charged p c).port p = { s.port p with credits := (s.port p).credits - flag (cResponds c) } := by
  unfold State.charged
  split
  · next hr => rw [port_modPort_same h, hr]; rfl
  · next hr => simp [hr, flag]

theorem charged_port_other {q : Nat} (h : q ≠ p) : (s.charged p c).port q = s.port q := by
  unfold State.charged
  split
  · exact port_modPort_other h
  · rfl

theorem admitted_eq : s.admitted p c = { s with ports := (s.admitted p c).ports } := by
  unfold State.admitted
  split
  · rw [charged_eq]; rfl
  · exact charged_eq

theorem admitted_sound (h : s.Sound) : (s.admitted p c).Sound := by
  unfold State.admitted
  split
  · exact modPort_sound (charged_sound h)
  · exact charged_sound h

theorem admitted_port (h : s.Sound) : (s.admitted p c).port p = { s.port p with
    credits := (s.port p).credits - flag (cResponds c)
    waits := (s.port p).waits ++ (if cWaits c then [(decide (8 ≤ cTop c), cTarget c)] else []) } := by
  unfold State.admitted
  split
  · rw [port_modPort_same (charged_sound h), charged_port h]
  · rw [charged_port h]; simp

theorem admitted_port_other {q : Nat} (h : q ≠ p) : (s.admitted p c).port q = s.port q := by
  unfold State.admitted
  split
  · rw [port_modPort_other h, charged_port_other h]
  · exact charged_port_other h

/-- The checks of R150 ask nothing of the credits. -/
theorem portCheck_charged (h : s.Sound) : (s.charged p c).portCheck p c = s.portCheck p c := by
  have hport := charged_port (p := p) (c := c) h
  have hpool : ∀ k, (s.charged p c).poolMode k = s.poolMode k := fun k => by rw [charged_eq]; rfl
  have hpres : ∀ k, (s.charged p c).isPresent k = s.isPresent k := fun k => by rw [charged_eq]; rfl
  simp only [State.portCheck, hport, hpool, hpres]

/-- A command that responds finds no credit: only `TT_OVF` is set. -/
theorem issue_no_credit (hr : cResponds c = true) (h0 : (s.port p).credits = 0) :
    s.issue p c = s.setPort p { s.port p with err := (s.port p).err ||| 0x08#7 } := by
  simp [State.issue, hr, h0, State.modPort]

/-- With a credit where it needs one, the port's checks decide: what passes leaves the port, what fails is answered or logged. -/
theorem issue_credited (h : s.Sound) (hcr : cResponds c = true → (s.port p).credits ≠ 0) :
    s.issue p c = match s.portCheck p c with
      | some st =>
        if cResponds c then (s.charged p c).answer p st (cTop c) (cTarget c) 0
        else ((s.charged p c).modPort p (fun x => { x with err := x.err ||| 0x40#7 })).logSync st (cTarget c)
          (if cRemote c then cChip c else s.topo.chip) (s.rig p)
      | none => (s.admitted p c).launch p c := by
  have hno : (cResponds c && (s.port p).credits == 0) = false := by
    by_cases hr : cResponds c = true
    · simpa [hr] using hcr hr
    · simp [hr]
  have htopo : (s.charged p c).topo = s.topo := by rw [charged_eq]
  have hrig : (s.charged p c).rig p = s.rig p := by rw [charged_eq]; rfl
  rw [← portCheck_charged h, ← htopo, ← hrig]
  simp only [State.issue, hno]
  rfl

theorem issue_passes (h : s.Sound) (hcheck : s.portCheck p c = none) (hcr : cResponds c = true → (s.port p).credits ≠ 0) :
    s.issue p c = (s.admitted p c).launch p c := by
  rw [issue_credited h hcr, hcheck]

/-- A logged failure bumps the sync error counter (R152). -/
theorem counter_logSync (h : s.Sound) {st : CStatus} {a b r : Nat} :
    (s.logSync st a b r).counter cSyncErr = sat32 (s.counter cSyncErr + 1) := by
  dsimp only [State.logSync]
  split <;> exact counter_bump_same h

/-- It leaves an entry while the log has room. -/
theorem errLog_logSync {st : CStatus} {a b r : Nat} : (s.logSync st a b r).shadow.errLog =
    if s.shadow.errLog.length < 64 then
      s.shadow.errLog ++ [{ status := st, word := BitVec.ofNat 16 a, chip := b, rig := BitVec.ofNat 25 r }] else s.shadow.errLog := by
  dsimp only [State.logSync]
  split
  · next h => exact (if_pos h).symm
  · next h => exact (if_neg h).symm

/-! ## Arrivals and barrier waits in flight (R166) -/

/-- Where no arrival and no barrier wait is in flight, none is due. -/
theorem readyFence_none {paused : List Nat} (h : ∀ f ∈ fs, cTop f.cmd < 8) (before : List Flight) :
    readyFence paused before fs = none := by
  induction fs generalizing before with
  | nil => rfl
  | cons f r ih =>
    have hf : ¬8 ≤ cTop f.cmd := Nat.not_le.mpr (h f (by simp))
    simp [readyFence, hf, ih (fun g hg => h g (by simp [hg]))]

theorem flushFences_noFence (n : Nat) (h : s.NoFence) : s.flushFences n = s := by
  cases n with
  | zero => rfl
  | succ n => simp [State.flushFences, readyFence_none h]

theorem flush_noFence (h : s.NoFence) : s.flush = s := flushFences_noFence _ h

/-! ## The way out -/

/-- The command of position `p` in flight. -/
def State.flight (s : State) (p : Nat) (c : Word64) (v : Via) : Flight := { cmd := c, issuer := BitVec.ofNat 25 (s.rig p), via := v }

/-- A command joins those in flight. -/
def State.fly (s : State) (f : Flight) : State := { s with tt := { s.tt with flights := s.tt.flights ++ [f] } }

/-- A command for this die flies to its word or channel. -/
theorem launch_here (h : (cRemote c && cChip c != s.topo.chip) = false) : s.launch p c = (s.fly (s.flight p c .port)).flush := by
  simp only [State.launch, h]
  rfl

/-- A word command behind commands none of which is a fence only joins them. -/
theorem launch_word (h : (cRemote c && cChip c != s.topo.chip) = false) (hno : s.NoFence) (htop : cTop c < 8) :
    s.launch p c = s.fly (s.flight p c .port) := by
  rw [launch_here h]
  apply flush_noFence
  intro f hf
  rcases List.mem_append.mp hf with hf | hf
  · exact hno f hf
  · rw [List.mem_singleton.mp hf]
    exact htop

/-- A `SIG` for a word of another chip leaves as a sync message, and stays among the commands in flight (R171). -/
theorem launch_remote (hrem : cRemote c = true) (hchip : cChip c ≠ s.topo.chip) :
    s.launch p c = (s.fly (s.flight p c (if bit c 59 then .remote (s.freeTag (BitVec.ofNat 25 (s.rig p))) else .posted))).originate 1 (cChip c)
      (syncMsg 1 0 (cChip c) (flag (bit c 59)) (cTarget c) (BitVec.ofNat 25 (s.rig p)).toNat (cOperand c) 0 0
        (if bit c 59 then (s.freeTag (BitVec.ofNat 25 (s.rig p))).toNat else 0)) := by
  simp only [State.launch, hrem, Bool.true_and, bne_iff_ne, ne_eq, hchip, not_false_eq_true, if_true]
  rfl

/-- Where a message goes rests on the topology, and what it changes of the links on the links. -/
theorem originate_link_congr {t : State} (hl : s.link = t.link) (ht : s.topo = t.topo) (vc chip : Nat) (m : Msg) :
    (s.originate vc chip m).link = (t.originate vc chip m).link := by
  have hroute : s.routeTo chip = t.routeTo chip := by simp only [State.routeTo, State.physOf, State.decl, ht]
  have hcount : (s.countSent vc).link = (t.countSent vc).link := by
    simp only [State.countSent, hl, apply_ite State.link]
  have hsent : ∀ u : State, (u.countSent vc).routeTo chip = u.routeTo chip := fun u => by
    unfold State.countSent
    split
    · rfl
    · split <;> rfl
  simp only [State.originate, State.sendMsg, hsent, hroute]
  split
  · exact hcount
  · simp only [State.modLnk, State.setLnk, State.lnk, hcount]

/-! ## The obligations -/

/-- A command for a word of this die that passes the checks of its port joins those in flight. -/
theorem issue_word (hs : s.Sound) (hno : s.NoFence) (hcheck : s.portCheck p c = none) (hcr : cResponds c = true → (s.port p).credits ≠ 0)
    (hhere : (cRemote c && cChip c != s.topo.chip) = false) (htop : cTop c < 8) : s.issue p c = (s.admitted p c).fly (s.flight p c .port) := by
  rw [issue_passes hs hcheck hcr, launch_word (by rwa [admitted_eq]) (by rwa [admitted_eq]) htop]
  rw [admitted_eq]
  rfl

/-- A `SIG` for a word of another chip that passes them joins them and leaves as a message. -/
theorem issue_remote (hs : s.Sound) (hcheck : s.portCheck p c = none) (hcr : cResponds c = true → (s.port p).credits ≠ 0)
    (hrem : cRemote c = true) (hchip : cChip c ≠ s.topo.chip) :
    s.issue p c = ((s.admitted p c).fly (s.flight p c (if bit c 59 then .remote (s.freeTag (BitVec.ofNat 25 (s.rig p))) else .posted))).originate
      1 (cChip c) (syncMsg 1 0 (cChip c) (flag (bit c 59)) (cTarget c) (BitVec.ofNat 25 (s.rig p)).toNat (cOperand c) 0 0
        (if bit c 59 then (s.freeTag (BitVec.ofNat 25 (s.rig p))).toNat else 0)) := by
  rw [issue_passes hs hcheck hcr, launch_remote hrem (by rwa [admitted_eq])]
  rw [admitted_eq]
  rfl

/-- Settles O10: what the port does, and then what leaves it. -/
theorem wordCommandsAndRemoteSignalsLeave : Obligations.WordCommandsAndRemoteSignalsLeave := by
  unfold Obligations.WordCommandsAndRemoteSignalsLeave
  constructor
  · intro s p w hs hlive hno r hr c hcheck hcr hhere
    have hrow : r ∈ ttRows p w := by
      simp only [ttRows, List.mem_cons, List.not_mem_nil, or_false] at hr ⊢
      tauto
    have htop : cTop c < 8 := by
      rw [cTop_of_ttRows hrow]
      simp only [List.mem_cons, List.not_mem_nil, or_false] at hr
      rcases hr with rfl | rfl | rfl | rfl | rfl | rfl | rfl <;> simp
    have hexec : exec r.1 s = .next ((s.admitted p c).fly (s.flight p c .port)) := by
      rw [exec_ttRows hrow, ttStore_live hlive, issue_word hs hno hcheck hcr hhere htop]
    refine ⟨_, hexec, ?_, ?_, fun q hq => admitted_port_other hq⟩
    · rw [admitted_eq]
      rfl
    · exact (admitted_port hs).trans (by simp [Nat.not_le.mpr htop])
  · intro s p w hs hlive c rig ack hcheck hcr hrem hchip
    have htop : cTop c = 1 := cTop_ttCommand (by decide) w
    have hresp : cResponds c = ack := by simp [cResponds, htop, ack]
    have hwait : cWaits c = false := by simp [cWaits, htop]
    have hport := admitted_port (p := p) (c := c) hs
    rw [hresp, hwait] at hport
    have hexec : exec (.sig p w) s = .next (s.ttStore p c) := rfl
    rw [ttStore_live hlive, issue_remote hs hcheck (by rwa [hresp]) hrem hchip] at hexec
    refine ⟨_, hexec, ?_, ?_, ?_, ?_, ?_, fun q hq => ?_, ?_, ?_, ?_⟩
    · exact originate_link_congr (by rw [admitted_eq]; rfl) (by rw [admitted_eq]; rfl) _ _ _
    · rw [originate_tt, admitted_eq]
      rfl
    · rw [originate_tt, admitted_eq]
      rfl
    · rw [originate_tt, admitted_eq]
      rfl
    · rw [port_congr (originate_ports _ _ _ _)]
      exact hport.trans (by simp)
    · rw [port_congr (originate_ports _ _ _ _)]
      exact admitted_port_other hq
    · rw [originate_mem, admitted_eq]
      rfl
    · rw [originate_shadow, admitted_eq]
      rfl
    · rw [originate_counters, admitted_eq]
      rfl

/-- Settles O11: a failed check is answered where the command responds and logged where it is posted; without a credit nothing is checked. -/
theorem portChecksAndCredits : Obligations.PortChecksAndCredits := by
  unfold Obligations.PortChecksAndCredits
  constructor
  · intro s p w st hs hlive r hr c hcheck
    have htop : cTop c = r.2 := cTop_of_ttRows hr
    have hissue : (cResponds c = true → (s.port p).credits ≠ 0) → exec r.1 s = .next (s.issue p c) := fun _ => by
      rw [exec_ttRows hr, ttStore_live hlive]
    have hport := charged_port (p := p) (c := c) hs
    have hsound := charged_sound (p := p) (c := c) hs
    refine ⟨fun hresp hcr hreb => ?_, fun hresp => ?_⟩
    · rw [hissue fun _ => hcr, issue_credited hs fun _ => hcr, hcheck]
      simp only [hresp, if_true, htop]
      refine ⟨_, rfl, ?_, fun q hq => ?_, ?_⟩
      · rw [charged_eq]
        rfl
      · exact (port_modPort_other hq).trans (charged_port_other hq)
      · rw [State.answer, port_modPort_same hsound, hport, hresp]
        simp [hreb, flag]
    · have hposted : s.charged p c = s := by simp [State.charged, hresp]
      have hno : cResponds c = true → (s.port p).credits ≠ 0 := by simp [hresp]
      rw [hissue hno, issue_credited hs hno, hcheck]
      simp only [hresp, hposted, Bool.false_eq_true, if_false]
      refine ⟨_, rfl, ?_, ?_, ?_, fun q hq => ?_, ?_, ?_⟩
      · simp
      · simp
      · rw [port_congr (logSync_ports _ _ _ _ _), port_modPort_same hs]
      · rw [port_congr (logSync_ports _ _ _ _ _), port_modPort_other hq]
      · exact counter_logSync (modPort_sound hs)
      · rw [errLog_logSync]
        rfl
  · intro s p w hlive h0 r hr hresp
    rw [exec_ttRows hr, ttStore_live hlive, issue_no_credit hresp h0]

end Sys2Proof.Machine

/-! SUPPORT. Answers and sync words: what an answer leaves alone, how a queue is served, and one command at its word (R145, R151 to R156). -/

namespace Sys2Proof.Machine

open Sys2Proof

variable {s t : State} {w : Nat}

/-! ## Answers act on the ports alone -/

/-- An operation that changes the ports alone, and by the ports alone. -/
structure ActsOnPorts (f : State → State) : Prop where
  only : ∀ s, f s = { s with ports := (f s).ports }
  congr : ∀ s t : State, s.ports = t.ports → (f s).ports = (f t).ports

theorem actsOnPorts_modPort (p : Nat) (g : Port → Port) : ActsOnPorts (fun s => s.modPort p g) where
  only _ := rfl
  congr s t h := by simp only [State.modPort, State.setPort, State.port, h]

theorem ActsOnPorts.comp {f g : State → State} (hf : ActsOnPorts f) (hg : ActsOnPorts g) : ActsOnPorts (fun s => f (g s)) where
  only s := by rw [hf.only (g s), hg.only s]
  congr s t h := hf.congr _ _ (hg.congr s t h)

theorem actsOnPorts_forEach {α : Type} {f : α → State → State} (hf : ∀ x, ActsOnPorts (f x)) (l : List α) : ActsOnPorts (forEach l f) := by
  induction l with
  | nil => exact ⟨fun _ => rfl, fun _ _ h => h⟩
  | cons x r ih => exact ih.comp (hf x)

theorem ActsOnPorts.tt {f : State → State} (hf : ActsOnPorts f) (s : State) : (f s).tt = s.tt := by rw [hf.only]

theorem ActsOnPorts.word {f : State → State} (hf : ActsOnPorts f) (s : State) (w : Nat) : (f s).word w = s.word w := by
  rw [hf.only]
  rfl

theorem ActsOnPorts.chan {f : State → State} (hf : ActsOnPorts f) (s : State) (ch : Nat) : (f s).chan ch = s.chan ch := by
  rw [hf.only]
  rfl

theorem actsOnPorts_answer (p : Nat) (st : CStatus) (top target v : Nat) : ActsOnPorts (fun s => s.answer p st top target v) := by
  unfold State.answer
  exact actsOnPorts_modPort _ _

theorem actsOnPorts_endWait (p : Nat) (b : Bool) (id : Nat) : ActsOnPorts (fun s => s.endWait p b id) := actsOnPorts_modPort _ _

theorem actsOnPorts_answerWait (w : Nat) (q : Waiter) (st : CStatus) (v : Nat) : ActsOnPorts (fun s => s.answerWait w q st v) :=
  (actsOnPorts_answer _ _ _ _ _).comp (actsOnPorts_endWait _ _ _)

theorem actsOnPorts_answerBarrier (ch : Nat) (q : BWaiter) (st : CStatus) (v : Nat) : ActsOnPorts (fun s => s.answerBarrier ch q st v) :=
  (actsOnPorts_answer _ _ _ _ _).comp (actsOnPorts_endWait _ _ _)

/-- An answer joins the responses of a port that is not being rebound. -/
theorem port_answer_same {p top target v : Nat} {st : CStatus} (h : s.Sound) (hp : (s.port p).rebinding = false) :
    (s.answer p st top target v).port p = { s.port p with resp := (s.port p).resp ++ [responseWord st top target v] } := by
  rw [State.answer, port_modPort_same h]
  exact if_neg (ne_true_of_eq_false hp)

theorem port_answer_other {p q top target v : Nat} {st : CStatus} (hq : q ≠ p) : (s.answer p st top target v).port q = s.port q :=
  port_modPort_other hq

theorem port_endWait_same {p id : Nat} {b : Bool} (h : s.Sound) :
    (s.endWait p b id).port p = { s.port p with waits := (s.port p).waits.erase (b, id) } := port_modPort_same h

theorem port_endWait_other {p q id : Nat} {b : Bool} (hq : q ≠ p) : (s.endWait p b id).port q = s.port q := port_modPort_other hq

theorem answer_sound {p top target v : Nat} {st : CStatus} (h : s.Sound) : (s.answer p st top target v).Sound := modPort_sound h

theorem endWait_sound {p id : Nat} {b : Bool} (h : s.Sound) : (s.endWait p b id).Sound := modPort_sound h

@[simp] theorem answerWait_tt (q : Waiter) (st : CStatus) (v : Nat) : (s.answerWait w q st v).tt = s.tt := rfl

@[simp] theorem answerWait_word (q : Waiter) (st : CStatus) (v u : Nat) : (s.answerWait w q st v).word u = s.word u := rfl

theorem answerWait_sound {q : Waiter} {st : CStatus} {v : Nat} (h : s.Sound) : (s.answerWait w q st v).Sound :=
  (kept_answerWait _ _ _ _ (sound_kept h)).sound

theorem setWord_sound {x : SyncWord} (h : s.Sound) : (s.setWord w x).Sound := (kept_setWord _ _ (sound_kept h)).sound

theorem setShadow_sound {x : Shadow} (h : s.Sound) : (s.setShadow w x).Sound := (kept_setShadow _ _ (sound_kept h)).sound

/-! ## The answer of a command at its word -/

section AnswerFlight

variable {f : Flight} {st : CStatus} {v : Nat}

@[simp] theorem answerFlight_tt : (s.answerFlight w f st v).tt = s.tt := by
  unfold State.answerFlight
  cases f.via <;> simp only <;> split_ifs <;> simp

@[simp] theorem answerFlight_pol : (s.answerFlight w f st v).pol = s.pol := (rest_answerFlight _ _ _ _ s.rest_refl).pol

@[simp] theorem answerFlight_mem : (s.answerFlight w f st v).mem = s.mem := (rest_answerFlight _ _ _ _ s.rest_refl).mem

@[simp] theorem answerFlight_led : (s.answerFlight w f st v).led = s.led := (rest_answerFlight _ _ _ _ s.rest_refl).led

@[simp] theorem answerFlight_word (u : Nat) : (s.answerFlight w f st v).word u = s.word u := by
  simp only [State.word, State.policy, answerFlight_tt, answerFlight_pol]

/-- What it does to the ports rests on the ports. -/
theorem answerFlight_ports_congr (h : s.ports = t.ports) : (s.answerFlight w f st v).ports = (t.answerFlight w f st v).ports := by
  have hanswer := actsOnPorts_answer (f.issuer.toNat % 1024) st (cTop f.cmd) (cTarget f.cmd) v
  unfold State.answerFlight
  cases f.via with
  | port =>
    simp only
    split_ifs
    · exact (hanswer.comp (actsOnPorts_endWait (f.issuer.toNat % 1024) false w)).congr _ _ h
    · exact hanswer.congr _ _ h
    · exact h
    · simp [h]
  | completion | offDie chip tag ack =>
    simp only
    split_ifs <;> simp [h]
  | silent | remote tag | posted => exact h

/-- What it sends rests on the links and the topology. -/
theorem answerFlight_link_congr (hl : s.link = t.link) (ht : s.topo = t.topo) :
    (s.answerFlight w f st v).link = (t.answerFlight w f st v).link := by
  unfold State.answerFlight
  cases f.via with
  | offDie chip tag ack =>
    simp only
    split_ifs
    · exact originate_link_congr hl ht _ _ _
    · exact hl
    · simp [hl]
  | port | completion =>
    simp only
    split_ifs <;> simp [hl]
  | silent | remote tag | posted => exact hl

theorem answerFlight_sound (h : s.Sound) : (s.answerFlight w f st v).Sound := (kept_answerFlight _ _ _ _ (sound_kept h)).sound

end AnswerFlight

/-! ## What words do not share with the rest of the network -/

/-- The commands in flight and the channels, which no command at a word touches. -/
def State.aside (s : State) : List Flight × Tbl Channel := (s.tt.flights, s.tt.chans)

theorem aside_of_tt (h : s.tt = t.tt) : s.aside = t.aside := by simp only [State.aside, h]

@[simp] theorem setWord_aside (x : SyncWord) : (s.setWord w x).aside = s.aside := rfl

@[simp] theorem setShadow_aside (x : Shadow) : (s.setShadow w x).aside = s.aside := rfl

@[simp] theorem answerFlight_aside (f : Flight) (st : CStatus) (v : Nat) : (s.answerFlight w f st v).aside = s.aside :=
  aside_of_tt answerFlight_tt

@[simp] theorem answerWait_aside (q : Waiter) (st : CStatus) (v : Nat) : (s.answerWait w q st v).aside = s.aside := rfl

@[simp] theorem releaseDrain_aside : (s.releaseDrain w).aside = s.aside := by
  unfold State.releaseDrain
  dsimp only
  split
  · exact forEach_inv _ _ State.aside (fun q _ => answerWait_aside q _ _) _
  · rfl

@[simp] theorem serveQueue_aside (l : List Waiter) : (s.serveQueue w l).aside = s.aside := by
  induction l generalizing s with
  | nil => rfl
  | cons q r ih =>
    dsimp only [State.serveQueue]
    split
    · rw [ih]
      rfl
    · rfl

theorem atWord_aside (f : Flight) : (s.atWord w f).aside = s.aside := by
  have hsig : ∀ s : State, (s.signal w f).aside = s.aside := fun s => by
    unfold State.signal
    dsimp only
    split
    · split
      · simp
      · split <;> simp
    · simp
  have hjoin : ∀ s : State, (s.join w f).aside = s.aside := fun s => by
    unfold State.join
    dsimp only
    split_ifs <;> simp
  have hdec : ∀ s : State, (s.decrement w f).aside = s.aside := fun s => by
    unfold State.decrement
    dsimp only
    split <;> simp
  have hman : ∀ s : State, (s.manage w f).aside = s.aside := fun s => by
    unfold State.manage
    dsimp only
    split <;> (try split_ifs) <;> simp
  have hshadow : ∀ s : State, (if cTop f.cmd = 1 then s.setShadow w ((s.shadowOf w).signalled f)
      else if cTop f.cmd = 4 then s else s.setShadow w ((s.shadowOf w).reached (cTop f.cmd) false)).aside = s.aside := fun s => by
    split_ifs <;> rfl
  unfold State.atWord
  dsimp only
  split
  · rw [answerFlight_aside, hshadow]
  · split
    · rw [hsig, hshadow]
    · rw [hjoin, hshadow]
    · rw [hdec, hshadow]
    · rw [hman, hshadow]

/-! ## One command reaches a word -/

/-- A command is no longer in flight. -/
def State.land (s : State) (f : Flight) : State := { s with tt := { s.tt with flights := s.tt.flights.erase f } }

theorem land_noFence {f : Flight} (h : s.NoFence) : (s.land f).NoFence := fun g hg => h g (List.mem_of_mem_erase hg)

theorem noFence_of_aside (h : t.NoFence) (ha : s.aside = t.aside) : s.NoFence := by
  have : s.tt.flights = t.tt.flights := congrArg Prod.fst ha
  simpa only [State.NoFence, this] using h

theorem land_sound {f : Flight} (h : s.Sound) : (s.land f).Sound := h

section Cycle

variable {word : BitVec 16} {r : BitVec 25 × Bool} {f : Flight}

/-- The oldest command of a stream to a word. -/
abbrev State.oldest (s : State) (w : Nat) (r : BitVec 25 × Bool) : Option Flight :=
  s.tt.flights.find? (fun f => f.goesTo w && f.issuer == r.1 && f.isCompletion == r.2)

/-- A held cluster takes no command (R162, R403). -/
theorem exec_syncWordCycle_held (hno : s.NoFence) (hheld : s.heldClusters.contains (wordCluster word.toNat) = true)
    (l : List (BitVec 25 × Bool)) : exec (.syncWordCycle word ⟨l, []⟩) s = .next s := by
  have hs : { s with tt := { s.tt with flights := dropPosted [] s.tt.flights } } = s := rfl
  simp only [exec_syncWordCycle, execSyncWordCycle, hs, hheld, if_true, flush_noFence hno]
  rfl

/-- One command that reaches a word takes effect there. -/
theorem exec_syncWordCycle_one (hno : s.NoFence) (hword : wordIndex word.toNat ≠ 0x3FF)
    (hheld : s.heldClusters.contains (wordCluster word.toNat) = false) (hf : s.oldest word.toNat r = some f) :
    exec (.syncWordCycle word ⟨[r], []⟩) s = .next ((s.land f).atWord word.toNat f) := by
  have hs : { s with tt := { s.tt with flights := dropPosted [] s.tt.flights } } = s := rfl
  have htake : takeFlights word.toNat [r] (dropPosted [] s.tt.flights) = ([f], s.tt.flights.erase f) := by simp [takeFlights, dropPosted, hf]
  simp only [exec_syncWordCycle, execSyncWordCycle, hs, hheld, htake, hword, Bool.false_eq_true, if_false]
  exact congrArg Host.Outcome.next (flush_noFence (noFence_of_aside (land_noFence hno) (atWord_aside f)))

/-- One command that reaches index 0x3FF claims the lowest unclaimed word of the cluster (R156). -/
theorem exec_syncWordCycle_any (hword : wordIndex word.toNat = 0x3FF)
    (hheld : s.heldClusters.contains (wordCluster word.toNat) = false) (hf : s.oldest word.toNat r = some f) :
    exec (.syncWordCycle word ⟨[r], []⟩) s = .next ((s.land f).claimAny (wordCluster word.toNat) f).flush := by
  have hs : { s with tt := { s.tt with flights := dropPosted [] s.tt.flights } } = s := rfl
  have htake : takeFlights word.toNat [r] (dropPosted [] s.tt.flights) = ([f], s.tt.flights.erase f) := by simp [takeFlights, dropPosted, hf]
  simp only [exec_syncWordCycle, execSyncWordCycle, hs, hheld, htake, hword, Bool.false_eq_true, if_true, if_false, sortBy, insertBy, forEach,
    List.foldl, ok, State.land]

end Cycle

end Sys2Proof.Machine

/-! SUPPORT. Several commands at a word, and the obligations about words (R151, R153, R156, R162, R403). -/

namespace Sys2Proof.Machine

open Sys2Proof

variable {s t : State} {w : Nat}

/-! ## Serving a queue (R153) -/

/-- One waiter is answered with what is left once it has taken its share. -/
def handOut (w : Nat) (a : State × Nat) (q : Waiter) : State × Nat := (a.1.answerWait w q .ok (a.2 - q.operand), a.2 - q.operand)

theorem handOut_ports_congr (l : List Waiter) (v : Nat) (h : s.ports = t.ports) :
    (l.foldl (handOut w) (s, v)).1.ports = (l.foldl (handOut w) (t, v)).1.ports := by
  induction l generalizing s t v with
  | nil => exact h
  | cons q r ih => exact ih _ ((actsOnPorts_answerWait _ _ _ _).congr _ _ h)

theorem foldl_answerWait_congr (h : s.ports = t.ports) (l : List Waiter) :
    (l.foldl (fun a q => a.answerWait w q .ok 0) s).ports = (l.foldl (fun a q => a.answerWait w q .ok 0) t).ports :=
  (actsOnPorts_forEach (fun q => actsOnPorts_answerWait w q .ok 0) l).congr _ _ h

/-- What the queue's head takes of the count, waiter by waiter: `k` of them are served, the last that the count covers. -/
structure Served (w : Nat) (s t : State) (k : Nat) : Prop where
  word : t.word w = { s.word w with
    queue := (s.word w).queue.drop k, value := (s.word w).value - (((s.word w).queue.take k).map (·.operand)).sum }
  covered : (((s.word w).queue.take k).map (·.operand)).sum ≤ (s.word w).value
  stops : ∀ q, (t.word w).queue.head? = some q → (t.word w).value < q.operand
  others : ∀ u, u ≠ w → t.word u = s.word u
  ports : t.ports = (((s.word w).queue.take k).foldl (handOut w) (s, (s.word w).value)).1.ports
  rest : t = { s with tt := t.tt, ports := t.ports }

theorem serveQueue_served (h : s.Sound) : ∃ k, Served w s (s.serveQueue w (s.word w).queue) k := by
  generalize hl : (s.word w).queue = l
  induction l generalizing s with
  | nil => exact ⟨0, by simp [State.serveQueue], by simp, by simp [State.serveQueue, hl], fun _ _ => rfl, rfl, rfl⟩
  | cons q r ih =>
    dsimp only [State.serveQueue]
    split
    · next hq =>
      generalize hs1 : (s.setWord w { s.word w with value := (s.word w).value - q.operand, queue := r }).answerWait w q .ok
        ((s.word w).value - q.operand) = s1
      have hword : s1.word w = { s.word w with value := (s.word w).value - q.operand, queue := r } := by
        rw [← hs1, answerWait_word, word_setWord_same h]
      have hsound : s1.Sound := hs1 ▸ answerWait_sound (setWord_sound h)
      obtain ⟨k, hk⟩ := ih hsound (by rw [hword])
      have hr : (s1.word w).queue = r := by rw [hword]
      have hv : (s1.word w).value = (s.word w).value - q.operand := by rw [hword]
      refine ⟨k + 1, ?_, ?_, hk.stops, fun u hu => ?_, ?_, ?_⟩
      · rw [hk.word, hword, hl]
        simp [Nat.sub_sub]
      · have hc := hk.covered
        rw [hr, hv] at hc
        rw [hl]
        simp only [List.take_succ_cons, List.map_cons, List.sum_cons]
        omega
      · rw [hk.others u hu, ← hs1, answerWait_word, word_setWord_other hu]
      · rw [hk.ports, hr, hv, hl, List.take_succ_cons, List.foldl_cons, handOut, ← hs1]
        exact handOut_ports_congr _ _ ((actsOnPorts_answerWait _ _ _ _).congr _ _ rfl)
      · rw [hk.rest, ← hs1]
        rfl
    · next hq =>
      refine ⟨0, by simp, by simp, fun q' hq' => ?_, fun _ _ => rfl, rfl, rfl⟩
      rw [hl] at hq'
      cases hq'
      exact Nat.lt_of_not_le hq

/-- Every wait for zero is answered when the value is 0, and the word keeps its other parts. -/
theorem releaseDrain_spec (h : s.Sound) :
    (s.releaseDrain w).word w = { s.word w with drain := if (s.word w).value = 0 then [] else (s.word w).drain } ∧
      (∀ u, u ≠ w → (s.releaseDrain w).word u = s.word u) ∧
      (s.releaseDrain w).ports =
        ((if (s.word w).value = 0 then (s.word w).drain else []).foldl (fun a q => a.answerWait w q .ok 0) s).ports ∧
      s.releaseDrain w = { s with tt := (s.releaseDrain w).tt, ports := (s.releaseDrain w).ports } := by
  have hall := actsOnPorts_forEach (fun q => actsOnPorts_answerWait w q .ok 0) (s.word w).drain
  unfold State.releaseDrain
  dsimp only
  split
  · refine ⟨?_, fun u hu => ?_, hall.congr _ _ rfl, ?_⟩
    · exact (hall.word _ w).trans (word_setWord_same h)
    · exact (hall.word _ u).trans (word_setWord_other hu)
    · rw [hall.only]
      rfl
  · exact ⟨by simp, fun _ _ => rfl, rfl, rfl⟩

/-! ## Signals and failed checks at a word -/

section AtWord

variable {f : Flight}

/-- A command that fails a check at its word changes the shadow alone, and is answered with the status of the check (R151, R152). -/
theorem atWord_fails {st : CStatus} (h : wordCheck w (s.word w) f = some st) :
    ∃ x, s.atWord w f = ({ s with shadow := x } : State).answerFlight w f st (s.word w).value := by
  have hshadow : ∃ x, (if cTop f.cmd = 1 then s.setShadow w ((s.shadowOf w).signalled f)
      else if cTop f.cmd = 4 then s else s.setShadow w ((s.shadowOf w).reached (cTop f.cmd) false)) = { s with shadow := x } := by
    split_ifs
    · exact ⟨_, rfl⟩
    · exact ⟨_, rfl⟩
    · exact ⟨_, rfl⟩
  obtain ⟨x, hx⟩ := hshadow
  refine ⟨x, ?_⟩
  have hword : ({ s with shadow := x } : State).word w = s.word w := rfl
  simp only [State.atWord, hx, hword, h]

/-- A `SIG` that passes them takes effect (R145, R153), over words, ports and links as they were. -/
theorem land_signals (hs : s.Sound) (h : wordCheck w (s.word w) f = none) (htop : cTop f.cmd = 1) :
    ∃ u : State, (s.land f).atWord w f = u.signal w f ∧ u.Sound ∧ (∀ v, u.word v = s.word v) ∧ u.ports = s.ports ∧ u.link = s.link ∧
      u.topo = s.topo := by
  refine ⟨(s.land f).setShadow w (((s.land f).shadowOf w).signalled f), ?_, setShadow_sound (land_sound hs), fun _ => rfl, rfl, rfl, rfl⟩
  have hword : ((s.land f).setShadow w (((s.land f).shadowOf w).signalled f)).word w = s.word w := rfl
  simp only [State.atWord, htop, if_true, hword, h]

/-- A `SIG` to a flag with waiters answers the head waiter and then the signaller. -/
theorem signal_flag {q : Waiter} {l : List Waiter} (hm : (s.word w).mode = .flag) (hq : (s.word w).queue = q :: l) :
    s.signal w f = ((s.setWord w { s.word w with queue := l }).answerWait w q .ok 0).answerFlight w f .ok (s.word w).value := by
  simp only [State.signal, hm, hq, if_true]

/-- A `SIG` to a count serves the queue, then the waits for zero, and answers the signaller with what is left. -/
theorem signal_count (h : s.Sound) (hm : (s.word w).mode = .count) : ∃ k,
    let x := s.word w
    let full := decide (1048575 < x.value + cOperand f.cmd)
    let sum := min (x.value + cOperand f.cmd) 1048575
    let left := sum - ((x.queue.take k).map (·.operand)).sum
    let t := s.signal w f
    t.word w = { x with value := left, ovf := x.ovf || full, queue := x.queue.drop k, drain := if left = 0 then [] else x.drain } ∧
      ((x.queue.take k).map (·.operand)).sum ≤ sum ∧ (∀ q, (x.queue.drop k).head? = some q → left < q.operand) ∧
      (∀ u, u ≠ w → t.word u = s.word u) ∧
      t.ports = (((if left = 0 then x.drain else []).foldl (fun a q => a.answerWait w q .ok 0)
        ((x.queue.take k).foldl (handOut w) (s, sum)).1).answerFlight w f (if full then .overfill else .ok) left).ports ∧
      t.link = (s.answerFlight w f (if full then .overfill else .ok) left).link := by
  have hne : ¬(s.word w).mode = .flag := by rw [hm]; decide
  have hsum : (if decide (1048575 < (s.word w).value + cOperand f.cmd) = true then 1048575 else (s.word w).value + cOperand f.cmd) =
      min ((s.word w).value + cOperand f.cmd) 1048575 := by
    simp only [decide_eq_true_eq]
    split <;> omega
  generalize hs1 : s.setWord w { s.word w with
    value := min ((s.word w).value + cOperand f.cmd) 1048575
    ovf := (s.word w).ovf || decide (1048575 < (s.word w).value + cOperand f.cmd) } = s1
  have hword : s1.word w = { s.word w with
      value := min ((s.word w).value + cOperand f.cmd) 1048575
      ovf := (s.word w).ovf || decide (1048575 < (s.word w).value + cOperand f.cmd) } := by
    rw [← hs1, word_setWord_same h]
  have hsound1 : s1.Sound := hs1 ▸ setWord_sound h
  have hqueue : (s1.word w).queue = (s.word w).queue := by rw [hword]
  obtain ⟨k, hk⟩ := serveQueue_served (w := w) hsound1
  have hsound2 : (s1.serveQueue w (s1.word w).queue).Sound := (kept_serveQueue _ _ (sound_kept hsound1)).sound
  obtain ⟨hd, hdo, hdp, hdr⟩ := releaseDrain_spec (w := w) hsound2
  generalize hs2 : s1.serveQueue w (s1.word w).queue = s2 at hk hd hdo hdp hdr
  have hsig : s.signal w f = (s2.releaseDrain w).answerFlight w f
      (if decide (1048575 < (s.word w).value + cOperand f.cmd) = true then .overfill else .ok) ((s2.releaseDrain w).word w).value := by
    simp only [State.signal, hne, if_false, hsum, hs1, ← hs2, hqueue]
  have hk2 := hk.word
  rw [hword] at hk2
  refine ⟨k, ?_⟩
  intro x full sum left t
  have hleft : ((s2.releaseDrain w).word w).value = left := by rw [hd, hk2]
  have hval : (s2.word w).value = left := by rw [hk2]
  have hdrain : (s2.word w).drain = x.drain := by rw [hk2]
  have ht : t = (s2.releaseDrain w).answerFlight w f (if full then .overfill else .ok) left := by
    simp only [t, hsig, hleft, full, x]
  have hcov := hk.covered
  have hstops := hk.stops
  have hports := hk.ports
  rw [hword] at hcov hports
  rw [hval, hk2] at hstops
  rw [hval, hdrain] at hdp
  refine ⟨?_, hcov, hstops, fun u hu => ?_, ?_, ?_⟩
  · rw [ht, answerFlight_word, hd, hval, hk2]
  · rw [ht, answerFlight_word, hdo u hu, hk.others u hu, ← hs1, word_setWord_other hu]
  · rw [ht]
    refine answerFlight_ports_congr (hdp.trans (foldl_answerWait_congr ?_ _))
    rw [hports, handOut_ports_congr]
    rw [← hs1]
    rfl
  · rw [ht]
    exact answerFlight_link_congr (by rw [hdr, hk.rest, ← hs1]; rfl) (by rw [hdr, hk.rest, ← hs1]; rfl)

end AtWord

/-- Settles O14: one command at its word, by the check it fails or by the mode of the word. -/
theorem signalsServeWaiters : Obligations.SignalsServeWaiters := by
  unfold Obligations.SignalsServeWaiters
  intro s word r f hs hno hidx w x
  refine ⟨exec_syncWordCycle_held hno, fun hheld hf => ?_⟩
  have hexec := exec_syncWordCycle_one hno (by omega) hheld hf
  have haside := atWord_aside (s := s.land f) (w := w) f
  have hrest := rest_atWord w f (s.land f).rest_refl
  have hflights : ((s.land f).atWord w f).tt.flights = s.tt.flights.erase f := congrArg Prod.fst haside
  have hchans : ((s.land f).atWord w f).tt.chans = s.tt.chans := congrArg Prod.snd haside
  refine ⟨fun st hst => ?_, fun hok htop hm q l hq => ?_, fun hok htop hm => ?_⟩
  · obtain ⟨y, hy⟩ := atWord_fails (s := s.land f) hst
    refine ⟨_, hexec, ?_, ?_, hflights, hrest.mem⟩
    · rw [hy, answerFlight_tt]
      rfl
    · rw [hy]
      exact answerFlight_ports_congr rfl
  · obtain ⟨u, hat, husound, huword, huports, -, -⟩ := land_signals hs hok htop
    rw [signal_flag (s := u) (by rw [huword]; exact hm) (by rw [huword]; exact hq), huword] at hat
    refine ⟨_, hexec, ?_, fun v hv => ?_, ?_, hchans, hrest.mem⟩
    · rw [hat, answerFlight_word, answerWait_word, word_setWord_same husound]
    · rw [hat, answerFlight_word, answerWait_word, word_setWord_other hv, huword]
    · rw [hat]
      exact answerFlight_ports_congr ((actsOnPorts_answerWait _ _ _ _).congr _ _ huports)
  · obtain ⟨u, hat, husound, huword, huports, hulink, hutopo⟩ := land_signals hs hok htop
    obtain ⟨k, hw, hcov, hstops, hothers, hports, hlink⟩ := signal_count (f := f) husound (w := w) (by rw [huword]; exact hm)
    rw [← hat] at hw hothers hports hlink
    rw [huword] at hw hcov hstops hports hlink
    refine ⟨_, k, hexec, ?_, fun v hv => (hothers v hv).trans (huword v), hchans, hrest.mem, hrest.led⟩
    rw [hw]
    refine ⟨rfl, Nat.sub_add_cancel hcov, hstops, rfl, rfl, rfl, rfl, rfl, rfl, rfl, rfl, rfl, ?_, ?_⟩
    · rw [hports]
      exact answerFlight_ports_congr (foldl_answerWait_congr (handOut_ports_congr _ _ huports) _)
    · rw [hlink]
      exact answerFlight_link_congr hulink hutopo

/-! ## A command that waits, sent to index 0x3FF -/

/-- A `WAIT` of position 0 in flight to index 0x3FF of its cluster, which only a `CLAIM` may name (R150). -/
def strayWait : Flight := { cmd := ttCommand 2 0x3FF, issuer := 0, via := .port }

/-- Word 0 of cluster 0 is unclaimed, and position 0 has an outstanding wait on index 0x3FF. -/
def strayWaiting : State :=
  { State.reset with
    tt := { words := [(0, { wordDefault 0 0 with own := .unclaimed })], chans := [], flights := [strayWait] }
    ports := [(0, { Port.reset with waits := [(false, 0x3FF)] })] }

/-- `strayWaiting` once the command has been taken for a `CLAIM`. -/
def strayWaitAnswered : State := ((strayWaiting.land strayWait).claimAny 0 strayWait).flush

theorem strayWaiting_sound : strayWaiting.Sound :=
  { State.reset_sound with ports_wf := by decide, words_up := by decide }

theorem exec_strayWait : exec (.syncWordCycle 0x3FF ⟨[(0, false)], []⟩) strayWaiting = .next strayWaitAnswered :=
  exec_syncWordCycle_any rfl rfl (by decide)

/-- The wait that ends is that of the word claimed, which the position does not have. -/
theorem strayWaitAnswered_waits : (strayWaitAnswered.port 0).waits = [(false, 0x3FF)] := by decide +kernel

/-- The answer to the command itself would end its own wait. -/
theorem strayWait_answer_waits : ((strayWaiting.answerFlight 0x3FF strayWait .ok 0).port 0).waits = [] := by decide +kernel

/-- Refutes O13: nothing in the statement about index 0x3FF says that the command is a `CLAIM`. A `WAIT` that stands in flight to that index is
taken for one, and the wait that ends is that of the claimed word's index, where the statement has that of index 0x3FF. -/
theorem not_syncCommandsTakeEffect : ¬ Obligations.SyncCommandsTakeEffect := by
  unfold Obligations.SyncCommandsTakeEffect
  rintro ⟨-, -, h⟩
  obtain ⟨-, -, hclaim⟩ := h strayWaiting 0x3FF (0, false) strayWait strayWaiting_sound (by decide) rfl rfl (by decide)
  obtain ⟨t, hexec, -, -, -, hports, -⟩ := hclaim 0 (by decide) (by decide) (by decide) (fun j hj => absurd hj (Nat.not_lt_zero j))
  have ht : t = strayWaitAnswered := Host.Outcome.next.inj (hexec.symm.trans exec_strayWait)
  have hwaits := congrArg Port.waits (port_congr hports 0)
  rw [ht, strayWaitAnswered_waits] at hwaits
  exact absurd (hwaits.trans strayWait_answer_waits) (by decide)

end Sys2Proof.Machine

/-! SUPPORT. Messages on their way: taken here, or sent on along their route (R171, R204, R300, R305). -/

namespace Sys2Proof.Machine

open Sys2Proof

variable {s : State} {l vc dst : Nat} {m : Msg} {mine : Msg → Bool} {f : Msg → State → State}

/-- A row finds no message, or the chip is stalled. -/
theorem onMsg_none (h : s.headMsg l vc = none ∨ (vc ≠ 0 ∧ s.rootStalled = true)) : s.onMsg l vc mine f = s := by
  unfold State.onMsg
  rcases h with h | ⟨hvc, hst⟩
  · rw [h]
  · have : (vc == 0) = false := by simpa using hvc
    split
    · rfl
    · simp [this, hst]

/-- A row takes the oldest message, which is of its kind. -/
theorem onMsg_takes (h : s.headMsg l vc = some m) (hst : vc = 0 ∨ s.rootStalled = false) (hm : mine m = true) :
    s.onMsg l vc mine f = f m (s.modLnk l (Link.dropMsg vc)) := by
  have hfree : (vc == 0 || !s.rootStalled) = true := by rcases hst with h | h <;> simp [h]
  simp only [State.onMsg, h, hm, hfree, Bool.and_self, if_true]

/-- A message for another chip goes on. -/
theorem consumeOrForward_elsewhere {g : State → State} (h : s.topo.rigValid = false ∨ s.topo.chip ≠ dst) :
    s.consumeOrForward vc dst m g = s.sendMsg vc dst m := by
  have : (s.topo.rigValid && s.topo.chip == dst) = false := by rcases h with h | h <;> simp [h]
  simp only [State.consumeOrForward, this, Bool.false_eq_true, if_false]

/-- A message for this chip is consumed here. -/
theorem consumeOrForward_here {g : State → State} (hv : s.topo.rigValid = true) (h : s.topo.chip = dst) :
    s.consumeOrForward vc dst m g = g (s.countRecv vc) := by
  simp only [State.consumeOrForward, hv, h, beq_self_eq_true, Bool.and_self, if_true]

/-- A row that takes the oldest message of its kind on a channel, and sends it on where it is for another chip. -/
structure Forwards (i : Instr) (l vc : Nat) (mine : Msg → Bool) (dst : Msg → Nat) : Prop where
  waits : ∀ s : State, s.headMsg l vc = none ∨ (vc ≠ 0 ∧ s.rootStalled = true) → exec i s = .next s
  goesOn : ∀ (s : State) (m : Msg), s.headMsg l vc = some m → (vc = 0 ∨ s.rootStalled = false) → mine m = true →
    (s.topo.rigValid = false ∨ s.topo.chip ≠ dst m) → exec i s = .next ((s.modLnk l (Link.dropMsg vc)).sendMsg vc (dst m) m)

/-- A row is one once it is a message row whose effect, where the message is its own, goes through `consumeOrForward`. -/
theorem forwards_of {i : Instr} {own : Msg → Bool} {d : Msg → Nat} (run : Msg → State → State)
    (hexec : ∀ s, exec i s = .next (s.onMsg l vc mine f)) (hown : ∀ m, own m = true → mine m = true)
    (hf : ∀ m s, own m = true → f m s = s.consumeOrForward vc (d m) m (run m)) : Forwards i l vc own d where
  waits s h := by rw [hexec, onMsg_none h]
  goesOn s m h hst hm helse := by
    rw [hexec, onMsg_takes h hst (hown m hm), hf m _ hm]
    exact congrArg _ (consumeOrForward_elsewhere helse)

/-- Settles O16: each row is one that forwards; a fault report does so unless it is for every chip. -/
theorem messagesForOtherChipsGoOn : Obligations.MessagesForOtherChipsGoOn := by
  unfold Obligations.MessagesForOtherChipsGoOn
  intro s l lost r hr
  suffices h : Forwards r.1 l r.2.1 r.2.2.1 r.2.2.2 from ⟨h.waits s, h.goesOn s⟩
  simp only [List.mem_cons, List.not_mem_nil, or_false] at hr
  rcases hr with rfl | rfl | rfl | rfl | rfl | rfl | rfl | rfl | rfl | rfl | rfl | rfl | rfl | rfl
  case inr.inr.inr.inr.inr.inr.inr.inr.inr.inl =>
    refine forwards_of (fun m s => s.hearReport m) (fun _ => rfl) (fun m hm => ?_) (fun m s hm => ?_)
    · simp only [Bool.and_eq_true] at hm
      exact hm.1
    · simp only [Bool.and_eq_true, decide_eq_true_eq] at hm
      exact if_neg hm.2
  all_goals exact forwards_of _ (fun _ => rfl) (fun m hm => hm) (fun m s _ => rfl)

end Sys2Proof.Machine

/-! SUPPORT. Barrier channels: waits that end, and the steps of a release (R153, R165, R169, R410, R413). -/

namespace Sys2Proof.Machine

open Sys2Proof

variable {s t : State} {ch : Nat}

theorem setChan_sound {x : Channel} (h : s.Sound) : (s.setChan ch x).Sound := (kept_setChan _ _ (sound_kept h)).sound

/-- Equal tables of channels read alike. -/
theorem chan_congr (h : s.tt.chans = t.tt.chans) (k : Nat) : s.chan k = t.chan k := by simp only [State.chan, h]

/-! ## Waits that end -/

/-- Barrier waiters are answered, in the order of their positions. -/
def State.answerAll (s : State) (ch : Nat) (l : List BWaiter) (st : CStatus) (v : Nat) : State :=
  (sortBy BWaiter.pos l).foldl (fun a q => (a.endWait q.pos true ch).answer q.pos st q.top ch v) s

theorem actsOnPorts_answerAll (ch : Nat) (l : List BWaiter) (st : CStatus) (v : Nat) : ActsOnPorts (fun s => s.answerAll ch l st v) :=
  actsOnPorts_forEach (fun q => actsOnPorts_answerBarrier ch q st v) _

/-- The channel keeps its other waits, and its other parts are as `x` gives them; of the rest only ports change, by the answers to `gone`. -/
structure ChanAnswers (s t : State) (ch : Nat) (x : Channel) (gone : List BWaiter) (st : CStatus) (v : Nat) : Prop where
  chan : t.chan ch = x
  others : ∀ k, k ≠ ch → t.chan k = s.chan k
  ports : t.ports = (s.answerAll ch gone st v).ports
  only : t = { s with tt := { s.tt with chans := t.tt.chans }, ports := t.ports }

/-- Waiters that satisfy a test are taken off a channel, which `x` has replaced, and answered. -/
theorem endBarrierWaits_answers {x : Channel} {mine : BWaiter → Bool} {st : CStatus} {v : Nat} (h : s.Sound) :
    ChanAnswers s ((s.setChan ch x).endBarrierWaits ch mine st v) ch { x with waits := x.waits.filter (fun w => !mine w) }
      (x.waits.filter mine) st v := by
  have hall := actsOnPorts_answerAll ch (x.waits.filter mine) st v
  have hset := setChan_sound (ch := ch) (x := x) h
  have heq : (s.setChan ch x).endBarrierWaits ch mine st v = State.answerAll
      ((s.setChan ch x).setChan ch { x with waits := x.waits.filter (fun w => !mine w) }) ch (x.waits.filter mine) st v := by
    simp only [State.endBarrierWaits, chan_setChan_same h]
    rfl
  rw [heq]
  refine ⟨?_, fun k hk => ?_, hall.congr _ _ rfl, ?_⟩
  · rw [hall.chan, chan_setChan_same hset]
  · rw [hall.chan, chan_setChan_other hk, chan_setChan_other hk]
  · rw [hall.only]
    rfl

/-- The waiters that a step of a release answers. -/
def BWaiter.inStep (phase steps i : Nat) (q : BWaiter) : Bool := decide (q.phase = phase) && decide (stepOf steps q.pos = i)

/-- Step `r.next` of a release answers the waiters of its clusters, and the release is over after its last step (R169). -/
theorem releaseStepAt_answers {r : Release} (h : s.Sound) :
    ChanAnswers s (s.releaseStepAt ch r) ch { s.chan ch with
        rel := if r.next + 1 < r.steps then some { r with next := r.next + 1 } else none
        waits := (s.chan ch).waits.filter (fun q => !q.inStep r.phase r.steps r.next) }
      ((s.chan ch).waits.filter (BWaiter.inStep r.phase r.steps r.next)) .ok ((s.chan ch).lastDrift.getD 0) :=
  endBarrierWaits_answers h

/-- The decision of a release gives its pulse and takes its first step (R410). -/
theorem decideRelease_eq (n k : Nat) : s.decideRelease ch n k =
    (s.pulse (.release s.rampLog k)).releaseStepAt ch { phase := n, steps := 2 ^ s.rampLog, next := 0, fleet := none } := rfl

/-! ## The rows -/

/-- A wait on a word that a timeout ends leaves the word alone but for its queue (R153). -/
theorem waitTimeout_ends {word : BitVec 16} {p : Pos} {q : Waiter} (h : s.Sound)
    (hq : (s.word word.toNat).waiters.find? (fun q => q.pos == p.val && q.tmo != 0) = some q) :
    ∃ t, exec (.waitTimeout word p) s = .next t ∧
      t.word word.toNat = { s.word word.toNat with queue := (s.word word.toNat).queue.erase q, drain := (s.word word.toNat).drain.erase q } ∧
      (∀ u, u ≠ word.toNat → t.word u = s.word u) ∧
      t.ports = ((s.endWait p false word.toNat).answer p .timeout 2 word.toNat (s.word word.toNat).value).ports ∧
      t.tt.chans = s.tt.chans ∧ t = { s with tt := t.tt, ports := t.ports } := by
  have hpos : q.pos = p.val := by
    have := List.find?_some hq
    simp only [Bool.and_eq_true, beq_iff_eq] at this
    exact this.1
  have hwait := actsOnPorts_answerWait word.toNat q .timeout (s.word word.toNat).value
  have hexec : exec (.waitTimeout word p) s = .next ((s.setWord word.toNat { s.word word.toNat with
      queue := (s.word word.toNat).queue.erase q, drain := (s.word word.toNat).drain.erase q }).answerWait word.toNat q .timeout
      (s.word word.toNat).value) := by
    simp only [exec_waitTimeout, execWaitTimeout, hq, ok]
  refine ⟨_, hexec, ?_, fun u hu => ?_, ?_, rfl, rfl⟩
  · exact (hwait.word _ _).trans (word_setWord_same h)
  · exact (hwait.word _ u).trans (word_setWord_other hu)
  · rw [← hpos]
    exact hwait.congr _ _ rfl

/-- A barrier wait that a timeout ends leaves its channel, and the arrival stays counted (R165). -/
theorem barrierWaitTimeout_ends {c : Fin 64} {w : TimedWait} {q : BWaiter} (h : s.Sound) (hq : ((s.chan c).timed w.pos)[w.nth.val]? = some q) :
    ∃ t, exec (.barrierWaitTimeout c w) s = .next t ∧ t.chan c = { s.chan c with waits := (s.chan c).waits.erase q } ∧
      (∀ i, i ≠ c.val → t.chan i = s.chan i) ∧ t.tt.words = s.tt.words ∧ t = { s with tt := t.tt, ports := t.ports } ∧
      t.ports = ((s.endWait w.pos true c).answer w.pos .timeout q.top c 0).ports := by
  have hpos : q.pos = w.pos.val := by
    have := List.of_mem_filter (List.mem_of_getElem? hq)
    simp only [Bool.and_eq_true, decide_eq_true_eq] at this
    exact this.1
  have hexec : exec (.barrierWaitTimeout c w) s =
      .next ((s.setChan c { s.chan c with waits := (s.chan c).waits.erase q }).answerBarrier c q .timeout 0) := by
    simp only [exec_barrierWaitTimeout, execBarrierWaitTimeout, hq, ok]
  refine ⟨_, hexec, chan_setChan_same h, fun i hi => chan_setChan_other hi, rfl, rfl, ?_⟩
  rw [← hpos]
  exact (actsOnPorts_answerBarrier c q .timeout 0).congr _ _ rfl

/-- Settles O15: each row by whether there is a wait or a release for it. -/
theorem waitsAndReleases : Obligations.WaitsAndReleases := by
  unfold Obligations.WaitsAndReleases
  intro s word ch p k hs w x y timed answered now
  refine ⟨fun hq => ?_, fun q hq => waitTimeout_ends hs hq, fun hq => ?_, fun q hq => ?_, fun hr => ?_, fun r hr hf => ?_, fun hr => ?_,
    fun r d hr hf => ?_⟩
  · simp only [exec_waitTimeout, execWaitTimeout]
    rw [hq]
    rfl
  · have htimed : (s.chan ch).timed p = timed := by simp [Channel.timed, timed, y]
    simp only [exec_barrierWaitTimeout, execBarrierWaitTimeout, htimed]
    rw [hq]
    rfl
  · have htimed : (s.chan ch).timed p = timed := by simp [Channel.timed, timed, y]
    exact barrierWaitTimeout_ends (w := ⟨p, k⟩) hs (by rw [htimed]; exact hq)
  · simp only [exec_releaseStep, execReleaseStep]
    cases hrel : (s.chan ch).rel with
    | none => rfl
    | some r =>
      have hfleet : r.fleet.isSome = true := by simpa [y, hrel] using hr
      simp only [hfleet, if_true, ok]
  · have hexec : exec (.releaseStep ch) s = .next (s.releaseStepAt ch r) := by
      simp only [exec_releaseStep, execReleaseStep]
      rw [hr]
      simp only [hf]
      rfl
    have ha := releaseStepAt_answers (ch := ch) (r := r) hs
    exact ⟨_, hexec, ha.chan, ha.ports, ha.others, by rw [ha.only], by rw [ha.only]⟩
  · simp only [exec_fleetWaitExpiry, execFleetWaitExpiry]
    cases hrel : (s.chan ch).rel with
    | none => rfl
    | some r => simp only [hr r hrel]; rfl
  · have hexec : exec (.fleetWaitExpiry ch) s = .next (s.decideRelease ch r.phase d) := by
      simp only [exec_fleetWaitExpiry, execFleetWaitExpiry]
      rw [hr]
      simp only [hf]
      rfl
    have ha := releaseStepAt_answers (s := s.pulse (.release s.rampLog d)) (ch := ch)
      (r := { phase := r.phase, steps := 2 ^ s.rampLog, next := 0, fleet := none }) hs
    exact ⟨_, hexec, by rw [decideRelease_eq, ha.only]; rfl, ha.chan, ha.ports.trans ((actsOnPorts_answerAll _ _ _ _).congr _ _ rfl),
      ha.others, by rw [decideRelease_eq, ha.only]; rfl, by rw [decideRelease_eq, ha.only]; rfl⟩

end Sys2Proof.Machine

/-! SUPPORT. How a phase is counted and ends: messages over the tree, the pre-warn, the trim check, the release (R165, R168 to R170, R175,
R176, R410, R412). -/

namespace Sys2Proof.Machine

open Sys2Proof

variable {s t : State} {ch : Nat} {g : Group}

/-! ## Barrier messages (R165, R167, R170) -/

/-- An operation that changes the links alone, and by the links and the topology alone. -/
structure ActsOnLink (f : State → State) : Prop where
  only : ∀ s, f s = { s with link := (f s).link }
  congr : ∀ s t : State, s.link = t.link → s.topo = t.topo → (f s).link = (f t).link

theorem ActsOnLink.topo {f : State → State} (hf : ActsOnLink f) (s : State) : (f s).topo = s.topo := by rw [hf.only]

theorem ActsOnLink.tt {f : State → State} (hf : ActsOnLink f) (s : State) : (f s).tt = s.tt := by rw [hf.only]

theorem ActsOnLink.chan {f : State → State} (hf : ActsOnLink f) (s : State) (k : Nat) : (f s).chan k = s.chan k := by
  rw [hf.only]
  rfl

theorem ActsOnLink.comp {f g : State → State} (hf : ActsOnLink f) (hg : ActsOnLink g) : ActsOnLink (fun s => f (g s)) where
  only s := by rw [hf.only (g s), hg.only s]
  congr s t hl ht := hf.congr _ _ (hg.congr s t hl ht) (by rw [hg.topo, hg.topo, ht])

theorem actsOnLink_forEach {α : Type} {f : α → State → State} (hf : ∀ x, ActsOnLink (f x)) (l : List α) : ActsOnLink (forEach l f) := by
  induction l with
  | nil => exact ⟨fun _ => rfl, fun _ _ h _ => h⟩
  | cons x r ih => exact ih.comp (hf x)

/-- A message from this chip, whose contents rest on the topology. -/
theorem actsOnLink_originate (vc chip : Nat) (m : Topo → Msg) : ActsOnLink (fun s => s.originate vc chip (m s.topo)) where
  only s := by
    have hcount : s.countSent vc = { s with link := (s.countSent vc).link } := by
      unfold State.countSent
      split
      · rfl
      · split <;> rfl
    dsimp only [State.originate, State.sendMsg]
    split
    · exact hcount
    · rw [hcount]
      rfl
  congr s t hl ht := by
    rw [ht]
    exact originate_link_congr hl ht _ _ _

theorem actsOnLink_barrierTo (chips : List Nat) (kind ch operand phase : Nat) (trim : Bool) :
    ActsOnLink (fun s => s.barrierTo chips kind ch operand phase trim) :=
  actsOnLink_forEach (fun c => actsOnLink_originate 1 c
    (fun p => syncMsg kind 0 c 0 ch (p.chip * 1024) operand (phase % 2) (flag trim) 0)) chips

/-! ## The pre-warn (R170, R412) -/

/-- The pre-warn goes out: the channel notes it, and the pulse leaves. -/
def State.warned (s : State) (ch : Nat) : State := (s.setChan ch { s.chan ch with prewarned := true }).pulse (.prewarn ch)

theorem prewarn_eq : s.prewarn ch = if (s.chan ch).prewarned then s else s.warned ch := rfl

theorem warned_sound (h : s.Sound) : (s.warned ch).Sound := setChan_sound h

/-- The count at the root has reached the share at which the pre-warn is due. -/
def State.prewarnDue (s : State) (ch : Nat) (g : Group) : Bool :=
  s.hasRoot g && !(s.chan ch).prewarned && decide (prewarnAt (s.policy 0x40) g.nmemb ≤ s.rootCount ch g)

theorem checkPrewarn_not_due (h : s.prewarnDue ch g = false) : s.checkPrewarn ch g = s := if_neg (ne_true_of_eq_false h)

theorem checkPrewarn_due (h : s.prewarnDue ch g = true) :
    s.checkPrewarn ch g = (s.warned ch).barrierTo (s.childChips g) 6 ch 0 (s.chan ch).phase false := by
  have hno : (s.chan ch).prewarned = false := by
    simp only [State.prewarnDue, Bool.and_eq_true, Bool.not_eq_true'] at h
    exact h.1.2
  have hwarned : s.prewarn ch = s.warned ch := by rw [prewarn_eq, hno]; rfl
  rw [← hwarned]
  exact if_pos h

/-! ## The end of a phase (R165, R413) -/

/-- The channel in its next phase, its release not yet decided. -/
def Channel.next (x : Channel) (drift : Option Nat) (skew : Nat) : Channel :=
  { x with
    phase := x.phase + 1, arrived := [], trim := false, nodes := [], sentUp := false, prewarned := false, lastDrift := drift,
    rel := some { phase := x.phase, steps := 1, next := 0, fleet := some skew } }

/-- The chip with the phase over, the pre-warn given where it was still due. -/
def State.phaseOver (s : State) (ch : Nat) (drift : Option Nat) : State :=
  (if (s.chan ch).prewarned then s else s.warned ch).setChan ch ((s.chan ch).next drift (s.fleetSkew ch))

theorem phaseOver_sound (h : s.Sound) (drift : Option Nat) : (s.phaseOver ch drift).Sound := by
  unfold State.phaseOver
  split
  · exact setChan_sound h
  · exact setChan_sound (warned_sound h)

theorem phaseOver_chan (h : s.Sound) (drift : Option Nat) : (s.phaseOver ch drift).chan ch = (s.chan ch).next drift (s.fleetSkew ch) := by
  unfold State.phaseOver
  split
  · exact chan_setChan_same h
  · exact chan_setChan_same (warned_sound h)

theorem phaseOver_chan_other {k : Nat} (hk : k ≠ ch) (drift : Option Nat) : (s.phaseOver ch drift).chan k = s.chan k := by
  unfold State.phaseOver
  split
  · exact chan_setChan_other hk
  · exact (chan_setChan_other hk).trans (chan_setChan_other hk)

/-- Beside the channel only the pulse to the power manager shows it. -/
theorem phaseOver_only (drift : Option Nat) : s.phaseOver ch drift = { s with
    tt := { s.tt with chans := (s.phaseOver ch drift).tt.chans }
    out := { s.out with pm := (if (s.chan ch).prewarned then [] else [.prewarn ch]) ++ s.out.pm } } := by
  unfold State.phaseOver
  split <;> rfl

/-- The phase ends, and where no fleet wait stands before it the release is decided. -/
theorem endPhase_eq (h : s.Sound) (drift : Option Nat) : s.endPhase ch drift =
    if s.fleetSkew ch = 0 then (s.phaseOver ch drift).decideRelease ch (s.chan ch).phase 0 else s.phaseOver ch drift := by
  by_cases hp : (s.chan ch).prewarned = true
  · have hpre : s.prewarn ch = s := by rw [prewarn_eq, if_pos hp]
    simp only [State.endPhase, hpre, State.phaseOver, hp, if_true]
    rfl
  · have hpre : s.prewarn ch = s.warned ch := by rw [prewarn_eq, if_neg hp]
    have hchan : (s.warned ch).chan ch = { s.chan ch with prewarned := true } := chan_setChan_same h
    have hskew : (s.warned ch).fleetSkew ch = s.fleetSkew ch := by
      simp only [State.fleetSkew, hchan]
      rfl
    simp only [State.endPhase, hpre, hskew, hchan, State.phaseOver, hp, State.modChan]
    rfl

end Sys2Proof.Machine

/-! SUPPORT. The trim check and the release of a phase (R165, R169, R175, R176, R410, R412, R413), and the commands in flight, which no operation
on a channel touches. -/

namespace Sys2Proof.Machine

open Sys2Proof

variable {s t : State} {ch : Nat} {g : Group}

/-! ## The trim check (R175, R176) -/

/-- A drifted word once it is marked, and put back to its baseline where nobody waits on it. -/
def SyncWord.trimmed (x : SyncWord) : SyncWord := { x with drift := true, value := if x.waiters.isEmpty then x.base else x.value }

/-- Its entry in the drift log. -/
def State.driftEntry (s : State) (w : Nat) : DriftEntry :=
  { word := BitVec.ofNat 16 w, value := (s.word w).value, base := (s.word w).base, waited := !(s.word w).waiters.isEmpty }

/-- `t` differs from `s` at most in the words, the shadows with their logs, the counters and the free values. -/
def State.TrimOnly (s t : State) : Prop :=
  t = { s with tt := { s.tt with words := t.tt.words }, shadow := t.shadow, counters := t.counters, free := t.free }

theorem State.TrimOnly.trans {u : State} (h : s.TrimOnly t) (h' : t.TrimOnly u) : s.TrimOnly u := by
  unfold State.TrimOnly at h h' ⊢
  rw [h', h]

theorem State.TrimOnly.chan (h : s.TrimOnly t) (k : Nat) : t.chan k = s.chan k := by
  rw [h]
  rfl

theorem trimWord_eq (w : Nat) : s.trimWord w = (s.setWord w (s.word w).trimmed).logDrift (s.driftEntry w) := by
  have h : (s.word w).trimmed = { s.word w with
      drift := true, value := if (!(s.word w).waiters.isEmpty) = true then (s.word w).value else (s.word w).base } := by
    cases hw : (s.word w).waiters.isEmpty <;> simp [SyncWord.trimmed, hw]
  rw [h]
  rfl

theorem logDrift_word (e : DriftEntry) (v : Nat) : (s.logDrift e).word v = s.word v := by
  unfold State.logDrift
  split <;> rfl

theorem trimWord_only (w : Nat) : s.TrimOnly (s.trimWord w) := by
  rw [trimWord_eq]
  unfold State.logDrift
  split <;> rfl

theorem trimWord_sound {w : Nat} (h : s.Sound) : (s.trimWord w).Sound := (kept_trimWord _ (sound_kept h)).sound

theorem trimWord_word_same {w : Nat} (h : s.Sound) : (s.trimWord w).word w = (s.word w).trimmed := by
  rw [trimWord_eq, logDrift_word, word_setWord_same h]

theorem trimWord_word_other {w v : Nat} (hv : v ≠ w) : (s.trimWord w).word v = s.word v := by
  rw [trimWord_eq, logDrift_word, word_setWord_other hv]

theorem trimWord_driftLog {w : Nat} (h : s.shadow.driftLog.length < 64) :
    (s.trimWord w).shadow.driftLog = s.shadow.driftLog ++ [s.driftEntry w] := by
  rw [trimWord_eq]
  unfold State.logDrift
  split
  · rfl
  · next hno => exact absurd h hno

/-- The check of some words one by one marks each of them, and logs each while there is room. -/
structure Trimmed (l : List Nat) (s t : State) : Prop where
  word : ∀ v, t.word v = if l.contains v then (s.word v).trimmed else s.word v
  log : s.shadow.driftLog.length + l.length ≤ 64 → t.shadow.driftLog = s.shadow.driftLog ++ l.map s.driftEntry
  only : s.TrimOnly t
  sound : t.Sound

theorem trimmed_nil (h : s.Sound) : Trimmed [] s s := ⟨fun _ => rfl, fun _ => by simp, rfl, h⟩

theorem forEach_trimWord {l : List Nat} (h : s.Sound) (hl : l.Nodup) : Trimmed l s (forEach l State.trimWord s) := by
  induction l generalizing s with
  | nil => exact trimmed_nil h
  | cons w r ih =>
    obtain ⟨hw, hr⟩ := List.nodup_cons.mp hl
    have hrest := ih (trimWord_sound (w := w) h) hr
    have hentry : r.map (s.trimWord w).driftEntry = r.map s.driftEntry := by
      refine List.map_congr_left fun v hv => ?_
      have hne : v ≠ w := fun e => hw (e ▸ hv)
      simp only [State.driftEntry, trimWord_word_other hne]
    refine ⟨fun v => ?_, fun hroom => ?_, (trimWord_only w).trans hrest.only, hrest.sound⟩
    · refine (hrest.word v).trans ?_
      by_cases hv : v = w
      · subst hv
        simp [hw, trimWord_word_same h]
      · simp [hv, trimWord_word_other hv]
    · simp only [List.length_cons] at hroom
      have hlog := trimWord_driftLog (s := s) (w := w) (by omega)
      refine (hrest.log ?_).trans ?_
      · rw [hlog, List.length_append, List.length_singleton]
        omega
      · rw [hlog, hentry, List.append_assoc]
        rfl

theorem driftedWords_nodup (h : s.Sound) : (s.driftedWords g).Nodup :=
  (h.words_up.imp (fun hlt => Nat.ne_of_lt hlt)).filter _

/-- Which words have drifted rests on the words and the policy alone. -/
theorem driftedWords_congr (hw : s.tt.words = t.tt.words) (hp : s.pol = t.pol) : s.driftedWords g = t.driftedWords g := by
  have : s.driftedWords g = ({ t with tt := { t.tt with words := s.tt.words }, pol := s.pol } : State).driftedWords g := rfl
  rw [this, hw, hp]

/-- The chips below rest on the topology alone. -/
theorem childChips_congr (h : s.topo = t.topo) : s.childChips g = t.childChips g := by
  have : s.childChips g = ({ t with topo := s.topo } : State).childChips g := rfl
  rw [this, h]

/-- The check of R175 on this chip, with the free values for the counts of the chips below (log 20). -/
theorem chipDrift_trimmed (h : s.Sound) : Trimmed (s.driftedWords g) s (s.chipDrift g).1 := by
  obtain ⟨hword, hlog, honly, hsound⟩ := forEach_trimWord h (driftedWords_nodup (g := g) h)
  refine ⟨hword, hlog, ?_, hsound⟩
  exact honly.trans rfl

/-- Without chips below, the drift count is this chip's own. -/
theorem chipDrift_alone (hc : s.childChips g = []) : (s.chipDrift g).2 = min (s.driftedWords g).length 0xFFFFF := by
  simp only [State.chipDrift, hc, State.foreignDrift]
  rfl

/-! ## The release -/

/-- What the end of a phase leaves: the channel in the next phase, and where no fleet wait stands before it, the first step of the release
taken. -/
structure PhaseEnds (s t : State) (ch : Nat) (drift : Option Nat) : Prop where
  waitsForFleet : s.fleetSkew ch ≠ 0 → t.chan ch = (s.chan ch).next drift (s.fleetSkew ch) ∧ t.ports = s.ports ∧
    t.out.pm = (if (s.chan ch).prewarned then [] else [.prewarn ch]) ++ s.out.pm
  releases : s.fleetSkew ch = 0 →
    t.chan ch = { (s.chan ch).next drift 0 with
      rel := if 1 < 2 ^ s.rampLog then some { phase := (s.chan ch).phase, steps := 2 ^ s.rampLog, next := 1, fleet := none } else none
      waits := (s.chan ch).waits.filter (fun q => !q.inStep (s.chan ch).phase (2 ^ s.rampLog) 0) } ∧
    t.ports = (s.answerAll ch ((s.chan ch).waits.filter (BWaiter.inStep (s.chan ch).phase (2 ^ s.rampLog) 0)) .ok (drift.getD 0)).ports ∧
    t.out.pm = .release s.rampLog 0 :: (if (s.chan ch).prewarned then [] else [.prewarn ch]) ++ s.out.pm
  others : ∀ k, k ≠ ch → t.chan k = s.chan k
  only : t = { s with tt := { s.tt with chans := t.tt.chans }, ports := t.ports, out := { s.out with pm := t.out.pm } }

theorem endPhase_ends (h : s.Sound) (drift : Option Nat) : PhaseEnds s (s.endPhase ch drift) ch drift := by
  have hover := phaseOver_only (s := s) (ch := ch) drift
  have hchan := phaseOver_chan (ch := ch) h drift
  rw [endPhase_eq h]
  split
  · next h0 =>
    have hramp : (s.phaseOver ch drift).rampLog = s.rampLog := by
      rw [hover]
      rfl
    have ha := releaseStepAt_answers (s := (s.phaseOver ch drift).pulse (.release s.rampLog 0)) (ch := ch)
      (r := { phase := (s.chan ch).phase, steps := 2 ^ s.rampLog, next := 0, fleet := none }) (phaseOver_sound h drift)
    rw [← hramp, ← decideRelease_eq, hramp] at ha
    have hchan' : ((s.phaseOver ch drift).pulse (.release s.rampLog 0)).chan ch = (s.chan ch).next drift 0 := by
      rw [← h0]
      exact hchan
    refine ⟨fun hne => absurd h0 hne, fun _ => ⟨?_, ?_, ?_⟩, fun k hk => ?_, ?_⟩
    · rw [ha.chan, hchan']
      rfl
    · rw [ha.ports, hchan']
      refine (actsOnPorts_answerAll _ _ _ _).congr _ _ ?_
      rw [hover]
      rfl
    · rw [ha.only, hover]
      rfl
    · exact (ha.others k hk).trans (phaseOver_chan_other hk drift)
    · rw [ha.only, hover]
      rfl
  · next hne =>
    refine ⟨fun _ => ⟨hchan, ?_, ?_⟩, fun h0 => absurd h0 hne, fun k hk => phaseOver_chan_other hk drift, ?_⟩
    · rw [hover]
    · rw [hover]
    · rw [hover]

/-- The root's part of the end of a phase: the trim check, the messages to the chips below, and its own release. -/
theorem releaseAtRoot_eq : s.releaseAtRoot ch g =
    (((if (s.chan ch).prewarned then (if (s.chan ch).trim then (s.chipDrift g).1 else s)
      else (if (s.chan ch).trim then (s.chipDrift g).1 else s).barrierTo (s.childChips g) 6 ch 0 (s.chan ch).phase false).barrierTo
        (s.childChips g) 4 ch ((if (s.chan ch).trim then some (s.chipDrift g).2 else none).getD 0) (s.chan ch).phase (s.chan ch).trim).endPhase
      ch (if (s.chan ch).trim then some (s.chipDrift g).2 else none)) := by
  have hdrift : (s.chipDrift g).1.childChips g = s.childChips g := childChips_congr (rest_chipDrift g s.rest_refl).topo
  have hbar : ∀ (u : State) l k o n b, (u.barrierTo l k ch o n b).childChips g = u.childChips g := fun u l k o n b =>
    childChips_congr ((actsOnLink_barrierTo l k ch o n b).topo u)
  unfold State.releaseAtRoot
  dsimp only
  split_ifs <;> simp only [hbar, hdrift]

/-! ## Answers to barrier waiters -/

/-- What a port that is not being rebound has got once waiters were answered one after another. -/
theorem resp_foldl_answerBarrier {l : List BWaiter} {st : CStatus} {v p : Nat} (h : s.Sound) (hp : (s.port p).rebinding = false) :
    ((l.foldl (fun a q => (a.endWait q.pos true ch).answer q.pos st q.top ch v) s).port p).resp =
      (s.port p).resp ++ (l.filter (fun q => q.pos == p)).map (fun q => responseWord st q.top ch v) := by
  induction l generalizing s with
  | nil => simp
  | cons q r ih =>
    have hsound : ((s.endWait q.pos true ch).answer q.pos st q.top ch v).Sound := (kept_answerBarrier ch q st v (sound_kept h)).sound
    rw [List.foldl_cons]
    by_cases hq : q.pos = p
    · subst hq
      have hport : ((s.endWait q.pos true ch).answer q.pos st q.top ch v).port q.pos = { s.port q.pos with
          waits := (s.port q.pos).waits.erase (true, ch), resp := (s.port q.pos).resp ++ [responseWord st q.top ch v] } := by
        rw [port_answer_same (endWait_sound h) (by rw [port_endWait_same h]; exact hp), port_endWait_same h]
      rw [ih hsound (by rw [hport]; exact hp), hport]
      simp
    · have hport : ((s.endWait q.pos true ch).answer q.pos st q.top ch v).port p = s.port p :=
        (port_modPort_other (Ne.symm hq)).trans (port_modPort_other (Ne.symm hq))
      rw [ih hsound (by rw [hport]; exact hp), hport]
      simp [hq]

theorem resp_answerAll {l : List BWaiter} {st : CStatus} {v p : Nat} (h : s.Sound) (hp : (s.port p).rebinding = false) :
    ((s.answerAll ch l st v).port p).resp =
      (s.port p).resp ++ ((sortBy BWaiter.pos l).filter (fun q => q.pos == p)).map (fun q => responseWord st q.top ch v) :=
  resp_foldl_answerBarrier h hp

end Sys2Proof.Machine

/-! SUPPORT. Arrivals and barrier waits (R164 to R166): how they leave their port, and what they do to their channel. -/

namespace Sys2Proof.Machine

open Sys2Proof

variable {s t : State} {p ch : Nat} {c : Word64} {g : Group}

/-! ## The commands in flight stay -/

@[simp] theorem barrierTo_flights (l : List Nat) (k o n : Nat) (b : Bool) : (s.barrierTo l k ch o n b).tt.flights = s.tt.flights := by
  rw [(actsOnLink_barrierTo l k ch o n b).tt s]

@[simp] theorem prewarn_flights : (s.prewarn ch).tt.flights = s.tt.flights := by
  rw [prewarn_eq]
  split <;> rfl

@[simp] theorem checkPrewarn_flights : (s.checkPrewarn ch g).tt.flights = s.tt.flights := by
  unfold State.checkPrewarn
  dsimp only
  split <;> simp

@[simp] theorem endBarrierWaits_flights (mine : BWaiter → Bool) (st : CStatus) (v : Nat) :
    (s.endBarrierWaits ch mine st v).tt.flights = s.tt.flights := by
  have hanswers := actsOnPorts_forEach (fun w => actsOnPorts_answerBarrier ch w st v) (sortBy BWaiter.pos ((s.chan ch).waits.filter mine))
  unfold State.endBarrierWaits
  rw [hanswers.tt]
  rfl

@[simp] theorem endPhase_flights (drift : Option Nat) : (s.endPhase ch drift).tt.flights = s.tt.flights := by
  unfold State.endPhase
  dsimp only
  split
  · exact (endBarrierWaits_flights _ _ _).trans prewarn_flights
  · exact prewarn_flights

@[simp] theorem chipDrift_flights : (s.chipDrift g).1.tt.flights = s.tt.flights := by
  have hword : ∀ w u, (State.trimWord w u).tt.flights = u.tt.flights := fun w u => by rw [trimWord_only (s := u) w]
  exact forEach_inv (s.driftedWords g) State.trimWord (fun s => s.tt.flights) hword s

@[simp] theorem releaseAtRoot_flights : (s.releaseAtRoot ch g).tt.flights = s.tt.flights := by
  rw [releaseAtRoot_eq, endPhase_flights, barrierTo_flights]
  split_ifs <;> simp

@[simp] theorem countUp_flights (n : Nat) (a : Option FoldRec) (k : Nat) : (s.countUp ch g n a k).tt.flights = s.tt.flights := by
  have hset : ∀ (u : State) x, (u.setChan ch x).tt.flights = u.tt.flights := fun _ _ => rfl
  induction n generalizing s a k with
  | zero => rfl
  | succ n ih =>
    unfold State.countUp
    dsimp only
    split
    · split <;> simp
    · simp
    · split
      · split
        · simp [hset]
        · split <;> simp [hset, ih]
      · simp

@[simp] theorem afterArrival_flights : (s.afterArrival ch g).tt.flights = s.tt.flights := by
  have hset : ∀ (u : State) x, (u.setChan ch x).tt.flights = u.tt.flights := fun _ _ => rfl
  unfold State.afterArrival
  dsimp only
  split <;> simp [hset]

theorem actsOnPorts_answerChannel (p top ch : Nat) (waits : Bool) (st : CStatus) (v : Nat) :
    ActsOnPorts (fun s => s.answerChannel p top ch waits st v) := by
  cases waits
  · exact actsOnPorts_answer p st top ch v
  · exact (actsOnPorts_answer p st top ch v).comp (actsOnPorts_endWait p true ch)

/-! ## What an arrival or a barrier wait does -/

/-- The last arrival of a member is not released to it yet. -/
def Channel.unreleased (x : Channel) (p : Nat) : Bool :=
  match x.lastOf p with
  | .inPhase n => !x.releasedTo p n
  | _ => false

/-- The channel with the arrival counted. -/
def Channel.arrive (x : Channel) (p : Nat) (c : Word64) : Channel :=
  { x with
    arrived := x.arrived ++ [p], last := Tbl.set lastDefault x.last p (.inPhase x.phase), trim := x.trim || bit c 58,
    waits := if bit c 57 then x.waits ++ [{ pos := p, top := 8, tmo := bits c 52 4, phase := x.phase }] else x.waits }

/-- The chip with the arrival counted, and answered where it does not wait (R165). -/
def State.arrive (s : State) (p ch : Nat) (c : Word64) : State :=
  let u := s.setChan ch ((s.chan ch).arrive p c)
  if bit c 57 then u else u.answer p .ok 8 ch 0

theorem applyArrive_refused {st : CStatus} (h : s.channelRefusal (bits c 0 6) p = some st) :
    s.applyArrive p c = s.answerChannel p 8 (bits c 0 6) (bit c 57) st 0 := by
  simp only [State.applyArrive, h]

theorem applyArrive_overfills (h : s.channelRefusal (bits c 0 6) p = none)
    (hagain : ((s.chan (bits c 0 6)).arrived.contains p || (s.chan (bits c 0 6)).unreleased p) = true) :
    s.applyArrive p c = s.answerChannel p 8 (bits c 0 6) (bit c 57) .overfill 0 := by
  simp only [State.applyArrive, h]
  exact if_pos hagain

theorem applyArrive_counts (h : s.channelRefusal (bits c 0 6) p = none)
    (hagain : ((s.chan (bits c 0 6)).arrived.contains p || (s.chan (bits c 0 6)).unreleased p) = false) :
    s.applyArrive p c = match s.group (s.chan (bits c 0 6)).group with
      | none => s.arrive p (bits c 0 6) c
      | some g => (s.arrive p (bits c 0 6) c).afterArrival (bits c 0 6) g := by
  have hgroup : ∀ n, (s.arrive p (bits c 0 6) c).group n = s.group n := fun n => by
    unfold State.arrive
    dsimp only
    split <;> rfl
  rw [← hgroup]
  simp only [State.applyArrive, h]
  exact if_neg (ne_true_of_eq_false hagain)

theorem applyBwait_refused {st : CStatus} (h : s.channelRefusal (bits c 0 6) p = some st) :
    s.applyBwait p c = s.answerChannel p 9 (bits c 0 6) true st 0 := by
  simp only [State.applyBwait, h]

@[simp] theorem applyArrive_flights : (s.applyArrive p c).tt.flights = s.tt.flights := by
  have harrive : (s.arrive p (bits c 0 6) c).tt.flights = s.tt.flights := by
    unfold State.arrive
    dsimp only
    split <;> rfl
  cases h : s.channelRefusal (bits c 0 6) p with
  | some st => rw [applyArrive_refused h, (actsOnPorts_answerChannel _ _ _ _ _ _).tt]
  | none =>
    cases hagain : ((s.chan (bits c 0 6)).arrived.contains p || (s.chan (bits c 0 6)).unreleased p) with
    | true => rw [applyArrive_overfills h hagain, (actsOnPorts_answerChannel _ _ _ _ _ _).tt]
    | false =>
      rw [applyArrive_counts h hagain]
      split
      · exact harrive
      · exact afterArrival_flights.trans harrive

@[simp] theorem applyBwait_flights : (s.applyBwait p c).tt.flights = s.tt.flights := by
  have hanswer : ∀ st v, (s.answerChannel p 9 (bits c 0 6) true st v).tt.flights = s.tt.flights := fun st v =>
    congrArg TtState.flights ((actsOnPorts_answerChannel _ _ _ _ _ _).tt s)
  unfold State.applyBwait
  dsimp only
  split
  · exact hanswer _ _
  · split
    · exact hanswer _ _
    · exact hanswer _ _
    · split
      · exact hanswer _ _
      · rfl

/-! ## An arrival with nothing before it in flight (R166) -/

/-- An arrival or a barrier wait at the end of the queue is due where no earlier command of its endpoint is in flight. -/
theorem readyFence_last {paused : List Nat} {fs before : List Flight} {f : Flight} (hno : ∀ f ∈ fs, cTop f.cmd < 8) (htop : 8 ≤ cTop f.cmd)
    (hfirst : ∀ g ∈ before ++ fs, g.fromPort f.issuer = false) (hp : paused.contains (f.issuer.toNat % 1024 / 16) = false) :
    readyFence paused before (fs ++ [f]) = some f := by
  induction fs generalizing before with
  | nil =>
    have hany : before.any (fun g => g.fromPort f.issuer) = false := by
      simpa using hfirst
    simp only [List.nil_append, readyFence, htop, hany, hp, decide_true, Bool.not_false, Bool.and_self, if_true]
  | cons x r ih =>
    have hx : ¬8 ≤ cTop x.cmd := Nat.not_le.mpr (hno x (by simp))
    simp only [List.cons_append, readyFence, hx, decide_false, Bool.false_and, Bool.false_eq_true, if_false]
    exact ih (fun y hy => hno y (by simp [hy])) (by simpa using hfirst)

/-- A position is part of the rig index of its commands (R26). -/
theorem rig_mod (hp : p < 1024) : (BitVec.ofNat 25 (s.rig p)).toNat % 1024 = p := by
  rw [BitVec.toNat_ofNat]
  unfold State.rig
  split <;> omega

/-- With nothing of its endpoint before it, an arrival or a barrier wait that passes its port's checks takes effect at once. -/
theorem issue_fence (hs : s.Sound) (hno : s.NoFence) (hp : p < 1024) (hcheck : s.portCheck p c = none) (hcr : (s.port p).credits ≠ 0)
    (hrem : cRemote c = false) (hfirst : ∀ f ∈ s.tt.flights, f.fromPort (BitVec.ofNat 25 (s.rig p)) = false)
    (hheld : s.portHeld p = false) (htop : 8 ≤ cTop c) :
    s.issue p c = if cTop c = 8 then (s.admitted p c).applyArrive p c else (s.admitted p c).applyBwait p c := by
  rw [issue_passes hs hcheck (fun _ => hcr)]
  have hadm := admitted_eq (s := s) (p := p) (c := c)
  have htt : (s.admitted p c).tt = s.tt := by rw [hadm]
  have hrig : (s.admitted p c).rig p = s.rig p := by rw [hadm]; rfl
  have hclusters : (s.admitted p c).heldClusters = s.heldClusters := by rw [hadm]; rfl
  generalize s.admitted p c = u at htt hrig hclusters
  rw [launch_here (by simp [hrem])]
  have hissuer : (u.flight p c .port).issuer = BitVec.ofNat 25 (s.rig p) := by rw [← hrig]; rfl
  have hready : readyFence (u.fly (u.flight p c .port)).heldClusters [] (u.fly (u.flight p c .port)).tt.flights = some (u.flight p c .port) := by
    refine readyFence_last (by rw [htt]; exact hno) htop (by rw [htt, hissuer]; simpa using hfirst) ?_
    rw [hissuer, rig_mod hp]
    exact (congrArg (fun l => List.contains l (p / 16)) hclusters).trans hheld
  have hland : (u.fly (u.flight p c .port)).land (u.flight p c .port) = u := by
    have hnot : u.flight p c .port ∉ u.tt.flights := fun hmem => by
      rw [htt] at hmem
      exact absurd (hno _ hmem) (Nat.not_lt.mpr htop)
    have herase : (u.tt.flights ++ [u.flight p c .port]).erase (u.flight p c .port) = u.tt.flights := by
      rw [List.erase_append_right _ hnot]
      simp
    simp only [State.land, State.fly, herase]
  have hlen : (u.fly (u.flight p c .port)).tt.flights.length = u.tt.flights.length + 1 := by simp [State.fly]
  have hpos : (u.flight p c .port).issuer.toNat % 1024 = p := by rw [hissuer, rig_mod hp]
  rw [State.flush, hlen, State.flushFences, hready]
  dsimp only
  rw [hpos]
  have hdone : ∀ n (v : State), v.tt.flights = u.tt.flights → v.flushFences n = v := fun n v hv =>
    flushFences_noFence n (by rw [State.NoFence, hv, htt]; exact hno)
  rw [hdone]
  · exact congrArg (fun v : State => if cTop c = 8 then v.applyArrive p c else v.applyBwait p c) hland
  · split
    · exact applyArrive_flights.trans (congrArg (fun v : State => v.tt.flights) hland)
    · exact applyBwait_flights.trans (congrArg (fun v : State => v.tt.flights) hland)

/-- A command that is neither `ARRIVE` nor a posted signal names no other chip, once it has passed its port. -/
theorem local_of_portCheck (hcheck : s.portCheck p c = none) (htop : cTop c ≠ 1) : cRemote c = false := by
  by_contra hrem
  have hbad : (cTmo c ≠ 0 ∧ cWaits c = false) ∨ ((cRemote c = true) ∧ cTop c ≠ 1) ∨ (cChip c ≠ 0 ∧ cRemote c = false) :=
    .inr (.inl ⟨by simpa using hrem, htop⟩)
  unfold State.portCheck at hcheck
  dsimp only at hcheck
  split at hcheck <;> cases hcheck

end Sys2Proof.Machine

/-! SUPPORT. `ARRIVE` and `BWAIT` of a member with nothing before it in flight: what is counted, and how the last arrival of a chip ends the phase
or sends the count up (R165, R166, R168 to R170, R175, R176, R308, R410, R412). -/

namespace Sys2Proof.Machine

open Sys2Proof

variable {s t : State} {p ch : Nat} {c : Word64} {g : Group}

/-! ## The arrival -/

theorem arrive_sound (h : s.Sound) : (s.arrive p ch c).Sound := by
  unfold State.arrive
  dsimp only
  split
  · exact setChan_sound h
  · exact answer_sound (setChan_sound h)

theorem arrive_only : s.arrive p ch c =
    { s with tt := { s.tt with chans := (s.arrive p ch c).tt.chans }, ports := (s.arrive p ch c).ports } := by
  unfold State.arrive
  dsimp only
  split <;> rfl

theorem arrive_chans : (s.arrive p ch c).tt.chans = (s.setChan ch ((s.chan ch).arrive p c)).tt.chans := by
  unfold State.arrive
  dsimp only
  split <;> rfl

theorem arrive_chan (h : s.Sound) : (s.arrive p ch c).chan ch = (s.chan ch).arrive p c :=
  (chan_congr arrive_chans ch).trans (chan_setChan_same h)

theorem arrive_resp {q : Nat} (h : s.Sound) (hq : (s.port q).rebinding = false) :
    ((s.arrive p ch c).port q).resp = (s.port q).resp ++ (if q = p ∧ bit c 57 = false then [responseWord .ok 8 ch 0] else []) := by
  unfold State.arrive
  dsimp only
  split
  · next hw => simp [hw, State.port]
  · next hw =>
    have hw : bit c 57 = false := by simpa using hw
    by_cases hp : q = p
    · subst hp
      rw [port_answer_same (setChan_sound h) hq]
      simp [hw, State.port]
    · rw [port_answer_other hp]
      simp [hp, State.port]

theorem arrive_rebinding {q : Nat} (h : s.Sound) : ((s.arrive p ch c).port q).rebinding = (s.port q).rebinding := by
  unfold State.arrive
  dsimp only
  split
  · rfl
  · by_cases hp : q = p
    · subst hp
      rw [State.answer, port_modPort_same (setChan_sound h)]
      split <;> rfl
    · rw [port_answer_other hp]
      rfl

/-! ## The pre-warn, and the count up -/

theorem checkPrewarn_sound (h : s.Sound) : (s.checkPrewarn ch g).Sound := (kept_checkPrewarn _ _ (sound_kept h)).sound

theorem checkPrewarn_chan (h : s.Sound) :
    (s.checkPrewarn ch g).chan ch = { s.chan ch with prewarned := (s.chan ch).prewarned || s.prewarnDue ch g } := by
  cases hdue : s.prewarnDue ch g with
  | false => rw [checkPrewarn_not_due hdue, Bool.or_false]
  | true =>
    rw [checkPrewarn_due hdue, (actsOnLink_barrierTo _ _ _ _ _ _).chan]
    exact (chan_setChan_same h).trans (by rw [Bool.or_true])

theorem checkPrewarn_chan_other {k : Nat} (hk : k ≠ ch) : (s.checkPrewarn ch g).chan k = s.chan k := by
  cases hdue : s.prewarnDue ch g with
  | false => rw [checkPrewarn_not_due hdue]
  | true =>
    rw [checkPrewarn_due hdue, (actsOnLink_barrierTo _ _ _ _ _ _).chan]
    exact chan_setChan_other hk

/-- Beside the channel it shows in the pulse to the power manager and the messages to the chips below. -/
theorem checkPrewarn_only : s.checkPrewarn ch g = { s with
    tt := { s.tt with chans := (s.checkPrewarn ch g).tt.chans }
    link := (if s.prewarnDue ch g then s.barrierTo (s.childChips g) 6 ch 0 (s.chan ch).phase false else s).link
    out := { s.out with pm := (if s.prewarnDue ch g then [.prewarn ch] else []) ++ s.out.pm } } := by
  cases hdue : s.prewarnDue ch g with
  | false => rw [checkPrewarn_not_due hdue]; rfl
  | true =>
    have hlink := (actsOnLink_barrierTo (s.childChips g) 6 ch 0 (s.chan ch).phase false).congr (s.warned ch) s rfl rfl
    rw [checkPrewarn_due hdue, (actsOnLink_barrierTo _ _ _ _ _ _).only, hlink]
    rfl

/-- While a member of this chip is missing, an arrival gives no more than the pre-warn. -/
theorem afterArrival_incomplete (h : s.Sound) (hlen : (s.chan ch).arrived.length < g.locals.length) :
    s.afterArrival ch g = s.checkPrewarn ch g := by
  have hle := List.length_filter_le (s.checkPrewarn ch g).stands (s.chan ch).arrived
  have hne : (((s.checkPrewarn ch g).chan ch).arrived.filter (s.checkPrewarn ch g).stands).length ≠ g.locals.length := by
    have harr : ((s.checkPrewarn ch g).chan ch).arrived = (s.chan ch).arrived := by rw [checkPrewarn_chan h]
    rw [harr]
    omega
  simp only [State.afterArrival, hne, decide_false, Bool.false_and, Bool.false_eq_true, if_false]

/-- The last arrival of this chip sends its count up, once in a phase. -/
theorem afterArrival_complete (h : s.Sound) (hlen : (s.chan ch).arrived.length = g.locals.length) (hsent : (s.chan ch).sentUp = false)
    (hstand : ∀ q ∈ (s.chan ch).arrived, s.stands q = true) :
    s.afterArrival ch g = ((s.checkPrewarn ch g).setChan ch { (s.checkPrewarn ch g).chan ch with sentUp := true }).countUp ch g 8 none
      (s.chan ch).arrived.length := by
  have hchan := checkPrewarn_chan (ch := ch) (g := g) h
  have hstands : (s.checkPrewarn ch g).stands = s.stands := by rw [checkPrewarn_only]; rfl
  have harr : ((s.checkPrewarn ch g).chan ch).arrived = (s.chan ch).arrived := by rw [hchan]
  have hsent' : ((s.checkPrewarn ch g).chan ch).sentUp = false := by rw [hchan]; exact hsent
  have hcond : (decide ((((s.checkPrewarn ch g).chan ch).arrived.filter (s.checkPrewarn ch g).stands).length = g.locals.length) &&
      !((s.checkPrewarn ch g).chan ch).sentUp) = true := by
    rw [hstands, harr, List.filter_eq_self.mpr hstand, hsent', hlen]
    simp
  rw [← harr]
  exact if_pos hcond

/-- A group of one chip has its root here. -/
theorem countUp_alone (hf : g.folds = []) (n k : Nat) : s.countUp ch g (n + 1) none k = s.releaseAtRoot ch g := by
  have hnext : s.nextNode g none = none := by simp [State.nextNode, hf, sortBy]
  have hempty : g.folds.isEmpty = true := by rw [hf]; rfl
  simp only [State.countUp, hnext, hempty, if_true]

/-- The count of a chip that hosts no fold node leaves for the next node and its standby (R308). -/
theorem countUp_leaves {r : FoldRec} {j : Nat} {i : FoldInput} (hno : s.hosted g = []) (hnext : s.nextNode g none = some (r, j, i)) (n k : Nat) :
    s.countUp ch g (n + 1) none k =
      s.barrierTo (uniq ([s.hostOf r] ++ s.standbysOf r)) 3 ch (min k 0xFFFFF) (s.chan ch).phase (s.chan ch).trim := by
  have hmem : r ∈ g.folds := by
    unfold State.nextNode at hnext
    dsimp only at hnext
    obtain ⟨r', hr', hr''⟩ := Option.bind_eq_some_iff.mp hnext
    obtain ⟨e, -, he⟩ := Option.map_eq_some_iff.mp hr''
    obtain rfl : r' = r := congrArg Prod.fst he
    exact List.mem_of_mem_filter ((sortBy_perm _).subset (List.mem_of_mem_head? hr'))
  have hhost : ¬s.hostOf r = s.topo.chip := fun he => by
    have : r ∈ s.hosted g := List.mem_filter.mpr ⟨hmem, by simpa using he⟩
    rw [hno] at this
    exact absurd this (List.not_mem_nil)
  simp only [State.countUp, hnext, hhost, if_false]

/-- In a group of one chip the root's release tells no other chip. -/
theorem releaseAtRoot_alone (hf : g.folds = []) : s.releaseAtRoot ch g =
    (if (s.chan ch).trim then (s.chipDrift g).1 else s).endPhase ch
      (if (s.chan ch).trim then some (min (s.driftedWords g).length 0xFFFFF) else none) := by
  have hc : s.childChips g = [] := by simp [State.childChips, State.foreignInputs, State.hosted, hf, uniq]
  have hnil : ∀ (u : State) k o n b, u.barrierTo [] k ch o n b = u := fun _ _ _ _ _ => rfl
  rw [releaseAtRoot_eq, hc, chipDrift_alone hc, hnil, hnil]
  simp only [ite_self]

/-- The fleet skew of a group (R413). -/
def State.skewOf (s : State) (n : Nat) : Nat :=
  match s.group n with
  | none => 0
  | some g => if 5 ≤ s.groupClass n g then s.topo.chip % 16 * s.policy 0x43 / 5 else 0

theorem fleetSkew_eq : s.fleetSkew ch = s.skewOf (s.chan ch).group := rfl

/-- The fleet ramp rests on the channel's group, the topology and the policy. -/
theorem fleetSkew_congr (ht : s.topo = t.topo) (hp : s.pol = t.pol) (hg : (s.chan ch).group = (t.chan ch).group) :
    s.fleetSkew ch = t.fleetSkew ch := by
  have hskew : ∀ n, s.skewOf n = ({ t with topo := s.topo, pol := s.pol } : State).skewOf n := fun _ => rfl
  rw [fleetSkew_eq, fleetSkew_eq, hg, hskew, ht, hp]

/-! ## The rows -/

/-- The port is ready for an arrival or a barrier wait: it passes the checks, has a credit, and nothing of its endpoint is before it. -/
structure FenceReady (s : State) (p : Nat) (c : Word64) : Prop where
  check : s.portCheck p c = none
  credit : (s.port p).credits ≠ 0
  first : ∀ f ∈ s.tt.flights, f.fromPort (BitVec.ofNat 25 (s.rig p)) = false
  free : s.portHeld p = false

theorem exec_arrive_applies {p : Pos} {w : BitVec 60} (hs : s.Sound) (hlive : s.Live) (hno : s.NoFence) (h : FenceReady s p (ttCommand 8 w)) :
    exec (.arrive p w) s = .next ((s.admitted p (ttCommand 8 w)).applyArrive p (ttCommand 8 w)) := by
  have htop : cTop (ttCommand 8 w) = 8 := cTop_ttCommand (by decide) w
  have hrem := local_of_portCheck h.check (by rw [htop]; decide)
  have hexec : exec (.arrive p w) s = .next (s.ttStore p (ttCommand 8 w)) := rfl
  rw [hexec, ttStore_live hlive, issue_fence hs hno p.isLt h.check h.credit hrem h.first h.free (by rw [htop]), if_pos htop]

theorem exec_bwait_applies {p : Pos} {w : BitVec 60} (hs : s.Sound) (hlive : s.Live) (hno : s.NoFence) (h : FenceReady s p (ttCommand 9 w)) :
    exec (.bwait p w) s = .next ((s.admitted p (ttCommand 9 w)).applyBwait p (ttCommand 9 w)) := by
  have htop : cTop (ttCommand 9 w) = 9 := cTop_ttCommand (by decide) w
  have hrem := local_of_portCheck h.check (by rw [htop]; decide)
  have hexec : exec (.bwait p w) s = .next (s.ttStore p (ttCommand 9 w)) := rfl
  rw [hexec, ttStore_live hlive, issue_fence hs hno p.isLt h.check h.credit hrem h.first h.free (by rw [htop]; decide),
    if_neg (by rw [htop]; decide)]

end Sys2Proof.Machine

/-! SUPPORT. `ARRIVE` and `BWAIT`, put together. -/

namespace Sys2Proof.Machine

open Sys2Proof

variable {s t : State} {ch : Nat} {g : Group}

/-! ## What the port's part of a command leaves as it was -/

section Admitted

variable {p : Nat} {c : Word64}

theorem admitted_chan (k : Nat) : (s.admitted p c).chan k = s.chan k := by
  rw [admitted_eq]
  rfl

theorem admitted_group (n : Nat) : (s.admitted p c).group n = s.group n := by
  rw [admitted_eq]
  rfl

theorem admitted_refusal (k q : Nat) : (s.admitted p c).channelRefusal k q = s.channelRefusal k q := by
  rw [admitted_eq]
  rfl

theorem admitted_resp (h : s.Sound) (q : Nat) : ((s.admitted p c).port q).resp = (s.port q).resp ∧
    ((s.admitted p c).port q).rebinding = (s.port q).rebinding := by
  by_cases hq : q = p
  · subst hq
    rw [admitted_port h]
    exact ⟨rfl, rfl⟩
  · rw [admitted_port_other hq]
    exact ⟨rfl, rfl⟩

/-- A command that is answered at once: only ports change, and its own port has one response more and one credit less. -/
theorem admitted_answered {top k v : Nat} {waits : Bool} {st : CStatus} (h : s.Sound) (hreb : (s.port p).rebinding = false)
    (hresp : cResponds c = true) :
    let t := (s.admitted p c).answerChannel p top k waits st v
    (t.port p).resp = (s.port p).resp ++ [responseWord st top k v] ∧ (t.port p).credits = (s.port p).credits - 1 ∧
      (∀ q, q ≠ p → t.port q = s.port q) ∧ t = { s with ports := t.ports } := by
  intro t
  have hadm := admitted_port (p := p) (c := c) h
  have hsound := admitted_sound (p := p) (c := c) h
  have hfree : ((s.admitted p c).port p).rebinding = false := by rw [(admitted_resp h p).2]; exact hreb
  have hport : t.port p = { (s.admitted p c).port p with
      waits := if waits then ((s.admitted p c).port p).waits.erase (true, k) else ((s.admitted p c).port p).waits
      resp := ((s.admitted p c).port p).resp ++ [responseWord st top k v] } := by
    cases waits with
    | false => exact port_answer_same hsound hfree
    | true =>
      refine (port_answer_same (endWait_sound hsound) ?_).trans ?_
      · rw [port_endWait_same hsound]
        exact hfree
      · rw [port_endWait_same hsound]
        rfl
  refine ⟨?_, ?_, fun q hq => ?_, ?_⟩
  · rw [hport, hadm]
  · rw [hport, hadm, hresp]
    rfl
  · have : t.port q = (s.admitted p c).port q := by
      cases waits with
      | false => exact port_answer_other hq
      | true => exact (port_answer_other hq).trans (port_endWait_other hq)
    rw [this, admitted_port_other hq]
  · exact ((actsOnPorts_answerChannel p top k waits st v).only _).trans (congrArg (fun u : State => { u with ports := t.ports }) admitted_eq)

end Admitted

/-- The opcodes of `ARRIVE` and `BWAIT` respond. -/
theorem responds_of_fence {k : Nat} {w : BitVec 60} (hk : k < 16) (h1 : k ≠ 1) : cResponds (ttCommand k w) = true := by
  simp [cResponds, cTop_ttCommand hk, h1]

/-! ## An arrival that is counted -/

/-- The channel takes an arrival of position `p` that starts the count of its own, once. -/
structure Counts (s : State) (p ch : Nat) (g : Group) : Prop where
  accepts : s.channelRefusal ch p = none
  group : s.group (s.chan ch).group = some g
  fresh : (s.chan ch).arrived.contains p = false
  released : ∀ n, (s.chan ch).lastOf p = .inPhase n → (s.chan ch).releasedTo p n = true

theorem Counts.armed {p : Nat} (h : Counts s p ch g) : (s.chan ch).st = .armed := by
  have hacc := h.accepts
  unfold State.channelRefusal at hacc
  dsimp only at hacc
  cases hst : (s.chan ch).st <;> simp [hst] at hacc ⊢

theorem Counts.again {p : Nat} (h : Counts s p ch g) : ((s.chan ch).arrived.contains p || (s.chan ch).unreleased p) = false := by
  rw [h.fresh, Bool.false_or, Channel.unreleased]
  split
  · next n hn => rw [h.released n hn]; rfl
  · rfl

/-- The chip with the arrival of a command counted, its credit taken. -/
def State.counted (s : State) (p : Nat) (c : Word64) : State := (s.admitted p c).arrive p (bits c 0 6) c

/-- Such an arrival is counted, and what follows from it is up to the count. -/
theorem exec_arrive_counts {p : Pos} {w : BitVec 60} (hs : s.Sound) (hlive : s.Live) (hno : s.NoFence) (h : FenceReady s p (ttCommand 8 w))
    (hc : Counts s p (bits (ttCommand 8 w) 0 6) g) :
    exec (.arrive p w) s = .next ((s.counted p (ttCommand 8 w)).afterArrival (bits (ttCommand 8 w) 0 6) g) := by
  rw [exec_arrive_applies hs hlive hno h, applyArrive_counts (by rw [admitted_refusal]; exact hc.accepts)
    (by rw [admitted_chan]; exact hc.again), admitted_chan, admitted_group, hc.group]
  rfl

section Counted

variable {p : Nat} {c : Word64}

theorem counted_sound (h : s.Sound) : (s.counted p c).Sound := arrive_sound (admitted_sound h)

theorem counted_chan (h : s.Sound) : (s.counted p c).chan (bits c 0 6) = (s.chan (bits c 0 6)).arrive p c := by
  rw [State.counted, arrive_chan (admitted_sound h), admitted_chan]

theorem counted_only : s.counted p c = { s with tt := { s.tt with chans := (s.counted p c).tt.chans }, ports := (s.counted p c).ports } := by
  rw [State.counted, arrive_only, admitted_eq]

theorem counted_resp {q : Nat} (h : s.Sound) (hq : (s.port q).rebinding = false) : ((s.counted p c).port q).resp =
    (s.port q).resp ++ (if q = p ∧ bit c 57 = false then [responseWord .ok 8 (bits c 0 6) 0] else []) := by
  have hadm := admitted_resp (p := p) (c := c) h q
  rw [State.counted, arrive_resp (admitted_sound h) (by rw [hadm.2]; exact hq), hadm.1]

theorem counted_rebinding (h : s.Sound) (q : Nat) : ((s.counted p c).port q).rebinding = (s.port q).rebinding := by
  rw [State.counted, arrive_rebinding (admitted_sound h), (admitted_resp h q).2]

end Counted

/-! ## The last arrival of a group of one chip (R165, R168 to R170) -/

/-- The state in which the last arrival of a group of one chip is counted, before its phase ends: the pre-warn is given where it is due now,
the count has gone up, and the trim check is made. -/
theorem lastArrival_ends {u : State} {y : Channel} (h : u.Sound) (hy : u.chan ch = y) (hf : g.folds = [])
    (hlen : y.arrived.length = g.locals.length) (hsent : y.sentUp = false) (hstand : ∀ q ∈ y.arrived, u.stands q = true)
    (hskew : u.fleetSkew ch = 0) :
    let l := if y.trim then u.driftedWords g else []
    let drift := if y.trim then some (min (u.driftedWords g).length 0xFFFFF) else none
    let t := u.afterArrival ch g
    t.chan ch = { (y.next drift 0) with
      rel := if 1 < 2 ^ u.rampLog then some { phase := y.phase, steps := 2 ^ u.rampLog, next := 1, fleet := none } else none
      waits := y.waits.filter (fun q => !q.inStep y.phase (2 ^ u.rampLog) 0) } ∧
    t.ports = (u.answerAll ch (y.waits.filter (BWaiter.inStep y.phase (2 ^ u.rampLog) 0)) .ok (drift.getD 0)).ports ∧
    t.out.pm = .release u.rampLog 0 :: (if y.prewarned then [] else [.prewarn ch]) ++ u.out.pm ∧
    (∀ v, t.word v = if l.contains v then (u.word v).trimmed else u.word v) ∧
    (u.shadow.driftLog.length + l.length ≤ 64 → t.shadow.driftLog = u.shadow.driftLog ++ l.map u.driftEntry) ∧
    t.mem = u.mem ∧ t.link = u.link ∧ t.tt.flights = u.tt.flights := by
  subst hy
  intro l drift t
  have hc : u.childChips g = [] := by simp [State.childChips, State.foreignInputs, State.hosted, hf, uniq]
  have hnil : u.barrierTo [] 6 ch 0 (u.chan ch).phase false = u := rfl
  -- The pre-warn, and the mark that the count has gone up.
  generalize hv : (u.checkPrewarn ch g).setChan ch { (u.checkPrewarn ch g).chan ch with sentUp := true } = v
  have hvchan : v.chan ch = { u.chan ch with prewarned := (u.chan ch).prewarned || u.prewarnDue ch g, sentUp := true } := by
    rw [← hv, chan_setChan_same (checkPrewarn_sound h), checkPrewarn_chan h]
  have hvsound : v.Sound := hv ▸ setChan_sound (checkPrewarn_sound h)
  have hvonly : v = { u with
      tt := { u.tt with chans := v.tt.chans }
      out := { u.out with pm := (if u.prewarnDue ch g then [.prewarn ch] else []) ++ u.out.pm } } := by
    rw [← hv, checkPrewarn_only, hc, hnil, ite_self]
    rfl
  have htrim : (v.chan ch).trim = (u.chan ch).trim := by rw [hvchan]
  have hphase : (v.chan ch).phase = (u.chan ch).phase := by rw [hvchan]
  have hwaits : (v.chan ch).waits = (u.chan ch).waits := by rw [hvchan]
  have hdrifted : v.driftedWords g = u.driftedWords g := driftedWords_congr (by rw [hvonly]) (by rw [hvonly])
  have ht : t = (if (u.chan ch).trim then (v.chipDrift g).1 else v).endPhase ch drift := by
    simp only [t, afterArrival_complete h hlen hsent hstand, hv, countUp_alone hf, releaseAtRoot_alone hf, htrim, hdrifted, drift]
  -- The trim check.
  have htrimmed : Trimmed l v (if (u.chan ch).trim then (v.chipDrift g).1 else v) := by
    simp only [l]
    split
    · rw [← hdrifted]
      exact chipDrift_trimmed hvsound
    · exact trimmed_nil hvsound
  generalize (if (u.chan ch).trim then (v.chipDrift g).1 else v) = w at ht htrimmed
  have hwchan := htrimmed.only.chan ch
  have hramp : w.rampLog = u.rampLog := by rw [htrimmed.only, hvonly]; rfl
  have hwskew : w.fleetSkew ch = 0 := by
    rw [← hskew]
    exact fleetSkew_congr (by rw [htrimmed.only, hvonly]) (by rw [htrimmed.only, hvonly]) (by rw [hwchan, hvchan])
  -- The end of the phase.
  have hends := endPhase_ends (ch := ch) htrimmed.sound drift
  rw [← ht] at hends
  obtain ⟨hchan, hports, hpm⟩ := hends.releases hwskew
  rw [hramp, hwchan, hphase, hwaits] at hchan hports
  refine ⟨?_, ?_, ?_, fun x => ?_, fun hroom => ?_, ?_, ?_, ?_⟩
  · rw [hchan, hvchan]
    rfl
  · rw [hports]
    refine (actsOnPorts_answerAll _ _ _ _).congr _ _ ?_
    rw [htrimmed.only, hvonly]
  · rw [hpm, hramp, hwchan, hvchan, htrimmed.only, hvonly]
    cases hp : (u.chan ch).prewarned with
    | true =>
      have : u.prewarnDue ch g = false := by simp [State.prewarnDue, hp]
      simp [this]
    | false => cases u.prewarnDue ch g <;> simp
  · rw [show t.word x = w.word x by rw [hends.only]; rfl, htrimmed.word, show v.word x = u.word x by rw [hvonly]; rfl]
  · rw [show t.shadow = w.shadow by rw [hends.only], htrimmed.log (by rw [hvonly]; exact hroom)]
    rw [hvonly]
    rfl
  · rw [hends.only, htrimmed.only, hvonly]
  · rw [hends.only, htrimmed.only, hvonly]
  · rw [hends.only, htrimmed.only, hvonly]

end Sys2Proof.Machine

/-! SUPPORT. The rows of `ARRIVE` and `BWAIT`, outcome by outcome, and O12. -/

namespace Sys2Proof.Machine

open Sys2Proof

variable {s : State} {p : Pos} {w : BitVec 60} {g : Group} {ch : Nat}

/-- Only the pre-warn, and what the arrival itself does, shows while a member of this chip is missing. -/
theorem arrive_counted {c : Word64} (hc : ttCommand 8 w = c) (hch : bits c 0 6 = ch) (hs : s.Sound) (hlive : s.Live) (hno : s.NoFence)
    (h : FenceReady s p c) (hcounts : Counts s p ch g) (hreb : (s.port p).rebinding = false)
    (hlen : (s.chan ch).arrived.length + 1 < g.locals.length) :
    ∃ t, exec (.arrive p w) s = .next t ∧
      t.chan ch = { (s.chan ch).arrive p c with prewarned := (s.chan ch).prewarned || (s.counted p c).prewarnDue ch g } ∧
      (t.port p).resp = (s.port p).resp ++ (if bit c 57 then [] else [responseWord .ok 8 ch 0]) ∧
      t.tt.flights = s.tt.flights ∧ t.tt.words = s.tt.words ∧ t.mem = s.mem := by
  subst hc hch
  have hsound := counted_sound (p := p) (c := ttCommand 8 w) hs
  have hchan := counted_chan (p := p) (c := ttCommand 8 w) hs
  have honly := counted_only (s := s) (p := p) (c := ttCommand 8 w)
  have hresp := counted_resp (p := p) (c := ttCommand 8 w) hs hreb
  have hafter := afterArrival_incomplete (g := g) hsound (by rw [hchan]; simpa [Channel.arrive] using hlen)
  refine ⟨_, exec_arrive_counts hs hlive hno h hcounts, ?_, ?_, ?_, ?_, ?_⟩
  · rw [hafter, checkPrewarn_chan hsound, hchan]
    rfl
  · have hport : ((s.counted p (ttCommand 8 w)).checkPrewarn (bits (ttCommand 8 w) 0 6) g).port p =
        (s.counted p (ttCommand 8 w)).port p := by
      rw [checkPrewarn_only]
      rfl
    rw [hafter, hport, hresp]
    cases bit (ttCommand 8 w) 57 <;> simp
  · rw [afterArrival_flights, honly]
  · rw [hafter, checkPrewarn_only, honly]
  · rw [hafter, checkPrewarn_only, honly]

/-- A barrier wait is answered at once, or waits for the phase of the member's last arrival. -/
theorem bwait_outcome {c : Word64} (hc : ttCommand 9 w = c) (hch : bits c 0 6 = ch) (hs : s.Sound) (hlive : s.Live) (hno : s.NoFence)
    (h : FenceReady s p c) (hacc : s.channelRefusal ch p = none) (hreb : (s.port p).rebinding = false) :
    ∃ t, exec (.bwait p w) s = .next t ∧ t.tt.flights = s.tt.flights ∧ t.tt.words = s.tt.words ∧ t.mem = s.mem ∧
      (match (s.chan ch).lastOf p with
       | .never => (t.port p).resp = (s.port p).resp ++ [responseWord .badContext 9 ch 0] ∧ t.chan ch = s.chan ch
       | .cleared => (t.port p).resp = (s.port p).resp ++ [responseWord .aborted 9 ch 0] ∧ t.chan ch = s.chan ch
       | .inPhase n =>
         if (s.chan ch).releasedTo p n then
           (t.port p).resp = (s.port p).resp ++ [responseWord .ok 9 ch ((s.chan ch).lastDrift.getD 0)] ∧ t.chan ch = s.chan ch
         else (t.port p).resp = (s.port p).resp ∧
           t.chan ch = { s.chan ch with waits := (s.chan ch).waits ++ [{ pos := p.val, top := 9, tmo := bits c 52 4, phase := n }] }) := by
  subst hc hch
  have hexec := exec_bwait_applies hs hlive hno h
  have hanswer : ∀ st v, exec (.bwait p w) s = .next ((s.admitted p (ttCommand 9 w)).answerChannel p 9 (bits (ttCommand 9 w) 0 6) true st v) →
      ∃ t, exec (.bwait p w) s = .next t ∧ t.tt.flights = s.tt.flights ∧ t.tt.words = s.tt.words ∧ t.mem = s.mem ∧
        (t.port p).resp = (s.port p).resp ++ [responseWord st 9 (bits (ttCommand 9 w) 0 6) v] ∧
        t.chan (bits (ttCommand 9 w) 0 6) = s.chan (bits (ttCommand 9 w) 0 6) := fun st v hx => by
    obtain ⟨hresp, -, -, honly⟩ := admitted_answered (top := 9) (k := bits (ttCommand 9 w) 0 6) (v := v) (waits := true) (st := st) hs hreb
      (responds_of_fence (w := w) (by decide : (9 : Nat) < 16) (by decide))
    refine ⟨_, hx, ?_, ?_, ?_, hresp, ?_⟩ <;> rw [honly]
    rfl
  unfold State.applyBwait at hexec
  simp only [admitted_refusal, admitted_chan, hacc] at hexec
  cases hlast : (s.chan (bits (ttCommand 9 w) 0 6)).lastOf p with
  | never => exact hanswer _ _ (by simpa only [hlast] using hexec)
  | cleared => exact hanswer _ _ (by simpa only [hlast] using hexec)
  | inPhase n =>
    simp only [hlast] at hexec
    cases hrel : (s.chan (bits (ttCommand 9 w) 0 6)).releasedTo p n with
    | true =>
      simp only [hrel, if_true] at hexec ⊢
      exact hanswer _ _ hexec
    | false =>
      simp only [hrel, Bool.false_eq_true, if_false] at hexec ⊢
      refine ⟨_, hexec, ?_, ?_, ?_, ?_, chan_setChan_same (admitted_sound hs)⟩
      · rw [admitted_eq]
        rfl
      · rw [admitted_eq]
        rfl
      · rw [admitted_eq]
        rfl
      · exact (admitted_resp hs p).1

/-- Why an arrival or a barrier wait is refused by its channel. -/
def Refused (s : State) (p : Pos) (k : Nat) (ch : Nat) (st : CStatus) : Prop :=
  ((s.chan ch).st = .unbound ∧ st = .badContext) ∨ ((s.chan ch).st = .broken ∧ st = .orphan) ∨
    ((s.chan ch).st = .armed ∧ (∃ g, s.group (s.chan ch).group = some g ∧ g.has p = false) ∧ st = .notOwner) ∨
    (k = 8 ∧ s.channelRefusal ch p = none ∧ st = .overfill ∧
      ((s.chan ch).arrived.contains p.val = true ∨ ∃ n, (s.chan ch).lastOf p = .inPhase n ∧ (s.chan ch).releasedTo p n = false))

/-- The channel itself refuses the command, or the arrival comes again. -/
theorem Refused.cases {k : Nat} {st : CStatus} (h : Refused s p k ch st) : s.channelRefusal ch p = some st ∨
    (k = 8 ∧ s.channelRefusal ch p = none ∧ st = .overfill ∧ ((s.chan ch).arrived.contains p.val || (s.chan ch).unreleased p) = true) := by
  obtain ⟨hst, rfl⟩ | ⟨hst, rfl⟩ | ⟨hst, ⟨g, hg, hhas⟩, rfl⟩ | ⟨rfl, hnone, rfl, hagain⟩ := h
  · exact .inl (by simp [State.channelRefusal, hst])
  · exact .inl (by simp [State.channelRefusal, hst])
  · exact .inl (by simp [State.channelRefusal, hst, hg, hhas])
  · refine .inr ⟨rfl, hnone, rfl, Bool.or_eq_true_iff.mpr (hagain.imp_right fun ⟨n, hn, hrel⟩ => ?_)⟩
    simp [Channel.unreleased, hn, hrel]

theorem arrive_refused {st : CStatus} (hs : s.Sound) (hlive : s.Live) (hno : s.NoFence) (h : FenceReady s p (ttCommand 8 w))
    (href : Refused s p 8 (bits (ttCommand 8 w) 0 6) st) : exec (.arrive p w) s =
      .next ((s.admitted p (ttCommand 8 w)).answerChannel p 8 (bits (ttCommand 8 w) 0 6) (bit (ttCommand 8 w) 57) st 0) := by
  rw [exec_arrive_applies hs hlive hno h]
  obtain hst | ⟨-, hnone, rfl, hagain⟩ := href.cases
  · rw [applyArrive_refused (by rw [admitted_refusal]; exact hst)]
  · rw [applyArrive_overfills (by rw [admitted_refusal]; exact hnone) (by rw [admitted_chan]; exact hagain)]

theorem bwait_refused {st : CStatus} (hs : s.Sound) (hlive : s.Live) (hno : s.NoFence) (h : FenceReady s p (ttCommand 9 w))
    (href : Refused s p 9 (bits (ttCommand 9 w) 0 6) st) : exec (.bwait p w) s =
      .next ((s.admitted p (ttCommand 9 w)).answerChannel p 9 (bits (ttCommand 9 w) 0 6) true st 0) := by
  rw [exec_bwait_applies hs hlive hno h]
  obtain hst | ⟨h9, -⟩ := href.cases
  · rw [applyBwait_refused (by rw [admitted_refusal]; exact hst)]
  · exact absurd h9 (by decide)

/-- A row that only answers its command. -/
theorem answered_only {c : Word64} {i : Instr} {top k v : Nat} {waits : Bool} {st : CStatus} (hs : s.Sound)
    (hreb : (s.port p).rebinding = false) (hresp : cResponds c = true)
    (hexec : exec i s = .next ((s.admitted p c).answerChannel p top k waits st v)) :
    ∃ t, exec i s = .next t ∧ (t.port p).resp = (s.port p).resp ++ [responseWord st top k v] ∧
      (t.port p).credits = (s.port p).credits - 1 ∧ (∀ q, q ≠ p.val → t.port q = s.port q) ∧ t.tt = s.tt ∧ t.mem = s.mem ∧
      t.shadow = s.shadow ∧ t.counters = s.counters ∧ t.link = s.link ∧ t.out = s.out := by
  obtain ⟨hanswer, hcredits, hothers, honly⟩ := admitted_answered (top := top) (k := k) (v := v) (waits := waits) (st := st) hs hreb hresp
  refine ⟨_, hexec, hanswer, hcredits, hothers, ?_, ?_, ?_, ?_, ?_, ?_⟩ <;> rw [honly]

/-- The count of a chip that hosts no fold node leaves it (R308). -/
theorem lastArrival_leaves {c : Word64} (hc : ttCommand 8 w = c) (hch : bits c 0 6 = ch) (hs : s.Sound) (hlive : s.Live) (hno : s.NoFence)
    (h : FenceReady s p c) (hcounts : Counts s p ch g) (hlen : (s.chan ch).arrived.length + 1 = g.locals.length) (hfolds : g.folds ≠ [])
    (hhost : s.hosted g = []) {r : FoldRec} {j : Nat} {i : FoldInput} (hnext : s.nextNode g none = some (r, j, i))
    (hsent : (s.chan ch).sentUp = false) (hstand : ∀ q ∈ (s.chan ch).arrived ++ [p.val], s.stands q = true) :
    ∃ t, exec (.arrive p w) s = .next t ∧ (t.chan ch).arrived = (s.chan ch).arrived ++ [p.val] ∧ (t.chan ch).phase = (s.chan ch).phase ∧
      (t.chan ch).sentUp = true ∧
      t.link = (s.barrierTo (uniq ([s.hostOf r] ++ s.standbysOf r)) 3 ch (min ((s.chan ch).arrived.length + 1) 0xFFFFF) (s.chan ch).phase
        ((s.chan ch).trim || bit c 58)).link ∧
      t.out = s.out ∧ t.mem = s.mem ∧ t.tt.words = s.tt.words := by
  subst hc hch
  have hexec := exec_arrive_counts hs hlive hno h hcounts
  have hsound := counted_sound (p := p) (c := ttCommand 8 w) hs
  have hchan := counted_chan (p := p) (c := ttCommand 8 w) hs
  have honly := counted_only (s := s) (p := p) (c := ttCommand 8 w)
  generalize bits (ttCommand 8 w) 0 6 = ch at *
  generalize s.counted p (ttCommand 8 w) = u at *
  have htopo : u.topo = s.topo := by rw [honly]
  have hreads : ∀ v : State, v.topo = s.topo → v.hosted g = [] ∧ v.nextNode g none = some (r, j, i) ∧ v.hostOf r = s.hostOf r ∧
      v.standbysOf r = s.standbysOf r := fun v hv => by
    have hview : ∀ {α : Type} (f : State → α), (f v = f { s with topo := v.topo }) → f v = f s := fun f hf => by rw [hf, hv]
    exact ⟨(hview (·.hosted g) rfl).trans hhost, (hview (·.nextNode g none) rfl).trans hnext, hview (·.hostOf r) rfl,
      hview (·.standbysOf r) rfl⟩
  have hnotdue : u.prewarnDue ch g = false := by
    simp [State.prewarnDue, State.hasRoot, (hreads u htopo).1, hfolds]
  have hstands : u.stands = s.stands := by rw [honly]; rfl
  have hafter := afterArrival_complete (ch := ch) (g := g) hsound (by rw [hchan]; simpa [Channel.arrive] using hlen) (by rw [hchan]; exact hsent)
    (by rw [hchan, hstands]; exact hstand)
  rw [checkPrewarn_not_due hnotdue, hchan] at hafter
  generalize hv : u.setChan ch { (s.chan ch).arrive p (ttCommand 8 w) with sentUp := true } = v at hafter
  have hvchan : v.chan ch = { (s.chan ch).arrive p (ttCommand 8 w) with sentUp := true } := by rw [← hv, chan_setChan_same hsound]
  have hvonly : v = { u with tt := v.tt } := by rw [← hv]; rfl
  have hvtopo : v.topo = s.topo := by rw [hvonly]; exact htopo
  obtain ⟨hvhost, hvnext, hvhostOf, hvstandbys⟩ := hreads v hvtopo
  rw [countUp_leaves hvhost hvnext, hvhostOf, hvstandbys, hvchan] at hafter
  have hsend := actsOnLink_barrierTo (uniq ([s.hostOf r] ++ s.standbysOf r)) 3 ch (min ((s.chan ch).arrived.length + 1) 0xFFFFF)
    (s.chan ch).phase ((s.chan ch).trim || bit (ttCommand 8 w) 58)
  have hcount : ((s.chan ch).arrive p (ttCommand 8 w)).arrived.length = (s.chan ch).arrived.length + 1 := by simp [Channel.arrive]
  rw [hcount] at hafter
  have hlink : v.link = s.link := by rw [hvonly, honly]
  refine ⟨v.barrierTo (uniq ([s.hostOf r] ++ s.standbysOf r)) 3 ch (min ((s.chan ch).arrived.length + 1) 0xFFFFF) (s.chan ch).phase
    ((s.chan ch).trim || bit (ttCommand 8 w) 58), hexec.trans (congrArg Host.Outcome.next hafter), ?_, ?_, ?_,
    hsend.congr _ _ hlink hvtopo, ?_, ?_, ?_⟩
  · rw [hsend.chan, hvchan]
    rfl
  · rw [hsend.chan, hvchan]
    rfl
  · rw [hsend.chan, hvchan]
  · rw [hsend.only, hvonly, honly]
  · rw [hsend.only, hvonly, honly]
  · rw [hsend.only, ← hv, honly]
    rfl

/-- The last arrival of a group of one chip ends the phase: what the member's own port and the waiters get, and what becomes of the channel. -/
theorem arrive_ends {c : Word64} (hc : ttCommand 8 w = c) (hch : bits c 0 6 = ch) (hs : s.Sound) (hlive : s.Live) (hno : s.NoFence)
    (h : FenceReady s p c) (hcounts : Counts s p ch g) (hlen : (s.chan ch).arrived.length + 1 = g.locals.length) (hfolds : g.folds = [])
    (hsent : (s.chan ch).sentUp = false) (hstand : ∀ q ∈ (s.chan ch).arrived ++ [p.val], s.stands q = true)
    (hskew : s.fleetSkew ch = 0) :
    let y := (s.chan ch).arrive p c
    let l := if y.trim then s.driftedWords g else []
    let drift := if y.trim then some (min (s.driftedWords g).length 0xFFFFF) else none
    ∃ t, exec (.arrive p w) s = .next t ∧ t.chan ch = { (y.next drift 0) with
        rel := if 1 < 2 ^ s.rampLog then some { phase := y.phase, steps := 2 ^ s.rampLog, next := 1, fleet := none } else none
        waits := y.waits.filter (fun q => !q.inStep y.phase (2 ^ s.rampLog) 0) } ∧
      (∀ q, (s.port q).rebinding = false → (t.port q).resp = (s.port q).resp ++
        (if q = p.val ∧ bit c 57 = false then [responseWord .ok 8 ch 0] else []) ++
        ((sortBy BWaiter.pos (y.waits.filter (BWaiter.inStep y.phase (2 ^ s.rampLog) 0))).filter (fun y => y.pos == q)).map
          (fun y => responseWord .ok y.top ch (drift.getD 0))) ∧
      t.out.pm = .release s.rampLog 0 :: (if y.prewarned then [] else [.prewarn ch]) ++ s.out.pm ∧
      (∀ v, t.word v = if l.contains v then (s.word v).trimmed else s.word v) ∧
      (s.shadow.driftLog.length + l.length ≤ 64 → t.shadow.driftLog = s.shadow.driftLog ++ l.map s.driftEntry) ∧
      t.mem = s.mem ∧ t.link = s.link ∧ t.tt.flights = s.tt.flights := by
  subst hc hch
  intro y l drift
  have hexec := exec_arrive_counts hs hlive hno h hcounts
  have hsound := counted_sound (p := p) (c := ttCommand 8 w) hs
  have hchan := counted_chan (p := p) (c := ttCommand 8 w) hs
  have honly := counted_only (s := s) (p := p) (c := ttCommand 8 w)
  have hresp := fun q => counted_resp (q := q) (p := p) (c := ttCommand 8 w) hs
  have hreb := counted_rebinding (p := p) (c := ttCommand 8 w) hs
  generalize s.counted p (ttCommand 8 w) = u at *
  have hwords : u.driftedWords g = s.driftedWords g := driftedWords_congr (by rw [honly]) (by rw [honly])
  have hstands : u.stands = s.stands := by rw [honly]; rfl
  have hramp : u.rampLog = s.rampLog := by rw [honly]; rfl
  have huskew : u.fleetSkew (bits (ttCommand 8 w) 0 6) = 0 :=
    (fleetSkew_congr (t := s) (by rw [honly]) (by rw [honly]) (by rw [hchan]; rfl)).trans hskew
  have hword : u.word = s.word := by rw [honly]; rfl
  have hends := lastArrival_ends (g := g) (y := y) hsound hchan hfolds (by simpa [y, Channel.arrive] using hlen) hsent
    (by rw [hstands]; exact hstand) huskew
  rw [hwords, hramp, hword] at hends
  obtain ⟨hchan', hports, hpm, hwords', hlog, hmem, hlink, hflights⟩ := hends
  refine ⟨_, hexec, hchan', fun q hq => ?_, ?_, hwords', fun hroom => ?_, ?_, ?_, ?_⟩
  · have : ∀ v v' : State, v.ports = v'.ports → v.port q = v'.port q := fun v v' hv => by simp only [State.port, hv]
    rw [this _ _ hports, resp_answerAll hsound (by rw [hreb]; exact hq), hresp q hq]
  · rw [hpm, honly]
  · have : u.driftEntry = s.driftEntry := by rw [honly]; rfl
    rw [hlog (by rw [honly]; exact hroom), this, honly]
  · rw [hmem, honly]
  · rw [hlink, honly]
  · rw [hflights, honly]

/-- Settles O12: by the outcome of the arrival or of the barrier wait at its channel. -/
theorem arrivalsAndBarrierWaits : Obligations.ArrivalsAndBarrierWaits := by
  unfold Obligations.ArrivalsAndBarrierWaits
  refine ⟨?_, ?_, ?_, ?_, ?_⟩
  case refine_1 =>
    intro s p w g hs hlive hno c ch x hcheck hcr hreb hfirst hheld hacc hg hfresh hrel hlen
    have hcounts : Counts s p ch g := ⟨hacc, hg, hfresh, hrel⟩
    obtain ⟨t, hexec, hchan, hresp, hflights, hwords, hmem⟩ := arrive_counted rfl rfl hs hlive hno ⟨hcheck, hcr, hfirst, hheld⟩ hcounts hreb hlen
    refine ⟨t, hexec, ?_, ?_, ?_, ?_, ?_, hresp, hflights, hwords, hmem⟩ <;> rw [hchan]
    · rfl
    · rfl
    · exact hcounts.armed
    · rfl
    · simp only [Channel.arrive]
      split <;> simp [x, ch, c]
  case refine_2 =>
    intro s p w hs hlive hno c ch x hcheck hcr hreb hfirst hheld hacc
    exact bwait_outcome rfl rfl hs hlive hno ⟨hcheck, hcr, hfirst, hheld⟩ hacc hreb
  case refine_3 =>
    intro s p w st hs hlive hno r hr c x hcheck hcr hreb hfirst hheld href
    obtain rfl | rfl : r = (.arrive p w, 8) ∨ r = (.bwait p w, 9) := by simpa using hr
    · exact answered_only hs hreb (responds_of_fence (by decide) (by decide)) (arrive_refused hs hlive hno ⟨hcheck, hcr, hfirst, hheld⟩ href)
    · exact answered_only hs hreb (responds_of_fence (by decide) (by decide)) (bwait_refused hs hlive hno ⟨hcheck, hcr, hfirst, hheld⟩ href)
  case refine_4 =>
    intro s p w g hs hlive hno c ch x hcheck hcr hfirst hheld hacc hg hfresh hrel hlen hfolds hsent hstand hskew trim waits l steps now value
    have hcounts : Counts s p ch g := ⟨hacc, hg, hfresh, hrel⟩
    obtain ⟨t, hexec, hchan, hresp, hpm, hwords, hlog, hmem, hlink, hflights⟩ :=
      arrive_ends (c := c) (ch := ch) rfl rfl hs hlive hno ⟨hcheck, hcr, hfirst, hheld⟩ hcounts hlen hfolds hsent hstand hskew
    have hwaits : ((s.chan ch).arrive p c).waits = waits := by
      simp only [Channel.arrive, waits]
      split <;> simp [x, ch, c]
    have hdrift : (if trim then some (min (s.driftedWords g).length 0xFFFFF) else none) = (if trim then some value else none) := by
      cases htrim : trim <;> simp [value, l, htrim]
    have hvalue : (if trim then some value else none).getD 0 = value := by
      cases htrim : trim <;> simp [value, htrim]
    have hsteps : (if 1 < steps then some ({ phase := x.phase, steps := steps, next := 1, fleet := none } : Release) else none) =
        if steps = 1 then none else some { phase := x.phase, steps := steps, next := 1, fleet := none } := by
      have : 1 ≤ steps := Nat.one_le_two_pow
      by_cases h1 : steps = 1
      · rw [if_pos h1, if_neg (by omega)]
      · rw [if_neg h1, if_pos (by omega)]
    simp only [hwaits] at hchan hresp
    refine ⟨t, hexec, ?_, ?_, ?_, ?_, ?_, ?_, ?_, ?_, fun q hq => ?_, hpm, hwords, hlog, hmem, hlink, hflights⟩
    · rw [hchan]
      exact hcounts.armed
    · rw [hchan]
      rfl
    · rw [hchan]
      rfl
    · rw [hchan]
      rfl
    · rw [hchan]
      rfl
    · rw [hchan]
      exact hdrift
    · rw [hchan]
      exact hsteps
    · rw [hchan]
      rfl
    · rw [← hvalue, ← hdrift]
      exact hresp q hq
  case refine_5 =>
    intro s p w g r j i hs hlive hno c ch x hcheck hcr hfirst hheld hacc hg hfresh hrel hlen hfolds hhost hnext hsent hstand
    exact lastArrival_leaves rfl rfl hs hlive hno ⟨hcheck, hcr, hfirst, hheld⟩ ⟨hacc, hg, hfresh, hrel⟩ hlen hfolds hhost hnext hsent hstand

end Sys2Proof.Machine

/-! SUPPORT. Stores to the host window, register by register (R324, R325, R327, R329, Table 11-3), and O30. -/

namespace Sys2Proof.Machine

open Sys2Proof

variable {s : State} {ofs v : Nat}

/-- A discarded store sets the indication, and leaves its offset where it is the first (Table 11-3). -/
theorem winErr_eq : s.winErr ofs = { s with win := { s.win with
    werr := true, werrOfs := if s.win.werr then s.win.werrOfs else BitVec.ofNat 16 ofs } } := by
  unfold State.winErr
  split
  · next h => rw [← h]
  · rfl

/-- An aligned 32-bit store outside the command slots goes to the register at its offset. -/
theorem hostStore_register (hon : s.power.st ≠ .off) (hofs : ofs < 0x1000) (halign : ofs % 4 = 0) (hv : v < 2 ^ 32) :
    s.hostStore ofs 4 v = s.writeReg ofs v := by
  have hno : ¬((4 : Nat) = 0 ∨ s.power.st = .off) := by simp [hon]
  have hout : ¬(0x1000 ≤ ofs ∧ ofs < 0x2000) := by omega
  rw [State.hostStore, if_neg hno, if_neg hout, if_pos ⟨rfl, halign⟩, Nat.mod_eq_of_lt hv]

/-- A store to the command slots has one of three sizes, and is aligned (log 38). -/
theorem hostStore_slot {n : Nat} (hon : s.power.st ≠ .off) (hlo : 0x1000 ≤ ofs) (hhi : ofs < 0x2000) (hn : n ∈ [1, 4, 8])
    (halign : ofs % n = 0) :
    s.hostStore ofs n v = { s with win := { s.win with slots := putBytes s.win.slots (ofs - 0x1000) (leBytes n v) } } := by
  have hsize : n = 1 ∨ n = 4 ∨ n = 8 := by simpa using hn
  have hno : ¬(n = 0 ∨ s.power.st = .off) := by
    rintro (h0 | hoff)
    · omega
    · exact hon hoff
  rw [State.hostStore, if_neg hno, if_pos ⟨hlo, hhi⟩, if_pos ⟨hsize, halign⟩]

/-- The registers that take a store. -/
def writable : List Nat := [0x08, 0x10, 0x1C, 0x20, 0x24, 0x28, 0x30]

theorem writeReg_readOnly (h : ofs ∉ writable) : s.writeReg ofs v = s.winErr ofs := by
  unfold State.writeReg
  split
  case h_8 => rfl
  all_goals exact absurd (by decide) h

/-- Any other store is discarded. -/
theorem hostStore_discarded {n : Nat} (hon : s.power.st ≠ .off) (hn : n ≠ 0)
    (hslot : 0x1000 ≤ ofs → ofs < 0x2000 → n ∉ [1, 4, 8] ∨ ofs % n ≠ 0)
    (hreg : ofs < 0x1000 ∨ 0x2000 ≤ ofs → n ≠ 4 ∨ ofs % 4 ≠ 0 ∨ ofs ∉ writable) : s.hostStore ofs n v = s.winErr ofs := by
  have hno : ¬(n = 0 ∨ s.power.st = .off) := by
    rintro (h0 | hoff)
    · exact hn h0
    · exact hon hoff
  rw [State.hostStore, if_neg hno]
  by_cases hin : 0x1000 ≤ ofs ∧ ofs < 0x2000
  · rw [if_pos hin, if_neg]
    rintro ⟨hsize, halign⟩
    obtain hbad | hbad := hslot hin.1 hin.2
    · exact hbad (by simpa using hsize)
    · exact hbad halign
  · rw [if_neg hin]
    split
    · next h4 =>
      obtain hbad | hbad | hbad := hreg (by omega)
      · exact absurd h4.1 hbad
      · exact absurd h4.2 hbad
      · exact writeReg_readOnly hbad
    · rfl

theorem hostStore_off {n : Nat} (hoff : s.power.st = .off) : s.hostStore ofs n v = s := by
  rw [State.hostStore, if_pos (.inr hoff)]

/-- The capture of a sync word shows in the two capture registers (R178). -/
theorem capture_shows (hv : v < 65536) :
    let t : State := { s with win := { s.win with sel := BitVec.ofNat 16 v, capArch := (s.word v).arch, capShadow := s.shadowWord v } }
    t.hostLoad 0x38 8 = (s.word v).arch.toNat ∧ t.hostLoad 0x40 8 = (s.shadowWord v).toNat ∧ t.hostLoad 0x30 4 = v := by
  refine ⟨Nat.mod_eq_of_lt (s.word v).arch.isLt, Nat.mod_eq_of_lt (s.shadowWord v).isLt, ?_⟩
  change (BitVec.ofNat 16 v).toNat % 2 ^ 32 = v
  rw [BitVec.toNat_ofNat]
  omega

/-- Settles O30: register by register. -/
theorem hostWindowIsWritten : Obligations.HostWindowIsWritten := by
  unfold Obligations.HostWindowIsWritten
  refine ⟨fun s v hon => ?_, fun s v hon => ?_⟩
  · intro w n bad rung badRing badHead
    have hstore : ∀ ofs, ofs < 0x1000 → ofs % 4 = 0 → s.hostStore ofs 4 n = s.writeReg ofs n := fun ofs h h4 =>
      hostStore_register hon h h4 v.isLt
    have hzext : (v.zeroExtend 64).toNat = n := by
      have := v.isLt
      simp only [BitVec.truncate_eq_setWidth, BitVec.toNat_setWidth, n]
      omega
    have hring : exec (.hwDoorbell v) s = .next (s.ring n) := congrArg Host.Outcome.next (hstore 0x10 (by decide) (by decide))
    have hhead : exec (.hwRspHead v) s = .next (s.writeRspHead n) := congrArg Host.Outcome.next (hstore 0x1C (by decide) (by decide))
    have hmask : exec (.hwIrqMask v) s = .next (s.writeIrqMask n) := congrArg Host.Outcome.next (hstore 0x24 (by decide) (by decide))
    have hwrite : ∀ (ofs : BitVec 16) (k : Fin 9) (x : Word64), exec (.hostWindowWrite ofs k x) s = .next (s.hostStore ofs.toNat k x.toNat) :=
      fun _ _ _ => rfl
    have hvec : exec (.hostWindowWrite 0x0028 4 (v.zeroExtend 64)) s = .next (s.writeIrqVec n) := by
      rw [hwrite, hzext]
      exact congrArg Host.Outcome.next (hstore 0x28 (by decide) (by decide))
    refine ⟨fun h => ?_, fun h => ?_, fun h => ?_, fun h => ?_, fun h => ?_, fun h => ?_, fun r hr => ?_, fun ofs k x hlo hhi hk halign => ?_,
      fun ofs k x hk hslot hreg => ?_, ?_, fun h => ?_, fun h => ?_, fun h => ?_⟩
    · exact hring.trans (congrArg Host.Outcome.next (if_pos h))
    · exact hring.trans (congrArg Host.Outcome.next (if_neg h))
    · exact hhead.trans (congrArg Host.Outcome.next (if_pos h))
    · exact hhead.trans (congrArg Host.Outcome.next (if_neg h))
    · exact hmask.trans (congrArg Host.Outcome.next (if_pos h))
    · exact ⟨_, hmask.trans (congrArg Host.Outcome.next (if_neg (Nat.not_le.mpr h))), rfl, rfl⟩
    · have hmem : r = (0x0010#16, .hwDoorbell v) ∨ r = (0x001C#16, .hwRspHead v) ∨ r = (0x0024#16, .hwIrqMask v) ∨
          r = (0x0030#16, .ttInspectSel v) := by simpa using hr
      rw [hwrite, hzext]
      obtain rfl | rfl | rfl | rfl := hmem <;> rfl
    · exact ⟨_, (hwrite _ _ _).trans (congrArg Host.Outcome.next (hostStore_slot hon hlo hhi hk halign)), rfl, rfl⟩
    · exact (hwrite _ _ _).trans (congrArg Host.Outcome.next (hostStore_discarded hon hk hslot hreg))
    · exact (hwrite _ _ _).trans (congrArg Host.Outcome.next (hostStore_register hon (by decide) (by decide) (by decide)))
    · rw [hwrite, hzext]
      exact congrArg Host.Outcome.next ((hstore 0x20 (by decide) (by decide)).trans (if_neg (Nat.not_le.mpr h)))
    · refine hvec.trans (congrArg Host.Outcome.next ((if_pos h).trans ?_))
      simp only [n, BitVec.ofNat_toNat, BitVec.setWidth_eq, w]
    · exact hvec.trans (congrArg Host.Outcome.next (if_neg (ne_true_of_eq_false h)))
  · intro w
    have hcap : exec (.ttInspectSel v) s = .next (s.capture w) :=
      congrArg Host.Outcome.next (hostStore_register hon (by decide) (by decide) v.isLt)
    refine ⟨fun hw hix => ?_, fun hbad => ?_, fun x ofs k y hoff => ?_⟩
    · obtain ⟨harch, hshadow, hsel⟩ := capture_shows (s := s) hw
      exact ⟨_, hcap.trans (congrArg Host.Outcome.next (if_neg (by omega))), rfl, harch, hshadow, hsel⟩
    · exact ⟨_, hcap.trans (congrArg Host.Outcome.next ((if_pos hbad).trans winErr_eq)), rfl, rfl⟩
    · exact ⟨congrArg Host.Outcome.next (hostStore_off hoff), congrArg Host.Outcome.next (hostStore_off hoff)⟩

end Sys2Proof.Machine

/-! SUPPORT. Groups and contexts (R341 to R344, R273, R165, R167): the tables that their commands write, the distance table, and O34. -/

namespace Sys2Proof.Machine

open Sys2Proof

variable {s : State}

/-! ## Partial maps -/

section Maps

variable {α : Type} {m : Tbl α} {k j : Nat}

theorem Tbl.find_put_other (v : α) (h : j ≠ k) : (m.put k v).find j = m.find j := by
  induction m with
  | nil => simp [Tbl.put, Tbl.find, Ne.symm h]
  | cons e m ih =>
    obtain ⟨i, w⟩ := e
    unfold Tbl.put
    split
    · rw [Tbl.find, ih, Tbl.find]
    · split
      · next hi => rw [Tbl.find, if_neg (Ne.symm h), Tbl.find, if_neg (hi ▸ Ne.symm h)]
      · rw [Tbl.find, if_neg (Ne.symm h)]

theorem Tbl.find_del_same : (m.del k).find k = none := by
  induction m with
  | nil => rfl
  | cons e m ih =>
    obtain ⟨i, w⟩ := e
    by_cases hi : i = k
    · simpa [Tbl.del, hi] using ih
    · simpa [Tbl.del, hi, Tbl.find] using ih

theorem Tbl.find_del_other (h : j ≠ k) : (m.del k).find j = m.find j := by
  induction m with
  | nil => rfl
  | cons e m ih =>
    obtain ⟨i, w⟩ := e
    by_cases hi : i = k
    · subst hi
      simpa [Tbl.del, Tbl.find, Ne.symm h] using ih
    · by_cases hj : i = j
      · subst hj
        simp [Tbl.del, hi, Tbl.find]
      · simpa [Tbl.del, hi, hj, Tbl.find] using ih

end Maps

/-! ## The distance table (R273) -/

/-- An entry rests on the topology. -/
theorem dtEntry_congr {t : State} (h : t.topo = s.topo) (g : Nat) : t.dtEntry g = s.dtEntry g := by
  have : t.dtEntry g = ({ s with topo := t.topo } : State).dtEntry g := rfl
  rw [this, h]

theorem dtEntry_length (g : Nat) : (s.dtEntry g).length = 8 := by
  unfold State.dtEntry
  split
  · exact leBytes_length _ _
  · exact leBytes_length _ _

/-- Before the table is published nothing is written to it. -/
theorem publish_unpublished (h : s.topo.dtPub = false) (l : List Nat) : s.publish l = s := if_neg (ne_true_of_eq_false h)

/-- The entry of one group, and the table's generation, are all that is written. -/
structure EntryWritten (s t : State) (g : Nat) : Prop where
  topo : t.topo = { s.topo with dtGen := s.topo.dtGen + 2 }
  entry : Memory.readN t.mem (s.inp.regions.dist + 64 + 8 * g) 8 = t.dtEntry g
  outside : ∀ a, (a < s.inp.regions.dist ∨ s.inp.regions.dist + 4 ≤ a) →
    (a < s.inp.regions.dist + 64 + 8 * g ∨ s.inp.regions.dist + 64 + 8 * g + 8 ≤ a) → Memory.read t.mem a = Memory.read s.mem a
  only : t = { s with topo := t.topo, mem := t.mem }

theorem publish_entry (hs : s.Sound) (h : s.topo.dtPub = true) (g : Nat) : EntryWritten s (s.publish [g]) g := by
  generalize hu : ({ s with topo := { s.topo with dtGen := s.topo.dtGen + 2 } } : State) = u
  have hpub : s.publish [g] = store (store u (s.inp.regions.dist + 64 + 8 * g) (u.dtEntry g)) s.inp.regions.dist (wordBytes 4 u.topo.dtGen) := by
    rw [← hu]
    exact if_pos h
  have htopo : (s.publish [g]).topo = u.topo := by rw [hpub]; rfl
  have hentry : ∀ i, i < 8 → Memory.read (s.publish [g]).mem (s.inp.regions.dist + 64 + 8 * g + i) =
      Memory.read (Memory.writeN u.mem (s.inp.regions.dist + 64 + 8 * g) (u.dtEntry g)) (s.inp.regions.dist + 64 + 8 * g + i) := fun i _ => by
    rw [hpub]
    exact Memory.read_writeN_outside (.inr (by simp only [wordBytes, leBytes_length]; omega))
  refine ⟨?_, ?_, fun a hgen hent => ?_, ?_⟩
  · rw [htopo, ← hu]
  · rw [dtEntry_congr htopo]
    have hread := Memory.readN_writeN (m := u.mem) (s.inp.regions.dist + 64 + 8 * g) (u.dtEntry g) (by rw [← hu]; exact hs.mem_wf)
    rw [dtEntry_length] at hread
    refine Eq.trans ?_ hread
    exact List.map_congr_left fun i hi => hentry i (List.mem_range.mp hi)
  · rw [hpub]
    have hmem : u.mem = s.mem := by rw [← hu]
    refine (Memory.read_writeN_outside (by simp only [wordBytes, leBytes_length]; omega)).trans ?_
    rw [← hmem]
    exact Memory.read_writeN_outside (by rw [dtEntry_length]; omega)
  · rw [hpub, ← hu]
    rfl

/-! ## What the answer of a command writes -/

/-- The response ring after an answer rests on the window alone. -/
theorem reply_win_congr {t : State} (h : t.win = s.win) (c : Cmd) (st : Nat) (body : List Byte) : (t.reply c st body).win = (s.reply c st body).win := by
  have : (t.reply c st body).win = (({ s with win := t.win } : State).reply c st body).win := rfl
  rw [this, h]

theorem reply_only (c : Cmd) (st : Nat) (body : List Byte) :
    s.reply c st body = { s with win := (s.reply c st body).win, out := (s.reply c st body).out } := rfl

/-- Each check of a command that is accepted has passed. -/
theorem check_of_passes {n code : Nat} {mine : Cmd → Bool} {len : Cmd → Nat} {checks : State → Cmd → List Check} {k : Check}
    (h : s.Passes n code mine len checks) (hk : k ∈ checks s (s.slotCmd n)) : k.1 = false := by
  obtain ⟨-, -, -, hnone⟩ := h
  exact firstDeny_none hnone (List.mem_append_right _ hk)

/-! ## The rows -/

section Rows

variable {n : SlotNo}

/-- What a command that changes the groups writes beside them: the entry of its group, and its response. -/
structure GroupsWritten (s t : State) (n : SlotNo) (groups : Tbl Group) (g : Nat) : Prop where
  groups : t.topo.groups = groups
  gen : t.topo.dtGen = if s.topo.dtPub then s.topo.dtGen + 2 else s.topo.dtGen
  silent : s.topo.dtPub = false → t.mem = s.mem
  written : s.topo.dtPub = true → Memory.readN t.mem (s.inp.regions.dist + 64 + 8 * g) 8 = t.dtEntry g ∧
    ∀ a, (a < s.inp.regions.dist ∨ s.inp.regions.dist + 4 ≤ a) →
      (a < s.inp.regions.dist + 64 + 8 * g ∨ s.inp.regions.dist + 64 + 8 * g + 8 ≤ a) → Memory.read t.mem a = Memory.read s.mem a
  win : t.win = (s.answered n rsDone []).win
  rest : t.ctxs = s.ctxs ∧ t.mh = s.mh ∧ t.tt = s.tt ∧ t.link = s.link

/-- A change of the groups is published, and answered. -/
theorem groupsWritten (hs : s.Sound) {x : Topo} (hgen : x.dtGen = s.topo.dtGen) (hpub : x.dtPub = s.topo.dtPub) (g : Nat) :
    GroupsWritten s ((({ s.take n with topo := x } : State).publish [g]).reply (s.slotCmd n) rsDone []) n x.groups g := by
  cases h : s.topo.dtPub with
  | false =>
    rw [publish_unpublished (hpub.trans h)]
    exact ⟨rfl, by rw [h]; exact hgen, fun _ => rfl, fun hp => absurd (h.symm.trans hp) (by decide), reply_win_congr rfl _ _ _, rfl, rfl, rfl, rfl⟩
  | true =>
    obtain ⟨htopo, hentry, houtside, honly⟩ := publish_entry (s := { s.take n with topo := x }) hs (hpub.trans h) g
    generalize ({ s.take n with topo := x } : State).publish [g] = t at *
    refine ⟨?_, ?_, fun hp => absurd (h.symm.trans hp) (by decide), fun _ => ⟨?_, houtside⟩, ?_, ?_⟩
    · rw [reply_only, htopo]
    · rw [reply_only, htopo, h, ← hgen]
      rfl
    · exact hentry.trans (dtEntry_congr (s := t) rfl g).symm
    · exact reply_win_congr (by rw [honly]) _ _ _
    · rw [reply_only, honly]
      exact ⟨rfl, rfl, rfl, rfl⟩

theorem exec_groupDefine_passes (h : s.Passes n 0x12 anyCmd (fun _ => 16) State.groupChecks) :
    let c := s.slotCmd n
    exec (.groupDefine n) s = .next ((({ s.take n with topo := { s.topo with
      groups := s.topo.groups.put (c.nat 16 2) (Block.group (load s (c.nat 20 8) (c.nat 28 4))) } } : State).publish [c.nat 16 2]).reply c rsDone []) :=
  congrArg ok (command_passes (by decide) h)

/-- The topology without a group, and without what takeovers said of its fold nodes (R343). -/
def Topo.without (x : Topo) (g : Nat) : Topo :=
  { x with
    groups := x.groups.del g, takenOver := x.takenOver.filter (fun f => !(f.toNat / 512 == g))
    rehomed := x.rehomed.filter (fun h => !(h.fnid.toNat / 512 == g)) }

theorem exec_groupDelete_passes (h : s.Passes n 0x13 anyCmd (fun _ => 4) State.deleteChecks) :
    let c := s.slotCmd n
    exec (.groupDelete n) s =
      .next ((({ s.take n with topo := s.topo.without (c.nat 16 2) } : State).publish [c.nat 16 2]).reply c rsDone []) :=
  congrArg ok (command_passes (by decide) h)

/-- The channel of a command takes a value, if it names one. -/
def State.giveChan (s : State) (o : Option Nat) (x : Nat → Channel) : State :=
  match o with
  | some ch => s.setChan ch (x ch)
  | none => s

theorem giveChan_chan {o : Option Nat} {x : Nat → Channel} (hs : s.Sound) (k : Nat) :
    (s.giveChan o x).chan k = if o = some k then x k else s.chan k := by
  cases o with
  | none => rfl
  | some ch =>
    by_cases hk : k = ch
    · subst hk
      rw [if_pos rfl]
      exact chan_setChan_same hs
    · rw [if_neg (fun h => hk (Option.some.inj h).symm)]
      exact chan_setChan_other hk

theorem giveChan_only {o : Option Nat} {x : Nat → Channel} :
    s.giveChan o x = { s with tt := { s.tt with chans := (s.giveChan o x).tt.chans } } := by
  cases o <;> rfl

/-- A command that gives the bindings and one channel new values, and answers. -/
theorem bindingsWritten (hs : s.Sound) {ctxs : Tbl Binding} {o : Option Nat} {x : Nat → Channel} :
    let t := (({ s.take n with ctxs := ctxs } : State).giveChan o x).reply (s.slotCmd n) rsDone []
    t.ctxs = ctxs ∧ (∀ k, t.chan k = if o = some k then x k else s.chan k) ∧ t.win = (s.answered n rsDone []).win ∧ t.mem = s.mem ∧
      t.topo = s.topo ∧ t.tt.words = s.tt.words := by
  have hchan := fun k => giveChan_chan (s := { s.take n with ctxs := ctxs }) (o := o) (x := x) hs k
  have honly := giveChan_only (s := { s.take n with ctxs := ctxs }) (o := o) (x := x)
  refine ⟨?_, hchan, reply_win_congr (by rw [honly]) _ _ _, ?_, ?_, ?_⟩ <;> rw [reply_only, honly]
  all_goals rfl

/-- A channel that is armed anew, at phase 0 (R167, R344). -/
def Channel.armedAnew (ch ctx group : Nat) : Channel := { chanDefault ch with st := .armed, ctx := ctx, group := group }

theorem exec_contextBind_passes (h : s.Passes n 0x14 (bindMine 0) (fun _ => 16) State.bindChecks) :
    let c := s.slotCmd n
    exec (.contextBind n) s = .next ((({ s.take n with ctxs := s.ctxs.put (c.nat 16 2) {
        group := c.nat 18 2, chan := bindChan c, block := s.paramBlock c, started := 0, cut := 0, chosen := false, epochs := [] } } :
      State).giveChan (bindChan c) (fun ch => Channel.armedAnew ch (c.nat 16 2) (c.nat 18 2))).reply c rsDone []) :=
  congrArg ok (command_passes (by decide) h)

theorem exec_contextRearm_passes (h : s.Passes n 0x14 (bindMine 1) (fun _ => 16) State.rearmChecks) :
    let c := s.slotCmd n
    ∃ ch, s.chanOf (c.nat 16 2) = some ch ∧ exec (.contextRearm n) s = .next (((s.take n).giveChan (some ch)
      (fun ch => Channel.armedAnew ch (s.chan ch).ctx (s.chan ch).group)).reply c rsDone []) := by
  intro c
  have hbroken := check_of_passes h (List.mem_append_right _ (List.mem_cons_of_mem _ (List.mem_singleton.mpr rfl)))
  have hsome : (s.chanOf (c.nat 16 2)).any (fun ch => (s.chan ch).st == .broken) = true := by simpa only [wrongState, Bool.not_eq_false'] using hbroken
  obtain ⟨ch, hch⟩ : ∃ ch, s.chanOf (c.nat 16 2) = some ch := by
    cases ho : s.chanOf (c.nat 16 2) with
    | none => simp [ho] at hsome
    | some ch => exact ⟨ch, rfl⟩
  have hpass := command_passes (run := fun c s => match s.chanOf (c.nat 16 2) with
    | none => s.reply c rsDone []
    | some ch => (s.setChan ch { chanDefault ch with st := .armed, ctx := (s.chan ch).ctx, group := (s.chan ch).group }).reply c rsDone [])
    (by decide) h
  refine ⟨ch, hch, (congrArg ok hpass).trans ?_⟩
  have htake : (s.take n).chanOf (c.nat 16 2) = some ch := hch
  simp only [c] at htake
  simp only [htake]
  rfl

theorem exec_contextUnbind_passes (h : s.Passes n 0x14 (bindMine 2) (fun _ => 16) State.unbindChecks) :
    let c := s.slotCmd n
    exec (.contextUnbind n) s = .next ((({ s.take n with ctxs := s.ctxs.del (c.nat 16 2) } :
      State).giveChan (s.chanOf (c.nat 16 2)) chanDefault).reply c rsDone []) := by
  intro c
  refine (congrArg ok (command_passes (by decide) h)).trans ?_
  have htake : (s.take n).chanOf (c.nat 16 2) = s.chanOf (c.nat 16 2) := rfl
  dsimp only
  rw [htake]
  cases s.chanOf (c.nat 16 2) <;> rfl

end Rows

/-- Settles O34: by the commands, each passing its checks. -/
theorem groupAndContextCommands : Obligations.GroupAndContextCommands := by
  unfold Obligations.GroupAndContextCommands
  refine ⟨fun s n hs => ?_, fun s n hs => ?_⟩
  · intro c g
    refine ⟨fun hpass => ?_, fun hpass => ?_⟩
    · obtain ⟨hgroups, hgen, hsilent, hwritten, hwin, hrest⟩ := groupsWritten (n := n) (g := g) hs (x := { s.topo with
        groups := s.topo.groups.put g (Block.group (load s (c.nat 20 8) (c.nat 28 4))) }) rfl rfl
      refine ⟨_, exec_groupDefine_passes hpass, ?_, fun k hk => ?_, hgen, hsilent, hwritten, hwin, hrest⟩
      · exact (congrArg (fun m => Tbl.find m g) hgroups).trans (Tbl.find_put_same _ _ _)
      · exact (congrArg (fun m => Tbl.find m k) hgroups).trans (Tbl.find_put_other _ hk)
    · obtain ⟨hgroups, -, hsilent, hwritten, hwin, hrest⟩ := groupsWritten (n := n) (g := g) hs (x := s.topo.without g) rfl rfl
      have hgone := (congrArg (fun m => Tbl.find m g) hgroups).trans Tbl.find_del_same
      refine ⟨_, exec_groupDelete_passes hpass, hgone, fun k hk => ?_, hsilent, fun hp => ?_, hwin, hrest⟩
      · exact (congrArg (fun m => Tbl.find m k) hgroups).trans (Tbl.find_del_other hk)
      · refine (hwritten hp).1.trans ?_
        unfold State.dtEntry
        rw [show State.group _ g = none from hgone]
        rfl
  · intro c ctx
    refine ⟨fun hpass => ?_, fun hpass => ?_, fun hpass => ?_⟩
    · obtain ⟨hctxs, hchan, hwin, hmem, htopo, hwords⟩ := bindingsWritten (n := n) hs (o := bindChan c)
        (x := fun ch => Channel.armedAnew ch ctx (c.nat 18 2)) (ctxs := s.ctxs.put ctx {
          group := c.nat 18 2, chan := bindChan c, block := s.paramBlock c, started := 0, cut := 0, chosen := false, epochs := [] })
      refine ⟨_, exec_contextBind_passes hpass, ?_, fun k hk => ?_, fun ch hch => ?_, fun ch hch => ?_, hwin, hmem, htopo, hwords⟩
      · exact (congrArg (fun m => Tbl.find m ctx) hctxs).trans (Tbl.find_put_same _ _ _)
      · exact (congrArg (fun m => Tbl.find m k) hctxs).trans (Tbl.find_put_other _ hk)
      · exact (hchan ch).trans (if_pos hch)
      · exact (hchan ch).trans (if_neg hch)
    · obtain ⟨ch, hch, hexec⟩ := exec_contextRearm_passes hpass
      obtain ⟨hctxs, hchan, hwin, hmem, -, hwords⟩ := bindingsWritten (n := n) hs (o := some ch)
        (x := fun ch => Channel.armedAnew ch (s.chan ch).ctx (s.chan ch).group) (ctxs := s.ctxs)
      refine ⟨_, ch, hexec, hch, (hchan ch).trans (if_pos rfl), fun k hk => ?_, hctxs, hwin, hmem, hwords⟩
      exact (hchan k).trans (if_neg (fun h => hk (Option.some.inj h).symm))
    · obtain ⟨hctxs, hchan, hwin, hmem, htopo, hwords⟩ := bindingsWritten (n := n) hs (o := s.chanOf ctx) (x := chanDefault) (ctxs := s.ctxs.del ctx)
      refine ⟨_, exec_contextUnbind_passes hpass, ?_, fun k hk => ?_, fun ch hch => ?_, fun ch hch => ?_, hwin, hmem, htopo, hwords⟩
      · exact (congrArg (fun m => Tbl.find m ctx) hctxs).trans Tbl.find_del_same
      · exact (congrArg (fun m => Tbl.find m k) hctxs).trans (Tbl.find_del_other hk)
      · exact (hchan ch).trans (if_pos hch)
      · exact (hchan ch).trans (if_neg hch)

end Sys2Proof.Machine

/-! SUPPORT. Operations that go through words or channels one by one, give each a new value, and answer its waiters (R160, R163, R167): what
they leave of the ports, and that every answer is there at the end. -/

namespace Sys2Proof.Machine

open Sys2Proof

variable {spared : Nat → Prop} {s t u : State}

/-! ## Ports that only gain answers -/

/-- From `s` to `t` the ports only gain answers, and those of the spared positions stay as they are. -/
structure Answered (spared : Nat → Prop) (s t : State) : Prop where
  sound : t.Sound
  spare : ∀ q, spared q → t.port q = s.port q
  grows : ∀ q, (s.port q).resp ⊆ (t.port q).resp
  rebinding : ∀ q, (t.port q).rebinding = (s.port q).rebinding

theorem Answered.of_ports (hs : t.Sound) (h : t.ports = s.ports) : Answered spared s t :=
  ⟨hs, fun q _ => port_congr h q, fun q => by rw [port_congr h q]; exact List.Subset.refl _, fun q => by rw [port_congr h q]⟩

theorem Answered.refl (hs : s.Sound) : Answered spared s s := .of_ports hs rfl

theorem Answered.trans (h : Answered spared s t) (h' : Answered spared t u) : Answered spared s u :=
  ⟨h'.sound, fun q hq => (h'.spare q hq).trans (h.spare q hq), fun q => List.Subset.trans (h.grows q) (h'.grows q),
    fun q => (h'.rebinding q).trans (h.rebinding q)⟩

/-- A wait that is answered at a port that is not spared. -/
theorem answered_wait {p top target v id : Nat} {st : CStatus} {b : Bool} (h : s.Sound) (hp : ¬spared p) :
    Answered spared s ((s.endWait p b id).answer p st top target v) ∧ ((s.port p).rebinding = false →
      responseWord st top target v ∈ (((s.endWait p b id).answer p st top target v).port p).resp) := by
  have hend := endWait_sound (p := p) (b := b) (id := id) h
  have hport := port_endWait_same (p := p) (id := id) (b := b) h
  have hsame : ((s.endWait p b id).answer p st top target v).port p = if (s.port p).rebinding
      then { (s.endWait p b id).port p with heldResp := ((s.endWait p b id).port p).heldResp ++ [responseWord st top target v] }
      else { (s.endWait p b id).port p with resp := ((s.endWait p b id).port p).resp ++ [responseWord st top target v] } := by
    rw [State.answer, port_modPort_same hend, hport]
  refine ⟨⟨answer_sound hend, fun q hq => ?_, fun q => ?_, fun q => ?_⟩, fun hreb => ?_⟩
  · have hne : q ≠ p := fun he => hp (he ▸ hq)
    exact (port_answer_other hne).trans (port_endWait_other hne)
  · by_cases hq : q = p
    · subst hq
      rw [hsame, hport]
      split
      · exact List.Subset.refl _
      · exact List.subset_append_left _ _
    · rw [port_answer_other hq, port_endWait_other hq]
      exact List.Subset.refl _
  · by_cases hq : q = p
    · subst hq
      rw [hsame, hport]
      split <;> rfl
    · rw [port_answer_other hq, port_endWait_other hq]
  · rw [hsame, hreb]
    simp

/-! ## Loops over cells -/

/-- The cells that `l` names have their new values, every other cell is as it was, and every answer of `l` is at its port. -/
structure CellsDone {α β : Type} (spared : Nat → Prop) (inv : State → Prop) (cell : State → Nat → β) (key : α → Nat) (new : α → β)
    (rs : α → List (Nat × Word64)) (l : List α) (s t : State) : Prop where
  inv : inv t
  set : ∀ a ∈ l, cell t (key a) = new a
  others : ∀ k, k ∉ l.map key → cell t k = cell s k
  ports : Answered spared s t
  answers : ∀ a ∈ l, ∀ r ∈ rs a, (s.port r.1).rebinding = false → r.2 ∈ (t.port r.1).resp

/-- A loop over distinct cells does what its steps do. -/
theorem forEach_cellsDone {α β : Type} {inv : State → Prop} {cell : State → Nat → β} {key : α → Nat} {new old : α → β}
    {rs : α → List (Nat × Word64)} {act : α → State → State} {l : List α}
    (hstep : ∀ a ∈ l, ∀ u, inv u → cell u (key a) = old a → CellsDone spared inv cell key new rs [a] u (act a u))
    (hnd : (l.map key).Nodup) (hinv : inv s) (hs : s.Sound) (hold : ∀ a ∈ l, cell s (key a) = old a) :
    CellsDone spared inv cell key new rs l s (forEach l act s) := by
  induction l generalizing s with
  | nil => exact ⟨hinv, fun a ha => absurd ha List.not_mem_nil, fun _ _ => rfl, .refl hs, fun a ha => absurd ha List.not_mem_nil⟩
  | cons a l ih =>
    obtain ⟨hnot, hnd⟩ := List.nodup_cons.mp hnd
    have h1 := hstep a List.mem_cons_self s hinv (hold a List.mem_cons_self)
    have hkeep : ∀ b ∈ l, cell (act a s) (key b) = old b := fun b hb => by
      rw [h1.others (key b) (by simpa using fun he : key b = key a => hnot (he ▸ List.mem_map_of_mem hb))]
      exact hold b (List.mem_cons_of_mem _ hb)
    have h2 := ih (fun b hb => hstep b (List.mem_cons_of_mem _ hb)) hnd h1.inv h1.ports.sound hkeep
    refine ⟨h2.inv, fun b hb => ?_, fun k hk => ?_, h1.ports.trans h2.ports, fun b hb r hr hreb => ?_⟩
    · obtain rfl | hb := List.mem_cons.mp hb
      · exact (h2.others _ hnot).trans (h1.set _ (List.mem_singleton.mpr rfl))
      · exact h2.set b hb
    · rw [List.map_cons, List.mem_cons, not_or] at hk
      exact (h2.others k hk.2).trans (h1.others k (by simpa using hk.1))
    · obtain rfl | hb := List.mem_cons.mp hb
      · exact h2.ports.grows _ (h1.answers _ (List.mem_singleton.mpr rfl) r hr hreb)
      · exact h2.answers b hb r hr (by rw [h1.ports.rebinding]; exact hreb)

/-! ## Waiters of one cell, one after the other -/

/-- A loop that answers waiters, none of them at a spared port. -/
theorem forEach_answered {α : Type} {act : α → State → State} {pos : α → Nat} {r : α → Word64} {l : List α}
    (hact : ∀ a ∈ l, ∀ u, u.Sound → Answered spared u (act a u) ∧ ((u.port (pos a)).rebinding = false → r a ∈ ((act a u).port (pos a)).resp))
    (hs : s.Sound) : Answered spared s (forEach l act s) ∧
      ∀ a ∈ l, (s.port (pos a)).rebinding = false → r a ∈ ((forEach l act s).port (pos a)).resp := by
  induction l generalizing s with
  | nil => exact ⟨.refl hs, fun a ha => absurd ha List.not_mem_nil⟩
  | cons a l ih =>
    obtain ⟨h1, hr⟩ := hact a List.mem_cons_self s hs
    obtain ⟨h2, hrs⟩ := ih (fun b hb => hact b (List.mem_cons_of_mem _ hb)) h1.sound
    refine ⟨h1.trans h2, fun b hb hreb => ?_⟩
    obtain rfl | hb := List.mem_cons.mp hb
    · exact h2.grows _ (hr hreb)
    · exact hrs b hb (by rw [h1.rebinding]; exact hreb)

/-- A word takes a new value, and some waiters are answered. -/
theorem word_flushed {α : Type} {key : α → Nat} {new : α → SyncWord} {rs : α → List (Nat × Word64)} {a : α} {l : List Waiter} {st : CStatus}
    {v : Nat} (hs : s.Sound) (hl : ∀ q ∈ l, ¬spared q.pos)
    (hrs : ∀ r ∈ rs a, ∃ q ∈ l, r = (q.pos, responseWord st 2 (key a) v)) :
    CellsDone spared State.Sound State.word key new rs [a] s
      (forEach l (fun q s => s.answerWait (key a) q st v) (s.setWord (key a) (new a))) := by
  have hset := setWord_sound (w := key a) (x := new a) hs
  have hword : ∀ k, (forEach l (fun q s => State.answerWait s (key a) q st v) (s.setWord (key a) (new a))).word k =
      (s.setWord (key a) (new a)).word k := fun k =>
    forEach_inv l (fun q s => State.answerWait s (key a) q st v) (fun s => s.word k) (fun q u => answerWait_word q st v k) _
  obtain ⟨hans, hresp⟩ := forEach_answered (spared := spared) (s := s.setWord (key a) (new a)) (l := l) (pos := Waiter.pos)
    (act := fun q s => State.answerWait s (key a) q st v) (r := fun _ => responseWord st 2 (key a) v)
    (fun q hq u hu => answered_wait hu (hl q hq)) hset
  refine ⟨hans.sound, fun b hb => ?_, fun k hk => ?_, .trans (.of_ports hset rfl) hans, fun b hb r hr hreb => ?_⟩
  · obtain rfl := List.mem_singleton.mp hb
    exact (hword _).trans (word_setWord_same hs)
  · exact (hword k).trans (word_setWord_other (by simpa using hk))
  · obtain rfl := List.mem_singleton.mp hb
    obtain ⟨q, hq, rfl⟩ := hrs r hr
    exact hresp q hq hreb

/-- A channel takes a new value, and the waiters that a test picks out are taken off it and answered. -/
theorem chan_flushed {α : Type} {key : α → Nat} {new : α → Channel} {rs : α → List (Nat × Word64)} {a : α} {x : Channel}
    {mine : BWaiter → Bool} {st : CStatus} {v : Nat} (hs : s.Sound)
    (hnew : new a = { x with waits := x.waits.filter (fun w => !mine w) }) (hl : ∀ q ∈ x.waits, mine q = true → ¬spared q.pos)
    (hrs : ∀ r ∈ rs a, ∃ q ∈ x.waits, mine q = true ∧ r = (q.pos, responseWord st q.top (key a) v)) :
    CellsDone spared State.Sound State.chan key new rs [a] s ((s.setChan (key a) x).endBarrierWaits (key a) mine st v) := by
  have hset := setChan_sound (ch := key a) (x := x) hs
  have hcut := setChan_sound (ch := key a) (x := { x with waits := x.waits.filter (fun w => !mine w) }) hset
  obtain ⟨hchan, hothers, -, -⟩ := endBarrierWaits_answers (ch := key a) (x := x) (mine := mine) (st := st) (v := v) hs
  have hmem : ∀ q, q ∈ sortBy BWaiter.pos (x.waits.filter mine) ↔ q ∈ x.waits ∧ mine q = true := fun q =>
    (sortBy_perm _).mem_iff.trans List.mem_filter
  have heq : (s.setChan (key a) x).endBarrierWaits (key a) mine st v = forEach (sortBy BWaiter.pos (x.waits.filter mine))
      (fun w s => s.answerBarrier (key a) w st v)
      ((s.setChan (key a) x).setChan (key a) { x with waits := x.waits.filter (fun w => !mine w) }) := by
    simp only [State.endBarrierWaits, chan_setChan_same hs]
  obtain ⟨hans, hresp⟩ := forEach_answered (spared := spared) (l := sortBy BWaiter.pos (x.waits.filter mine)) (pos := BWaiter.pos)
    (act := fun q s => State.answerBarrier s (key a) q st v) (r := fun q => responseWord st q.top (key a) v)
    (fun q hq u hu => answered_wait hu (hl q ((hmem q).mp hq).1 ((hmem q).mp hq).2)) hcut
  rw [← heq] at hans hresp
  refine ⟨hans.sound, fun b hb => ?_, fun k hk => ?_, .trans (.of_ports hcut rfl) hans, fun b hb r hr hreb => ?_⟩
  · obtain rfl := List.mem_singleton.mp hb
    exact hchan.trans hnew.symm
  · exact hothers k (by simpa using hk)
  · obtain rfl := List.mem_singleton.mp hb
    obtain ⟨q, hq, hmine, rfl⟩ := hrs r hr
    exact hresp q ((hmem q).mpr ⟨hq, hmine⟩) hreb

end Sys2Proof.Machine

/-! SUPPORT. `ENDPOINT` resets and rebinds (R160, R161, R167, R274, R275, R385, R421): what a reset does on the tell-tale network, and O18. -/

namespace Sys2Proof.Machine

open Sys2Proof

variable {s : State} {p : Nat}

/-! ## Tables by their entries -/

section Entries

variable {α : Type} [DecidableEq α] {d : Nat → α} {m : Tbl α} {k : Nat}

theorem Tbl.rising_of_wfFrom {lo : Option Nat} (h : Tbl.wfFrom d lo m = true) : Tbl.Rising m ∧ ∀ e ∈ m, ∀ k, lo = some k → k < e.1 := by
  induction m generalizing lo with
  | nil => exact ⟨List.Pairwise.nil, fun e he => absurd he List.not_mem_nil⟩
  | cons x m ih =>
    obtain ⟨j, v⟩ := x
    simp only [Tbl.wfFrom, Bool.and_eq_true] at h
    obtain ⟨hup, habove⟩ := ih h.2
    have hlo : ∀ k, lo = some k → k < j := fun k hk => by
      have := h.1.1
      rw [hk] at this
      exact of_decide_eq_true this
    refine ⟨List.pairwise_cons.mpr ⟨fun i hi => ?_, hup⟩, fun e he i hi => ?_⟩
    · obtain ⟨e, he, rfl⟩ := List.mem_map.mp hi
      exact habove e he j rfl
    · obtain rfl | he := List.mem_cons.mp he
      · exact hlo i hi
      · exact (hlo i hi).trans (habove e he j rfl)

omit [DecidableEq α] in
theorem Tbl.nodup_keys (h : Tbl.Rising m) : (m.map (·.1)).Nodup := h.imp Nat.ne_of_lt

omit [DecidableEq α] in
theorem Tbl.get_absent (h : k ∉ m.map (·.1)) : Tbl.get d m k = d k := by
  induction m with
  | nil => rfl
  | cons x m ih =>
    rw [List.map_cons, List.mem_cons, not_or] at h
    rw [Tbl.get, if_neg (Ne.symm h.1), ih h.2]

omit [DecidableEq α] in
theorem Tbl.get_entry {e : Nat × α} (h : (m.map (·.1)).Nodup) (he : e ∈ m) : Tbl.get d m e.1 = e.2 := by
  induction m with
  | nil => exact absurd he List.not_mem_nil
  | cons x m ih =>
    obtain ⟨hnot, hnd⟩ := List.nodup_cons.mp h
    obtain rfl | he := List.mem_cons.mp he
    · exact if_pos rfl
    · rw [Tbl.get, if_neg (fun hx : x.1 = e.1 => hnot (List.mem_map.mpr ⟨e, he, hx.symm⟩)), ih hnd he]

end Entries

theorem chans_nodup (h : s.Sound) : (s.tt.chans.map (·.1)).Nodup := Tbl.nodup_keys (Tbl.rising_of_wfFrom h.chans_wf).1

theorem words_nodup (h : s.Sound) : (s.tt.words.map (·.1)).Nodup := Tbl.nodup_keys h.words_up

/-! ## The waits of the position are withdrawn (R161) -/

/-- A word without the waits of a position. -/
def SyncWord.without (x : SyncWord) (p : Nat) : SyncWord :=
  { x with queue := x.queue.filter (fun q => decide (q.pos ≠ p)), drain := x.drain.filter (fun q => decide (q.pos ≠ p)) }

/-- A channel without the waits of a position. -/
def Channel.without (x : Channel) (p : Nat) : Channel := { x with waits := x.waits.filter (fun w => decide (w.pos ≠ p)) }

/-- No answer: what `forEach_cellsDone` needs of a step that only writes its cell. -/
theorem cell_written {α β : Type} {cell : State → Nat → β} {key : α → Nat} {new : α → β} {a : α} {t : State} {spared : Nat → Prop} (ht : t.Sound)
    (hset : cell t (key a) = new a) (hothers : ∀ k, k ≠ key a → cell t k = cell s k) (hports : t.ports = s.ports) :
    CellsDone spared State.Sound cell key new (fun _ => []) [a] s t := by
  refine ⟨ht, fun b hb => ?_, fun k hk => hothers k (by simpa using hk), .of_ports ht hports, fun b hb r hr => absurd hr List.not_mem_nil⟩
  obtain rfl := List.mem_singleton.mp hb
  exact hset

/-- Its words without the waits of a position, as they are put back. -/
def State.keptWords (s : State) (p : Nat) : List (Nat × SyncWord) := s.tt.words.map (fun e => (e.1, e.2.without p))

def State.unworded (s : State) : State := { s with tt := { s.tt with words := [] } }

/-- The words with the waits of a position withdrawn, and the channels as they were. -/
def State.withdrawWords (s : State) (p : Nat) : State := forEach (s.keptWords p) (fun e t => State.setWord t e.1 e.2) s.unworded

theorem withdrawWords_done (h : s.Sound) : CellsDone (fun _ => True) State.Sound State.word Prod.fst Prod.snd (fun _ => []) (s.keptWords p)
    s.unworded (s.withdrawWords p) := by
  have hempty : s.unworded.Sound := { h with words_up := List.Pairwise.nil }
  have hkeys : (s.keptWords p).map Prod.fst = s.tt.words.map Prod.fst := by
    rw [State.keptWords, List.map_map]
    rfl
  exact forEach_cellsDone (old := fun e => s.unworded.word e.1)
    (fun e _ u hu _ => cell_written (setWord_sound hu) (word_setWord_same hu) (fun k hk => word_setWord_other hk) rfl)
    (hkeys ▸ words_nodup h) hempty hempty (fun _ _ => rfl)

theorem withdrawWords_word (h : s.Sound) (w : Nat) : (s.withdrawWords p).word w = (s.word w).without p := by
  have hdone := withdrawWords_done (p := p) h
  have hkeys : (s.keptWords p).map Prod.fst = s.tt.words.map Prod.fst := by
    rw [State.keptWords, List.map_map]
    rfl
  by_cases hw : w ∈ s.tt.words.map Prod.fst
  · obtain ⟨e, he, rfl⟩ := List.mem_map.mp hw
    rw [hdone.set (e.1, e.2.without p) (List.mem_map_of_mem he), State.word, Tbl.get_entry (words_nodup h) he]
  · rw [hdone.others w (hkeys ▸ hw), State.word, State.word, Tbl.get_absent hw]
    rfl

theorem withdrawWords_only : s.withdrawWords p = { s with tt := { s.tt with words := (s.withdrawWords p).tt.words } } :=
  forEach_inv (s.keptWords p) (fun e t => State.setWord t e.1 e.2) (fun t => { t with tt := { t.tt with words := (s.withdrawWords p).tt.words } })
    (fun _ _ => rfl) s.unworded

/-- The waits of a position leave every word and channel. -/
structure Withdrawn (s t : State) (p : Nat) : Prop where
  sound : t.Sound
  word : ∀ w, t.word w = (s.word w).without p
  chan : ∀ k, t.chan k = (s.chan k).without p
  ports : t.ports = s.ports
  topo : t.topo = s.topo

theorem withdrawWaits_withdrawn (h : s.Sound) : Withdrawn s (s.withdrawWaits p) p := by
  have hwords := withdrawWords_done (p := p) h
  have honly := withdrawWords_only (s := s) (p := p)
  have hword := withdrawWords_word (p := p) h
  have hchans : (s.withdrawWords p).tt.chans = s.tt.chans := by rw [honly]
  have heq : s.withdrawWaits p = forEach ((s.withdrawWords p).tt.chans.map Prod.fst)
      (fun c t => State.modChan t c (fun x => x.without p)) (s.withdrawWords p) := rfl
  have hdone := forEach_cellsDone (spared := fun _ => True) (inv := State.Sound) (cell := State.chan) (key := id)
    (new := fun c => (s.chan c).without p) (old := s.chan) (rs := fun _ => []) (l := s.tt.chans.map Prod.fst) (s := s.withdrawWords p)
    (act := fun c t => State.modChan t c (fun x => x.without p))
    (fun c _ u hu hc => cell_written (kept_modChan _ _ (sound_kept hu)).sound
      ((chan_setChan_same hu).trans (congrArg (fun x => Channel.without x p) hc)) (fun k hk => chan_setChan_other hk) rfl)
    (by rw [List.map_id]; exact chans_nodup h) hwords.inv hwords.inv (fun c _ => chan_congr hchans c)
  rw [hchans] at heq
  rw [← heq] at hdone
  have hloop : ∀ {β : Type} (g : State → β), (∀ u c x, g (State.setChan u c x) = g u) → g (s.withdrawWaits p) = g (s.withdrawWords p) :=
    fun g hg => by
      rw [heq]
      exact forEach_inv _ _ g (fun c u => hg u c _) _
  refine ⟨hdone.inv, fun w => ?_, fun k => ?_, ?_, ?_⟩
  · exact (hloop (fun t => t.word w) (fun _ _ _ => rfl)).trans (hword w)
  · by_cases hk : k ∈ s.tt.chans.map Prod.fst
    · exact hdone.set k hk
    · rw [hdone.others k (by rw [List.map_id]; exact hk), chan_congr hchans, State.chan, Tbl.get_absent hk]
      rfl
  · rw [hloop State.ports (fun _ _ _ => rfl), honly]
  · rw [hloop State.topo (fun _ _ _ => rfl), honly]

/-! ## The words of the position pass to `ORPHANED` (R160) -/

/-- The word after its owner's reset. -/
def SyncWord.orphaned (x : SyncWord) : SyncWord := { x with own := .orphaned, queue := [], drain := [] }

/-- What its waiters are answered. -/
def SyncWord.orphans (x : SyncWord) (w : Nat) : List (Nat × Word64) := x.waiters.map (fun q => (q.pos, responseWord .orphan 2 w x.value))

theorem wordsOf_congr {t : State} (h : ∀ w, (t.word w).own = (s.word w).own ∧ (t.word w).owner = (s.word w).owner) :
    t.wordsOf p = s.wordsOf p := by
  unfold State.wordsOf
  dsimp only
  exact List.filterMap_congr fun i _ => by rw [(h _).1, (h _).2]

theorem wordsOf_nodup : (s.wordsOf p).Nodup := by
  refine List.Nodup.filterMap (fun i j w hi hj => ?_) List.nodup_range
  simp only [Option.mem_def, Option.ite_none_right_eq_some, Option.some.injEq] at hi hj
  omega

theorem orphanWords_done {spared : Nat → Prop} {l : List Nat} (h : s.Sound) (hnd : l.Nodup) (hsp : ∀ w, ∀ q ∈ (s.word w).waiters, ¬spared q.pos) :
    CellsDone spared State.Sound State.word id (fun w => (s.word w).orphaned) (fun w => (s.word w).orphans w) l s
      (forEach l State.orphanWord s) :=
  forEach_cellsDone (old := s.word) (fun w _ u hu hw => by
    have hw : u.word w = s.word w := hw
    have heq : State.orphanWord w u = forEach (s.word w).waiters (fun q t => t.answerWait w q .orphan (s.word w).value)
        (u.setWord w (s.word w).orphaned) := by
      rw [State.orphanWord, hw]
      rfl
    rw [heq]
    exact word_flushed (key := id) (new := fun w => (s.word w).orphaned) hu (hsp w) (fun r hr => by
      obtain ⟨q, hq, rfl⟩ := List.mem_map.mp hr
      exact ⟨q, hq, rfl⟩)) (by rw [List.map_id]; exact hnd) h h (fun _ _ => rfl)

/-! ## The armed channels of the position's groups break (R167) -/

/-- The position is a member of the group of an armed channel. -/
def State.breaks (s : State) (p k : Nat) : Bool :=
  decide ((s.chan k).st = .armed) && (match s.group (s.chan k).group with | some g => g.has p | none => false)

/-- A broken channel. -/
def Channel.brokenUp (x : Channel) : Channel := { x with st := .broken, rel := none, waits := [] }

/-- What its waiters are answered. -/
def Channel.orphans (x : Channel) (k : Nat) : List (Nat × Word64) := x.waits.map (fun q => (q.pos, responseWord .orphan q.top k 0))

/-- What the reset of a position does to a channel. -/
def State.breakOwn (p k : Nat) (s : State) : State := if s.breaks p k then s.breakChannel k none else s

theorem breaks_congr {t : State} {k : Nat} (hchan : t.chan k = s.chan k) (htopo : t.topo = s.topo) : t.breaks p k = s.breaks p k := by
  have hgroup : ∀ n, t.group n = s.group n := fun n => by simp only [State.group, htopo]
  simp only [State.breaks, hchan, hgroup]

/-- A break is a change of its channel, whose waiters are answered, and messages. -/
theorem breakChannel_done {spared : Nat → Prop} {old : Nat → Channel} {k : Nat} (h : s.Sound) (hk : s.chan k = old k)
    (hsp : ∀ q ∈ (old k).waits, ¬spared q.pos) :
    CellsDone spared State.Sound State.chan id (fun k => (old k).brokenUp) (fun k => (old k).orphans k) [k] s (s.breakChannel k none) := by
  have hhere : CellsDone spared State.Sound State.chan id (fun k => (old k).brokenUp) (fun k => (old k).orphans k) [k] s (s.breakHere k) := by
    have := chan_flushed (spared := spared) (key := id) (new := fun k => (old k).brokenUp) (rs := fun k => (old k).orphans k) (a := k)
      (x := { s.chan k with st := .broken, rel := none }) (mine := fun _ => true) (st := .orphan) (v := 0) h (by
        simp [Channel.brokenUp, hk]) (fun q hq _ => hsp q (hk ▸ hq)) (fun r hr => by
        obtain ⟨q, hq, rfl⟩ := List.mem_map.mp hr
        exact ⟨q, by rw [hk]; exact hq, rfl, rfl⟩)
    exact this
  unfold State.breakChannel
  split
  · exact hhere
  · next g _ =>
    dsimp only
    generalize (uniq (s.parentChips g ++ s.childChips g)).filter (fun c => some c ≠ none) = l
    have hsend := actsOnLink_barrierTo l 5 k 0 (s.chan k).phase false
    have hsound := (kept_barrierTo l 5 k 0 (s.chan k).phase false (sound_kept hhere.inv)).sound
    have hports : ((s.breakHere k).barrierTo l 5 k 0 (s.chan k).phase false).ports = (s.breakHere k).ports := by rw [hsend.only]
    refine ⟨hsound, fun b hb => (hsend.chan _ _).trans (hhere.set b hb), fun j hj => (hsend.chan _ _).trans (hhere.others j hj),
      hhere.ports.trans (.of_ports hsound hports), fun b hb r hr hreb => ?_⟩
    rw [port_congr hports]
    exact hhere.answers b hb r hr hreb

theorem breakChannel_topo {k : Nat} {o : Option Nat} : (s.breakChannel k o).topo = s.topo := (rest_breakChannel _ _ s.rest_refl).topo

theorem breakChannel_word {k : Nat} {o : Option Nat} (w : Nat) : (s.breakChannel k o).word w = s.word w := by
  have hhere : (s.breakHere k).tt.words = s.tt.words := by
    unfold State.breakHere State.endBarrierWaits
    rw [(actsOnPorts_forEach (fun q => actsOnPorts_answerBarrier k q .orphan 0) _).tt]
    rfl
  have hwords : (s.breakChannel k o).tt.words = s.tt.words := by
    unfold State.breakChannel
    split
    · exact hhere
    · dsimp only
      rw [(actsOnLink_barrierTo _ _ _ _ _ _).tt]
      exact hhere
  have hpol : (s.breakChannel k o).pol = s.pol := (rest_breakChannel _ _ s.rest_refl).pol
  simp only [State.word, State.policy, hwords, hpol]

/-- Every channel that the reset of a position breaks. -/
theorem breakOwns_done {spared : Nat → Prop} {l : List Nat} (h : s.Sound) (hnd : l.Nodup) (hsp : ∀ k, ∀ q ∈ (s.chan k).waits, ¬spared q.pos) :
    CellsDone spared (fun t => t.Sound ∧ t.topo = s.topo) State.chan id (fun k => if s.breaks p k then (s.chan k).brokenUp else s.chan k)
      (fun k => if s.breaks p k then (s.chan k).orphans k else []) l s (forEach l (State.breakOwn p) s) := by
  refine forEach_cellsDone (old := s.chan) (fun k _ u hu hk => ?_) (by rw [List.map_id]; exact hnd) ⟨h, rfl⟩ h (fun _ _ => rfl)
  have hk : u.chan k = s.chan k := hk
  rw [State.breakOwn, breaks_congr hk hu.2]
  cases hb : s.breaks p k with
  | false => exact ⟨hu, fun b hm => by
      obtain rfl := List.mem_singleton.mp hm
      simp only [hb, id]
      exact hk, fun _ _ => rfl, .refl hu.1, fun b hm r hr => by
      obtain rfl := List.mem_singleton.mp hm
      simp only [hb] at hr
      exact absurd hr List.not_mem_nil⟩
  | true =>
    have hd := breakChannel_done (spared := spared) (old := s.chan) hu.1 hk (hsp k)
    refine ⟨⟨hd.inv, breakChannel_topo.trans hu.2⟩, fun b hm => ?_, hd.others, hd.ports, fun b hm r hr => ?_⟩
    · obtain rfl := List.mem_singleton.mp hm
      simp only [hb, if_true]
      exact hd.set b hm
    · obtain rfl := List.mem_singleton.mp hm
      simp only [hb, if_true] at hr
      exact hd.answers b hm r hr

theorem orphanWord_chan (w k : Nat) : (State.orphanWord w s).chan k = s.chan k := by
  unfold State.orphanWord
  exact forEach_inv _ (fun q t => State.answerWait t w q .orphan (s.word w).value) (fun t => t.chan k) (fun _ _ => rfl) _

/-! ## The reset -/

theorem breakOwn_eq (k : Nat) (s : State) : State.breakOwn p k s =
    (match (s.chan k).st, s.group (s.chan k).group with
     | .armed, some g => if g.has p then s.breakChannel k none else s
     | _, _ => s) := by
  unfold State.breakOwn State.breaks
  cases (s.chan k).st <;> cases s.group (s.chan k).group <;> simp

theorem resetTellTale_eq : s.resetTellTale p =
    (let u := (s.withdrawWaits p).withdrawFlights p
     forEach (List.range 64) (State.breakOwn p) (forEach (u.wordsOf p) State.orphanWord u)) := by
  unfold State.resetTellTale
  dsimp only
  congr 1
  funext k u
  exact (breakOwn_eq k u).symm

/-- What the tell-tale network takes of a reset (R160, R161, R167). -/
structure ResetDone (s t : State) (p : Nat) : Prop where
  chan : ∀ k, k < 64 → t.chan k = if s.breaks p k then (s.chan k).brokenUp else (s.chan k).without p
  chanAnswers : ∀ k, k < 64 → s.breaks p k = true → ∀ q ∈ (s.chan k).waits, q.pos ≠ p → (s.port q.pos).rebinding = false →
    responseWord .orphan q.top k 0 ∈ (t.port q.pos).resp
  word : ∀ w, t.word w = if w ∈ s.wordsOf p then (s.word w).orphaned else (s.word w).without p
  wordAnswers : ∀ w ∈ s.wordsOf p, ∀ q ∈ (s.word w).waiters, q.pos ≠ p → (s.port q.pos).rebinding = false →
    responseWord .orphan 2 w (s.word w).value ∈ (t.port q.pos).resp
  port : t.port p = s.port p

theorem resetTellTale_done (h : s.Sound) : ResetDone s (s.resetTellTale p) p := by
  have hwith := withdrawWaits_withdrawn (p := p) h
  generalize hu : (s.withdrawWaits p).withdrawFlights p = u
  have husound : u.Sound := by rw [← hu]; exact hwith.sound
  have huword : ∀ w, u.word w = (s.word w).without p := by rw [← hu]; exact hwith.word
  have huchan : ∀ k, u.chan k = (s.chan k).without p := by rw [← hu]; exact hwith.chan
  have huports : u.ports = s.ports := by rw [← hu]; exact hwith.ports
  have hutopo : u.topo = s.topo := by rw [← hu]; exact hwith.topo
  have hwords : u.wordsOf p = s.wordsOf p := wordsOf_congr fun w => by rw [huword w]; exact ⟨rfl, rfl⟩
  have hbreaks : ∀ k, u.breaks p k = s.breaks p k := fun k => by
    have hgroup : ∀ n, u.group n = s.group n := fun n => by simp only [State.group, hutopo]
    simp only [State.breaks, huchan, hgroup, Channel.without]
  -- The words of the position, and then the channels.
  have horph := orphanWords_done (spared := (· = p)) (l := s.wordsOf p) husound wordsOf_nodup (fun w q hq => by
    rw [huword, SyncWord.waiters, SyncWord.without] at hq
    simp only [List.mem_append, List.mem_filter, decide_eq_true_eq] at hq
    rcases hq with ⟨-, hne⟩ | ⟨-, hne⟩ <;> exact hne)
  generalize hv : forEach (s.wordsOf p) State.orphanWord u = v at horph
  have hvchan : ∀ k, v.chan k = u.chan k := fun k => by
    rw [← hv]
    exact forEach_inv _ _ (fun t => t.chan k) (fun w t => orphanWord_chan w k) u
  have hvtopo : v.topo = u.topo := by
    rw [← hv]
    exact forEach_inv _ _ State.topo (fun w t => (rest_orphanWord w t.rest_refl).topo) u
  have hvbreaks : ∀ k, v.breaks p k = s.breaks p k := fun k => (breaks_congr (hvchan k) hvtopo).trans (hbreaks k)
  have hbroken := breakOwns_done (spared := (· = p)) (p := p) (l := List.range 64) horph.inv List.nodup_range (fun k q hq => by
    rw [hvchan, huchan, Channel.without] at hq
    simpa using (List.mem_filter.mp hq).2)
  have heq : s.resetTellTale p = forEach (List.range 64) (State.breakOwn p) v := by
    rw [resetTellTale_eq, hu]
    dsimp only
    rw [hwords, hv]
  rw [← heq] at hbroken
  have hword : ∀ w, (s.resetTellTale p).word w = v.word w := fun w => by
    rw [heq]
    refine forEach_inv _ _ (fun t => t.word w) (fun k t => ?_) v
    rw [State.breakOwn]
    split
    · exact breakChannel_word w
    · rfl
  have hreb : ∀ q, (v.port q).rebinding = (s.port q).rebinding := fun q => by rw [horph.ports.rebinding, port_congr huports]
  refine ⟨fun k hk => ?_, fun k hk hb q hq hne hreb' => ?_, fun w => ?_, fun w hw q hq hne hreb' => ?_, ?_⟩
  · refine (hbroken.set k (List.mem_range.mpr hk)).trans ?_
    rw [hvbreaks, hvchan, huchan]
    rfl
  · refine hbroken.answers k (List.mem_range.mpr hk) (q.pos, responseWord .orphan q.top k 0) ?_ (by rw [hreb]; exact hreb')
    rw [if_pos ((hvbreaks k).trans hb), hvchan, huchan]
    exact List.mem_map.mpr ⟨q, List.mem_filter.mpr ⟨hq, by simpa using hne⟩, rfl⟩
  · rw [hword]
    split
    · next hw =>
      refine (horph.set w hw).trans ?_
      rw [huword]
      rfl
    · next hw => rw [horph.others w (by rw [List.map_id]; exact hw), huword]
  · refine hbroken.ports.grows _ (horph.answers w hw (q.pos, responseWord .orphan 2 w (s.word w).value) ?_ (by rw [port_congr huports]; exact hreb'))
    rw [huword]
    refine List.mem_map.mpr ⟨q, ?_, rfl⟩
    rw [SyncWord.waiters] at hq
    rw [SyncWord.waiters, SyncWord.without]
    have hne : decide (q.pos ≠ p) = true := by simpa using hne
    simpa only [List.mem_append, List.mem_filter, hne, and_true] using hq
  · rw [hbroken.ports.spare p rfl, horph.ports.spare p rfl, port_congr huports]

/-! ## The port -/

theorem resetPort_port (h : s.Sound) : (s.resetPort p).port p = Port.reset := by
  unfold State.resetPort
  refine port_setPort_same (kept_resetHoist _ (kept_forEach (fun x t ht => ?_) (kept_orphanOps p (sound_kept h)))).sound
  split
  · exact kept_leaveColl _ _ _ _ ht
  · exact ht

/-- The state of a reset endpoint, before the tell-tale network takes its part. -/
def State.portReset (s : State) (p source : Nat) : State :=
  ((if s.mh.ready then s.postReset 5 source p 0x0180 else s).keepImage p).resetPort p

theorem portReset_port (h : s.Sound) (source : Nat) : (s.portReset p source).port p = Port.reset := by
  refine resetPort_port (kept_keepImage p (q := s.pending) ?_).sound
  split
  · exact kept_postReset _ _ _ _ (sound_kept h)
  · exact sound_kept h

/-- Settles O18: the reset, in and out of the stop of a cinch, and the rebinds. -/
theorem endpointResetsAndRebinds : Obligations.EndpointResetsAndRebinds := by
  unfold Obligations.EndpointResetsAndRebinds
  intro s p hs
  refine ⟨fun hoff => if_pos hoff, fun hon => if_neg hon, ?_, ?_, fun hact => ?_, fun hact => ?_, fun core hact => ?_, fun hreb hp => ?_, fun h => ?_⟩
  · exact ⟨portReset_port hs 5, fun hgo => if_neg (ne_true_of_eq_false hgo), fun hstop => if_pos hstop⟩
  · intro t mine
    obtain ⟨hchan, hchanAnswers, hword, hwordAnswers, hport⟩ := resetTellTale_done (p := p) hs
    have hrest := rest_resetTellTale p s.rest_refl
    refine ⟨fun k hk hm => ?_, fun k hk hm => ?_, hchanAnswers, fun w hw => ⟨?_, hwordAnswers w hw⟩, fun w hw => ?_, hport, hrest.mem,
      hrest.led, hrest.ops⟩
    · exact (hchan k hk).trans (if_pos hm)
    · exact (hchan k hk).trans (if_neg (ne_true_of_eq_false hm))
    · exact (hword w).trans (if_pos hw)
    · exact (hword w).trans (if_neg hw)
  · have hfault := (kept_postFault 0x50 8 p 0 0xFFFF 0 (sound_kept hs)).sound
    have hports := postFault_ports s 0x50 8 p 0 0xFFFF 0
    refine ⟨(s.postFault 0x50 8 p 0 0xFFFF 0).modPort p (fun x => { x with rebinding := true }), ?_, ?_, fun q hq => ?_, ?_, ?_, ?_, ?_, rfl⟩
    · simp only [exec_endpointCoreFailed, execEndpointCoreFailed, hact, if_true, ok]
    · rw [port_modPort_same hfault, port_congr hports]
    · rw [port_modPort_other hq, port_congr hports]
    · exact postFault_tt s 0x50 8 p 0 0xFFFF 0
    · exact postFault_mem s 0x50 8 p 0 0xFFFF 0
    · exact postFault_led s 0x50 8 p 0 0xFFFF 0
    · exact postFault_ops s 0x50 8 p 0 0xFFFF 0
  · simp only [exec_endpointCoreFailed, execEndpointCoreFailed, hact, if_true, Bool.false_eq_true, if_false, ok]
  · simp only [exec_endpointCoreFailed, execEndpointCoreFailed, hact, Bool.false_eq_true, if_false, ok]
  · exact if_pos ⟨hreb, hp⟩
  · refine if_neg ?_
    rintro ⟨hreb, hp⟩
    obtain h | h := h
    · rw [h] at hreb
      exact absurd hreb (by decide)
    · rw [h] at hp
      exact absurd hp (by decide)

end Sys2Proof.Machine

/-! SUPPORT. Messages of VC1 at their chip: signals, acknowledgements, breaks and pre-warns (R165, R167, R170 to R172, R394). -/

namespace Sys2Proof.Machine

open Sys2Proof

variable {s : State} {l : PortNo} {m : Msg} {ch : Nat} {g : Group}

/-! ## A message that is taken here -/

/-- The oldest message of VC1 of a port, for this chip, which takes it. -/
structure Here (s : State) (l : Nat) (m : Msg) : Prop where
  head : s.headMsg l 1 = some m
  valid : s.topo.rigValid = true
  chip : s.topo.chip = mDst m
  free : s.rootStalled = false

/-- The chip once it has taken the message. -/
def State.took (s : State) (l : Nat) : State := (s.modLnk l (Link.dropMsg 1)).countRecv 1

theorem took_only : s.took l = { s with link := (s.took l).link } := rfl

theorem took_sound (h : s.Sound) : (s.took l).Sound := by
  have hdrop := (kept_modLnk l (Link.dropMsg 1) (sound_kept h)).sound
  exact hdrop

/-- A row takes its message, and its effect is that of the message on this chip. -/
theorem exec_here {i : Instr} {k : Nat} {f : Msg → State → State} (hexec : ∀ s, exec i s =
      .next (s.onMsg l 1 (fun m => mKind m = k) (fun m s => s.consumeOrForward 1 (mDst m) m (f m)))) (h : Here s l m) (hk : mKind m = k) :
    exec i s = .next (f m (s.took l)) := by
  obtain ⟨hhead, hvalid, hchip, hfree⟩ := h
  rw [hexec, onMsg_takes hhead (.inr hfree) (by simpa using hk), consumeOrForward_here (by exact hvalid) (by exact hchip)]
  rfl

theorem onChannel_armed {f : Nat → Group → State → State} (hch : mTarget m % 64 = ch) (ha : (s.chan ch).st = .armed)
    (hg : s.group (s.chan ch).group = some g) : s.onChannel m f = f ch g s := by
  subst hch
  simp only [State.onChannel, ha, hg]

theorem onChannel_unarmed {f : Nat → Group → State → State} (hch : mTarget m % 64 = ch) (ha : (s.chan ch).st ≠ .armed) :
    ∃ st, s.onChannel m f = s.logSync st (mTarget m) (mOrigin m / 1024) (mOrigin m) := by
  subst hch
  unfold State.onChannel
  dsimp only
  split
  · next harm _ => exact absurd harm ha
  · exact ⟨_, rfl⟩

/-- Beside the error log and its counter a discarded message shows only in the buffer that it leaves (R152). -/
theorem logSync_only (st : CStatus) (word chip rig : Nat) : s.logSync st word chip rig =
    { s with shadow := (s.logSync st word chip rig).shadow, counters := (s.logSync st word chip rig).counters } := by
  unfold State.logSync
  dsimp only
  split <;> rfl

/-! ## Breaks and pre-warns -/

/-- A break without waiters to answer leaves its channel broken, and sends its messages. -/
theorem breakChannel_only (o : Option Nat) : ∃ link, s.breakChannel ch o = { s.breakHere ch with link := link } := by
  unfold State.breakChannel
  split
  · exact ⟨_, rfl⟩
  · exact ⟨_, (actsOnLink_barrierTo _ _ _ _ _ _).only _⟩

/-- Every waiter of a channel is taken off it and answered. -/
theorem endBarrierWaits_all (h : s.Sound) (st : CStatus) (v : Nat) :
    ChanAnswers s (s.endBarrierWaits ch (fun _ => true) st v) ch { s.chan ch with waits := [] } (s.chan ch).waits st v := by
  have hall := actsOnPorts_answerAll ch (s.chan ch).waits st v
  have hmine : (s.chan ch).waits.filter (fun _ => true) = (s.chan ch).waits := List.filter_eq_self.mpr (fun _ _ => rfl)
  have hrest : (s.chan ch).waits.filter (fun _ => !true) = [] := List.filter_eq_nil_iff.mpr (fun _ _ => by decide)
  have heq : s.endBarrierWaits ch (fun _ => true) st v =
      (s.setChan ch { s.chan ch with waits := [] }).answerAll ch (s.chan ch).waits st v := by
    simp only [State.endBarrierWaits, hmine, hrest]
    rfl
  rw [heq]
  refine ⟨?_, fun k hk => ?_, hall.congr _ _ rfl, ?_⟩
  · rw [hall.chan, chan_setChan_same h]
  · rw [hall.chan, chan_setChan_other hk]
  · rw [hall.only]
    rfl

theorem breakHere_answers (h : s.Sound) : ChanAnswers s (s.breakHere ch) ch (s.chan ch).brokenUp (s.chan ch).waits .orphan 0 := by
  have hset := setChan_sound (ch := ch) (x := { s.chan ch with st := .broken, rel := none }) h
  have hend := endBarrierWaits_all (ch := ch) hset .orphan 0
  rw [chan_setChan_same h] at hend
  refine ⟨hend.chan, fun k hk => (hend.others k hk).trans (chan_setChan_other hk), ?_, ?_⟩
  · exact hend.ports.trans ((actsOnPorts_answerAll _ _ _ _).congr _ _ rfl)
  · exact hend.only

/-- A break, after a loss or not, releases every waiter with one status, and leaves the channel broken. -/
theorem orphaned_answers (h : s.Sound) (lost : Bool) (o : Option Nat) :
    ∃ link, ∃ t, (if lost then s.endBarrierWaits ch (fun _ => true) .fault 0 else s).breakChannel ch o = { t with link := link } ∧
      ChanAnswers s t ch (s.chan ch).brokenUp (s.chan ch).waits (if lost then .fault else .orphan) 0 := by
  cases lost with
  | false =>
    obtain ⟨link, hlink⟩ := breakChannel_only (s := s) (ch := ch) o
    exact ⟨link, s.breakHere ch, hlink, breakHere_answers h⟩
  | true =>
    have hend := endBarrierWaits_all (ch := ch) h .fault 0
    have hsound := (kept_endBarrierWaits ch (fun _ => true) .fault 0 (sound_kept h)).sound
    simp only [if_true]
    generalize s.endBarrierWaits ch (fun _ => true) .fault 0 = u at hend hsound
    obtain ⟨link, hlink⟩ := breakChannel_only (s := u) (ch := ch) o
    have hbreak := breakHere_answers (ch := ch) hsound
    rw [hend.chan] at hbreak
    refine ⟨link, u.breakHere ch, hlink, hbreak.chan, fun k hk => (hbreak.others k hk).trans (hend.others k hk), ?_, ?_⟩
    · exact hbreak.ports.trans hend.ports
    · rw [hbreak.only, hend.only]

/-! ## The rows -/

section Rows

variable (hs : s.Sound) (h : Here s l m)
include h

/-- A signal flies on to its word (log 57). -/
theorem sigMessage_flies (hk : mKind m = 1) (hw : wordIndex (mTarget m) < 768) :
    ∃ t, exec (.sigMessage l) s = .next t ∧ t = { s with tt := t.tt, link := t.link } ∧
      t.tt = { s.tt with flights := s.tt.flights ++ [{
        cmd := fields 64 [(60, 4, 1), (59, 1, flag (mAckreq m)), (32, 20, mOperand m), (0, 16, mTarget m)]
        issuer := BitVec.ofNat 25 (mOrigin m), via := .offDie (mOrigin m / 1024) (BitVec.ofNat 8 (mTag m)) (mAckreq m) }] } ∧
      t.link.recv1 = s.link.recv1 + 1 := by
  refine ⟨_, (exec_here (fun _ => rfl) h hk).trans (congrArg ok (if_neg (Nat.not_le.mpr hw))), ?_, ?_, ?_⟩
  · rw [took_only]
  · rfl
  · rfl

/-- An acknowledgement answers the signal with its issuer and tag (log 54). -/
theorem sigAck_answers {f : Flight} {st : CStatus} (hk : mKind m = 2) (hno : s.NoFence)
    (hf : s.tt.flights.find? (fun f => decide (f.via = .remote (BitVec.ofNat 8 (mTag m))) && decide (f.issuer.toNat = mOrigin m)) = some f)
    (hst : statusOf (mStatus m) = some st) (hresp : cResponds f.cmd = true) :
    ∃ t, exec (.sigAck l) s = .next t ∧ t.tt = { s.tt with flights := s.tt.flights.erase f } ∧
      t.ports = (s.answer (mOrigin m % 1024) st 1 (cTarget f.cmd) (mOperand m)).ports ∧
      t = { s with tt := t.tt, ports := t.ports, link := t.link } := by
  have hexec := exec_here (i := .sigAck l) (k := 2) (fun _ => rfl) h hk
  have hfind : (s.took l).tt.flights.find? (fun f => decide (f.via = .remote (BitVec.ofNat 8 (mTag m))) &&
      decide (f.issuer.toNat = mOrigin m)) = some f := hf
  dsimp only at hexec
  rw [hfind, hst] at hexec
  simp only [hresp, if_true] at hexec
  rw [flush_noFence (fun g hg => hno g (List.mem_of_mem_erase hg))] at hexec
  exact ⟨_, hexec, rfl, (actsOnPorts_answer _ _ _ _ _).congr _ _ rfl, rfl⟩

include hs

/-- A signal for an index that no word has is discarded and logged. -/
theorem sigMessage_discarded (hk : mKind m = 1) (hw : 768 ≤ wordIndex (mTarget m)) :
    ∃ t, exec (.sigMessage l) s = .next t ∧ t.tt = s.tt ∧ t.counter cSyncErr = sat32 (s.counter cSyncErr + 1) ∧
      t.ports = s.ports ∧ t.mem = s.mem := by
  refine ⟨_, (exec_here (fun _ => rfl) h hk).trans (congrArg ok (if_pos hw)), ?_, ?_, ?_, ?_⟩
  · rw [logSync_only]
    rfl
  · exact counter_logSync (took_sound hs)
  · rw [logSync_only]
    rfl
  · rw [logSync_only]
    rfl

/-- A message of a channel that is not armed is discarded and logged. -/
theorem unarmed_discarded {i : Instr} {k : Nat} {f : Msg → Nat → Group → State → State} (hexec : ∀ s, exec i s =
      .next (s.onMsg l 1 (fun m => mKind m = k) (fun m s => s.consumeOrForward 1 (mDst m) m (fun s => s.onChannel m (f m)))))
    (hk : mKind m = k) (ha : (s.chan (mTarget m % 64)).st ≠ .armed) :
    ∃ t, exec i s = .next t ∧ t.tt = s.tt ∧ t.ports = s.ports ∧ t.counter cSyncErr = sat32 (s.counter cSyncErr + 1) ∧
      t = { s with tt := t.tt, ports := t.ports, shadow := t.shadow, counters := t.counters, link := t.link, out := t.out, free := t.free } := by
  obtain ⟨st, hst⟩ := onChannel_unarmed (s := s.took l) (f := f m) rfl ha
  refine ⟨_, (exec_here hexec h hk).trans (congrArg ok hst), ?_, ?_, counter_logSync (took_sound hs), ?_⟩
  · rw [logSync_only]
    rfl
  · rw [logSync_only]
    rfl
  · rw [logSync_only]
    rfl

end Rows

section Armed

variable (hs : s.Sound) (h : Here s l m) (hch : mTarget m % 64 = ch) (ha : (s.chan ch).st = .armed) (hg : s.group (s.chan ch).group = some g)
include h hch ha hg

/-- What a message row does for an armed channel. -/
theorem exec_armed {i : Instr} {k : Nat} {f : Msg → Nat → Group → State → State} (hexec : ∀ s, exec i s =
      .next (s.onMsg l 1 (fun m => mKind m = k) (fun m s => s.consumeOrForward 1 (mDst m) m (fun s => s.onChannel m (f m)))))
    (hk : mKind m = k) : exec i s = .next (f m ch g (s.took l)) :=
  (exec_here hexec h hk).trans (congrArg ok (onChannel_armed (s := s.took l) hch ha hg))

/-- A release of another phase changes nothing. -/
theorem barRelease_stale (hk : mKind m = 4) (hp : (s.chan ch).phase % 2 ≠ mPhase m) : exec (.barRelease l) s = .next (s.took l) :=
  (exec_armed h hch ha hg (fun _ => rfl) hk).trans (congrArg ok (if_pos hp))

include hs

/-- A break that comes down, from a loss or not (log 62). -/
theorem barOrphan_breaks (lost : Bool) (hk : mKind m = 5) :
    ∃ t, exec (.barOrphan ⟨l, lost⟩) s = .next t ∧ t.chan ch = (s.chan ch).brokenUp ∧ (∀ k, k ≠ ch → t.chan k = s.chan k) ∧
      t.tt.words = s.tt.words ∧ t.ports = (s.answerAll ch (s.chan ch).waits (if lost then .fault else .orphan) 0).ports ∧
      t = { s with tt := t.tt, ports := t.ports, link := t.link } := by
  obtain ⟨link, t, heq, hans⟩ := orphaned_answers (ch := ch) (took_sound (l := l) hs) lost (some (mOrigin m / 1024))
  have hexec := exec_armed h hch ha hg (i := .barOrphan ⟨l, lost⟩) (fun _ => rfl) hk
  dsimp only at hexec
  refine ⟨_, hexec.trans (congrArg ok heq), hans.chan, hans.others, ?_, ?_, ?_⟩
  · rw [hans.only]
    rfl
  · exact hans.ports.trans ((actsOnPorts_answerAll _ _ _ _).congr _ _ rfl)
  · rw [hans.only]
    rfl

/-- A pre-warn that comes down marks the phase, and goes on. -/
theorem barPrewarn_marks (hk : mKind m = 6) (hp : (s.chan ch).phase % 2 = mPhase m) (hw : (s.chan ch).prewarned = false) :
    ∃ t, exec (.barPrewarn l) s = .next t ∧ t.chan ch = { s.chan ch with prewarned := true } ∧ (∀ k, k ≠ ch → t.chan k = s.chan k) ∧
      t.out.pm = .prewarn ch :: s.out.pm ∧ t.ports = s.ports ∧ t = { s with tt := t.tt, link := t.link, out := t.out } := by
  have hcond : ¬(decide (((s.took l).chan ch).phase % 2 ≠ mPhase m) || ((s.took l).chan ch).prewarned) = true := by
    have hw' : ((s.took l).chan ch).prewarned = false := hw
    have hp' : ((s.took l).chan ch).phase % 2 = mPhase m := hp
    simp [hw', hp']
  have hwarn : (s.took l).prewarn ch = (s.took l).warned ch := by
    rw [prewarn_eq]
    exact if_neg (ne_true_of_eq_false hw)
  have hsend := actsOnLink_barrierTo (((s.took l).childChips g).filter (fun c => c ≠ mOrigin m / 1024)) 6 ch 0 (mPhase m) false
  have hexec := (exec_armed h hch ha hg (i := .barPrewarn l) (fun _ => rfl) hk).trans (congrArg ok (if_neg hcond))
  rw [hwarn] at hexec
  refine ⟨_, hexec, ?_, fun k hk => ?_, ?_, ?_, ?_⟩
  · exact (hsend.chan _ ch).trans (chan_setChan_same (took_sound hs))
  · exact (hsend.chan _ k).trans (chan_setChan_other hk)
  · rw [hsend.only]
    rfl
  · rw [hsend.only]
    rfl
  · rw [hsend.only]
    rfl

end Armed

end Sys2Proof.Machine

/-! SUPPORT. Counts that come up, releases that come down, and O17 (R165, R169, R170, R175, R176, R308, R410 to R413). -/

namespace Sys2Proof.Machine

open Sys2Proof

variable {s : State} {l : PortNo} {m : Msg} {ch : Nat} {g : Group} {r : FoldRec} {j : Nat}

/-! ## A count that comes up -/

/-- A count for an armed channel in this phase, which fills an input of a node of this chip. -/
structure Fills (s : State) (l : PortNo) (m : Msg) (ch : Nat) (g : Group) (r : FoldRec) (j : Nat) : Prop where
  here : Here s l m
  kind : mKind m = 3
  chan : mTarget m % 64 = ch
  armed : (s.chan ch).st = .armed
  group : s.group (s.chan ch).group = some g
  phase : (s.chan ch).phase % 2 = mPhase m
  host : s.hostOf r = s.topo.chip
  input : s.arriveInput ch g l (mOrigin m / 1024) = some (r, j)

/-- The chip with the count noted at its input. -/
def State.noted (s : State) (l : Nat) (ch : Nat) (y : Channel) : State := (s.took l).setChan ch y

theorem noted_sound {y : Channel} (h : s.Sound) : (s.noted l ch y).Sound := setChan_sound (took_sound h)

theorem noted_chan {y : Channel} (h : s.Sound) : (s.noted l ch y).chan ch = y := chan_setChan_same (took_sound h)

/-- What follows from a count rests on whether its node is complete. -/
theorem exec_barArrive_fills (hs : s.Sound) (h : Fills s l m ch g r j) {y : Channel} (hy : (s.chan ch).addCount r j (mOperand m) (mTrim m) = y) :
    exec (.barArrive l) s = .next (match y.nodeTotal r with
      | none => (s.noted l ch y).checkPrewarn ch g
      | some n =>
        if r.parent = 0xFFFF then ((s.noted l ch y).checkPrewarn ch g).releaseAtRoot ch g
        else ((s.noted l ch y).checkPrewarn ch g).countUp ch g 8 (some r) n) := by
  obtain ⟨hhere, hkind, hch, harmed, hgroup, hphase, hhost, hinput⟩ := h
  have hexec := exec_armed hhere hch harmed hgroup (i := .barArrive l) (fun _ => rfl) hkind
  have hfollow : (s.took l).followPhase ch g (mPhase m) = s.took l := if_neg (fun hc => hc.1 hphase)
  have hin : (s.took l).arriveInput ch g l (mOrigin m / 1024) = some (r, j) := hinput
  have hph : ¬((s.took l).chan ch).phase % 2 ≠ mPhase m := fun hc => hc hphase
  have hmod : (s.took l).modChan ch (fun x => x.addCount r j (mOperand m) (mTrim m)) = s.noted l ch y := by
    rw [← hy]
    rfl
  have hhost' : ¬(s.noted l ch y).hostOf r ≠ (s.noted l ch y).topo.chip := fun hc => hc hhost
  have htotal : (((s.noted l ch y).checkPrewarn ch g).chan ch).nodeTotal r = y.nodeTotal r := by
    rw [checkPrewarn_chan (noted_sound hs), noted_chan hs]
    rfl
  dsimp only at hexec
  rw [hfollow, hin] at hexec
  dsimp only at hexec
  rw [if_neg hph, hmod, if_neg hhost', htotal] at hexec
  exact hexec

/-- The pre-warn is due with the count. -/
def State.dueWith (s : State) (ch : Nat) (g : Group) (y : Channel) : Bool :=
  s.hasRoot g && !(s.chan ch).prewarned && decide (prewarnAt (s.policy 0x40) g.nmemb ≤ (s.setChan ch y).rootCount ch g)

theorem noted_due {y : Channel} (hs : s.Sound) (hw : y.prewarned = (s.chan ch).prewarned) : (s.noted l ch y).prewarnDue ch g = s.dueWith ch g y := by
  rw [State.prewarnDue, noted_chan hs, hw]
  rfl

/-- The rest of the chip, which no count touches. -/
def SameBeside (s t : State) (ch : Nat) : Prop :=
  (∀ k, k ≠ ch → t.chan k = s.chan k) ∧ t.tt.words = s.tt.words ∧ t.ports = s.ports ∧ t.mem = s.mem ∧ t.ops = s.ops ∧ t.led = s.led

/-- A count that does not complete its node waits there, and may reach the share at which the pre-warn goes out. -/
theorem barArrive_waits (hs : s.Sound) (h : Fills s l m ch g r j) {y : Channel} (hy : (s.chan ch).addCount r j (mOperand m) (mTrim m) = y)
    (hnone : y.nodeTotal r = none) :
    ∃ t, exec (.barArrive l) s = .next t ∧ t.chan ch = (if s.dueWith ch g y then { y with prewarned := true } else y) ∧ SameBeside s t ch ∧
      t.link = (if s.dueWith ch g y then (s.took l).barrierTo (s.childChips g) 6 ch 0 (s.chan ch).phase false else s.took l).link ∧
      t.out = (if s.dueWith ch g y then { s.out with pm := .prewarn ch :: s.out.pm } else s.out) := by
  have hexec := exec_barArrive_fills hs h hy
  rw [hnone] at hexec
  have hdue := noted_due (l := l) (g := g) hs (show y.prewarned = (s.chan ch).prewarned by rw [← hy]; rfl)
  have hphase : y.phase = (s.chan ch).phase := by rw [← hy]; rfl
  have hchan := checkPrewarn_chan (ch := ch) (g := g) (noted_sound (l := l) (ch := ch) (y := y) hs)
  have honly := checkPrewarn_only (s := s.noted l ch y) (ch := ch) (g := g)
  rw [noted_chan hs, hdue] at hchan
  rw [hdue, noted_chan hs, hphase] at honly
  refine ⟨_, hexec, ?_, ⟨fun k hk => ?_, ?_, ?_, ?_, ?_, ?_⟩, ?_, ?_⟩
  · rw [hchan]
    split
    · next hd => rw [hd, Bool.or_true]
    · next hd => rw [Bool.eq_false_iff.mpr hd, Bool.or_false]
  · exact (checkPrewarn_chan_other hk).trans (chan_setChan_other hk)
  · rw [honly]
    rfl
  · rw [honly]
    rfl
  · rw [honly]
    rfl
  · rw [honly]
    rfl
  · rw [honly]
    rfl
  · rw [honly]
    have hchild : (s.noted l ch y).childChips g = s.childChips g := childChips_congr rfl
    dsimp only
    rw [hchild]
    split
    · exact (actsOnLink_barrierTo _ _ _ _ _ _).congr _ _ rfl rfl
    · rfl
  · rw [honly]
    dsimp only
    split <;> rfl

/-- The sum of a complete node that is not the root leaves the chip in one message for each host of the node above. -/
theorem barArrive_goesUp (hs : s.Sound) (h : Fills s l m ch g r j) {y : Channel} (hy : (s.chan ch).addCount r j (mOperand m) (mTrim m) = y)
    {n : Nat} (hsome : y.nodeTotal r = some n) (hparent : r.parent ≠ 0xFFFF) (hroot : s.hasRoot g = false) {dests : List Nat}
    (hup : (s.noted l ch y).countUp ch g 8 (some r) n =
      (s.noted l ch y).barrierTo dests 3 ch (min n 0xFFFFF) y.phase y.trim) :
    ∃ t, exec (.barArrive l) s = .next t ∧ t.chan ch = y ∧ SameBeside s t ch ∧
      t.link = ((s.took l).barrierTo dests 3 ch (min n 0xFFFFF) (s.chan ch).phase y.trim).link ∧ t.out = s.out := by
  have hexec := exec_barArrive_fills hs h hy
  have hnotdue : (s.noted l ch y).prewarnDue ch g = false := by
    rw [noted_due hs (by rw [← hy]; rfl), State.dueWith, hroot]
    rfl
  have hphase : y.phase = (s.chan ch).phase := by rw [← hy]; rfl
  have hsend := actsOnLink_barrierTo dests 3 ch (min n 0xFFFFF) (s.chan ch).phase y.trim
  rw [hsome, checkPrewarn_not_due hnotdue] at hexec
  dsimp only at hexec
  rw [if_neg hparent, hup, hphase] at hexec
  refine ⟨_, hexec, ?_, ⟨fun k hk => ?_, ?_, ?_, ?_, ?_, ?_⟩, hsend.congr _ _ rfl rfl, ?_⟩
  · rw [hsend.chan, noted_chan hs]
  · exact (hsend.chan _ k).trans (chan_setChan_other hk)
  all_goals
    rw [hsend.only]
    rfl

/-- The node above is on another chip. -/
theorem countUp_away {src : FoldRec} {q : FoldRec} {k : Nat} {i : FoldInput} (hnext : s.nextNode g (some src) = some (q, k, i))
    (hhost : s.hostOf q ≠ s.topo.chip) (n c : Nat) : s.countUp ch g (n + 1) (some src) c =
      s.barrierTo (uniq ([s.hostOf q] ++ s.standbysOf q)) 3 ch (min c 0xFFFFF) (s.chan ch).phase (s.chan ch).trim := by
  simp only [State.countUp, hnext, hhost, if_false]

/-- No record here names the node above: its host is the one that the node's own record gives (R309). -/
theorem countUp_parent {src : FoldRec} (hnext : s.nextNode g (some src) = none) (n c : Nat) : s.countUp ch g (n + 1) (some src) c =
    s.barrierTo [src.parent] 3 ch (min c 0xFFFFF) (s.chan ch).phase (s.chan ch).trim := by
  simp only [State.countUp, hnext]

end Sys2Proof.Machine

/-! SUPPORT. The end of a phase at the root, and at a chip that hears of it: what it leaves beside the state in which the message came (R165,
R169, R170, R175, R176, R410 to R413). -/

namespace Sys2Proof.Machine

open Sys2Proof

variable {s b t : State} {ch : Nat} {g : Group} {words : List Nat} {drift : Option Nat}

/-- From `s` to `b` the chip has made ready for the end of a phase: words are checked, messages have left, and the pre-warn may be given. -/
structure Readied (s b : State) (ch : Nat) (words : List Nat) : Prop where
  sound : b.Sound
  word : ∀ v, b.word v = if words.contains v then (s.word v).trimmed else s.word v
  log : s.shadow.driftLog.length + words.length ≤ 64 → b.shadow.driftLog = s.shadow.driftLog ++ words.map s.driftEntry
  others : ∀ k, k ≠ ch → b.chan k = s.chan k
  st : (b.chan ch).st = (s.chan ch).st
  group : (b.chan ch).group = (s.chan ch).group
  phase : (b.chan ch).phase = (s.chan ch).phase
  waits : (b.chan ch).waits = (s.chan ch).waits
  last : (b.chan ch).last = (s.chan ch).last
  pm : (if (b.chan ch).prewarned then [] else [PmPulse.prewarn ch]) ++ b.out.pm =
    (if (s.chan ch).prewarned then [] else [PmPulse.prewarn ch]) ++ s.out.pm
  only : b = { s with
    tt := { s.tt with words := b.tt.words, chans := b.tt.chans }
    shadow := b.shadow, counters := b.counters, link := b.link, out := b.out, free := b.free }

/-- What the end of a phase leaves of its channel, of the waiters, and of the rest. -/
structure Ended (s t : State) (ch : Nat) (words : List Nat) (drift : Option Nat) : Prop where
  st : (t.chan ch).st = (s.chan ch).st
  phase : (t.chan ch).phase = (s.chan ch).phase + 1
  arrived : (t.chan ch).arrived = []
  trim : (t.chan ch).trim = false
  nodes : (t.chan ch).nodes = []
  sentUp : (t.chan ch).sentUp = false
  prewarned : (t.chan ch).prewarned = false
  lastDrift : (t.chan ch).lastDrift = drift
  last : (t.chan ch).last = (s.chan ch).last
  waitsForFleet : s.fleetSkew ch ≠ 0 → (t.chan ch).waits = (s.chan ch).waits ∧ t.ports = s.ports ∧
    (t.chan ch).rel = some { phase := (s.chan ch).phase, steps := 1, next := 0, fleet := some (s.fleetSkew ch) } ∧
    t.out.pm = (if (s.chan ch).prewarned then [] else [.prewarn ch]) ++ s.out.pm
  releases : s.fleetSkew ch = 0 →
    (t.chan ch).waits = (s.chan ch).waits.filter (fun q => !q.inStep (s.chan ch).phase (2 ^ s.rampLog) 0) ∧
    (t.chan ch).rel = (if 2 ^ s.rampLog = 1 then none
      else some { phase := (s.chan ch).phase, steps := 2 ^ s.rampLog, next := 1, fleet := none }) ∧
    t.ports = (s.answerAll ch ((s.chan ch).waits.filter (BWaiter.inStep (s.chan ch).phase (2 ^ s.rampLog) 0)) .ok (drift.getD 0)).ports ∧
    t.out.pm = .release s.rampLog 0 :: (if (s.chan ch).prewarned then [] else [.prewarn ch]) ++ s.out.pm
  word : ∀ v, t.word v = if words.contains v then (s.word v).trimmed else s.word v
  log : s.shadow.driftLog.length + words.length ≤ 64 → t.shadow.driftLog = s.shadow.driftLog ++ words.map s.driftEntry
  others : ∀ k, k ≠ ch → t.chan k = s.chan k
  mem : t.mem = s.mem
  ops : t.ops = s.ops
  led : t.led = s.led

theorem Readied.ended (hr : Readied s b ch words) (he : PhaseEnds b t ch drift) : Ended s t ch words drift := by
  have hskew : b.fleetSkew ch = s.fleetSkew ch := fleetSkew_congr (by rw [hr.only]) (by rw [hr.only]) hr.group
  have hramp : b.rampLog = s.rampLog := by rw [hr.only]; rfl
  obtain ⟨hfleet, hrel, hothers, honly⟩ := he
  rw [hskew] at hfleet hrel
  rw [hramp] at hrel
  have hchan : ∃ rel waits, t.chan ch = { (b.chan ch).next drift (s.fleetSkew ch) with rel := rel, waits := waits } := by
    by_cases h0 : s.fleetSkew ch = 0
    · exact ⟨_, _, (hrel h0).1.trans (by rw [h0])⟩
    · exact ⟨_, _, (hfleet h0).1⟩
  have hsteps : ∀ n, (if 1 < 2 ^ s.rampLog then some ({ phase := n, steps := 2 ^ s.rampLog, next := 1, fleet := none } : Release) else none) =
      if 2 ^ s.rampLog = 1 then none else some { phase := n, steps := 2 ^ s.rampLog, next := 1, fleet := none } := fun n => by
    have : 1 ≤ 2 ^ s.rampLog := Nat.one_le_two_pow
    by_cases h1 : 2 ^ s.rampLog = 1
    · rw [if_pos h1, if_neg (by omega)]
    · rw [if_neg h1, if_pos (by omega)]
  obtain ⟨rel, waits, hall⟩ := hchan
  refine ⟨?_, ?_, ?_, ?_, ?_, ?_, ?_, ?_, ?_, fun hne => ⟨?_, ?_, ?_, ?_⟩, fun h0 => ⟨?_, ?_, ?_, ?_⟩, fun v => ?_, fun hroom => ?_,
    fun k hk => (hothers k hk).trans (hr.others k hk), ?_, ?_, ?_⟩
  · rw [hall, ← hr.st]; rfl
  · rw [hall, ← hr.phase]; rfl
  · rw [hall]; rfl
  · rw [hall]; rfl
  · rw [hall]; rfl
  · rw [hall]; rfl
  · rw [hall]; rfl
  · rw [hall]; rfl
  · rw [hall, ← hr.last]; rfl
  · rw [(hfleet hne).1, ← hr.waits]; rfl
  · rw [(hfleet hne).2.1, hr.only]
  · rw [(hfleet hne).1, ← hr.phase]; rfl
  · rw [(hfleet hne).2.2, hr.pm]
  · rw [(hrel h0).1, hr.waits, hr.phase]
  · rw [(hrel h0).1, ← hsteps, hr.phase]
  · rw [(hrel h0).2.1, hr.waits, hr.phase]
    exact (actsOnPorts_answerAll _ _ _ _).congr _ _ (by rw [hr.only])
  · rw [(hrel h0).2.2, List.cons_append, hr.pm]
    rfl
  · rw [← hr.word, honly]; rfl
  · rw [← hr.log hroom, honly]
  · rw [honly, hr.only]
  · rw [honly, hr.only]
  · rw [honly, hr.only]

/-- Nothing is checked, and then the words are. -/
theorem Readied.trans {c : State} (h : Readied s c ch []) (h' : Readied c b ch words) : Readied s b ch words := by
  have hword : c.word = s.word := funext h.word
  have hentry : c.driftEntry = s.driftEntry := by
    funext v
    simp only [State.driftEntry, hword]
  have hlen : s.shadow.driftLog.length ≤ 64 → c.shadow.driftLog = s.shadow.driftLog := fun hroom => by
    have := h.log (by simpa using hroom)
    simpa using this
  refine ⟨h'.sound, fun v => ?_, fun hroom => ?_, fun k hk => (h'.others k hk).trans (h.others k hk), h'.st.trans h.st, h'.group.trans h.group,
    h'.phase.trans h.phase, h'.waits.trans h.waits, h'.last.trans h.last, h'.pm.trans h.pm, ?_⟩
  · rw [h'.word, hword]
  · have hlog := hlen (by omega)
    rw [h'.log (by rw [hlog]; exact hroom), hlog, hentry]
  · rw [h'.only, h.only]

/-! ## The root -/

/-- The messages of the root to the chips below: the pre-warn where it is still due, and the release. -/
def State.toldBelow (s : State) (ch : Nat) (g : Group) (v phase : Nat) (trim prewarned : Bool) : State :=
  (if prewarned then s else s.barrierTo (s.childChips g) 6 ch 0 phase false).barrierTo (s.childChips g) 4 ch v phase trim

theorem toldBelow_acts (v phase : Nat) (trim prewarned : Bool) : ActsOnLink (fun s => s.toldBelow ch g v phase trim prewarned) where
  only s := by
    have h4 := fun u : State => (actsOnLink_barrierTo (s.childChips g) 4 ch v phase trim).only u
    unfold State.toldBelow
    cases prewarned with
    | true => exact h4 _
    | false =>
      rw [if_neg (by decide), h4, (actsOnLink_barrierTo (s.childChips g) 6 ch 0 phase false).only]
  congr s u hl ht := by
    have hchild : s.childChips g = u.childChips g := childChips_congr ht
    have h6 := actsOnLink_barrierTo (s.childChips g) 6 ch 0 phase false
    unfold State.toldBelow
    rw [← hchild]
    refine (actsOnLink_barrierTo (s.childChips g) 4 ch v phase trim).congr _ _ ?_ ?_
    · cases prewarned with
      | true => exact hl
      | false => exact h6.congr s u hl ht
    · cases prewarned with
      | true => exact ht
      | false => exact (h6.topo s).trans (ht.trans (h6.topo u).symm)

theorem toldBelow_sound (h : s.Sound) (v phase : Nat) (trim prewarned : Bool) : (s.toldBelow ch g v phase trim prewarned).Sound := by
  refine (kept_barrierTo _ _ _ _ _ _ (q := s.pending) ?_).sound
  cases prewarned with
  | true => exact sound_kept h
  | false => exact kept_barrierTo _ _ _ _ _ _ (sound_kept h)

/-- The root's trim check, its messages, and the end of its phase. -/
theorem releaseAtRoot_readied (h : s.Sound) : ∃ v b, ((s.chan ch).trim = false → v = 0) ∧
    PhaseEnds b (s.releaseAtRoot ch g) ch (if (s.chan ch).trim then some v else none) ∧
    Readied s b ch (if (s.chan ch).trim then s.driftedWords g else []) ∧
    b.link = (s.toldBelow ch g v (s.chan ch).phase (s.chan ch).trim (s.chan ch).prewarned).link := by
  have hchecked : Trimmed (if (s.chan ch).trim then s.driftedWords g else []) s (if (s.chan ch).trim then (s.chipDrift g).1 else s) := by
    split
    · exact chipDrift_trimmed h
    · exact trimmed_nil h
  have hzero : (s.chan ch).trim = false → (if (s.chan ch).trim then some (s.chipDrift g).2 else none).getD 0 = 0 := fun ht => by rw [ht]; rfl
  have hdrift : (if (s.chan ch).trim then some (s.chipDrift g).2 else none) = (if (s.chan ch).trim then
      some ((if (s.chan ch).trim then some (s.chipDrift g).2 else none).getD 0) else none) := by
    cases (s.chan ch).trim <;> rfl
  have heq := releaseAtRoot_eq (s := s) (ch := ch) (g := g)
  generalize (if (s.chan ch).trim then (s.chipDrift g).1 else s) = w at hchecked heq
  rw [hdrift] at heq
  generalize (if (s.chan ch).trim then some (s.chipDrift g).2 else none).getD 0 = v at hzero heq
  have hv : (if (s.chan ch).trim then some v else none).getD 0 = v := by
    cases ht : (s.chan ch).trim with
    | true => rfl
    | false => exact (hzero ht).symm
  have htold := toldBelow_acts (ch := ch) (g := g) v (s.chan ch).phase (s.chan ch).trim (s.chan ch).prewarned
  have hchild : w.childChips g = s.childChips g := childChips_congr (by rw [hchecked.only])
  have hb : s.releaseAtRoot ch g = (w.toldBelow ch g v (s.chan ch).phase (s.chan ch).trim (s.chan ch).prewarned).endPhase ch
      (if (s.chan ch).trim then some v else none) := by
    rw [heq, hv, State.toldBelow, hchild]
  have honly := htold.only w
  have hlink := htold.congr w s (by rw [hchecked.only]) (by rw [hchecked.only])
  have hsound := toldBelow_sound (ch := ch) (g := g) hchecked.sound v (s.chan ch).phase (s.chan ch).trim (s.chan ch).prewarned
  generalize w.toldBelow ch g v (s.chan ch).phase (s.chan ch).trim (s.chan ch).prewarned = b at hb honly hlink hsound
  have hchan : ∀ k, b.chan k = s.chan k := fun k => by
    rw [← hchecked.only.chan k, honly]
    rfl
  refine ⟨v, b, hzero, hb ▸ endPhase_ends hsound _, ⟨hsound, fun x => ?_, fun hroom => ?_, fun k _ => hchan k, ?_, ?_, ?_, ?_, ?_, ?_, ?_⟩, hlink⟩
  · rw [← hchecked.word, honly]
    rfl
  · rw [← hchecked.log hroom, honly]
  · rw [hchan]
  · rw [hchan]
  · rw [hchan]
  · rw [hchan]
  · rw [hchan]
  · rw [hchan, honly, hchecked.only]
  · rw [honly, hchecked.only]

end Sys2Proof.Machine

/-! SUPPORT. The count that completes the root, the release that comes down, and O17 (R165, R169 to R176, R308, R394, R410 to R413). -/

namespace Sys2Proof.Machine

open Sys2Proof

variable {s : State} {l : PortNo} {m : Msg} {ch : Nat} {g : Group} {r : FoldRec} {j : Nat} {y : Channel}

/-! ## The count that completes the root -/

/-- A count that is noted, with the pre-warn where it is due with it, leaves the chip ready for the end of the phase. -/
theorem noted_readied (hs : s.Sound) (hy : (s.chan ch).addCount r j (mOperand m) (mTrim m) = y) :
    Readied s ((s.noted l ch y).checkPrewarn ch g) ch [] := by
  have hsound := noted_sound (l := l) (ch := ch) (y := y) hs
  have hchan := checkPrewarn_chan (ch := ch) (g := g) hsound
  rw [noted_chan hs, noted_due hs (by rw [← hy]; rfl)] at hchan
  have honly := checkPrewarn_only (s := s.noted l ch y) (ch := ch) (g := g)
  rw [noted_due hs (by rw [← hy]; rfl)] at honly
  have hw : y.prewarned = (s.chan ch).prewarned := by rw [← hy]; rfl
  refine ⟨checkPrewarn_sound hsound, fun v => ?_, fun _ => ?_, fun k hk => (checkPrewarn_chan_other hk).trans (chan_setChan_other hk),
    ?_, ?_, ?_, ?_, ?_, ?_, ?_⟩
  · rw [honly]
    rfl
  · rw [honly, List.map_nil, List.append_nil]
    rfl
  · rw [hchan, ← hy]
    rfl
  · rw [hchan, ← hy]
    rfl
  · rw [hchan, ← hy]
    rfl
  · rw [hchan, ← hy]
    rfl
  · rw [hchan, ← hy]
    rfl
  · have hpm : ((s.noted l ch y).checkPrewarn ch g).out.pm = (if s.dueWith ch g y then [.prewarn ch] else []) ++ s.out.pm := by
      rw [honly]
      rfl
    rw [hchan, hpm, hw]
    dsimp only
    cases hp : (s.chan ch).prewarned with
    | true =>
      have : s.dueWith ch g y = false := by simp [State.dueWith, hp]
      rw [this]
      rfl
    | false => cases s.dueWith ch g y <;> rfl
  · rw [honly]
    rfl

/-- The pre-warn goes down once, with the count or with the release. -/
theorem noted_toldBelow (hs : s.Sound) (hy : (s.chan ch).addCount r j (mOperand m) (mTrim m) = y) (v phase : Nat) (trim : Bool)
    (hphase : phase = (s.chan ch).phase) :
    (((s.noted l ch y).checkPrewarn ch g).toldBelow ch g v phase trim (((s.noted l ch y).checkPrewarn ch g).chan ch).prewarned).link =
      ((s.took l).toldBelow ch g v phase trim (s.chan ch).prewarned).link := by
  have hsound := noted_sound (l := l) (ch := ch) (y := y) hs
  have hw : y.prewarned = (s.chan ch).prewarned := by rw [← hy]; rfl
  have hp : y.phase = (s.chan ch).phase := by rw [← hy]; rfl
  have hdue := noted_due (l := l) (g := g) hs hw
  have hchan := checkPrewarn_chan (ch := ch) (g := g) hsound
  rw [noted_chan hs, hdue, hw] at hchan
  rw [hchan]
  dsimp only
  cases hd : s.dueWith ch g y with
  | false =>
    rw [checkPrewarn_not_due (hdue.trans hd), Bool.or_false]
    exact (toldBelow_acts v phase trim _).congr _ _ rfl rfl
  | true =>
    have hno : (s.chan ch).prewarned = false := by
      simp only [State.dueWith, Bool.and_eq_true, Bool.not_eq_true'] at hd
      exact hd.1.2
    have hchild : (s.noted l ch y).childChips g = (s.took l).childChips g := childChips_congr rfl
    have hsend := actsOnLink_barrierTo ((s.took l).childChips g) 6 ch 0 phase false
    rw [checkPrewarn_due (hdue.trans hd), noted_chan hs, hp, ← hphase, hno, hchild]
    have hbelow : (((s.noted l ch y).warned ch).barrierTo ((s.took l).childChips g) 6 ch 0 phase false).childChips g = (s.took l).childChips g :=
      childChips_congr ((hsend.topo _).trans rfl)
    simp only [State.toldBelow, hbelow, Bool.or_true, if_true, Bool.false_eq_true, if_false]
    exact (actsOnLink_barrierTo _ _ _ _ _ _).congr _ _ (hsend.congr _ _ rfl rfl) ((hsend.topo _).trans (hsend.topo (s.took l)).symm)

/-- The count that completes the root ends the phase here. -/
theorem barArrive_ends (hs : s.Sound) (h : Fills s l m ch g r j) (hy : (s.chan ch).addCount r j (mOperand m) (mTrim m) = y)
    (hsome : (y.nodeTotal r).isSome = true) (hparent : r.parent = 0xFFFF) :
    ∃ t v, exec (.barArrive l) s = .next t ∧ (y.trim = false → v = 0) ∧
      Ended s t ch (if y.trim then s.driftedWords g else []) (if y.trim then some v else none) ∧
      t.link = ((s.took l).toldBelow ch g v (s.chan ch).phase y.trim (s.chan ch).prewarned).link := by
  have hexec := exec_barArrive_fills hs h hy
  obtain ⟨n, hn⟩ := Option.isSome_iff_exists.mp hsome
  rw [hn] at hexec
  dsimp only at hexec
  rw [if_pos hparent] at hexec
  have hready := noted_readied (l := l) (g := g) hs hy
  have hlink := fun v => noted_toldBelow (l := l) (g := g) hs hy v (s.chan ch).phase y.trim rfl
  have hchan := checkPrewarn_chan (ch := ch) (g := g) (noted_sound (l := l) (ch := ch) (y := y) hs)
  rw [noted_chan hs] at hchan
  have htrim : (((s.noted l ch y).checkPrewarn ch g).chan ch).trim = y.trim := by rw [hchan]
  have hwords : ((s.noted l ch y).checkPrewarn ch g).driftedWords g = s.driftedWords g :=
    driftedWords_congr (by rw [checkPrewarn_only]; rfl) (by rw [checkPrewarn_only]; rfl)
  generalize (s.noted l ch y).checkPrewarn ch g = c at hexec hready hlink htrim hwords
  obtain ⟨v, b, hzero, hends, hb, hblink⟩ := releaseAtRoot_readied (ch := ch) (g := g) hready.sound
  rw [htrim, hready.phase] at hblink
  rw [htrim] at hzero hends hb
  rw [hwords] at hb
  refine ⟨_, v, hexec, hzero, (hready.trans hb).ended hends, ?_⟩
  rw [hends.only, ← hlink v, hblink]

/-! ## The release that comes down -/

/-- A release of the phase ends it here (log 63). -/
theorem barRelease_ends (hs : s.Sound) (h : Here s l m) (hch : mTarget m % 64 = ch) (ha : (s.chan ch).st = .armed)
    (hg : s.group (s.chan ch).group = some g) (hk : mKind m = 4) (hp : (s.chan ch).phase % 2 = mPhase m) :
    ∃ t, exec (.barRelease l) s = .next t ∧
      Ended s t ch (if mTrim m then s.driftedWords g else []) (if mTrim m then some (mOperand m) else none) ∧
      t.link = ((s.took l).barrierTo ((s.childChips g).filter (fun c => c ≠ mOrigin m / 1024)) 4 ch (mOperand m) (s.chan ch).phase (mTrim m)).link := by
  have hexec := exec_armed h hch ha hg (i := .barRelease l) (fun _ => rfl) hk
  have hph : ¬((s.took l).chan ch).phase % 2 ≠ mPhase m := fun hc => hc hp
  have hmod : ∀ n (u : State), n = (s.chan ch).phase % 2 → u.barrierTo (((s.took l).childChips g).filter (fun c => c ≠ mOrigin m / 1024)) 4 ch
      (mOperand m) n (mTrim m) = u.barrierTo ((s.childChips g).filter (fun c => c ≠ mOrigin m / 1024)) 4 ch (mOperand m) (s.chan ch).phase
      (mTrim m) := fun n u hn => by
    have hchild : (s.took l).childChips g = s.childChips g := childChips_congr rfl
    simp only [hn, hchild, State.barrierTo, Nat.mod_mod]
  have hsend := actsOnLink_barrierTo ((s.childChips g).filter (fun c => c ≠ mOrigin m / 1024)) 4 ch (mOperand m) (s.chan ch).phase (mTrim m)
  have hsent := (kept_barrierTo ((s.childChips g).filter (fun c => c ≠ mOrigin m / 1024)) 4 ch (mOperand m) (s.chan ch).phase (mTrim m)
    (sound_kept (took_sound (l := l) hs))).sound
  have honly := hsend.only (s.took l)
  dsimp only at hexec
  rw [if_neg hph, hmod _ _ hp.symm] at hexec
  generalize (s.took l).barrierTo ((s.childChips g).filter (fun c => c ≠ mOrigin m / 1024)) 4 ch (mOperand m) (s.chan ch).phase (mTrim m) = u
    at hexec honly hsent ⊢
  have hwords : u.driftedWords g = s.driftedWords g := driftedWords_congr (by rw [honly]; rfl) (by rw [honly]; rfl)
  have hchecked : Trimmed (if mTrim m then s.driftedWords g else []) u (if mTrim m then (u.chipDrift g).1 else u) := by
    rw [← hwords]
    split
    · exact chipDrift_trimmed hsent
    · exact trimmed_nil hsent
  have huchan : ∀ k, u.chan k = s.chan k := fun k => by
    rw [honly]
    rfl
  -- The check notes what comes up from below, where it is made at all.
  generalize hb : (if mTrim m then (u.chipDrift g).1.modChan ch (fun x => { x with upDrift := (u.chipDrift g).2 }) else u) = b at hexec
  have hbchan : ∃ z, (b.chan ch = { s.chan ch with upDrift := z }) ∧ (∀ k, k ≠ ch → b.chan k = s.chan k) ∧
      b = { (if mTrim m then (u.chipDrift g).1 else u) with
        tt := { (if mTrim m then (u.chipDrift g).1 else u).tt with chans := b.tt.chans } } ∧ b.Sound := by
    rw [← hb]
    cases ht : mTrim m with
    | true =>
      have htrimmed := chipDrift_trimmed (g := g) hsent
      have hchan : ∀ k, (u.chipDrift g).1.chan k = s.chan k := fun k => (htrimmed.only.chan k).trans (huchan k)
      refine ⟨(u.chipDrift g).2, ?_, fun k hk => (chan_setChan_other hk).trans (hchan k), rfl, setChan_sound htrimmed.sound⟩
      exact (chan_setChan_same htrimmed.sound).trans (congrArg (fun x : Channel => { x with upDrift := (u.chipDrift g).2 }) (hchan ch))
    | false => exact ⟨(s.chan ch).upDrift, huchan ch, fun k _ => huchan k, rfl, hsent⟩
  obtain ⟨z, hbch, hothers, hbonly, hbsound⟩ := hbchan
  generalize (if mTrim m then (u.chipDrift g).1 else u) = w at hchecked hbonly
  have hready : Readied s b ch (if mTrim m then s.driftedWords g else []) := by
    refine ⟨hbsound, fun v => ?_, fun hroom => ?_, hothers, ?_, ?_, ?_, ?_, ?_, ?_, ?_⟩
    · have huword : u.word v = s.word v := by rw [honly]; rfl
      rw [← huword, ← hchecked.word, hbonly]
      rfl
    · have hulog : u.shadow.driftLog = s.shadow.driftLog := by rw [honly]; rfl
      have huentry : u.driftEntry = s.driftEntry := by rw [honly]; rfl
      rw [← hulog, ← huentry, ← hchecked.log (by rw [hulog]; exact hroom), hbonly]
    · rw [hbch]
    · rw [hbch]
    · rw [hbch]
    · rw [hbch]
    · rw [hbch]
    · rw [hbch, hbonly, hchecked.only, honly]
      rfl
    · rw [hbonly, hchecked.only, honly]
      rfl
  have hends := endPhase_ends (ch := ch) hbsound (if mTrim m then some (mOperand m) else none)
  refine ⟨_, hexec, hready.ended hends, ?_⟩
  rw [hends.only, hbonly, hchecked.only]

/-- The words that the statement of O17 uses for the end of a phase. -/
theorem Ended.stated {t : State} {words : List Nat} {v : Nat} {trim : Bool} (h : Ended s t ch words (if trim then some v else none))
    (hv : trim = false → v = 0) (ha : (s.chan ch).st = .armed) :
    let x := s.chan ch
    let steps := 2 ^ s.rampLog
    let now : BWaiter → Bool := fun q => decide (q.phase = x.phase) && decide (stepOf steps q.pos = 0)
    (t.chan ch).st = .armed ∧ (t.chan ch).phase = x.phase + 1 ∧ (t.chan ch).arrived = [] ∧ (t.chan ch).trim = false ∧ (t.chan ch).nodes = [] ∧
      (t.chan ch).sentUp = false ∧ (t.chan ch).prewarned = false ∧ (t.chan ch).lastDrift = (if trim then some v else none) ∧
      (t.chan ch).last = x.last ∧
      (s.fleetSkew ch ≠ 0 → (t.chan ch).waits = x.waits ∧ t.ports = s.ports ∧
        (t.chan ch).rel = some { phase := x.phase, steps := 1, next := 0, fleet := some (s.fleetSkew ch) } ∧
        t.out.pm = (if x.prewarned then [] else [.prewarn ch]) ++ s.out.pm) ∧
      (s.fleetSkew ch = 0 → (t.chan ch).waits = x.waits.filter (fun q => !now q) ∧
        (t.chan ch).rel = (if steps = 1 then none else some { phase := x.phase, steps := steps, next := 1, fleet := none }) ∧
        t.ports = ((sortBy BWaiter.pos (x.waits.filter now)).foldl (fun a q => (a.endWait q.pos true ch).answer q.pos .ok q.top ch v) s).ports ∧
        t.out.pm = .release s.rampLog 0 :: (if x.prewarned then [] else [.prewarn ch]) ++ s.out.pm) := by
  intro x steps now
  have hval : (if trim then some v else none).getD 0 = v := by
    cases trim with
    | true => rfl
    | false => exact (hv rfl).symm
  have hrel := h.releases
  rw [hval] at hrel
  exact ⟨h.st.trans ha, h.phase, h.arrived, h.trim, h.nodes, h.sentUp, h.prewarned, h.lastDrift, h.last, h.waitsForFleet, hrel⟩

/-- Settles O17: message by message, and for the count and the release by whether they end the phase. -/
theorem syncMessagesTakeEffect : Obligations.SyncMessagesTakeEffect := by
  unfold Obligations.SyncMessagesTakeEffect
  refine ⟨?_, ?_, ?_⟩
  case refine_1 =>
    intro s l lost m hs hhead hvalid hchip hfree ch x rest
    have h : Here s l m := ⟨hhead, hvalid, hchip, hfree⟩
    refine ⟨sigMessage_flies h, sigMessage_discarded hs h, fun f st hk hno hf hst hresp => sigAck_answers h hk hno hf hst hresp,
      fun ha r hr hk => ?_, fun g ha hg => ⟨fun hk hp => ?_, fun hk => ?_, fun hk hp hw => ?_⟩⟩
    · have hmem : r = (Instr.barArrive l, 3) ∨ r = (.barRelease l, 4) ∨ r = (.barOrphan ⟨l, lost⟩, 5) ∨ r = (.barPrewarn l, 6) := by
        simpa using hr
      obtain rfl | rfl | rfl | rfl := hmem <;> exact unarmed_discarded hs h (fun _ => rfl) hk ha
    · exact ⟨_, barRelease_stale h rfl ha hg hk hp, rfl, rfl, rfl⟩
    · obtain ⟨t, hexec, hchan, hothers, hwords, hports, honly⟩ := barOrphan_breaks hs h rfl ha hg lost hk
      refine ⟨t, hexec, hchan, hothers, hwords, hports, ?_⟩
      rw [honly]
    · obtain ⟨t, hexec, hchan, hothers, hpm, hports, honly⟩ := barPrewarn_marks hs h rfl ha hg hk hp hw
      refine ⟨t, hexec, hchan, hothers, hpm, hports, ?_⟩
      rw [honly]
  case refine_2 =>
    intro s l m g r j hs hhead hvalid hchip hfree hk ch x ha hg hp hhost hin y u due same
    have h : Fills s l m ch g r j := ⟨⟨hhead, hvalid, hchip, hfree⟩, hk, rfl, ha, hg, hp, hhost, hin⟩
    have hy : (s.chan ch).addCount r j (mOperand m) (mTrim m) = y := rfl
    refine ⟨barArrive_waits hs h hy, fun n hn hparent hroot => ⟨fun q k i hnext hq => ?_, fun hnext => ?_⟩⟩
    · have hup := countUp_away (s := s.noted l ch y) (ch := ch) (g := g) (src := r) hnext hq 7 n
      rw [noted_chan hs] at hup
      exact barArrive_goesUp hs h hy hn hparent hroot hup
    · have hup := countUp_parent (s := s.noted l ch y) (ch := ch) (g := g) (src := r) hnext 7 n
      rw [noted_chan hs] at hup
      exact barArrive_goesUp hs h hy hn hparent hroot hup
  case refine_3 =>
    intro s l m g i hs hhead hvalid hchip hfree ch x ha hg hp ends down u trim words steps now hcase
    have h : Here s l m := ⟨hhead, hvalid, hchip, hfree⟩
    rcases hcase with ⟨rfl, hk, r, j, hhost, hin, hparent, -, hsome⟩ | ⟨rfl, hk⟩
    · have h4 : mKind m ≠ 4 := by rw [hk]; decide
      have htrim : trim = (x.trim || mTrim m) := if_neg h4
      obtain ⟨t, v, hexec, hzero, hended, hlink⟩ := barArrive_ends hs ⟨h, hk, rfl, ha, hg, hp, hhost, hin⟩ rfl hsome hparent
      rw [show (x.addCount r j (mOperand m) (mTrim m)).trim = trim from htrim.symm] at hzero hended hlink
      obtain ⟨h1, h2, h3, h4', h5, h6, h7, h8, h9, hfleet, hrel⟩ := hended.stated hzero ha
      refine ⟨t, v, hexec, fun hc => ?_, h1, h2, h3, h4', h5, h6, h7, h8, h9, hfleet, hrel, fun ht => ?_, hended.word, hended.log,
        hended.others, hended.mem, hended.ops, hended.led⟩
      · have ht : trim = false := hc.resolve_left h4
        rw [ht, hzero ht]
        rfl
      · have hchild : u.childChips g = s.childChips g := childChips_congr rfl
        rw [hlink, if_neg h4, ht, hzero ht, State.toldBelow]
        exact congrArg (fun l => State.link (State.barrierTo (if x.prewarned then u else u.barrierTo l 6 ch 0 x.phase false) l 4 ch 0 x.phase
          false)) hchild
    · have htrim : trim = mTrim m := if_pos hk
      obtain ⟨t, hexec, hended, hlink⟩ := barRelease_ends hs h rfl ha hg hk hp
      have hdrift : (if mTrim m then some (mOperand m) else none) = (if trim then some (if trim then mOperand m else 0) else none) := by
        rw [htrim]
        cases mTrim m <;> rfl
      rw [hdrift, ← htrim] at hended
      obtain ⟨h1, h2, h3, h4, h5, h6, h7, h8, h9, hfleet, hrel⟩ := hended.stated (fun ht => by rw [ht]; rfl) ha
      refine ⟨t, if trim then mOperand m else 0, hexec, fun _ => rfl, h1, h2, h3, h4, h5, h6, h7, h8, h9, hfleet, hrel, fun ht => ?_,
        hended.word, hended.log, hended.others, hended.mem, hended.ops, hended.led⟩
      rw [hlink, if_pos hk, ← htrim, ht]
      rfl

end Sys2Proof.Machine

/-! SUPPORT. What a let-fly does beside the tell-tale network: it leaves the words, the channels and the answers at the ports alone (R430). -/

namespace Sys2Proof.Machine

open Sys2Proof

variable {q s t : State}

/-- `s` agrees with `q` on the tell-tale network, the topology, the policy and the units, and on what the ports hold of answers. -/
structure Beside (q s : State) : Prop where
  sound : s.Sound
  tt : s.tt = q.tt
  topo : s.topo = q.topo
  pol : s.pol = q.pol
  units : s.units = q.units
  answers : ∀ p, (s.port p).resp = (q.port p).resp ∧ (s.port p).rebinding = (q.port p).rebinding

theorem beside_refl (h : s.Sound) : Beside s s := ⟨h, rfl, rfl, rfl, rfl, fun _ => ⟨rfl, rfl⟩⟩

/-- What only changes other parts. -/
theorem Beside.of_same (h : Beside q s) (ht : t.Sound)
    (hsame : t = { s with
      mem := t.mem, free := t.free, ops := t.ops, ctxs := t.ctxs, mh := t.mh, link := t.link, led := t.led }) : Beside q t := by
  refine ⟨ht, ?_, ?_, ?_, ?_, fun p => ?_⟩
  · rw [hsame, ← h.tt]
  · rw [hsame, ← h.topo]
  · rw [hsame, ← h.pol]
  · rw [hsame, ← h.units]
  · rw [← (h.answers p).1, ← (h.answers p).2, hsame]
    exact ⟨rfl, rfl⟩

theorem beside_forEach {α : Type} {l : List α} {f : α → State → State} (hf : ∀ x t, Beside q t → Beside q (f x t)) (h : Beside q s) :
    Beside q (forEach l f s) := by
  unfold forEach
  induction l generalizing s with
  | nil => exact h
  | cons x r ih => exact ih (hf x s h)

theorem beside_pushDone {p : Nat} {x : Done} (h : Beside q s) : Beside q (s.pushDone p x) := by
  refine ⟨pushDone_sound h.sound, h.tt, h.topo, h.pol, h.units, fun p' => ?_⟩
  by_cases hp : p' = p
  · subst hp
    rw [port_pushDone_same h.sound]
    exact h.answers p'
  · rw [port_pushDone_other hp]
    exact h.answers p'

theorem beside_onlyOps (h : Beside q s) (ht : t.Sound) (ho : OnlyOps s t) : Beside q t := h.of_same ht (by
  unfold OnlyOps at ho
  rw [ho])

/-! ## Collectives (R267, R430) -/

theorem beside_completeMember {ctx epoch opval : Nat} {m : Member} {st : CStatus} {x : Tally} (h : Beside q s) :
    Beside q (s.completeMember ctx epoch m st x opval) := by
  have hsound := (kept_completeMember ctx epoch m st x opval (sound_kept h.sound)).sound
  cases hl : m.live with
  | true =>
    obtain ⟨o, ho⟩ := completeMember_live (s := s) (ctx := ctx) (epoch := epoch) (opval := opval) (st := st) (x := x) hl
    rw [ho]
    exact beside_pushDone (h.of_same h.sound rfl)
  | false =>
    refine beside_onlyOps h hsound ?_
    unfold State.completeMember
    rw [hl]
    exact OnlyOps.trans (by rfl) (onlyOps_leaveColl _ _ _ _)

theorem beside_endMember {ctx epoch : Nat} {m : Member} {st : CStatus} (h : Beside q s) : Beside q (s.endMember ctx epoch m st) := by
  unfold State.endMember
  refine beside_completeMember ?_
  have hvoid : Beside q (if CStatusVoid st then s.voidDest ctx epoch m.desc else s) := by
    split
    · refine h.of_same (kept_voidDest _ _ _ (sound_kept h.sound)).sound ?_
      rw [voidDest_eq]
    · exact h
  generalize (if CStatusVoid st then s.voidDest ctx epoch m.desc else s) = u at hvoid
  split
  · exact hvoid.of_same (kept_abandonRoute _ (sound_kept hvoid.sound)).sound rfl
  · exact hvoid

theorem beside_abortMembers {ctx epoch : Nat} (n : Nat) (h : Beside q s) : Beside q (State.abortMembers ctx epoch n s) := by
  induction n generalizing s with
  | zero => exact h
  | succ n ih =>
    unfold State.abortMembers
    split
    · exact h
    · exact ih (beside_endMember h)

theorem beside_flyColl {ctx epoch : Nat} (h : Beside q s) : Beside q (s.flyColl ctx epoch) := by
  unfold State.flyColl
  split
  · exact h
  · next c _ =>
    extract_lets u v
    have hu : Beside q u := by
      simp only [u]
      split
      · refine h.of_same (kept_recordEpoch _ _ _ (sound_kept h.sound)).sound ?_
        rw [recordEpoch_eq]
      · exact h
    have hv : Beside q v := hu.of_same hu.sound rfl
    have hend := beside_abortMembers (ctx := ctx) (epoch := epoch) c.members.length hv
    exact hend.of_same hend.sound rfl

theorem beside_flyColls {mine : Coll → Bool} (h : Beside q s) : Beside q (s.flyColls mine) :=
  beside_forEach (fun _ _ ht => beside_flyColl ht) h

theorem beside_flyFlits {mine : Nat → Bool} (h : Beside q s) : Beside q (s.flyFlits mine) :=
  beside_forEach (fun _ _ ht => beside_forEach (fun _ _ hu => hu.of_same (kept_modLnk _ _ (sound_kept hu.sound)).sound rfl) ht) h

/-! ## Hoist, fairlead and combine (R224, R241) -/

theorem beside_report {p : Nat} {m : HoistMsg} {from_ : Sender} {b : Bool} (h : Beside q s) : Beside q (s.report p m from_ b) := by
  refine h.of_same (kept_report _ _ _ _ (sound_kept h.sound)).sound ?_
  unfold State.report
  split
  · rfl
  · unfold State.sendReportFlit
    extract_lets head
    split
    · rfl
    · split <;> rfl

theorem beside_endSend {x : Send} {st : CStatus} (h : Beside q s) : Beside q (s.endSend x st) := by
  unfold State.endSend
  extract_lets short _ u
  have hu : Beside q u := h.of_same h.sound rfl
  split
  · exact beside_pushDone hu
  · exact hu

theorem beside_writeDmap {x : Send} (h : Beside q s) : Beside q (s.writeDmap x) := h.of_same (kept_writeDmap x (sound_kept h.sound)).sound rfl

theorem beside_freeCopy {pool : Nat} {from_ : Sender} (h : Beside q s) : Beside q (s.freeCopy pool from_) := by
  refine h.of_same (kept_freeCopy _ _ (sound_kept h.sound)).sound ?_
  unfold State.freeCopy
  split <;> rfl

theorem beside_flyHoist (h : Beside q s) : Beside q s.flyHoist := by
  unfold State.flyHoist
  extract_lets held _ u v w
  have hu : Beside q u := h.of_same h.sound rfl
  have hv : Beside q v := beside_forEach (fun x t ht => beside_report ht) hu
  have hw : Beside q w := beside_forEach (fun x t ht => beside_endSend (beside_writeDmap ht)) hv
  exact beside_forEach (fun c t ht => beside_freeCopy ht) hw

theorem beside_stopCombs {mine : CombOp → Bool} {st : Option CStatus} (h : Beside q s) : Beside q (s.stopCombs mine st) := by
  unfold State.stopCombs State.finishCombs
  refine beside_forEach (fun o t ht => ?_) (h.of_same h.sound rfl)
  split
  · exact beside_pushDone ht
  · exact ht

end Sys2Proof.Machine

/-! SUPPORT. A let-fly on the tell-tale network (R163, R411): every waiter of a word or a channel is answered, and what a channel forgets. -/

namespace Sys2Proof.Machine

open Sys2Proof

variable {s t : State} {spared : Nat → Prop}

/-! ## Words -/

/-- A word without waiters. -/
def SyncWord.emptied (x : SyncWord) : SyncWord := { x with queue := [], drain := [] }

/-- What its waiters are answered. -/
def SyncWord.aborts (x : SyncWord) (w : Nat) : List (Nat × Word64) := x.waiters.map (fun q => (q.pos, responseWord .aborted 2 w x.value))

theorem flushWords_all (h : s.Sound) : CellsDone (fun _ => False) State.Sound State.word Prod.fst (fun e => e.2.emptied)
    (fun e => e.2.aborts e.1) s.tt.words s (s.flushWords (fun _ => true) .aborted) := by
  have hall : s.tt.words.filter (fun _ => true) = s.tt.words := List.filter_eq_self.mpr (fun _ _ => rfl)
  unfold State.flushWords
  rw [hall]
  refine forEach_cellsDone (old := fun e => s.word e.1) (fun e _ u hu _ => ?_) (words_nodup h) h h (fun _ _ => rfl)
  exact word_flushed (key := Prod.fst) (new := fun e : Nat × SyncWord => e.2.emptied) (a := e) hu (fun _ _ hf => hf) (fun r hr => by
    obtain ⟨q, hq, rfl⟩ := List.mem_map.mp hr
    exact ⟨q, hq, rfl⟩)

/-- The network but for the words. -/
def State.noWords (s : State) : TtState := { s.tt with words := [] }

theorem flushWords_noWords (mine : Nat → Bool) (st : CStatus) : (s.flushWords mine st).noWords = s.noWords := by
  unfold State.flushWords
  refine forEach_inv _ _ State.noWords (fun e t => ?_) s
  exact (forEach_inv e.2.waiters (fun q u => State.answerWait u e.1 q st e.2.value) State.noWords (fun _ _ => rfl) _)

theorem flushWords_chans (mine : Nat → Bool) (st : CStatus) : (s.flushWords mine st).tt.chans = s.tt.chans := by
  have h := congrArg TtState.chans (flushWords_noWords (s := s) mine st)
  exact h

theorem flushWords_flights (mine : Nat → Bool) (st : CStatus) : (s.flushWords mine st).tt.flights = s.tt.flights := by
  have h := congrArg TtState.flights (flushWords_noWords (s := s) mine st)
  exact h

/-! ## Channels -/

/-- A channel after a let-fly: no waits, no counts, and the arrivals that are not released forgotten. -/
def Channel.flown (x : Channel) : Channel :=
  { x with
    arrived := [], nodes := [], sentUp := false, trim := false, rel := none, last := x.flyLast (fun _ _ => true), waits := [] }

/-- What its waiters are answered. -/
def Channel.aborts (x : Channel) (k : Nat) : List (Nat × Word64) := x.waits.map (fun q => (q.pos, responseWord .aborted q.top k 0))

theorem lastOf_flyLast (x : Channel) (p n : Nat) (h : x.lastOf p = .inPhase n) :
    Tbl.get lastDefault (x.flyLast (fun _ _ => true)) p = if x.releasedTo p n then .inPhase n else .cleared := by
  unfold Channel.lastOf at h
  unfold Channel.flyLast
  generalize x.last = l at h
  induction l with
  | nil => exact absurd h (by simp [Tbl.get, lastDefault])
  | cons e l ih =>
    obtain ⟨j, v⟩ := e
    rw [Tbl.get] at h
    rw [List.map_cons, Tbl.get]
    by_cases hj : j = p
    · rw [if_pos hj] at h
      rw [if_pos hj, h, hj]
      cases hr : x.releasedTo p n <;> simp [hr]
    · rw [if_neg hj] at h
      rw [if_neg hj]
      exact ih h

theorem flyChannels_all {l : List Nat} (h : s.Sound) (hnd : l.Nodup) : CellsDone (fun _ => False) State.Sound State.chan id
    (fun k => (s.chan k).flown) (fun k => (s.chan k).aborts k) l s (forEach l (State.flyChannel (fun _ => false)) s) := by
  refine forEach_cellsDone (old := s.chan) (fun k _ u hu hk => ?_) (by rw [List.map_id]; exact hnd) h h (fun _ _ => rfl)
  have hk : u.chan k = s.chan k := hk
  have hall : ∀ w : List BWaiter, w.filter (fun _ => !true) = [] := fun w => List.filter_eq_nil_iff.mpr (fun _ _ => by decide)
  have hnone : ∀ w : List Nat, w.filter (fun _ => false) = [] := fun w => List.filter_eq_nil_iff.mpr (fun _ _ => by decide)
  have := chan_flushed (key := id) (spared := fun _ => False) (new := fun k => (s.chan k).flown) (rs := fun k => (s.chan k).aborts k) (a := k)
    (x := { s.chan k with
      arrived := [], nodes := [], sentUp := false, trim := false, rel := none, last := (s.chan k).flyLast (fun _ _ => true) })
    (mine := fun _ => true) (st := .aborted) (v := 0) hu (by simp only [hall]; rfl) (fun _ _ _ hf => hf) (fun r hr => by
      obtain ⟨q, hq, rfl⟩ := List.mem_map.mp hr
      exact ⟨q, hq, rfl, rfl⟩)
  unfold State.flyChannel
  rw [hk]
  simp only [hnone, Bool.not_false, Bool.true_or]
  exact this

end Sys2Proof.Machine

/-! SUPPORT. A let-fly whose scope includes the tell-tale network, on a die of which no cluster waits for a fill (R163, R411). -/

namespace Sys2Proof.Machine

open Sys2Proof

variable {s t u : State}

/-! ## What stays -/

theorem rest_flyChannel (later : Nat → Bool) (ch : Nat) (h : s.Rest t) : (State.flyChannel later ch s).Rest t :=
  rest_endBarrierWaits _ _ _ _ (rest_setChan _ _ h)

theorem rest_withInp {i : Inputs} (h : s.Rest t) : ({ s with inp := i } : State).Rest { t with inp := i } :=
  { h with inp := rfl }

theorem flyTellTale_rest (s : State) : ∃ i, s.flyTellTale.Rest { s with inp := i } := by
  have hwords := rest_flushWords (fun w => !s.units.paused.contains (wordCluster w)) .aborted s.rest_refl
  unfold State.flyTellTale
  exact ⟨_, rest_ite (fun _ => rest_pulse _ (rest_forEach (fun _ _ ht => rest_flyChannel _ _ ht) (rest_withInp hwords)))
    (fun _ => rest_forEach (fun _ _ ht => rest_flyChannel _ _ ht) (rest_withInp hwords))⟩

/-- The network but for the channels. -/
def State.noChans (s : State) : TtState := { s.tt with chans := [] }

theorem flyChannel_noChans (later : Nat → Bool) (ch : Nat) (s : State) : (State.flyChannel later ch s).noChans = s.noChans := by
  unfold State.flyChannel State.endBarrierWaits
  exact forEach_inv _ (fun w t => State.answerBarrier t ch w .aborted 0) State.noChans (fun _ _ => rfl) _

/-! ## What changes -/

/-- Every word is without waiters, every channel has forgotten what is not released, and all who waited have their answer. -/
structure TellTaleFlown (s t : State) : Prop where
  sound : t.Sound
  flights : t.tt.flights = s.tt.flights
  word : ∀ w, t.word w = (s.word w).emptied
  chan : ∀ k, t.chan k = (s.chan k).flown
  wordAnswers : ∀ w, ∀ r ∈ (s.word w).aborts w, (s.port r.1).rebinding = false → r.2 ∈ (t.port r.1).resp
  chanAnswers : ∀ k, ∀ r ∈ (s.chan k).aborts k, (s.port r.1).rebinding = false → r.2 ∈ (t.port r.1).resp

theorem emptied_default (map w : Nat) : (wordDefault map w).emptied = wordDefault map w := rfl

theorem flown_default (k : Nat) : (chanDefault k).flown = chanDefault k := rfl

theorem flushWords_word (h : s.Sound) (w : Nat) : (s.flushWords (fun _ => true) .aborted).word w = (s.word w).emptied := by
  have hd := flushWords_all h
  by_cases hw : w ∈ s.tt.words.map Prod.fst
  · obtain ⟨e, he, rfl⟩ := List.mem_map.mp hw
    rw [hd.set e he, State.word, Tbl.get_entry (words_nodup h) he]
  · rw [hd.others w hw, State.word, Tbl.get_absent hw, emptied_default]

theorem flushWords_answers (h : s.Sound) (w : Nat) : ∀ r ∈ (s.word w).aborts w, (s.port r.1).rebinding = false →
    r.2 ∈ ((s.flushWords (fun _ => true) .aborted).port r.1).resp := fun r hr hreb => by
  by_cases hw : w ∈ s.tt.words.map Prod.fst
  · obtain ⟨e, he, rfl⟩ := List.mem_map.mp hw
    rw [State.word, Tbl.get_entry (words_nodup h) he] at hr
    exact (flushWords_all h).answers e he r hr hreb
  · rw [State.word, Tbl.get_absent hw] at hr
    exact absurd hr List.not_mem_nil

/-- Every channel that is not as at reset takes part, so that in effect every channel does. -/
theorem flyChannels_chan (h : s.Sound) (k : Nat) :
    (forEach (s.tt.chans.map (·.1)) (State.flyChannel (fun _ => false)) s).chan k = (s.chan k).flown := by
  have hd := flyChannels_all h (chans_nodup h)
  by_cases hk : k ∈ s.tt.chans.map (·.1)
  · exact hd.set k hk
  · rw [hd.others k (by rw [List.map_id]; exact hk), State.chan, Tbl.get_absent hk, flown_default]

theorem flyChannels_answers (h : s.Sound) (k : Nat) : ∀ r ∈ (s.chan k).aborts k, (s.port r.1).rebinding = false →
    r.2 ∈ ((forEach (s.tt.chans.map (·.1)) (State.flyChannel (fun _ => false)) s).port r.1).resp := fun r hr hreb => by
  by_cases hk : k ∈ s.tt.chans.map (·.1)
  · exact (flyChannels_all h (chans_nodup h)).answers k hk r hr hreb
  · rw [State.chan, Tbl.get_absent hk] at hr
    exact absurd hr List.not_mem_nil

theorem flyChannels_noChans (l : List Nat) (s : State) : (forEach l (State.flyChannel (fun _ => false)) s).noChans = s.noChans :=
  forEach_inv l _ State.noChans (fun k t => flyChannel_noChans _ k t) s

/-- The channels are flown after the words, and the last change is one of the input and of the pins. -/
theorem flyTellTale_unpaused (hp : s.units.paused = []) : ∃ i o, s.flyTellTale =
    { forEach (s.tt.chans.map (·.1)) (State.flyChannel (fun _ => false))
      ({ s.flushWords (fun _ => true) .aborted with inp := i } : State) with out := o } := by
  have hunits : (s.flushWords (fun _ => true) .aborted).units = s.units := (rest_flushWords _ _ s.rest_refl).units
  unfold State.flyTellTale
  simp only [hp, List.contains_nil, Bool.not_false, hunits, flushWords_chans]
  split
  · exact ⟨_, _, rfl⟩
  · exact ⟨_, _, rfl⟩

/-- Once the words are without waiters, the channels follow. -/
theorem flown_of_emptied (hu : u.Sound) (hw : ∀ w, u.word w = (s.word w).emptied) (hfl : u.tt.flights = s.tt.flights)
    (hch : u.tt.chans = s.tt.chans) (hreb : ∀ p, (u.port p).rebinding = (s.port p).rebinding)
    (hans : ∀ w, ∀ r ∈ (s.word w).aborts w, (s.port r.1).rebinding = false → r.2 ∈ (u.port r.1).resp) :
    TellTaleFlown s (forEach (s.tt.chans.map (·.1)) (State.flyChannel (fun _ => false)) u) := by
  have hchan : ∀ k, u.chan k = s.chan k := fun k => by rw [State.chan, State.chan, hch]
  have hd := flyChannels_all hu (chans_nodup hu)
  have htt := flyChannels_noChans (u.tt.chans.map (·.1)) u
  have hwords := congrArg TtState.words htt
  have hflights := congrArg TtState.flights htt
  have hrest : (forEach (u.tt.chans.map (·.1)) (State.flyChannel (fun _ => false)) u).Rest u :=
    rest_forEach (fun _ _ ht => rest_flyChannel _ _ ht) u.rest_refl
  rw [← hch]
  refine ⟨hd.inv, hflights.trans hfl, fun w => ?_, fun k => (flyChannels_chan hu k).trans (by rw [hchan]),
    fun w r hr hf => hd.ports.grows _ (hans w r hr hf), fun k r hr hf => flyChannels_answers hu k r (by rw [hchan]; exact hr) (by rw [hreb]; exact hf)⟩
  rw [← hw, State.word, State.word, State.policy, State.policy, hrest.pol]
  exact congrArg (Tbl.get _ · w) hwords

theorem flyTellTale_flown (h : s.Sound) (hp : s.units.paused = []) : TellTaleFlown s s.flyTellTale := by
  have hsound := (kept_flyTellTale (sound_kept h)).sound
  have hreb := (flushWords_all h).ports.rebinding
  obtain ⟨i, o, heq⟩ := flyTellTale_unpaused hp
  have hf := flown_of_emptied (s := s) (u := { s.flushWords (fun _ => true) .aborted with inp := i }) (flushWords_all h).inv
    (flushWords_word h) (flushWords_flights _ _) (flushWords_chans _ _) hreb (flushWords_answers h)
  rw [heq] at hsound ⊢
  exact { hf with sound := hsound }

end Sys2Proof.Machine

/-! SUPPORT. A let-fly part by part (R430): what comes before the tell-tale network, and what comes after it. -/

namespace Sys2Proof.Machine

open Sys2Proof

variable {q s t : State} {f : Fly}

/-- The parts before the tell-tale network: collectives, and their flits. -/
def State.flyBefore (s : State) (f : Fly) : State :=
  if f.scope.testBit 3 then (s.flyColls f.coversColl).flyFlits f.selects else s.flyColls f.coversColl

/-- The tell-tale network, where the scope includes it. -/
def State.flyNetwork (s : State) (f : Fly) : State := if f.scope.testBit 2 then s.flyTellTale else s

/-- Hoist, where the scope includes it. -/
def State.flySends (s : State) (f : Fly) : State := if f.scope.testBit 1 then s.flyHoist else s

/-- Fairlead and combine, where the scope includes them. -/
def State.flyCombs (s : State) (f : Fly) : State :=
  if f.scope.testBit 0 then s.stopCombs (fun o => f.selects (dCtx o.desc)) (some .aborted) else s

theorem applyFly_eq : s.applyFly f = ((((s.flyBefore f).flyNetwork f).flySends f).flyCombs f).cutReason 5 := rfl

theorem beside_flyBefore (h : s.Sound) : Beside s (s.flyBefore f) := by
  have hcolls : Beside s (s.flyColls f.coversColl) := beside_flyColls (beside_refl h)
  unfold State.flyBefore
  split
  · exact beside_flyFlits hcolls
  · exact hcolls

theorem beside_flyAfter (h : s.Sound) : Beside s (((s.flySends f).flyCombs f).cutReason 5) := by
  have hhoist : Beside s (s.flySends f) := by
    unfold State.flySends
    split
    · exact beside_flyHoist (beside_refl h)
    · exact beside_refl h
  have hcombs : Beside s ((s.flySends f).flyCombs f) := by
    unfold State.flyCombs
    split
    · exact beside_stopCombs hhoist
    · exact hhoist
  exact hcombs.of_same hcombs.sound rfl

theorem Beside.word (h : Beside q s) (w : Nat) : s.word w = q.word w := by
  rw [State.word, State.word, State.policy, State.policy, h.tt, h.pol]

theorem Beside.chan (h : Beside q s) (k : Nat) : s.chan k = q.chan k := by
  rw [State.chan, State.chan, h.tt]

/-- What is done beside the network before and after leaves its outcome as it is. -/
theorem TellTaleFlown.between {u v : State} (hb : Beside s u) (h : TellTaleFlown u v) (ha : Beside v t) : TellTaleFlown s t where
  sound := ha.sound
  flights := by rw [ha.tt, h.flights, hb.tt]
  word w := by rw [ha.word, h.word, hb.word]
  chan k := by rw [ha.chan, h.chan, hb.chan]
  wordAnswers w r hr hreb := by
    rw [(ha.answers _).1]
    exact h.wordAnswers w r (by rw [hb.word]; exact hr) (by rw [(hb.answers _).2]; exact hreb)
  chanAnswers k r hr hreb := by
    rw [(ha.answers _).1]
    exact h.chanAnswers k r (by rw [hb.chan]; exact hr) (by rw [(hb.answers _).2]; exact hreb)

theorem applyFly_flown (h : s.Sound) (hp : s.units.paused = []) (hf : f.scope.testBit 2 = true) : TellTaleFlown s (s.applyFly f) := by
  have hb := beside_flyBefore (f := f) h
  have hnet : (s.flyBefore f).flyNetwork f = (s.flyBefore f).flyTellTale := if_pos hf
  have hflown := flyTellTale_flown hb.sound (by rw [hb.units]; exact hp)
  rw [applyFly_eq, hnet]
  exact hflown.between hb (beside_flyAfter hflown.sound)

theorem applyFly_beside (h : s.Sound) (hf : f.scope.testBit 2 = false) : Beside s (s.applyFly f) := by
  have hb := beside_flyBefore (f := f) h
  have hnet : (s.flyBefore f).flyNetwork f = s.flyBefore f := if_neg (by rw [hf]; decide)
  have ha := beside_flyAfter (f := f) hb.sound
  rw [applyFly_eq, hnet]
  exact ⟨ha.sound, ha.tt.trans hb.tt, ha.topo.trans hb.topo, ha.pol.trans hb.pol, ha.units.trans hb.units,
    fun p => ⟨(ha.answers p).1.trans (hb.answers p).1, (ha.answers p).2.trans (hb.answers p).2⟩⟩

/-- The waiters of words and channels after a let-fly (R163, R411). -/
theorem letFly_network (s : State) (f : Fly) (h : s.Sound) (hp : s.units.paused = []) :
    let t := s.applyFly f
    (f.scope.testBit 2 = false → t.tt = s.tt) ∧
    (f.scope.testBit 2 = true → t.tt.flights = s.tt.flights ∧
      (∀ w, t.word w = { s.word w with queue := [], drain := [] }) ∧
      (∀ w, ∀ q ∈ (s.word w).waiters, (s.port q.pos).rebinding = false → responseWord .aborted 2 w (s.word w).value ∈ (t.port q.pos).resp) ∧
      (∀ ch, let x := s.chan ch
             let y := t.chan ch
             y.st = x.st ∧ y.phase = x.phase ∧ y.arrived = [] ∧ y.waits = [] ∧ y.rel = none ∧
               (∀ p n, x.lastOf p = .inPhase n → y.lastOf p = (if x.releasedTo p n then .inPhase n else .cleared)) ∧
               (∀ b ∈ x.waits, (s.port b.pos).rebinding = false → responseWord .aborted b.top ch 0 ∈ (t.port b.pos).resp))) := by
  intro t
  refine ⟨fun hf => (applyFly_beside h hf).tt, fun hf => ?_⟩
  have hflown : TellTaleFlown s t := applyFly_flown h hp hf
  refine ⟨hflown.flights, hflown.word, fun w q hq hreb => hflown.wordAnswers w _ (List.mem_map_of_mem hq) hreb, fun ch => ?_⟩
  intro x y
  have hy : y = x.flown := hflown.chan ch
  rw [hy]
  exact ⟨rfl, rfl, rfl, rfl, rfl, fun p n hl => lastOf_flyLast x p n hl, fun b hb hreb => hflown.chanAnswers ch _ (List.mem_map_of_mem hb) hreb⟩

end Sys2Proof.Machine

/-! SUPPORT. Heartbeats and takeovers (R308 to R310, R386): the number that goes to each standby, and the node that changes its host. -/

namespace Sys2Proof.Machine

open Sys2Proof

variable {s t : State} {n : BitVec 21}

/-! ## Loops -/

theorem forEach_append {α : Type} (f : α → State → State) (a b : List α) (s : State) : forEach (a ++ b) f s = forEach b f (forEach a f s) :=
  List.foldl_append

theorem forEach_cons {α : Type} (f : α → State → State) (x : α) (l : List α) (s : State) : forEach (x :: l) f s = forEach l f (f x s) := rfl

/-- What every step keeps, the loop keeps. -/
theorem forEach_keeps {α : Type} {p : State → Prop} {f : α → State → State} {l : List α} (hf : ∀ x ∈ l, ∀ t, p t → p (f x t)) (h : p s) :
    p (forEach l f s) := by
  induction l generalizing s with
  | nil => exact h
  | cons x l ih => exact ih (fun y hy => hf y (List.mem_cons_of_mem _ hy)) (hf x List.mem_cons_self s h)

/-! ## Heartbeats (R309) -/

/-- The state but for what waits at the links. -/
def State.noLinks (s : State) : State := { s with link := { s.link with links := [] } }

theorem sendMsg_noLinks (vc c : Nat) (m : Msg) (s : State) : (s.sendMsg vc c m).noLinks = s.noLinks := by
  unfold State.sendMsg
  split
  · rfl
  · rfl

/-- The state whose next heartbeat has the next number. -/
def State.beaten (s : State) : State := { s with link := { s.link with hbSeq := (s.link.hbSeq + 1) % 65536 } }

/-- The heartbeat that goes to each of some chips. -/
def State.beatTo (s : State) (q : Nat) (l : List Nat) : State :=
  forEach l (fun c s => s.sendMsg 0 c (ctlMsg ctHeartbeat s.topo.chip c [(74, 16, q)])) s

theorem beatTo_noLinks (q : Nat) (l : List Nat) (s : State) : (s.beatTo q l).noLinks = s.noLinks :=
  forEach_inv l _ State.noLinks (fun c t => sendMsg_noLinks 0 c (ctlMsg ctHeartbeat t.topo.chip c [(74, 16, q)]) t) s

theorem beatTo_one {q c port : Nat} (h : s.Sound) (hr : s.routeTo c = some port) :
    (s.beatTo q [c]).lnk port = Link.queueMsg 0 (ctlMsg ctHeartbeat s.topo.chip c [(74, 16, q)]) (s.lnk port) := by
  have hsend : s.beatTo q [c] = s.setLnk port (Link.queueMsg 0 (ctlMsg ctHeartbeat s.topo.chip c [(74, 16, q)]) (s.lnk port)) := by
    show s.sendMsg 0 c _ = _
    unfold State.sendMsg
    rw [hr]
    rfl
  rw [hsend, lnk_setLnk_same h]

theorem heartbeatSend_quiet (h : s.topo.rigValid = false ∨ s.standbyChips = []) : exec .heartbeatSend s = .next s := by
  refine if_neg fun hgo => ?_
  rcases h with h | h
  · rw [h] at hgo
    exact Bool.false_ne_true hgo.1
  · exact hgo.2 h

theorem heartbeatSend_beats (hv : s.topo.rigValid = true) (hc : s.standbyChips ≠ []) :
    exec .heartbeatSend s = .next (s.beaten.beatTo s.link.hbSeq s.standbyChips) := if_pos ⟨hv, hc⟩

theorem heartbeatSend_done (h : s.Sound) (hv : s.topo.rigValid = true) (hc : s.standbyChips ≠ []) :
    ∃ t, exec .heartbeatSend s = .next t ∧ t = { s with link := t.link } ∧ t.link.hbSeq = (s.link.hbSeq + 1) % 65536 ∧
      (∀ c port, s.standbyChips = [c] → s.routeTo c = some port →
        t.lnk port = Link.queueMsg 0 (ctlMsg ctHeartbeat s.topo.chip c [(74, 16, s.link.hbSeq)]) (s.lnk port)) := by
  have hrest := beatTo_noLinks s.link.hbSeq s.standbyChips s.beaten
  have hbeaten : s.beaten.Sound := h
  refine ⟨_, heartbeatSend_beats hv hc, ?_, ?_, fun c port hone hr => ?_⟩
  · have hlink := congrArg (fun u : State => ({ u with link := (s.beaten.beatTo s.link.hbSeq s.standbyChips).link } : State)) hrest
    exact hlink
  · have hseq := congrArg (fun u : State => u.link.hbSeq) hrest
    exact hseq
  · rw [hone]
    exact beatTo_one hbeaten hr

theorem heartbeat_noted {l : PortNo} {m : Msg} (hm : s.headMsg l 0 = some m) (hv : s.topo.rigValid = true) (hc : s.topo.chip = ctDst m)
    (hty : ctType m = ctHeartbeat) : ∃ t, exec (.heartbeat l) s = .next t ∧ t.link.hbSeen.find (ctSrc m) = some (bits m 74 16) ∧
      t = { s with link := t.link } := by
  rw [exec_heartbeat, execHeartbeat, onMsg_takes hm (.inl rfl) (by rw [hty]; rfl), consumeOrForward_here (by exact hv) (by exact hc)]
  exact ⟨_, rfl, Tbl.find_put_same _ _ _, rfl⟩

/-! ## A node passes to its standby (R309, R310) -/

theorem wake_awake (hst : s.power.st ≠ .doze) (hz : s.dozing = false) : s.wake = s := by
  unfold State.wake
  rw [if_neg hst, if_neg (by rw [hz]; decide)]

/-- The state but for chip memory and the generation of the distance table. -/
def State.noTable (s : State) : State := { s with mem := [], topo := { s.topo with dtGen := 0 } }

theorem publish_noTable (l : List Nat) (s : State) : (s.publish l).noTable = s.noTable := by
  unfold State.publish
  split
  · have hstores := forEach_inv l (fun g t => store t (s.inp.regions.dist + 64 + 8 * g) (t.dtEntry g)) State.noTable (fun _ _ => rfl)
      { s with topo := { s.topo with dtGen := s.topo.dtGen + 2 } }
    exact hstores
  · rfl

/-- The state whose node is the standby's, with the table not yet written again. -/
def State.switched (s : State) (n : BitVec 21) : State := { s with topo := { s.topo with takenOver := s.topo.takenOver ++ [n] } }

theorem switchNode_noTable (s : State) (n : BitVec 21) :
    (s.switchNode n).noTable = (if s.topo.takenOver.contains n then s else s.switched n).noTable := by
  unfold State.switchNode
  split
  · rfl
  · exact publish_noTable _ _

theorem switchNode_takenOver (s : State) (n : BitVec 21) :
    (s.switchNode n).topo.takenOver = if s.topo.takenOver.contains n then s.topo.takenOver else s.topo.takenOver ++ [n] := by
  have h := congrArg (fun u : State => u.topo.takenOver) (switchNode_noTable s n)
  refine Eq.trans h ?_
  split
  · rfl
  · rfl

theorem switchNode_takes (s : State) (n : BitVec 21) : n ∈ (s.switchNode n).topo.takenOver := by
  rw [switchNode_takenOver]
  split
  · next h => exact List.contains_iff_mem.mp h
  · exact List.mem_append_right _ (List.mem_singleton.mpr rfl)

theorem switchNode_keeps {k : BitVec 21} (h : k ∈ s.topo.takenOver) : k ∈ (s.switchNode n).topo.takenOver := by
  rw [switchNode_takenOver]
  split
  · exact h
  · exact List.mem_append_left _ h

theorem hostOf_taken {r : FoldRec} (h : r.fnid ∈ s.topo.takenOver) : s.hostOf r = r.standby := if_pos (List.contains_iff_mem.mpr h)

/-! ## A chip that hears of a takeover -/

/-- What it does to its topology. -/
def State.takeoverHere (s : State) (l src : Nat) (n : BitVec 21) : State :=
  let u := if (s.groupsWith (fun r => r.fnid == n)).isEmpty then s else s.switchNode n
  match u.parentInput n src with
  | some (r, j) => u.rehome r j (u.logicalOf l) src
  | none => u

theorem exec_takeover_here {l : PortNo} {m : Msg} (hm : s.headMsg l 0 = some m) (hv : s.topo.rigValid = true) (hc : s.topo.chip = ctDst m)
    (hty : ctType m = ctTakeover) (hst : s.power.st ≠ .doze) (hz : s.dozing = false) : exec (.takeover l) s = .next
      ((s.modLnk l (Link.dropMsg 0)).takeoverHere l (ctSrc m) (BitVec.ofNat 21 (bits m 69 21))) := by
  rw [exec_takeover, execTakeover, onMsg_takes hm (.inl rfl) (by rw [hty]; rfl), consumeOrForward_here (by exact hv) (by exact hc)]
  have hwake : ((s.modLnk l (Link.dropMsg 0)).countRecv 0).wake = s.modLnk l (Link.dropMsg 0) := wake_awake hst hz
  rw [hwake]
  rfl

theorem groupsWith_isEmpty (s : State) (n : BitVec 21) :
    (s.groupsWith (fun r => r.fnid == n)).isEmpty = !s.topo.groups.any (fun e => e.2.folds.any (fun r => r.fnid == n)) := by
  rw [State.groupsWith, Bool.eq_iff_iff]
  simp [List.isEmpty_iff, List.filter_eq_nil_iff]

theorem takeoverHere_takes (l src : Nat) (h : s.topo.groups.any (fun e => e.2.folds.any (fun r => r.fnid == n)) = true) :
    n ∈ (s.takeoverHere l src n).topo.takenOver := by
  unfold State.takeoverHere
  rw [groupsWith_isEmpty, h]
  dsimp only [Bool.not_true, Bool.false_eq_true, if_false]
  split
  · exact switchNode_takes s n
  · exact switchNode_takes s n

theorem switchNode_only : s.switchNode n = { s with topo := (s.switchNode n).topo, mem := (s.switchNode n).mem } := by
  have h := congrArg (fun u : State => ({ u with topo := (s.switchNode n).topo, mem := (s.switchNode n).mem } : State)) (switchNode_noTable s n)
  refine Eq.trans h ?_
  split
  · rfl
  · rfl

theorem takeoverHere_only (l src : Nat) :
    s.takeoverHere l src n = { s with topo := (s.takeoverHere l src n).topo, mem := (s.takeoverHere l src n).mem } := by
  have hnode : ∃ x y, (if (s.groupsWith (fun r => r.fnid == n)).isEmpty then s else s.switchNode n) = { s with topo := x, mem := y } := by
    split
    · exact ⟨_, _, rfl⟩
    · exact ⟨_, _, switchNode_only⟩
  obtain ⟨x, y, hxy⟩ := hnode
  unfold State.takeoverHere
  rw [hxy]
  dsimp only
  split
  · rfl
  · rfl

theorem takeoverHere_other (l src : Nat) (h : s.topo.groups.any (fun e => e.2.folds.any (fun r => r.fnid == n)) = false) :
    s.takeoverHere l src n = match s.parentInput n src with
      | some (r, j) => s.rehome r j (s.logicalOf l) src
      | none => s := by
  have hempty : (s.groupsWith (fun r => r.fnid == n)).isEmpty = true := by
    rw [groupsWith_isEmpty, h]
    rfl
  unfold State.takeoverHere
  rw [if_pos hempty]

theorem takeover_done {l : PortNo} {m : Msg} (hm : s.headMsg l 0 = some m) (hv : s.topo.rigValid = true) (hc : s.topo.chip = ctDst m)
    (hty : ctType m = ctTakeover) (hst : s.power.st ≠ .doze) (hz : s.dozing = false) : ∃ t, exec (.takeover l) s = .next t ∧
      t = { s with link := t.link, topo := t.topo, mem := t.mem } ∧
      (let n := BitVec.ofNat 21 (bits m 69 21)
       (s.topo.groups.any (fun e => e.2.folds.any (fun r => r.fnid == n)) = true → t.topo.takenOver.contains n = true ∧
        ∀ e ∈ s.topo.groups, ∀ r ∈ e.2.folds, r.fnid = n → t.hostOf r = r.standby) ∧
       (s.topo.groups.any (fun e => e.2.folds.any (fun r => r.fnid == n)) = false → t.mem = s.mem ∧ (s.parentInput n (ctSrc m) = none → t.topo = s.topo) ∧
         (∀ r j, s.parentInput n (ctSrc m) = some (r, j) → t.topo = { s.topo with rehomed :=
           { fnid := r.fnid, input := j, port := s.logicalOf l, chip := ctSrc m } :: s.topo.rehomed.filter (fun h => !(h.fnid == r.fnid && h.input == j)) }))) := by
  refine ⟨_, exec_takeover_here hm hv hc hty hst hz, ?_, ?_⟩
  · rw [takeoverHere_only]
    rfl
  intro n
  refine ⟨fun hany => ?_, fun hnone => ?_⟩
  · have htaken := takeoverHere_takes (s := s.modLnk l (Link.dropMsg 0)) l (ctSrc m) hany
    exact ⟨List.contains_iff_mem.mpr htaken, fun e _ r _ hr => hostOf_taken (hr ▸ htaken)⟩
  · have hother := takeoverHere_other (s := s.modLnk l (Link.dropMsg 0)) l (ctSrc m) hnone
    have hsame : (s.modLnk l (Link.dropMsg 0)).parentInput n (ctSrc m) = s.parentInput n (ctSrc m) := rfl
    rw [hother, hsame]
    refine ⟨?_, fun hp => ?_, fun r j hp => ?_⟩
    · split <;> rfl
    · rw [hp]
      rfl
    · rw [hp]
      rfl

/-! ## A standby whose primary is silent (R309, R386) -/

theorem rehomeOwn_takenOver (s : State) (r : FoldRec) : (s.rehomeOwn r).topo.takenOver = s.topo.takenOver := by
  unfold State.rehomeOwn
  split
  · rfl
  · split
    · split
      · rfl
      · rfl
    · rfl

/-- What a standby sends and reports leaves the topology alone. -/
theorem takeOver_takenOver (s : State) (r : FoldRec) : (State.takeOver r s).topo.takenOver = (s.switchNode r.fnid).topo.takenOver := by
  unfold State.takeOver
  extract_lets dests a b c
  have hb : b.topo = a.topo := (core_forEach (fun _ _ ht => core_sendMsg _ _ _ ht) a.core_refl : b.Core a).topo
  have hc : (c.resumeNode r.fnid).topo = b.topo := (core_resumeNode _ (core_event _ _ b.core_refl)).topo
  rw [hc, hb]
  exact rehomeOwn_takenOver _ _

theorem takeOver_keeps {r : FoldRec} {k : BitVec 21} (h : k ∈ s.topo.takenOver) : k ∈ (State.takeOver r s).topo.takenOver := by
  rw [takeOver_takenOver]
  exact switchNode_keeps h

theorem takeOver_takes (s : State) (r : FoldRec) : r.fnid ∈ (State.takeOver r s).topo.takenOver := by
  rw [takeOver_takenOver]
  exact switchNode_takes s r.fnid

theorem takeOvers_keep {k : BitVec 21} (l : List FoldRec) (h : k ∈ s.topo.takenOver) : k ∈ (forEach l State.takeOver s).topo.takenOver :=
  forEach_keeps (p := fun t => k ∈ t.topo.takenOver) (fun _ _ _ ht => takeOver_keeps ht) h

theorem takeOvers_take {l : List FoldRec} {r : FoldRec} (hr : r ∈ l) (s : State) : r.fnid ∈ (forEach l State.takeOver s).topo.takenOver := by
  obtain ⟨a, b, rfl⟩ := List.append_of_mem hr
  rw [forEach_append, forEach_cons]
  exact takeOvers_keep b (takeOver_takes _ r)

theorem heartbeatMissing_quiet {primary : Fin 32768} (h : s.standbyFor primary = []) : exec (.heartbeatMissing primary) s = .next s := by
  simp only [exec_heartbeatMissing, execHeartbeatMissing, h, ok]

theorem sendReport_topo (s : State) (code llink : Nat) : (s.sendReport code llink).topo = s.topo :=
  (core_sendReport code llink s.core_refl).topo

/-- The state once a standby has taken over those nodes and said so. -/
def State.tookOver (s : State) (l : List FoldRec) (link : Nat) : State := (forEach l State.takeOver s).sendReport 0x48 link

theorem heartbeatMissing_exec {primary : Fin 32768} {r : FoldRec} {rs : List FoldRec} (h : s.standbyFor primary = r :: rs) :
    exec (.heartbeatMissing primary) s = .next (s.tookOver (r :: rs) ((r.ins.head?.map (·.sblink)).getD 0)) := by
  simp only [exec_heartbeatMissing, execHeartbeatMissing, h, List.head?_cons, Option.bind_some, ok, State.tookOver]

theorem tookOver_takes {l : List FoldRec} {r : FoldRec} (hr : r ∈ l) (link : Nat) :
    (s.tookOver l link).topo.takenOver.contains r.fnid = true ∧ (s.tookOver l link).hostOf r = r.standby := by
  have htaken := takeOvers_take hr s
  unfold State.tookOver
  generalize forEach l State.takeOver s = u at htaken
  rw [← sendReport_topo u 0x48 link] at htaken
  exact ⟨List.contains_iff_mem.mpr htaken, hostOf_taken htaken⟩

theorem heartbeatMissing_takesOver {primary : Fin 32768} {r : FoldRec} {rs : List FoldRec} (h : s.standbyFor primary = r :: rs) :
    ∃ t, exec (.heartbeatMissing primary) s = .next t ∧
      t = (forEach (r :: rs) State.takeOver s).sendReport 0x48 ((r.ins.head?.map (·.sblink)).getD 0) ∧
      (∀ x ∈ r :: rs, t.topo.takenOver.contains x.fnid = true ∧ t.hostOf x = x.standby) :=
  ⟨_, heartbeatMissing_exec h, by rw [State.tookOver], fun _ hx => tookOver_takes hx _⟩

end Sys2Proof.Machine

/-! SUPPORT. What a let-fly leaves of the collectives (R267, R430): none that it covers goes on without an end. -/

namespace Sys2Proof.Machine

open Sys2Proof

variable {s t u : State} {f : Fly}

/-- What a change of the elements that a test picks out leaves: a changed one, or one that the test passes over. -/
theorem mem_mapIf {α : Type} {p : α → Bool} {g : α → α} {l : List α} {x : α} (h : x ∈ mapIf p g l) :
    ∃ a ∈ l, (p a = true ∧ x = g a) ∨ (p a = false ∧ x = a) := by
  obtain ⟨a, ha, rfl⟩ := List.mem_map.mp h
  cases hp : p a with
  | true => exact ⟨a, ha, .inl ⟨hp, if_pos rfl⟩⟩
  | false => exact ⟨a, ha, .inr ⟨hp, if_neg Bool.false_ne_true⟩⟩

/-- An epoch's collective is there and has not ended. -/
def State.OpenIn (s : State) (k : Nat × Nat) : Prop := ∃ c ∈ s.ops.colls, (c.ctx, c.epoch) = k ∧ c.ended = none

/-- No collective opens; what other chips have sent stays. -/
structure CollsStay (s t : State) : Prop where
  opens : ∀ k, t.OpenIn k → s.OpenIn k
  inbound : t.ops.inbound = s.ops.inbound

theorem CollsStay.of_same (hc : t.ops.colls = s.ops.colls) (hi : t.ops.inbound = s.ops.inbound) : CollsStay s t :=
  ⟨fun _ ⟨c, hm, hk⟩ => ⟨c, hc ▸ hm, hk⟩, hi⟩

theorem CollsStay.refl (s : State) : CollsStay s s := .of_same rfl rfl

theorem CollsStay.trans (h : CollsStay s t) (h' : CollsStay t u) : CollsStay s u :=
  ⟨fun k hk => h.opens k (h'.opens k hk), h'.inbound.trans h.inbound⟩

/-- A change of a collective that leaves its key and its end. -/
theorem collsStay_modColl {ctx epoch : Nat} {g : Coll → Coll}
    (hg : ∀ c, ((g c).ctx, (g c).epoch) = (c.ctx, c.epoch) ∧ ((g c).ended = none → c.ended = none)) : CollsStay s (s.modColl ctx epoch g) := by
  refine ⟨fun k ⟨c, hm, hk, he⟩ => ?_, rfl⟩
  obtain ⟨d, hd, ⟨-, rfl⟩ | ⟨-, rfl⟩⟩ := mem_mapIf hm
  · exact ⟨d, hd, (hg d).1.symm.trans hk, (hg d).2 he⟩
  · exact ⟨c, hd, hk, he⟩

/-- A change of the members alone. -/
theorem collsStay_members (ctx epoch : Nat) (g : List Member → List Member) :
    CollsStay s (s.modColl ctx epoch (fun c => { c with members := g c.members })) :=
  collsStay_modColl fun _ => ⟨rfl, fun h => h⟩

theorem collsStay_tidyColls : CollsStay s s.tidyColls := ⟨fun _ ⟨c, hm, hk⟩ => ⟨c, (List.mem_filter.mp hm).1, hk⟩, rfl⟩

theorem collsStay_startMember (ctx epoch p : Nat) : CollsStay s (s.startMember ctx epoch p) := by
  rw [startMember_eq]
  exact (collsStay_members ctx epoch (startQueued p (s.started p))).trans (.of_same rfl rfl)

theorem collsStay_admitFrom (n : Nat) : CollsStay s (s.admitFrom n) := by
  induction n generalizing s with
  | zero => exact .refl s
  | succ n ih =>
    unfold State.admitFrom
    extract_lets q next
    clear_value next
    cases next with
    | none => exact .refl s
    | some e =>
      have hqueue : CollsStay s { s with ops := { s.ops with queue := q.erase e } } := .of_same rfl rfl
      exact hqueue.trans ((collsStay_startMember _ _ _).trans ih)

theorem collsStay_releaseSlot (ctx : Nat) : CollsStay s (s.releaseSlot ctx) := by
  have hfree : CollsStay s { s with ops := { s.ops with slots := s.ops.slots.filter (fun x => x ≠ ctx) } } := .of_same rfl rfl
  unfold State.releaseSlot State.admitNext
  split
  · exact .refl s
  · exact hfree.trans (collsStay_admitFrom _)

theorem collsStay_leaveColl (ctx epoch p : Nat) (live : Bool) : CollsStay s (s.leaveColl ctx epoch p live) :=
  ((collsStay_members ctx epoch (dropMember p live)).trans collsStay_tidyColls).trans (collsStay_releaseSlot ctx)

theorem collsStay_completeMember (ctx epoch : Nat) (m : Member) (st : CStatus) (x : Tally) (opval : Nat) :
    CollsStay s (s.completeMember ctx epoch m st x opval) := by
  unfold State.completeMember
  extract_lets _ a b
  have ha : CollsStay s a := .of_same rfl rfl
  have hb : CollsStay a b := collsStay_members ctx epoch (replaceMember m { m with stage := .done, up := none })
  split
  · exact (ha.trans hb).trans (.of_same rfl rfl)
  · exact (ha.trans hb).trans (collsStay_leaveColl _ _ _ _)

theorem collsStay_endMember (ctx epoch : Nat) (m : Member) (st : CStatus) : CollsStay s (s.endMember ctx epoch m st) := by
  unfold State.endMember
  extract_lets a b
  have ha : CollsStay s a := by
    simp only [a]
    split
    · rw [voidDest_eq]
      exact .of_same rfl rfl
    · exact .refl s
  have hb : CollsStay a b := by
    simp only [b]
    split <;> exact .of_same rfl rfl
  exact (ha.trans hb).trans (collsStay_completeMember _ _ _ _ _ _)

theorem collsStay_abortMembers (ctx epoch n : Nat) : CollsStay s (State.abortMembers ctx epoch n s) := by
  induction n generalizing s with
  | zero => exact .refl s
  | succ n ih =>
    unfold State.abortMembers
    split
    · exact .refl s
    · exact (collsStay_endMember _ _ _ _).trans ih

/-! ## One collective -/

/-- What the end by a let-fly makes of a collective. -/
def Coll.flown (x : Coll) : Coll :=
  { x with
    ended := some .aborted, down := some (.ended .aborted)
    early := match x.down with | some (.final r) => some r | _ => x.early }

theorem closed_modColl_flown (ctx epoch : Nat) : ¬(s.modColl ctx epoch Coll.flown).OpenIn (ctx, epoch) := fun ⟨c, hm, hk, he⟩ => by
  obtain ⟨d, -, ⟨-, rfl⟩ | ⟨hother, rfl⟩⟩ := mem_mapIf hm
  · exact Option.some_ne_none _ he
  · obtain ⟨rfl, rfl⟩ := Prod.mk.inj hk
    exact absurd hother (by simp)

theorem flyColl_stays (ctx epoch : Nat) : CollsStay s (s.flyColl ctx epoch) ∧ ¬(s.flyColl ctx epoch).OpenIn (ctx, epoch) := by
  unfold State.flyColl
  split
  · next hnone =>
    refine ⟨.refl s, fun ⟨c, hm, hk, _⟩ => ?_⟩
    obtain ⟨rfl, rfl⟩ := Prod.mk.inj hk
    exact List.find?_eq_none.mp hnone c hm (by simp)
  · next c _ =>
    extract_lets a b
    have ha : CollsStay s a := by
      simp only [a]
      split
      · rw [recordEpoch_eq]
        exact .of_same rfl rfl
      · exact .refl s
    have hb : CollsStay a b := collsStay_modColl (g := Coll.flown) (fun _ => ⟨rfl, fun h => absurd h (Option.some_ne_none _)⟩)
    have hend : CollsStay b (State.abortMembers ctx epoch c.members.length b).tidyColls :=
      (collsStay_abortMembers _ _ _).trans collsStay_tidyColls
    exact ⟨(ha.trans hb).trans hend, fun hopen => closed_modColl_flown ctx epoch (hend.opens _ hopen)⟩

/-! ## All that a let-fly covers -/

theorem flyColls_stays (l : List (Nat × Nat)) : CollsStay s (forEach l (fun k s => s.flyColl k.1 k.2) s) ∧
    ∀ k ∈ l, ¬(forEach l (fun k s => s.flyColl k.1 k.2) s).OpenIn k := by
  induction l generalizing s with
  | nil => exact ⟨.refl s, fun k hk => absurd hk List.not_mem_nil⟩
  | cons a l ih =>
    obtain ⟨hstay, hclosed⟩ := flyColl_stays (s := s) a.1 a.2
    obtain ⟨hstays, hall⟩ := ih (s := s.flyColl a.1 a.2)
    refine ⟨hstay.trans hstays, fun k hk => ?_⟩
    obtain rfl | hk := List.mem_cons.mp hk
    · exact fun hopen => hclosed (hstays.opens _ hopen)
    · exact hall k hk

theorem flyColls_closes {mine : Coll → Bool} {c : Coll} (hkey : ∀ d, d.ctx = c.ctx → mine d = true) (hc : c ∈ (s.flyColls mine).ops.colls) :
    c.ended.isSome = true := by
  by_contra hopen
  obtain ⟨hstays, hall⟩ := flyColls_stays (s := s) ((s.ops.colls.filter mine).map (fun c => (c.ctx, c.epoch)))
  have hopen : (s.flyColls mine).OpenIn (c.ctx, c.epoch) := ⟨c, hc, rfl, by simpa using hopen⟩
  obtain ⟨d, hd, hk, -⟩ := hstays.opens _ hopen
  refine hall _ (List.mem_map.mpr ⟨d, List.mem_filter.mpr ⟨hd, hkey d (Prod.mk.inj hk).1⟩, hk⟩) hopen

end Sys2Proof.Machine

/-! SUPPORT. What a let-fly leaves of sends, copies and combine operations, and the row that takes one (R224, R241, R300, R430). -/

namespace Sys2Proof.Machine

open Sys2Proof

variable {s t u : State} {f : Fly}

/-! ## Hoist (R241) -/

/-- The operations but for the sends. -/
def State.noSends (s : State) : OpsState := { s.ops with sends := [] }

/-- The operations but for the pools. -/
def State.noPools (s : State) : OpsState := { s.ops with pools := [] }

theorem report_noSends (p : Nat) (m : HoistMsg) (from_ : Sender) (b : Bool) (s : State) : (s.report p m from_ b).noSends = s.noSends := by
  unfold State.report
  split
  · rfl
  · unfold State.sendReportFlit
    extract_lets head
    split
    · rfl
    · split <;> rfl

theorem endSend_ops (x : Send) (st : CStatus) (s : State) : (s.endSend x st).ops = { s.ops with sends := s.ops.sends.filter (fun y => y.id ≠ x.id) } := by
  unfold State.endSend
  extract_lets short _ u
  split <;> rfl

theorem endSend_noSends (x : Send) (st : CStatus) (s : State) : (s.endSend x st).noSends = s.noSends := by
  rw [State.noSends, endSend_ops]
  rfl

/-- Each send of a list ends. -/
def State.endSends (s : State) (l : List Send) : State := forEach l (fun x s => (s.writeDmap x).endSend x .aborted) s

theorem endSends_noSends (l : List Send) (s : State) : (s.endSends l).noSends = s.noSends :=
  forEach_inv l _ State.noSends (fun x t => endSend_noSends x .aborted (t.writeDmap x)) s

theorem mem_endSends {l : List Send} {y : Send} (h : y ∈ (s.endSends l).ops.sends) : y ∈ s.ops.sends ∧ ∀ x ∈ l, y.id ≠ x.id := by
  induction l generalizing s with
  | nil => exact ⟨h, fun x hx => absurd hx List.not_mem_nil⟩
  | cons a l ih =>
    obtain ⟨hy, hl⟩ := ih (s := (s.writeDmap a).endSend a .aborted) h
    rw [endSend_ops] at hy
    obtain ⟨hy, ha⟩ := List.mem_filter.mp hy
    exact ⟨hy, List.forall_mem_cons.mpr ⟨by simpa using ha, hl⟩⟩

theorem endSends_all (s : State) : (s.endSends s.ops.sends).ops.sends = [] :=
  List.eq_nil_iff_forall_not_mem.mpr fun _ hy => (mem_endSends hy).2 _ (mem_endSends hy).1 rfl

/-- Each copy of a list is freed where nothing needs it. -/
def State.freeCopies (s : State) (l : List PoolCopy) : State := forEach l (fun c s => s.freeCopy c.pool c.sender) s

theorem freeCopy_noPools (pool : Nat) (from_ : Sender) (s : State) : (s.freeCopy pool from_).noPools = s.noPools := by
  unfold State.freeCopy
  split <;> rfl

theorem freeCopies_noPools (l : List PoolCopy) (s : State) : (s.freeCopies l).noPools = s.noPools :=
  forEach_inv l _ State.noPools (fun c t => freeCopy_noPools c.pool c.sender t) s

/-- Whether a copy is needed does not rest on the pools. -/
theorem copyNeeded_congr (h : t.noPools = s.noPools) (pool : Nat) (from_ : Sender) : t.copyNeeded pool from_ = s.copyNeeded pool from_ := by
  have hs : s.copyNeeded pool from_ = ({ State.reset with ops := s.noPools } : State).copyNeeded pool from_ := rfl
  have ht : t.copyNeeded pool from_ = ({ State.reset with ops := t.noPools } : State).copyNeeded pool from_ := rfl
  rw [hs, ht, h]

theorem mem_freeCopy {pool : Nat} {from_ : Sender} {c : PoolCopy} (h : c ∈ (s.freeCopy pool from_).ops.pools) :
    c ∈ s.ops.pools ∧ (c.pool = pool → c.sender = from_ → s.copyNeeded pool from_ = true) := by
  unfold State.freeCopy at h
  split at h
  · next hneed => exact ⟨h, fun _ _ => hneed⟩
  · obtain ⟨hc, hkey⟩ := List.mem_filter.mp h
    exact ⟨hc, fun hp hf => absurd hkey (by simp [hp, hf])⟩

theorem mem_freeCopies {l : List PoolCopy} {c : PoolCopy} (h : c ∈ (s.freeCopies l).ops.pools) :
    c ∈ s.ops.pools ∧ (c ∈ l → s.copyNeeded c.pool c.sender = true) := by
  induction l generalizing s with
  | nil => exact ⟨h, fun hc => absurd hc List.not_mem_nil⟩
  | cons a l ih =>
    obtain ⟨hc, hl⟩ := ih (s := s.freeCopy a.pool a.sender) h
    obtain ⟨hc, ha⟩ := mem_freeCopy hc
    refine ⟨hc, fun hmem => ?_⟩
    obtain rfl | hmem := List.mem_cons.mp hmem
    · exact ha rfl rfl
    · rw [← hl hmem]
      exact (copyNeeded_congr (freeCopy_noPools _ _ _) _ _).symm

/-- No send, no hold, no copy that nothing needs. -/
structure HoistFlown (s t : State) : Prop where
  sends : t.ops.sends = []
  holds : t.ops.holds = []
  inbound : t.ops.inbound = s.ops.inbound
  colls : t.ops.colls = s.ops.colls
  needed : ∀ c ∈ t.ops.pools, t.copyNeeded c.pool c.sender = true

/-- The holds end, and each of them is reported as not delivered. -/
def State.missHolds (s : State) : State :=
  forEach s.ops.holds (fun h s => s.report h.pos h.msg h.sender false) { s with ops := { s.ops with holds := [], waiting := [] } }

theorem missHolds_noSends (s : State) : s.missHolds.noSends = { s.ops with sends := [], holds := [], waiting := [] } :=
  forEach_inv s.ops.holds (fun h s => State.report s h.pos h.msg h.sender false) State.noSends
    (fun h t => report_noSends h.pos h.msg h.sender false t) _

/-- The state whose sends have ended too. -/
def State.sendless (s : State) : State := s.missHolds.endSends s.missHolds.ops.sends

theorem flyHoist_eq (s : State) : s.flyHoist = s.sendless.freeCopies s.sendless.ops.pools := rfl

theorem flyHoist_flown (s : State) : HoistFlown s s.flyHoist := by
  have hnone : s.sendless.ops.sends = [] := endSends_all s.missHolds
  have hends : s.sendless.noSends = _ := (endSends_noSends _ _).trans (missHolds_noSends s)
  rw [flyHoist_eq]
  generalize s.sendless = v at hnone hends ⊢
  have hfree := freeCopies_noPools v.ops.pools v
  refine ⟨?_, ?_, ?_, ?_, fun c hc => ?_⟩
  · exact (congrArg OpsState.sends hfree :).trans hnone
  · exact (congrArg OpsState.holds hfree :).trans (congrArg OpsState.holds hends :)
  · exact (congrArg OpsState.inbound hfree :).trans (congrArg OpsState.inbound hends :)
  · exact (congrArg OpsState.colls hfree :).trans (congrArg OpsState.colls hends :)
  · rw [copyNeeded_congr hfree]
    exact (mem_freeCopies hc).2 (mem_freeCopies hc).1

/-! ## Fairlead and combine (R224) -/

theorem stopCombs_ops (mine : CombOp → Bool) (st : Option CStatus) (s : State) : (s.stopCombs mine st).ops =
    { s.ops with combs := (mapIf mine (fun o => o.stop st) s.ops.combs).filter (fun o => !o.finished) } := by
  unfold State.stopCombs State.finishCombs
  refine forEach_inv _ (fun (o : CombOp) s => if o.live then State.pushDone s o.pos o.outcome else s) State.ops (fun o t => ?_) _
  split <;> rfl

theorem stop_cause (o : CombOp) (st : CStatus) : (o.stop (some st)).cause.isSome = true := by
  unfold CombOp.stop
  dsimp only
  split
  · next h => exact h
  · rfl

theorem stopCombs_covers {o : CombOp} {st : CStatus} (hsel : f.selects (dCtx o.desc) = true)
    (h : o ∈ (s.stopCombs (fun o => f.selects (dCtx o.desc)) (some st)).ops.combs) : o.cause.isSome = true := by
  rw [stopCombs_ops] at h
  obtain ⟨x, -, ⟨-, rfl⟩ | ⟨hother, rfl⟩⟩ := mem_mapIf (List.mem_filter.mp h).1
  · exact stop_cause x st
  · exact absurd hsel (by simpa using hother)

/-! ## What a let-fly covers (R430) -/

theorem flyFlits_ops (mine : Nat → Bool) (s : State) : (s.flyFlits mine).ops = s.ops :=
  forEach_inv (List.range 8) _ State.ops (fun l t =>
    forEach_inv [2, 3] (fun vc s => State.takeFlits s l vc _ (State.flitsOn s l vc _)) State.ops (fun _ _ => rfl) t) s

theorem flyBefore_ops (s : State) (f : Fly) : (s.flyBefore f).ops = (s.flyColls f.coversColl).ops := by
  unfold State.flyBefore
  split
  · exact flyFlits_ops _ _
  · rfl

theorem flyNetwork_ops (s : State) (f : Fly) : (s.flyNetwork f).ops = s.ops := by
  unfold State.flyNetwork
  split
  · obtain ⟨i, hrest⟩ := flyTellTale_rest s
    exact hrest.ops
  · rfl

/-- The state before the sends end. -/
def State.flyFirst (s : State) (f : Fly) : State := (s.flyBefore f).flyNetwork f

theorem flyFirst_ops (s : State) (f : Fly) : (s.flyFirst f).ops = (s.flyColls f.coversColl).ops :=
  (flyNetwork_ops _ f).trans (flyBefore_ops s f)

theorem flySends_colls (s : State) (f : Fly) : (s.flySends f).ops.colls = s.ops.colls := by
  unfold State.flySends
  split
  · exact (flyHoist_flown s).colls
  · rfl

/-- The last part changes the combine operations alone. -/
theorem flyCombs_ops (s : State) (f : Fly) : ∃ l, (s.flyCombs f).ops = { s.ops with combs := l } := by
  unfold State.flyCombs
  split
  · exact ⟨_, stopCombs_ops _ _ s⟩
  · exact ⟨_, rfl⟩

theorem applyFly_ops (s : State) (f : Fly) : ∃ l, (s.applyFly f).ops = { ((s.flyFirst f).flySends f).ops with combs := l } :=
  flyCombs_ops ((s.flyFirst f).flySends f) f

theorem applyFly_colls (s : State) (f : Fly) : (s.applyFly f).ops.colls = (s.flyColls f.coversColl).ops.colls := by
  obtain ⟨l, hl⟩ := applyFly_ops s f
  rw [hl, ← flyFirst_ops]
  exact flySends_colls _ f

theorem coversColl_selected {c d : Coll} (h3 : f.scope.testBit 3 = true) (hsel : f.selects c.ctx = true) (hd : d.ctx = c.ctx) :
    f.coversColl d = true := by
  rw [Fly.coversColl, hd, hsel, h3]
  rfl

theorem applyFly_closes {c : Coll} (h3 : f.scope.testBit 3 = true) (hc : c ∈ (s.applyFly f).ops.colls) (hsel : f.selects c.ctx = true) :
    c.ended.isSome = true := by
  rw [applyFly_colls] at hc
  exact flyColls_closes (fun _ hd => coversColl_selected h3 hsel hd) hc

theorem flyFirst_inbound (s : State) (f : Fly) : (s.flyFirst f).ops.inbound = s.ops.inbound := by
  rw [flyFirst_ops]
  exact (flyColls_stays _).1.inbound

theorem applyFly_hoist (h1 : f.scope.testBit 1 = true) : (s.applyFly f).ops.sends = [] ∧ (s.applyFly f).ops.holds = [] ∧
    (s.applyFly f).ops.inbound = s.ops.inbound ∧ ∀ c ∈ (s.applyFly f).ops.pools, (s.applyFly f).copyNeeded c.pool c.sender = true := by
  have hsends : (s.flyFirst f).flySends f = (s.flyFirst f).flyHoist := if_pos h1
  have hflown := flyHoist_flown (s.flyFirst f)
  obtain ⟨l, hl⟩ := applyFly_ops s f
  rw [hsends] at hl
  have hneeded : ∀ pool from_, (s.applyFly f).copyNeeded pool from_ = (s.flyFirst f).flyHoist.copyNeeded pool from_ := fun pool from_ => by
    have happly : (s.applyFly f).copyNeeded pool from_ = ({ State.reset with ops := (s.applyFly f).ops } : State).copyNeeded pool from_ := rfl
    rw [happly, hl]
    rfl
  refine ⟨?_, ?_, ?_, fun c hc => ?_⟩
  · rw [hl]
    exact hflown.sends
  · rw [hl]
    exact hflown.holds
  · rw [hl]
    exact hflown.inbound.trans (flyFirst_inbound s f)
  · rw [hl] at hc
    rw [hneeded]
    exact hflown.needed c hc

theorem applyFly_combs {o : CombOp} (h0 : f.scope.testBit 0 = true) (ho : o ∈ (s.applyFly f).ops.combs) (hsel : f.selects (dCtx o.desc) = true) :
    o.cause.isSome = true := by
  have hcombs : ((s.flyFirst f).flySends f).flyCombs f =
      ((s.flyFirst f).flySends f).stopCombs (fun o => f.selects (dCtx o.desc)) (some .aborted) := if_pos h0
  have ho : o ∈ (((s.flyFirst f).flySends f).flyCombs f).ops.combs := ho
  rw [hcombs] at ho
  exact stopCombs_covers hsel ho

theorem applyFly_nothing (hf : f.scope = 0) : s.applyFly f = s.cutReason 5 := by
  have hnone : f.coversColl = fun _ => false := by
    funext c
    simp [Fly.coversColl, hf]
  have hcolls : s.flyColls f.coversColl = s := by
    rw [hnone, State.flyColls, List.filter_eq_nil_iff.mpr (fun _ _ => Bool.false_ne_true)]
    rfl
  unfold State.applyFly
  simp only [hf, Nat.zero_testBit, Bool.false_eq_true, if_false, hcolls]

/-! ## The row -/

theorem letFlyMessage_none {l : PortNo} (h : takeFly (s.lnk l).rx0 = none) : exec (.letFlyMessage l) s = .next s := by
  simp only [exec_letFlyMessage, execLetFlyMessage, h, ok]

theorem letFlyMessage_takes {l : PortNo} {m : Msg} {rest : List (List Msg)} {freed : Bool} (h : takeFly (s.lnk l).rx0 = some (m, rest, freed)) :
    let u := s.setLnk l (if freed then ((s.lnk l).setRx 0 rest).freeBuffer 0 else (s.lnk l).setRx 0 rest)
    let pair := (ctSrc m, bits m 74 16)
    (s.link.flySeen.contains pair = true → exec (.letFlyMessage l) s = .next u) ∧
    (s.link.flySeen.contains pair = false → exec (.letFlyMessage l) s = .next
      (((({ u with link := { u.link with flySeen := (pair :: s.link.flySeen).take 64 } } : State).wakeFor (flyOf m)).applyFly (flyOf m)).flood m (some l.val))) := by
  intro u pair
  have hexec : exec (.letFlyMessage l) s = if s.link.flySeen.contains pair then .next u else .next
      (((({ u with link := { u.link with flySeen := (pair :: s.link.flySeen).take 64 } } : State).wakeFor (flyOf m)).applyFly (flyOf m)).flood m (some l.val)) := by
    simp only [exec_letFlyMessage, execLetFlyMessage, h]
    rfl
  refine ⟨fun hseen => ?_, fun hnew => ?_⟩
  · rw [hexec, hseen, if_pos rfl]
  · rw [hexec, hnew, if_neg Bool.false_ne_true]

/-- Settles O54: the rows of let-flies, what each part of one leaves, and the rows of heartbeats and takeovers. -/
theorem letFliesAndTakeovers : Obligations.LetFliesAndTakeovers := by
  unfold Obligations.LetFliesAndTakeovers
  refine ⟨fun s l _ => ⟨letFlyMessage_none, fun m rest freed h => letFlyMessage_takes h, fun f => ⟨fun h3 c hc hsel => applyFly_closes h3 hc hsel,
    fun h1 => applyFly_hoist h1, fun h0 o ho hsel => applyFly_combs h0 ho hsel, fun hf => applyFly_nothing hf⟩⟩,
    letFly_network, fun s l primary m hs => ⟨heartbeatSend_quiet, heartbeatSend_done hs, heartbeat_noted, takeover_done, heartbeatMissing_quiet,
      fun r rs h => heartbeatMissing_takesOver h⟩⟩

end Sys2Proof.Machine

/-! SUPPORT. The rules of the route ledger: what a write of an entry leaves alone, and what its row reads afterwards (R194 to R199, R204). -/

namespace Sys2Proof.Machine

open Sys2Proof

section LedgerRules

variable {s t u : State} {x : TagSlot} {b j i tag token r : Nat} {e : BitVec 160}

/-! ## What a write of an entry does, and what it leaves alone -/

theorem writeEntry_sb (h : s.sbIndex b j = some i) : s.writeEntry b j e =
    if leState e = lsFree then { s with led := { s.led with sbHeld := s.led.sbHeld.filter (fun k => k ≠ i) } }
    else store { s with led := { s.led with sbHeld := i :: s.led.sbHeld.filter (fun k => k ≠ i) } } (s.sbAddr i) (sbBytes e) := by
  unfold State.writeEntry
  rw [h]

theorem writeEntry_die (h : s.sbIndex b j = none) : s.writeEntry b j e = { s with led := { s.led with
    die := Tbl.set entryDefault s.led.die (entryIndex b j) (if leState e = lsFree then 0 else e)
    bad := s.led.bad.filter (fun k => k ≠ entryIndex b j) } } := by
  unfold State.writeEntry
  rw [h]

/-- `t` differs from `s` at most in ledger entries, on the die or in chip memory. -/
def OnlyEntries (s t : State) : Prop :=
  t = { s with mem := t.mem, led := { s.led with die := t.led.die, bad := t.led.bad, sbHeld := t.led.sbHeld } }

theorem OnlyEntries.refl (s : State) : OnlyEntries s s := rfl

theorem OnlyEntries.trans (h : OnlyEntries s t) (h' : OnlyEntries t u) : OnlyEntries s u := by
  unfold OnlyEntries at *
  rw [h', h]

theorem onlyEntries_writeEntry (s : State) (b j : Nat) (e : BitVec 160) : OnlyEntries s (s.writeEntry b j e) := by
  unfold OnlyEntries
  cases hp : s.sbIndex b j with
  | none => rw [writeEntry_die hp]
  | some i =>
    rw [writeEntry_sb hp]
    by_cases hfree : leState e = lsFree
    · rw [if_pos hfree]
    · rw [if_neg hfree]
      generalize sbBytes e = l
      rfl

theorem onlyEntries_writeRow (s : State) (x : TagSlot) (r : Nat) (e : BitVec 160) : OnlyEntries s (s.writeRow x r e) :=
  onlyEntries_writeEntry _ _ _ _

theorem onlyEntries_forEach {α : Type} {f : α → State → State} (hf : ∀ a s, OnlyEntries s (f a s)) (l : List α) (s : State) :
    OnlyEntries s (forEach l f s) := by
  unfold forEach
  induction l generalizing s with
  | nil => exact OnlyEntries.refl s
  | cons a l ih => exact (hf a s).trans (ih _)

/-- What the place of an entry depends on stays: the units and the policy (R197, R346). -/
theorem OnlyEntries.sbIndex (h : OnlyEntries s t) (b j : Nat) : t.sbIndex b j = s.sbIndex b j := by
  rw [h]; rfl

theorem OnlyEntries.tagSlot (h : OnlyEntries s t) (k : Nat) : t.tagSlot k = s.tagSlot k := by
  rw [h]; rfl

/-! ## What a row reads depends on -/

/-- The ledger's entries, in their places: all that the read of an entry depends on. -/
def State.entries (s : State) : State := { State.reset with
  mem := s.mem, pol := s.pol, units := s.units
  led := { State.reset.led with die := s.led.die, bad := s.led.bad, sbHeld := s.led.sbHeld } }

theorem readRow_congr (h : t.entries = s.entries) (x : TagSlot) (r : Nat) : t.readRow x r = s.readRow x r := by
  change t.entries.readRow x r = s.entries.readRow x r
  rw [h]

theorem rowEntry_congr (h : t.entries = s.entries) (x : TagSlot) (r : Nat) : t.rowEntry x r = s.rowEntry x r := by
  change t.entries.rowEntry x r = s.entries.rowEntry x r
  rw [h]

theorem rowIs_congr (h : t.entries = s.entries) (x : TagSlot) (r : Nat) (p : BitVec 160 → Bool) : t.rowIs x r p = s.rowIs x r p := by
  change t.entries.rowIs x r p = s.entries.rowIs x r p
  rw [h]

/-- Where the same entries stand, a write of one makes the same ones stand. -/
theorem writeEntry_entries (s : State) (b j : Nat) (e : BitVec 160) : (s.writeEntry b j e).entries = s.entries.writeEntry b j e := by
  cases hp : s.sbIndex b j with
  | none =>
    have hp' : s.entries.sbIndex b j = none := hp
    rw [writeEntry_die hp, writeEntry_die hp']
    rfl
  | some i =>
    have hp' : s.entries.sbIndex b j = some i := hp
    rw [writeEntry_sb hp, writeEntry_sb hp']
    by_cases hfree : leState e = lsFree
    · rw [if_pos hfree, if_pos hfree]
      rfl
    · rw [if_neg hfree, if_neg hfree]
      generalize sbBytes e = l
      rfl

theorem writeRow_congr (h : t.entries = s.entries) (x : TagSlot) (r : Nat) (e : BitVec 160) :
    (t.writeRow x r e).entries = (s.writeRow x r e).entries := by
  unfold State.writeRow
  rw [writeEntry_entries, writeEntry_entries, h]

/-- Two states with the same ledger, each entry in the same place, have the same ledger and chip memory after the same write. -/
theorem writeRow_same (h : t.entries = s.entries) (hled : t.led = s.led) (x : TagSlot) (r : Nat) (e : BitVec 160) :
    (t.writeRow x r e).led = (s.writeRow x r e).led ∧ (t.writeRow x r e).mem = (s.writeRow x r e).mem := by
  have hsame := writeRow_congr h x r e
  have ht := onlyEntries_writeRow t x r e
  have hs := onlyEntries_writeRow s x r e
  generalize t.writeRow x r e = t' at *
  generalize s.writeRow x r e = s' at *
  have hdie : t'.led.die = s'.led.die := congrArg (fun u => u.led.die) hsame
  have hbad : t'.led.bad = s'.led.bad := congrArg (fun u => u.led.bad) hsame
  have hheld : t'.led.sbHeld = s'.led.sbHeld := congrArg (fun u => u.led.sbHeld) hsame
  refine ⟨?_, congrArg (fun u => u.mem) hsame⟩
  rw [ht, hs]
  simp only [hled, hdie, hbad, hheld]

theorem rowIs_of_entry {p : BitVec 160 → Bool} (h : s.readRow x r = .entry e) : s.rowIs x r p = p e := by
  simp only [State.rowIs, State.rowEntry, h]

theorem rowEntry_eq_some : s.rowEntry x r = some e ↔ s.readRow x r = .entry e := by
  unfold State.rowEntry
  split
  · next y h => simp [h]
  · next h => exact ⟨nofun, fun he => absurd he (h e)⟩

/-! ## Freed entries (R198; log 25) -/

@[simp] theorem leState_zero : leState 0 = lsFree := by decide

theorem readEntry_sb (h : s.sbIndex b j = some i) : s.readEntry b j tag token = s.readSb i tag token := by
  unfold State.readEntry
  rw [h]

theorem readEntry_die (h : s.sbIndex b j = none) : s.readEntry b j tag token =
    if s.led.bad.contains (entryIndex b j) then .uncorrectable else .entry (Tbl.get entryDefault s.led.die (entryIndex b j)) := by
  unfold State.readEntry
  rw [h]

/-- A freed entry reads 0. -/
theorem readEntry_freed (hs : s.Sound) (b j tag token : Nat) : (s.writeEntry b j 0).readEntry b j tag token = .entry 0 := by
  have hindex := (onlyEntries_writeEntry s b j 0).sbIndex b j
  cases hp : s.sbIndex b j with
  | some i =>
    rw [readEntry_sb (hindex.trans hp), writeEntry_sb hp, if_pos leState_zero]
    simp [State.readSb]
  | none =>
    rw [readEntry_die (hindex.trans hp), writeEntry_die hp, if_pos leState_zero]
    simp [Tbl.get_set_rising _ _ hs.die_up]

/-- Freeing an entry leaves what another reads, or has freed it as well. -/
theorem readEntry_beside_freed (hs : s.Sound) (b j c q tag token : Nat) :
    (s.writeEntry b j 0).readEntry c q tag token = s.readEntry c q tag token ∨ (s.writeEntry b j 0).readEntry c q tag token = .entry 0 := by
  have hindex := (onlyEntries_writeEntry s b j 0).sbIndex c q
  cases hp : s.sbIndex b j with
  | some i =>
    rw [writeEntry_sb hp, if_pos leState_zero] at hindex ⊢
    cases hq : s.sbIndex c q with
    | some k =>
      rw [readEntry_sb (hindex.trans hq), readEntry_sb hq]
      by_cases hk : k = i
      · exact .inr (by simp [State.readSb, hk])
      · have hheld : (s.led.sbHeld.filter (fun k => k ≠ i)).contains k = s.led.sbHeld.contains k := by simp [hk]
        refine .inl ?_
        unfold State.readSb
        rw [hheld]
        rfl
    | none => exact .inl (by rw [readEntry_die (hindex.trans hq), readEntry_die hq])
  | none =>
    rw [writeEntry_die hp, if_pos leState_zero] at hindex ⊢
    cases hq : s.sbIndex c q with
    | some k => exact .inl (by rw [readEntry_sb (hindex.trans hq), readEntry_sb hq]; rfl)
    | none =>
      rw [readEntry_die (hindex.trans hq), readEntry_die hq]
      by_cases hk : entryIndex c q = entryIndex b j
      · exact .inr (by simp [hk, Tbl.get_set_rising _ _ hs.die_up])
      · exact .inl (by simp [hk, Tbl.get_set_other _ hk])

theorem readRow_freed (hs : s.Sound) (x : TagSlot) (r : Nat) : (s.writeRow x r 0).readRow x r = .entry 0 := by
  unfold State.readRow
  split
  · exact readEntry_freed hs _ _ _ _
  · rfl

theorem writeEntry_sound (hs : s.Sound) : (s.writeEntry b j e).Sound := (kept_writeEntry b j e (sound_kept hs)).sound

theorem writeRow_sound (hs : s.Sound) : (s.writeRow x r e).Sound := writeEntry_sound hs

/-- The row's entry is read, and free. -/
abbrev State.rowFree (s : State) (x : TagSlot) (r : Nat) : Prop := s.rowIs x r (fun e => leState e == lsFree) = true

theorem rowFree_zero (h : s.readRow x r = .entry 0) : s.rowFree x r := by
  rw [State.rowFree, rowIs_of_entry h, leState_zero]
  rfl

theorem rowFree_freed (hs : s.Sound) (x : TagSlot) (r : Nat) : (s.writeRow x r 0).rowFree x r := rowFree_zero (readRow_freed hs x r)

/-- A row that is free stays so when another is freed. -/
theorem rowFree_beside_freed (hs : s.Sound) {q : Nat} (h : s.rowFree x q) : (s.writeRow x r 0).rowFree x q := by
  have hread : (s.writeRow x r 0).readRow x q = s.readRow x q ∨ (s.writeRow x r 0).readRow x q = .entry 0 := by
    unfold State.readRow
    split
    · exact readEntry_beside_freed hs _ _ _ _ _ _
    · exact .inl rfl
  rcases hread with hsame | hzero
  · unfold State.rowFree State.rowIs State.rowEntry at *
    rwa [hsame]
  · exact rowFree_zero hzero

end LedgerRules

end Sys2Proof.Machine

/-! SUPPORT. What fairlead's operations leave alone: the slots of tags, the operations of the combine class, and what ends them (R200 to R207, R224). -/

namespace Sys2Proof.Machine

open Sys2Proof

section FairleadFrame

variable {s t u : State} {x : TagSlot} {k r : Nat}

/-- `t` differs from `s` at most in fairlead's own state: entries, slots, operations of the combine class, and the completions at the ports. -/
def OnlyFairlead (s t : State) : Prop :=
  t = { s with
    mem := t.mem, ports := t.ports
    led := { s.led with tags := t.led.tags, die := t.led.die, bad := t.led.bad, sbHeld := t.led.sbHeld }
    ops := { s.ops with combs := t.ops.combs } }

theorem OnlyFairlead.refl (s : State) : OnlyFairlead s s := rfl

theorem OnlyFairlead.trans (h : OnlyFairlead s t) (h' : OnlyFairlead t u) : OnlyFairlead s u := by
  unfold OnlyFairlead at *
  rw [h', h]

theorem OnlyEntries.onlyFairlead (h : OnlyEntries s t) : OnlyFairlead s t := by
  unfold OnlyFairlead
  rw [h]

theorem OnlyFairlead.link (h : OnlyFairlead s t) : t.link = s.link := by rw [h]

theorem onlyFairlead_ite {c : Prop} [Decidable c] (ht : OnlyFairlead s t) (hu : OnlyFairlead s u) : OnlyFairlead s (if c then t else u) := by
  split
  · exact ht
  · exact hu

theorem onlyFairlead_forEach {α : Type} {f : α → State → State} (hf : ∀ a s, OnlyFairlead s (f a s)) (l : List α) (s : State) :
    OnlyFairlead s (forEach l f s) := by
  unfold forEach
  induction l generalizing s with
  | nil => exact OnlyFairlead.refl s
  | cons a l ih => exact (hf a s).trans (ih _)

/-! ## Slots -/

theorem onlyFairlead_setTag (s : State) (k : Nat) (x : TagSlot) : OnlyFairlead s (s.setTag k x) := rfl

theorem onlyFairlead_closeRow (s : State) (k : Nat) : OnlyFairlead s (s.closeRow k) := rfl

theorem onlyFairlead_freeSlot (s : State) (k : Nat) : OnlyFairlead s (s.freeSlot k) := rfl

/-- A slot in quarantine is settled once it holds no entry and its `ROUTE` has completed (R203, R205). -/
theorem settleTag_frees (hst : (s.tagSlot k).st = .quarantine) (hdone : (s.tagSlot k).routeDone = true) (hheld : s.tagHolds (s.tagSlot k) = false) :
    s.settleTag k = s.freeSlot k := by
  simp [State.settleTag, hst, hdone, hheld]

theorem settleTag_waits (h : (s.tagSlot k).st ≠ .quarantine ∨ s.tagHolds (s.tagSlot k) = true) : s.settleTag k = s := by
  unfold State.settleTag
  dsimp only
  rcases h with h | h <;> simp [h]

theorem settleTag_cases (s : State) (k : Nat) : s.settleTag k = s ∨ s.settleTag k = s.freeSlot k := by
  unfold State.settleTag
  dsimp only
  split
  · exact .inr rfl
  · exact .inl rfl

theorem onlyFairlead_settleTag (s : State) (k : Nat) : OnlyFairlead s (s.settleTag k) :=
  onlyFairlead_ite (onlyFairlead_freeSlot s k) (OnlyFairlead.refl s)

/-- The end of a slot writes no entry. -/
theorem settleTag_entries (s : State) (k : Nat) : (s.settleTag k).entries = s.entries := by
  rcases settleTag_cases s k with h | h <;> rw [h]
  rfl

/-! ## Operations of the combine class -/

/-- Finished operations leave, and all else that changes are the ports that get their completions. -/
theorem finishCombs_eq (s : State) : s.finishCombs = { s with
    ops := { s.ops with combs := s.ops.combs.filter (fun o => !o.finished) }, ports := s.finishCombs.ports } := by
  have h : ({ s.finishCombs with ports := [] } : State) =
      { s with ops := { s.ops with combs := s.ops.combs.filter (fun o => !o.finished) }, ports := [] } := by
    unfold State.finishCombs
    refine forEach_inv _ _ (fun t : State => { t with ports := [] }) (fun o t => ?_) _
    split <;> rfl
  exact congrArg (fun t : State => { t with ports := s.finishCombs.ports }) h

theorem stopCombs_eq (s : State) (mine : CombOp → Bool) (st : Option CStatus) : s.stopCombs mine st = { s with
    ops := { s.ops with combs := (mapIf mine (fun o => o.stop st) s.ops.combs).filter (fun o => !o.finished) }
    ports := (s.stopCombs mine st).ports } :=
  finishCombs_eq _

theorem onlyFairlead_finishCombs (s : State) : OnlyFairlead s s.finishCombs := by
  unfold OnlyFairlead
  rw [finishCombs_eq]

theorem onlyFairlead_stopCombs (s : State) (mine : CombOp → Bool) (st : Option CStatus) : OnlyFairlead s (s.stopCombs mine st) := by
  unfold OnlyFairlead
  rw [stopCombs_eq]

/-- An end of operations touches neither the ledger nor chip memory. -/
theorem stopCombs_led (s : State) (mine : CombOp → Bool) (st : Option CStatus) : (s.stopCombs mine st).led = s.led := by
  rw [stopCombs_eq]

theorem stopCombs_mem (s : State) (mine : CombOp → Bool) (st : Option CStatus) : (s.stopCombs mine st).mem = s.mem := by
  rw [stopCombs_eq]

theorem stopCombs_entries (s : State) (mine : CombOp → Bool) (st : Option CStatus) : (s.stopCombs mine st).entries = s.entries := by
  rw [stopCombs_eq]
  rfl

/-! ## Cancel and release -/

theorem onlyEntries_cancelRow (s : State) (k : Nat) (x : TagSlot) (r : Nat) : OnlyEntries s (s.cancelRow k x r) := by
  unfold State.cancelRow
  split
  · split
    · exact onlyEntries_writeRow _ _ _ _
    · split
      · split <;> exact onlyEntries_writeRow _ _ _ _
      · exact OnlyEntries.refl s
  · exact onlyEntries_writeRow _ _ _ _

/-- The rows of a slot that a cancel goes through. -/
def State.cancelRows (s : State) (k : Nat) : State := forEach (List.range (s.tagSlot k).ntok) (fun r t => t.cancelRow k (s.tagSlot k) r) s

/-- The rows of a slot that a release goes through. -/
def State.releaseRows (s : State) (k : Nat) : State := forEach (List.range (s.tagSlot k).ntok) (fun r t =>
  if t.rowIs (s.tagSlot k) r (fun e => leState e == lsCombined) then t.writeRow (s.tagSlot k) r 0 else t) s

theorem onlyEntries_cancelRows (s : State) (k : Nat) : OnlyEntries s (s.cancelRows k) :=
  onlyEntries_forEach (fun _ t => onlyEntries_cancelRow t _ _ _) _ _

theorem onlyEntries_releaseRows (s : State) (k : Nat) : OnlyEntries s (s.releaseRows k) := by
  refine onlyEntries_forEach (fun r t => ?_) _ _
  split
  · exact onlyEntries_writeRow _ _ _ _
  · exact OnlyEntries.refl t

/-- A tag that is not live any more cannot be cancelled. -/
theorem cancelTag_idle (h : (s.tagSlot k).st ≠ .live) : s.cancelTag k = s := if_pos h

/-- The tag of a running `ROUTE` passes to quarantine, and the `ROUTE` is marked (R207). -/
theorem cancelTag_routing (h : (s.tagSlot k).st = .live) (hdone : (s.tagSlot k).routeDone = false) : s.cancelTag k =
    (s.setTag k { s.tagSlot k with st := .quarantine, routeCancelled := true }).stopCombs (fun o => o.slot == k) none := by
  unfold State.cancelTag
  dsimp only
  rw [if_neg (not_not_intro h), hdone]
  rfl

theorem cancelTag_routed (h : (s.tagSlot k).st = .live) (hdone : (s.tagSlot k).routeDone = true) : s.cancelTag k =
    (((s.cancelRows k).setTag k { s.tagSlot k with
      st := .quarantine
      nopen := ((List.range (s.tagSlot k).ntok).filter (fun r => (s.cancelRows k).rowIs (s.tagSlot k) r leOpen)).length }).stopCombs
        (fun o => o.slot == k) none).settleTag k := by
  unfold State.cancelTag
  dsimp only
  rw [if_neg (not_not_intro h), hdone]
  rfl

theorem releaseTag_eq (s : State) (k : Nat) : s.releaseTag k =
    (((s.releaseRows k).setTag k { s.tagSlot k with st := .quarantine }).stopCombs (fun o => o.slot == k) (some .badContext)).settleTag k := rfl

theorem onlyFairlead_cancelTag (s : State) (k : Nat) : OnlyFairlead s (s.cancelTag k) := by
  by_cases hlive : (s.tagSlot k).st = .live
  · cases hdone : (s.tagSlot k).routeDone with
    | false =>
      rw [cancelTag_routing hlive hdone]
      exact (onlyFairlead_setTag _ _ _).trans (onlyFairlead_stopCombs _ _ _)
    | true =>
      rw [cancelTag_routed hlive hdone]
      exact (((onlyEntries_cancelRows s k).onlyFairlead.trans (onlyFairlead_setTag _ _ _)).trans (onlyFairlead_stopCombs _ _ _)).trans
        (onlyFairlead_settleTag _ _)
  · rw [cancelTag_idle hlive]
    exact OnlyFairlead.refl s

theorem onlyFairlead_releaseTag (s : State) (k : Nat) : OnlyFairlead s (s.releaseTag k) :=
  (((onlyEntries_releaseRows s k).onlyFairlead.trans (onlyFairlead_setTag _ _ _)).trans (onlyFairlead_stopCombs _ _ _)).trans
    (onlyFairlead_settleTag _ _)

/-- An entry that cannot be read ends its tag, and is reported; the links stay as they are. -/
theorem loseEntry_link (s : State) (k r : Nat) (what : EntryRead) : (s.loseEntry k r what).link = s.link := by
  have hcancel : (s.cancelTag k).link = s.link := by rw [onlyFairlead_cancelTag]
  unfold State.loseEntry
  dsimp only
  split <;> simp [hcancel]

end FairleadFrame

end Sys2Proof.Machine

/-! SUPPORT. Notices: how a port checks and sends them, how a chip takes them, and what each does to the ledger (R204, R213 to R216, R272, R366). -/

namespace Sys2Proof.Machine

open Sys2Proof

section Notices

variable {s : State} {p : Pos} {l : PortNo} {m : Msg} {hi : Word64} {x : TagSlot} {k r i : Nat} {e : BitVec 160}

/-! ## At the port (R213, R214, R272) -/

theorem noticePost_awake (hrun : s.running = true) (hd : s.dozing = false) :
    exec (.noticePost p hi) s = .next (if s.stopped then s else s.postNotice p hi) := by
  have hactive : s.power.st = .active := by
    simp only [State.running, Bool.and_eq_true, beq_iff_eq] at hrun
    exact hrun.2
  simp only [exec_noticePost, execNoticePost, ok, State.portStore, wake_active hactive hd, hrun, if_true]
  rfl

theorem postNotice_rejects {st : CStatus} (h : s.noticeCheck (hi ++ (s.port p).nqLo) = some st ∨
      s.noticeCheck (hi ++ (s.port p).nqLo) = none ∧ 16 ≤ (s.port p).nq.length ∧ st = .noResource) :
    s.postNotice p hi = s.modPort p (Port.rejectNotice st) := by
  unfold State.postNotice
  dsimp only
  rcases h with h | ⟨h, hfull, rfl⟩
  · rw [h]
  · rw [h]
    exact if_pos hfull

theorem postNotice_takes (h : s.noticeCheck (hi ++ (s.port p).nqLo) = none) (hroom : (s.port p).nq.length < 16) :
    s.postNotice p hi = s.setPort p { s.port p with nq := (s.port p).nq ++ [setBits (hi ++ (s.port p).nqLo) 30 25 (s.rig p)] } := by
  unfold State.postNotice
  dsimp only
  rw [h]
  exact if_neg (Nat.not_le.mpr hroom)

theorem noticeCheck_malformed (h : nWellFormed m = false) : s.noticeCheck m = some .badDescriptor := by
  simp [State.noticeCheck, h]

theorem noticeCheck_absent (h : nWellFormed m = true) (hp : s.isPresent (nDst m) = false) : s.noticeCheck m = some .badContext := by
  simp [State.noticeCheck, h, hp]

theorem noticeCheck_passes (h : nWellFormed m = true) (hp : s.isPresent (nDst m) = true) : s.noticeCheck m = none := by
  simp [State.noticeCheck, h, hp]

theorem noticeSend_idle (h : s.stopped = true ∨ (s.port p).nq = []) : exec (.noticeSend p) s = .next s := by
  simp only [exec_noticeSend, execNoticeSend]
  rcases h with h | h <;> rw [h]
  · rfl
  · cases s.stopped <;> rfl

theorem noticeSend_onDie {rest : List Msg} (hs : s.stopped = false) (h : (s.port p).nq = m :: rest) (hd : nDst m = s.topo.chip) :
    exec (.noticeSend p) s =
      .next { s with ports := (s.setPort p { s.port p with nq := rest }).ports, led := { s.led with fly := s.led.fly ++ [m] } } := by
  simp only [exec_noticeSend, execNoticeSend, hs, h]
  exact if_pos hd

theorem noticeSend_offDie {rest : List Msg} (hs : s.stopped = false) (h : (s.port p).nq = m :: rest) (hd : nDst m ≠ s.topo.chip) :
    exec (.noticeSend p) s = .next ((s.setPort p { s.port p with nq := rest }).originate 4 (nDst m) m) := by
  simp only [exec_noticeSend, execNoticeSend, hs, h]
  exact if_neg hd

/-! ## At its home (R204, R215, R216) -/

/-- What a well-formed notice meets where its tag has a slot. -/
theorem applyNotice_found (hw : nWellFormed m = true) (hk : s.findTag (nTag m) = some k) : s.applyNotice m =
    if !(s.tagSlot k).routeDone || decide (nToken m < (s.tagSlot k).tokBase) || decide ((s.tagSlot k).tokBase + (s.tagSlot k).ntok ≤ nToken m) then
      s.bump cLedgerStray 1
    else match s.readRow (s.tagSlot k) (nToken m - (s.tagSlot k).tokBase) with
      | .entry e =>
        if (s.tagSlot k).gen.toNat ≠ nGen m ∨ leState e = lsFree then s.bump cLedgerStray 1
        else if !leSv e (nSide m) || leArr e (nSide m) || leState e == lsCombined then s.bump cLedgerDup 1
        else s.firstNotice k (s.tagSlot k) (nToken m - (s.tagSlot k).tokBase) e (nSide m)
      | what => s.loseEntry k (nToken m - (s.tagSlot k).tokBase) what := by
  unfold State.applyNotice
  rw [hw, hk]
  rfl

/-- A token of the tag whose entries have been written. -/
structure NoticeInRange (s : State) (m : Msg) (k : Nat) : Prop where
  formed : nWellFormed m = true
  found : s.findTag (nTag m) = some k
  done : (s.tagSlot k).routeDone = true
  low : (s.tagSlot k).tokBase ≤ nToken m
  high : nToken m < (s.tagSlot k).tokBase + (s.tagSlot k).ntok

theorem applyNotice_stray (hw : nWellFormed m = true) (hk : s.findTag (nTag m) = some k) (h : (s.tagSlot k).routeDone = false ∨
    nToken m < (s.tagSlot k).tokBase ∨ (s.tagSlot k).tokBase + (s.tagSlot k).ntok ≤ nToken m) : s.applyNotice m = s.bump cLedgerStray 1 := by
  rw [applyNotice_found hw hk]
  refine if_pos ?_
  rcases h with h | h | h <;> simp [h]

theorem applyNotice_reads (h : NoticeInRange s m k) (he : s.readRow (s.tagSlot k) (nToken m - (s.tagSlot k).tokBase) = .entry e) : s.applyNotice m =
    if (s.tagSlot k).gen.toNat ≠ nGen m ∨ leState e = lsFree then s.bump cLedgerStray 1
    else if !leSv e (nSide m) || leArr e (nSide m) || leState e == lsCombined then s.bump cLedgerDup 1
    else s.firstNotice k (s.tagSlot k) (nToken m - (s.tagSlot k).tokBase) e (nSide m) := by
  rw [applyNotice_found h.formed h.found, if_neg (by simp [h.done, h.low, h.high]), he]

theorem applyNotice_unreadable (h : NoticeInRange s m k) (he : ∀ e, s.readRow (s.tagSlot k) (nToken m - (s.tagSlot k).tokBase) ≠ .entry e) :
    s.applyNotice m = s.loseEntry k (nToken m - (s.tagSlot k).tokBase) (s.readRow (s.tagSlot k) (nToken m - (s.tagSlot k).tokBase)) := by
  rw [applyNotice_found h.formed h.found, if_neg (by simp [h.done, h.low, h.high])]
  split
  · next e hread => exact absurd hread (he e)
  · rfl

/-! ## The first notice of a side (Table 6-5, R220) -/

theorem tokenReady_learns {o : CombOp} {token : Nat} (ho : o ∈ s.ops.combs) (hslot : o.slot = k) (hst : standing o.desc = true)
    (htok : (combTokens o.desc).contains token = true) (hcause : o.cause = none) (hserved : o.served.contains token = false)
    (hlanes : o.lanes.any (fun z => z.1 == token) = false) : ∃ y ∈ (s.tokenReady k token).ops.combs, y.id = o.id ∧ token ∈ y.ready := by
  refine ⟨_, List.mem_map_of_mem ho, ?_⟩
  dsimp only
  split
  · exact ⟨rfl, by simp⟩
  · next hwaits =>
    refine ⟨rfl, ?_⟩
    by_contra hnot
    refine hwaits ?_
    rw [hslot, hst, htok, hcause, hserved, hlanes]
    simpa using hnot

theorem firstNotice_open (h : leState e ≠ lsCancelled) : s.firstNotice k x r e i =
    if leReady (leSetState (leSetArr e i) lsWaiting) then (s.writeRow x r (leSetState (leSetArr e i) lsWaiting)).tokenReady k (x.tokBase + r)
    else s.writeRow x r (leSetState (leSetArr e i) lsWaiting) := if_neg h

theorem firstNotice_cancelled (h : leState e = lsCancelled) : s.firstNotice k x r e i =
    if leAllArrived (leSetArr e i) then ((s.bump cLedgerCxlArr 1).writeRow x r 0).settleTag k
    else (s.bump cLedgerCxlArr 1).writeRow x r (leSetArr e i) := if_pos h

/-- No notice touches a link. -/
theorem firstNotice_link (s : State) (k : Nat) (x : TagSlot) (r : Nat) (e : BitVec 160) (i : Nat) : (s.firstNotice k x r e i).link = s.link := by
  by_cases h : leState e = lsCancelled
  · rw [firstNotice_cancelled h]
    split
    · exact (onlyFairlead_settleTag _ _).link.trans (onlyEntries_writeRow _ _ _ _).onlyFairlead.link
    · exact (onlyEntries_writeRow _ _ _ _).onlyFairlead.link
  · rw [firstNotice_open h]
    split <;> exact (onlyEntries_writeRow s _ _ _).onlyFairlead.link

theorem applyNotice_link (s : State) (m : Msg) : (s.applyNotice m).link = s.link := by
  unfold State.applyNotice
  split
  · rfl
  split
  · rfl
  dsimp only
  split
  · rfl
  split
  · split
    · rfl
    split
    · rfl
    · exact firstNotice_link _ _ _ _ _ _
  · exact loseEntry_link _ _ _ _

/-- A notice that comes over a link, for this chip. -/
theorem arrival_offDie (h : s.headMsg l 4 = some m) (hfree : s.rootStalled = false) (hvalid : s.topo.rigValid = true) (hchip : s.topo.chip = nDst m) :
    ∃ t, exec (.arrival (.offDie l)) s = .next t ∧ t = ({ s with link := t.link } : State).applyNotice m ∧ t.link.recv4 = s.link.recv4 + 1 := by
  have hlink := applyNotice_link ((s.modLnk l (Link.dropMsg 4)).countRecv 4) m
  refine ⟨((s.modLnk l (Link.dropMsg 4)).countRecv 4).applyNotice m, ?_, ?_, ?_⟩
  · simp only [exec_arrival, execArrival, ok]
    rw [onMsg_takes h (.inr hfree) rfl, consumeOrForward_here (by exact hvalid) (by exact hchip)]
  · rw [hlink]
    rfl
  · rw [hlink]
    rfl

/-- An entry that is not cancelled waits with the side's arrival, and an operation that stands for its token learns of it. -/
theorem firstNotice_waits (h : leState e ≠ lsCancelled) :
    let y := leSetState (leSetArr e i) lsWaiting
    let t := s.firstNotice k x r e i
    t = { s.writeRow x r y with ops := t.ops } ∧ (leReady y = false → t.ops = s.ops) ∧
      (leReady y = true → ∀ o ∈ s.ops.combs, o.slot = k → standing o.desc = true → (combTokens o.desc).contains (x.tokBase + r) = true →
        o.cause = none → o.served.contains (x.tokBase + r) = false → o.lanes.any (fun z => z.1 == x.tokBase + r) = false →
        ∃ y ∈ t.ops.combs, y.id = o.id ∧ x.tokBase + r ∈ y.ready) := by
  intro y t
  have hops : (s.writeRow x r y).ops = s.ops := by rw [onlyEntries_writeRow]
  have ht : t = if leReady y then (s.writeRow x r y).tokenReady k (x.tokBase + r) else s.writeRow x r y := firstNotice_open h
  clear_value t
  cases hready : leReady y with
  | false =>
    rw [hready, if_neg Bool.false_ne_true] at ht
    subst ht
    exact ⟨rfl, fun _ => hops, nofun⟩
  | true =>
    rw [hready, if_pos rfl] at ht
    subst ht
    exact ⟨rfl, nofun, fun _ o ho => tokenReady_learns (hops ▸ ho)⟩

/-- A cancelled entry only counts its arrivals, and is free with the last of them (R207). -/
theorem firstNotice_counts (hs : s.Sound) (h : leState e = lsCancelled) :
    let t := s.firstNotice k x r e i
    t.counter cLedgerCxlArr = sat32 (s.counter cLedgerCxlArr + 1) ∧
      t = { s with led := t.led, mem := t.mem, counters := t.counters, ops := { s.ops with combs := t.ops.combs } } ∧
      (leAllArrived (leSetArr e i) = false → t.led = (s.writeRow x r (leSetArr e i)).led ∧ t.mem = (s.writeRow x r (leSetArr e i)).mem ∧ t.ops = s.ops) ∧
      (leAllArrived (leSetArr e i) = true → t.rowIs x r (fun z => leState z == lsFree) = true) := by
  intro t
  have ht : t = if leAllArrived (leSetArr e i) then ((s.bump cLedgerCxlArr 1).writeRow x r 0).settleTag k
    else (s.bump cLedgerCxlArr 1).writeRow x r (leSetArr e i) := firstNotice_cancelled h
  clear_value t
  have hbump : (s.bump cLedgerCxlArr 1).Sound := (kept_bump _ _ (sound_kept hs)).sound
  have hcount := counter_bump_same (i := cLedgerCxlArr) (n := 1) hs
  cases harr : leAllArrived (leSetArr e i) with
  | false =>
    rw [harr, if_neg Bool.false_ne_true] at ht
    have hw := onlyEntries_writeRow (s.bump cLedgerCxlArr 1) x r (leSetArr e i)
    rw [← ht] at hw
    refine ⟨?_, ?_, fun _ => ⟨?_, ?_, ?_⟩, nofun⟩
    · rw [hw]
      exact hcount
    · rw [hw]
      rfl
    · rw [ht]
      exact (writeRow_same (s := s) (t := s.bump cLedgerCxlArr 1) rfl rfl x r _).1
    · rw [ht]
      exact (writeRow_same (s := s) (t := s.bump cLedgerCxlArr 1) rfl rfl x r _).2
    · rw [hw]
      rfl
  | true =>
    rw [harr, if_pos rfl] at ht
    have hw : OnlyEntries (s.bump cLedgerCxlArr 1) ((s.bump cLedgerCxlArr 1).writeRow x r 0) := onlyEntries_writeRow _ x r 0
    have hfree : t.rowFree x r := by
      have hfreed := rowFree_freed hbump x r
      rw [State.rowFree, ht, rowIs_congr (settleTag_entries _ k)]
      exact hfreed
    have hset : t = { s with led := t.led, mem := t.mem, counters := (s.bump cLedgerCxlArr 1).counters, ops := { s.ops with combs := t.ops.combs } } := by
      rcases settleTag_cases ((s.bump cLedgerCxlArr 1).writeRow x r 0) k with hk | hk <;> rw [ht, hk, hw] <;> rfl
    refine ⟨?_, ?_, nofun, fun _ => hfree⟩
    · rw [hset]
      exact hcount
    · rw [hset]

/-- What an entry that can be read makes of a notice that comes to it (R215, Table 6-5). -/
theorem applyNotice_entry (hr : NoticeInRange s m k)
    (he : s.readRow (s.tagSlot k) (nToken m - (s.tagSlot k).tokBase) = .entry e) :
    ((s.tagSlot k).gen.toNat ≠ nGen m ∨ leState e = lsFree → s.applyNotice m = s.bump cLedgerStray 1) ∧
    ((s.tagSlot k).gen.toNat = nGen m → leState e ≠ lsFree → (leSv e (nSide m) = false ∨ leArr e (nSide m) = true ∨ leState e = lsCombined) →
      s.applyNotice m = s.bump cLedgerDup 1) ∧
    ((s.tagSlot k).gen.toNat = nGen m → leState e ≠ lsFree → leState e ≠ lsCombined → leSv e (nSide m) = true → leArr e (nSide m) = false →
      s.applyNotice m = s.firstNotice k (s.tagSlot k) (nToken m - (s.tagSlot k).tokBase) e (nSide m)) := by
  rw [applyNotice_reads hr he]
  refine ⟨fun h => if_pos h, fun hgen hfree h => ?_, fun hgen hfree hcomb hsv harr => ?_⟩
  · rw [if_neg (by simp [hgen, hfree])]
    refine if_pos ?_
    rcases h with h | h | h <;> simp [h]
  · rw [if_neg (by simp [hgen, hfree]), if_neg (by simp [hcomb, hsv, harr])]

/-! ## The obligation -/

/-- Settles O24: the rows of a port by the check and the home of a notice, and its arrival by the entry that it meets. -/
theorem noticesReachTheLedger : Obligations.NoticesReachTheLedger := by
  unfold Obligations.NoticesReachTheLedger
  refine ⟨fun s p hi => ⟨fun ⟨hrun, hstop, hdoze⟩ => ?_, fun hrun hstop hdoze => ?_, noticeSend_idle⟩, fun s l m rest hs => ⟨fun h => ?_, fun h => ?_,
    arrival_offDie, fun hw => ?_, fun hw hk => ?_, fun k hw hk => ⟨applyNotice_stray hw hk, fun hdone hlow hhigh => ?_⟩⟩⟩
  · have hpost : exec (.noticePost p hi) s = .next (s.postNotice p hi) := by
      rw [noticePost_awake hrun hdoze, hstop]
      rfl
    rw [hpost]
    refine ⟨fun hw => ?_, fun hw hp => ?_, fun hw hp hfull => ?_, fun hw hp hroom => ?_, fun n r hq => ⟨fun hd => ?_, fun hd => noticeSend_offDie hstop hq hd⟩⟩
    · rw [postNotice_rejects (.inl (noticeCheck_malformed hw))]
      rfl
    · rw [postNotice_rejects (.inl (noticeCheck_absent hw hp))]
      rfl
    · rw [postNotice_rejects (.inr ⟨noticeCheck_passes hw hp, hfull, rfl⟩)]
      rfl
    · rw [postNotice_takes (noticeCheck_passes hw hp) hroom]
    · exact ⟨_, noticeSend_onDie hstop hq hd, rfl, rfl⟩
  · rw [noticePost_awake hrun hdoze, hstop]
    rfl
  · simp only [exec_arrival, execArrival, h, ok]
  · simp only [exec_arrival, execArrival, h, ok]
  · simp [State.applyNotice, hw]
  · simp [State.applyNotice, hw, hk]
  · have hr : NoticeInRange s m k := ⟨hw, hk, hdone, hlow, hhigh⟩
    refine ⟨applyNotice_unreadable hr, fun e he => ?_⟩
    obtain ⟨hstray, hdup, hfirst⟩ := applyNotice_entry hr he
    refine ⟨hstray, hdup, fun hgen hfree hcomb hsv harr => ?_⟩
    rw [hfirst hgen hfree hcomb hsv harr]
    exact ⟨firstNotice_waits, firstNotice_counts hs⟩

end Notices

end Sys2Proof.Machine

/-! SUPPORT. What the counts give a member of a `ROUTE` (R188 to R194, R207, R366; log 112). -/

namespace Sys2Proof.Machine

open Sys2Proof

section RouteResults

variable {s t : State} {ctx : Fin 4096} {epoch : Fin 65536} {p : Pos} {c : Coll} {m : Member} {k : Nat} {totals base : List Int}

theorem onlyEntries_writeEntries (s : State) (d : Desc) (x : TagSlot) (rows : List RoutedRow) : OnlyEntries s (s.writeEntries d x rows) := by
  unfold State.writeEntries
  split
  · exact OnlyEntries.refl s
  · exact onlyEntries_forEach (fun _ t => onlyEntries_writeRow t _ _ _) _ _

theorem writeEntries_cancelled {d : Desc} {x : TagSlot} {rows : List RoutedRow} (h : x.routeCancelled = true) : s.writeEntries d x rows = s := if_pos h

/-- A tag learns which of its tokens are ready; that changes the operations of the combine class alone. -/
theorem readyFound_eq (s : State) (k : Nat) (x : TagSlot) :
    s.readyFound k x = { s with ops := { s.ops with combs := (s.readyFound k x).ops.combs } } := by
  have h : ({ s.readyFound k x with ops := { (s.readyFound k x).ops with combs := [] } } : State) = { s with ops := { s.ops with combs := [] } } :=
    forEach_inv ((List.range x.ntok).filter (fun r => s.rowIs x r leReady)) (fun r t => t.tokenReady k (x.tokBase + r))
      (fun t : State => { t with ops := { t.ops with combs := [] } }) (fun _ _ => rfl) s
  exact congrArg (fun t : State => { t with ops := { t.ops with combs := (s.readyFound k x).ops.combs } }) h

/-- The rows of a member with its counts, and their tally (R186 to R190). -/
def routedRows (m : Member) (totals base : List Int) : List RoutedRow × Tally :=
  gather ((m.sel.zip (m.wts.zip (routeSlots m.desc m.sel totals base))).map (fun r => routedRow m.desc r.1 (r.2.1.map (·.toNat)) r.2.2))

/-- The load vector of a `ROUTE` (R192). -/
def routeLoads (d : Desc) (totals : List Int) : List Int :=
  (List.range (dNexp d)).map (fun e => nth 0 totals e + (if dRouteK d then nth 0 totals (dNexp d + e) else 0))

/-- The state once a member's entries, records and load vector are written. -/
def State.routeWritten (s : State) (m : Member) (x : TagSlot) (totals base : List Int) : State :=
  store (store (s.writeEntries m.desc x (routedRows m totals base).1) (dDst m.desc)
      ((routedRows m totals base).1.flatMap (fun r => wordBytes 16 (routeRecord r.a r.b r.w0 r.w1))))
    (dDst2 m.desc) ((routeLoads m.desc totals).flatMap (fun v => leBytes 8 (unsigned 64 v)))

/-- The state once the member's slot says that its `ROUTE` is complete, or is free again. -/
def State.routeSettled (s : State) (m : Member) (k : Nat) (totals base : List Int) : State :=
  let x := s.tagSlot k
  let y : TagSlot := { x with routeDone := true, nopen := x.ntok }
  if x.routeCancelled then (s.routeWritten m x totals base).freeSlot k
  else ((s.routeWritten m x totals base).setTag k y).readyFound k y

/-- The value that the completion carries: sides without a selection above dropped ones (R193). -/
def routeOpval (m : Member) (totals base : List Int) : Nat :=
  countSides m.desc (routedRows m totals base).1 (fun y => !y.valid && !y.drop) * 2 ^ 32 +
    countSides m.desc (routedRows m totals base).1 (fun y => y.drop)

theorem routeFinish_eq (s : State) (c : Coll) (m : Member) (k : Nat) (totals base : List Int) : s.routeFinish c m k totals base =
    (s.routeSettled m k totals base).completeMember c.ctx c.epoch m (if (s.tagSlot k).routeCancelled then .cancelled else .ok)
      (m.tally.join (routedRows m totals base).2) (routeOpval m totals base) := rfl

theorem routeWritten_only (s : State) (m : Member) (x : TagSlot) (totals base : List Int) :
    OnlyEntries s (s.routeWritten m x totals base) := by
  have h := onlyEntries_writeEntries s m.desc x (routedRows m totals base).1
  unfold OnlyEntries State.routeWritten at *
  rw [h]
  rfl

theorem routeWritten_sound {x : TagSlot} (hs : s.Sound) : (s.routeWritten m x totals base).Sound :=
  (kept_store _ _ (kept_store _ _ (kept_writeEntries m.desc x (routedRows m totals base).1 (sound_kept hs)))).sound

/-- What the member's end finds: the memory, the entries and the slot as the counts leave them. -/
theorem routeSettled_parts (hs : s.Sound) (m : Member) (k : Nat) (totals base : List Int) :
    let t := s.routeSettled m k totals base
    let w := s.routeWritten m (s.tagSlot k) totals base
    t.mem = w.mem ∧ t.led.die = w.led.die ∧
      t.tagSlot k = (if (s.tagSlot k).routeCancelled then tagDefault 0
        else { s.tagSlot k with routeDone := true, nopen := (s.tagSlot k).ntok }) ∧
      t = { s with mem := t.mem, led := t.led, ops := t.ops } := by
  intro t w
  have hw : w.Sound := routeWritten_sound hs
  have honly : OnlyEntries s w := routeWritten_only s m (s.tagSlot k) totals base
  cases hc : (s.tagSlot k).routeCancelled with
  | true =>
    have ht : t = w.freeSlot k := if_pos hc
    rw [ht]
    refine ⟨rfl, rfl, tagSlot_setTag_same hw, ?_⟩
    rw [honly]
    rfl
  | false =>
    have ht : t = (w.setTag k { s.tagSlot k with routeDone := true, nopen := (s.tagSlot k).ntok }).readyFound k _ :=
      if_neg (by rw [hc]; exact Bool.false_ne_true)
    rw [readyFound_eq] at ht
    rw [ht]
    refine ⟨rfl, rfl, tagSlot_setTag_same hw, ?_⟩
    rw [honly]
    rfl

/-- A cancelled tag's `ROUTE` writes no entry (R207). -/
theorem routeWritten_cancelled {x : TagSlot} (h : x.routeCancelled = true) : (s.routeWritten m x totals base).led = s.led := by
  unfold State.routeWritten
  rw [writeEntries_cancelled h]
  rfl

/-- The row waits during the stop of a cinch, in a stalled half, and while a ledger bank is under a forced test. -/
theorem routeCountsResult_waits {src : DownSource} (h : s.stopped = true ∨ s.bankStalled = true ∨ s.portStalled p = true) :
    exec (.routeCountsResult ctx epoch p src) s = .next s := by
  simp only [exec_routeCountsResult, execRouteCountsResult]
  refine if_pos ?_
  rcases h with h | h | h <;> simp [h]

theorem coll_key (h : s.coll ctx epoch = some c) : c.ctx = ctx ∧ c.epoch = epoch := by
  have := List.find?_some h
  simpa using this

/-- A member that waits for the counts takes them. -/
theorem routeCountsResult_takes {prefixes : List (Nat × List Int)} (hstop : s.stopped = false) (hbank : s.bankStalled = false)
    (hport : s.portStalled p = false) (hc : s.coll ctx epoch = some c) (hd : c.down = some (.counts totals prefixes))
    (hm : c.members.find? (fun m => m.pos == p.val && m.stage == .waiting) = some m) (hk : m.tagSlot = some k)
    (hb : prefixes.find? (fun e => e.1 == s.rig p) = some (s.rig p, base)) :
    exec (.routeCountsResult ctx epoch p .onDie) s = .next (s.routeFinish c m k totals base) := by
  simp only [exec_routeCountsResult, execRouteCountsResult, hstop, hbank, hport, State.routeHere, hc, hd, hm, hk, hb]
  rfl

/-- Settles O22: the row waits, or the member takes its counts; what they leave is written and its completion waits at the port. -/
theorem routeResultsAreWritten : Obligations.RouteResultsAreWritten := by
  unfold Obligations.RouteResultsAreWritten
  intro s ctx epoch p c m k totals base prefixes hs
  refine ⟨fun h src => routeCountsResult_waits h, fun hstop hbank hport hc hd hm hk hlive hb => ?_⟩
  obtain ⟨hctx, hepoch⟩ := coll_key hc
  obtain ⟨o, hend⟩ := completeMember_live (s := s.routeSettled m k totals base) (ctx := c.ctx) (epoch := c.epoch)
    (opval := routeOpval m totals base) (st := if (s.tagSlot k).routeCancelled then .cancelled else .ok)
    (x := m.tally.join (routedRows m totals base).2) hlive
  obtain ⟨hmem, hdie, htag, honly⟩ := routeSettled_parts hs m k totals base
  rw [routeCountsResult_takes hstop hbank hport hc hd hm hk hb, routeFinish_eq, hend, hctx, hepoch]
  generalize s.routeSettled m k totals base = u at hmem hdie htag honly
  have hports : u.ports = s.ports := by rw [honly]
  refine ⟨_, rfl, hmem, hdie, htag, fun hcancel => hdie.trans (congrArg LedgerState.die (routeWritten_cancelled hcancel)), ?_, fun q hq => ?_, ?_⟩
  · have hport : ({ u with ops := o } : State).port m.pos = s.port m.pos := port_congr hports m.pos
    refine (Tbl.get_set_same _ _ (by exact hports ▸ hs.ports_wf)).trans ?_
    rw [hport]
    rfl
  · exact (port_pushDone_other hq).trans (port_congr hports q)
  · rw [honly]
    rfl

end RouteResults

end Sys2Proof.Machine

/-! SUPPORT. The slots of an expert and the gate weights of a token (R185 to R190). -/

namespace Sys2Proof.Machine

open Sys2Proof

/-! ## Slots (R187, R188) -/

section Slots

variable {base : Nat → Nat} {side : List (Option Nat)} {e r r' k : Nat}

theorem seenBefore_eq (side : List (Option Nat)) (r e : Nat) : seenBefore side r e = (side.take r).count (some e) := by
  rw [List.count_eq_length_filter]
  exact congrArg List.length (List.filter_congr (fun x _ => Bool.eq_iff_iff.mpr (by simp)))

/-- How many rows of a side select an expert. -/
theorem selections_eq (side : List (Option Nat)) (e : Nat) : (side.filter (fun x => x = some e)).length = side.count (some e) := by
  rw [List.count_eq_length_filter]
  exact congrArg List.length (List.filter_congr (fun x _ => Bool.eq_iff_iff.mpr (by simp)))

theorem slotsOf_getElem? (base : Nat → Nat) (side : List (Option Nat)) (r : Nat) :
    (slotsOf base side)[r]? = side[r]?.map (fun o => o.map (fun e => base e + seenBefore side r e)) := by
  simp [slotsOf, List.getElem?_zipIdx, Function.comp_def]

/-- The slot of a row that selects an expert: after those of the rows before it. -/
theorem slotsOf_selects (h : side[r]? = some (some e)) : (slotsOf base side)[r]? = some (some (base e + seenBefore side r e)) := by
  rw [slotsOf_getElem?, h]
  rfl

/-- A row that selects an expert counts for every later one. -/
theorem seenBefore_succ (h : side[r]? = some (some e)) : seenBefore side (r + 1) e = seenBefore side r e + 1 := by
  simp [seenBefore_eq, List.take_add_one, h]

theorem seenBefore_mono (h : r ≤ r') : seenBefore side r e ≤ seenBefore side r' e := by
  rw [seenBefore_eq, seenBefore_eq]
  exact (List.take_sublist_take_left h).count_le _

theorem seenBefore_lt (h : side[r]? = some (some e)) : seenBefore side r e < side.count (some e) := by
  have hle : seenBefore side (r + 1) e ≤ side.count (some e) := by
    rw [seenBefore_eq]
    exact (List.take_sublist _ _).count_le _
  have := seenBefore_succ h
  omega

/-- Each count below the whole is that of the rows before some row that selects the expert. -/
theorem exists_seenBefore (h : k < side.count (some e)) : ∃ r, side[r]? = some (some e) ∧ seenBefore side r e = k := by
  induction side generalizing k with
  | nil => simp at h
  | cons o side ih =>
    by_cases ho : o = some e
    · subst ho
      cases k with
      | zero => exact ⟨0, rfl, by simp [seenBefore_eq]⟩
      | succ k =>
        obtain ⟨r, hr, hk⟩ := ih (k := k) (by simpa using h)
        exact ⟨r + 1, hr, by simpa [seenBefore_eq] using hk⟩
    · obtain ⟨r, hr, hk⟩ := ih (k := k) (by simpa [List.count_cons_of_ne ho] using h)
      exact ⟨r + 1, hr, by simpa [seenBefore_eq, List.count_cons_of_ne ho] using hk⟩

theorem countVector_one {nexp : Nat} (h : e < nexp) : (countVector nexp [side])[e]? = some ((side.filter (fun x => x = some e)).length : Int) := by
  simp [countVector, List.getElem?_range h]

/-- A slot at or above the capacity is dropped, and one below it is kept (R190). -/
theorem sideOf_capacity (e slot cap w : Nat) :
    let y := sideOf (some e) (some slot) cap w
    (cap ≤ slot → y.valid = false ∧ y.drop = true ∧ y.slot = 0xFFFFFF ∧ y.w = 0) ∧
      (slot < cap → y = { exp := e, valid := true, drop := false, slot := slot, w := w }) := by
  refine ⟨fun h => ?_, fun h => ?_⟩
  · simp [sideOf, h]
  · simp [sideOf, Nat.not_le.mpr h]

end Slots

/-! ## The greatest score -/

section Gates

variable {xs : List Nat} {sel : List (Option Nat)} {mode : GateMode} {c e i m : Nat} {l : List Nat}

/-- The greatest score of some experts, the first of them apart. -/
def greatestScore (xs : List Nat) (c : Nat) (l : List Nat) : Nat := l.foldl (fun m c => Fmt.f32.greater m (nth 0 xs c)) (nth 0 xs c)

theorem greater_cases (a b : Nat) : (Fmt.f32.greater a b = a ∨ Fmt.f32.greater a b = b) ∧ Fmt.f32.rank a ≤ Fmt.f32.rank (Fmt.f32.greater a b) ∧
    Fmt.f32.rank b ≤ Fmt.f32.rank (Fmt.f32.greater a b) := by
  unfold Fmt.greater
  split <;> simp <;> omega

/-- It is the score of one of them, and none ranks above it. -/
theorem greatestScore_best (xs : List Nat) (c : Nat) (l : List Nat) : greatestScore xs c l ∈ (c :: l).map (nth 0 xs) ∧
    ∀ a ∈ c :: l, Fmt.f32.rank (nth 0 xs a) ≤ Fmt.f32.rank (greatestScore xs c l) := by
  induction l using List.reverseRecOn with
  | nil => simp [greatestScore]
  | append_singleton l a ih =>
    obtain ⟨hmem, hmax⟩ := ih
    obtain ⟨hcase, hleft, hright⟩ := greater_cases (greatestScore xs c l) (nth 0 xs a)
    have hstep : greatestScore xs c (l ++ [a]) = Fmt.f32.greater (greatestScore xs c l) (nth 0 xs a) := by simp [greatestScore]
    rw [hstep]
    refine ⟨?_, fun b hb => ?_⟩
    · rcases hcase with h | h <;> rw [h]
      · exact List.map_subset _ (List.cons_subset_cons _ (List.subset_append_left _ _)) hmem
      · exact List.mem_map_of_mem (by simp)
    · rw [← List.cons_append, List.mem_append, List.mem_singleton] at hb
      rcases hb with hb | rfl
      · exact (hmax b hb).trans hleft
      · exact hright

theorem nth_lt (h : ∀ x ∈ xs, x < 2 ^ 32) (a : Nat) : nth 0 xs a < 2 ^ 32 := by
  unfold nth
  cases ha : xs[a]? with
  | none => simp
  | some x => exact h x (List.mem_of_getElem? ha)

/-- No other code than the greatest has its rank. -/
theorem greatestScore_unique (hx : ∀ x ∈ xs, x < 2 ^ 32) (hm : m ∈ (c :: l).map (nth 0 xs))
    (hmax : ∀ a ∈ c :: l, Fmt.f32.rank (nth 0 xs a) ≤ Fmt.f32.rank m) : greatestScore xs c l = m := by
  obtain ⟨hmem, hbest⟩ := greatestScore_best xs c l
  obtain ⟨a, ha, rfl⟩ := List.mem_map.mp hm
  obtain ⟨b, hb, hb'⟩ := List.mem_map.mp hmem
  refine Fmt.rank_injective f32_wide ?_ (nth_lt hx a) (le_antisymm ?_ (hbest a ha))
  · rw [← hb']
    exact nth_lt hx b
  · rw [← hb']
    exact hmax b hb

/-! ## The experts that a gate weighs (R185) -/

/-- The experts over which the weights of a token are normalised, in the order of their numbers. -/
def gatePool (xs : List Nat) (sel : List (Option Nat)) (mode : GateMode) : List Nat :=
  (List.range xs.length).filter (fun e => match mode with | .all => !Fmt.f32.isNan (nth 0 xs e) | _ => sel.contains (some e))

/-- The experts that the gate goes through. -/
def gateChosen (xs : List Nat) (sel : List (Option Nat)) (mode : GateMode) : List Nat :=
  match mode with
  | .all => (List.range xs.length).filter (fun i => !Fmt.f32.isNan (nth 0 xs i))
  | _ => sortBy id (sel.filterMap id)

theorem mem_selected : e ∈ sel.filterMap id ↔ some e ∈ sel := by simp

/-- Selections that differ, in order, are the experts that are selected. -/
theorem sortBy_selected (hsel : ∀ e, some e ∈ sel → e < xs.length) (hn : sel.Nodup) :
    sortBy id (sel.filterMap id) = (List.range xs.length).filter (fun e => sel.contains (some e)) := by
  have hnodup : (sel.filterMap id).Nodup := hn.filterMap (fun a b c ha hb => by simp_all)
  refine eq_of_ascends (sortBy_ascends (key := id) (by simpa using hnodup)) (List.pairwise_lt_range.filter _) (fun x => ?_)
  rw [(sortBy_perm (key := id) _).mem_iff, mem_selected]
  simp only [List.mem_filter, List.mem_range, List.contains_eq_mem, decide_eq_true_eq]
  exact ⟨fun h => ⟨hsel x h, h⟩, And.right⟩

theorem gateChosen_eq_pool (hsel : ∀ e, some e ∈ sel → e < xs.length) (hn : sel.Nodup) : gateChosen xs sel mode = gatePool xs sel mode := by
  cases mode with
  | all => rfl
  | sel => exact sortBy_selected hsel hn
  | one => exact sortBy_selected hsel hn

/-- A selected expert is one of those that the gate goes through. -/
theorem mem_gateChosen (hsel : some e ∈ sel) (he : e < xs.length) (hn : Fmt.f32.isNan (nth 0 xs e) = false) : e ∈ gateChosen xs sel mode := by
  cases mode with
  | all => simp [gateChosen, he, hn]
  | sel => exact (sortBy_perm (key := id) _).mem_iff.mpr (mem_selected.mpr hsel)
  | one => exact (sortBy_perm (key := id) _).mem_iff.mpr (mem_selected.mpr hsel)

/-! ## The weights (R185) -/

theorem gateWeights_one : (gateWeights xs sel .one).1 = sel.map (fun i => if i.isSome then 0x3F800000 else 0) := rfl

/-- The weights that an infinite greatest score gives: an equal share to each expert that has it. -/
theorem gateWeights_inf (hm : mode ≠ .one) (hc : gateChosen xs sel mode = c :: l) (hi : Fmt.f32.isInf (greatestScore xs c l) = true) :
    (gateWeights xs sel mode).1 = sel.map (fun o => if o.any (fun e => nth 0 xs e == greatestScore xs c l) then
      (reciprocal ((gateChosen xs sel mode).filter (fun e => nth 0 xs e = greatestScore xs c l)).length).1 else 0) := by
  unfold gateWeights
  rw [if_neg hm]
  dsimp only
  split
  · next h => exact absurd ((show gateChosen xs sel mode = [] from h).symm.trans hc) nofun
  · next c' l' h =>
    obtain ⟨rfl, rfl⟩ := List.cons.inj ((show gateChosen xs sel mode = c' :: l' from h).symm.trans hc)
    rw [greatestScore] at hi ⊢
    rw [if_pos hi, List.map_map]
    refine List.map_congr_left (fun o _ => ?_)
    cases o <;> rfl

/-- The weights that a finite greatest score gives: `exp_k` of the distance to it, over the sum. -/
theorem gateWeights_finite (hm : mode ≠ .one) (hc : gateChosen xs sel mode = c :: l) (hi : Fmt.f32.isInf (greatestScore xs c l) = false) :
    (gateWeights xs sel mode).1 = sel.map (fun o => o.elim 0 (fun e =>
      (ieeeDiv .f32 .rne (weightOf ((gateChosen xs sel mode).map (fun e => (expTerm xs (greatestScore xs c l) e).1)) e)
        ((cfold add32 ((gateChosen xs sel mode).map (fun e => (expTerm xs (greatestScore xs c l) e).1.2))).1.getD 0x3F800000)).1)) := by
  unfold gateWeights
  rw [if_neg hm]
  dsimp only
  split
  · next h => exact absurd ((show gateChosen xs sel mode = [] from h).symm.trans hc) nofun
  · next c' l' h =>
    obtain ⟨rfl, rfl⟩ := List.cons.inj ((show gateChosen xs sel mode = c' :: l' from h).symm.trans hc)
    rw [greatestScore] at hi ⊢
    rw [if_neg (by rw [hi]; exact Bool.false_ne_true), List.map_map]
    refine List.map_congr_left (fun o _ => ?_)
    cases o with
    | none => rfl
    | some e =>
      simp only [gather, List.map_map, Function.comp_def, Option.elim_some]
      rfl

theorem gateWeights_nobody (hm : mode ≠ .one) (hc : gateChosen xs sel mode = []) : (gateWeights xs sel mode).1 = sel.map (fun _ => 0) := by
  unfold gateWeights
  rw [if_neg hm]
  dsimp only
  split
  · rfl
  · next c' l' h => exact absurd ((show gateChosen xs sel mode = c' :: l' from h).symm.trans hc) nofun

theorem weightOf_map (g : Nat → Nat) (he : e ∈ l) : weightOf (l.map (fun c => (c, g c))) e = g e := by
  induction l with
  | nil => simp at he
  | cons c l ih =>
    by_cases hce : c = e
    · simp [weightOf, hce]
    · have he : e ∈ l := by simpa [Ne.symm hce] using he
      have hrest := ih he
      unfold weightOf at *
      simpa [hce] using hrest

/-- No selection weighs nothing, and a weight stands for each side. -/
theorem gateWeights_sides (xs : List Nat) (sel : List (Option Nat)) (mode : GateMode) : (gateWeights xs sel mode).1.length = sel.length ∧
    ∀ i : Nat, sel[i]? = some none → (gateWeights xs sel mode).1[i]? = some 0 := by
  suffices h : ∃ g : Option Nat → Nat, (gateWeights xs sel mode).1 = sel.map g ∧ g none = 0 by
    obtain ⟨g, hg, hnone⟩ := h
    rw [hg]
    exact ⟨List.length_map _, fun i hi => by simp [hi, hnone]⟩
  by_cases hm : mode = .one
  · subst hm
    exact ⟨_, gateWeights_one, rfl⟩
  · cases hc : gateChosen xs sel mode with
    | nil => exact ⟨_, gateWeights_nobody hm hc, rfl⟩
    | cons c l =>
      cases hi : Fmt.f32.isInf (greatestScore xs c l) with
      | true => exact ⟨_, gateWeights_inf hm hc hi, rfl⟩
      | false => exact ⟨_, gateWeights_finite hm hc hi, rfl⟩

/-- `exp_k` of a score's distance to a greatest one. -/
abbrev expWeight (xs : List Nat) (m e : Nat) : Nat := (expK (add32 (nth 0 xs e) (ieeeNeg .f32 m)).1).1

/-- The weight of a selected expert, by the greatest score of those that the gate goes through. -/
theorem gateWeights_selected {pool : List Nat} (hc : gateChosen xs sel mode = pool) (hm : mode ≠ .one) (hmem : e ∈ pool)
    (hx : ∀ x ∈ xs, x < 2 ^ 32) (hg : m ∈ pool.map (nth 0 xs)) (hmax : ∀ a ∈ pool, Fmt.f32.rank (nth 0 xs a) ≤ Fmt.f32.rank m)
    (hi : sel[i]? = some (some e)) :
    (Fmt.f32.isInf m = true → (gateWeights xs sel mode).1[i]? =
      some (if nth 0 xs e = m then (reciprocal (pool.filter (fun e => nth 0 xs e == m)).length).1 else 0)) ∧
    (Fmt.f32.isInf m = false → (gateWeights xs sel mode).1[i]? =
      some (ieeeDiv .f32 .rne (expWeight xs m e) ((cfold add32 (pool.map (expWeight xs m))).1.getD 0)).1) := by
  cases pool with
  | nil => exact absurd hmem (List.not_mem_nil)
  | cons c l =>
    have hbest : greatestScore xs c l = m := greatestScore_unique hx hg hmax
    refine ⟨fun hinf => ?_, fun hfin => ?_⟩
    · rw [gateWeights_inf hm hc (by rw [hbest]; exact hinf), hbest, hc, List.getElem?_map, hi]
      simp [beq_eq_decide]
    · rw [gateWeights_finite hm hc (by rw [hbest]; exact hfin), hbest, hc, List.getElem?_map, hi]
      have hweight : weightOf ((c :: l).map (fun e => (expTerm xs m e).1)) e = expWeight xs m e := weightOf_map (expWeight xs m) hmem
      obtain ⟨z, hz⟩ := cfold_isSome (op := add32) (vs := (c :: l).map (expWeight xs m)) (by simp)
      have hsum : (cfold add32 ((c :: l).map (fun e => (expTerm xs m e).1.2))).1 = some z := hz
      simp only [Option.map_some, Option.elim_some, hweight, hsum, hz, Option.getD_some]

/-- 1.0 divided by itself, and the share of one expert. -/
theorem ieeeDiv_one : ieeeDiv .f32 .rne 0x3F800000 0x3F800000 = (0x3F800000, Tally.zero) := by decide +kernel

theorem reciprocal_one : reciprocal 1 = (0x3F800000, Tally.zero) := by decide +kernel

/-- A single selection under `GATE_SEL` weighs 1.0. -/
theorem gateWeights_single (hn : Fmt.f32.isNan (nth 0 xs e) = false) (hx : ∀ x ∈ xs, x < 2 ^ 32) :
    (gateWeights xs [some e] .sel).1 = [0x3F800000] := by
  have hc : gateChosen xs [some e] .sel = [e] := rfl
  have hm : GateMode.sel ≠ .one := nofun
  have hg : greatestScore xs e [] = nth 0 xs e := rfl
  cases hi : Fmt.f32.isInf (nth 0 xs e) with
  | true =>
    rw [gateWeights_inf hm hc (by rw [hg]; exact hi), hg, hc]
    simp [reciprocal_one]
  | false =>
    rw [gateWeights_finite hm hc (by rw [hg]; exact hi), hg, hc]
    simp [weightOf, expTerm, add32_cancel (nth_lt hx e) hn hi, expK_zero, ieeeDiv_one]

end Gates

/-! ## The obligation -/

/-- Settles O60: slots by how many rows before select the expert, weights by the greatest score, and a side by its drop. -/
theorem slotsAreNotShared : Obligations.SlotsAreNotShared := by
  unfold Obligations.SlotsAreNotShared
  refine ⟨fun base side nexp e he => ⟨fun r hr => ?_, fun r r' k hlt hr hr' hk => ?_, fun k hk => ?_, countVector_one he, sideOf_capacity e⟩,
    fun xs sel mode hsel hx => ⟨(gateWeights_sides xs sel mode).1, (gateWeights_sides xs sel mode).2, fun hone i e hi => ?_, fun hm e he => ?_,
      fun hm hn m hmem hmax i e hi => ?_⟩, fun on x y => ⟨fun hon hdrop hv hw hw' => ?_, fun h => ?_, fun hv => ?_, fun hv => ?_⟩⟩
  · exact ⟨_, slotsOf_selects hr, by rw [selections_eq]; exact seenBefore_lt hr⟩
  · rw [slotsOf_selects hr] at hk
    have hnext := seenBefore_mono (side := side) (e := e) (Nat.succ_le_of_lt hlt)
    rw [Nat.succ_eq_add_one, seenBefore_succ hr] at hnext
    have hkval : base e + seenBefore side r e = k := by simpa using hk
    exact ⟨_, slotsOf_selects hr', by omega⟩
  · obtain ⟨r, hr, hseen⟩ := exists_seenBefore (selections_eq side e ▸ hk)
    exact ⟨r, hr, by rw [slotsOf_selects hr, hseen]⟩
  · subst hone
    rw [gateWeights_one, List.getElem?_map, hi]
    rfl
  · subst hm he
    exact gateWeights_single (hsel e (by simp)).2 hx
  · have hsound := hsel e (List.mem_of_getElem? hi)
    have hchosen := gateChosen_eq_pool (mode := mode) (fun e he => (hsel e he).1) hn
    have hpool := mem_gateChosen (mode := mode) (List.mem_of_getElem? hi) hsound.1 hsound.2
    rw [hchosen] at hpool
    cases mode with
    | all => exact gateWeights_selected hchosen hm hpool hx hmem hmax hi
    | sel => exact gateWeights_selected hchosen hm hpool hx hmem hmax hi
    | one => exact absurd rfl hm
  · simp [renorm, hon, hdrop, hv, hw, hw']
  · rcases h with h | h | h | h <;> simp [renorm, h]
  · simp [Side.stored, hv]
  · simp [Side.stored, hv]

end Sys2Proof.Machine

/-! SUPPORT. The lanes of the combine class, the limit of an operation, and the end of a quarantine (R205, R217, R220 to R229, R366; logs 11, 76, 77, 109). -/

namespace Sys2Proof.Machine

open Sys2Proof

section Lanes

variable {s t u : State} {o y : CombOp} {x : TagSlot} {id token k r : Nat} {e : BitVec 160} {rows : List (Nat × List Byte)} {l : List Nat}

/-! ## A lane begins, and computes (R217, R220, R225, R366) -/

theorem comb_id (h : s.comb id = some o) : o.id = id := by simpa using List.find?_some h

/-- A command about an operation that is gone changes nothing. -/
theorem lanes_gone (h : s.comb id = none) :
    ∀ c ∈ [Instr.combineLaneBegin id token, .rowReadReturn id token, .rowWriteVisible id token], exec c s = .next s := by
  simp only [List.forall_mem_cons, exec_combineLaneBegin, exec_rowReadReturn, exec_rowWriteVisible, execCombineLaneBegin, execRowReadReturn,
    execRowWriteVisible, h, ok]
  simp

theorem combineLaneBegin_waits (hc : s.comb id = some o) (h : o.ready.head? ≠ some token ∨ s.stopped = true) :
    exec (.combineLaneBegin id token) s = .next s := by
  simp only [exec_combineLaneBegin, execCombineLaneBegin, hc]
  exact if_pos h

/-- The oldest ready token begins with the entry that it reads. -/
theorem combineLaneBegin_enters (hc : s.comb id = some o) (h : o.ready.head? = some token) (hstop : s.stopped = false)
    (he : s.readRow (s.tagSlot o.slot) (token - o.tokBase) = .entry e) : exec (.combineLaneBegin id token) s =
      .next (s.modComb id (fun o => { o with ready := o.ready.drop 1, lanes := o.lanes ++ [(token, .reading e)] })) := by
  simp only [exec_combineLaneBegin, execCombineLaneBegin, hc, ok]
  rw [if_neg (by simp [h, hstop]), he]

theorem combineLaneBegin_faults (hc : s.comb id = some o) (h : o.ready.head? = some token) (hstop : s.stopped = false)
    (he : ∀ e, s.readRow (s.tagSlot o.slot) (token - o.tokBase) ≠ .entry e) : exec (.combineLaneBegin id token) s =
      .next ((s.stopCombs (fun o => o.id == id) (some .fault)).loseEntry o.slot (token - o.tokBase)
        (s.readRow (s.tagSlot o.slot) (token - o.tokBase))) := by
  simp only [exec_combineLaneBegin, execCombineLaneBegin, hc, ok]
  rw [if_neg (by simp [h, hstop])]

theorem rowReadReturn_computes (hc : s.comb id = some o) (hl : o.lanes.find? (fun l => l.1 == token) = some (token, .reading e)) :
    exec (.rowReadReturn id token) s = .next (s.modComb id (fun y => { y with
      lanes := mapIf (fun l => l.1 == token) (fun l => (l.1, .writing (s.laneRows o.desc e (token - o.tokBase)).1)) y.lanes
      tally := y.tally.join (s.laneRows o.desc e (token - o.tokBase)).2 })) := by
  simp only [exec_rowReadReturn, execRowReadReturn, hc, hl, ok]

/-! ## The rows of a token are visible (R222, R225, R229) -/

/-- The output rows of a token in chip memory. -/
def State.storeRows (s : State) (rows : List (Nat × List Byte)) : State := forEach rows (fun r s => store s r.1 r.2) s

theorem storeRows_eq (s : State) (rows : List (Nat × List Byte)) : s.storeRows rows = { s with mem := (s.storeRows rows).mem } := by
  have h : ({ s.storeRows rows with mem := s.mem } : State) = { s with mem := s.mem } :=
    forEach_inv rows (fun r s => store s r.1 r.2) (fun t : State => { t with mem := s.mem }) (fun _ _ => rfl) s
  exact congrArg (fun t : State => { t with mem := (s.storeRows rows).mem }) h

theorem storeRows_tagSlot (s : State) (rows : List (Nat × List Byte)) (k : Nat) : (s.storeRows rows).tagSlot k = s.tagSlot k := by
  rw [storeRows_eq]; rfl

/-- A token of an operation is served, and no lane works on it. -/
def CombOp.serve (token : Nat) (o : CombOp) : CombOp :=
  { o with lanes := o.lanes.filter (fun l => l.1 ≠ token), served := o.served ++ [token] }

/-- The operation has served a token, and leaves when that was the last. -/
def State.serveToken (s : State) (id token : Nat) : State := (s.modComb id (CombOp.serve token)).finishCombs

theorem serveToken_eq (s : State) (id token : Nat) : s.serveToken id token = { s with
    ops := { s.ops with combs := (s.serveToken id token).ops.combs }, ports := (s.serveToken id token).ports } := by
  unfold State.serveToken
  rw [finishCombs_eq]
  rfl

theorem serveToken_combs (h : y ∈ (s.serveToken id token).ops.combs) : y ∈ mapIf (fun o => o.id == id) (CombOp.serve token) s.ops.combs := by
  unfold State.serveToken at h
  rw [finishCombs_eq] at h
  exact (List.mem_filter.mp h).1

/-- What is left of the operation has the token among the served ones. -/
theorem serveToken_serves (h : y ∈ (s.serveToken id token).ops.combs) (hid : y.id = id) :
    token ∈ y.served ∧ y.lanes.any (fun l => l.1 == token) = false := by
  obtain ⟨a, -, ⟨-, rfl⟩ | ⟨hne, rfl⟩⟩ := mem_mapIf (serveToken_combs h)
  · simp [CombOp.serve]
  · simp [hid] at hne

theorem rowWriteVisible_serves (hc : s.comb id = some o) (hl : o.lanes.find? (fun l => l.1 == token) = some (token, .writing rows)) :
    exec (.rowWriteVisible id token) s =
      .next ((if standing o.desc then (s.storeRows rows).markCombined o token else s.storeRows rows).serveToken id token) := by
  simp only [exec_rowWriteVisible, execRowWriteVisible, hc, hl, ok]
  rfl

/-! What becomes of the entry, by its slot (R207, R222). -/

theorem markCombined_unslotted (h : (s.tagSlot o.slot).st = .free) : s.markCombined o token = s := by
  unfold State.markCombined
  dsimp only
  rw [h]

theorem markCombined_quarantined (h : (s.tagSlot o.slot).st = .quarantine) : s.markCombined o token =
    ((s.writeRow (s.tagSlot o.slot) (token - o.tokBase) 0).closeRow o.slot).settleTag o.slot := by
  unfold State.markCombined
  dsimp only
  rw [h]

theorem markCombined_live (h : (s.tagSlot o.slot).st = .live) (he : s.rowEntry (s.tagSlot o.slot) (token - o.tokBase) = some e) :
    s.markCombined o token = (s.writeRow (s.tagSlot o.slot) (token - o.tokBase) (leSetState e lsCombined)).closeRow o.slot := by
  unfold State.markCombined
  dsimp only
  rw [h, rowEntry_eq_some.mp he]

theorem markCombined_unreadable (h : (s.tagSlot o.slot).st = .live) (he : s.rowEntry (s.tagSlot o.slot) (token - o.tokBase) = none) :
    s.markCombined o token = (s.stopCombs (fun y => y.id == o.id) (some .fault)).loseEntry o.slot (token - o.tokBase)
      (s.readRow (s.tagSlot o.slot) (token - o.tokBase)) := by
  unfold State.markCombined
  dsimp only
  rw [h]
  split <;> simp_all [State.rowEntry]

/-! ## Causes stay -/

/-- Each operation that is left in `t` stood in `s` with its cause. -/
def CausesStay (s t : State) : Prop := ∀ y ∈ t.ops.combs, ∃ z ∈ s.ops.combs, z.id = y.id ∧ z.cause = y.cause

theorem CausesStay.refl (s : State) : CausesStay s s := fun y hy => ⟨y, hy, rfl, rfl⟩

theorem CausesStay.of_ops (h : t.ops.combs = s.ops.combs) : CausesStay s t := fun y hy => ⟨y, h ▸ hy, rfl, rfl⟩

theorem CausesStay.trans (h : CausesStay s t) (h' : CausesStay t u) : CausesStay s u := fun y hy => by
  obtain ⟨z, hz, hid, hcause⟩ := h' y hy
  obtain ⟨w, hw, hid', hcause'⟩ := h z hz
  exact ⟨w, hw, hid'.trans hid, hcause'.trans hcause⟩

theorem causesStay_mapIf {p : CombOp → Bool} {f : CombOp → CombOp} (hf : ∀ o, (f o).id = o.id ∧ (f o).cause = o.cause)
    (h : ∀ y ∈ t.ops.combs, y ∈ mapIf p f s.ops.combs) : CausesStay s t := fun y hy => by
  obtain ⟨a, ha, ⟨-, rfl⟩ | ⟨-, rfl⟩⟩ := mem_mapIf (h y hy)
  · exact ⟨a, ha, (hf a).1.symm, (hf a).2.symm⟩
  · exact ⟨y, ha, rfl, rfl⟩

/-- A `TAG_CANCEL` counts tokens and gives no cause (R224). -/
theorem stop_none_keeps (o : CombOp) : (o.stop none).id = o.id ∧ (o.stop none).cause = o.cause := by
  unfold CombOp.stop
  dsimp only
  split <;> exact ⟨rfl, rfl⟩

theorem causesStay_stopCombs_none (s : State) (mine : CombOp → Bool) : CausesStay s (s.stopCombs mine none) :=
  causesStay_mapIf stop_none_keeps (fun y hy => by
    rw [stopCombs_ops] at hy
    exact (List.mem_filter.mp hy).1)

theorem causesStay_settleTag (s : State) (k : Nat) : CausesStay s (s.settleTag k) := by
  rcases settleTag_cases s k with h | h <;> rw [h]
  · exact CausesStay.refl s
  · exact causesStay_mapIf (f := fun o => { o with slot := 64 }) (fun _ => ⟨rfl, rfl⟩) (fun y hy => hy)

theorem causesStay_cancelTag (s : State) (k : Nat) : CausesStay s (s.cancelTag k) := by
  by_cases hlive : (s.tagSlot k).st = .live
  · cases hdone : (s.tagSlot k).routeDone with
    | false =>
      rw [cancelTag_routing hlive hdone]
      exact causesStay_stopCombs_none (s.setTag k _) _
    | true =>
      rw [cancelTag_routed hlive hdone]
      have hrows : CausesStay s (s.cancelRows k) := CausesStay.of_ops (by rw [onlyEntries_cancelRows])
      exact (hrows.trans (causesStay_stopCombs_none ((s.cancelRows k).setTag k _) _)).trans (causesStay_settleTag _ k)
  · rw [cancelTag_idle hlive]
    exact CausesStay.refl s

theorem causesStay_loseEntry (s : State) (k r : Nat) (what : EntryRead) : CausesStay s (s.loseEntry k r what) := by
  refine (causesStay_cancelTag s k).trans (CausesStay.of_ops ?_)
  unfold State.loseEntry
  dsimp only
  split <;> simp

theorem causesStay_serveToken (s : State) (id token : Nat) : CausesStay s (s.serveToken id token) :=
  causesStay_mapIf (f := CombOp.serve token) (fun _ => ⟨rfl, rfl⟩) (fun _ hy => serveToken_combs hy)

/-- An operation that is stopped keeps the cause that it has then. -/
theorem CausesStay.caused {st : CStatus} (h : CausesStay (s.stopCombs (fun o => o.id == id) (some st)) t) (hy : y ∈ t.ops.combs) (hid : y.id = id) :
    y.cause.isSome = true := by
  obtain ⟨z, hz, hzid, hcause⟩ := h y hy
  rw [stopCombs_ops] at hz
  obtain ⟨a, -, ⟨-, rfl⟩ | ⟨hne, rfl⟩⟩ := mem_mapIf (List.mem_filter.mp hz).1
  · rw [← hcause]
    exact stop_cause a st
  · simp [hzid.trans hid] at hne

/-! ## The four ends of a token -/

/-- Where the entry was dealt with by fairlead alone, nothing else has changed. -/
theorem serveToken_frame (h : OnlyFairlead s u) : let t := u.serveToken id token
    t.mem = u.mem ∧ t.led = u.led ∧ t = { s with mem := t.mem, led := t.led, ops := t.ops, ports := t.ports } := by
  intro t
  have ht : t = _ := serveToken_eq u id token
  clear_value t
  refine ⟨by rw [ht], by rw [ht], ?_⟩
  rw [ht, h]

theorem storeRows_fairlead (s : State) (rows : List (Nat × List Byte)) : OnlyFairlead s (s.storeRows rows) := by
  unfold OnlyFairlead
  rw [storeRows_eq]

/-- Where the token's entry stays as it is, only its rows are written. -/
theorem serveToken_stored (s : State) (id token : Nat) (rows : List (Nat × List Byte)) : let t := (s.storeRows rows).serveToken id token
    t.mem = (s.storeRows rows).mem ∧ t.led = s.led ∧ t = { s with mem := t.mem, ops := t.ops, ports := t.ports } := by
  intro t
  have ht : t = _ := serveToken_eq (s.storeRows rows) id token
  have hmem : s.storeRows rows = _ := storeRows_eq s rows
  clear_value t
  generalize s.storeRows rows = u at *
  refine ⟨by rw [ht], by rw [ht, hmem], ?_⟩
  rw [ht, hmem]

/-! ## The limit of an operation expires (R224) -/

theorem combineLimitExpiry_stops (s : State) (id : Nat) :
    exec (.combineLimitExpiry id) s = .next (s.stopCombs (fun o => o.id == id && o.limit) (some .timeout)) := rfl

/-- An operation that the test passes over goes on. -/
theorem stopCombs_spares {mine : CombOp → Bool} {st : Option CStatus} (ho : o ∈ s.ops.combs) (hm : mine o = false) (hf : o.finished = false) :
    o ∈ (s.stopCombs mine st).ops.combs := by
  rw [stopCombs_ops]
  exact List.mem_filter.mpr ⟨List.mem_map.mpr ⟨o, ho, by simp [hm]⟩, by simp [hf]⟩

/-- An operation with rows in the lanes keeps them, and takes no further token. -/
theorem stopCombs_holds {mine : CombOp → Bool} {st : CStatus} (ho : o ∈ s.ops.combs) (hm : mine o = true) (hc : o.cause = none) (hl : o.lanes ≠ []) :
    { o with cause := some st, ready := [] } ∈ (s.stopCombs mine (some st)).ops.combs := by
  rw [stopCombs_ops]
  exact List.mem_filter.mpr ⟨List.mem_map.mpr ⟨o, ho, by simp [hm, CombOp.stop, hc]⟩, by simp [CombOp.finished, hl]⟩

theorem stopCombs_unfinished {mine : CombOp → Bool} {st : Option CStatus} (ho : o ∈ (s.stopCombs mine st).ops.combs) : o.finished = false := by
  rw [stopCombs_ops] at ho
  simpa using (List.mem_filter.mp ho).2

/-- The one operation that there is ends, and its port gets the completion. -/
theorem finishCombs_one (h : s.ops.combs = [o]) (hfin : o.finished = true) (hlive : o.live = true) :
    s.finishCombs = ({ s with ops := { s.ops with combs := [] } } : State).pushDone o.pos o.outcome := by
  simp [State.finishCombs, h, hfin, forEach, hlive]

/-- The one operation that there is, with none of its rows in the lanes, completes with `TIMEOUT`. -/
theorem stopCombs_completes {mine : CombOp → Bool} (hs : s.Sound) (h : s.ops.combs = [o]) (hm : mine o = true) (hc : o.cause = none)
    (hl : o.lanes = []) (hlive : o.live = true) : let t := s.stopCombs mine (some .timeout)
    t.ops.combs = [] ∧ t.port o.pos = { s.port o.pos with done := (s.port o.pos).done ++ [doneOf o.desc .timeout Tally.zero 0 0 true none] } := by
  have hstop : o.stop (some .timeout) = { o with cause := some .timeout, ready := [] } := by simp [CombOp.stop, hc]
  have hmap : mapIf mine (fun o => o.stop (some .timeout)) s.ops.combs = [{ o with cause := some .timeout, ready := [] }] := by
    simp [mapIf, h, hm, hstop]
  have hfin : ({ o with cause := some .timeout, ready := [] } : CombOp).finished = true := by simp [CombOp.finished, hl]
  intro t
  have ht : t = _ := finishCombs_one (s := { s with ops := { s.ops with combs := mapIf mine (fun o => o.stop (some .timeout)) s.ops.combs } })
    hmap hfin hlive
  rw [ht]
  exact ⟨rfl, Tbl.get_set_same _ _ hs.ports_wf⟩

/-! ## The limit of a quarantined tag expires (R205, Table 13-2) -/

/-- Some rows of a slot are freed. -/
def State.freeRows (s : State) (x : TagSlot) (l : List Nat) : State := forEach l (fun r t => t.writeRow x r 0) s

theorem onlyEntries_freeRows (s : State) (x : TagSlot) (l : List Nat) : OnlyEntries s (s.freeRows x l) :=
  onlyEntries_forEach (fun _ t => onlyEntries_writeRow t _ _ _) _ _

/-- A freed entry writes nothing to chip memory (R198). -/
theorem writeRow_zero_mem (s : State) (x : TagSlot) (r : Nat) : (s.writeRow x r 0).mem = s.mem := by
  unfold State.writeRow
  cases hp : s.sbIndex (x.place r).1 (x.place r).2 with
  | none => rw [writeEntry_die hp]
  | some i => rw [writeEntry_sb hp, if_pos leState_zero]

theorem freeRows_mem (s : State) (x : TagSlot) (l : List Nat) : (s.freeRows x l).mem = s.mem :=
  forEach_inv l (fun r t => t.writeRow x r 0) State.mem (fun r t => writeRow_zero_mem t x r) s

theorem freeRows_sound (hs : s.Sound) (x : TagSlot) (l : List Nat) : (s.freeRows x l).Sound := by
  unfold State.freeRows forEach
  induction l generalizing s with
  | nil => exact hs
  | cons r l ih => exact ih (writeRow_sound hs)

theorem freeRows_frees (hs : s.Sound) {q : Nat} (h : q ∈ l ∨ s.rowFree x q) : (s.freeRows x l).rowFree x q := by
  unfold State.freeRows forEach
  induction l generalizing s with
  | nil => exact h.resolve_left (List.not_mem_nil)
  | cons r l ih =>
    refine ih (writeRow_sound hs) ?_
    rcases h with h | h
    · rcases List.mem_cons.mp h with rfl | h
      · exact .inr (rowFree_freed hs x q)
      · exact .inl h
    · exact .inr (rowFree_beside_freed hs h)

/-- The rows of a slot that are not read as free. -/
def State.heldRows (s : State) (x : TagSlot) : List Nat := (List.range x.ntok).filter (fun r => match s.readRow x r with
  | .entry e => leState e != lsFree
  | _ => true)

/-- A row that is not among those is free. -/
theorem rowFree_of_not_held (hr : r < x.ntok) (h : r ∉ s.heldRows x) : s.rowFree x r := by
  have hnot : ¬ (match s.readRow x r with | .entry e => leState e != lsFree | _ => true) = true := fun hheld =>
    h (List.mem_filter.mpr ⟨List.mem_range.mpr hr, hheld⟩)
  unfold State.rowFree State.rowIs State.rowEntry
  cases hread : s.readRow x r with
  | entry e => simpa [hread] using hnot
  | uncorrectable => simp [hread] at hnot
  | crcFailed => simp [hread] at hnot

theorem tagQuarantineExpiry_idle {k : Fin 64} (h : (s.tagSlot k).st ≠ .quarantine ∨ (s.tagSlot k).routeDone = false) :
    exec (.tagQuarantineExpiry k) s = .next s := by
  simp only [exec_tagQuarantineExpiry, execTagQuarantineExpiry]
  refine if_neg (fun hq => ?_)
  rcases h with h | h
  · exact h hq.1
  · simp [h] at hq

/-- The state once the slot of an expired quarantine is free. -/
def State.quarantineEnded (s : State) (k : Nat) : State :=
  ((s.wake.freeRows (s.tagSlot k) (s.heldRows (s.tagSlot k))).bump cLedgerQexp (s.heldRows (s.tagSlot k)).length).freeSlot k

theorem tagQuarantineExpiry_ends {k : Fin 64} (hst : (s.tagSlot k).st = .quarantine) (hdone : (s.tagSlot k).routeDone = true) :
    exec (.tagQuarantineExpiry k) s = .next (if (s.heldRows (s.tagSlot k)).isEmpty then s.quarantineEnded k else
      (s.quarantineEnded k).postFault 0x3B 8 0 0 0xFFFF ((s.tagSlot k).tag.toNat + (s.heldRows (s.tagSlot k)).length * 65536)) := by
  simp only [exec_tagQuarantineExpiry, execTagQuarantineExpiry]
  exact if_pos ⟨hst, hdone⟩

theorem postFault_entries (a b c d e g : Nat) : (s.postFault a b c d e g).entries = s.entries := by
  simp [State.entries]

theorem wake_entries : s.wake.entries = s.entries := by
  simp [State.entries]

/-- What the end of a quarantine leaves: free rows, a free slot and its count. -/
theorem quarantineEnded_parts (hs : s.Sound) (k : Nat) :
    let t := s.quarantineEnded k
    t.tagSlot k = tagDefault 0 ∧ (∀ j, j ≠ k → t.tagSlot j = s.tagSlot j) ∧ (∀ r, r < (s.tagSlot k).ntok → t.rowFree (s.tagSlot k) r) ∧
      t.counter cLedgerQexp = sat32 (s.counter cLedgerQexp + (s.heldRows (s.tagSlot k)).length) ∧ t.mem = s.mem ∧ t.tt = s.tt ∧ t.ports = s.ports ∧
      t.ops = { s.ops with combs := mapIf (fun o => o.slot == k) (fun o => { o with slot := 64 }) s.ops.combs } ∧ t.win = s.wake.win := by
  intro t
  have hwake : s.wake.Sound := (kept_wake (sound_kept hs)).sound
  have hrows : OnlyEntries s.wake (s.wake.freeRows (s.tagSlot k) (s.heldRows (s.tagSlot k))) := onlyEntries_freeRows _ _ _
  have hsound := freeRows_sound hwake (s.tagSlot k) (s.heldRows (s.tagSlot k))
  have hmem := freeRows_mem s.wake (s.tagSlot k) (s.heldRows (s.tagSlot k))
  have hfree : ∀ r, r < (s.tagSlot k).ntok → (s.wake.freeRows (s.tagSlot k) (s.heldRows (s.tagSlot k))).rowFree (s.tagSlot k) r := fun r hr => by
    refine freeRows_frees hwake ?_
    by_cases hheld : r ∈ s.heldRows (s.tagSlot k)
    · exact .inl hheld
    · refine .inr ?_
      rw [State.rowFree, rowIs_congr wake_entries]
      exact rowFree_of_not_held hr hheld
  have ht : t = ((s.wake.freeRows (s.tagSlot k) (s.heldRows (s.tagSlot k))).bump cLedgerQexp (s.heldRows (s.tagSlot k)).length).freeSlot k := rfl
  clear_value t
  generalize s.wake.freeRows (s.tagSlot k) (s.heldRows (s.tagSlot k)) = u at *
  have htags : ∀ j, u.tagSlot j = s.tagSlot j := fun j => by
    rw [hrows]
    unfold State.tagSlot
    rw [wake_led]
  subst ht
  refine ⟨Tbl.get_set_same _ _ hsound.tags_wf, fun j hj => (tagSlot_setTag_other hj).trans (htags j), hfree, ?_, ?_, ?_, ?_, ?_, ?_⟩
  · refine (counter_bump_same hsound).trans ?_
    rw [hrows]
    unfold State.counter
    rw [wake_counters]
  · exact hmem.trans (wake_mem s)
  · rw [hrows]
    exact wake_tt s
  · rw [hrows]
    exact wake_ports s
  · rw [hrows]
    simp [State.freeSlot, State.setTag]
  · rw [hrows]
    rfl

/-- Without a `DOZE` request under way the wake writes no window. -/
theorem wake_win_of_not_dozing (h : s.dozing = false) : s.wake.win = s.win := by
  unfold State.wake
  rw [h]
  split
  · split <;> rfl
  · rfl

/-! ## The obligation -/

/-- Settles O25: the rows of a lane by what its operation finds, the stop of an operation whose limit expires, and the end of a quarantine. -/
theorem lanesLimitsAndQuarantine : Obligations.LanesLimitsAndQuarantine := by
  unfold Obligations.LanesLimitsAndQuarantine
  refine ⟨fun s id token _ => ⟨lanes_gone, fun o hc => ⟨combineLaneBegin_waits hc, fun h hstop => ⟨fun e => combineLaneBegin_enters hc h hstop,
      combineLaneBegin_faults hc h hstop⟩, fun e => rowReadReturn_computes hc, fun rows hl => ?_⟩⟩,
    fun s id hs => ⟨⟨_, combineLimitExpiry_stops s id, ?_, fun o ho hmine hfin => ?_, fun o ho hid hlim => ?_, fun o => stopCombs_unfinished⟩,
      fun o h hid hlim hcause hl hlive => ⟨_, combineLimitExpiry_stops s id, ?_⟩⟩,
    fun s k hs => ⟨tagQuarantineExpiry_idle, fun hst hdone => ⟨_, tagQuarantineExpiry_ends hst hdone, ?_⟩⟩⟩
  · have hid : o.id = id := comb_id hc
    have hslot := storeRows_tagSlot s rows o.slot
    have hu := storeRows_fairlead s rows
    refine ⟨_, rowWriteVisible_serves hc hl, fun y => serveToken_serves, fun hst => ?_, fun hst hx => ?_, fun hst hx => ?_, fun hst hx e he => ?_,
      fun hst hx he => ?_⟩
    · rw [hst]
      exact serveToken_stored s id token rows
    · rw [hst, if_pos rfl, markCombined_unslotted (hslot.symm ▸ hx)]
      exact serveToken_stored s id token rows
    · rw [hst, if_pos rfl, markCombined_quarantined (hslot.symm ▸ hx), hslot]
      exact serveToken_frame (((hu.trans (onlyEntries_writeRow _ _ _ _).onlyFairlead).trans (onlyFairlead_closeRow _ _)).trans
        (onlyFairlead_settleTag _ _))
    · rw [hst, if_pos rfl, markCombined_live (hslot.symm ▸ hx) (hslot.symm ▸ he), hslot]
      exact serveToken_frame ((hu.trans (onlyEntries_writeRow _ _ _ _).onlyFairlead).trans (onlyFairlead_closeRow _ _))
    · rw [hst, if_pos rfl, markCombined_unreadable (hslot.symm ▸ hx) (hslot.symm ▸ he), hslot, hid]
      have hserve := fun v : State => serveToken_eq v id token
      refine ⟨?_, ?_, ?_, fun y hy hyid => ((causesStay_loseEntry _ _ _ _).trans (causesStay_serveToken _ _ _)).caused hy hyid⟩ <;> rw [hserve] <;> rfl
  · rw [stopCombs_eq]
  · refine stopCombs_spares ho ?_ hfin
    rcases hmine with h | h <;> simp [h]
  · exact stopCombs_holds ho (by simp [hid, hlim])
  · exact stopCombs_completes hs h (by simp [hid, hlim]) hcause hl hlive
  · obtain ⟨htag, hother, hfree, hcount, hmem, htt, hports, hops, hwin⟩ := quarantineEnded_parts hs k.val
    generalize s.quarantineEnded k.val = u at *
    cases hnone : (s.heldRows (s.tagSlot k)).isEmpty with
    | true =>
      exact ⟨congrArg TagSlot.st htag, hother, hfree, congrArg TagSlot.blocks htag, hcount, hmem, htt, hports, hops,
        fun _ hawake => hwin.trans (wake_win_of_not_dozing hawake)⟩
    | false =>
      rw [if_neg Bool.false_ne_true]
      generalize (s.tagSlot k).tag.toNat + (s.heldRows (s.tagSlot k)).length * 65536 = n
      have hslot : ∀ j, (u.postFault 0x3B 8 0 0 0xFFFF n).tagSlot j = u.tagSlot j := fun j => by rw [State.tagSlot, postFault_led]; rfl
      have hcounter : (u.postFault 0x3B 8 0 0 0xFFFF n).counter cLedgerQexp = u.counter cLedgerQexp := by rw [State.counter, postFault_counters]; rfl
      refine ⟨?_, fun j hj => (hslot j).trans (hother j hj), fun r hr => (rowIs_congr (postFault_entries ..) _ _ _).trans (hfree r hr), ?_,
        hcounter.trans hcount, (postFault_mem ..).trans hmem, (postFault_tt ..).trans htt, (postFault_ports ..).trans hports,
        (postFault_ops ..).trans hops, fun hnil => ?_⟩
      · rw [hslot, htag]; rfl
      · rw [hslot, htag]; rfl
      · have hheld : s.heldRows (s.tagSlot k) = [] := hnil
        simp [hheld] at hnone

end Lanes

end Sys2Proof.Machine

/-! SUPPORT. Rows of a tag after another state is written to one of them: the row itself, and the rows beside it (R196 to R198, R203). -/

namespace Sys2Proof.Machine

open Sys2Proof

section RowsWritten

/-! ## Bits of a word in which some are replaced -/

variable {w i lo len : Nat}

theorem getLsbD_setBits (x : BitVec w) (lo len v : Nat) (hi : i < w) :
    (setBits x lo len v).getLsbD i = if lo ≤ i ∧ i < lo + len then v.testBit (i - lo) else x.getLsbD i := by
  simp only [setBits, BitVec.getLsbD_or, BitVec.getLsbD_and, BitVec.getLsbD_not, BitVec.getLsbD_ofNat, Nat.testBit_shiftLeft,
    Nat.testBit_two_pow_sub_one, Nat.testBit_mod_two_pow, hi, decide_true, Bool.true_and]
  by_cases hlo : lo ≤ i
  · by_cases hhi : i < lo + len
    · simp [hlo, hhi, show i - lo < len by omega]
    · simp [hlo, hhi, show ¬ i - lo < len by omega]
  · simp [hlo]

theorem bits_eq_extract (x : BitVec w) (lo len : Nat) : bits x lo len = (x.extractLsb' lo len).toNat := by
  rw [BitVec.extractLsb'_toNat, bits]

theorem bits_setBits_below (x : BitVec w) {top : Nat} (n v : Nat) (h : lo + len ≤ top) (hw : lo + len ≤ w) :
    bits (setBits x top n v) lo len = bits x lo len := by
  rw [bits_eq_extract, bits_eq_extract]
  congr 1
  ext i hi
  rw [BitVec.getElem_extractLsb' hi, BitVec.getElem_extractLsb' hi, getLsbD_setBits _ _ _ _ (by omega), if_neg (by omega)]

theorem bits_setBits_same (x : BitVec w) (v : Nat) (hw : lo + len ≤ w) : bits (setBits x lo len v) lo len = v % 2 ^ len := by
  rw [bits_eq_extract, ← BitVec.toNat_ofNat]
  congr 1
  ext i hi
  rw [BitVec.getElem_extractLsb' hi, getLsbD_setBits _ _ _ _ (by omega), if_pos (by omega), Nat.add_sub_cancel_left,
    ← BitVec.getLsbD_eq_getElem hi, BitVec.getLsbD_ofNat]
  simp [hi]

/-- A new state leaves the tag and the token of an entry (Table 6-3). -/
theorem leState_set (e : BitVec 160) (st : Nat) : leState (leSetState e st) = st % 8 := bits_setBits_same e st (by decide)

theorem leTag_set (e : BitVec 160) (st : Nat) : leTag (leSetState e st) = leTag e := bits_setBits_below e 3 st (by decide) (by decide)

theorem leToken_set (e : BitVec 160) (st : Nat) : leToken (leSetState e st) = leToken e := bits_setBits_below e 3 st (by decide) (by decide)

/-! ## Chip memory after a store -/

variable {s t u : State} {x y : TagSlot} {a b c j q k r n tag token st : Nat} {e e' : BitVec 160} {l : List Byte}

theorem load_store_prefix (hs : s.Sound) (h : n ≤ l.length) : load (store s a l) a n = l.take n := by
  have hall : Memory.readN (Memory.writeN s.mem a l) a l.length = l := Memory.readN_writeN a l hs.mem_wf
  have htake : load (store s a l) a n = (Memory.readN (Memory.writeN s.mem a l) a l.length).take n := by
    simp [load, store, Memory.readN, ← List.map_take, List.take_range, h]
  rw [htake, hall]

theorem load_store_outside (h : c + n ≤ a ∨ a + l.length ≤ c) : load (store s a l) c n = load s c n := by
  unfold load store Memory.readN
  refine List.map_congr_left (fun i hi => ?_)
  have := List.mem_range.mp hi
  exact Memory.read_writeN_outside (by omega)

/-- The bytes of a saddlebag entry, up to its CRC (R198). -/
theorem sbBytes_take (e : BitVec 160) : (sbBytes e).take 24 = wordBytes 20 e ++ wordBytes 4 (crc32c (wordBytes 20 e)) := by
  unfold sbBytes
  rw [List.take_left' (by simp)]

theorem sbBytes_length (e : BitVec 160) : (sbBytes e).length = 32 := by simp [sbBytes]

theorem leNat_wordBytes (n : Nat) (v : BitVec w) (h : w = 8 * n) : leNat (wordBytes n v) = v.toNat := by
  refine leNat_leBytes (lt_of_lt_of_eq v.isLt ?_)
  rw [h, Nat.pow_mul]

/-! ## Entries in their places, while no bank is lost (R196, R197) -/

theorem sbIndex_backed (h : s.units.lostBanks = []) (b j : Nat) : s.sbIndex b j = if inSaddlebag b then some (entryIndex b j) else none := by
  simp [State.sbIndex, h]

/-- Different entries of blocks lie in different places. -/
theorem entryIndex_inj (hj : j < 1024) (hq : q < 1024) (hside : inSaddlebag b = inSaddlebag c) (h : entryIndex b j = entryIndex c q) :
    b = c ∧ j = q := by
  unfold entryIndex at h
  rw [hside] at h
  cases hc : inSaddlebag c with
  | true =>
    rw [hc] at hside h
    have hb : 1024 ≤ b := of_decide_eq_true hside
    have hc' : 1024 ≤ c := of_decide_eq_true hc
    simp only [if_true] at h
    omega
  | false =>
    rw [hc] at h
    simp only [Bool.false_eq_true, if_false] at h
    omega

theorem readSb_congr (hheld : t.led.sbHeld.contains j = s.led.sbHeld.contains j) (hload : load t (t.sbAddr j) 24 = load s (s.sbAddr j) 24) :
    t.readSb j tag token = s.readSb j tag token := by
  unfold State.readSb
  rw [hheld, hload]

/-- A saddlebag entry that is read and not free has its tag and token. -/
theorem readSb_names (h : s.readSb j tag token = .entry e) (hheld : leState e ≠ lsFree) : leTag e = tag ∧ leToken e = token := by
  unfold State.readSb at h
  split at h
  · dsimp only at h
    split at h
    · next hok =>
      rw [← EntryRead.entry.inj h]
      exact hok.2
    · exact absurd h nofun
  · rw [← EntryRead.entry.inj h] at hheld
    exact absurd leState_zero hheld

/-- A saddlebag entry that stands in chip memory with its CRC is read. -/
theorem readSb_stands (hheld : s.led.sbHeld.contains j = true) (hload : load s (s.sbAddr j) 24 = (sbBytes e).take 24) :
    s.readSb j (leTag e) (leToken e) = .entry e := by
  have hword : leNat (wordBytes 20 e) = e.toNat := leNat_wordBytes 20 e rfl
  have hcrc : leNat (wordBytes 4 (crc32c (wordBytes 20 e))) = (crc32c (wordBytes 20 e)).toNat := leNat_wordBytes 4 _ rfl
  unfold State.readSb
  rw [hheld, hload, sbBytes_take]
  simp only [if_true, List.take_left' (wordBytes_length 20 e), List.drop_left' (wordBytes_length 20 e), hword, hcrc, BitVec.ofNat_toNat,
    BitVec.setWidth_eq, true_and]

/-- The saddlebag's own entries: what a write of one leaves of another. -/
theorem readSb_beside {i : Nat} (hp : s.sbIndex b j = some i) (hk : k ≠ i) : (s.writeEntry b j e).readSb k tag token = s.readSb k tag token := by
  rw [writeEntry_sb hp]
  by_cases hfree : leState e = lsFree
  · rw [if_pos hfree]
    exact readSb_congr (by simp [hk]) rfl
  · rw [if_neg hfree]
    have hlen := sbBytes_length e
    generalize sbBytes e = l at hlen ⊢
    refine readSb_congr (by simp [hk]) (load_store_outside (s := { s with led := { s.led with sbHeld := _ } }) ?_)
    change s.sbAddr k + 24 ≤ s.sbAddr i ∨ s.sbAddr i + l.length ≤ s.sbAddr k
    unfold State.sbAddr
    omega

theorem readSb_die (hp : s.sbIndex b j = none) : (s.writeEntry b j e).readSb k tag token = s.readSb k tag token := by
  rw [writeEntry_die hp]
  rfl

/-- The entries on the die: what a write of an entry leaves of them. -/
theorem readDie_beside (hq : s.sbIndex c q = none) (h : s.sbIndex b j = none → entryIndex c q ≠ entryIndex b j) :
    (s.writeEntry b j e).readEntry c q tag token = s.readEntry c q tag token := by
  rw [readEntry_die (((onlyEntries_writeEntry s b j e).sbIndex c q).trans hq), readEntry_die hq]
  cases hp : s.sbIndex b j with
  | none =>
    have hk := h hp
    rw [writeEntry_die hp]
    simp [hk, Tbl.get_set_other _ hk]
  | some i =>
    rw [writeEntry_sb hp]
    by_cases hfree : leState e = lsFree
    · rw [if_pos hfree]
    · rw [if_neg hfree]
      generalize sbBytes e = l
      rfl

/-- A write of an entry leaves what another place reads. -/
theorem readEntry_beside (hlost : s.units.lostBanks = []) (hj : j < 1024) (hq : q < 1024) (hne : (b, j) ≠ (c, q)) :
    (s.writeEntry b j e).readEntry c q tag token = s.readEntry c q tag token := by
  have hplace := sbIndex_backed hlost
  have hindex := (onlyEntries_writeEntry s b j e).sbIndex c q
  have hother : inSaddlebag b = inSaddlebag c → entryIndex c q ≠ entryIndex b j := fun hside h => by
    obtain ⟨rfl, rfl⟩ := entryIndex_inj hj hq hside h.symm
    exact hne rfl
  cases hc : inSaddlebag c with
  | false =>
    refine readDie_beside (by rw [hplace, hc]; rfl) (fun hp => hother ?_)
    rw [hplace] at hp
    cases hb : inSaddlebag b with
    | false => exact hc.symm
    | true =>
      rw [hb] at hp
      exact absurd hp nofun
  | true =>
    have hq' : s.sbIndex c q = some (entryIndex c q) := by rw [hplace, hc]; rfl
    rw [readEntry_sb (hindex.trans hq'), readEntry_sb hq']
    cases hb : inSaddlebag b with
    | false => exact readSb_die (by rw [hplace, hb]; rfl)
    | true => exact readSb_beside (by rw [hplace, hb]; rfl) (hother (hb.trans hc.symm))

/-- An entry that is read and not free is read again in its new state. -/
theorem readEntry_restated (hs : s.Sound) (hread : s.readEntry b j tag token = .entry e) (hheld : leState e ≠ lsFree) (hst : st % 8 ≠ lsFree) :
    (s.writeEntry b j (leSetState e st)).readEntry b j tag token = .entry (leSetState e st) := by
  have hindex := (onlyEntries_writeEntry s b j (leSetState e st)).sbIndex b j
  have hfree : leState (leSetState e st) ≠ lsFree := by rwa [leState_set]
  cases hp : s.sbIndex b j with
  | none =>
    rw [readEntry_die (hindex.trans hp), writeEntry_die hp]
    simp [hfree, Tbl.get_set_rising _ _ hs.die_up]
  | some i =>
    rw [readEntry_sb hp] at hread
    obtain ⟨htag, htoken⟩ := readSb_names hread hheld
    rw [readEntry_sb (hindex.trans hp), writeEntry_sb hp, if_neg hfree, ← htag, ← htoken, ← leTag_set e st, ← leToken_set e st]
    have hlen := sbBytes_length (leSetState e st)
    refine readSb_stands ?_ ?_
    · generalize sbBytes (leSetState e st) = l
      simp
    · generalize sbBytes (leSetState e st) = l at hlen ⊢
      exact load_store_prefix (s := { s with led := { s.led with sbHeld := _ } }) { hs with } (by omega)

/-! ## Rows in their places (R196) -/

/-- The blocks of a tag hold its rows, each in a place of its own, and no bank is lost (R196, R397). -/
structure RowsApart (s : State) (x : TagSlot) : Prop where
  backed : s.units.lostBanks = []
  done : x.routeDone = true
  distinct : x.blocks.Nodup
  room : x.ntok ≤ 1024 * x.blocks.length

theorem RowsApart.onlyEntries (h : RowsApart s x) (ho : OnlyEntries s t) : RowsApart t x :=
  ⟨by rw [ho]; exact h.backed, h.done, h.distinct, h.room⟩

theorem RowsApart.place_ne (h : RowsApart s x) (hr : r < x.ntok) (hn : n < x.ntok) (hne : r ≠ n) : x.place r ≠ x.place n := fun heq => by
  have hroom := h.room
  have hr' : r / 1024 < x.blocks.length := by omega
  have hn' : n / 1024 < x.blocks.length := by omega
  obtain ⟨hblock, hrow⟩ := Prod.mk.inj heq
  have hsame : r / 1024 = n / 1024 := by
    refine (h.distinct.getElem_inj_iff (hi := hr') (hj := hn')).mp ?_
    simpa [nth, hr', hn'] using hblock
  omega

theorem readRow_beside (h : RowsApart s x) (hr : r < x.ntok) (hn : n < x.ntok) (hne : r ≠ n) : (s.writeRow x r e).readRow x n = s.readRow x n := by
  unfold State.readRow
  rw [h.done]
  exact readEntry_beside h.backed (Nat.mod_lt _ (by decide)) (Nat.mod_lt _ (by decide)) (h.place_ne hr hn hne)

theorem readRow_restated (hs : s.Sound) (h : RowsApart s x) (hread : s.readRow x r = .entry e) (hheld : leState e ≠ lsFree) (hst : st % 8 ≠ lsFree) :
    (s.writeRow x r (leSetState e st)).readRow x r = .entry (leSetState e st) := by
  unfold State.readRow at hread ⊢
  rw [h.done] at hread ⊢
  exact readEntry_restated hs hread hheld hst

/-- A loop over rows that leaves the entries of each other row: each row is left as its own turn leaves it. -/
theorem forEach_readRow {f : Nat → State → State} {left : Nat → EntryRead} (h : RowsApart s x)
    (honly : ∀ r t, OnlyEntries t (f r t)) (hsound : ∀ r t, t.Sound → (f r t).Sound)
    (hbeside : ∀ r n t, RowsApart t x → r < x.ntok → n < x.ntok → r ≠ n → (f r t).readRow x n = t.readRow x n)
    (hrow : ∀ r t, OnlyEntries s t → t.Sound → r < x.ntok → t.readRow x r = s.readRow x r → (f r t).readRow x r = left r)
    (l : List Nat) (hl : l.Nodup) (hin : ∀ r ∈ l, r < x.ntok) (t : State) (ht : OnlyEntries s t) (hts : t.Sound)
    (hsame : ∀ r ∈ l, t.readRow x r = s.readRow x r) :
    ∀ n < x.ntok, (forEach l f t).readRow x n = if n ∈ l then left n else t.readRow x n := by
  unfold forEach
  induction l generalizing t with
  | nil => exact fun n _ => rfl
  | cons r l ih =>
    obtain ⟨hnot, hl⟩ := List.nodup_cons.mp hl
    have hr := hin r List.mem_cons_self
    have happart := h.onlyEntries ht
    have hother : ∀ n < x.ntok, n ≠ r → (f r t).readRow x n = t.readRow x n := fun n hn hne => hbeside r n t happart hr hn hne.symm
    intro n hn
    have hstep := ih hl (fun q hq => hin q (List.mem_cons_of_mem r hq)) (f r t) (ht.trans (honly r t)) (hsound r t hts)
      (fun q hq => (hother q (hin q (List.mem_cons_of_mem r hq)) (fun heq => hnot (heq ▸ hq))).trans (hsame q (List.mem_cons_of_mem r hq))) n hn
    rw [List.foldl_cons, hstep]
    by_cases hmem : n ∈ l
    · rw [if_pos hmem, if_pos (List.mem_cons_of_mem r hmem)]
    · rw [if_neg hmem]
      by_cases heq : n = r
      · rw [if_pos (heq ▸ List.mem_cons_self), heq]
        exact hrow r t ht hts hr (hsame r List.mem_cons_self)
      · rw [if_neg (by simp [heq, hmem])]
        exact hother n hn heq

end RowsWritten

end Sys2Proof.Machine

/-! SUPPORT. Accepted tag and combine descriptors: the rows that a cancel or a release leaves, the end of the tag, and an operation that begins
(R201 to R203, R207, R218, R220, R225; logs 11, 76, 134). -/

namespace Sys2Proof.Machine

open Sys2Proof

section TagsAndCombines

variable {s t u : State} {x y : TagSlot} {d : Desc} {k n p r : Nat} {e : BitVec 160} {mine : CombOp → Bool} {st : Option CStatus}

/-! ## The rows after a cancel and after a release -/

/-- What a cancel leaves of a row (R203, R207; log 76). -/
def State.cancelledRow (s : State) (k : Nat) (x : TagSlot) (n : Nat) : EntryRead :=
  match s.readRow x n with
  | .entry e =>
    if leState e = lsCombined then .entry 0
    else if leOpen e && !s.laneBegun k (x.tokBase + n) then
      (if leAllArrived e then .entry 0 else .entry (leSetState e lsCancelled))
    else .entry e
  | _ => .entry 0

/-- What a release leaves of a row (R202; log 134). -/
def State.releasedRow (s : State) (x : TagSlot) (n : Nat) : EntryRead :=
  if s.rowIs x n (fun e => leState e == lsCombined) then .entry 0 else s.readRow x n

/-- An open entry is not free. -/
theorem held_of_leOpen (h : leOpen e = true) : leState e ≠ lsFree := fun hfree => by
  simp [leOpen, hfree, lsFree, lsRouted, lsSpilled, lsWaiting] at h

theorem laneBegun_onlyEntries (h : OnlyEntries s t) (k token : Nat) : t.laneBegun k token = s.laneBegun k token := by
  rw [h]
  rfl

theorem cancelRow_writes (s : State) (k : Nat) (x : TagSlot) (r : Nat) :
    s.cancelRow k x r = s ∨ ∃ e, s.cancelRow k x r = s.writeRow x r e := by
  unfold State.cancelRow
  split
  · split
    · exact .inr ⟨_, rfl⟩
    · split
      · split <;> exact .inr ⟨_, rfl⟩
      · exact .inl rfl
  · exact .inr ⟨_, rfl⟩

theorem cancelRow_reads (hs : s.Sound) (h : RowsApart s x) (k r : Nat) : (s.cancelRow k x r).readRow x r = s.cancelledRow k x r := by
  unfold State.cancelRow State.cancelledRow
  cases hread : s.readRow x r with
  | entry e =>
    dsimp only
    by_cases hcomb : leState e = lsCombined
    · rw [if_pos hcomb, if_pos hcomb]
      exact readRow_freed hs x r
    · rw [if_neg hcomb, if_neg hcomb]
      by_cases hopen : (leOpen e && !s.laneBegun k (x.tokBase + r)) = true
      · rw [if_pos hopen, if_pos hopen]
        by_cases harr : leAllArrived e = true
        · rw [if_pos harr, if_pos harr]
          exact readRow_freed hs x r
        · rw [if_neg harr, if_neg harr]
          exact readRow_restated hs h hread (held_of_leOpen (Bool.and_eq_true_iff.mp hopen).1) (by decide)
      · rw [if_neg hopen, if_neg hopen]
        exact hread
  | uncorrectable => exact readRow_freed hs x r
  | crcFailed => exact readRow_freed hs x r

theorem cancelledRow_congr (h : OnlyEntries s t) (hread : t.readRow x r = s.readRow x r) : t.cancelledRow k x r = s.cancelledRow k x r := by
  unfold State.cancelledRow
  rw [hread, laneBegun_onlyEntries h]

theorem cancelRows_reads (hs : s.Sound) (h : RowsApart s (s.tagSlot k)) (hn : n < (s.tagSlot k).ntok) :
    (s.cancelRows k).readRow (s.tagSlot k) n = s.cancelledRow k (s.tagSlot k) n := by
  refine (forEach_readRow h (fun r t => onlyEntries_cancelRow t k _ r) (fun r t ht => (kept_cancelRow k _ r (sound_kept ht)).sound)
    (fun r n t happart hr hn hne => ?_) (fun r t ho hts _ hread => (cancelRow_reads hts (h.onlyEntries ho) k r).trans (cancelledRow_congr ho hread))
    _ List.nodup_range (fun r hr => List.mem_range.mp hr) s (OnlyEntries.refl s) hs (fun _ _ => rfl) n hn).trans (if_pos (List.mem_range.mpr hn))
  rcases cancelRow_writes t k (s.tagSlot k) r with hrow | ⟨e, hrow⟩ <;> rw [hrow]
  exact readRow_beside happart hr hn hne

/-- A row of a release: the `COMBINED` ones are freed. -/
def State.releaseRow (s : State) (x : TagSlot) (r : Nat) : State :=
  if s.rowIs x r (fun e => leState e == lsCombined) then s.writeRow x r 0 else s

theorem onlyEntries_releaseRow (s : State) (x : TagSlot) (r : Nat) : OnlyEntries s (s.releaseRow x r) := by
  unfold State.releaseRow
  split
  · exact onlyEntries_writeRow _ _ _ _
  · exact OnlyEntries.refl s

theorem releaseRow_sound (hs : s.Sound) : (s.releaseRow x r).Sound := by
  unfold State.releaseRow
  split
  · exact writeRow_sound hs
  · exact hs

theorem releaseRow_reads (hs : s.Sound) (x : TagSlot) (r : Nat) : (s.releaseRow x r).readRow x r = s.releasedRow x r := by
  unfold State.releaseRow State.releasedRow
  split
  · exact readRow_freed hs x r
  · rfl

theorem releasedRow_congr (hread : t.readRow x r = s.readRow x r) : t.releasedRow x r = s.releasedRow x r := by
  unfold State.releasedRow State.rowIs State.rowEntry
  rw [hread]

theorem releaseRows_reads (hs : s.Sound) (h : RowsApart s (s.tagSlot k)) (hn : n < (s.tagSlot k).ntok) :
    (s.releaseRows k).readRow (s.tagSlot k) n = s.releasedRow (s.tagSlot k) n := by
  refine (forEach_readRow (f := fun r t => t.releaseRow (s.tagSlot k) r) h (fun r t => onlyEntries_releaseRow t _ r) (fun r t ht => releaseRow_sound ht)
    (fun _ _ _ happart hr hn hne => ?_) (fun r t _ hts _ hread => (releaseRow_reads hts _ r).trans (releasedRow_congr hread))
    _ List.nodup_range (fun r hr => List.mem_range.mp hr) s (OnlyEntries.refl s) hs (fun _ _ => rfl) n hn).trans (if_pos (List.mem_range.mpr hn))
  unfold State.releaseRow
  split
  · exact readRow_beside happart hr hn hne
  · rfl

theorem cancelRows_sound (hs : s.Sound) (k : Nat) : (s.cancelRows k).Sound :=
  (kept_forEach (fun r _ ht => kept_cancelRow k _ r ht) (sound_kept hs)).sound

/-! ## The end of a tag (R201 to R203, R205; log 11) -/

/-- The slot takes its last form, the operations on it are stopped, and it is free when it holds no entry. -/
def State.endTag (s : State) (k : Nat) (y : TagSlot) (st : Option CStatus) : State :=
  ((s.setTag k y).stopCombs (fun o => o.slot == k) st).settleTag k

/-- The slot of a cancelled tag: quarantine, with a count of the entries that are open still. -/
def State.cancelledSlot (s : State) (k : Nat) : TagSlot := { s.tagSlot k with
  st := .quarantine
  nopen := ((List.range (s.tagSlot k).ntok).filter (fun r => (s.cancelRows k).rowIs (s.tagSlot k) r leOpen)).length }

theorem cancelTag_ends (h : (s.tagSlot k).st = .live) (hdone : (s.tagSlot k).routeDone = true) :
    s.cancelTag k = (s.cancelRows k).endTag k (s.cancelledSlot k) none := cancelTag_routed h hdone

theorem releaseTag_ends (s : State) (k : Nat) :
    s.releaseTag k = (s.releaseRows k).endTag k { s.tagSlot k with st := .quarantine } (some .badContext) := rfl

theorem endTag_entries (s : State) (k : Nat) (y : TagSlot) (st : Option CStatus) : (s.endTag k y st).entries = s.entries :=
  (settleTag_entries _ k).trans (stopCombs_entries _ _ st)

theorem freeSlot_tagSlot (hs : s.Sound) (k : Nat) : (s.freeSlot k).tagSlot k = tagDefault 0 := tagSlot_setTag_same hs

theorem freeSlot_tagSlot_other {j : Nat} (hj : j ≠ k) : (s.freeSlot k).tagSlot j = s.tagSlot j := tagSlot_setTag_other hj

/-- A slot that ends is free when it holds nothing, and keeps its last form otherwise. -/
theorem endTag_slot (hs : s.Sound) (hst : y.st = .quarantine) (hdone : y.routeDone = true) : (s.endTag k y st).tagSlot k =
    if s.tagHolds y then y else tagDefault 0 := by
  have hu : ((s.setTag k y).stopCombs (fun o => o.slot == k) st).Sound := (kept_stopCombs _ _ (kept_setTag k y (sound_kept hs))).sound
  have hslot : ((s.setTag k y).stopCombs (fun o => o.slot == k) st).tagSlot k = y := by
    unfold State.tagSlot
    rw [stopCombs_led]
    exact tagSlot_setTag_same hs
  have hholds : ((s.setTag k y).stopCombs (fun o => o.slot == k) st).tagHolds y = s.tagHolds y := by
    unfold State.tagHolds
    simp only [readRow_congr (show ((s.setTag k y).stopCombs (fun o => o.slot == k) st).entries = s.entries from stopCombs_entries _ _ st)]
  unfold State.endTag
  generalize (s.setTag k y).stopCombs (fun o => o.slot == k) st = u at *
  cases hheld : s.tagHolds y with
  | true => 
    rw [settleTag_waits (.inr (by rw [hslot, hholds, hheld])), if_pos rfl, hslot]
  | false =>
    rw [settleTag_frees (by rw [hslot, hst]) (by rw [hslot, hdone]) (by rw [hslot, hholds, hheld]), freeSlot_tagSlot hu]
    rfl

theorem endTag_other {j : Nat} (hj : j ≠ k) : (s.endTag k y st).tagSlot j = s.tagSlot j := by
  have hslot : ((s.setTag k y).stopCombs (fun o => o.slot == k) st).tagSlot j = s.tagSlot j := by
    unfold State.tagSlot
    rw [stopCombs_led]
    exact tagSlot_setTag_other hj
  unfold State.endTag
  rcases settleTag_cases ((s.setTag k y).stopCombs (fun o => o.slot == k) st) k with h | h <;> rw [h]
  · exact hslot
  · exact (freeSlot_tagSlot_other hj).trans hslot

/-- The blocks that are held are those of the slots. -/
theorem heldBlocks_mem (hs : s.Sound) {b : Nat} (hb : b ∈ s.heldBlocks) : ∃ j, b ∈ (s.tagSlot j).blocks := by
  obtain ⟨y, hy, hb⟩ := List.mem_flatMap.mp hb
  obtain ⟨e, he, rfl⟩ := List.mem_map.mp hy
  have hget : s.tagSlot e.1 = e.2 := Tbl.get_entry (Tbl.nodup_keys (Tbl.rising_of_wfFrom hs.tags_wf).1) he
  exact ⟨e.1, hget ▸ hb⟩

end TagsAndCombines

end Sys2Proof.Machine

/-! SUPPORT. What an accepted tag or combine descriptor leaves: its completion, its slot with the rows, and its operation (R201 to R203, R207,
R218, R220, R225; logs 11, 76, 134). -/

namespace Sys2Proof.Machine

open Sys2Proof

section AcceptedDescriptors

variable {s t u v : State} {x y : TagSlot} {d : Desc} {k p q op nopen : Nat} {o : CombOp} {mine : CombOp → Bool} {st : Option CStatus}
  {left : Nat → EntryRead} {c : OpClass}

/-! ## The ports get completions, and nothing else (R255) -/

/-- Each port of `t` is that of `s`, but for the completions that wait at it. -/
def PortsKept (s t : State) : Prop := ∀ q, ∃ done, t.port q = { s.port q with done := done }

theorem PortsKept.of_ports (h : t.ports = s.ports) : PortsKept s t := fun q => ⟨(s.port q).done, port_congr h q⟩

theorem PortsKept.trans (h : PortsKept s t) (h' : PortsKept t u) : PortsKept s u := fun q => by
  obtain ⟨done, ht⟩ := h q
  obtain ⟨done', hu⟩ := h' q
  exact ⟨done', by rw [hu, ht]⟩

theorem portsKept_pushDone (hs : s.Sound) (p : Nat) (z : Done) : PortsKept s (s.pushDone p z) := fun q => by
  by_cases h : q = p
  · subst h
    exact ⟨_, port_pushDone_same hs⟩
  · exact ⟨_, port_pushDone_other h⟩

/-- The completion of an operation, where its endpoint has not been reset (R275). -/
def State.pushOutcome (s : State) (o : CombOp) : State := if o.live then s.pushDone o.pos o.outcome else s

theorem pushOutcome_sound (hs : s.Sound) (o : CombOp) : (s.pushOutcome o).Sound := by
  unfold State.pushOutcome
  split
  · exact pushDone_sound hs
  · exact hs

theorem pushOutcomes_sound (hs : s.Sound) (l : List CombOp) : (forEach l (fun o t => t.pushOutcome o) s).Sound := by
  unfold forEach
  induction l generalizing s with
  | nil => exact hs
  | cons o l ih => exact ih (pushOutcome_sound hs o)

theorem portsKept_pushOutcomes (hs : s.Sound) (l : List CombOp) : PortsKept s (forEach l (fun o t => t.pushOutcome o) s) := by
  unfold forEach
  induction l generalizing s with
  | nil => exact PortsKept.of_ports rfl
  | cons o l ih =>
    refine PortsKept.trans (t := s.pushOutcome o) ?_ (ih (pushOutcome_sound hs o))
    unfold State.pushOutcome
    split
    · exact portsKept_pushDone hs _ _
    · exact PortsKept.of_ports rfl

/-- The state in which the finished operations have left. -/
def State.withoutFinished (s : State) : State := { s with ops := { s.ops with combs := s.ops.combs.filter (fun o => !o.finished) } }

theorem withoutFinished_sound (hs : s.Sound) : s.withoutFinished.Sound := { hs with }

theorem finishCombs_pushes (s : State) : s.finishCombs = forEach (s.ops.combs.filter CombOp.finished) (fun o t => t.pushOutcome o) s.withoutFinished := rfl

theorem portsKept_finishCombs (hs : s.Sound) : PortsKept s s.finishCombs := by
  rw [finishCombs_pushes]
  exact PortsKept.trans (t := s.withoutFinished) (PortsKept.of_ports rfl) (portsKept_pushOutcomes (withoutFinished_sound hs) _)

theorem portsKept_stopCombs (hs : s.Sound) (mine : CombOp → Bool) (st : Option CStatus) : PortsKept s (s.stopCombs mine st) :=
  portsKept_finishCombs (s := { s with ops := { s.ops with combs := mapIf mine (fun o => o.stop st) s.ops.combs } }) { hs with }

theorem portsKept_settleTag (s : State) (k : Nat) : PortsKept s (s.settleTag k) := by
  rcases settleTag_cases s k with h | h <;> rw [h]
  · exact PortsKept.of_ports rfl
  · exact PortsKept.of_ports rfl

theorem setTag_sound (hs : s.Sound) : (s.setTag k y).Sound := (kept_setTag k y (sound_kept hs)).sound

theorem portsKept_endTag (hs : s.Sound) (k : Nat) (y : TagSlot) (st : Option CStatus) : PortsKept s (s.endTag k y st) :=
  (PortsKept.trans (t := s.setTag k y) (PortsKept.of_ports rfl) (portsKept_stopCombs (setTag_sound hs) _ st)).trans (portsKept_settleTag _ k)

/-! ## The two tag descriptors -/

/-- What an accepted `TAG_RELEASE` or `TAG_CANCEL` does to its tag. -/
def State.tagEnded (s : State) (op k : Nat) : State := if op = 0x21 then s.releaseTag k else s.cancelTag k

theorem tagEnded_sound (hs : s.Sound) (op k : Nat) : (s.tagEnded op k).Sound := by
  unfold State.tagEnded
  split
  · exact (kept_releaseTag k (sound_kept hs)).sound
  · exact (kept_cancelTag k (sound_kept hs)).sound

theorem onlyFairlead_tagEnded (s : State) (op k : Nat) : OnlyFairlead s (s.tagEnded op k) :=
  onlyFairlead_ite (onlyFairlead_releaseTag s k) (onlyFairlead_cancelTag s k)

theorem OnlyEntries.ports (h : OnlyEntries s t) : t.ports = s.ports := by rw [h]

theorem releaseRows_sound (hs : s.Sound) (k : Nat) : (s.releaseRows k).Sound :=
  (kept_forEach (fun r _ ht => kept_ite (fun _ => kept_writeRow _ r 0 ht) (fun _ => ht)) (sound_kept hs)).sound

theorem cancelTag_routes (h : (s.tagSlot k).st = .live) (hdone : (s.tagSlot k).routeDone = false) (hs : s.Sound) :
    (s.cancelTag k).tagSlot k = { s.tagSlot k with st := .quarantine, routeCancelled := true } ∧
      (∀ j, j ≠ k → (s.cancelTag k).tagSlot j = s.tagSlot j) ∧ (s.cancelTag k).led.die = s.led.die ∧ (s.cancelTag k).mem = s.mem := by
  rw [cancelTag_routing h hdone]
  have hled := stopCombs_led (s.setTag k { s.tagSlot k with st := .quarantine, routeCancelled := true }) (fun o => o.slot == k) none
  have hmem := stopCombs_mem (s.setTag k { s.tagSlot k with st := .quarantine, routeCancelled := true }) (fun o => o.slot == k) none
  generalize (s.setTag k { s.tagSlot k with st := .quarantine, routeCancelled := true }).stopCombs (fun o => o.slot == k) none = u at *
  refine ⟨?_, fun j hj => ?_, ?_, hmem⟩
  · unfold State.tagSlot
    rw [hled]
    exact tagSlot_setTag_same hs
  · unfold State.tagSlot
    rw [hled]
    exact tagSlot_setTag_other hj
  · rw [hled]
    rfl

/-- A tag that ends is not live any more, and no other slot changes. -/
theorem endTag_slots (ho : OnlyEntries s u) (hu : u.Sound) (hst : y.st = .quarantine) (hdone : y.routeDone = true) (st : Option CStatus) :
    ((u.endTag k y st).tagSlot k).st ≠ .live ∧ ∀ j, j ≠ k → (u.endTag k y st).tagSlot j = s.tagSlot j := by
  refine ⟨?_, fun j hj => (endTag_other hj).trans (ho.tagSlot j)⟩
  rw [endTag_slot hu hst hdone]
  split
  · rw [hst]
    exact nofun
  · exact nofun

theorem tagEnded_slots (hs : s.Sound) (hlive : (s.tagSlot k).st = .live) (h : op = 0x21 → (s.tagSlot k).routeDone = true) :
    ((s.tagEnded op k).tagSlot k).st ≠ .live ∧ ∀ j, j ≠ k → (s.tagEnded op k).tagSlot j = s.tagSlot j := by
  unfold State.tagEnded
  split
  · next hop =>
    rw [releaseTag_ends]
    exact endTag_slots (y := { s.tagSlot k with st := .quarantine }) (onlyEntries_releaseRows s k) (releaseRows_sound hs k) rfl (h hop) _
  · cases hdone : (s.tagSlot k).routeDone with
    | true =>
      rw [cancelTag_ends hlive hdone]
      exact endTag_slots (y := s.cancelledSlot k) (onlyEntries_cancelRows s k) (cancelRows_sound hs k) rfl hdone _
    | false =>
      obtain ⟨hslot, hother, -⟩ := cancelTag_routes hlive hdone hs
      exact ⟨by rw [hslot]; exact nofun, hother⟩

theorem portsKept_tagEnded (hs : s.Sound) (hlive : (s.tagSlot k).st = .live) (op : Nat) : PortsKept s (s.tagEnded op k) := by
  unfold State.tagEnded
  split
  · rw [releaseTag_ends]
    exact (PortsKept.of_ports (onlyEntries_releaseRows s k).ports).trans (portsKept_endTag (releaseRows_sound hs k) k _ _)
  · cases hdone : (s.tagSlot k).routeDone with
    | true =>
      rw [cancelTag_ends hlive hdone]
      exact (PortsKept.of_ports (onlyEntries_cancelRows s k).ports).trans (portsKept_endTag (cancelRows_sound hs k) k _ _)
    | false =>
      rw [cancelTag_routing hlive hdone]
      exact PortsKept.trans (t := s.setTag k { s.tagSlot k with st := .quarantine, routeCancelled := true }) (PortsKept.of_ports rfl)
        (portsKept_stopCombs (setTag_sound hs) _ none)

/-- Whether a row's read says that the row is held, and that it is open. -/
def EntryRead.held : EntryRead → Bool
  | .entry e => leState e != lsFree
  | _ => true

def EntryRead.isOpen : EntryRead → Bool
  | .entry e => leOpen e
  | _ => false

theorem rowIs_leOpen (s : State) (x : TagSlot) (r : Nat) : s.rowIs x r leOpen = (s.readRow x r).isOpen := by
  unfold State.rowIs State.rowEntry
  cases s.readRow x r <;> rfl

/-- The slot's last form, by the rows that are left: what each of the two descriptors leaves of a tag whose `ROUTE` is complete. -/
structure TagLeft (s t : State) (k : Nat) (left : Nat → EntryRead) (y : TagSlot) : Prop where
  rows : ∀ n < (s.tagSlot k).ntok, t.readRow (s.tagSlot k) n = left n
  slot : t.tagSlot k = if (List.range (s.tagSlot k).ntok).any (fun n => (left n).held) then y else tagDefault 0
  others : ∀ j, j ≠ k → t.tagSlot j = s.tagSlot j

theorem any_range_congr {f g : Nat → Bool} {n : Nat} (h : ∀ i < n, f i = g i) : (List.range n).any f = (List.range n).any g := by
  rw [Bool.eq_iff_iff, List.any_eq_true, List.any_eq_true]
  exact exists_congr fun i => and_congr_right fun hi => by rw [h i (List.mem_range.mp hi)]

/-- A tag that ends with its rows as a loop over them left them. -/
theorem endTag_left (ho : OnlyEntries s u) (hu : u.Sound) (hdone : (s.tagSlot k).routeDone = true)
    (hrows : ∀ n < (s.tagSlot k).ntok, u.readRow (s.tagSlot k) n = left n) (nopen : Nat) (st : Option CStatus) :
    TagLeft s (u.endTag k { s.tagSlot k with st := .quarantine, nopen := nopen } st) k left { s.tagSlot k with st := .quarantine, nopen := nopen } := by
  refine ⟨fun n hn => (readRow_congr (endTag_entries u k _ st) _ n).trans (hrows n hn), ?_, fun j hj => (endTag_other hj).trans (ho.tagSlot j)⟩
  have hholds : u.tagHolds { s.tagSlot k with st := .quarantine, nopen := nopen } =
      (List.range (s.tagSlot k).ntok).any (fun n => (left n).held) :=
    any_range_congr (f := fun n => (u.readRow (s.tagSlot k) n).held) (fun n hn => by rw [hrows n hn])
  rw [endTag_slot (y := { s.tagSlot k with st := .quarantine, nopen := nopen }) hu rfl hdone, hholds]

theorem cancelTag_left (hs : s.Sound) (hlive : (s.tagSlot k).st = .live) (h : RowsApart s (s.tagSlot k)) :
    TagLeft s (s.cancelTag k) k (s.cancelledRow k (s.tagSlot k)) { s.tagSlot k with
      st := .quarantine
      nopen := ((List.range (s.tagSlot k).ntok).filter (fun n => (s.cancelledRow k (s.tagSlot k) n).isOpen)).length } := by
  have hrows := fun n hn => cancelRows_reads (n := n) hs h hn
  have hopens : (List.range (s.tagSlot k).ntok).filter (fun r => (s.cancelRows k).rowIs (s.tagSlot k) r leOpen) =
      (List.range (s.tagSlot k).ntok).filter (fun n => (s.cancelledRow k (s.tagSlot k) n).isOpen) :=
    List.filter_congr (fun n hn => by rw [rowIs_leOpen, hrows n (List.mem_range.mp hn)])
  rw [cancelTag_ends hlive h.done, State.cancelledSlot, hopens]
  exact endTag_left (onlyEntries_cancelRows s k) (cancelRows_sound hs k) h.done hrows _ none

theorem releaseTag_left (hs : s.Sound) (h : RowsApart s (s.tagSlot k)) :
    TagLeft s (s.releaseTag k) k (s.releasedRow (s.tagSlot k)) { s.tagSlot k with st := .quarantine } :=
  endTag_left (onlyEntries_releaseRows s k) (releaseRows_sound hs k) h.done (fun _ hn => releaseRows_reads hs h hn) _ _

/-- What either descriptor leaves of a tag whose `ROUTE` is complete. -/
theorem tagEnded_left (hs : s.Sound) (hlive : (s.tagSlot k).st = .live) (h : RowsApart s (s.tagSlot k)) (hop : op = 0x21 ∨ op = 0x22) :
    let left := fun n => if op = 0x22 then s.cancelledRow k (s.tagSlot k) n else s.releasedRow (s.tagSlot k) n
    TagLeft s (s.tagEnded op k) k left { s.tagSlot k with
      st := .quarantine
      nopen := if op = 0x22 then ((List.range (s.tagSlot k).ntok).filter (fun n => (left n).isOpen)).length else (s.tagSlot k).nopen } := by
  rcases hop with rfl | rfl
  · exact releaseTag_left hs h
  · exact cancelTag_left hs hlive h

/-- The blocks of a slot that is free belong to no tag (log 11). -/
theorem TagLeft.blocks (h : TagLeft s t k left y) (ht : t.Sound) (hfree : (List.range (s.tagSlot k).ntok).any (fun n => (left n).held) = false)
    {b : Nat} (hb : b ∈ t.heldBlocks) : ∃ j, j ≠ k ∧ b ∈ (s.tagSlot j).blocks := by
  obtain ⟨j, hj⟩ := heldBlocks_mem ht hb
  by_cases hjk : j = k
  · rw [hjk, h.slot, hfree] at hj
    exact absurd hj List.not_mem_nil
  · exact ⟨j, hjk, h.others j hjk ▸ hj⟩

end AcceptedDescriptors

end Sys2Proof.Machine

/-! SUPPORT. The checks that an accepted tag or combine descriptor has passed, and the operation that begins (R201, R218, R220, R223, R225). -/

namespace Sys2Proof.Machine

open Sys2Proof

section AcceptedOperations

variable {s t u v : State} {x y : TagSlot} {d : Desc} {k p q op : Nat} {o : CombOp} {c : OpClass}

/-! ## What the checks of Table 9-10 say -/

theorem validate_passes (h : s.validate p d = none) (hc : opClass (dOpcode d) = some c) :
    s.checkFields p d c = none ∧ s.checkState p d c = none := by
  unfold State.validate at h
  rw [hc] at h
  split at h
  · exact absurd h nofun
  · next heq => exact absurd heq nofun
  · next heq =>
    cases heq
    split at h
    · exact absurd h nofun
    · next hfields =>
      split at h
      · exact absurd h nofun
      · exact ⟨hfields, Option.map_eq_none_iff.mp h⟩

/-- The descriptor names a tag that is live, and its checks have passed. -/
theorem checkState_names (h : s.checkState p d c = none) (hc : c = .tag ∨ c = .combine) :
    ∃ k, s.findTag (dTag d) = some k ∧ s.checkTag d k = none := by
  unfold State.checkState at h
  rcases hc with rfl | rfl
  all_goals
    dsimp only at h
    cases hk : s.findTag (dTag d) with
    | none =>
      rw [hk] at h
      exact absurd h nofun
    | some k =>
      refine ⟨k, rfl, ?_⟩
      rw [hk] at h
      cases hcheck : s.checkTag d k with
      | none => rfl
      | some st =>
        simp only [hcheck] at h
        exact absurd h nofun

theorem checkTag_live (h : s.checkTag d k = none) : (s.tagSlot k).st = .live := by
  by_contra hst
  unfold State.checkTag at h
  rw [if_pos hst] at h
  exact absurd h nofun

/-- The `ROUTE` of a tag that is released has completed (R201). -/
theorem checkTag_released (h : s.checkTag d k = none) (hop : dOpcode d = 0x21) : (s.tagSlot k).routeDone = true := by
  have hlive := checkTag_live h
  unfold State.checkTag at h
  dsimp only at h
  rw [if_neg (not_not_intro hlive), if_neg (by rw [hop]; decide), if_pos hop] at h
  by_contra hdone
  rw [if_pos (by simp [TagSlot.isOpen, Bool.not_eq_true _ ▸ hdone])] at h
  exact absurd h nofun

theorem rangesOk_of_checkFields (h : s.checkFields p d c = none) : rangesOk d c = true := by
  by_contra hranges
  unfold State.checkFields at h
  rw [Bool.not_eq_true] at hranges
  simp only [hranges, if_true] at h
  split at h
  · exact absurd h nofun
  · split at h <;> exact absurd h nofun

/-- An operation of the combine class names a token. -/
theorem one_le_dNtok (h : rangesOk d .combine = true) : 1 ≤ dNtok d := by
  simp only [rangesOk, Bool.and_eq_true, decide_eq_true_eq] at h
  exact h.1.1.2

/-! ## The descriptors of tags -/

theorem accepts_tag (h : s.Accepts p op) (hop : op = 0x21 ∨ op = 0x22) : let k := (s.findTag (dTag (s.slotDesc p))).getD 0
    (s.tagSlot k).st = .live ∧ (op = 0x21 → (s.tagSlot k).routeDone = true) ∧
      s.submit p (hasOp op) = .next (((s.modPort p Port.readSlot).tagEnded op k).pushDone p (doneOf (s.slotDesc p) .ok Tally.zero 0 0 true none)) := by
  have hrow := submit_accepts (mine := hasOp op) h (by simp [hasOp, h.2.1])
  obtain ⟨-, hopcode, -, hvalid, -⟩ := h
  have hclass : opClass (dOpcode (s.slotDesc p)) = some .tag := by
    rw [hopcode]
    rcases hop with rfl | rfl <;> rfl
  obtain ⟨k, hk, hcheck⟩ := checkState_names (validate_passes hvalid hclass).2 (.inl rfl)
  rw [hk]
  refine ⟨checkTag_live hcheck, fun h21 => checkTag_released hcheck (hopcode.trans h21), ?_⟩
  have hfind : (s.modPort p Port.readSlot).findTag (dTag (s.slotDesc p)) = some k := hk
  rw [hrow, State.accept, hclass]
  simp only [State.acceptTag, hfind, hopcode, Option.getD_some, State.tagEnded]

/-! ## The operations of the combine class (R220, R223, R225) -/

/-- The operation that an accepted descriptor begins. -/
def State.begunComb (s : State) (p : Nat) (d : Desc) (k : Nat) : CombOp :=
  let x := s.tagSlot k
  let toks := combTokens d
  let is : (BitVec 160 → Bool) → List Nat := fun t => toks.filter (fun n => s.rowIs x (n - x.tokBase) t)
  let unreadable := toks.filter (fun n => (s.rowEntry x (n - x.tokBase)).isNone)
  { id := s.ops.nextId, pos := p, desc := d, ring := (s.port p).lastRead, slot := k, tokBase := x.tokBase
    served := if standing d then is (fun e => leState e == lsCombined) else []
    lanes := [], ready := if standing d then toks.filter (fun n => (is leReady ++ unreadable).contains n) else toks
    ncancel := 0, tally := Tally.zero, cause := none, limit := standing d && s.policy 0x13 ≠ 0, live := true }

/-- The state in which an operation has been added to the others. -/
def State.withComb (s : State) (o : CombOp) : State := { s with ops := { s.ops with combs := s.ops.combs ++ [o], nextId := s.ops.nextId + 1 } }

theorem startComb_begins (s : State) (p : Nat) (d : Desc) (k : Nat) : s.startComb p d k = (s.withComb (s.begunComb p d k)).finishCombs := rfl

theorem withComb_sound (hs : s.Sound) (o : CombOp) : (s.withComb o).Sound := { hs with }

/-- An operation that is added and not finished stands among the others. -/
theorem withComb_stands (h : o.finished = false) : o ∈ (s.withComb o).finishCombs.ops.combs := by
  rw [finishCombs_eq]
  exact List.mem_filter.mpr ⟨List.mem_append_right _ (List.mem_singleton_self o), by simp [h]⟩

/-- One that is finished completes last. -/
theorem withComb_completes (hs : s.Sound) (h : o.finished = true) (hlive : o.live = true) :
    ((s.withComb o).finishCombs.port o.pos).done.getLast? = some o.outcome := by
  have hfinished : (s.withComb o).ops.combs.filter CombOp.finished = s.ops.combs.filter CombOp.finished ++ [o] := by
    simp [State.withComb, List.filter_append, h]
  have hsound := pushOutcomes_sound (withoutFinished_sound (withComb_sound hs o)) (s.ops.combs.filter CombOp.finished)
  rw [finishCombs_pushes, hfinished, forEach, List.foldl_append]
  unfold forEach at hsound
  generalize (s.ops.combs.filter CombOp.finished).foldl (fun t o => t.pushOutcome o) (s.withComb o).withoutFinished = u at hsound ⊢
  have hpush : u.pushOutcome o = u.pushDone o.pos o.outcome := if_pos hlive
  rw [List.foldl_cons, List.foldl_nil, hpush, port_pushDone_same hsound]
  simp

/-- An operation that has just begun is finished when each of its tokens has been served. -/
theorem begunComb_finished (s : State) (p : Nat) (d : Desc) (k : Nat) :
    (s.begunComb p d k).finished = true ↔ ∀ n ∈ combTokens d, n ∈ (s.begunComb p d k).served := by
  have hrest : (s.begunComb p d k).rest = (combTokens d).filter (fun n => !(s.begunComb p d k).served.contains n) := by
    simp [CombOp.rest, State.begunComb]
  have hlanes : (s.begunComb p d k).lanes = [] := rfl
  have hcause : (s.begunComb p d k).cause = none := rfl
  simp [CombOp.finished, hlanes, hcause, hrest]

/-- The tokens that a standing `COMBINE` finds `COMBINED`. -/
def State.combinedTokens (s : State) (d : Desc) (k : Nat) : List Nat :=
  (combTokens d).filter (fun n => s.rowIs (s.tagSlot k) (n - (s.tagSlot k).tokBase) (fun e => leState e == lsCombined))

theorem begunComb_served (s : State) (p : Nat) (d : Desc) (k : Nat) :
    (s.begunComb p d k).served = if standing d then s.combinedTokens d k else [] := rfl

theorem begunComb_ready (hst : standing d = false) : (s.begunComb p d k).ready = combTokens d := by simp [State.begunComb, hst]

theorem begunComb_outcome (s : State) (p : Nat) (d : Desc) (k : Nat) :
    (s.begunComb p d k).outcome = doneOf d .ok Tally.zero 0 0 true none := by
  simp [CombOp.outcome, State.begunComb]

/-- An operation that stands for no entry names a token that it has not served. -/
theorem begunComb_unserved (hst : standing d = false) (hn : 1 ≤ dNtok d) : (s.begunComb p d k).finished = false := by
  rw [Bool.eq_false_iff, ne_eq, begunComb_finished, begunComb_served, hst]
  exact fun h => List.not_mem_nil (h (dTokFirst d + 0) (List.mem_map_of_mem (List.mem_range.mpr hn)))

/-- A standing `COMBINE` is complete at once when all of its entries are `COMBINED`. -/
theorem begunComb_standing (hst : standing d = true) : (s.begunComb p d k).finished = true ↔ s.combinedTokens d k = combTokens d := by
  rw [begunComb_finished, begunComb_served, hst, if_pos rfl]
  unfold State.combinedTokens
  rw [List.filter_eq_self]
  exact forall₂_congr fun n hn => by simp [List.mem_filter, hn]

theorem accepts_combine (h : s.Accepts p op) (hop : op = 0x28 ∨ op = 0x29 ∨ op = 0x2A) : let k := (s.findTag (dTag (s.slotDesc p))).getD 0
    1 ≤ dNtok (s.slotDesc p) ∧ s.submit p (hasOp op) = .next ((s.modPort p Port.readSlot).startComb p (s.slotDesc p) k) := by
  have hrow := submit_accepts (mine := hasOp op) h (by simp [hasOp, h.2.1])
  obtain ⟨-, hopcode, -, hvalid, -⟩ := h
  have hclass : opClass (dOpcode (s.slotDesc p)) = some .combine := by
    rw [hopcode]
    rcases hop with rfl | rfl | rfl <;> rfl
  refine ⟨one_le_dNtok (rangesOk_of_checkFields (validate_passes hvalid hclass).1), ?_⟩
  rw [hrow, State.accept, hclass]
  rfl

/-! ## The obligation -/

theorem tagRow_submits {r : Instr × Nat} {p : Pos} (hr : r ∈ [(Instr.tagRelease p, 0x21), (.tagCancel p, 0x22)]) :
    exec r.1 s = s.submit p (hasOp r.2) ∧ (r.2 = 0x21 ∨ r.2 = 0x22) := by
  simp only [List.mem_cons, List.not_mem_nil, or_false] at hr
  rcases hr with rfl | rfl
  · exact ⟨rfl, .inl rfl⟩
  · exact ⟨rfl, .inr rfl⟩

theorem combineRow_submits {r : Instr × Nat} {p : Pos} (hr : r ∈ [(Instr.combine p, 0x28), (.uncombine p, 0x29), (.gategrad p, 0x2A)]) :
    exec r.1 s = s.submit p (hasOp r.2) ∧ (r.2 = 0x28 ∨ r.2 = 0x29 ∨ r.2 = 0x2A) := by
  simp only [List.mem_cons, List.not_mem_nil, or_false] at hr
  rcases hr with rfl | rfl | rfl
  · exact ⟨rfl, .inl rfl⟩
  · exact ⟨rfl, .inr (.inl rfl)⟩
  · exact ⟨rfl, .inr (.inr rfl)⟩

/-- Settles O7: the two tag descriptors by how their tag ends, and the operations of the combine class by whether they are finished as they begin. -/
theorem tagAndCombineDescriptorsAreAccepted : Obligations.TagAndCombineDescriptorsAreAccepted := by
  unfold Obligations.TagAndCombineDescriptorsAreAccepted
  refine ⟨fun s p hs r hr hacc => ?_, fun s p hs hlost r hr hacc => ?_, fun s p hs r hr hacc => ?_⟩
  · obtain ⟨hexec, hop⟩ := tagRow_submits (s := s) hr
    obtain ⟨hlive, hdone, hsub⟩ := accepts_tag hacc hop
    intro d k
    have hs' : (s.modPort p Port.readSlot).Sound := modPort_sound hs
    have hports := portsKept_tagEnded (k := k) hs' hlive r.2
    have hslots := tagEnded_slots (k := k) (op := r.2) hs' hlive hdone
    have honly := onlyFairlead_tagEnded (s.modPort p Port.readSlot) r.2 k
    have hsound := tagEnded_sound hs' r.2 k
    have hroute : r.2 = 0x22 ∧ (s.tagSlot k).routeDone = false → _ := fun h => cancelTag_routes (s := s.modPort p Port.readSlot) hlive h.2 hs'
    have hcancel : r.2 = 0x22 → (s.modPort p Port.readSlot).tagEnded r.2 k = (s.modPort p Port.readSlot).cancelTag k := fun h => by rw [h]; rfl
    refine ⟨_, hexec.trans hsub, ?_⟩
    change let t := ((s.modPort p Port.readSlot).tagEnded r.2 k).pushDone p (doneOf d .ok Tally.zero 0 0 true none); _
    generalize (s.modPort p Port.readSlot).tagEnded r.2 k = v at *
    obtain ⟨done, hport⟩ := hports p
    have hdoneport : (v.pushDone p (doneOf d .ok Tally.zero 0 0 true none)).port p = _ := port_pushDone_same hsound
    have hread : (s.modPort p Port.readSlot).port p = (s.port p).readSlot := port_modPort_same hs
    refine ⟨?_, ?_, hslots.1, hslots.2, fun h => ?_, ?_, ?_, ?_, ?_, ?_, ?_⟩
    · rw [hdoneport]
      simp
    · rw [hdoneport, hport, hread]
      rfl
    · obtain ⟨hslot, -, hdie, hmem⟩ := hroute h
      rw [hcancel h.1]
      exact ⟨hslot, hdie, hmem⟩
    all_goals
      rw [honly]
      rfl
  · obtain ⟨hexec, hop⟩ := tagRow_submits (s := s) hr
    obtain ⟨hlive, -, hsub⟩ := accepts_tag hacc hop
    intro k x cancelled left holds opens hdone hdistinct hroom
    have hs' : (s.modPort p Port.readSlot).Sound := modPort_sound hs
    have h := tagEnded_left (s := s.modPort p Port.readSlot) (k := k) hs' hlive ⟨hlost, hdone, hdistinct, hroom⟩ hop
    have hsound := tagEnded_sound hs' r.2 k
    exact ⟨_, hexec.trans hsub, h.rows, h.slot, fun hfree b hb => h.blocks hsound hfree hb, h.others⟩
  · obtain ⟨hexec, hop⟩ := combineRow_submits (s := s) hr
    obtain ⟨hn, hsub⟩ := accepts_combine hacc hop
    intro d k x served
    have hs' : (s.modPort p Port.readSlot).Sound := modPort_sound hs
    have hread : (s.modPort p Port.readSlot).port p = (s.port p).readSlot := port_modPort_same hs
    rw [startComb_begins] at hsub
    refine ⟨_, hexec.trans hsub, ?_, ?_, fun hst => ?_, fun h => ?_, fun h => ?_, ?_, ?_, ?_, ?_, ?_, ?_⟩
    · rw [finishCombs_eq]
      rfl
    · obtain ⟨done, hport⟩ := portsKept_finishCombs (withComb_sound hs' ((s.modPort p Port.readSlot).begunComb p d k)) p
      have hsame : ((s.modPort p Port.readSlot).withComb ((s.modPort p Port.readSlot).begunComb p d k)).port p = (s.port p).readSlot := hread
      rw [hport, hsame]
      rfl
    · refine ⟨_, withComb_stands (begunComb_unserved hst hn), rfl, rfl, rfl, rfl, ?_, ?_, rfl⟩
      · exact begunComb_ready hst
      · rw [begunComb_served, hst]
        rfl
    · obtain ⟨hst, hne⟩ := h
      refine ⟨_, withComb_stands ?_, rfl, rfl, rfl, rfl, ?_, rfl⟩
      · rw [Bool.eq_false_iff, ne_eq, begunComb_standing hst]
        exact hne
      · rw [begunComb_served, hst]
        rfl
    · obtain ⟨hst, hall⟩ := h
      rw [← begunComb_outcome (s.modPort p Port.readSlot) p d k]
      exact withComb_completes hs' ((begunComb_standing hst).mpr hall) rfl
    all_goals
      rw [finishCombs_eq]
      rfl

end AcceptedOperations

end Sys2Proof.Machine

/-! SUPPORT. Sends and the reports on their targets: what settles a target, and what the last one does (R244, R245). -/

namespace Sys2Proof.Machine

open Sys2Proof

section Reports

variable {s t u : State} {id target l : Nat} {x : Send} {f : Send → Send} {origin : BitVec 25} {hseq : BitVec 32} {v : BitVec 50}

/-! ## A change of one send -/

theorem mapIf_absent {α : Type} {p : α → Bool} {g : α → α} {l : List α} (h : ∀ a ∈ l, p a = false) : mapIf p g l = l :=
  (List.map_congr_left fun a ha => by rw [h a ha]; rfl).trans (List.map_id l)

/-- Where the changed entries are dropped before and after the change, the same are left. -/
theorem filter_mapIf {α : Type} {p keep : α → Bool} {g : α → α} (h : ∀ a, p a = true → keep a = false ∧ keep (g a) = false) (l : List α) :
    (mapIf p g l).filter keep = l.filter keep := by
  induction l with
  | nil => rfl
  | cons a l ih =>
    unfold mapIf at ih ⊢
    rw [List.map_cons, List.filter_cons, List.filter_cons, ih]
    cases ha : p a with
    | true => simp [h a ha]
    | false => rfl

theorem sendId_absent (h : ∀ x ∈ s.ops.sends, x.id ≠ id) : ∀ x ∈ s.ops.sends, (x.id == id) = false := fun x hx => beq_eq_false_iff_ne.mpr (h x hx)

theorem modSend_absent (h : ∀ x ∈ s.ops.sends, x.id ≠ id) (f : Send → Send) : s.modSend id f = s := by
  unfold State.modSend
  rw [mapIf_absent (sendId_absent h)]

theorem settleSend_absent (h : ∀ x ∈ s.ops.sends, x.id ≠ id) : s.settleSend id = s := by
  have hnone : s.ops.sends.find? (fun x => x.id == id) = none :=
    List.find?_eq_none.mpr fun x hx => by simp [sendId_absent h x hx]
  unfold State.settleSend
  rw [hnone]

theorem find_modSend (hf : ∀ x, (f x).id = x.id) (hx : s.ops.sends.find? (fun x => x.id == id) = some x) :
    (s.modSend id f).ops.sends.find? (fun x => x.id == id) = some (f x) := by
  have hid : (x.id == id) = true := List.find?_some (p := fun x : Send => x.id == id) hx
  refine (find?_mapIf (p := fun x : Send => x.id == id) (fun y _ => by rw [hf]) s.ops.sends).trans ?_
  rw [hx, Option.map_some, if_pos hid]

/-! ## The completion of a send (R244) -/

/-- What a send that completes as `x` leaves: `DMAP`, and its completion. -/
def SendDone (s : State) (id : Nat) (x : Send) (t : State) : Prop :=
  t.mem = (s.writeDmap x).mem ∧ t.ops.sends = s.ops.sends.filter (fun y => y.id ≠ id) ∧ t = { s with mem := t.mem, ports := t.ports, ops := t.ops } ∧
    (x.live = true → t.port x.pos = { s.port x.pos with done := (s.port x.pos).done ++
      [doneOf x.desc (if x.targets.all Target.delivered then .ok else .short) Tally.zero (x.targets.filter (fun k => !k.delivered)).length 0 true none] })

/-- The state without a send. -/
def State.withoutSend (s : State) (id : Nat) : State := { s with ops := { s.ops with sends := s.ops.sends.filter (fun y => y.id ≠ id) } }

theorem endSend_live {st : CStatus} (h : x.live = true) : s.endSend x st =
    (s.withoutSend x.id).pushDone x.pos (doneOf x.desc st Tally.zero (x.targets.filter (fun k => !k.delivered)).length 0 true none) := if_pos h

theorem endSend_silent {st : CStatus} (h : x.live = false) : s.endSend x st = s.withoutSend x.id := if_neg (by simp [h])

theorem settleSend_waits (hx : s.ops.sends.find? (fun x => x.id == id) = some x) (hall : x.targets.all Target.isSettled = false) :
    s.settleSend id = s := by
  unfold State.settleSend
  rw [hx]
  exact if_neg (by simp [hall])

theorem settleSend_ends (hx : s.ops.sends.find? (fun x => x.id == id) = some x) (hall : x.targets.all Target.isSettled = true) :
    s.settleSend id = (s.writeDmap x).endSend x (if x.targets.all Target.delivered then .ok else .short) := by
  unfold State.settleSend
  rw [hx]
  exact if_pos hall

theorem settleSend_done (hs : s.Sound) (hx : s.ops.sends.find? (fun x => x.id == id) = some x) (hall : x.targets.all Target.isSettled = true) :
    SendDone s id x (s.settleSend id) := by
  obtain rfl : x.id = id := beq_iff_eq.mp (List.find?_some (p := fun x : Send => x.id == id) hx)
  have hwrite : (s.writeDmap x).Sound := (kept_writeDmap x (sound_kept hs)).sound
  rw [settleSend_ends hx hall]
  cases hlive : x.live with
  | true =>
    rw [endSend_live hlive]
    exact ⟨rfl, rfl, rfl, fun _ => port_pushDone_same (s := (s.writeDmap x).withoutSend x.id) hwrite⟩
  | false =>
    rw [endSend_silent hlive]
    exact ⟨rfl, rfl, rfl, fun h => absurd (hlive.symm.trans h) Bool.false_ne_true⟩

/-- A change that settles the last target of a send completes it. -/
theorem modSend_completes (hs : s.Sound) (hf : ∀ x, (f x).id = x.id) (hx : s.ops.sends.find? (fun x => x.id == id) = some x)
    (hall : (f x).targets.all Target.isSettled = true) : SendDone s id (f x) ((s.modSend id f).settleSend id) := by
  obtain ⟨hmem, hsends, honly, hport⟩ := settleSend_done (s := s.modSend id f) hs (find_modSend hf hx) hall
  refine ⟨hmem, hsends.trans (filter_mapIf (fun y hy => ?_) s.ops.sends), honly, hport⟩
  simp [hf, beq_iff_eq.mp hy]

theorem modSend_waits (hf : ∀ x, (f x).id = x.id) (hx : s.ops.sends.find? (fun x => x.id == id) = some x)
    (hall : (f x).targets.all Target.isSettled = false) : (s.modSend id f).settleSend id = s.modSend id f :=
  settleSend_waits (find_modSend hf hx) hall

/-! ## What settles a target -/

/-- A reported target is settled. -/
def Target.settle (k : Target) : Target := match k.st with | .report b => { k with st := .settled b } | _ => k

/-- A report of this die settles its target of a send. -/
def Send.settleTarget (target : Nat) (x : Send) : Send := x.modTargets (fun k => k.index == target) Target.settle

theorem exec_deliveryReport_onDie (s : State) (id target : Nat) :
    exec (.deliveryReport id target .onDie) s = .next ((s.modSend id (Send.settleTarget target)).settleSend id) := rfl

/-- The report limit runs out: the targets off the die that are not settled are missing (R245). -/
def Send.outOfTime (x : Send) : Send :=
  { x.modTargets (fun k => !k.isHere && !k.isSettled) (fun k => { k with st := .settled false }) with limit := false }

/-- What an expiry of the report limit makes of a send. -/
def Send.expire (x : Send) : Send := if x.limit then x.outOfTime else x

theorem expire_id (x : Send) : x.expire.id = x.id := by
  unfold Send.expire
  split <;> rfl

theorem exec_hoistReportLimitExpiry_settles (s : State) (id : Nat) :
    exec (.hoistReportLimitExpiry id) s = .next ((s.modSend id Send.expire).settleSend id) := rfl

/-! ## Reports from other chips -/

/-- Taking a report touches its link alone. -/
theorem takeReport_setLnk (h : s.takeReport l = some (u, v)) : ∃ k, u = s.setLnk l k := by
  unfold State.takeReport at h
  dsimp only at h
  split at h
  · cases h
    exact ⟨_, rfl⟩
  · cases h
    exact ⟨_, rfl⟩
  · exact absurd h nofun

theorem deliveryReport_passes {l : PortNo} {rig : BitVec 25} {delivered : Bool} (hroot : s.rootStalled = false)
    (h : s.takeReport l = some (u, v)) (hchip : origin.toNat / 1024 ≠ s.topo.chip) :
    exec (.deliveryReport id target (.offDie l origin hseq rig delivered)) s =
      .next (u.sendReportFlit origin hseq (bits v 34 4) { fvcf := v, body := .hoistReport origin hseq rig delivered }) := by
  obtain ⟨k, rfl⟩ := takeReport_setLnk h
  rw [exec_deliveryReport, execDeliveryReport]
  simp only [hroot, h, Bool.false_eq_true, if_false]
  exact if_pos hchip

/-- A report for a send of this chip, by the send that still waits for it. -/
theorem deliveryReport_ends {l : PortNo} {rig : BitVec 25} {delivered : Bool} {o : Option Send} (hroot : s.rootStalled = false)
    (h : s.takeReport l = some (u, v)) (hchip : origin.toNat / 1024 = s.topo.chip)
    (ho : s.ops.sends.find? (fun x => x.id == id && x.msg.origin == origin && x.msg.hseq == hseq && x.targets.any (x.reported target rig)) = o) :
    exec (.deliveryReport id target (.offDie l origin hseq rig delivered)) s =
      .next (o.elim (u.bump cHoistLate 1)
        (fun x => (u.modSend id (fun y => y.modTargets (x.reported target rig) (fun k => { k with st := .settled delivered }))).settleSend id)) := by
  obtain ⟨k, rfl⟩ := takeReport_setLnk h
  rw [exec_deliveryReport, execDeliveryReport]
  simp only [hroot, h, Bool.false_eq_true, if_false, setLnk_topo, hchip, ne_eq, not_true, setLnk_ops, ho]
  cases o with
  | none => exact rfl
  | some x => exact rfl

end Reports

/-- Settles O28: a report and an expiry each change one send, which completes when that settles its last target. -/
theorem reportsSettleTargets : Obligations.ReportsSettleTargets := by
  unfold Obligations.ReportsSettleTargets
  intro s id target hs done settle
  refine ⟨fun h => ⟨?_, ?_⟩, fun x hx => ⟨⟨fun hall => ?_, fun hall => ?_⟩, fun hlimit hall => ?_, fun hlimit hall => ?_⟩,
    fun l origin hseq rig delivered h => ?_, fun l origin hseq rig delivered u v hroot h => ?_⟩
  · rw [exec_deliveryReport_onDie, modSend_absent h, settleSend_absent h]
  · rw [exec_hoistReportLimitExpiry_settles, modSend_absent h, settleSend_absent h]
  · exact ⟨_, exec_deliveryReport_onDie s id target, modSend_completes hs (fun _ => rfl) hx hall⟩
  · exact (exec_deliveryReport_onDie s id target).trans (congrArg _ (modSend_waits (fun _ => rfl) hx hall))
  · have hexp : x.expire = x.outOfTime := if_pos hlimit
    refine ⟨_, exec_hoistReportLimitExpiry_settles s id, ?_⟩
    have hdone := modSend_completes hs expire_id hx (hexp ▸ hall)
    rw [hexp] at hdone
    exact hdone
  · have hexp : x.expire = x.outOfTime := if_pos hlimit
    exact (exec_hoistReportLimitExpiry_settles s id).trans (congrArg _ (modSend_waits expire_id hx (hexp ▸ hall)))
  · have hnone : (if s.rootStalled then none else s.takeReport l) = none := by
      rcases h with h | h
      · rw [h]
        rfl
      · rw [h]
        exact ite_self _
    rw [exec_deliveryReport, execDeliveryReport]
    simp only [hnone, ok]
  · intro goesOn
    refine ⟨fun hchip => ?_, fun hchip hlate => ?_, fun hchip x hx => deliveryReport_ends hroot h hchip hx⟩
    · have hexec := deliveryReport_passes (id := id) (target := target) (hseq := hseq) (rig := rig) (delivered := delivered) hroot h hchip
      obtain ⟨k, rfl⟩ := takeReport_setLnk h
      refine ⟨fun tr htr => hexec.trans ?_, fun htr port hport => hexec.trans ?_⟩
      · have hback : (s.setLnk l k).trailOf origin hseq (bits v 34 4) = some tr := htr
        unfold State.sendReportFlit
        rw [hback]
      · have hback : (s.setLnk l k).trailOf origin hseq (bits v 34 4) = none := htr
        have hroute : (s.setLnk l k).routeTo (origin.toNat / 1024) = some port := hport
        unfold State.sendReportFlit
        rw [hback, hroute]
        rfl
    · refine deliveryReport_ends hroot h hchip (List.find?_eq_none.mpr fun x hx => ?_)
      simp only [Bool.and_eq_true, beq_iff_eq, not_and]
      rintro ⟨⟨hid, horigin⟩, hhseq⟩
      simp [hlate x hx hid horigin hhseq]

end Sys2Proof.Machine

/-! SUPPORT. What the operations of a holding node leave alone: a report, a hold's end, a duplicate or an oversized message, a delivery, a
withdrawal's end (R235 to R244). -/

namespace Sys2Proof.Machine

open Sys2Proof

section HoldingNode

variable {s t u : State} {p k : Nat} {m : HoistMsg} {from_ : Sender} {b : Bool} {h : Hold} {r : Recv} {w : Withdraw} {x : Delivery}

/-! ## Reports and pool copies -/

/-- A report changes a send of this chip, or puts a flit on a link. -/
theorem report_only (s : State) (p : Nat) (m : HoistMsg) (from_ : Sender) (b : Bool) : s.report p m from_ b =
    { s with ops := { s.ops with sends := (s.report p m from_ b).ops.sends }, link := (s.report p m from_ b).link } := by
  cases from_ with
  | here id => rfl
  | there i =>
    unfold State.report State.sendReportFlit
    dsimp only
    split
    · rfl
    · split <;> rfl

theorem freeCopy_only (s : State) (pool : Nat) (from_ : Sender) :
    s.freeCopy pool from_ = { s with ops := { s.ops with pools := (s.freeCopy pool from_).ops.pools } } := by
  unfold State.freeCopy
  split <;> rfl

theorem freeCopy_needed {pool : Nat} (h : s.copyNeeded pool from_ = true) : s.freeCopy pool from_ = s := if_pos h

/-! ## What becomes of a message at its holding node -/

/-- A message is counted and its outcome reported. -/
def State.tells (s : State) (c p : Nat) (m : HoistMsg) (from_ : Sender) (b : Bool) : State := (s.bump c 1).report p m from_ b

theorem dropDup_tells (s : State) (p : Nat) (m : HoistMsg) (from_ : Sender) : s.dropDup p m from_ = s.tells cHoistDup p m from_ true := rfl

theorem oversize_tells (s : State) (p : Nat) (m : HoistMsg) (from_ : Sender) :
    s.oversize p m from_ = s.tells cHoistOversize p m from_ false := rfl

theorem tells_only (s : State) (c p : Nat) (m : HoistMsg) (from_ : Sender) (b : Bool) : s.tells c p m from_ b =
    { s with ops := { s.ops with sends := (s.tells c p m from_ b).ops.sends }, counters := (s.bump c 1).counters
             link := (s.tells c p m from_ b).link } := report_only (s.bump c 1) p m from_ b

theorem counter_congr (h : t.counters = s.counters) (i : Nat) : t.counter i = s.counter i := by
  unfold State.counter
  rw [h]

theorem tells_counter {c : Nat} (hs : s.Sound) : (s.tells c p m from_ b).counter c = sat32 (s.counter c + 1) :=
  (counter_congr (s := s.bump c 1) (by rw [tells_only]) c).trans (counter_bump_same hs)

/-- An entry that is given a value of its own is listed, whatever the table's form. -/
theorem Tbl.get_set_listed {α : Type} [DecidableEq α] {d : Nat → α} {j : Nat} {v : α} (hv : v ≠ d j) (m : Tbl α) :
    Tbl.get d (Tbl.set d m j v) j = v := by
  induction m with
  | nil => simp [Tbl.set, Tbl.get, hv]
  | cons e m ih =>
    unfold Tbl.set
    split
    · next hlt => rw [Tbl.get, if_neg (Nat.ne_of_lt hlt), ih]
    · split <;> rw [Tbl.get, if_pos rfl]

/-- The pair of a committed message counts as delivered (R247). -/
theorem dupPairs_commit (s : State) (p : Nat) (m : HoistMsg) (from_ : Sender) (r : Recv) :
    (s.commit p m from_ r).dupPairs p m.chan = ((m.origin, m.hseq) :: s.dupPairs p m.chan).take 32 :=
  Tbl.get_set_listed (List.cons_ne_nil _ _) _

theorem dupPairs_congr (h : t.ops.dups = s.ops.dups) (p chan : Nat) : t.dupPairs p chan = s.dupPairs p chan := by
  unfold State.dupPairs
  rw [h]

/-! ## Held messages (R239, R240) -/

theorem endHold_only (s : State) (h : Hold) : s.endHold h =
    { s with ops := { s.ops with holds := s.ops.holds.filter (fun x => x.id ≠ h.id), pools := (s.endHold h).ops.pools } } := freeCopy_only _ _ _

theorem endHold_sound (hs : s.Sound) : (s.endHold h).Sound := (kept_endHold h (sound_kept hs)).sound

theorem mem_holdsOf {chan : Nat} (hh : h ∈ s.holdsOf p chan) : h.pos = p ∧ h.msg.chan.val = chan := by
  simpa using (List.mem_filter.mp hh).2

/-- A held message whose credit has appeared leaves its node. -/
def State.served (s : State) (h : Hold) (r : Recv) : State :=
  if s.isDup h.pos h.msg then s.dropDup h.pos h.msg h.sender
  else if r.rlen < h.msg.data.length then s.oversize h.pos h.msg h.sender
  else s.commit h.pos h.msg h.sender r

theorem serveHolds_single (hc : s.credited h.pos h.msg.chan = some r) : State.serveHolds [h] s = (s.endHold h).served h r := by
  unfold State.serveHolds
  rw [hc]
  rfl

/-- Without a credit no hold of the channel is served. -/
theorem serveHolds_uncredited {chan : Nat} {l : List Hold} (hl : ∀ h ∈ l, h.pos = p ∧ h.msg.chan.val = chan) (hc : s.credited p chan = none) :
    State.serveHolds l s = s := by
  cases l with
  | nil => rfl
  | cons h l =>
    obtain ⟨rfl, rfl⟩ := hl h List.mem_cons_self
    unfold State.serveHolds
    rw [hc]

theorem served_duplicate (hd : s.isDup h.pos h.msg = true) : s.served h r = s.tells cHoistDup h.pos h.msg h.sender true := if_pos hd

theorem served_oversize (hd : s.isDup h.pos h.msg = false) (hlen : r.rlen < h.msg.data.length) :
    s.served h r = s.tells cHoistOversize h.pos h.msg h.sender false := by
  unfold State.served
  rw [hd]
  exact if_pos hlen

theorem served_delivers (hd : s.isDup h.pos h.msg = false) (hlen : h.msg.data.length ≤ r.rlen) :
    s.served h r = s.commit h.pos h.msg h.sender r := by
  unfold State.served
  rw [hd]
  exact if_neg (Nat.not_lt.mpr hlen)

theorem served_holds (s : State) (h : Hold) (r : Recv) : (s.served h r).ops.holds = s.ops.holds := by
  cases hd : s.isDup h.pos h.msg with
  | true => rw [served_duplicate hd, tells_only]
  | false =>
    by_cases hlen : r.rlen < h.msg.data.length
    · rw [served_oversize hd hlen, tells_only]
    · rw [served_delivers hd (Nat.not_lt.mp hlen)]
      rfl

theorem endHold_isDup (s : State) (h : Hold) (m : HoistMsg) : (s.endHold h).isDup p m = s.isDup p m := by
  rw [endHold_only]
  rfl

/-- What the service of the only hold of a channel leaves: `s` is the state before its end, `t` the one after its service. -/
structure HoldServed (s : State) (h : Hold) (r : Recv) (t : State) : Prop where
  holds : t.ops.holds = s.ops.holds.filter (fun x => x.id ≠ h.id)
  delivered : s.isDup h.pos h.msg = false → h.msg.data.length ≤ r.rlen → t = { s with ops := t.ops } ∧ t.ops.recvs = s.ops.recvs.erase r ∧
    t.ops.delivs = s.ops.delivs ++ [{ id := s.ops.nextId, msg := h.msg, recv := r, sender := h.sender }] ∧
    t.dupPairs h.pos h.msg.chan = ((h.msg.origin, h.msg.hseq) :: s.dupPairs h.pos h.msg.chan).take 32
  duplicate : s.isDup h.pos h.msg = true → t.counter cHoistDup = sat32 (s.counter cHoistDup + 1) ∧ t.ops.recvs = s.ops.recvs ∧
    t.ops.delivs = s.ops.delivs ∧ t = { s with ops := t.ops, counters := t.counters, link := t.link }
  oversize : s.isDup h.pos h.msg = false → r.rlen < h.msg.data.length → t.counter cHoistOversize = sat32 (s.counter cHoistOversize + 1) ∧
    t.ops.recvs = s.ops.recvs ∧ t.ops.delivs = s.ops.delivs ∧ t = { s with ops := t.ops, counters := t.counters, link := t.link }

/-- A message that is told of after its hold has ended: what it leaves. -/
theorem endHold_tells (hs : s.Sound) (h : Hold) (c : Nat) (b : Bool) : let t := (s.endHold h).tells c h.pos h.msg h.sender b
    t.counter c = sat32 (s.counter c + 1) ∧ t.ops.recvs = s.ops.recvs ∧ t.ops.delivs = s.ops.delivs ∧
      t = { s with ops := t.ops, counters := t.counters, link := t.link } := by
  refine ⟨(tells_counter (endHold_sound hs)).trans (by rw [counter_congr (s := s) (by rw [endHold_only])]), ?_, ?_, ?_⟩
  all_goals rw [tells_only, endHold_only]

theorem endHold_served (hs : s.Sound) (h : Hold) (r : Recv) : HoldServed s h r ((s.endHold h).served h r) where
  holds := (served_holds _ h r).trans (by rw [endHold_only])
  delivered hd hlen := by
    rw [served_delivers ((endHold_isDup s h h.msg).trans hd) hlen]
    refine ⟨?_, ?_, ?_, (dupPairs_commit _ _ _ _ _).trans (by rw [dupPairs_congr (s := s) (by rw [endHold_only])])⟩
    all_goals
      rw [endHold_only]
      rfl
  duplicate hd := by
    rw [served_duplicate ((endHold_isDup s h h.msg).trans hd)]
    exact endHold_tells hs h cHoistDup true
  oversize hd hlen := by
    rw [served_oversize ((endHold_isDup s h h.msg).trans hd) hlen]
    exact endHold_tells hs h cHoistOversize false

/-! ## The credits of a channel appear (R234, R239) -/

/-- The credits of an endpoint's receives on a channel have appeared at its half root. -/
def State.creditsApplied (s : State) (p ch : Nat) : State :=
  { s with ops := { s.ops with recvs := mapIf (fun r => r.pos == p && r.chan == ch) (fun r => { r with applied := true }) s.ops.recvs } }

theorem exec_hoistCreditApply_serves (s : State) (p : Pos) (ch : Fin 16) :
    exec (.hoistCreditApply p ch) s = .next (State.serveHolds (s.holdsOf p ch) (s.creditsApplied p ch)) := rfl

/-- The state in which a hold has expired (R239). -/
def State.expired (s : State) (h : Hold) : State := State.missHold h (s.bump cHoistHoldExp 1)

theorem expired_only (s : State) (h : Hold) : s.expired h =
    { s with
      ops := { s.ops with
        holds := s.ops.holds.filter (fun x => x.id ≠ h.id), pools := (s.expired h).ops.pools, sends := (s.expired h).ops.sends }
      counters := (s.bump cHoistHoldExp 1).counters, link := (s.expired h).link } := by
  unfold State.expired State.missHold
  rw [report_only, endHold_only]
  rfl

theorem exec_holdLimitExpiry_expires {id : Nat} (hh : s.ops.holds.find? (fun h => h.id == id) = some h) :
    exec (.holdLimitExpiry id) s = .next (State.serveHolds ((s.expired h).holdsOf h.pos h.msg.chan) (s.expired h)) := by
  simp only [exec_holdLimitExpiry, execHoldLimitExpiry, hh]
  rfl

theorem expired_uncredited (hc : s.credited h.pos h.msg.chan = none) :
    State.serveHolds ((s.expired h).holdsOf h.pos h.msg.chan) (s.expired h) = s.expired h := by
  refine serveHolds_uncredited (fun _ => mem_holdsOf) ?_
  rw [expired_only]
  exact hc

/-! ## A withdrawal ends, and a delivery becomes visible (R235, R236, R244) -/

/-- The completions of a withdrawal, in their order. -/
def Withdraw.records (w : Withdraw) : List Done :=
  w.gone.map (fun r => doneOf r.desc .cancelled Tally.zero 0 0 true none) ++ [doneOf w.desc .ok Tally.zero 0 0 true none]

theorem endWithdraw_pushes (w : Withdraw) (s : State) : s.endWithdraw w = forEach w.records (fun d t => t.pushDone w.pos d) s := by
  rw [Withdraw.records, forEach_append]
  unfold State.endWithdraw forEach
  rw [List.foldl_map]
  rfl

theorem actsOnPorts_pushDone (p : Nat) (d : Done) : ActsOnPorts (fun s => s.pushDone p d) := actsOnPorts_modPort _ _

theorem actsOnPorts_endWithdraw (w : Withdraw) : ActsOnPorts (State.endWithdraw w) := by
  rw [funext (endWithdraw_pushes w)]
  exact actsOnPorts_forEach (fun d => actsOnPorts_pushDone _ d) _

theorem port_pushDones (hs : s.Sound) (l : List Done) :
    (forEach l (fun d t => t.pushDone p d) s).port p = { s.port p with done := (s.port p).done ++ l } := by
  induction l generalizing s with
  | nil => simp [forEach]
  | cons d l ih =>
    rw [forEach_cons, ih (pushDone_sound hs), port_pushDone_same hs]
    simp

theorem port_endWithdraw (hs : s.Sound) (w : Withdraw) :
    (s.endWithdraw w).port w.pos = { s.port w.pos with done := (s.port w.pos).done ++ w.records } := by
  rw [endWithdraw_pushes, port_pushDones hs]

/-- The withdrawals once a delivery has been made: without those that waited for it alone. -/
def State.heldBack (s : State) (k : Nat) : List Withdraw := s.ops.withdraws.map (fun w => { w with first := w.first.filter (fun i => i ≠ k) })

/-- The state without the withdrawals that have nothing left to wait for. -/
def State.withdrawn (s : State) (k : Nat) : State :=
  { s with ops := { s.ops with withdraws := (s.heldBack k).filter (fun w => !w.first.isEmpty) } }

theorem afterDelivery_ends (s : State) (k : Nat) :
    s.afterDelivery k = forEach ((s.heldBack k).filter (fun w => w.first.isEmpty)) State.endWithdraw (s.withdrawn k) := rfl

theorem afterDelivery_only (s : State) (k : Nat) : s.afterDelivery k = { s.withdrawn k with ports := (s.afterDelivery k).ports } :=
  (actsOnPorts_forEach actsOnPorts_endWithdraw _).only (s.withdrawn k)

theorem afterDelivery_none (hw : ∀ w ∈ s.ops.withdraws, w.first.filter (fun i => i ≠ k) ≠ []) : s.afterDelivery k = s.withdrawn k := by
  have hnone : (s.heldBack k).filter (fun w => w.first.isEmpty) = [] := by
    refine List.filter_eq_nil_iff.mpr fun w hmem => ?_
    obtain ⟨v, hv, rfl⟩ := List.mem_map.mp hmem
    simpa using hw v hv
  rw [afterDelivery_ends, hnone]
  rfl

theorem afterDelivery_single (hw : s.ops.withdraws = [w]) (hfirst : w.first = [k]) :
    s.afterDelivery k = (s.withdrawn k).endWithdraw { w with first := [] } := by
  have hback : s.heldBack k = [{ w with first := [] }] := by simp [State.heldBack, hw, hfirst]
  rw [afterDelivery_ends, hback]
  rfl

/-- The completion of a receive: the sender, its sequence number and the length (R244). -/
def Delivery.record (x : Delivery) : Done :=
  doneOf x.recv.desc .ok Tally.zero (x.msg.hseq.toNat * 2 ^ 32 + x.msg.origin.toNat) x.msg.data.length true none

/-- The bytes of a delivery stand at `DST`. -/
def State.arrived (s : State) (x : Delivery) (k : Nat) : State :=
  store { s with ops := { s.ops with delivs := s.ops.delivs.filter (fun y => y.id ≠ k) } } x.recv.dst x.msg.data

/-- The receive of a delivery completes, where its endpoint has not been reset (R275). -/
def State.received (s : State) (x : Delivery) : State := if x.recv.live then s.pushDone x.recv.pos x.record else s

/-- The sender is told, and the copy leaves its node. -/
def State.reportedBack (s : State) (x : Delivery) : State := (s.report x.recv.pos x.msg x.sender true).freeCopy (poolOf x.recv.pos) x.sender

theorem exec_hoistDeliveryVisible_arrives (hx : s.ops.delivs.find? (fun x => x.id == k) = some x) :
    exec (.hoistDeliveryVisible k) s = .next ((((s.arrived x k).received x).reportedBack x).afterDelivery k) := by
  simp only [exec_hoistDeliveryVisible, execHoistDeliveryVisible, hx]
  rfl

theorem arrived_sound (hs : s.Sound) : (s.arrived x k).Sound := (kept_store _ _ (sound_kept hs)).sound

theorem received_sound (hs : s.Sound) : (s.received x).Sound := by
  unfold State.received
  split
  · exact pushDone_sound hs
  · exact hs

theorem received_only (s : State) (x : Delivery) : s.received x = { s with ports := (s.received x).ports } := by
  unfold State.received
  split <;> rfl

theorem reportedBack_only (s : State) (x : Delivery) : s.reportedBack x =
    { s with ops := { s.ops with sends := (s.reportedBack x).ops.sends, pools := (s.reportedBack x).ops.pools }
             link := (s.reportedBack x).link } := by
  unfold State.reportedBack
  rw [freeCopy_only, report_only]

theorem reportedBack_here {id : Nat} (hx : x.sender = .here id) : (s.reportedBack x).link = s.link ∧ (s.reportedBack x).ops.sends =
    mapIf (fun y => y.id == id) (fun y => y.modTargets (fun a => a.at_ x.recv.pos && !a.isSettled) (fun a => { a with st := .report true }))
      s.ops.sends := by
  unfold State.reportedBack
  rw [freeCopy_only, hx]
  exact ⟨rfl, rfl⟩

end HoldingNode

end Sys2Proof.Machine

/-! SUPPORT. The credits and holds of a channel, deliveries and freed segments (R234 to R236, R239, R243, R244; log 81). -/

namespace Sys2Proof.Machine

open Sys2Proof

section HoldsAndDeliveries

variable {s t : State} {k : Nat} {x : Delivery}

/-- What a delivery leaves that has become visible. -/
structure MadeVisible (s : State) (k : Nat) (x : Delivery) (t : State) : Prop where
  mem : t.mem = Memory.writeN s.mem x.recv.dst x.msg.data
  delivs : t.ops.delivs = s.ops.delivs.filter (fun y => y.id ≠ k)
  only : t = { s with mem := t.mem, ports := t.ports, ops := t.ops, link := t.link }
  withdraws : t.ops.withdraws = (s.heldBack k).filter (fun w => !w.first.isEmpty)
  ports : (∀ w ∈ s.ops.withdraws, w.first.filter (fun i => i ≠ k) ≠ []) → t.ports = (s.received x).ports
  withdrawal : ∀ w, s.ops.withdraws = [w] → w.first = [k] → w.pos = x.recv.pos → x.recv.live = true →
    t.port w.pos = { s.port w.pos with done := (s.port w.pos).done ++ [x.record] ++ w.records }
  told : ∀ id, x.sender = .here id → t.link = s.link ∧ t.ops.sends = mapIf (fun y => y.id == id)
    (fun y => y.modTargets (fun a => a.at_ x.recv.pos && !a.isSettled) (fun a => { a with st := .report true })) s.ops.sends

/-- The state of a delivery before the withdrawals that wait for it go on. -/
def State.visible (s : State) (x : Delivery) (k : Nat) : State := ((s.arrived x k).received x).reportedBack x

theorem visible_sound (hs : s.Sound) : (s.visible x k).Sound :=
  (kept_freeCopy _ _ (kept_report _ _ _ _ (sound_kept (received_sound (arrived_sound hs))))).sound

theorem visible_ports (s : State) (x : Delivery) (k : Nat) : (s.visible x k).ports = (s.received x).ports := by
  unfold State.visible
  rw [reportedBack_only]
  unfold State.received
  split <;> rfl

theorem visible_only (s : State) (x : Delivery) (k : Nat) : s.visible x k =
    { s with
      mem := Memory.writeN s.mem x.recv.dst x.msg.data, ports := (s.received x).ports
      ops := { s.ops with
        delivs := s.ops.delivs.filter (fun y => y.id ≠ k), sends := (s.visible x k).ops.sends, pools := (s.visible x k).ops.pools }
      link := (s.visible x k).link } := by
  rw [← visible_ports s x k]
  unfold State.visible
  rw [reportedBack_only, received_only]
  rfl

theorem visible_port {p : Nat} (hs : s.Sound) (hp : p = x.recv.pos) (hlive : x.recv.live = true) :
    (s.visible x k).port p = { s.port p with done := (s.port p).done ++ [x.record] } := by
  subst hp
  have hreceived : s.received x = s.pushDone x.recv.pos x.record := if_pos hlive
  rw [port_congr (visible_ports s x k), hreceived, port_pushDone_same hs]

theorem visible_here {id : Nat} (hx : x.sender = .here id) : (s.visible x k).link = s.link ∧ (s.visible x k).ops.sends =
    mapIf (fun y => y.id == id) (fun y => y.modTargets (fun a => a.at_ x.recv.pos && !a.isSettled) (fun a => { a with st := .report true }))
      s.ops.sends := by
  obtain ⟨hlink, hsends⟩ := reportedBack_here (s := (s.arrived x k).received x) hx
  unfold State.visible
  rw [hlink, hsends, received_only]
  exact ⟨rfl, rfl⟩

theorem visible_afterDelivery (hs : s.Sound) (x : Delivery) (k : Nat) : MadeVisible s k x ((s.visible x k).afterDelivery k) := by
  have hv := visible_only s x k
  have hwithdraws : (s.visible x k).ops.withdraws = s.ops.withdraws := by rw [hv]
  have hback : (s.visible x k).heldBack k = s.heldBack k := by
    unfold State.heldBack
    rw [hwithdraws]
  refine ⟨?_, ?_, ?_, ?_, fun hw => ?_, fun w hw hfirst hpos hlive => ?_, fun id hx => ?_⟩
  · rw [afterDelivery_only, State.withdrawn, hv]
  · rw [afterDelivery_only, State.withdrawn, hv]
  · rw [afterDelivery_only, State.withdrawn, hv]
  · rw [afterDelivery_only, State.withdrawn, hback]
  · rw [afterDelivery_none (by rwa [hwithdraws])]
    exact visible_ports s x k
  · have hsound : ((s.visible x k).withdrawn k).Sound := visible_sound (x := x) (k := k) hs
    have hport : ((s.visible x k).withdrawn k).port w.pos = _ := visible_port hs hpos hlive
    have hend := port_endWithdraw hsound { w with first := [] }
    rw [hport] at hend
    rw [afterDelivery_single (hwithdraws.trans hw) hfirst]
    exact hend
  · obtain ⟨hlink, hsends⟩ := visible_here (s := s) (k := k) hx
    rw [afterDelivery_only]
    exact ⟨hlink, hsends⟩

end HoldsAndDeliveries

/-- Settles O26: a channel's only hold by whether it is served and how, and a delivery by the states that its row goes through. -/
theorem holdsAndDeliveries : Obligations.HoldsAndDeliveries := by
  unfold Obligations.HoldsAndDeliveries
  refine ⟨fun s p ch id hs => ?_, fun s k pool ch hs => ?_⟩
  · intro marked u
    have hexec : exec (.hoistCreditApply p ch) s = .next (State.serveHolds (s.holdsOf p ch) u) := exec_hoistCreditApply_serves s p ch
    refine ⟨fun hnone => ?_, fun h _ hc => ?_, fun h r hone hc => ?_, fun hnone => ?_, fun h hh => ⟨?_, fun hc => ?_⟩⟩
    · rw [hexec, hnone]
      rfl
    · rw [hexec, serveHolds_uncredited (fun _ => mem_holdsOf) hc]
    · obtain ⟨hpos, hchan⟩ := mem_holdsOf (h := h) (hone ▸ List.mem_singleton_self h)
      rw [← hpos, ← hchan] at hc
      have hserved := endHold_served (s := u) hs h r
      rw [hone, serveHolds_single hc] at hexec
      rw [← hpos, ← hchan]
      exact ⟨_, hexec, hserved.holds, hserved.delivered, hserved.duplicate, hserved.oversize⟩
    · have hfind : s.ops.holds.find? (fun h => h.id == id) = none := List.find?_eq_none.mpr fun h hh => by simp [hnone h hh]
      simp only [exec_holdLimitExpiry, execHoldLimitExpiry, hfind, ok]
    · exact exec_holdLimitExpiry_expires hh
    · refine ⟨_, (exec_holdLimitExpiry_expires hh).trans (congrArg _ (expired_uncredited hc)), ?_⟩
      have hcount : (s.expired h).counter cHoistHoldExp = sat32 (s.counter cHoistHoldExp + 1) :=
        (counter_congr (s := s.bump cHoistHoldExp 1) (by rw [expired_only]) _).trans (counter_bump_same hs)
      refine ⟨?_, hcount, ?_, ?_, ?_⟩
      all_goals rw [expired_only]
  · intro moves
    refine ⟨fun hnone => ?_, fun x hx => ?_, fun hroom hpool => ?_, fun hroom hpool => ?_, fun hroom => ?_⟩
    · have hfind : s.ops.delivs.find? (fun x => x.id == k) = none := List.find?_eq_none.mpr fun x hx => by simp [hnone x hx]
      simp only [exec_hoistDeliveryVisible, execHoistDeliveryVisible, hfind, ok]
    · intro okRec
      have hvisible := visible_afterDelivery hs x k
      refine ⟨_, exec_hoistDeliveryVisible_arrives hx, hvisible.mem, hvisible.delivs, hvisible.only, hvisible.withdraws,
        fun hw => ⟨fun hlive => ?_, fun hlive => ?_⟩, fun w hw hfirst hpos hlive => ?_, hvisible.told⟩
      · have hreceived : s.received x = s.pushDone x.recv.pos okRec := if_pos hlive
        exact hreceived ▸ hvisible.ports hw
      · have hreceived : s.received x = s := if_neg (by simp [hlive])
        exact (hvisible.ports hw).trans (by rw [hreceived])
      · rw [List.append_assoc _ (w.gone.map _) _]
        exact hvisible.withdrawal w hw hfirst hpos hlive
    · rw [exec_hoistSegmentFreed, execHoistSegmentFreed, if_pos hroom]
      exact congrArg ok (if_neg hpool)
    · rw [exec_hoistSegmentFreed, execHoistSegmentFreed, if_pos hroom]
      exact congrArg ok (if_pos hpool)
    · rw [exec_hoistSegmentFreed, execHoistSegmentFreed, if_neg (by simp [hroom])]
      rfl

end Sys2Proof.Machine

/-! SUPPORT. A copy at its holding node: the pools, and what becomes of it there (R236 to R238, R240, R242, R243, R247; logs 55, 81, 84). -/

namespace Sys2Proof.Machine

open Sys2Proof

section Copies

variable {s t u : State} {p pool : Nat} {m : HoistMsg} {from_ : Sender} {r : Recv} {id : Nat} {x : Send}

/-! ## Pools (R242, R243) -/

/-- A node has room for a message: it is stored there, or the pool has segments for it. -/
def State.roomFor (s : State) (pool : Nat) (from_ : Sender) (m : HoistMsg) : Prop :=
  s.stored pool from_ = true ∨ (s.poolSplit pool m.chan (segments m)).isSome = true

/-- The state with these copies in its pools. -/
def State.withPools (s : State) (c : List PoolCopy) : State := { s with ops := { s.ops with pools := c } }

theorem putCopy_stores (h : s.roomFor pool from_ m) :
    ∃ c, s.putCopy pool from_ m = some (s.withPools c) ∧ (s.withPools c).stored pool from_ = true := by
  unfold State.putCopy
  cases hst : s.stored pool from_ with
  | true => exact ⟨s.ops.pools, rfl, hst⟩
  | false =>
    have hsplit : (s.poolSplit pool m.chan (segments m)).isSome = true := h.resolve_left (by simp [hst])
    obtain ⟨w, hw⟩ := Option.isSome_iff_exists.mp hsplit
    rw [hw]
    refine ⟨_, rfl, ?_⟩
    simp [State.stored, State.withPools]

theorem putCopy_full (h : ¬ s.roomFor pool from_ m) : s.putCopy pool from_ m = none := by
  obtain ⟨hst, hsplit⟩ := not_or.mp h
  unfold State.putCopy
  rw [if_neg hst, Option.not_isSome_iff_eq_none.mp hsplit]
  rfl

theorem waitAt_waits {chan : Nat} (h : s.ops.waiting.contains (pool, chan) = false) :
    s.waitAt pool chan = { s with ops := { s.ops with waiting := (pool, chan) :: s.ops.waiting } } := if_neg (by rw [h]; exact Bool.false_ne_true)

/-- Copies leave the chip root and the half root of a position where nothing needs them any more. -/
def State.clearCopies (s : State) (p : Nat) (from_ : Sender) : State := (s.freeCopy rootPool from_).freeCopy (poolOf p) from_

theorem clearCopies_only (s : State) (p : Nat) (from_ : Sender) :
    s.clearCopies p from_ = { s with ops := { s.ops with pools := (s.clearCopies p from_).ops.pools } } := by
  unfold State.clearCopies
  rw [freeCopy_only, freeCopy_only s]

theorem clearCopies_needed (hroot : s.copyNeeded rootPool from_ = true) (hhalf : s.copyNeeded (poolOf p) from_ = true) :
    s.clearCopies p from_ = s := by
  unfold State.clearCopies
  rw [freeCopy_needed hroot, freeCopy_needed hhalf]

theorem poolOf_ne_rootPool (hp : p < 1024) : poolOf p ≠ rootPool := Nat.ne_of_lt (Nat.div_lt_of_lt_mul hp)

theorem stored_freeCopy_other {pool' : Nat} (hne : pool ≠ pool') (h : s.stored pool from_ = true) : (s.freeCopy pool' from_).stored pool from_ = true := by
  obtain ⟨c, hc, hkey⟩ := List.any_eq_true.mp h
  unfold State.freeCopy
  split
  · exact h
  · refine List.any_eq_true.mpr ⟨c, List.mem_filter.mpr ⟨hc, ?_⟩, hkey⟩
    simp only [Bool.and_eq_true, beq_iff_eq] at hkey
    simp [hkey.1, hne]

/-- A copy that its half root still needs stays there. -/
theorem clearCopies_stored (hp : p < 1024) (hneed : s.copyNeeded (poolOf p) from_ = true) (h : s.stored (poolOf p) from_ = true) :
    (s.clearCopies p from_).stored (poolOf p) from_ = true := by
  have hstored := stored_freeCopy_other (poolOf_ne_rootPool hp) h
  unfold State.clearCopies
  rwa [freeCopy_needed ((copyNeeded_congr (freeCopy_noPools _ _ _) _ _).trans hneed)]

/-! ## What becomes of a copy (R237, R238, R240, R247) -/

/-- Held messages of the same channel are ahead of a message (R240). -/
def State.holdsAhead (s : State) (p : Nat) (m : HoistMsg) : Bool := s.ops.holds.any (fun h => h.pos == p && h.msg.chan == m.chan)

theorem takesCopy_only (s : State) (from_ : Sender) (p : Nat) : s.takesCopy from_ p = { s with ops := { s.ops with
    sends := (s.takesCopy from_ p).ops.sends, inbound := (s.takesCopy from_ p).ops.inbound } } := by
  cases from_ <;> rfl

theorem takesCopy_withPools (s : State) (c : List PoolCopy) (from_ : Sender) (p : Nat) :
    (s.withPools c).takesCopy from_ p = (s.takesCopy from_ p).withPools c := by
  cases from_ <;> rfl

theorem atNode_duplicate (hd : s.isDup p m = true) : s.atNode p m from_ = ((s.takesCopy from_ p).dropDup p m from_).clearCopies p from_ := by
  unfold State.atNode
  simp only [hd, if_true]
  rfl

theorem atNode_oversize (hd : s.isDup p m = false) (hb : s.holdsAhead p m = false) (hc : s.credited p m.chan = some r)
    (hlen : r.rlen < m.data.length) : s.atNode p m from_ = ((s.takesCopy from_ p).oversize p m from_).clearCopies p from_ := by
  unfold State.holdsAhead at hb
  unfold State.atNode
  simp only [hd, hb, hc, hlen, decide_true, if_true, Bool.false_eq_true, if_false]
  rfl

theorem atNode_delivers (hd : s.isDup p m = false) (hb : s.holdsAhead p m = false) (hc : s.credited p m.chan = some r)
    (hlen : m.data.length ≤ r.rlen) (hput : s.putCopy (poolOf p) from_ m = some u) :
    s.atNode p m from_ = ((u.takesCopy from_ p).commit p m from_ r).clearCopies p from_ := by
  unfold State.holdsAhead at hb
  unfold State.atNode
  simp only [hd, hb, hc, Nat.not_lt.mpr hlen, hput, decide_false, Bool.false_eq_true, if_false]
  rfl

theorem atNode_holds (hd : s.isDup p m = false) (hwait : s.holdsAhead p m = true ∨ s.credited p m.chan = none)
    (hput : s.putCopy (poolOf p) from_ m = some u) : s.atNode p m from_ = ((u.takesCopy from_ p).hold p m from_).clearCopies p from_ := by
  have hnone : (if s.holdsAhead p m = true then none else s.credited p m.chan) = none := by
    rcases hwait with h | h
    · exact if_pos h
    · rw [h, ite_self]
  unfold State.holdsAhead at hnone
  unfold State.atNode
  simp only [hd, hnone, hput, Bool.false_eq_true, if_false]
  rfl

theorem atNode_waits (hd : s.isDup p m = false)
    (hfit : ∀ r, s.holdsAhead p m = false → s.credited p m.chan = some r → m.data.length ≤ r.rlen)
    (hput : s.putCopy (poolOf p) from_ m = none) : s.atNode p m from_ = (s.waitAt (poolOf p) m.chan).clearCopies p from_ := by
  unfold State.holdsAhead at hfit
  unfold State.atNode
  cases hb : s.ops.holds.any (fun h => h.pos == p && h.msg.chan == m.chan) with
  | true =>
    simp only [hd, hput, Bool.false_eq_true, if_false, if_true]
    rfl
  | false =>
    cases hc : s.credited p m.chan with
    | none =>
      simp only [hd, hput, Bool.false_eq_true, if_false]
      rfl
    | some r =>
      simp only [hd, Nat.not_lt.mpr (hfit r hb hc), hput, decide_false, Bool.false_eq_true, if_false]
      rfl

/-! ## A copy that is taken in -/

theorem credited_pos {chan : Nat} (h : s.credited p chan = some r) : r.pos = p := by
  have hkey := List.find?_some h
  simp only [Bool.and_eq_true, beq_iff_eq] at hkey
  exact hkey.1.1

theorem commit_needed (hp : p < 1024) (hr : r.pos = p) : (s.commit p m from_ r).copyNeeded (poolOf p) from_ = true := by
  unfold State.copyNeeded
  rw [if_neg (poolOf_ne_rootPool hp)]
  simp [State.commit, hr]

theorem hold_needed (hp : p < 1024) : (s.hold p m from_).copyNeeded (poolOf p) from_ = true := by
  unfold State.copyNeeded
  rw [if_neg (poolOf_ne_rootPool hp)]
  simp [State.hold]

/-- What a message leaves that is delivered to a receive whose credit is there. -/
structure Committed (s : State) (p : Nat) (m : HoistMsg) (from_ : Sender) (r : Recv) (t : State) : Prop where
  only : t = { s with ops := t.ops }
  ops : t.ops = { (s.takesCopy from_ p).ops with
    pools := t.ops.pools, nextId := s.ops.nextId + 1, recvs := s.ops.recvs.erase r, dups := t.ops.dups
    delivs := s.ops.delivs ++ [{ id := s.ops.nextId, msg := m, recv := r, sender := from_ }] }
  dups : t.dupPairs p m.chan = ((m.origin, m.hseq) :: s.dupPairs p m.chan).take 32
  stored : t.stored (poolOf p) from_ = true

theorem atNode_committed (hp : p < 1024) (hd : s.isDup p m = false) (hb : s.holdsAhead p m = false) (hc : s.credited p m.chan = some r)
    (hlen : m.data.length ≤ r.rlen) (hroom : s.roomFor (poolOf p) from_ m) : Committed s p m from_ r (s.atNode p m from_) := by
  obtain ⟨c, hput, hst⟩ := putCopy_stores hroom
  rw [atNode_delivers hd hb hc hlen hput, takesCopy_withPools]
  refine ⟨?_, ?_, ?_, clearCopies_stored hp (commit_needed hp (credited_pos hc)) hst⟩
  · rw [clearCopies_only, takesCopy_only]
    rfl
  · rw [clearCopies_only, takesCopy_only]
    rfl
  · rw [dupPairs_congr (s := ((s.takesCopy from_ p).withPools c).commit p m from_ r) (by rw [clearCopies_only]), dupPairs_commit,
      dupPairs_congr (s := s) (by rw [takesCopy_only]; rfl)]

/-- What a message leaves that is held. -/
structure Held (s : State) (p : Nat) (m : HoistMsg) (from_ : Sender) (t : State) : Prop where
  only : t = { s with ops := t.ops }
  ops : t.ops = { (s.takesCopy from_ p).ops with
    pools := t.ops.pools, nextId := s.ops.nextId + 1
    holds := s.ops.holds ++ [{ id := s.ops.nextId, pos := p, msg := m, sender := from_ }] }
  stored : t.stored (poolOf p) from_ = true

theorem atNode_held (hp : p < 1024) (hd : s.isDup p m = false) (hwait : s.holdsAhead p m = true ∨ s.credited p m.chan = none)
    (hroom : s.roomFor (poolOf p) from_ m) : Held s p m from_ (s.atNode p m from_) := by
  obtain ⟨c, hput, hst⟩ := putCopy_stores hroom
  rw [atNode_holds hd hwait hput, takesCopy_withPools]
  refine ⟨?_, ?_, clearCopies_stored hp (hold_needed hp) hst⟩
  · rw [clearCopies_only, takesCopy_only]
    rfl
  · rw [clearCopies_only, takesCopy_only]
    rfl

/-! ## Copies of this chip's sends -/

theorem mapIf_mapIf {α : Type} {q : α → Bool} {f g : α → α} (hf : ∀ a, q (f a) = q a) (l : List α) :
    mapIf q g (mapIf q f l) = mapIf q (fun a => g (f a)) l := by
  unfold mapIf
  rw [List.map_map]
  refine List.map_congr_left fun a _ => ?_
  cases hq : q a <;> simp [hq, hf]

/-- The copy of a send for a position has come to its holding node. -/
def Send.came (p : Nat) (y : Send) : Send := y.modTargets (fun k => k.at_ p && k.st == .flying) (fun k => { k with st := .atNode })

/-- The holding node of a position has said what became of the copy that came. -/
def Send.told (p : Nat) (b : Bool) (y : Send) : Send :=
  (y.came p).modTargets (fun k => k.at_ p && !k.isSettled) (fun k => { k with st := .report b })

/-- What a copy leaves that is not kept: it is counted, and its outcome reported. -/
structure TurnedAway (s : State) (p c id : Nat) (b : Bool) (t : State) : Prop where
  only : t = { s with ops := t.ops, counters := t.counters }
  counted : t.counter c = sat32 (s.counter c + 1)
  ops : t.ops = { s.ops with sends := mapIf (fun y => y.id == id) (Send.told p b) s.ops.sends, pools := t.ops.pools }

theorem takesCopy_tells (hs : s.Sound) (p c id : Nat) (m : HoistMsg) (b : Bool) :
    TurnedAway s p c id b (((s.takesCopy (.here id) p).tells c p m (.here id) b).clearCopies p (.here id)) := by
  have hsends : mapIf (fun y : Send => y.id == id) (fun y => y.modTargets (fun k => k.at_ p && !k.isSettled) (fun k => { k with st := .report b }))
      (mapIf (fun y => y.id == id) (Send.came p) s.ops.sends) = mapIf (fun y => y.id == id) (Send.told p b) s.ops.sends :=
    mapIf_mapIf (f := Send.came p) (fun _ => rfl) _
  refine ⟨?_, ?_, ?_⟩
  · rw [clearCopies_only]
    rfl
  · rw [counter_congr (s := (s.takesCopy (.here id) p).tells c p m (.here id) b) (by rw [clearCopies_only])]
    exact tells_counter (s := s.takesCopy (.here id) p) hs
  · rw [clearCopies_only, ← hsends]
    rfl

theorem nextCopy_flies (h : s.nextCopy id p = some x) : x ∈ s.ops.sends ∧ x.targets.any (fun k => k.at_ p && k.st == .flying) = true := by
  unfold State.nextCopy at h
  split at h
  · exact absurd h nofun
  · have hkey := List.find?_some h
    rw [Bool.and_eq_true] at hkey
    exact ⟨List.mem_of_find?_eq_some h, hkey.2⟩

/-- A send's copy for a position has still to come there. -/
theorem copyComing_flies {q : Nat → Bool} (hx : x ∈ s.ops.sends) (hfly : x.targets.any (fun k => k.at_ p && k.st == .flying) = true)
    (hq : q p = true) : s.copyComing (.here x.id) q = true := by
  obtain ⟨k, hk, hkey⟩ := List.any_eq_true.mp hfly
  obtain ⟨hat, hst⟩ := (Bool.and_eq_true _ _).mp hkey
  refine List.any_eq_true.mpr ⟨x, hx, (Bool.and_eq_true _ _).mpr ⟨beq_self_eq_true _, List.any_eq_true.mpr ⟨k, hk, ?_⟩⟩⟩
  unfold Target.at_ at hat
  cases hplace : k.place with
  | here p' =>
    rw [hplace] at hat
    obtain rfl : p' = p := beq_iff_eq.mp hat
    simp [hq, beq_iff_eq.mp hst]
  | listed rig =>
    rw [hplace] at hat
    exact absurd hat Bool.false_ne_true
  | member =>
    rw [hplace] at hat
    exact absurd hat Bool.false_ne_true

theorem copyNeeded_flies (hx : s.nextCopy id p = some x) (pool : Nat) (hpool : pool = rootPool ∨ pool = poolOf p) :
    s.copyNeeded pool (.here x.id) = true := by
  obtain ⟨hmem, hfly⟩ := nextCopy_flies hx
  unfold State.copyNeeded
  split
  · exact copyComing_flies hmem hfly rfl
  · next hroot =>
    have hcoming : s.copyComing (.here x.id) (fun q => poolOf q == pool) = true :=
      copyComing_flies hmem hfly (beq_iff_eq.mpr (hpool.resolve_left hroot).symm)
    rw [hcoming]
    rfl

/-- A copy for which its half root has no room waits upstream with its channel (R243). -/
theorem atNode_upstream (hx : s.nextCopy id p = some x) (hid : x.id = id) (hd : s.isDup p m = false)
    (hfit : ∀ r, s.holdsAhead p m = false → s.credited p m.chan = some r → m.data.length ≤ r.rlen)
    (hfull : ¬ s.roomFor (poolOf p) (.here id) m) (hwait : s.ops.waiting.contains (poolOf p, m.chan.val) = false) :
    s.atNode p m (.here id) = { s with ops := { s.ops with waiting := (poolOf p, m.chan.val) :: s.ops.waiting } } := by
  subst hid
  rw [atNode_waits hd hfit (putCopy_full hfull), waitAt_waits hwait]
  exact clearCopies_needed (copyNeeded_flies hx rootPool (.inl rfl)) (copyNeeded_flies hx (poolOf p) (.inr rfl))

/-- A copy of a send that is not the next one for its target, or whose way is stopped (R240, R243). -/
def State.copyStays (s : State) (x : Send) (id p : Nat) : Prop :=
  s.portStalled p = true ∨ x.id ≠ id ∨ x.turned = false ∨ (x.turns = false ∧ s.portStopped x.pos = true) ∨
    s.ops.waiting.contains (poolOf p, x.msg.chan.val) = true

theorem onDie_none {p : Pos} (hx : s.nextCopy id p = none) : exec (.hoistAtHoldingNode p (.onDie id)) s = .next s := by
  simp only [exec_hoistAtHoldingNode, execHoistAtHoldingNode, hx, ok]

theorem onDie_stays {p : Pos} (hx : s.nextCopy id p = some x) (h : s.copyStays x id p) :
    exec (.hoistAtHoldingNode p (.onDie id)) s = .next s := by
  simp only [exec_hoistAtHoldingNode, execHoistAtHoldingNode, hx]
  exact if_pos h

theorem onDie_comes {p : Pos} (hx : s.nextCopy id p = some x) (h : ¬ s.copyStays x id p) :
    exec (.hoistAtHoldingNode p (.onDie id)) s = .next (s.atNode p x.msg (.here id)) := by
  simp only [exec_hoistAtHoldingNode, execHoistAtHoldingNode, hx]
  exact if_neg h

end Copies

end Sys2Proof.Machine

/-! SUPPORT. Messages that leave the chip or go on from its root act on the links alone (R230, R307, R308; logs 80, 82). -/

namespace Sys2Proof.Machine

open Sys2Proof

section Spreads

variable {s t : State}

theorem actsOnLink_modLnk (p : Nat) (f : Link → Link) : ActsOnLink (fun s => s.modLnk p f) where
  only _ := rfl
  congr s t hl _ := by simp only [State.modLnk, State.setLnk, State.lnk, hl]

theorem actsOnLink_skip : ActsOnLink (fun s => s) := ⟨fun _ => rfl, fun _ _ h _ => h⟩

/-- An operation that the topology chooses. -/
theorem actsOnLink_choice {α : Type} {a : State → α} {f : α → State → State} (ha : ∀ s t : State, s.topo = t.topo → a s = a t)
    (hf : ∀ x, ActsOnLink (f x)) : ActsOnLink (fun s => f (a s) s) where
  only s := (hf (a s)).only s
  congr s t hl ht := by
    rw [ha s t ht]
    exact (hf (a t)).congr s t hl ht

theorem treeVc_congr (h : s.topo = t.topo) (p : Nat) : s.treeVc p = t.treeVc p := by
  have hs : s.treeVc p = ({ State.reset with topo := s.topo } : State).treeVc p := rfl
  rw [hs, h]
  rfl

theorem group_congr (h : s.topo = t.topo) (n : Nat) : s.group n = t.group n := by
  unfold State.group
  rw [h]

theorem routeTo_congr (h : s.topo = t.topo) (c : Nat) : s.routeTo c = t.routeTo c := by
  unfold State.routeTo State.physOf State.decl
  rw [h]

/-- The ports over which a group's message goes up, or to a standby, and those over which it goes down; not back over the port it came
in on (log 82). -/
def State.upward (s : State) (g : Group) (from_ : Option Nat) : List Nat :=
  (uniq (s.upPorts g ++ s.copyPorts g)).filter (fun p => some p ≠ from_)
def State.downward (s : State) (g : Group) (from_ : Option Nat) : List Nat := (uniq (s.downPorts g)).filter (fun p => some p ≠ from_)

theorem upward_congr (h : s.topo = t.topo) (g : Group) (from_ : Option Nat) : s.upward g from_ = t.upward g from_ := by
  have hs : s.upward g from_ = ({ State.reset with topo := s.topo } : State).upward g from_ := rfl
  rw [hs, h]
  rfl

theorem downward_congr (h : s.topo = t.topo) (g : Group) (from_ : Option Nat) : s.downward g from_ = t.downward g from_ := by
  have hs : s.downward g from_ = ({ State.reset with topo := s.topo } : State).downward g from_ := rfl
  rw [hs, h]
  rfl

/-- The listed chips that are not this one, and the ports that lead to them. -/
def State.away (s : State) (chips : List Nat) : List Nat := chips.filter (fun c => c ≠ s.topo.chip)
def State.portsAway (s : State) (chips : List Nat) (from_ : Option Nat) : List Nat :=
  (uniq ((s.away chips).filterMap s.routeTo)).filter (fun p => some p ≠ from_)

/-- The chips behind a port. -/
def State.behind (s : State) (away : List Nat) (p : Nat) : List Nat := away.filter (fun c => s.routeTo c = some p)

theorem spreadList_sends (s : State) (m : HoistMsg) (pos : Nat) (chips : List Nat) (from_ : Option Nat) : s.spreadList m pos chips from_ =
    forEach (s.portsAway chips from_) (fun p u => u.sendFlits (u.treeVc p) p (messageFlits 0 m (some (pos, u.behind (s.away chips) p)))) s := rfl

theorem actsOnLink_spreadGroup (n : Nat) (g : Group) (m : HoistMsg) (from_ : Option Nat) : ActsOnLink (fun s => s.spreadGroup n g m from_) :=
  (actsOnLink_choice (fun _ _ h => downward_congr h g from_) (actsOnLink_forEach fun _ => actsOnLink_modLnk _ _)).comp
    (actsOnLink_choice (fun _ _ h => upward_congr h g from_) (actsOnLink_forEach fun _ => actsOnLink_modLnk _ _))

/-- A group's message: the copies that go up, and then those that go down. -/
theorem spreadGroup_sends (s : State) (n : Nat) (g : Group) (m : HoistMsg) (from_ : Option Nat) : s.spreadGroup n g m from_ =
    forEach (s.downward g from_) (fun p u => u.sendFlits 3 p (messageFlits n m none))
      (forEach (s.upward g from_) (fun p u => u.sendFlits 2 p (messageFlits n m none)) s) :=
  congrArg (fun ports => forEach ports (fun p u => State.sendFlits u 3 p (messageFlits n m none)) _)
    (downward_congr ((actsOnLink_forEach (fun _ => actsOnLink_modLnk _ _) _).topo s) g from_)

/-- The ports of a chip-list message and the chips to which it goes. -/
theorem away_congr (h : s.topo = t.topo) (chips : List Nat) (from_ : Option Nat) :
    (s.portsAway chips from_, s.away chips) = (t.portsAway chips from_, t.away chips) := by
  have hs : (s.portsAway chips from_, s.away chips) =
      (({ State.reset with topo := s.topo } : State).portsAway chips from_, ({ State.reset with topo := s.topo } : State).away chips) := rfl
  rw [hs, h]
  rfl

theorem behind_congr (h : s.topo = t.topo) (away : List Nat) (p : Nat) : s.behind away p = t.behind away p :=
  List.filter_congr fun c _ => by rw [routeTo_congr h]

theorem actsOnLink_spreadList (m : HoistMsg) (pos : Nat) (chips : List Nat) (from_ : Option Nat) :
    ActsOnLink (fun s => s.spreadList m pos chips from_) :=
  actsOnLink_choice (fun _ _ h => away_congr h chips from_) (f := fun (e : List Nat × List Nat) s =>
      forEach e.1 (fun p u => u.sendFlits (u.treeVc p) p (messageFlits 0 m (some (pos, u.behind e.2 p)))) s)
    (fun e => actsOnLink_forEach (fun p =>
      actsOnLink_choice (a := fun u => (u.treeVc p, u.behind e.2 p)) (fun _ _ h => by rw [treeVc_congr h, behind_congr h])
        (f := fun (k : Nat × List Nat) u => u.sendFlits k.1 p (messageFlits 0 m (some (pos, k.2)))) (fun _ => actsOnLink_modLnk _ _)) e.1)

theorem actsOnLink_spreadOn (m : HoistMsg) (list : Option (Nat × List Nat)) (n l : Nat) : ActsOnLink (fun s => s.spreadOn m list n l) := by
  cases list with
  | some e => exact actsOnLink_spreadList m e.1 e.2 (some l)
  | none =>
    have hgroup : (fun s : State => s.spreadOn m none n l) = fun s => (s.group n).elim s (fun g => s.spreadGroup n g m (some l)) := by
      funext s
      unfold State.spreadOn
      cases s.group n <;> rfl
    rw [hgroup]
    refine actsOnLink_choice (fun _ _ h => group_congr h n) (f := fun o s => o.elim s (fun g => s.spreadGroup n g m (some l))) (fun o => ?_)
    cases o with
    | some g => exact actsOnLink_spreadGroup n g m (some l)
    | none => exact actsOnLink_skip

end Spreads

end Sys2Proof.Machine

/-! SUPPORT. Messages from other chips: their way through the chip root, what a standby keeps, and their copies (R236, R240, R242, R307 to R310;
logs 83, 84). -/

namespace Sys2Proof.Machine

open Sys2Proof

section Inbound

variable {s t u v : State} {l : Nat} {m : HoistMsg} {list : Option (Nat × List Nat)} {vc : Nat} {head : BitVec 50} {g : Group} {r : FoldRec}
  {x : HoistIn} {k : Nat × Nat}

/-! ## Off the link (R242, R307 to R310) -/

/-- The oldest message of a channel is taken off its link. -/
def State.offLink (s : State) (l vc : Nat) (head : BitVec 50) (m : HoistMsg) (list : Option (Nat × List Nat)) : State :=
  s.modLnk l (Link.takeMessage vc m.chan (messageFlits (bits head 38 12) m list).length head)

/-- A message passes the chip root: no standby keeps it, and it does not come on a link of a node that has passed to its standby. -/
def State.passesRoot (s : State) (l : Nat) (list : Option (Nat × List Nat)) (n : Nat) : Prop :=
  list.isSome = true ∨ ∀ g, s.group n = some g → s.standsByOn g l = none ∧ (s.formerPorts g).contains l = false

theorem takeInbound_none (h : s.hoistWaiting l m.chan = none) : s.takeInbound l m list = s := by
  unfold State.takeInbound
  rw [h]

theorem takeInbound_otherForm (h : s.hoistWaiting l m.chan = some (vc, head)) (hform : bit head 33 ≠ list.isSome) :
    s.takeInbound l m list = s := by
  unfold State.takeInbound
  rw [h]
  exact if_pos hform

theorem takeInbound_kept (h : s.hoistWaiting l m.chan = some (vc, head)) (hform : bit head 33 = false) (hg : s.group (bits head 38 12) = some g)
    (hr : s.standsByOn g l = some r) : s.takeInbound l m none = State.offLink { s with ops := { s.ops with
      copied := ({ fnid := r.fnid, group := bits head 38 12, msg := m, port := l, head := head } :: s.ops.copied).take 32 } } l vc head m none := by
  unfold State.takeInbound
  simp only [h, hform, hg, hr, Option.isSome_none, ne_eq, not_true, if_false, Bool.false_eq_true, Option.bind_some]
  rfl

theorem takeInbound_dropped (h : s.hoistWaiting l m.chan = some (vc, head)) (hform : bit head 33 = false) (hg : s.group (bits head 38 12) = some g)
    (hr : s.standsByOn g l = none) (hformer : (s.formerPorts g).contains l = true) : s.takeInbound l m none = s.offLink l vc head m none := by
  unfold State.takeInbound
  simp only [h, hform, hg, hr, hformer, Option.isSome_none, ne_eq, not_true, if_false, if_true, Bool.false_eq_true, Option.bind_some, Option.any_some]
  rfl

/-- A message that passes the chip root, by whether its channel waits there and what the root does with it. -/
theorem takeInbound_passes {o : Option State} (h : s.hoistWaiting l m.chan = some (vc, head)) (hform : bit head 33 = list.isSome)
    (hpass : s.passesRoot l list (bits head 38 12)) (ho : s.throughRoot l vc head m list = o) : s.takeInbound l m list =
      if s.ops.waiting.contains (rootPool, m.chan.val) then s else o.elim (s.waitAt rootPool m.chan) (fun v => v.offLink l vc head m list) := by
  have hgroup : ∀ g, (if list.isSome then none else s.group (bits head 38 12)) = some g →
      s.standsByOn g l = none ∧ (s.formerPorts g).contains l = false := by
    intro g hg
    cases hlist : list.isSome with
    | true => simp [hlist] at hg
    | false => exact hpass.resolve_left (by simp [hlist]) g (by simpa [hlist] using hg)
  unfold State.takeInbound
  simp only [h, hform, ho, ne_eq, not_true, if_false]
  generalize (if list.isSome then none else s.group (bits head 38 12)) = og at hgroup
  cases og with
  | none => cases o <;> rfl
  | some g =>
    obtain ⟨hstands, hformer⟩ := hgroup g rfl
    simp only [Option.bind_some, hstands, Option.any_some, hformer, Bool.false_eq_true, if_false]
    cases o <;> rfl

/-! ## Through the chip root -/

/-- The state that knows the way back of a message, with what of it is under way to its targets here. -/
def State.carries (s : State) (l vc : Nat) (head : BitVec 50) (m : HoistMsg) (new : List HoistIn) : State :=
  let t : Trail := { origin := m.origin, hseq := m.hseq, chan := m.chan, vc := vc, port := l, head := head }
  { s with ops := { s.ops with
    trails := t :: s.ops.trails.filter (fun x => !(x.origin == t.origin && x.hseq == t.hseq && x.chan == t.chan))
    inbound := s.ops.inbound ++ new
    nextId := s.ops.nextId + 1 } }

/-- The copy of a message from another chip that the chip root stores. -/
def State.rootCopy (s : State) (m : HoistMsg) (k : Nat × Nat) : PoolCopy :=
  { pool := rootPool, sender := .there s.ops.nextId, chan := m.chan, own := k.1, shared := k.2 }

theorem throughRoot_passes (hpend : s.targetsHere m list (bits head 38 12) = []) : s.throughRoot l vc head m list =
    some ((s.carries l vc head m []).spreadOn m list (bits head 38 12) l) := by
  unfold State.throughRoot
  simp only [hpend]
  rfl

theorem throughRoot_stores (hpend : s.targetsHere m list (bits head 38 12) ≠ []) (hst : s.stored rootPool (.there s.ops.nextId) = false)
    (hk : s.poolSplit rootPool m.chan (segments m) = some k) : s.throughRoot l vc head m list =
      some (((s.withPools (s.ops.pools ++ [s.rootCopy m k])).carries l vc head m
        [HoistIn.mk s.ops.nextId l m (s.targetsHere m list (bits head 38 12))]).spreadOn m list (bits head 38 12) l) := by
  have hput : s.putCopy rootPool (.there s.ops.nextId) m = some (s.withPools (s.ops.pools ++ [s.rootCopy m k])) := by
    unfold State.putCopy
    rw [if_neg (by simp [hst]), hk]
    rfl
  unfold State.throughRoot
  simp only [List.isEmpty_eq_false_iff.mpr hpend, hput, Bool.false_eq_true, if_false]
  rfl

theorem throughRoot_full (hpend : s.targetsHere m list (bits head 38 12) ≠ []) (hst : s.stored rootPool (.there s.ops.nextId) = false)
    (hk : s.poolSplit rootPool m.chan (segments m) = none) : s.throughRoot l vc head m list = none := by
  have hput : s.putCopy rootPool (.there s.ops.nextId) m = none := putCopy_full (by simp [State.roomFor, hst, hk])
  unfold State.throughRoot
  simp only [List.isEmpty_eq_false_iff.mpr hpend, hput, Bool.false_eq_true, if_false]
  rfl

/-- What goes on from the chip root rests on the links and the topology: its operations are those of the state that sends it. -/
theorem spreadOn_offLink (hl : v.link = s.link) (ht : v.topo = s.topo) (n : Nat) :
    ((v.spreadOn m list n l).offLink l vc head m list).link = ((s.spreadOn m list n l).offLink l vc head m list).link ∧
      ((v.spreadOn m list n l).offLink l vc head m list).ops = v.ops := by
  have hspread := actsOnLink_spreadOn m list n l
  have hlink := ((actsOnLink_modLnk l (Link.takeMessage vc m.chan (messageFlits (bits head 38 12) m list).length head)).comp hspread).congr v s hl ht
  refine ⟨hlink, ?_⟩
  exact (congrArg State.ops (hspread.only v) :)

/-! ## The row -/

/-- The state once the oldest message has been taken off its link, where none of the link and channel has still to come to the position. -/
def State.afterLink (s : State) (p l : Nat) (m : HoistMsg) (list : Option (Nat × List Nat)) : State :=
  if s.rootStalled || (s.nextInbound l m.chan p).isSome then s else s.takeInbound l m list

theorem afterLink_takes {p : Nat} (hroot : s.rootStalled = false) (hnext : s.nextInbound l m.chan p = none) :
    s.afterLink p l m list = s.takeInbound l m list := if_neg (by simp [hroot, hnext])

/-- A message that is not the one that comes next, or whose half or channel is stopped, stays. -/
def State.inboundStays (u : State) (x : HoistIn) (m : HoistMsg) (p : Nat) : Prop :=
  u.portStalled p = true ∨ x.msg ≠ m ∨ u.ops.waiting.contains (poolOf p, m.chan.val) = true

theorem offDie_none {p : Pos} {l : PortNo} (hx : (s.afterLink p l m list).nextInbound l m.chan p = none) :
    exec (.hoistAtHoldingNode p (.offDie l m list)) s = .next (s.afterLink p l m list) := by
  unfold State.afterLink at hx ⊢
  simp only [exec_hoistAtHoldingNode, execHoistAtHoldingNode, hx, ok]

theorem offDie_stays {p : Pos} {l : PortNo} (hx : (s.afterLink p l m list).nextInbound l m.chan p = some x)
    (h : (s.afterLink p l m list).inboundStays x m p) : exec (.hoistAtHoldingNode p (.offDie l m list)) s = .next (s.afterLink p l m list) := by
  unfold State.afterLink at hx h ⊢
  simp only [exec_hoistAtHoldingNode, execHoistAtHoldingNode, hx]
  exact if_pos h

theorem offDie_comes {p : Pos} {l : PortNo} (hx : (s.afterLink p l m list).nextInbound l m.chan p = some x)
    (h : ¬ (s.afterLink p l m list).inboundStays x m p) :
    exec (.hoistAtHoldingNode p (.offDie l m list)) s = .next ((s.afterLink p l m list).atNode p m (.there x.id)) := by
  unfold State.afterLink at hx h ⊢
  simp only [exec_hoistAtHoldingNode, execHoistAtHoldingNode, hx]
  exact if_neg h

end Inbound

/-- Settles O27: a copy by what its holding node does with it, and a message from another chip by what the chip root does with it first. -/
theorem copiesReachTheirTargets : Obligations.CopiesReachTheirTargets := by
  unfold Obligations.CopiesReachTheirTargets
  refine ⟨fun s p id hs => ⟨onDie_none, fun x hx => ?_⟩, fun s p l m list => ?_, fun s p l m vc head g hroot hnext hw hform hg => ?_⟩
  · intro m stays behind room came told sends
    refine ⟨onDie_stays hx, fun hgo => ?_⟩
    have hid : x.id = id := not_not.mp fun h => hgo (.inr (.inl h))
    have hwait : s.ops.waiting.contains (poolOf p, m.chan.val) = false := Bool.eq_false_iff.mpr fun h => hgo (.inr (.inr (.inr (.inr h))))
    have hexec : exec (.hoistAtHoldingNode p (.onDie id)) s = .next (s.atNode p m (.here id)) := onDie_comes hx hgo
    refine ⟨fun hd => ?_, fun r hd hb hc hlen => ?_, fun r hd hb hc hlen hroom => ?_, fun hd hwaits hroom => ?_, fun hd hfit hfull => ?_⟩
    · have h := takesCopy_tells hs p cHoistDup id m true
      rw [atNode_duplicate hd, dropDup_tells] at hexec
      exact ⟨_, hexec, h.only, h.counted, h.ops⟩
    · have h := takesCopy_tells hs p cHoistOversize id m false
      rw [atNode_oversize hd hb hc hlen, oversize_tells] at hexec
      exact ⟨_, hexec, h.only, h.counted, h.ops⟩
    · have h := atNode_committed p.isLt hd hb hc hlen hroom
      exact ⟨_, hexec, h.only, h.ops, h.dups, h.stored⟩
    · have h := atNode_held p.isLt hd hwaits hroom
      exact ⟨_, hexec, h.only, h.ops, h.stored⟩
    · rw [hexec, atNode_upstream hx hid hd hfit hfull hwait]
  · intro u
    refine ⟨offDie_none, fun x hx => ?_, fun hroot hnext => ?_⟩
    · intro stays
      refine ⟨offDie_stays hx, offDie_comes hx, fun hgo hd r hc hlen hb hroom => ?_⟩
      have h := atNode_committed p.isLt hd hb hc hlen hroom
      exact ⟨_, offDie_comes hx hgo, h.only, (congrArg OpsState.recvs h.ops :), (congrArg OpsState.delivs h.ops :)⟩
    · have hu : u = s.takeInbound l m list := afterLink_takes hroot hnext
      rw [hu]
      refine ⟨takeInbound_none, fun vc head hw => ?_⟩
      intro n pend off passes
      refine ⟨takeInbound_otherForm hw, fun hform hpass hwait => ?_,
        fun hform hpass hwait hst => ⟨fun hpend => ?_, fun hpend k hk => ?_, fun hpend hk => ?_⟩⟩
      · rw [takeInbound_passes hw hform hpass rfl, if_pos hwait]
      · rw [takeInbound_passes hw hform hpass (throughRoot_passes hpend), if_neg (Bool.eq_false_iff.mp hwait)]
        obtain ⟨hlink, hops⟩ := spreadOn_offLink (s := s) (v := s.carries l vc head m []) (m := m) (list := list) (l := l)
          (vc := vc) (head := head) rfl rfl n
        exact ⟨hlink, (congrArg OpsState.inbound hops :).trans (List.append_nil _), (congrArg OpsState.pools hops :)⟩
      · rw [takeInbound_passes hw hform hpass (throughRoot_stores hpend hst hk), if_neg (Bool.eq_false_iff.mp hwait)]
        obtain ⟨hlink, hops⟩ := spreadOn_offLink (s := s) (v := (s.withPools (s.ops.pools ++ [s.rootCopy m k])).carries l vc head m
          [HoistIn.mk s.ops.nextId l m pend]) (m := m) (list := list) (l := l) (vc := vc) (head := head) rfl rfl n
        exact ⟨hlink, (congrArg OpsState.inbound hops :), (congrArg OpsState.pools hops :)⟩
      · rw [takeInbound_passes hw hform hpass (throughRoot_full hpend hst hk), if_neg (Bool.eq_false_iff.mp hwait)]
        exact waitAt_waits hwait
  · intro off
    have hafter : s.afterLink p l m none = s.takeInbound l m none := afterLink_takes hroot hnext
    refine ⟨fun r hr => ?_, fun hr hformer => ?_⟩
    · have hkept := hafter.trans (takeInbound_kept hw hform hg hr)
      have hnone : (s.afterLink p l m none).nextInbound l m.chan p = none := by
        rw [hkept]
        exact hnext
      rw [offDie_none hnone, hkept]
      rfl
    · have hdropped := hafter.trans (takeInbound_dropped hw hform hg hr hformer)
      have hnone : (s.afterLink p l m none).nextInbound l m.chan p = none := by
        rw [hdropped]
        exact hnext
      rw [offDie_none hnone, hdropped]
      rfl

end Sys2Proof.Machine

/-! SUPPORT. The flits of a send that leave the chip, port by port (R230, R307, R308; log 80). -/

namespace Sys2Proof.Machine

open Sys2Proof

section LeavingFlits

variable {s : State} {p q vc n pos : Nat} {l : List TxFlit} {m : HoistMsg} {g : Group} {x : Send} {chips ports : List Nat}

/-- Flits are queued on VC2, or else on VC3. -/
def Link.addFlits (vc : Nat) (l : List TxFlit) (k : Link) : Link := if vc = 2 then { k with tx2 := k.tx2 ++ l } else { k with tx3 := k.tx3 ++ l }

theorem addFlits_tx2 (vc : Nat) (l : List TxFlit) (k : Link) : (k.addFlits vc l).tx2 = k.tx2 ++ if vc = 2 then l else [] := by
  unfold Link.addFlits
  split <;> simp

theorem addFlits_tx3 (vc : Nat) (l : List TxFlit) (k : Link) : (k.addFlits vc l).tx3 = k.tx3 ++ if vc = 2 then [] else l := by
  unfold Link.addFlits
  split <;> simp

theorem sendFlits_sound (hs : s.Sound) : (s.sendFlits vc p l).Sound := (kept_sendFlits vc p l (sound_kept hs)).sound

theorem lnk_sendFlits_same (hs : s.Sound) : (s.sendFlits vc p l).lnk p = (s.lnk p).addFlits vc l := lnk_setLnk_same hs

theorem lnk_sendFlits_other (h : q ≠ p) : (s.sendFlits vc p l).lnk q = s.lnk q := lnk_setLnk_other h

/-- Each port of a list gets its flits once; which ones they are, and on which channel they leave, rests on the topology. -/
theorem lnk_sendEach {vc : State → Nat → Nat} {fl : State → Nat → List TxFlit} (hs : s.Sound) (hports : ports.Nodup)
    (hcongr : ∀ u : State, u.topo = s.topo → vc u = vc s ∧ fl u = fl s) (q : Nat) :
    (forEach ports (fun p u => u.sendFlits (vc u p) p (fl u p)) s).lnk q =
      if q ∈ ports then (s.lnk q).addFlits (vc s q) (fl s q) else s.lnk q := by
  induction ports generalizing s with
  | nil => rfl
  | cons p ports ih =>
    obtain ⟨hp, hports⟩ := List.nodup_cons.mp hports
    obtain ⟨hvc, hfl⟩ := hcongr (s.sendFlits (vc s p) p (fl s p)) rfl
    have hnext : ∀ u : State, u.topo = s.topo → vc u = vc (s.sendFlits (vc s p) p (fl s p)) ∧ fl u = fl (s.sendFlits (vc s p) p (fl s p)) :=
      fun u hu => by rw [hvc, hfl]; exact hcongr u hu
    rw [forEach_cons, ih (sendFlits_sound hs) hports hnext, hvc, hfl]
    by_cases hq : q = p
    · subst hq
      rw [if_neg hp, if_pos List.mem_cons_self, lnk_sendFlits_same hs]
    · rw [lnk_sendFlits_other hq]
      simp only [List.mem_cons, hq, false_or]

/-! ## The copies of a group's message -/

theorem upward_nodup (s : State) (g : Group) (from_ : Option Nat) : (s.upward g from_).Nodup := (uniq_nodup _).filter _

theorem downward_nodup (s : State) (g : Group) (from_ : Option Nat) : (s.downward g from_).Nodup := (uniq_nodup _).filter _

theorem mem_upward (s : State) (g : Group) (q : Nat) : q ∈ s.upward g none ↔ (s.upPorts g ++ s.copyPorts g).contains q = true := by
  simp [State.upward, mem_uniq]

theorem mem_downward (s : State) (g : Group) (q : Nat) : q ∈ s.downward g none ↔ (s.downPorts g).contains q = true := by
  simp [State.downward, mem_uniq]

theorem lnk_spreadGroup (hs : s.Sound) (n : Nat) (g : Group) (m : HoistMsg) (q : Nat) :
    ((s.spreadGroup n g m none).lnk q).tx2 = (s.lnk q).tx2 ++
        (if (s.upPorts g ++ s.copyPorts g).contains q then messageFlits n m none else []) ∧
      ((s.spreadGroup n g m none).lnk q).tx3 = (s.lnk q).tx3 ++ (if (s.downPorts g).contains q then messageFlits n m none else []) := by
  have hup := lnk_sendEach (vc := fun _ _ => 2) (fl := fun _ _ => messageFlits n m none) hs (upward_nodup s g none) (fun _ _ => ⟨rfl, rfl⟩) q
  have hsound : (forEach (s.upward g none) (fun p u => u.sendFlits 2 p (messageFlits n m none)) s).Sound :=
    (kept_forEach (fun p _ h => kept_sendFlits 2 p _ h) (sound_kept hs)).sound
  rw [spreadGroup_sends]
  generalize forEach (s.upward g none) _ s = u at hup hsound ⊢
  have hdown := lnk_sendEach (vc := fun _ _ => 3) (fl := fun _ _ => messageFlits n m none) hsound (downward_nodup s g none) (fun _ _ => ⟨rfl, rfl⟩) q
  simp only [hdown, hup, mem_upward, mem_downward]
  constructor <;> split <;> split <;> simp [addFlits_tx2, addFlits_tx3]

/-! ## The copies of a chip list's message -/

theorem treeVc_cases (s : State) (p : Nat) : s.treeVc p = 2 ∨ s.treeVc p = 3 := by
  unfold State.treeVc
  split
  · split
    · exact .inl rfl
    · exact .inr rfl
  · exact .inr rfl

theorem portsAway_nodup (s : State) (chips : List Nat) (from_ : Option Nat) : (s.portsAway chips from_).Nodup := (uniq_nodup _).filter _

/-- The ports of a chip list are those that have a listed chip behind them. -/
theorem mem_portsAway (s : State) (chips : List Nat) (q : Nat) : q ∈ s.portsAway chips none ↔ s.behind (s.away chips) q ≠ [] := by
  simp only [State.portsAway, State.behind, List.mem_filter, mem_uniq, List.mem_filterMap, ne_eq, List.filter_eq_nil_iff, decide_eq_true_eq]
  simp

theorem lnk_spreadList (hs : s.Sound) (m : HoistMsg) (pos : Nat) (chips : List Nat) (q : Nat) :
    (s.spreadList m pos chips none).lnk q = if s.behind (s.away chips) q ≠ [] then
      (s.lnk q).addFlits (s.treeVc q) (messageFlits 0 m (some (pos, s.behind (s.away chips) q))) else s.lnk q := by
  have heach := lnk_sendEach (vc := State.treeVc) (fl := fun u p => messageFlits 0 m (some (pos, u.behind (s.away chips) p))) hs
    (portsAway_nodup s chips none)
    (fun u hu => ⟨funext (treeVc_congr hu), funext fun p => by rw [behind_congr hu]⟩) q
  rw [spreadList_sends, heach]
  simp only [mem_portsAway]

/-! ## The copies of a send -/

/-- The chips that a chip-list send lists. -/
def Send.listedChips (x : Send) : List Nat := x.targets.filterMap (fun t => match t.place with | .listed r => some (r / 1024) | _ => none)

theorem spreadSend_group (hany : x.targets.any (fun y => !y.isHere) = true) (hop : dOpcode x.desc = 0x30) (hg : s.group (dGroup x.desc) = some g) :
    s.spreadSend x = s.spreadGroup (dGroup x.desc) g x.msg none := by
  unfold State.spreadSend
  simp only [hany, hop, hg, Bool.true_eq_false, if_false, if_true]

theorem spreadSend_list (hany : x.targets.any (fun y => !y.isHere) = true) (hop : dOpcode x.desc ≠ 0x30) :
    s.spreadSend x = s.spreadList x.msg (dHpos x.desc) x.listedChips none := by
  unfold State.spreadSend
  rw [if_neg (by simp only [hany, Bool.true_eq_false, not_false_eq_true])]
  exact if_neg hop

theorem actsOnLink_spreadSend (x : Send) : ActsOnLink (fun s => s.spreadSend x) := by
  cases hany : x.targets.any (fun y => !y.isHere) with
  | false =>
    have hskip : (fun s : State => s.spreadSend x) = fun s => s := funext fun s => if_pos hany
    rw [hskip]
    exact actsOnLink_skip
  | true =>
    by_cases hop : dOpcode x.desc = 0x30
    · have hgroup : (fun s : State => s.spreadSend x) =
          fun s => (s.group (dGroup x.desc)).elim s (fun g => s.spreadGroup (dGroup x.desc) g x.msg none) := by
        funext s
        unfold State.spreadSend
        simp only [hany, hop, Bool.true_eq_false, if_false, if_true]
        cases s.group (dGroup x.desc) <;> rfl
      rw [hgroup]
      refine actsOnLink_choice (fun _ _ h => group_congr h _) (f := fun o s => o.elim s (fun g => s.spreadGroup (dGroup x.desc) g x.msg none)) (fun o => ?_)
      cases o with
      | some g => exact actsOnLink_spreadGroup _ g x.msg none
      | none => exact actsOnLink_skip
    · have hlist : (fun s : State => s.spreadSend x) = fun s => s.spreadList x.msg (dHpos x.desc) x.listedChips none :=
        funext fun s => spreadSend_list hany hop
      rw [hlist]
      exact actsOnLink_spreadList _ _ _ _

end LeavingFlits

end Sys2Proof.Machine

/-! SUPPORT. Accepted descriptors of the hoist class: a send and its way to the chip root, a posted receive, a withdrawal (R231 to R235, R242,
R243, R248; log 27). -/

namespace Sys2Proof.Machine

open Sys2Proof

section HoistDescriptors

variable {s t u : State} {p : Nat} {d : Desc} {x : Send}

/-! ## A send on its way to the chip root (R242, R243) -/

/-- What becomes of a send that has still to reach the chip root: it has turned there or not, and nothing but operations and links is
touched. -/
structure TriesToTurn (u : State) (x : Send) (t : State) : Prop where
  only : t = { u with ops := t.ops, link := t.link }
  nextId : t.ops.nextId = u.ops.nextId
  sent : ∃ b, { x with turned := b } ∈ t.ops.sends ∧
    (x.turned = true → b = true ∧ t.link = u.link) ∧
    (x.turned = false → u.portHeld x.pos = true ∨ u.ops.waiting.contains (rootPool, x.msg.chan.val) = true → b = false ∧ t.link = u.link) ∧
    (x.turned = false → u.portHeld x.pos = false → u.ops.waiting.contains (rootPool, x.msg.chan.val) = false →
      (u.poolSplit rootPool x.msg.chan (segments x.msg)).isSome = true → b = true ∧ t.link = (u.spreadSend x).link)

/-- A send waits before the chip root for its port or its channel. -/
def State.turnHeld (u : State) (x : Send) : Bool := u.portHeld x.pos || u.ops.waiting.contains (rootPool, x.msg.chan.val)

theorem turnSend_turned (h : x.turned = true) : State.turnSend x u = u := if_pos (by simp [h])

theorem turnSend_held (h : u.turnHeld x = true) : State.turnSend x u = u :=
  if_pos (by rw [Bool.or_assoc]; exact (Bool.or_eq_true _ _).mpr (.inr h))

theorem turnSend_goes {o : Option State} (hx : x.turned = false) (h : u.turnHeld x = false) (ho : u.putCopy rootPool (.here x.id) x.msg = o) :
    State.turnSend x u = o.elim (u.waitAt rootPool x.msg.chan)
      (fun v => ((v.modSend x.id (fun y => { y with turned := true })).spreadSend x).freeCopy rootPool (.here x.id)) := by
  unfold State.turnSend
  rw [if_neg (by rw [hx, Bool.false_or]; exact Bool.eq_false_iff.mp h), ho]
  cases o <;> rfl

theorem waitAt_only (s : State) (pool chan : Nat) :
    s.waitAt pool chan = { s with ops := { s.ops with waiting := (s.waitAt pool chan).ops.waiting } } := by
  unfold State.waitAt
  split <;> rfl

/-- A send that is stored at the chip root turns there: it is marked, and its copies leave. -/
theorem turns_only (c : List PoolCopy) :
    ((((u.withPools c).modSend x.id (fun y => { y with turned := true })).spreadSend x).freeCopy rootPool (.here x.id)) =
      { u with
        ops := { u.ops with
          sends := mapIf (fun y => y.id == x.id) (fun y => { y with turned := true }) u.ops.sends
          pools := ((((u.withPools c).modSend x.id (fun y => { y with turned := true })).spreadSend x).freeCopy rootPool (.here x.id)).ops.pools }
        link := (u.spreadSend x).link } := by
  have hlink := (actsOnLink_spreadSend x).congr ((u.withPools c).modSend x.id (fun y => { y with turned := true })) u rfl rfl
  rw [freeCopy_only, (actsOnLink_spreadSend x).only, hlink]
  rfl

theorem turnSend_tries (hx : x ∈ u.ops.sends) : TriesToTurn u x (State.turnSend x u) := by
  cases hturned : x.turned with
  | true =>
    rw [turnSend_turned hturned]
    exact ⟨rfl, rfl, x.turned, hx, fun _ => ⟨hturned, rfl⟩, fun h => absurd (hturned.symm.trans h) nofun, fun h => absurd (hturned.symm.trans h) nofun⟩
  | false =>
    cases hheld : u.turnHeld x with
    | true =>
      rw [turnSend_held hheld]
      refine ⟨rfl, rfl, x.turned, hx, fun h => absurd (hturned.symm.trans h) nofun, fun _ _ => ⟨hturned, rfl⟩, fun _ hport hwait => ?_⟩
      have hfree : u.turnHeld x = false := by
        unfold State.turnHeld
        rw [hport, hwait]
        rfl
      exact absurd (hheld.symm.trans hfree) nofun
    | false =>
      have hgo : ¬ (u.portHeld x.pos = true ∨ u.ops.waiting.contains (rootPool, x.msg.chan.val) = true) :=
        fun h => Bool.eq_false_iff.mp hheld ((Bool.or_eq_true _ _).mpr h)
      by_cases hroom : u.roomFor rootPool (.here x.id) x.msg
      · obtain ⟨c, hput, -⟩ := putCopy_stores hroom
        rw [turnSend_goes hturned hheld hput, Option.elim_some]
        have honly := turns_only (u := u) (x := x) c
        generalize (((u.withPools c).modSend x.id _).spreadSend x).freeCopy rootPool (.here x.id) = t at honly ⊢
        rw [honly]
        refine ⟨rfl, rfl, true, List.mem_map.mpr ⟨x, hx, if_pos (beq_self_eq_true _)⟩, fun h => absurd (hturned.symm.trans h) nofun,
          fun _ h => absurd h hgo, fun _ _ _ _ => ⟨rfl, rfl⟩⟩
      · rw [turnSend_goes hturned hheld (putCopy_full hroom), Option.elim_none, waitAt_only]
        exact ⟨rfl, rfl, x.turned, hx, fun h => absurd (hturned.symm.trans h) nofun, fun _ h => absurd h hgo, fun _ _ _ h => absurd (.inr h) hroom⟩

/-! ## A send is accepted (R231 to R233, R248) -/

/-- The targets of a send that are left to reach: under `HRETRY`, those whose bits do not stand in `DMAP` (R248). -/
def State.targetsLeft (s : State) (p : Nat) (d : Desc) : List Target :=
  (s.sendTargets p d).filter (fun t => !(if dHretry d then loadNat s (dDst d) (dmapLen (s.dmapBits d)) else 0).testBit t.index)

/-- The send that an accepted descriptor begins. -/
def State.newSend (s : State) (p : Nat) (d : Desc) : Send :=
  let x : Send := {
    id := s.ops.nextId, pos := p, desc := d
    msg := {
      origin := BitVec.ofNat 25 (s.rig p), hseq := dHseq d, chan := Fin.ofNat 16 (dHchan d), data := load s (dSrc d) (dHlen d)
      only := if dHretry d && dOpcode d == 0x30 then some ((s.targetsLeft p d).map (·.index)) else none }
    targets := s.targetsLeft p d, turned := false, limit := (s.targetsLeft p d).any (fun t => !t.isHere), live := true }
  { x with turned := !x.turns }

/-- What a send says that an accepted descriptor begins. -/
structure Begun (s : State) (p : Nat) (d : Desc) (x : Send) : Prop where
  id : x.id = s.ops.nextId
  pos : x.pos = p
  desc : x.desc = d
  targets : x.targets = s.targetsLeft p d
  origin : x.msg.origin.toNat = s.rig p % 2 ^ 25
  hseq : x.msg.hseq = dHseq d
  data : x.msg.data = load s (dSrc d) (dHlen d)
  chan : x.msg.chan.val = dHchan d
  limit : x.limit = (s.targetsLeft p d).any (fun y => !y.isHere)
  turned : x.turned = !x.turns

theorem newSend_begun (s : State) (p : Nat) (d : Desc) : Begun s p d (s.newSend p d) where
  id := rfl
  pos := rfl
  desc := rfl
  targets := rfl
  origin := BitVec.toNat_ofNat _ _
  hseq := rfl
  data := rfl
  chan := Nat.mod_eq_of_lt (Nat.mod_lt _ (by decide) : bits d.q1 32 4 < 16)
  limit := rfl
  turned := by dsimp only [State.newSend, Send.turns]

/-- The state that has given an operation its number. -/
def State.numbered (s : State) : State := { s with ops := { s.ops with nextId := s.ops.nextId + 1 } }

/-- The state that has accepted a send. -/
def State.withSend (s : State) (x : Send) : State := { s.numbered with ops := { s.numbered.ops with sends := s.ops.sends ++ [x] } }

theorem startSend_sends (h : s.targetsLeft p d ≠ []) : s.startSend p d = State.turnSend (s.newSend p d) (s.withSend (s.newSend p d)) :=
  if_neg (by rw [List.isEmpty_iff]; exact h)

theorem startSend_settled (h : s.targetsLeft p d = []) :
    s.startSend p d = (s.numbered.writeDmap (s.newSend p d)).pushDone p (doneOf d .ok Tally.zero 0 0 true none) :=
  if_pos (List.isEmpty_iff.mpr h)

theorem numbered_sound (hs : s.Sound) : s.numbered.Sound := hs

/-- A send without a target left: it completes at once, and writes `DMAP`. -/
theorem startSend_completes (hs : s.Sound) (h : s.targetsLeft p d = []) :
    (s.startSend p d).port p = { s.port p with done := (s.port p).done ++ [doneOf d .ok Tally.zero 0 0 true none] } ∧
      s.startSend p d = { s.numbered with mem := (s.startSend p d).mem, ports := (s.startSend p d).ports } := by
  rw [startSend_settled h]
  exact ⟨port_pushDone_same (kept_writeDmap (s.newSend p d) (sound_kept (numbered_sound hs))).sound, rfl⟩

theorem startSend_tries (h : s.targetsLeft p d ≠ []) : TriesToTurn (s.withSend (s.newSend p d)) (s.newSend p d) (s.startSend p d) := by
  rw [startSend_sends h]
  exact turnSend_tries (List.mem_append_right _ (List.mem_singleton_self _))

/-- What a send reads does not rest on the ports. -/
theorem sendTargets_modPort {q : Nat} {f : Port → Port} : (s.modPort q f).sendTargets p d = s.sendTargets p d := by
  unfold State.sendTargets
  rfl

theorem targetsLeft_modPort {q : Nat} {f : Port → Port} : (s.modPort q f).targetsLeft p d = s.targetsLeft p d := by
  unfold State.targetsLeft
  rw [sendTargets_modPort]
  rfl

theorem accepts_send {r : Instr × Nat} {p : Pos} (hr : r ∈ [(Instr.bcast p, 0x30), (.mcast p, 0x31)]) (h : s.Accepts p r.2) :
    exec r.1 s = .next ((s.modPort p Port.readSlot).startSend p (s.slotDesc p)) := by
  have hop : dOpcode (s.slotDesc p) = r.2 := h.2.1
  obtain ⟨hrow, hclass, hne⟩ : exec r.1 s = s.submit p (hasOp r.2) ∧ opClass r.2 = some .hoist ∧ r.2 ≠ 0x32 := by
    simp only [List.mem_cons, List.not_mem_nil, or_false] at hr
    rcases hr with rfl | rfl
    · exact ⟨rfl, rfl, show (0x30 : Nat) ≠ 0x32 by decide⟩
    · exact ⟨rfl, rfl, show (0x31 : Nat) ≠ 0x32 by decide⟩
  rw [hrow, submit_accepts h (by simp [hasOp, hop])]
  unfold State.accept
  rw [hop, hclass]
  exact congrArg _ (if_pos (hop.trans_ne hne))

/-! ## Receives (R234, R235) -/

theorem accepts_recv {p : Pos} (h : s.Accepts p 0x32) : let d := s.slotDesc p
    (dHlen d ≠ 0 → exec (.hrecv p) s = .next ((s.modPort p Port.readSlot).postRecv p d)) ∧
      (dHlen d = 0 → exec (.hrecvWithdraw p) s = .next ((s.modPort p Port.readSlot).withdrawRecvs p d)) := by
  intro d
  have hop : dOpcode d = 0x32 := h.2.1
  have haccept : (s.modPort p Port.readSlot).accept p d = (s.modPort p Port.readSlot).acceptHoist p d := by
    unfold State.accept
    rw [hop]
    rfl
  have hhoist : (s.modPort p Port.readSlot).acceptHoist p d =
      if dHlen d = 0 then (s.modPort p Port.readSlot).withdrawRecvs p d else (s.modPort p Port.readSlot).postRecv p d := if_neg (not_not_intro hop)
  refine ⟨fun hlen => ?_, fun hlen => ?_⟩
  · rw [exec_hrecv, execHrecv, submit_accepts h (by simp [hasOp, hop, d, hlen]), haccept, hhoist, if_neg hlen]
  · rw [exec_hrecvWithdraw, execHrecvWithdraw, submit_accepts h (by simp [hasOp, hop, d, hlen]), haccept, hhoist, if_pos hlen]

/-- A receive is one of an endpoint on a descriptor's channel. -/
def Recv.isOf (p : Nat) (d : Desc) (r : Recv) : Bool := r.pos == p && r.chan == dHchan d

/-- The withdrawal that a descriptor asks for: the receives that it takes, and the deliveries that come first. -/
def State.withdrawal (s : State) (p : Nat) (d : Desc) : Withdraw :=
  { pos := p, desc := d, gone := s.ops.recvs.filter (Recv.isOf p d), first := (s.ops.delivs.filter (fun x => x.recv.isOf p d)).map (·.id) }

/-- The state without the receives of a withdrawal. -/
def State.withoutRecvs (s : State) (p : Nat) (d : Desc) : State :=
  { s with ops := { s.ops with recvs := s.ops.recvs.filter (fun r => !r.isOf p d) } }

theorem withdrawRecvs_now (h : (s.withdrawal p d).first = []) : s.withdrawRecvs p d = (s.withoutRecvs p d).endWithdraw (s.withdrawal p d) :=
  if_pos (List.isEmpty_iff.mpr h)

theorem withdrawRecvs_later (h : (s.withdrawal p d).first ≠ []) : s.withdrawRecvs p d = { s with ops := { s.ops with
    recvs := s.ops.recvs.filter (fun r => !r.isOf p d), withdraws := s.ops.withdraws ++ [s.withdrawal p d] } } :=
  if_neg (by rw [List.isEmpty_iff]; exact h)

end HoistDescriptors

/-- Settles O8: a send by whether a target is left and whether it turns at the chip root, its flits port by port, a withdrawal by whether a
message is committed. -/
theorem hoistDescriptorsAreAccepted : Obligations.HoistDescriptorsAreAccepted := by
  unfold Obligations.HoistDescriptorsAreAccepted
  refine ⟨fun s p hs r hr hacc => ?_, fun s x l hs hany => ?_, fun s p hs hacc => ?_⟩
  · intro d old targets
    have hexec := accepts_send hr hacc
    have hleft : (s.modPort p Port.readSlot).targetsLeft p d = targets := targetsLeft_modPort
    have hread : (s.modPort p Port.readSlot).port p = (s.port p).readSlot := port_modPort_same hs
    have hs' : (s.modPort p Port.readSlot).Sound := modPort_sound hs
    refine ⟨_, hexec, ?_⟩
    by_cases htargets : targets = []
    · obtain ⟨hport, honly⟩ := startSend_completes hs' htargets
      generalize (s.modPort p Port.readSlot).startSend p d = t at hport honly ⊢
      rw [hread] at hport
      refine ⟨?_, ?_, fun h => absurd htargets h, fun _ => ⟨?_, ?_⟩, ?_, ?_, ?_, ?_⟩
      · rw [honly]
        rfl
      · rw [hport]
        rfl
      · rw [hport]
        exact List.getLast?_concat
      all_goals
        rw [honly]
        rfl
    · have htries := startSend_tries (s := s.modPort p Port.readSlot) htargets
      have hbegun := newSend_begun (s.modPort p Port.readSlot) p d
      generalize (s.modPort p Port.readSlot).newSend p d = x at htries hbegun
      generalize (s.modPort p Port.readSlot).startSend p d = t at htries ⊢
      obtain ⟨honly, hnext, b, hsent, hstraight, hheld, hturns⟩ := htries
      have hturned : ∀ c, x.turns = c → x.turned = !c := fun c hc => hc ▸ hbegun.turned
      have hports : t.ports = (s.modPort p Port.readSlot).ports := by
        rw [honly]
        rfl
      rw [hbegun.chan, hbegun.pos] at hheld hturns
      refine ⟨hnext, ?_, fun _ => ⟨⟨_, hsent, hbegun.id, hbegun.pos, hbegun.desc, hbegun.targets.trans hleft, hbegun.origin, hbegun.hseq,
        hbegun.data, hbegun.chan, hbegun.limit.trans (congrArg (List.any · _) hleft), fun h => hstraight (hturned _ h), fun h => hheld (hturned _ h),
        fun h hport hwait hroom => ?_⟩, ?_⟩, fun h => absurd h htargets, ?_, ?_, ?_, ?_⟩
      · rw [port_congr hports, hread]
        rfl
      · obtain ⟨hb, hlink⟩ := hturns (hturned _ h) hport hwait hroom
        exact ⟨hb, hlink.trans ((actsOnLink_spreadSend x).congr ((s.modPort p Port.readSlot).withSend x) s rfl rfl)⟩
      all_goals
        rw [honly]
        rfl
  · intro d chips away behind
    refine ⟨fun g hop hg => ?_, fun hop => ?_⟩
    · rw [spreadSend_group hany hop hg]
      exact lnk_spreadGroup hs _ g x.msg l
    · rw [spreadSend_list hany hop, lnk_spreadList hs]
      change ((if behind ≠ [] then _ else _ : Link).tx2 = _) ∧ ((if behind ≠ [] then _ else _ : Link).tx3 = _)
      by_cases hbehind : behind = []
      · simp [hbehind]
      · rcases treeVc_cases s l with hvc | hvc <;> simp [hbehind, hvc, addFlits_tx2, addFlits_tx3] <;> rfl
  · intro d mine first kept
    obtain ⟨hpost, hwithdraw⟩ := accepts_recv hacc
    have hread : (s.modPort p Port.readSlot).port p = (s.port p).readSlot := port_modPort_same hs
    refine ⟨fun hlen => ⟨_, hpost hlen, hread, _, rfl, rfl, rfl, rfl, rfl, rfl, rfl, rfl⟩, fun hlen hfirst => ⟨_, hwithdraw hlen, ?_⟩,
      fun hlen hfirst => ⟨_, hwithdraw hlen, ?_⟩⟩
    · rw [withdrawRecvs_now (s := s.modPort p Port.readSlot) hfirst]
      have hsound : ((s.modPort p Port.readSlot).withoutRecvs p d).Sound := modPort_sound hs
      have hport := port_endWithdraw hsound ((s.modPort p Port.readSlot).withdrawal p d)
      refine ⟨(actsOnPorts_endWithdraw _).only _, ?_⟩
      have hsame : ((s.modPort p Port.readSlot).withoutRecvs p d).port ((s.modPort p Port.readSlot).withdrawal p d).pos =
          (s.port p).readSlot := hread
      rw [hsame] at hport
      rw [List.append_assoc]
      exact hport
    · rw [withdrawRecvs_later (s := s.modPort p Port.readSlot) hfirst]
      exact ⟨hread, rfl⟩

end Sys2Proof.Machine
